-- ==== Sys2Proof/Word.lean ====
section
/-! DEFINITION. The plainest data of the model: bytes, 32-bit register words, and sparse tables.

A register field is held as a natural number below `2 ^ width` (the write operation of
`Sys2Proof/Machine/Ops.lean` truncates it); a byte and a whole register word are bit vectors. -/

namespace Sys2Proof

/-- One byte. -/
abbrev Byte := BitVec 8

/-- One 32-bit register or one dword of an NVMe entry (R4: registers are 32 bits wide). -/
abbrev Word := BitVec 32

/-- A sparse table in one canonical form: keys strictly rising, and no entry that equals what an
unlisted key reads as (the reader of the table names that value). -/
abbrev SMap (α : Type) := List (Nat × α)

/-- The bits `[lo + n - 1 : lo]` of a number. -/
def bitsAt (v lo n : Nat) : Nat := v / 2 ^ lo % 2 ^ n

/-- Bit `i` of a number. -/
def bitAt (v i : Nat) : Bool := v / 2 ^ i % 2 == 1

/-- A Bool as a one-bit number. -/
def b2n (b : Bool) : Nat := if b then 1 else 0

/-- A number read as a signed value of `w` bits in two's complement. -/
def toSigned (w v : Nat) : Int :=
  if v % 2 ^ w < 2 ^ (w - 1) then (v % 2 ^ w : Nat) else ((v % 2 ^ w : Nat) : Int) - (2 ^ w : Nat)

/-- A signed value wrapped to its `w`-bit two's complement pattern. -/
def ofSigned (w : Nat) (x : Int) : Nat := (x % (2 ^ w : Nat)).toNat

end Sys2Proof
end

