-- ==== Sys2Proof/Types.lean ====
section
/-! DEFINITION. The operand types of the commands: who accesses a register, which link event came, what a memory
completion said, where an SRAM error struck, and what the optics and the disc delivered to a decoder. -/

namespace Sys2Proof

/-- Who writes or reads a register: the host through a BAR, or firmware inside the device (R17, R342). -/
inductive Src where
  | host | firmware
  deriving DecidableEq, Repr

/-- The three events that make one PCI Express reset (R312). -/
inductive LinkReset where
  | perst | hotReset | linkDown
  deriving DecidableEq, Repr

/-- The status of a completion the K3216 receives for a read it issued (R305). -/
inductive CplStatus where
  | success | unsupportedRequest | completerAbort | poisoned
  deriving DecidableEq, Repr

/-- Where an uncorrectable SRAM error strikes (R377, Table 12-6). -/
inductive SramSite where
  | steward (c : Fin 16)
  | cle (c : Fin 16)
  | fabric (c : Fin 16)
  | channelBlock (c : Fin 16) (page : Nat)
  | qmgSlot (k : Nat)
  | frontEnd (pair : Nat)
  | securityCore
  | portBlock (page : Nat)
  deriving DecidableEq, Repr

/-- What read the DRAM word that failed correction (Table 12-4). -/
inductive PoisonUse where
  /-- nothing that Table 12-4 names: the scrubber, or a retry store word -/
  | other
  /-- decoded cluster data, or a block in the read path: the command's slot, the LBA and the cluster's PCN -/
  | readBlock (slot lba pcn : Nat)
  /-- a staged block read by a host Read: the command's slot and the staged block -/
  | stagedRead (slot id : Nat)
  /-- a staged block read at cluster assembly -/
  | assembly (id : Nat)
  /-- a map record, by its start LBA -/
  | mapRecord (start : Nat)
  /-- the channel firmware's working memory -/
  | firmware
  deriving DecidableEq, Repr

/-- What one cluster position of a disc reads as (R43, R47, R49, R259). -/
inductive PosRead where
  | blank
  | scar
  /-- recorded, without a valid descriptor after the ladder -/
  | unreadable
  /-- a MAP cluster: sequence number, checkpoint number, part index, part count, and its records (start, length, PCN, entry index,
  flags, generation) -/
  | map (seq num part count : Nat) (recs : List (List Nat))
  /-- a DATA cluster: sequence number, group identifier, group position, Supersedes, the LBAs of its entries, and the entries that
  are lost -/
  | data (seq gid pos supersedes : Nat) (lbas : List Nat) (lost : List Nat)
  | pad (seq : Nat)
  deriving DecidableEq, Repr

/-- What a recorded cluster position of the anchor zone reads as. -/
structure AreaRead where
  pcn : Nat
  /-- the last row in which it holds a recorded frame -/
  row : Nat
  /-- its payload and descriptor bytes, where the ladder recovers them -/
  data : Option (List Byte × List Byte)
  deriving DecidableEq, Repr

/-- What a recorded cluster position of the user area reads as. -/
structure UserRead where
  pcn  : Nat
  /-- the last row in which it holds a recorded frame -/
  row  : Nat
  read : PosRead
  deriving DecidableEq, Repr

/-- The disc in the drive as a mount finds it: the positions of its areas that hold a recorded frame, in PCN order (R49 to R55, R236, R257 to
R261). -/
structure DiscScan where
  ident : List AreaRead
  cal   : List AreaRead
  anch  : List AreaRead
  user  : List UserRead
  deriving DecidableEq, Repr

/-- What the power stage and the back-EMF observer deliver in a PWM period (R191 to R195, R205). -/
structure PwmObs where
  /-- the VBUS sample at the start of the period, in 10 mV -/
  vbus  : Nat
  /-- the shunt current at the sampling instants of the two active vectors, in mA (R193) -/
  shunt : Int × Int
  /-- the shunt sample at the middle of the period, in mA: chopper current -/
  mid   : Int
  /-- the observer's angle, in 1/65,536 turn -/
  theta : Nat
  /-- the observer's electrical speed, in 1/16 rpm, and the error of its phase-locked loop, in 1/65,536 turn (R195) -/
  speed : Int
  pllErr : Int
  /-- the voltages at Cnn_EMU, Cnn_EMV and Cnn_EMW, in mV -/
  emf   : Int × Int × Int
  /-- the level of Cnn_PSF_N is low -/
  psfLow : Bool
  deriving DecidableEq, Repr

end Sys2Proof
end

