-- ==== Sys2Proof/Syntax.lean ====
section
/-! DEFINITION. The commands of the block: one constructor per row of spec/opcode_table.json, with the row's operands. -/

namespace Sys2Proof

/-- A command: a write or read of a register, an operation of a bus or protocol, or an event. Each constructor's
docstring names its row of the table and the rule that governs it. Those without operands stand last. -/
inductive Instr where
  /-- CREATE_IO_SUBMISSION_QUEUE (R323) -/
  | createIoSq (k : Nat)
  /-- DELETE_IO_SUBMISSION_QUEUE (R326) -/
  | deleteIoSq (k : Nat)
  /-- CREATE_IO_COMPLETION_QUEUE (R323) -/
  | createIoCq (k : Nat)
  /-- DELETE_IO_COMPLETION_QUEUE (R326) -/
  | deleteIoCq (k : Nat)
  /-- GET_LOG_PAGE (R358) -/
  | getLogPage (k : Nat)
  /-- IDENTIFY (R328) -/
  | identify (k : Nat)
  /-- ABORT (R350) -/
  | abort (k : Nat)
  /-- SET_FEATURES (R361) -/
  | setFeatures (k : Nat) (data : List Byte)
  /-- GET_FEATURES (R361) -/
  | getFeatures (k : Nat)
  /-- ASYNCHRONOUS_EVENT_REQUEST (R357) -/
  | asyncEventRequest (k : Nat)
  /-- FIRMWARE_IMAGE_DOWNLOAD (R417) -/
  | firmwareDownload (k : Nat) (data : List Byte)
  /-- FIRMWARE_COMMIT_REPLACE (R418) -/
  | firmwareCommitReplace (k : Nat)
  /-- FIRMWARE_COMMIT_REPLACE_ACTIVATE (R418) -/
  | firmwareCommitReplaceActivate (k : Nat)
  /-- FIRMWARE_COMMIT_ACTIVATE_AT_RESET (R418) -/
  | firmwareCommitAtReset (k : Nat)
  /-- FIRMWARE_COMMIT_ACTIVATE_NOW (R355) -/
  | firmwareCommitNow (k : Nat)
  /-- MOUNT (R339) -/
  | mount (k : Nat) (scan : DiscScan)
  /-- MOUNT_COMPLETE (R257) -/
  | mountComplete (c : Fin 16) (ms : Nat)
  /-- UNMOUNT (R340) -/
  | unmount (k : Nat)
  /-- SEAL_DISC (R341) -/
  | sealDisc (k : Nat)
  /-- CHANNEL_SERVICE_ISOLATE (R342) -/
  | serviceIsolate (k : Nat)
  /-- CHANNEL_SERVICE_POWER_DOWN (R342) -/
  | servicePowerDown (k : Nat)
  /-- CHANNEL_SERVICE_RESTORE (R342) -/
  | serviceRestore (k : Nat)
  /-- CHANNEL_SERVICE_RELOAD (R342) -/
  | serviceReload (k : Nat)
  /-- CALIBRATE_LOAD_SET (R343) -/
  | calLoadSet (k : Nat) (data : List Byte)
  /-- CALIBRATE_CLEAR_SET (R343) -/
  | calClearSet (k : Nat)
  /-- CALIBRATE_POWER_RUN (R343) -/
  | calPowerRun (k : Nat)
  /-- CALIBRATE_SERVO_SWEEP (R343) -/
  | calServoSweep (k : Nat)
  /-- CALIBRATE_READ_BACK (R343) -/
  | calReadBack (k : Nat)
  /-- KEY_MANAGEMENT_LOAD (R422) -/
  | keyLoad (k : Nat) (data : List Byte)
  /-- KEY_MANAGEMENT_DISCARD (R423) -/
  | keyDiscard (k : Nat)
  /-- KEY_MANAGEMENT_REWRAP (R426) -/
  | keyRewrap (k : Nat)
  /-- KEY_MANAGEMENT_LIST (R423) -/
  | keyList (k : Nat)
  /-- FLUSH (R335) -/
  | flush (k : Nat)
  /-- WRITE (R331) -/
  | write (k : Nat)
  /-- READ (R333) -/
  | read (k : Nat)
  /-- VERIFY (R334) -/
  | verify (k : Nat)
  /-- TRANSFORM_COMPRESS (R291) -/
  | transformCompress (k : Nat) (data : List Byte)
  /-- TRANSFORM_DECOMPRESS (R291) -/
  | transformDecompress (k : Nat) (data : List Byte)
  /-- TRANSFORM_RESUME (R346) -/
  | transformResume (k : Nat) (data : List Byte)
  /-- PIN_RANGE_PIN (R347) -/
  | pinRangePin (k : Nat)
  /-- PIN_RANGE_UNPIN (R347) -/
  | pinRangeUnpin (k : Nat)
  /-- MEDIA_PROBE (R348) -/
  | mediaProbe (k : Nat)
  /-- SUBMISSION_QUEUE_DOORBELL (R324) -/
  | sqDoorbell (qid tail : Nat)
  /-- COMMAND_FETCH (R324) -/
  | commandFetch (qid k : Nat) (entry : List Word) (lists : List Nat)
  /-- COMPLETION_QUEUE_DOORBELL (R448) -/
  | cqDoorbell (qid head : Nat)
  /-- COMPLETION_RECORD (R352) -/
  | completionRecord (k : Nat)
  /-- CANCEL_REQUEST (R351) -/
  | cancelRequest (k : Nat)
  /-- CANCEL_ANSWER (R352) -/
  | cancelAnswer (k : Nat)
  /-- MEDIA_OPERATION_ADMIT (R324) -/
  | mediaOperationAdmit (k : Nat)
  /-- MEDIA_OPERATION_SELECT (R336) -/
  | mediaOperationSelect (c : Fin 16) (least : Nat)
  /-- OPERATION_AGED (R336) -/
  | operationAged (c : Fin 16) (op : Nat)
  /-- READ_PREEMPT (R337) -/
  | readPreempt (c : Fin 16) (op : Nat)
  /-- COMMAND_TIME_LIMIT (R449) -/
  | commandTimeLimit (k : Nat)
  /-- LINK_TRAINING (R296) -/
  | linkTraining (partnerWidths partnerRates : List Nat) (workingLanes : Nat) (reversed : Bool)
  /-- PERST (R312) -/
  | perst (cause : LinkReset)
  /-- CONFIGURATION_REQUEST (R386) -/
  | configurationRequest (off : Nat) (be : BitVec 4) (wr : Option Word)
  /-- READ_COMPLETION (R304) -/
  | readCompletion (tag : Nat) (status : CplStatus) (data : List Byte)
  /-- COMPLETION_TIMEOUT (R305) -/
  | completionTimeout (tag : Nat)
  /-- WINDOW_WRITE (R317) -/
  | windowWrite (ofs : Nat) (data : List (Option Byte))
  /-- WINDOW_READ (R315) -/
  | windowRead (ofs len : Nat)
  /-- MSIX_VECTOR_UNMASK (R301) -/
  | msixVectorUnmask (v : Nat)
  /-- REGISTER_WRITE (R7) -/
  | registerWrite (src : Src) (bar addr size : Nat) (value : BitVec 64)
  /-- SWAP_REQUEST (R468) -/
  | swapRequest (src : Src) (rg page when_ : Nat)
  /-- GROUP_SWAP_REQUEST (R470) -/
  | groupSwapRequest (src : Src) (c : Fin 16) (when_ : Nat)
  /-- SWAP_CANCEL (R470) -/
  | swapCancel (src : Src) (rg page : Nat)
  /-- FLYSHEET_SWAP (R468) -/
  | flysheetSwap (rg page : Nat)
  /-- FLYSHEET_RELOAD_DONE (R469) -/
  | flysheetReloadDone (rg page : Nat)
  /-- BLOCK_SOFT_RESET (R399) -/
  | blockSoftReset (src : Src) (rg page : Nat)
  /-- BLOCK_QUIESCE (R465) -/
  | blockQuiesce (src : Src) (rg page : Nat)
  /-- BLOCK_DISABLE (R465) -/
  | blockDisable (src : Src) (rg page : Nat)
  /-- BLOCK_RESUME (R465) -/
  | blockResume (src : Src) (rg page : Nat)
  /-- IRQ_STATUS_CLEAR (R466) -/
  | irqStatusClear (src : Src) (rg page : Nat) (bits : Word)
  /-- IRQ_TEST (R464) -/
  | irqTest (src : Src) (rg page : Nat) (bits : Word)
  /-- PWR_WAKE (R392) -/
  | pwrWake (mask : Nat)
  /-- BIVOUAC_ENTRY (R390) -/
  | bivouacEntry (c : Fin 16)
  /-- WAKE_COMPLETE (R392) -/
  | wakeComplete (c : Fin 16)
  /-- DISC_PRESENT_CHANGE (R391) -/
  | discPresentChange (c : Fin 16) (level : Bool)
  /-- LOAD_REQUEST_CHANGE (R391) -/
  | loadRequestChange (c : Fin 16) (level : Bool)
  /-- POWER_EARLY_WARNING (R384) -/
  | powerEarlyWarning (rail : Option (Fin 6))
  /-- BROWNOUT (R385) -/
  | brownout (rail : Fin 6)
  /-- PORST_DEASSERT (R386) -/
  | porstDeassert (discp ldrq : Nat)
  /-- CHANNEL_POWER_UP (R386) -/
  | channelPowerUp (c : Fin 16)
  /-- POWER_ON_FILL_DONE (R370) -/
  | powerOnFillDone (c : Fin 16) (ms : Nat)
  /-- TRAINING_FAILURE (R371) -/
  | trainingFailure (c : Fin 16)
  /-- CHANNEL_PLL_LOSS (R397) -/
  | channelPllLoss (c : Fin 16)
  /-- THERMAL_SAMPLE (R401) -/
  | thermalSample (tPort tA tB : Int)
  /-- STEWARD_WATCHDOG (R400) -/
  | stewardWatchdog (c : Fin 16)
  /-- STANDBY_READY (R447) -/
  | standbyReady (pass : Bool)
  /-- SRAM_UNCORRECTABLE (R377) -/
  | sramUncorrectable (loc : SramSite)
  /-- SRAM_CORRECTABLE (R377) -/
  | sramCorrectable (rg page : Nat)
  /-- REGISTER_FILE_PARITY (R377) -/
  | registerFileParity (rg page off : Nat) (fly : Bool)
  /-- FLIT_REPLAY (R8) -/
  | flitReplay (die : Fin 2) (ok : Bool)
  /-- LINK_RETRAIN (R440) -/
  | linkRetrain (die : Fin 2)
  /-- LINK_RETRAIN_DONE (R440) -/
  | linkRetrainDone (die : Fin 2) (ok : Bool)
  /-- LANE_REPAIR (R9) -/
  | laneRepair (die : Fin 2) (dir : Fin 2)
  /-- PARKING_DONE (R442) -/
  | parkingDone (c : Fin 16)
  /-- COAST_WAIT_EXPIRY (R473) -/
  | coastWaitExpiry (c : Fin 16)
  /-- DEBUG_CHALLENGE (R431) -/
  | debugChallenge (src : Src)
  /-- RESP (R432) -/
  | resp (response : List Byte)
  /-- BYPASS (R496) -/
  | bypass (code : BitVec 4) (tdi : Bool)
  /-- SMB_UNKNOWN_CODE (R478) -/
  | smbUnknownCode (code : Byte) (len : Nat)
  /-- SMB_WRITE (R478) -/
  | smbWrite (code : Byte) (data : List Byte)
  /-- ECC_CORRECTED (R368) -/
  | eccCorrected (c : Fin 16) (word : Nat) (rewritten : Bool)
  /-- ECC_POISON (R372) -/
  | eccPoison (c : Fin 16) (word : Nat) (use : PoisonUse)
  /-- BUCKET_LEAK (R369) -/
  | bucketLeak (c : Fin 16)
  /-- OSCILLATOR_CHECK (R364) -/
  | oscillatorCheck (c : Fin 16) (drift : Nat)
  /-- DRAM_RETRAIN (R364) -/
  | dramRetrain (src : Src) (c : Fin 16)
  /-- MR4_READ (R364) -/
  | mr4Read (c : Fin 16) (rate : Nat) (above4x : Bool)
  /-- ZQ_CALIBRATION (R363) -/
  | zqCalibration (c : Fin 16)
  /-- SCRUB_GO (R375) -/
  | scrubGo (src : Src) (c : Fin 16)
  /-- SCRUB_STOP (R376) -/
  | scrubStop (src : Src) (c : Fin 16)
  /-- SCRUB_PASS_END (R376) -/
  | scrubPassEnd (c : Fin 16) (corrected : List Nat) (stoppedAt : Nat)
  /-- CHECKPOINT_DUE (R254) -/
  | checkpointDue (c : Fin 16)
  /-- CHECKPOINT_NOW (R254) -/
  | checkpointNow (src : Src) (c : Fin 16)
  /-- CHECKPOINT_DONE (R255) -/
  | checkpointDone (c : Fin 16)
  /-- MAP_PROBE (R246) -/
  | mapProbe (src : Src) (c : Fin 16) (lba : Nat)
  /-- MISS_WALK_RETURN (R266) -/
  | missWalkReturn (c : Fin 16) (granule : Nat)
  /-- EVICTION_WRITEBACK (R265) -/
  | evictionWriteback (c : Fin 16)
  /-- LTC_RANGE_INVALIDATION (R268) -/
  | ltcRangeInvalidation (src : Src) (c : Fin 16)
  /-- LTC_ADDRESS_INVALIDATION (R269) -/
  | ltcAddressInvalidation (src : Src) (c : Fin 16)
  /-- WRITE_STAGED (R20) -/
  | writeStaged (k : Nat)
  /-- WRITE_BUFFER_WAIT_END (R21) -/
  | writeBufferWaitEnd (k : Nat)
  /-- CLUSTER_ASSEMBLY (R107) -/
  | clusterAssembly (c : Fin 16)
  /-- ASSEMBLY_IDLE_TIMEOUT (R110) -/
  | assemblyIdleTimeout (c : Fin 16)
  /-- CLUSTER_COMMITMENT (R112) -/
  | clusterCommitment (c : Fin 16)
  /-- WRITE_SESSION_START (R116) -/
  | writeSessionStart (c : Fin 16)
  /-- WRITE_CLOCK_LOCK (R114) -/
  | writeClockLock (c : Fin 16)
  /-- VERIFY_VERDICT (R132) -/
  | verifyVerdict (c : Fin 16) (signals : List (List Nat))
  /-- WRITE_STOP (R137) -/
  | writeStop (src : Src) (c : Fin 16)
  /-- ORDERLY_STOP (R138) -/
  | orderlyStop (c : Fin 16) (row : Nat)
  /-- OFF_TRACK (R137) -/
  | offTrack (c : Fin 16) (row : Nat)
  /-- DEFOCUS (R137) -/
  | defocus (c : Fin 16) (row : Nat)
  /-- WOBBLE_PLL_UNLOCK (R137) -/
  | wobblePllUnlock (c : Fin 16) (row : Nat)
  /-- ADIP_WORD (R73) -/
  | adipWord (c : Fin 16) (periods : List (List Int))
  /-- ADIP_LOSS (R73) -/
  | adipLoss (c : Fin 16) (row : Nat)
  /-- LASER_TRANSACTION (R126) -/
  | laserTransaction (c : Fin 16) (rx : Word)
  /-- LASER_LINK_ERROR (R126) -/
  | laserLinkError (c : Fin 16) (row : Nat)
  /-- STATUS_POLL (R127) -/
  | statusPoll (c : Fin 16)
  /-- LASER_DRIVER_FAULT (R127) -/
  | laserDriverFault (c : Fin 16) (status : Byte) (row : Nat)
  /-- KILL_LINE_EXTERNAL (R137) -/
  | killLineExternal (c : Fin 16) (row : Nat)
  /-- HOST_LASER_TRANSACTION (R128) -/
  | hostLaserTransaction (src : Src) (c : Fin 16) (rd : Bool) (addr : Nat) (data : Nat)
  /-- READ_LEVEL_WRITE (R149) -/
  | readLevelWrite (src : Src) (c : Fin 16) (beam : Fin 8) (level : Nat)
  /-- LDI_KILL (R129) -/
  | ldiKill (src : Src) (c : Fin 16) (kill : Bool)
  /-- KILL_LATCH_CLEAR (R129) -/
  | killLatchClear (c : Fin 16)
  /-- TEST_AREA_RUN (R142) -/
  | testAreaRun (src : Src) (c : Fin 16)
  /-- TEST_RUN_DONE (R144) -/
  | testRunDone (c : Fin 16) (signals : List (List (List Nat)))
  /-- ZONE_TABLE_FETCH (R63) -/
  | zoneTableFetch (c : Fin 16) (layer zone : Nat)
  /-- FRAME_SYNC (R75) -/
  | frameSync (c : Fin 16) (lane : Fin 8)
  /-- ALIGNMENT_CHOICE (R77) -/
  | alignmentChoice (c : Fin 16) (lane : Fin 8)
  /-- ADAPTIVE_BLOCK_UPDATE (R61) -/
  | adaptiveBlockUpdate (c : Fin 16) (lane : Fin 8) (samples : List (BitVec 7))
  /-- BRAMBLE_FLAG_START (R82) -/
  | brambleFlagStart (c : Fin 16) (lane : Fin 8)
  /-- BRAMBLE_FLAG_END (R82) -/
  | brambleFlagEnd (c : Fin 16) (lane : Fin 8)
  /-- DEF_LONG (R174) -/
  | defLong (c : Fin 16)
  /-- LDPC_DECODE (R85) -/
  | ldpcDecode (c : Fin 16) (core : Fin 8)
  /-- CAPTURE_READ (R91) -/
  | captureRead (c : Fin 16) (pcn : Nat)
  /-- RETRY_STEP (R90) -/
  | retryStep (c : Fin 16) (pcn : Nat)
  /-- RETRY_BUDGET_EXPIRED (R93) -/
  | retryBudgetExpired (c : Fin 16) (pcn : Nat)
  /-- SERVO_SAMPLE (R151) -/
  | servoSample (c : Fin 16) (slot : Fin 7) (sd : List Int)
  /-- SLOT_COMMAND_OFF (R166) -/
  | slotCommandOff (src : Src) (c : Fin 16) (slot : Fin 7)
  /-- SLOT_COMMAND_OPEN (R166) -/
  | slotCommandOpen (src : Src) (c : Fin 16) (slot : Fin 7)
  /-- SLOT_COMMAND_ACQUIRE (R166) -/
  | slotCommandAcquire (src : Src) (c : Fin 16) (slot : Fin 7)
  /-- SLOT_COMMAND_CLOSED (R166) -/
  | slotCommandClosed (src : Src) (c : Fin 16) (slot : Fin 7)
  /-- SLOT_COMMAND_HOLD (R166) -/
  | slotCommandHold (src : Src) (c : Fin 16) (slot : Fin 7)
  /-- COEFFICIENT_WRITE (R169) -/
  | coefficientWrite (src : Src) (c : Fin 16) (slot : Fin 7) (off : Nat) (value : Word)
  /-- TRIM_WRITE (R158) -/
  | trimWrite (src : Src) (c : Fin 16) (slot : Fin 7) (value : Word)
  /-- TGT_WRITE (R158) -/
  | tgtWrite (src : Src) (c : Fin 16) (slot : Fin 7) (value : Word)
  /-- EQ_DATA_WRITE (R99) -/
  | eqDataWrite (src : Src) (c : Fin 16) (value : Word)
  /-- ACQUISITION_CAPTURE (R172) -/
  | acquisitionCapture (c : Fin 16) (slot : Fin 7)
  /-- ACQUISITION_FAILURE (R172) -/
  | acquisitionFailure (c : Fin 16) (slot : Fin 7)
  /-- LOSS (R173) -/
  | loss (c : Fin 16) (slot : Fin 7)
  /-- GUYLINE_ARM (R176) -/
  | guylineArm (c : Fin 16) (slot : Fin 7)
  /-- IMPLAUSIBLE (R176) -/
  | implausible (c : Fin 16) (slot : Fin 7) (row : Nat)
  /-- FF_BIN_END (R163) -/
  | ffBinEnd (c : Fin 16) (slot : Fin 7)
  /-- CLE_FAULT (R184) -/
  | cleFault (c : Fin 16)
  /-- CLE_ENABLE (R165) -/
  | cleEnable (src : Src) (c : Fin 16) (en : Bool)
  /-- LAYER_JUMP (R180) -/
  | layerJump (src : Src) (c : Fin 16) (layer : Nat)
  /-- LAYER_JUMP_TIMEOUT (R181) -/
  | layerJumpTimeout (c : Fin 16)
  /-- LAYER_JUMP_DONE (R180) -/
  | layerJumpDone (c : Fin 16)
  /-- STRAND_JUMP (R183) -/
  | strandJump (src : Src) (c : Fin 16) (strands : BitVec 7)
  /-- STRAND_JUMP_TIMEOUT (R183) -/
  | strandJumpTimeout (c : Fin 16)
  /-- STRAND_JUMP_DONE (R183) -/
  | strandJumpDone (c : Fin 16)
  /-- CALIBRATION_SWEEP (R179) -/
  | calibrationSweep (src : Src) (c : Fin 16)
  /-- SWEEP_DONE (R179) -/
  | sweepDone (c : Fin 16)
  /-- SPINDLE_START (R200) -/
  | spindleStart (src : Src) (c : Fin 16)
  /-- SPINDLE_STOP (R199) -/
  | spindleStop (src : Src) (c : Fin 16)
  /-- SPINDLE_COAST (R199) -/
  | spindleCoast (src : Src) (c : Fin 16)
  /-- SPINDLE_CLEAR_FAULT (R199) -/
  | spindleClearFault (src : Src) (c : Fin 16)
  /-- COMMUTATION_TABLE_WRITE (R190) -/
  | commutationTableWrite (src : Src) (c : Fin 16) (value : BitVec 16)
  /-- PWM_PERIOD (R191) -/
  | pwmPeriod (c : Fin 16) (o : PwmObs)
  /-- CATCH_WINDOW_END (R200) -/
  | catchWindowEnd (c : Fin 16)
  /-- ALIGN_END (R201) -/
  | alignEnd (c : Fin 16)
  /-- OBSERVER_LOCK (R201) -/
  | observerLock (c : Fin 16)
  /-- START_FAIL (R201) -/
  | startFail (c : Fin 16)
  /-- HANDOVER_END (R202) -/
  | handoverEnd (c : Fin 16)
  /-- AT_SPEED (R197) -/
  | atSpeed (c : Fin 16)
  /-- VLIM (R192) -/
  | vlim (c : Fin 16)
  /-- STOPPING_LOW_SPEED (R203) -/
  | stoppingLowSpeed (c : Fin 16)
  /-- STOPPED (R203) -/
  | stopped (c : Fin 16)
  /-- SPEED_GAP (R204) -/
  | speedGap (c : Fin 16) (emf : List (Int × Int × Int))
  /-- CHOP_FAULT (R206) -/
  | chopFault (c : Fin 16)
  /-- OVERVOLTAGE (R207) -/
  | overvoltage (c : Fin 16)
  /-- UNDERVOLTAGE (R207) -/
  | undervoltage (c : Fin 16)
  /-- OVERCURRENT (R207) -/
  | overcurrent (c : Fin 16)
  /-- POWER_STAGE_FAULT (R207) -/
  | powerStageFault (c : Fin 16)
  /-- SAMPLE_LOSS (R194) -/
  | sampleLoss (c : Fin 16) (periods : Nat)
  /-- SLED_MOVE (R213) -/
  | sledMove (src : Src) (c : Fin 16) (first last : Nat)
  /-- SLED_STOP (R216) -/
  | sledStop (src : Src) (c : Fin 16)
  /-- SLED_HOME (R221) -/
  | sledHome (src : Src) (c : Fin 16)
  /-- SLED_ENERGISE (R223) -/
  | sledEnergise (src : Src) (c : Fin 16)
  /-- SLED_RELEASE (R223) -/
  | sledRelease (src : Src) (c : Fin 16)
  /-- SLED_CLEAR_FAULT (R223) -/
  | sledClearFault (src : Src) (c : Fin 16)
  /-- SLED_TICK (R212) -/
  | sledTick (c : Fin 16) (ia ib : Int)
  /-- MOVE_DONE (R217) -/
  | moveDone (c : Fin 16)
  /-- STOP_DONE (R216) -/
  | stopDone (c : Fin 16)
  /-- HOME_SWITCH_EDGE (R221) -/
  | homeSwitchEdge (c : Fin 16) (level : Bool)
  /-- HOME_FAIL (R221) -/
  | homeFail (c : Fin 16)
  /-- SLED_OVERCURRENT (R210) -/
  | sledOvercurrent (c : Fin 16)
  /-- HOLD_CURRENT (R211) -/
  | holdCurrent (c : Fin 16)
  /-- FOLLOW_ENTRY (R220) -/
  | followEntry (c : Fin 16)
  /-- PICKUP_TEMPERATURE_SAMPLE (R228) -/
  | pickupTemperatureSample (c : Fin 16) (codes : List Nat)
  /-- RECOMP_TIMER (R230) -/
  | recompTimer (c : Fin 16)
  /-- CAL_FORCE (R230) -/
  | calForce (src : Src) (c : Fin 16)
  /-- SET_VALID_WRITE (R230) -/
  | setValidWrite (src : Src) (c : Fin 16) (mask : Nat)
  /-- PDELTA_WRITE (R230) -/
  | pdeltaWrite (src : Src) (c : Fin 16) (value : BitVec 16)
  /-- GENERATION_FORMED (R231) -/
  | generationFormed (c : Fin 16)
  /-- GENERATION_APPLY (R233) -/
  | generationApply (c : Fin 16)
  /-- SNAPSHOT (R457) -/
  | snapshot (src : Src) (rg : Nat)
  /-- MM_CLEAR (R454) -/
  | mmClear (src : Src) (rg source : Nat)
  /-- HISTOGRAM_CLEAR (R454) -/
  | histogramClear (src : Src) (rg source : Nat)
  /-- HISTOGRAM_CONFIG_WRITE (R459) -/
  | histogramConfigWrite (src : Src) (rg off : Nat) (value : Word)
  /-- COUNTER_CLEAR (R460) -/
  | counterClear (src : Src) (c : Fin 16) (mask : Nat)
  /-- SAT_CLEAR (R455) -/
  | satClear (src : Src) (c : Fin 16) (mask : Nat)
  /-- COUNTER_SATURATE (R455) -/
  | counterSaturate (c : Fin 16) (idx : Fin 16)
  /-- XTS_SELFTEST (R295) -/
  | xtsSelftest (src : Src) (c : Fin 16)
  /-- REGISTER_READ (R5) -/
  | registerRead (src : Src) (bar addr size : Nat)
  /-- STEWARD_FENCE_REQUEST (R11) -/
  | stewardFenceRequest (c : Fin 16)
  /-- GPIO_EDGE (R477) -/
  | gpioEdge (pin : Fin 16) (level : Bool)
  /-- WOBBLE_PLL_LOCK (R114) -/
  | wobblePllLock (c : Fin 16) (hz : Nat)
  /-- COALESCING_TIME_EXPIRY (R361) -/
  | coalescingTimeExpiry (v : Nat)
  /-- CHANNEL_IMAGE_LOADED (R420) -/
  | channelImageLoaded (c : Fin 16) (ok : Bool)
  /-- CONTROLLER_ENABLE (R313) -/
  | controllerEnable
  /-- CONTROLLER_RESET (R353) -/
  | controllerReset
  /-- NORMAL_SHUTDOWN (R354) -/
  | normalShutdown
  /-- SHUTDOWN_DEADLINE (R354) -/
  | shutdownDeadline
  /-- ABRUPT_SHUTDOWN (R354) -/
  | abruptShutdown
  /-- PERST_DEASSERT (R313) -/
  | perstDeassert
  /-- FUNCTION_LEVEL_RESET (R311) -/
  | functionLevelReset
  /-- FLR_COMPLETE (R311) -/
  | flrComplete
  /-- BUS_MASTER_ENABLE_CLEAR (R309) -/
  | busMasterEnableClear
  /-- BUS_MASTER_ENABLE_SET (R310) -/
  | busMasterEnableSet
  /-- BME_EXPIRED (R310) -/
  | bmeExpired
  /-- EARLY_WARNING_END (R384) -/
  | earlyWarningEnd
  /-- PORST_ASSERT (R383) -/
  | porstAssert
  /-- BOOT_VERIFY (R414) -/
  | bootVerify
  /-- PORT_PLL_LOSS (R397) -/
  | portPllLoss
  /-- REFERENCE_LOSS (R397) -/
  | referenceLoss
  /-- XO_STOP (R396) -/
  | xoStop
  /-- THERMAL_TRIP (R403) -/
  | thermalTrip
  /-- FRONT_END_WATCHDOG (R400) -/
  | frontEndWatchdog
  /-- SECURITY_CORE_WATCHDOG (R400) -/
  | securityCoreWatchdog
  /-- LOCKSTEP_MISMATCH (R445) -/
  | lockstepMismatch
  /-- TAMPER_ASSERT (R434) -/
  | tamperAssert
  /-- CHALLENGE_EXPIRY (R431) -/
  | challengeExpiry
  /-- DBGEN_FALL (R433) -/
  | dbgenFall
  /-- CHAL (R496) -/
  | chal
  /-- STATE (R496) -/
  | state
  /-- SMB_VENDOR_ID (R478) -/
  | smbVendorId
  /-- SMB_DEVICE_ID (R478) -/
  | smbDeviceId
  /-- SMB_SILICON_REVISION (R478) -/
  | smbSiliconRevision
  /-- SMB_STATUS (R479) -/
  | smbStatus
  /-- SMB_COMPOSITE_TEMPERATURE (R478) -/
  | smbCompositeTemperature
  /-- SMB_THERMAL_LEVEL (R478) -/
  | smbThermalLevel
  /-- SMB_FENCES_CLOSED (R478) -/
  | smbFencesClosed
  /-- SMB_CHANNELS_IN_BIVOUAC (R478) -/
  | smbChannelsInBivouac
  /-- SMB_CHANNELS_MOUNTED (R478) -/
  | smbChannelsMounted
  /-- SMB_DISC_PRESENT (R478) -/
  | smbDiscPresent
  /-- SMB_BOOT (R478) -/
  | smbBoot
  /-- SMB_RESET_CAUSE (R478) -/
  | smbResetCause
  /-- SMB_FRONT_END (R478) -/
  | smbFrontEnd
  /-- SMB_BUNDLE_VERSION (R478) -/
  | smbBundleVersion
  /-- SMB_SERIAL_NUMBER (R478) -/
  | smbSerialNumber
  /-- SMB_CLOCK_LOW_TIMEOUT (R478) -/
  | smbClockLowTimeout
  /-- TAMPER_RELEASE (R435) -/
  | tamperRelease
  /-- DBGEN_RISE (R431) -/
  | dbgenRise
  /-- L1_2_EXIT (R396) -/
  | l12Exit
  deriving DecidableEq, Repr

end Sys2Proof
end

