-- ==== Sys2Proof/Config.lean ====
section
/-! DEFINITION. What a device fixes (fuses, identity) and what the spec leaves free. Every name here is an opaque constant
with no body: no proof can see its value, and a claim holds whatever it is. A free value that must differ from
use to use is a function of the counter `State.free`. -/

namespace Sys2Proof.Config

/-- The Device Serial Number from fuses (Table 10-1, Table 16-9). -/
opaque dsn : BitVec 64

/-- Fused hash of signing key `k`, 48 bytes as one number, first byte most significant (R413). -/
opaque keyHash : Nat → Nat

/-- Whether signing key `k` is fused as revoked (R413). -/
opaque keyRevoked : Nat → Bool

/-- Fused hash of the debug authority public key, 48 bytes (R431). -/
opaque debugKeyHash : Nat

/-- The debug authority public key the security core checks responses with, 97 bytes (R431). -/
opaque debugKey : List Byte

/-- The minimum SVN fused before the first activation this model sees (R413, R419). -/
opaque fusedSvn : BitVec 6

/-- The contents of the boot flash as the board maker programmed it (R410, R412). -/
opaque flash : Nat → Byte

/-- The bytes the security core's random bit generator yields, by draw number (R426, R431). -/
opaque random : Nat → Byte

/-- A value the spec leaves open, by draw number (`State.free`). -/
opaque freeValue : Nat → Nat

/-- The raw DEFLATE stream the device makes of a block under its settings (R279: a fixed function of the input for given settings,
otherwise not specified). -/
opaque deflate : Nat → List Byte → List Byte

/-- The interpolator of R67: the value between four corrected samples in order, at a fraction of 2^-16 of a sample after the second of
them. R67 says that the lane interpolates, not by which formula. -/
opaque interpolate : List Int → Nat → Int

/-- The phase error R67's three-level slicer takes from the equaliser output before and now, in 2^-32 of a channel bit. R67 gives
neither the slicer's levels nor the formula. -/
opaque timingError : Int → Int → Int

/-- The branch metric of R71's detector for an equalised sample, the target of the branch and the a-priori LLR that favours it. R71
and R87 give no unit of the metric. -/
opaque branchMetric : Int → Int → Int → Int

/-- What a sled bridge applies for the output of its phase's PI controller. R210 gives the controller's gains in Q4.12 of no stated
scale. -/
opaque sledBridge : Int → Int

/-- The temperature, in 1/16 °C, that converter code 0 of a pickup thermistor gives where its range takes the code in: the
characteristic of R490 gives a thermistor of no resistance no temperature. -/
opaque thermistorShort : Int

end Sys2Proof.Config
end

