-- ==== Sys2Proof/Machine/Mech.lean ====
section
/-! DEFINITION. The plain data behind a channel's control law engine, spindle, sled and calibration block (chapters 5 to 7) that no
register shows. -/

namespace Sys2Proof.Machine
open Sys2Proof

/-! The control law engine (chapter 5). Signals are integers in units of 2^-21 (Q2.21), accumulators in units of 2^-32 (R156). -/

/-- One loop slot beyond its registers (R156 to R176). M in force stands in `MANUAL`, e, e_f, SUM, the output and the Guyline count in
their own registers. -/
structure SlotSt where
  /-- samples computed since the engine started -/
  n       : Nat
  /-- the decimated inputs summed over the slot's own period so far, and their number (R152) -/
  inSum   : List Int
  inN     : Nat
  /-- 384 kHz periods since the slot's own sample, and the code at its actuator output (R154) -/
  since   : Nat
  act     : Int
  /-- the command written since the previous sample (R168) -/
  cmd     : Option Nat
  /-- integrator, accumulator width -/
  integ   : Int
  /-- s1 and s2 of each biquad section, accumulator width -/
  bq      : List (Int × Int)
  /-- the last mixed measurement m -/
  m       : Int
  /-- target offset in force -/
  tgt     : Int
  /-- e_f of the sample before the last -/
  efPrev  : Int
  /-- the output of the sample before the last -/
  outPrev : Int
  /-- the direction in which the last output was held at a limit: 1, -1 or 0 (R161) -/
  held    : Int
  /-- H of HOLD, and of a defect hold -/
  hold    : Int
  /-- FF at the last sample, and the part of it the last output contained -/
  ff      : Int
  ffOut   : Int
  /-- the weight w, in 1/65,536 of 1, and the mechanical angle it was last moved at -/
  w       : Nat
  angle   : Nat
  /-- v of the last sample -/
  v       : Int
  /-- the runout bin being accumulated: the sum of v, its samples, and whether no condition of R163 has changed in it -/
  binSum  : Int
  binN    : Nat
  binOk   : Bool
  /-- Guyline observer (R175) -/
  phat    : Int
  vhat    : Int
  dhat    : Int
  /-- samples in CLOSED, and samples in succession below LOSS_THR -/
  closedN : Nat
  lossN   : Nat
  /-- samples in succession beyond the stop offset (Table 4-7) -/
  offN    : Nat
  /-- acquisition: reversals, qualifying crossings, samples, M at entry, and whether M moves toward ACQ_LO (R172) -/
  acqRev  : Nat
  acqHits : Nat
  acqN    : Nat
  acqM    : Int
  acqDown : Bool
  /-- squares of e summed over the revolution so far, and their number (Table 15-10) -/
  sqSum   : Nat
  sqN     : Nat
  deriving DecidableEq, Repr

/-- A slot in OFF with nothing behind it. -/
def SlotSt.off : SlotSt :=
  { n := 0, inSum := List.replicate 8 0, inN := 0, since := 0, act := 0, cmd := none, integ := 0, bq := List.replicate 8 (0, 0), m := 0, tgt := 0, efPrev := 0, outPrev := 0, held := 0, hold := 0,
    ff := 0, ffOut := 0, w := 0, angle := 0, v := 0, binSum := 0, binN := 0, binOk := false, phat := 0, vhat := 0, dhat := 0,
    closedN := 0, lossN := 0, offN := 0, acqRev := 0, acqHits := 0, acqN := 0, acqM := 0, acqDown := false,
    sqSum := 0, sqN := 0 }

/-- Where a single jump stands (R180). -/
inductive JumpStage where
  | kick | coast | brake
  /-- after the last jump, until the FOC Guyline is armed and SAC has settled -/
  | settle
  deriving DecidableEq, Repr

/-- A layer jump or a strand jump under way (R180 to R183). -/
structure Jump where
  /-- table: 0 FOC_UP, 1 FOC_DN, 2 TRK_OUT, 3 TRK_IN -/
  t      : Nat
  /-- the target layer, or the number of strands to cross -/
  target : Nat
  /-- the layer FOC is on -/
  here   : Nat
  stage  : JumpStage
  /-- the segment running, and samples it has run -/
  seg    : Nat
  ran    : Nat
  m0     : Int
  /-- samples since the last kick segment -/
  coast  : Nat
  /-- zero crossings since the kick -/
  zeros  : Nat
  deriving DecidableEq, Repr

/-- A calibration sweep under way (R179). -/
structure Sweep where
  slot  : Nat
  /-- the Calibrate command it runs for, and the slot's state before it (R343) -/
  cmd   : Option (Nat × Nat)
  /-- M before the sweep -/
  m0    : Int
  /-- the point held, samples of its dwell, and the sums of e and SUM over the second half so far -/
  point : Nat
  k     : Nat
  sumE  : Int
  sumS  : Int
  cnt   : Nat
  deriving DecidableEq, Repr

/-- What channel firmware does to bring the beams back onto their strands (Tables 5-5, 5-7 and 5-9). `layer` is the layer wanted. -/
inductive Regain where
  | idle
  /-- focus acquisition, with the tries begun -/
  | focus (tries layer : Nat)
  /-- TRK has been commanded to ACQUIRE -/
  | pull (layer : Nat)
  /-- TRK is armed: the ADIP address decides -/
  | adip (layer : Nat)
  /-- a strand jump or a layer jump runs -/
  | jump (layer : Nat)
  deriving DecidableEq, Repr

/-- A command channel firmware gives a slot after some samples of it (Table 5-5). -/
structure Due where
  slot : Nat
  left : Nat
  dest : Nat
  deriving DecidableEq, Repr

/-- The engine of a channel. -/
structure Servo where
  slots  : Vector SlotSt 7
  /-- whether FOC and TRK have been computed in the present 384 kHz period -/
  focDone : Bool
  trkDone : Bool
  /-- pages, CHN for a group, whose pending swap has reached its boundary and waits for a slot's sample (R170) -/
  reached : List Nat
  /-- recoveries after IMPLAUSIBLE (Table 5-5): each slot with the time of its last trip, commands to come, the strand search, and
  whether the spindle is to be started again (R209) -/
  trips   : List (Nat × Nat)
  due     : List Due
  regain  : Regain
  respin  : Bool
  /-- 384 kHz samples the defect hold in force has lasted (R174) -/
  defect : Option Nat
  /-- a hold was ended by DEF_MAX, and the flagged lanes have not fallen below MIN_LANES since -/
  defOver : Bool
  jump   : Option Jump
  tjump  : Option Jump
  sweep  : Option Sweep
  deriving DecidableEq, Repr

/-- The engine at reset. -/
def Servo.off : Servo :=
  { slots := Vector.replicate 7 SlotSt.off, focDone := false, trkDone := false, reached := [], trips := [], due := [], regain := .idle,
    respin := false, defect := none, defOver := false, jump := none, tjump := none, sweep := none }

/-! The spindle (chapter 6). -/

/-- The spindle of a channel beyond its registers. -/
structure Spin where
  /-- C, in 1/96,000 rpm (R197) -/
  cmd     : Int
  /-- pole-pair count of the mechanical angle (R196) -/
  pole    : Nat
  /-- the voltage vector in force from the next period, and the PI integrators: 2^-32 of VBUS (R191) -/
  vd      : Int
  vq      : Int
  integD  : Int
  integQ  : Int
  /-- the Iq reference in force, in mA -/
  iref    : Int
  /-- phase currents of the last sample, in mA -/
  iu      : Int
  iv      : Int
  iw      : Int
  /-- on-times of U, V and W in 2^-32 of a period (R190) -/
  duty    : List Int
  /-- timer counts at which each phase switches in the first and in the second half of the period (R189, R193) -/
  edges   : List (Int × Int)
  /-- timer counts at which the two active vectors of the first half start, where they can be sampled (R193) -/
  vectors : Option (Int × Int)
  /-- the level the three comparators of CATCH show, periods since CATCH began, their crossings so far, the periods of the first and the
  last one, the phase that crossed last, and how many came in the order of forward rotation (R200) -/
  cmps    : Nat
  catchN  : Nat
  crossN  : Nat
  cross0  : Nat
  cross1  : Nat
  crossP  : Option Nat
  crossF  : Nat
  /-- electrical angle turned since both conditions of the observer's lock have held, in 1/65,536 turn (R195) -/
  lockTurn : Nat
  /-- periods at 300 rpm in SIXSTEP (R201) -/
  topN    : Nat
  /-- the observer's speed summed over the SPD period so far, and its periods (R196) -/
  spSum   : Int
  spN     : Nat
  /-- periods in succession: without a current sample, with VLIM at 1, with VBUS below UV -/
  noSample : Nat
  vlimN   : Nat
  uvN     : Nat
  /-- mid-period shunt samples in succession below IMIN while the chopper is on (R206) -/
  lowN    : Nat
  /-- the last shunt current, and the level of Cnn_PSF_N -/
  shunt   : Int
  psfLow  : Bool
  /-- six-step rate, in 1/48,000 rpm, while SIXSTEP runs (R201) -/
  rate    : Nat
  /-- SPD periods S has stayed within 0.1 % of C since C reached SPEED_CMD; `none` before that, or once AT_SPEED was raised -/
  atN     : Option Nat
  /-- short braking ends in FAULT with cause 5 (R206), or leads to ALIGN (R200) -/
  failing : Bool
  toAlign : Bool
  /-- the last measured speed in short braking was below 60 rpm -/
  slow    : Bool
  /-- OFF after STOPPED, or OFF or FAULT for COAST_WAIT (R473) -/
  rest    : Bool
  deriving DecidableEq, Repr

/-- The spindle at reset. -/
def Spin.off : Spin :=
  { cmd := 0, pole := 0, vd := 0, vq := 0, integD := 0, integQ := 0, iref := 0, iu := 0, iv := 0, iw := 0, duty := [0, 0, 0],
    edges := [], vectors := none, cmps := 0, catchN := 0, crossN := 0, cross0 := 0, cross1 := 0, crossP := none, crossF := 0, lockTurn := 0,
    topN := 0, spSum := 0, spN := 0,
    noSample := 0, vlimN := 0, uvN := 0, lowN := 0, shunt := 0, psfLow := false, rate := 0, atN := none,
    failing := false, toAlign := false, slow := false, rest := false }

/-- What a phase's two gate outputs do (R188, R189, Table 6-2). -/
inductive Gate where
  /-- both low -/
  | low
  /-- the low side on -/
  | lowSide
  /-- switched complementarily: the counts of the edges in the two halves of the period, and the dead time in ticks -/
  | switched (rise fall dead : Int)
  deriving DecidableEq, Repr

/-- What a sled bridge's P and N inputs do (R210): `none` low, else the one that is pulse-width modulated, with its drive. -/
abbrev Bridge := Option (Bool × Int)

/-! The sled (chapter 6). -/

/-- The steps of homing (R221). -/
inductive HomeStep where
  | leave | seek | turn | back | settle
  deriving DecidableEq, Repr

/-- What a deceleration at DECEL leads to. -/
inductive StopKind where
  /-- STOP (R216) -/
  | stop
  /-- the end of an open-ended move (R217), or a follow that ended (R220) -/
  | idle
  /-- a step of homing, or its failure (R221) -/
  | home | homeFail
  deriving DecidableEq, Repr

/-- The sled of a channel beyond its registers. Positions are in 1/72,000,000 unit, velocities in 1/36,000,000 unit per tick. -/
structure Sled where
  pos    : Int
  vel    : Int
  /-- first and last segment of the running move -/
  first  : Nat
  last   : Nat
  /-- profile time in the current segment, in 1/16,384 tick, and the state it started from -/
  t      : Nat
  p0     : Int
  v0     : Int
  /-- s, in 1/16,384 (R214) -/
  scale  : Nat
  succ   : Option (Nat × Nat)
  stop   : StopKind
  home   : HomeStep
  /-- ticks since HOME -/
  homeN  : Nat
  /-- ticks standing still -/
  still  : Nat
  /-- resolution steps not yet issued (R219) -/
  steps  : Int
  /-- phase current references of A and B, in mA (R211) -/
  refA   : Int
  refB   : Int
  /-- what the phase PI controllers apply to the bridges, signed, and their integrators (R210) -/
  driveA : Int
  driveB : Int
  integA : Int
  integB : Int
  /-- slots of the tick in which the resolution steps are issued, 0 to 31 (R219) -/
  slots  : List Nat
  deriving DecidableEq, Repr

/-- The sled at reset. -/
def Sled.off : Sled :=
  { pos := 0, vel := 0, first := 0, last := 0, t := 0, p0 := 0, v0 := 0, scale := 16384, succ := none, stop := .stop, home := .leave, homeN := 0,
    still := 0, steps := 0, refA := 0, refB := 0, driveA := 0, driveB := 0, integA := 0, integB := 0, slots := [] }

/-! Calibration (chapter 7). -/

/-- The register values of a formed generation (R233); its tables stand in the working buffer not in force. -/
structure CalGen where
  strat : Bool
  zone  : Bool
  adc   : Option (List Nat)
  trims : Option (List Nat)
  brm   : Option (List Nat)
  fsy   : Option Nat
  deriving DecidableEq, Repr

/-- The CAL block beyond its registers. -/
structure Cal where
  /-- the generation formed and waiting -/
  gen    : Option CalGen
  /-- device time of the last formation -/
  formed : Nat
  /-- a new generation was called for and is being formed (R230) -/
  due    : Bool
  deriving DecidableEq, Repr

/-- The CAL block at reset. -/
def Cal.off : Cal := ⟨none, 0, false⟩

end Sys2Proof.Machine
end

