-- ==== Sys2Proof/Machine/Media.lean ====
section
/-! DEFINITION. The plain data of a channel's write chain, map, cache, read path, retry ladders and mounted disc (chapters 2 to 4, 8
and 9). Their meanings stand in the files that use them. -/

namespace Sys2Proof.Machine
open Sys2Proof

/-! Writing (chapter 4). -/

/-- A staged block, in the write buffer until it is committed to the media (R20, R136). -/
structure Block where
  /-- number in staging order -/
  id    : Nat
  lba   : Nat
  /-- the piece of at most 256 blocks it belongs to (R107, R247) -/
  piece : Nat
  /-- it is the last block of its piece -/
  ends  : Bool
  data  : List Byte
  /-- CRC-32C computed at intake (R20) -/
  crc   : Nat
  /-- cluster assembly has taken it -/
  taken : Bool
  /-- device time of its staging -/
  time  : Nat
  /-- the buffer's copy is poisoned (R373) -/
  bad   : Bool
  /-- assembly left it out of its cluster for that, so that its record will be LOST -/
  lost  : Bool
  /-- the PCN, entry index and generation of its entry's cluster, once that cluster has passed verify or stood (R251) -/
  home  : Option (Nat × Nat × Nat)
  deriving DecidableEq, Repr

/-- A write admitted and not yet staged (R21, R331). -/
structure Intake where
  slot    : Nat
  slba    : Nat
  n       : Nat
  fua     : Bool
  /-- write buffer space is reserved for it; otherwise it waits (R21) -/
  granted : Bool
  deriving DecidableEq, Repr

/-- A command that completes when no staged block with `lo ≤ id < hi` remains (R332, R335). -/
structure CommitWait where
  slot : Nat
  lo   : Nat
  hi   : Nat
  deriving DecidableEq, Repr

/-- Cluster types of Table 2-7. -/
inductive ClusterKind where
  | data | map | anchor | identity | pad
  deriving DecidableEq, Repr

/-- The code of a cluster type (Table 2-7). -/
def ClusterKind.code : ClusterKind → Nat
  | .data => 1 | .map => 2 | .anchor => 3 | .identity => 4 | .pad => 5

/-- A block entry of a descriptor (Table 2-8). -/
structure Entry where
  lba    : Nat
  ofs    : Nat
  len    : Nat
  method : Nat
  check  : Nat
  deriving DecidableEq, Repr

/-- What a cluster will hold, before it has a position and a number. -/
structure Content where
  kind    : ClusterKind
  /-- group position: 0 ONLY, 1 FIRST, 2 MIDDLE, 3 LAST (R108) -/
  pos     : Nat
  /-- the group, by the channel's own count; its identifier stands in `WriteChain.groupIds` once fixed -/
  group   : Nat
  entries : List Entry
  /-- the used payload bytes -/
  payload : List Byte
  /-- leading continuation bytes -/
  lead    : Nat
  /-- its last block continues into a content not yet committed with it, whose position and number its own commitment fixes -/
  cont    : Bool
  /-- the continuation sequence, once fixed at a commitment (R112); 0 where there is none -/
  contSeq : Nat
  /-- the 32 bytes of Table 2-9 -/
  spec    : List Byte
  /-- disc key identifier, when its blocks are encrypted -/
  keyId   : Nat
  enc     : Bool
  direct  : Bool
  supersedes : Nat
  /-- verify replacements in succession (R135) -/
  repl    : Nat
  /-- staged blocks it holds, whole or in part -/
  blocks  : List Nat
  /-- the staged block of each entry -/
  owners  : List Nat
  deriving DecidableEq, Repr

/-- A content committed to a position (R112). -/
structure Placed where
  pcn     : Nat
  seq     : Nat
  time    : Nat
  link    : Bool
  content : Content
  /-- its first frame has been written -/
  begun   : Bool
  /-- superseded together with an earlier cluster of a Direct disc: its verdict is not acted on (R134) -/
  dead    : Bool
  deriving DecidableEq, Repr

/-- The group whose LAST cluster has not been assembled (R108, R109). -/
structure OpenGroup where
  num  : Nat
  /-- clusters assembled so far -/
  n    : Nat
  lbas : List Nat
  deriving DecidableEq, Repr

/-- The state of a write session (Table 4-8 STS.STATE). `ending` writes its last cluster to the end (R288, R337). -/
inductive Session where
  | idle | armed | writing | stopping | ending
  deriving DecidableEq, Repr

/-- Where a checkpoint stands (R255). -/
inductive CkptStage where
  /-- steps 1 and 2 -/
  | settling
  /-- step 5 -/
  | writing
  deriving DecidableEq, Repr

/-- A checkpoint under way (R255), with the reason its anchor will carry (Table 2-12). -/
structure Ckpt where
  reason : Nat
  num    : Nat
  stage  : CkptStage
  parts  : Nat
  /-- sequence number and PCN of its first MAP cluster as committed -/
  seq    : Nat
  pcn    : Nat
  /-- replay start -/
  start  : Nat
  deriving DecidableEq, Repr

/-- A test-area run under way (R142 to R146): for the Calibrate command in `cmd`, if there is one. -/
structure TestRun where
  layer : Nat
  slot  : Nat
  cmd   : Option Nat
  /-- its first frame has been written: it holds the pickup (R145) -/
  begun : Bool
  deriving DecidableEq, Repr

/-- A WEAK entry of the Media Quality log: PCN, lowest MQ, replacement count, layer and zone. -/
structure Weak where
  pcn   : Nat
  mq    : Nat
  repl  : Nat
  layer : Nat
  zone  : Nat
  deriving DecidableEq, Repr

/-- A transaction of the laser driver link (R124), for the firmware and hardware (`host` none), or a leg of a transaction queued
through `LDI.CMD`: 0 a write, 1 the first and 2 the second half of a read. -/
structure LaserTxn where
  rd   : Bool
  addr : Nat
  data : Nat
  host : Option Nat
  /-- times it has failed -/
  fails : Nat
  deriving DecidableEq, Repr

/-- The laser driver link (R124 to R129). -/
structure Ldi where
  /-- transactions to run, the one on the link first -/
  queue : List LaserTxn
  /-- the first of the queue has been sent -/
  busy  : Bool
  /-- the transaction before it, which the next status byte may report rejected -/
  last  : Option LaserTxn
  /-- transactions in succession that passed their CRC (R129) -/
  good  : Nat
  /-- FAULT_CLR has been sent since a driver fault, and a STATUS read after it showed the fault gone (R129) -/
  fclr  : Bool
  clean : Bool
  /-- a third failure in succession awaits LASER_LINK_ERROR (R126) -/
  down  : Bool
  /-- Cnn_LKILL_N is held from outside (Table 4-7 code 23) -/
  held  : Bool
  /-- beams whose read level is to be sent once no session is active (Table 4-10) -/
  due   : List Nat
  /-- the driver's last good status byte showed FAULT, OVERTEMP, or a KILLED the K3216 had not caused (R116, R127) -/
  fault : Bool
  /-- the peak and bias levels last written to the shadows for a session, and whether their COMMIT waits for the next cluster's first
  frame (R119, R128) -/
  levels : List Nat
  owed  : Bool
  /-- channel firmware waits for the driver to answer before it allows writing (R502) -/
  ask   : Bool
  deriving DecidableEq, Repr

/-- The link at reset. -/
def Ldi.off : Ldi := ⟨[], false, none, 0, false, false, false, false, [], false, [], false, false⟩

/-- A channel's write chain. -/
structure WriteChain where
  blocks    : List Block
  nextBlock : Nat
  nextPiece : Nat
  /-- records reserved by each piece with a staged block (R247) -/
  pieces    : SMap Nat
  intake    : List Intake
  waits     : List CommitWait
  /-- the cluster being filled -/
  cur       : Option Content
  openGroup : Option OpenGroup
  nextGroup : Nat
  /-- identifiers of groups of which a cluster has been begun (R108) -/
  groupIds  : SMap Nat
  /-- assembled contents not yet committed, next first -/
  ready     : List Content
  /-- committed and begun clusters without a final verdict, oldest first -/
  placed    : List Placed
  /-- the number reserved for a tail not yet committed, and the block it completes (R112) -/
  tail      : Option (Nat × Nat)
  session   : Session
  /-- code of the orderly stop event awaiting its frame boundary (R138) -/
  stopping  : Option Nat
  /-- device time at which that event came: only events of one cycle are ranked by their code (R137) -/
  stopAt    : Nat
  /-- slots other than FOC and TRK whose leaving CLOSED stopped a session (Table 4-7 code 8, R141) -/
  gone      : List Nat
  /-- staged blocks with smaller numbers must reach the media even in a partly filled cluster (R110) -/
  forceTo   : Nat
  /-- the next sequence number to assign (R45) -/
  seq       : Nat
  /-- DATA payload bytes written since the last checkpoint began (R254) -/
  since     : Nat
  ckpt      : Option Ckpt
  /-- reason of a checkpoint that has fallen due and not yet begun -/
  ckptDue   : Option Nat
  /-- a power calibration owed before the next commitment (R135), by layer -/
  weakCal   : Option Nat
  testRun   : Option TestRun
  /-- the last run that ended: layer, slot and T, for the Calibration Readout log (R360) -/
  lastRun   : Option (Nat × Nat × Nat)
  /-- test-area slots used, by layer: the next slot of each (R146) -/
  testNext  : SMap Nat
  /-- what each beam's gate carries on from its last begun cluster: bits of a trailing mark not yet pulsed, the space before it, and the
  last pulse (R118) -/
  trail     : List (Nat × Nat × Option (Int × Int))
  /-- calibration records that wait until the disc may be written (R106, R236) -/
  records   : List (List Byte)
  /-- the write clock is locked (R114) -/
  clockLock : Bool
  /-- layer whose strategy entry is in `TPY.STRAT` (R121), and a new generation waiting to be fetched -/
  tpyLayer  : Option Nat
  tpyStale  : Bool
  /-- kill latch causes not yet gone, by code of Table 4-7; 32 a link error, 33 a fence closure, 34 a channel reset -/
  killWhy   : List Nat
  ldi       : Ldi
  weak      : List Weak
  deriving DecidableEq, Repr

/-! The mounted disc (chapter 2, R241, R283). -/

/-- What the channel knows of the disc mounted. -/
structure Disc where
  direct    : Bool
  blank     : Bool
  sealed_   : Bool
  /-- READ_ONLY of the Mount command -/
  roMount   : Bool
  /-- read-only under R248 or R55 -/
  roDisc    : Bool
  compress  : Bool
  /-- archive key requested for a disc without a data key (R283) -/
  wantKey   : Option Nat
  /-- a data key exists on the disc -/
  keyed     : Bool
  keyId     : Nat
  archiveId : Nat
  wrapped   : List Byte
  discId    : List Byte
  revision  : Nat
  /-- next PCN of the identity, calibration and anchor areas -/
  identNext : Nat
  calNext   : Nat
  anchNext  : Nat
  anchorNum : Nat
  ckptNum   : Nat
  /-- latest anchored checkpoint: PCN and number of its first MAP cluster, and its part count -/
  ckptPcn   : Nat
  ckptSeq   : Nat
  ckptParts : Nat
  replayStart : Nat
  /-- Direct discs: the write pointer LBA (R56), the slip list and the slips since the last anchor (R54, R55) -/
  nextLba   : Nat
  slips     : List Nat
  newSlips  : List Nat
  slipsAtMount : Nat
  /-- Direct discs: LBAs passed over by a forced-out cluster: start and count (R56) -/
  holes     : List (Nat × Nat)
  /-- a poisoned map record: no further checkpoint in this mount (R373) -/
  mapPoison : Bool
  /-- last cluster written in the user area -/
  lastPcn   : Nat
  mountMs   : Nat
  fallback  : Bool
  deriving DecidableEq, Repr

/-! The map and its cache (chapter 8). -/

/-- An extent record (Table 8-1), VALID being its presence. -/
structure Extent where
  start : Nat
  len   : Nat
  pcn   : Nat
  idx   : Nat
  gen   : Nat
  lost  : Bool
  deriving DecidableEq, Repr

/-- An entry of the LTC: an extent or a hole (R262), with its age and whether it is dirty (R263, R265). -/
structure LtcEntry where
  ext   : Extent
  hole  : Bool
  age   : Nat
  dirty : Bool
  deriving DecidableEq, Repr

/-- A slot of the LTC: its entry, and the lock that holds it (R267). -/
structure LtcSlot where
  entry : Option LtcEntry
  lock  : Option Nat
  deriving DecidableEq, Repr

/-- A lookup waiting on a miss register: the command's slot, the LBA, and whether its fill is a streaming one (R264). -/
structure Lookup where
  slot   : Nat
  lba    : Nat
  stream : Bool
  deriving DecidableEq, Repr

/-- A miss register (R266). -/
structure Miss where
  granule : Nat
  stale   : Bool
  waiting : List Lookup
  deriving DecidableEq, Repr

/-- A channel's map and cache. -/
structure MapState where
  /-- the record pool, by start LBA -/
  recs    : SMap Extent
  /-- the 48 slots -/
  ltc     : List LtcSlot
  /-- eviction buffer, oldest first -/
  evb     : List LtcEntry
  miss    : List Miss
  /-- lookups that found no miss register or a full one -/
  blocked : List Lookup
  /-- anchor LBA of each lock in use, by lock index -/
  locks   : SMap Nat
  /-- runs of LBAs under a poisoned map record: start and length (R373) -/
  bad     : List (Nat × Nat)
  /-- LBA after the last block of the previous read (R264) -/
  readEnd : Nat
  deriving DecidableEq, Repr

/-! Reading (chapter 3). -/

/-- Where a block of a read stands. -/
inductive Target where
  /-- its lookup has not returned -/
  | looking
  /-- in the write buffer: the staged block's number -/
  | buffer (id : Nat)
  /-- never written, or passed over: zeros -/
  | zero
  /-- to be read from a cluster -/
  | media (pcn idx : Nat)
  /-- its head is decoded and its tail is being sought: the head's cluster and entry (R44) -/
  | tail (pcn idx : Nat)
  /-- served -/
  | done
  /-- ended with a status code of Table 11-14: false Unrecovered Read Error, true Access Denied -/
  | failed (denied : Bool)
  deriving DecidableEq, Repr

/-- A Read, Verify or Media Probe at the channel. -/
inductive ReadKind where
  | read | verify | probe
  deriving DecidableEq, Repr

/-- A command that reads (R333, R334, R348). -/
structure ReadCmd where
  slot    : Nat
  kind    : ReadKind
  slba    : Nat
  n       : Nat
  /-- LR of R333, or LADDER = 0 of a probe -/
  limited : Bool
  /-- FUA: it waits until no staged block of its range with a smaller number remains -/
  fua     : Option Nat
  targets : List Target
  /-- Media Probe by PCN: its clusters are named by the command -/
  byPcn   : Bool
  /-- Media Probe: clusters still to report, and the records reported so far -/
  probe   : List Nat
  records : List (List Byte)
  deriving DecidableEq, Repr

/-- A queued media operation (R336): a run of consecutive clusters for a command, or the channel's own write operation. -/
structure MediaOp where
  id     : Nat
  slot   : Nat
  first  : Nat
  count  : Nat
  /-- device time at which it was queued -/
  since  : Nat
  aged   : Bool
  deriving DecidableEq, Repr

/-- What became of one frame. -/
structure FrameRes where
  /-- judged blank (R80) -/
  blank   : Bool
  /-- its codeword has been decoded -/
  decided : Bool
  /-- CONVERGED -/
  ok      : Bool
  /-- information bytes, descrambled with the address it was decoded at (R79) -/
  info    : List Byte
  /-- final syndrome weight and iterations -/
  weight  : Nat
  iters   : Nat
  /-- initial syndrome weight (Table 3-9) -/
  initial : Nat
  suspect : Bool
  flagged : Nat
  /-- sync outcome (Table 3-9) -/
  sync    : Nat
  /-- the address it is descrambled with -/
  addr    : Nat
  /-- the position it was processed at in its lane's sample memory (R76, R91) -/
  at_     : Nat
  /-- its codeword LLRs -/
  llr     : List Int
  deriving DecidableEq, Repr

/-- A frame record of the retry store (R91): aligned resampled samples and LLR accumulators. -/
structure Stored where
  samples : List Int
  acc     : List Int
  deriving DecidableEq, Repr

/-- A frame of a ladder's read in progress: its samples and codeword LLRs. -/
structure Reread where
  samples : List Int
  llr     : List Int
  deriving DecidableEq, Repr

/-- A cluster being read: its first pass, or a step of its ladder (R88 to R96). -/
structure ClusterRead where
  pcn     : Nat
  /-- frames by cluster position -/
  frames  : SMap FrameRes
  /-- the ladder step running, 0 on the first pass -/
  step    : Nat
  /-- device time of the first-pass verdict, and the time of servo recovery left out since (R93) -/
  since   : Nat
  excluded : Nat
  /-- device time at which an IMPLAUSIBLE broke the read in progress -/
  broken  : Option Nat
  /-- the step has been repeated for it -/
  repeated : Bool
  /-- RETRY_BUDGET_EXPIRED has come -/
  expired : Bool
  /-- positions whose rows are captured or are to be (R91): the row directory -/
  rows    : List Nat
  /-- its records in the retry store, by cluster position -/
  store   : SMap Stored
  /-- the failed rows are in the retry store -/
  captured : Bool
  /-- the read in progress: frames so far, by position -/
  seen    : SMap Reread
  /-- reads of the step still to make, the one in progress included: the strand shift of each (R90: −1 inward, 1 outward) -/
  reads   : List Int
  /-- the alternate equaliser set is in use until the ladder ends (Table 3-8 step 3) -/
  alt     : Bool
  /-- frames FAILED at the first pass -/
  firstFailed : Nat
  /-- SNR and jitter of each lane over the cluster, by lane (Table 3-9) -/
  snr     : SMap Nat
  jitter  : SMap Nat
  deriving DecidableEq, Repr

/-- What a codeword in the decoder pool is of (R86): a frame on its first pass, a stored frame at a ladder step, or an alignment trial
of a lane (0 A, 1 B, 2 C). -/
inductive JobKind where
  | first
  | retry (step : Nat)
  | trial (lane cand : Nat)
  deriving DecidableEq, Repr

/-- A codeword for the decoder pool: its class (0 first), its cluster and position. -/
structure Job where
  cls  : Nat
  pcn  : Nat
  p    : Nat
  kind : JobKind
  deriving DecidableEq, Repr

/-- A block whose head is decoded and whose tail stands in a later cluster (R44). -/
structure Tail where
  pcn   : Nat
  idx   : Nat
  lba   : Nat
  head  : List Byte
  entry : Entry
  enc   : Bool
  keyId : Nat
  /-- the sequence numbers of the cluster named and of those read that superseded it in turn -/
  seqs  : List Nat
  /-- the cluster position now tried -/
  at_   : Nat
  deriving DecidableEq, Repr

/-- An alignment choice to be made (R77). -/
structure Choice where
  /-- Δ of the candidate found -/
  found   : Int
  /-- alignments under trial, with their offsets from P; none until the other lanes have decided the frame -/
  cands   : List (Nat × Int)
  /-- syndrome weights after one iteration, by alignment -/
  weights : List (Nat × Nat)
  deriving DecidableEq, Repr

/-- The frame sync of one lane (R75 to R78). -/
structure Lane where
  /-- the flywheel's predicted address -/
  next     : Nat
  /-- the predicted position P, in bits of the lane's aligned stream (R76) -/
  pos      : Int
  /-- a MISMATCH address of the frame before -/
  mismatch : Option Nat
  /-- an alignment to be chosen for the frame at P (R77) -/
  choice   : Option Choice
  /-- the last frame decided: its address, Δ, and whether its sync was found and its header VERIFIED -/
  last     : Option (Nat × Int × Bool)
  /-- the bit of the aligned stream at which the last ADIP word ended: the next frame pair begins there (R28, R73) -/
  adipPos  : Nat
  deriving DecidableEq, Repr

/-- A lane's frame sync at reset. -/
def Lane.off : Lane := ⟨0, 0, none, none, none, 0⟩

/-- A bit of a lane's aligned stream: the resampled sample, the range of the corrected samples since the bit before it, and whether
Bramble had flagged it. -/
structure BitRec where
  x    : Int
  lo   : Int
  hi   : Int
  flag : Bool
  deriving DecidableEq, Repr

/-- A lane's part of a zone table entry that has been fetched and awaits its first frame (R63). -/
structure ZoneStart where
  layer : Nat
  zone  : Nat
  bytes : List Byte
  deriving DecidableEq, Repr

/-- One lane from the converter to the detector (R58 to R72): offset in LSB, gain, and asymmetry as a part of 1, each in 2^-24; the
front end values of the zone table; whether the frequency has stayed within 0.05 % since the frame began; what waits for a frame or
cluster boundary; the resampler; and the sample memory of the last 8 frames with the equaliser's and the detector's output (R91). -/
structure LaneLoops where
  ofs   : Int
  gain  : Int
  asym  : Int
  afeGain  : Nat
  afeBoost : Nat
  near  : Bool
  /-- sub-converter skews, alignment delay and Bramble thresholds in force (R59, R68, R82) -/
  skew  : List Nat
  align : Nat
  thrLo : Nat
  thrHi : Nat
  due   : Option ZoneStart
  /-- corrected samples the resampler still needs, and the instant of its next bit from the first of them, in 2^-16 sample -/
  y     : List Int
  at_   : Int
  /-- the timing loop's frequency against the wobble's, in 2^-32 (R67) -/
  freq  : Int
  /-- resampled bits inside the alignment delay, latest first -/
  line  : List BitRec
  /-- aligned bits, the equaliser's output and the LLRs from bit number `base` on -/
  base  : Nat
  bits  : List BitRec
  z     : List Int
  llr   : List Int
  /-- bit number at which the next asymmetry block begins -/
  asymAt : Nat
  /-- sums of e² and of squared timing errors in 1/256 bit over the cluster, with their counts (Table 3-9) -/
  errSq : Nat
  errN  : Nat
  jitSq : Nat
  jitN  : Nat
  deriving DecidableEq, Repr

/-- A lane at reset: o = 0, g = 1, a = 0, nothing in its memories, the thresholds and delay of their registers' reset values. -/
def LaneLoops.off : LaneLoops :=
  { ofs := 0, gain := 2 ^ 24, asym := 0, afeGain := 0, afeBoost := 0, near := false, skew := List.replicate 8 0, align := 0, thrLo := 64
    thrHi := 192, due := none, y := [], at_ := 65536, freq := 0, line := [], base := 0, bits := [], z := [], llr := [], asymAt := 0
    errSq := 0, errN := 0, jitSq := 0, jitN := 0 }

/-- A channel's read path. -/
structure ReadPath where
  cmds    : List ReadCmd
  ops     : List MediaOp
  nextOp  : Nat
  /-- the operation the pickup serves -/
  running : Option Nat
  clusters : List ClusterRead
  tails   : List Tail
  lanes   : List Lane
  /-- the frame address of the pair predicted or accepted last, and that of the last word if its CRC passed (R73) -/
  adipPrev : Option Nat
  adipLast : Option Nat
  /-- the write operation is aged (R336) -/
  writeAged : Bool
  /-- the ladder's tracking, focus, spindle excursions: the step holding the pickup, by PCN (R94) -/
  holder  : Option Nat
  loops   : Vector LaneLoops 8
  /-- equaliser coefficients written through EQ_DATA and due at their lane's next frame boundary: index and value (R99) -/
  eqDue   : List (Nat × Nat)
  /-- lanes with a Bramble flag active (R82), and the frame bits flagged so far are in the frames -/
  flags   : Nat
  /-- counts of the Media Quality log: clusters read, decoded on the first pass, resolved at steps 1 to 12, lost, replacements, scars -/
  quality : List Nat
  /-- the tracking target in force before the ladder's offset of steps 7 and 8 -/
  tgtBase : Option Nat
  /-- step 10 has lowered the spindle's commanded speed (R208) -/
  slow    : Bool
  /-- the decoder pool (R86): the codeword in each of its 8 cores, and those waiting, in order of arrival -/
  cores   : List (Option Job)
  queue   : List Job
  /-- the focus target and the aberration code in force before the ladder's offsets (Table 3-8 step 9) -/
  focBase : Option Nat
  sacBase : Option Nat
  /-- the strand shift the pickup stands at for a ladder (Table 3-8 step 11) -/
  shift   : Int
  deriving DecidableEq, Repr

/-! Transform (R291, R292). -/

/-- The channel's Transform job: a stopped one keeps its context. -/
structure Transform where
  compress : Bool
  base     : Nat
  /-- blocks completed -/
  blocks   : Nat
  /-- output bytes produced and not yet taken -/
  out      : List Byte
  /-- input bytes of an incomplete stored block -/
  input    : List Byte
  deriving DecidableEq, Repr

/-! At reset. -/

/-- The 48 slots of an empty cache. -/
def emptyLtc : List LtcSlot := List.replicate 48 ⟨none, none⟩

/-- A write chain right after a channel reset: the kill line is asserted by the latch, cause 34 (R129). -/
def WriteChain.off : WriteChain :=
  { blocks := [], nextBlock := 0, nextPiece := 0, pieces := [], intake := [], waits := [], cur := none, openGroup := none
    nextGroup := 0, groupIds := [], ready := [], placed := [], tail := none, session := .idle, stopping := none, stopAt := 0, gone := [], forceTo := 0, seq := 0, since := 0
    ckpt := none, ckptDue := none, weakCal := none, testRun := none, lastRun := none, testNext := [], trail := [], records := [], clockLock := false
    tpyLayer := none, tpyStale := false, killWhy := [34], ldi := Ldi.off, weak := [] }

/-- The map and cache of a channel without a disc. -/
def MapState.off : MapState :=
  { recs := [], ltc := emptyLtc, evb := [], miss := [], blocked := [], locks := [], bad := [], readEnd := 0 }

/-- The read path at reset. -/
def ReadPath.off : ReadPath :=
  { cmds := [], ops := [], nextOp := 1, running := none, clusters := [], tails := [], lanes := List.replicate 8 Lane.off
    adipPrev := none, adipLast := none, writeAged := false, holder := none, loops := Vector.replicate 8 LaneLoops.off, eqDue := []
    flags := 0, quality := List.replicate 17 0, tgtBase := none, slow := false, cores := List.replicate 8 none, queue := []
    focBase := none, sacBase := none, shift := 0 }

end Sys2Proof.Machine
end

