-- ==== Sys2Proof/Machine/Tables.lean ====
section
/-! DEFINITION. Sparse tables: look up, insert, erase. Every table of the state (the register file, channel DRAM,
the index-window tables, the map) is one of these, always in the canonical form `SMap.wf`. -/

namespace Sys2Proof.Machine

/-- The entry listed for a key. -/
def SMap.find? {α : Type} : SMap α → Nat → Option α
  | [], _ => none
  | (k, v) :: m, x => if x = k then some v else SMap.find? m x

/-- What a key reads as: its entry, or the default. -/
def SMap.get {α : Type} (m : SMap α) (x : Nat) (d : α) : α := (SMap.find? m x).getD d

/-- Insert or replace, keeping the keys strictly rising. -/
def SMap.insert {α : Type} : SMap α → Nat → α → SMap α
  | [], x, v => [(x, v)]
  | (k, w) :: m, x, v =>
    if x < k then (x, v) :: (k, w) :: m
    else if x = k then (x, v) :: m
    else (k, w) :: SMap.insert m x v

/-- Remove every entry whose key satisfies `p`. -/
def SMap.eraseIf {α : Type} (m : SMap α) (p : Nat → Bool) : SMap α := m.filter (fun e => !p e.1)

/-- Remove one key's entry. -/
def SMap.erase {α : Type} (m : SMap α) (x : Nat) : SMap α := SMap.eraseIf m (fun k => k == x)

/-- Write a key: the default is represented by no entry, so that equal tables are equal lists. -/
def SMap.put {α : Type} [DecidableEq α] (m : SMap α) (x : Nat) (d v : α) : SMap α :=
  if v = d then SMap.erase m x else SMap.insert m x v

/-- The canonical form of keys: strictly rising. -/
abbrev SMap.wf {α : Type} (m : SMap α) : Prop := m.Pairwise (fun a b => a.1 < b.1)

/-- Write a run of keys from `x` on. -/
def SMap.putList {α : Type} [DecidableEq α] (m : SMap α) (x : Nat) (d : α) : List α → SMap α
  | [] => m
  | v :: vs => SMap.putList (SMap.put m x d v) (x + 1) d vs

/-- Read a run of `n` keys from `x` on. -/
def SMap.getList {α : Type} (m : SMap α) (x n : Nat) (d : α) : List α :=
  (List.range n).map fun i => SMap.get m (x + i) d

end Sys2Proof.Machine
end

