-- ==== Sys2Proof/Machine/Regs.lean ====
section
/-! DEFINITION. The register fields of every page, field by field from the register tables of the chapters:
page, offset, bit position, width, access code (Table 0-4), value after PORST# and the encodings its row does
not mark reserved. Array registers take their index as an argument; a slot page or a lane page takes `q`, the
slot or lane number, and a header field takes its page number. -/

namespace Sys2Proof.Machine

/-- The access codes of Table 0-4. -/
inductive Acc where
  | ro | rw | wo | w1c | w1s | rwf
  deriving DecidableEq, Repr

/-- The encodings of a field that its table does not mark reserved (R6). -/
inductive Legal where
  /-- every encoding -/
  | any
  /-- the encodings from `lo` to `hi` -/
  | range (lo hi : Nat)
  /-- the encodings listed -/
  | oneOf (vs : List Nat)
  deriving DecidableEq, Repr

/-- One row of a register table. -/
structure Fld where
  /-- page number within its region -/
  page  : Nat
  /-- byte offset of the register in the page -/
  off   : Nat
  /-- least significant bit -/
  lsb   : Nat
  /-- number of bits -/
  width : Nat
  /-- access code -/
  acc   : Acc
  /-- value after PORST# (R7) -/
  reset : Nat
  /-- encodings that are not reserved -/
  legal : Legal
  deriving DecidableEq, Repr

/-- Whether an encoding is one the field's table gives a meaning (R6). -/
def Legal.allows : Legal → Nat → Bool
  | .any, _ => true
  | .range lo hi, v => lo ≤ v && v ≤ hi
  | .oneOf vs, v => vs.contains v


/-! BRC page, R98. -/

def F.BRC_AFE_CUR_GAIN (q : Nat) : Fld := ⟨(0x20 + q), 0x100, 0, 5, .ro, 0, .any⟩
def F.BRC_AFE_CUR_BOOST (q : Nat) : Fld := ⟨(0x20 + q), 0x100, 8, 4, .ro, 0, .any⟩
def F.BRC_AFE_OVR_GAIN (q : Nat) : Fld := ⟨(0x20 + q), 0x104, 0, 5, .rw, 0, (.range 0 30)⟩
def F.BRC_AFE_OVR_BOOST (q : Nat) : Fld := ⟨(0x20 + q), 0x104, 8, 4, .rw, 0, (.range 0 12)⟩
def F.BRC_AFE_OVR_OVR_EN (q : Nat) : Fld := ⟨(0x20 + q), 0x104, 31, 1, .rw, 0, .any⟩
def F.BRC_SK (q : Nat) (n : Nat) : Fld := ⟨(0x20 + q), 0x108 + 4 * (n / 4), 8 * (n % 4), 8, .rwf, 0, .any⟩
def F.BRC_ADAPT_CTL_EN_OFS (q : Nat) : Fld := ⟨(0x20 + q), 0x110, 0, 1, .rw, 1, .any⟩
def F.BRC_ADAPT_CTL_EN_GAIN (q : Nat) : Fld := ⟨(0x20 + q), 0x110, 1, 1, .rw, 1, .any⟩
def F.BRC_ADAPT_CTL_EN_ASYM (q : Nat) : Fld := ⟨(0x20 + q), 0x110, 2, 1, .rw, 1, .any⟩
def F.BRC_ADAPT_CTL_EN_TR (q : Nat) : Fld := ⟨(0x20 + q), 0x110, 3, 1, .rw, 1, .any⟩
def F.BRC_ADAPT_CTL_EN_EQ (q : Nat) : Fld := ⟨(0x20 + q), 0x110, 4, 1, .rw, 1, .any⟩
def F.BRC_ADAPT_CTL_MU_OFS (q : Nat) : Fld := ⟨(0x20 + q), 0x110, 8, 4, .rw, 4, .any⟩
def F.BRC_ADAPT_CTL_MU_GAIN (q : Nat) : Fld := ⟨(0x20 + q), 0x110, 12, 4, .rw, 6, .any⟩
def F.BRC_ADAPT_CTL_MU_ASYM (q : Nat) : Fld := ⟨(0x20 + q), 0x110, 16, 4, .rw, 6, .any⟩
def F.BRC_ADAPT_CTL_MU_EQ (q : Nat) : Fld := ⟨(0x20 + q), 0x110, 20, 4, .rw, 8, .any⟩
def F.BRC_ADAPT_CTL_GAIN_TGT (q : Nat) : Fld := ⟨(0x20 + q), 0x110, 24, 8, .rw, 36, .any⟩
def F.BRC_CORR_CUR_OFS (q : Nat) : Fld := ⟨(0x20 + q), 0x114, 0, 8, .ro, 0, .any⟩
def F.BRC_CORR_CUR_GAIN (q : Nat) : Fld := ⟨(0x20 + q), 0x114, 8, 16, .ro, 16384, .any⟩
def F.BRC_CORR_CUR_ASYM (q : Nat) : Fld := ⟨(0x20 + q), 0x114, 24, 8, .ro, 0, .any⟩
def F.BRC_TR_CTL_KP (q : Nat) : Fld := ⟨(0x20 + q), 0x118, 0, 5, .rw, 6, .any⟩
def F.BRC_TR_CTL_KI (q : Nat) : Fld := ⟨(0x20 + q), 0x118, 8, 5, .rw, 14, .any⟩
def F.BRC_TR_STS_FERR (q : Nat) : Fld := ⟨(0x20 + q), 0x11C, 0, 16, .ro, 0, .any⟩
def F.BRC_TR_STS_RESETS (q : Nat) : Fld := ⟨(0x20 + q), 0x11C, 16, 8, .ro, 0, .any⟩
def F.BRC_TR_STS_LOCK (q : Nat) : Fld := ⟨(0x20 + q), 0x11C, 31, 1, .ro, 0, .any⟩
def F.BRC_PR_CUR (q : Nat) (i : Nat) : Fld := ⟨(0x20 + q), 0x120, 8 * i, 8, .ro, 0, .any⟩
def F.BRC_QUAL_SNR (q : Nat) : Fld := ⟨(0x20 + q), 0x124, 0, 8, .ro, 0, .any⟩
def F.BRC_QUAL_JITTER (q : Nat) : Fld := ⟨(0x20 + q), 0x124, 8, 8, .ro, 0, .any⟩
def F.BRC_LANE_STS_SYNC (q : Nat) : Fld := ⟨(0x20 + q), 0x128, 0, 2, .ro, 0, .any⟩
def F.BRC_LANE_STS_FLYCNT (q : Nat) : Fld := ⟨(0x20 + q), 0x128, 2, 2, .ro, 0, .any⟩
def F.BRC_LANE_STS_FROZEN (q : Nat) : Fld := ⟨(0x20 + q), 0x128, 4, 1, .ro, 0, .any⟩
def F.BRC_LANE_STS_BRM (q : Nat) : Fld := ⟨(0x20 + q), 0x128, 5, 1, .ro, 0, .any⟩
def F.BRC_LANE_STS_BLANK (q : Nat) : Fld := ⟨(0x20 + q), 0x128, 6, 1, .ro, 0, .any⟩
def F.BRC_LANE_STS_STRAND (q : Nat) : Fld := ⟨(0x20 + q), 0x128, 8, 3, .ro, (q % 8), .any⟩

/-! XTC page, R99. -/

def F.XTC_CTL_EN : Fld := ⟨0x28, 0x100, 0, 1, .rw, 1, .any⟩
def F.XTC_CTL_ACTIVE_SET : Fld := ⟨0x28, 0x100, 8, 1, .ro, 0, .any⟩
def F.XTC_ALIGN (n : Nat) : Fld := ⟨0x28, 0x104 + 4 * (n / 4), 8 * (n % 4), 6, .rwf, 0, .any⟩
def F.XTC_ZT_BASE : Fld := ⟨0x28, 0x10C, 0, 32, .rw, 0, .any⟩
def F.XTC_EQ_SEL_LANE : Fld := ⟨0x28, 0x110, 0, 3, .rw, 0, .any⟩
def F.XTC_EQ_SEL_SET : Fld := ⟨0x28, 0x110, 4, 1, .rw, 0, .any⟩
def F.XTC_EQ_SEL_TAP : Fld := ⟨0x28, 0x110, 8, 5, .rw, 0, (.range 0 24)⟩
def F.XTC_EQ_SEL_AUTOINC : Fld := ⟨0x28, 0x110, 16, 1, .rw, 0, .any⟩
def F.XTC_EQ_DATA : Fld := ⟨0x28, 0x114, 0, 16, .rw, 0, .any⟩

/-! FSY page, R100. -/

def F.FSY_CTL_ALIGN_EN : Fld := ⟨0x29, 0x100, 0, 1, .rwf, 1, .any⟩
def F.FSY_CTL_NBR_CAND_EN : Fld := ⟨0x29, 0x100, 1, 1, .rwf, 1, .any⟩
def F.FSY_CTL_ADIP_CHECK : Fld := ⟨0x29, 0x100, 2, 1, .rwf, 1, .any⟩
def F.FSY_CTL_ALIGN_ACCEPT : Fld := ⟨0x29, 0x100, 8, 10, .rwf, 300, .any⟩
def F.FSY_SYNC_THR (n : Nat) : Fld := ⟨0x29, 0x104, 4 * n, 4, .rwf, 6, (.range 0 12)⟩
def F.FSY_BLANK_CTL_BLANK_THR : Fld := ⟨0x29, 0x108, 0, 8, .rw, 31, .any⟩
def F.FSY_BLANK_CTL_BLANK_FRAC : Fld := ⟨0x29, 0x108, 8, 8, .rw, 230, .any⟩
def F.FSY_ADDR_LO (n : Nat) : Fld := ⟨0x29, 0x120 + 8 * n, 0, 32, .ro, 0, .any⟩
def F.FSY_ADDR_HI (n : Nat) : Fld := ⟨0x29, 0x124 + 8 * n, 0, 16, .ro, 0, .any⟩

/-! DEC page, R101. -/

def F.DEC_CTL_ITER_NORM : Fld := ⟨0x2A, 0x100, 0, 4, .rwf, 8, (.range 1 8)⟩
def F.DEC_CTL_ITER_RETRY : Fld := ⟨0x2A, 0x100, 8, 5, .rwf, 20, (.range 1 20)⟩
def F.DEC_CTL_TURBO_MAX : Fld := ⟨0x2A, 0x100, 16, 2, .rwf, 3, .any⟩
def F.DEC_CTL_NORM : Fld := ⟨0x2A, 0x100, 24, 4, .rwf, 12, .any⟩
def F.DEC_CTL_EARLY_STOP : Fld := ⟨0x2A, 0x100, 31, 1, .rwf, 1, .any⟩
def F.DEC_LLR_SCALE : Fld := ⟨0x2A, 0x104, 0, 8, .rwf, 16, .any⟩
def F.DEC_POOL_STS_BUSY : Fld := ⟨0x2A, 0x108, 0, 8, .ro, 0, .any⟩
def F.DEC_POOL_STS_QUEUED : Fld := ⟨0x2A, 0x108, 16, 8, .ro, 0, .any⟩

/-! OCD page, R102. -/

def F.OCD_CTL_SUSPECT_ERASE : Fld := ⟨0x2B, 0x100, 0, 1, .rw, 1, .any⟩
def F.OCD_CTL_SALVAGE : Fld := ⟨0x2B, 0x100, 1, 1, .rw, 1, .any⟩
def F.OCD_LAST_RES_ERASURES : Fld := ⟨0x2B, 0x104, 0, 7, .ro, 0, .any⟩
def F.OCD_LAST_RES_ERRORS : Fld := ⟨0x2B, 0x104, 8, 3, .ro, 0, .any⟩
def F.OCD_LAST_RES_FAILED_CW : Fld := ⟨0x2B, 0x104, 16, 11, .ro, 0, .any⟩
def F.OCD_LAST_RES_RESULT : Fld := ⟨0x2B, 0x104, 30, 2, .ro, 0, .any⟩
def F.OCD_LAST_PCN : Fld := ⟨0x2B, 0x108, 0, 32, .ro, 0, .any⟩

/-! BRM page, R103. -/

def F.BRM_CTL_EN : Fld := ⟨0x2C, 0x100, 0, 1, .rw, 1, .any⟩
def F.BRM_CTL_ZERO_LLR : Fld := ⟨0x2C, 0x100, 1, 1, .rw, 1, .any⟩
def F.BRM_CTL_MIN_LEN : Fld := ⟨0x2C, 0x100, 8, 8, .rw, 32, .any⟩
def F.BRM_CTL_HOLD : Fld := ⟨0x2C, 0x100, 16, 8, .rw, 64, .any⟩
def F.BRM_CTL_SUSPECT_LEN : Fld := ⟨0x2C, 0x100, 24, 8, .rw, 24, .any⟩
def F.BRM_THR_LO (n : Nat) : Fld := ⟨0x2C, 0x104 + 4 * (n / 4), 8 * (n % 4), 8, .rwf, 64, .any⟩
def F.BRM_THR_HI (n : Nat) : Fld := ⟨0x2C, 0x10C + 4 * (n / 4), 8 * (n % 4), 8, .rwf, 192, .any⟩
def F.BRM_FLAG : Fld := ⟨0x2C, 0x114, 0, 8, .ro, 0, .any⟩

/-! WOB page, R104. -/

def F.WOB_CTL_EN : Fld := ⟨0x2D, 0x100, 0, 1, .rw, 1, .any⟩
def F.WOB_CTL_REF_STRAND : Fld := ⟨0x2D, 0x100, 4, 3, .rw, 3, .any⟩
def F.WOB_MIX (n : Nat) : Fld := ⟨0x2D, 0x104 + 4 * (n / 4), 8 * (n % 4), 8, .rwf, 0, .any⟩
def F.WOB_STS_PLL_LOCK : Fld := ⟨0x2D, 0x10C, 0, 1, .ro, 0, .any⟩
def F.WOB_STS_ADIP_VALID : Fld := ⟨0x2D, 0x10C, 1, 1, .ro, 0, .any⟩
def F.WOB_STS_ADIP_FAILS : Fld := ⟨0x2D, 0x10C, 8, 8, .ro, 0, .any⟩
def F.WOB_FREQ : Fld := ⟨0x2D, 0x110, 0, 32, .ro, 0, .any⟩
def F.WOB_ADIP_LO : Fld := ⟨0x2D, 0x114, 0, 32, .ro, 0, .any⟩
def F.WOB_ADIP_HI : Fld := ⟨0x2D, 0x118, 0, 16, .ro, 0, .any⟩

/-! RTY page, R105. -/

def F.RTY_CTL_STEP_EN : Fld := ⟨0x2E, 0x100, 0, 12, .rw, 4095, .any⟩
def F.RTY_CTL_COMB_GAIN : Fld := ⟨0x2E, 0x100, 12, 4, .rw, 8, .any⟩
def F.RTY_CTL_BUDGET : Fld := ⟨0x2E, 0x100, 16, 11, .rw, 400, (.range 50 2000)⟩
def F.RTY_OFFSETS_TRK_OFS : Fld := ⟨0x2E, 0x104, 0, 7, .rw, 25, .any⟩
def F.RTY_OFFSETS_FOC_OFS : Fld := ⟨0x2E, 0x104, 8, 7, .rw, 40, .any⟩
def F.RTY_OFFSETS_SA_OFS : Fld := ⟨0x2E, 0x104, 16, 5, .rw, 4, .any⟩
def F.RTY_STATUS_STEP : Fld := ⟨0x2E, 0x108, 0, 4, .ro, 0, .any⟩
def F.RTY_STATUS_ACTIVE : Fld := ⟨0x2E, 0x108, 31, 1, .ro, 0, .any⟩
def F.RTY_PCN : Fld := ⟨0x2E, 0x10C, 0, 32, .ro, 0, .any⟩
def F.RTY_LAST_RESULT_STEP : Fld := ⟨0x2E, 0x110, 0, 4, .ro, 0, .any⟩
def F.RTY_LAST_RESULT_TIME : Fld := ⟨0x2E, 0x110, 16, 12, .ro, 0, .any⟩
def F.RTY_STORE_STS : Fld := ⟨0x2E, 0x114, 0, 8, .ro, 0, .any⟩

/-! WRC page, R147. -/

def F.WRC_CTL_EN : Fld := ⟨0x30, 0x100, 0, 1, .rw, 0, .any⟩
def F.WRC_CTL_STOP : Fld := ⟨0x30, 0x100, 1, 1, .wo, 0, .any⟩
def F.WRC_STS_STATE : Fld := ⟨0x30, 0x104, 0, 2, .ro, 0, .any⟩
def F.WRC_STS_LAST_STOP : Fld := ⟨0x30, 0x104, 8, 8, .ro, 0, .any⟩
def F.WRC_WALIGN (n : Nat) : Fld := ⟨0x30, 0x108 + 4 * (n / 4), 8 * (n % 4), 6, .rwf, 0, .any⟩
def F.WRC_ASSY_CTL : Fld := ⟨0x30, 0x110, 0, 13, .rw, 200, (.range 10 5000)⟩
def F.WRC_STOP_CTL_OFFTRK : Fld := ⟨0x30, 0x114, 0, 7, .rw, 50, .any⟩
def F.WRC_STOP_CTL_DEFOC : Fld := ⟨0x30, 0x114, 8, 7, .rw, 80, .any⟩
def F.WRC_STOP_CTL_PU_TMAX : Fld := ⟨0x30, 0x114, 16, 8, .rw, 70, .any⟩
def F.WRC_SEQ_LO : Fld := ⟨0x30, 0x118, 0, 32, .ro, 0, .any⟩
def F.WRC_SEQ_HI : Fld := ⟨0x30, 0x11C, 0, 32, .ro, 0, .any⟩
def F.WRC_WPTR : Fld := ⟨0x30, 0x120, 0, 32, .ro, 0, .any⟩
def F.WRC_LAST_SCAR : Fld := ⟨0x30, 0x124, 0, 32, .ro, 0, .any⟩
def F.WRC_TEST_CTL_SLOT : Fld := ⟨0x30, 0x128, 0, 4, .rw, 0, .any⟩
def F.WRC_TEST_CTL_LAYER : Fld := ⟨0x30, 0x128, 4, 5, .rw, 0, .any⟩
def F.WRC_TEST_CTL_P_STEP : Fld := ⟨0x30, 0x128, 10, 6, .rw, 8, .any⟩
def F.WRC_TEST_CTL_MQ_TARGET : Fld := ⟨0x30, 0x128, 16, 8, .rw, 200, .any⟩
def F.WRC_TEST_CTL_MARGIN : Fld := ⟨0x30, 0x128, 24, 3, .rw, 1, .any⟩
def F.WRC_TEST_CTL_RUN : Fld := ⟨0x30, 0x128, 31, 1, .wo, 0, .any⟩
def F.WRC_TEST_STS_DONE : Fld := ⟨0x30, 0x12C, 0, 1, .ro, 0, .any⟩
def F.WRC_TEST_STS_FAIL : Fld := ⟨0x30, 0x12C, 8, 8, .ro, 0, .any⟩
def F.WRC_TEST_RES_P_OPT (b : Nat) : Fld := ⟨0x30, 0x130 + 4 * b, 0, 10, .ro, 0, .any⟩
def F.WRC_TEST_RES_BEST_MQ (b : Nat) : Fld := ⟨0x30, 0x130 + 4 * b, 16, 8, .ro, 0, .any⟩

/-! TPY page, R148. -/

def F.TPY_CTL_HOLD_TABLE : Fld := ⟨0x31, 0x100, 0, 1, .rw, 0, .any⟩
def F.TPY_CTL_MIN_PW : Fld := ⟨0x31, 0x100, 8, 6, .rw, 8, .any⟩
def F.TPY_ST_BASE : Fld := ⟨0x31, 0x104, 0, 32, .rw, 0, .any⟩
def F.TPY_STRAT_FPS (b : Nat) (c : Nat) : Fld := ⟨0x31, 0x200 + 0x10 * b + 4 * (c - 1), 0, 6, .rwf, 0, .any⟩
def F.TPY_STRAT_FPE (b : Nat) (c : Nat) : Fld := ⟨0x31, 0x200 + 0x10 * b + 4 * (c - 1), 6, 6, .rwf, 0, .any⟩
def F.TPY_STRAT_MPP (b : Nat) (c : Nat) : Fld := ⟨0x31, 0x200 + 0x10 * b + 4 * (c - 1), 12, 6, .rwf, 0, .any⟩
def F.TPY_STRAT_LPE (b : Nat) (c : Nat) : Fld := ⟨0x31, 0x200 + 0x10 * b + 4 * (c - 1), 18, 6, .rwf, 0, .any⟩
def F.TPY_STRAT_GAP (b : Nat) (c : Nat) : Fld := ⟨0x31, 0x200 + 0x10 * b + 4 * (c - 1), 24, 6, .rwf, 0, .any⟩
def F.TPY_POWER_PEAK (b : Nat) : Fld := ⟨0x31, 0x300 + 4 * b, 0, 10, .rwf, 0, .any⟩
def F.TPY_POWER_BIAS (b : Nat) : Fld := ⟨0x31, 0x300 + 4 * b, 10, 10, .rwf, 0, .any⟩
def F.TPY_POWER_SLOPE (b : Nat) : Fld := ⟨0x31, 0x300 + 4 * b, 20, 8, .rwf, 0, .any⟩

/-! LDI page, R149. -/

def F.LDI_CTL_LINK_EN : Fld := ⟨0x32, 0x100, 0, 1, .rw, 0, .any⟩
def F.LDI_CTL_KILL : Fld := ⟨0x32, 0x100, 1, 1, .rw, 1, .any⟩
def F.LDI_CMD_DATA : Fld := ⟨0x32, 0x104, 0, 16, .wo, 0, .any⟩
def F.LDI_CMD_ADDR : Fld := ⟨0x32, 0x104, 16, 7, .wo, 0, .any⟩
def F.LDI_CMD_READ : Fld := ⟨0x32, 0x104, 23, 1, .wo, 0, .any⟩
def F.LDI_CMD_GO : Fld := ⟨0x32, 0x104, 31, 1, .wo, 0, .any⟩
def F.LDI_RSP_DATA : Fld := ⟨0x32, 0x108, 0, 16, .ro, 0, .any⟩
def F.LDI_RSP_STATUS : Fld := ⟨0x32, 0x108, 16, 8, .ro, 0, .any⟩
def F.LDI_RSP_REFUSED : Fld := ⟨0x32, 0x108, 28, 1, .ro, 0, .any⟩
def F.LDI_RSP_CRC_ERR : Fld := ⟨0x32, 0x108, 29, 1, .ro, 0, .any⟩
def F.LDI_RSP_DONE : Fld := ⟨0x32, 0x108, 30, 1, .ro, 0, .any⟩
def F.LDI_RSP_BUSY : Fld := ⟨0x32, 0x108, 31, 1, .ro, 0, .any⟩
def F.LDI_READ (b : Nat) : Fld := ⟨0x32, 0x110 + 4 * b, 0, 10, .rw, 0, .any⟩
def F.LDI_STS_KILL_LATCH : Fld := ⟨0x32, 0x130, 0, 1, .w1c, 1, .any⟩
def F.LDI_STS_KILL_PIN : Fld := ⟨0x32, 0x130, 1, 1, .ro, 1, .any⟩
def F.LDI_STS_CRC_ERRS : Fld := ⟨0x32, 0x130, 8, 8, .ro, 0, .any⟩

/-! VFY page, R150. -/

def F.VFY_CTL_EN : Fld := ⟨0x33, 0x100, 0, 1, .rw, 1, .any⟩
def F.VFY_CTL_REPL_EN : Fld := ⟨0x33, 0x100, 1, 1, .rw, 1, .any⟩
def F.VFY_CTL_LIMIT : Fld := ⟨0x33, 0x100, 8, 4, .rw, 4, (.range 0 12)⟩
def F.VFY_CTL_THR : Fld := ⟨0x33, 0x100, 16, 8, .rw, 128, .any⟩
def F.VFY_CTL_MAX_REPL : Fld := ⟨0x33, 0x100, 24, 3, .rw, 3, (.range 1 7)⟩
def F.VFY_EMAX : Fld := ⟨0x33, 0x104, 0, 12, .rw, 400, (.range 1 4095)⟩
def F.VFY_DELAY (b : Nat) : Fld := ⟨0x33, 0x108 + 4 * (b / 2), 16 * (b % 2), 10, .rwf, 640, .any⟩
def F.VFY_SLICE (n : Nat) : Fld := ⟨0x33, 0x118 + 4 * (n / 4), 8 * (n % 4), 8, .rwf, 128, .any⟩
def F.VFY_LAST_MIN_MQ : Fld := ⟨0x33, 0x120, 0, 8, .ro, 0, .any⟩
def F.VFY_LAST_MEAN_MQ : Fld := ⟨0x33, 0x120, 8, 8, .ro, 0, .any⟩
def F.VFY_LAST_BELOW : Fld := ⟨0x33, 0x120, 16, 7, .ro, 0, .any⟩
def F.VFY_LAST_FAILED : Fld := ⟨0x33, 0x120, 24, 1, .ro, 0, .any⟩
def F.VFY_LAST_PCN : Fld := ⟨0x33, 0x124, 0, 32, .ro, 0, .any⟩
def F.VFY_STEP_MQ (k : Nat) (n : Nat) : Fld := ⟨0x33, 0x140 + 8 * k + 4 * (n / 4), 8 * (n % 4), 8, .ro, 0, .any⟩

/-! CLE page, R186. -/

def F.CLE_CTL : Fld := ⟨0x08, 0x100, 0, 1, .rw, 0, .any⟩
def F.CLE_STS_RUN : Fld := ⟨0x08, 0x104, 0, 1, .ro, 0, .any⟩
def F.CLE_STS_FAULT : Fld := ⟨0x08, 0x104, 1, 1, .ro, 0, .any⟩
def F.CLE_STS_UCODE : Fld := ⟨0x08, 0x104, 16, 16, .ro, 0, .any⟩
def F.CLE_DEF_CTL_MASK : Fld := ⟨0x08, 0x108, 0, 7, .rw, 27, .any⟩
def F.CLE_DEF_CTL_MIN_LANES : Fld := ⟨0x08, 0x108, 8, 4, .rw, 4, (.range 1 8)⟩
def F.CLE_DEF_CTL_DEF_MAX : Fld := ⟨0x08, 0x108, 16, 12, .rw, 384, .any⟩
def F.CLE_SA_CTL : Fld := ⟨0x08, 0x10C, 0, 16, .rw, 0, .any⟩
def F.CLE_JUMP_CMD_LAYER : Fld := ⟨0x08, 0x110, 0, 5, .wo, 0, .any⟩
def F.CLE_JUMP_CMD_GO : Fld := ⟨0x08, 0x110, 31, 1, .wo, 0, .any⟩
def F.CLE_JUMP_STS_STATE : Fld := ⟨0x08, 0x114, 0, 2, .ro, 0, .any⟩
def F.CLE_JUMP_STS_LAYER : Fld := ⟨0x08, 0x114, 4, 5, .ro, 0, .any⟩
def F.CLE_JUMP_STS_FAIL : Fld := ⟨0x08, 0x114, 12, 4, .ro, 0, .any⟩
def F.CLE_TJUMP_CMD_STRANDS : Fld := ⟨0x08, 0x118, 0, 7, .wo, 0, .any⟩
def F.CLE_TJUMP_CMD_GO : Fld := ⟨0x08, 0x118, 31, 1, .wo, 0, .any⟩
def F.CLE_TJUMP_STS_STATE : Fld := ⟨0x08, 0x11C, 0, 2, .ro, 0, .any⟩
def F.CLE_TJUMP_STS_FAIL : Fld := ⟨0x08, 0x11C, 12, 4, .ro, 0, .any⟩
def F.CLE_SWEEP_CTL_SLOT : Fld := ⟨0x08, 0x120, 0, 3, .rw, 0, (.range 0 6)⟩
def F.CLE_SWEEP_CTL_DWELL : Fld := ⟨0x08, 0x120, 4, 12, .rw, 1, .any⟩
def F.CLE_SWEEP_CTL_COUNT : Fld := ⟨0x08, 0x120, 16, 10, .rw, 0, .any⟩
def F.CLE_SWEEP_CTL_GO : Fld := ⟨0x08, 0x120, 31, 1, .wo, 0, .any⟩
def F.CLE_SWEEP_START : Fld := ⟨0x08, 0x124, 0, 24, .rw, 0, .any⟩
def F.CLE_SWEEP_STEP : Fld := ⟨0x08, 0x128, 0, 24, .rw, 0, .any⟩
def F.CLE_SWEEP_STS_STATE : Fld := ⟨0x08, 0x12C, 0, 2, .ro, 0, .any⟩
def F.CLE_SWEEP_STS_POINTS : Fld := ⟨0x08, 0x12C, 16, 10, .ro, 0, .any⟩
def F.CLE_CAP_IDX_IDX : Fld := ⟨0x08, 0x130, 0, 12, .rw, 0, .any⟩
def F.CLE_CAP_IDX_AUTOINC : Fld := ⟨0x08, 0x130, 12, 1, .rw, 0, .any⟩
def F.CLE_CAP_DATA : Fld := ⟨0x08, 0x134, 0, 24, .ro, 0, .any⟩
def F.CLE_SA_LAYER_CODE_EVEN (k : Nat) : Fld := ⟨0x08, 0x180 + 4 * k, 0, 16, .rw, 0, .any⟩
def F.CLE_SA_LAYER_CODE_ODD (k : Nat) : Fld := ⟨0x08, 0x180 + 4 * k, 16, 16, .rw, 0, .any⟩
def F.CLE_KB_DUR (t : Nat) (s : Nat) : Fld := ⟨0x08, 0x200 + 0x40 * t + 4 * s, 0, 12, .rw, 0, .any⟩
def F.CLE_KB_LEVEL (t : Nat) (s : Nat) : Fld := ⟨0x08, 0x200 + 0x40 * t + 4 * s, 16, 16, .rw, 0, .any⟩
def F.CLE_KB_BRK (t : Nat) : Fld := ⟨0x08, 0x300 + 0x10 * t, 0, 24, .rw, 0, .any⟩
def F.CLE_KB_DC (t : Nat) : Fld := ⟨0x08, 0x304 + 0x10 * t, 0, 16, .rw, 0, .any⟩
def F.CLE_KB_TMO (t : Nat) : Fld := ⟨0x08, 0x308 + 0x10 * t, 0, 16, .rw, 384, .any⟩

/-! SLT page, R187. -/

def F.SLT_STATE_MODE (q : Nat) : Fld := ⟨(0x09 + q), 0x100, 0, 3, .ro, 0, .any⟩
def F.SLT_STATE_CAUSE (q : Nat) : Fld := ⟨(0x09 + q), 0x100, 4, 3, .ro, 0, .any⟩
def F.SLT_STATE_ARMED (q : Nat) : Fld := ⟨(0x09 + q), 0x100, 8, 1, .ro, 0, .any⟩
def F.SLT_STATE_DEFECT (q : Nat) : Fld := ⟨(0x09 + q), 0x100, 9, 1, .ro, 0, .any⟩
def F.SLT_STATE_SWEEP (q : Nat) : Fld := ⟨(0x09 + q), 0x100, 10, 1, .ro, 0, .any⟩
def F.SLT_STATE_SEQ (q : Nat) : Fld := ⟨(0x09 + q), 0x100, 11, 1, .ro, 0, .any⟩
def F.SLT_STATE_FF_ACT (q : Nat) : Fld := ⟨(0x09 + q), 0x100, 12, 1, .ro, 0, .any⟩
def F.SLT_CMD (q : Nat) : Fld := ⟨(0x09 + q), 0x104, 0, 3, .wo, 0, .any⟩
def F.SLT_MANUAL (q : Nat) : Fld := ⟨(0x09 + q), 0x108, 0, 24, .rw, 0, .any⟩
def F.SLT_TGT (q : Nat) : Fld := ⟨(0x09 + q), 0x10C, 0, 24, .rw, 0, .any⟩
def F.SLT_TGT_SLEW (q : Nat) : Fld := ⟨(0x09 + q), 0x110, 0, 24, .rw, 0, .any⟩
def F.SLT_TRIM_OFS (q : Nat) : Fld := ⟨(0x09 + q), 0x114, 0, 16, .rw, 0, .any⟩
def F.SLT_TRIM_GAIN (q : Nat) : Fld := ⟨(0x09 + q), 0x114, 16, 12, .rw, 0, .any⟩
def F.SLT_TRIM_CUR_OFS (q : Nat) : Fld := ⟨(0x09 + q), 0x118, 0, 16, .ro, 0, .any⟩
def F.SLT_TRIM_CUR_GAIN (q : Nat) : Fld := ⟨(0x09 + q), 0x118, 16, 12, .ro, 0, .any⟩
def F.SLT_ERR (q : Nat) : Fld := ⟨(0x09 + q), 0x11C, 0, 24, .ro, 0, .any⟩
def F.SLT_FERR (q : Nat) : Fld := ⟨(0x09 + q), 0x120, 0, 24, .ro, 0, .any⟩
def F.SLT_SUMV (q : Nat) : Fld := ⟨(0x09 + q), 0x124, 0, 24, .ro, 0, .any⟩
def F.SLT_OUT (q : Nat) : Fld := ⟨(0x09 + q), 0x128, 0, 24, .ro, 0, .any⟩
def F.SLT_OUT_CODE (q : Nat) : Fld := ⟨(0x09 + q), 0x12C, 0, 16, .ro, 0, .any⟩
def F.SLT_INTEG (q : Nat) : Fld := ⟨(0x09 + q), 0x130, 0, 24, .ro, 0, .any⟩
def F.SLT_RESID (q : Nat) : Fld := ⟨(0x09 + q), 0x134, 0, 24, .ro, 0, .any⟩
def F.SLT_GL_STS_COUNT (q : Nat) : Fld := ⟨(0x09 + q), 0x138, 0, 8, .ro, 0, .any⟩
def F.SLT_GL_STS_TRIPS (q : Nat) : Fld := ⟨(0x09 + q), 0x138, 8, 8, .ro, 0, .any⟩
def F.SLT_FF_IDX_IDX (q : Nat) : Fld := ⟨(0x09 + q), 0x13C, 0, 8, .rw, 0, .any⟩
def F.SLT_FF_IDX_AUTOINC (q : Nat) : Fld := ⟨(0x09 + q), 0x13C, 8, 1, .rw, 0, .any⟩
def F.SLT_FF_DATA (q : Nat) : Fld := ⟨(0x09 + q), 0x140, 0, 24, .rw, 0, .any⟩
def F.SLT_MIX (q : Nat) (r : Nat) (i : Nat) : Fld := ⟨(0x09 + q), 0x200 + 0x30 * r + 4 * i, 0, 24, .rw, 0, .any⟩
def F.SLT_MIX_CTL (q : Nat) : Fld := ⟨(0x09 + q), 0x290, 0, 1, .rw, 0, .any⟩
def F.SLT_OFS (q : Nat) : Fld := ⟨(0x09 + q), 0x294, 0, 24, .rw, 0, .any⟩
def F.SLT_GAIN (q : Nat) : Fld := ⟨(0x09 + q), 0x298, 0, 24, .rw, 2097152, .any⟩
def F.SLT_UNIT (q : Nat) : Fld := ⟨(0x09 + q), 0x29C, 0, 16, .rw, (if q = 0 then 512 else if q = 1 then 128 else 0), .any⟩
def F.SLT_BQ_CTL (q : Nat) : Fld := ⟨(0x09 + q), 0x2A0, 0, 4, .rw, 0, (.range 0 8)⟩
def F.SLT_BQ (q : Nat) (k : Nat) (m : Nat) : Fld := ⟨(0x09 + q), 0x300 + 0x20 * k + 4 * m, 0, 24, .rw, 0, .any⟩
def F.SLT_BQ_SH (q : Nat) (k : Nat) : Fld := ⟨(0x09 + q), 0x314 + 0x20 * k, 0, 3, .rw, 0, .any⟩
def F.SLT_PID_CTL_D_EN (q : Nat) : Fld := ⟨(0x09 + q), 0x400, 0, 1, .rw, 0, .any⟩
def F.SLT_PID_CTL_GEXP (q : Nat) : Fld := ⟨(0x09 + q), 0x400, 8, 4, .rw, 0, .any⟩
def F.SLT_KP (q : Nat) : Fld := ⟨(0x09 + q), 0x404, 0, 24, .rw, 0, .any⟩
def F.SLT_KI (q : Nat) : Fld := ⟨(0x09 + q), 0x408, 0, 24, .rw, 0, .any⟩
def F.SLT_KD (q : Nat) : Fld := ⟨(0x09 + q), 0x40C, 0, 24, .rw, 0, .any⟩
def F.SLT_ILIM_HI (q : Nat) : Fld := ⟨(0x09 + q), 0x410, 0, 24, .rw, 0, .any⟩
def F.SLT_ILIM_LO (q : Nat) : Fld := ⟨(0x09 + q), 0x414, 0, 24, .rw, 0, .any⟩
def F.SLT_FF_CTL_EN (q : Nat) : Fld := ⟨(0x09 + q), 0x418, 0, 1, .rw, 0, .any⟩
def F.SLT_FF_CTL_LEARN (q : Nat) : Fld := ⟨(0x09 + q), 0x418, 1, 1, .rw, 0, .any⟩
def F.SLT_FF_CTL_MU (q : Nat) : Fld := ⟨(0x09 + q), 0x418, 8, 4, .rw, 8, .any⟩
def F.SLT_FF_CTL_LEAK (q : Nat) : Fld := ⟨(0x09 + q), 0x418, 12, 4, .rw, 0, .any⟩
def F.SLT_FF_CTL_ADV (q : Nat) : Fld := ⟨(0x09 + q), 0x418, 16, 4, .rw, 0, .any⟩
def F.SLT_OLIM_HI (q : Nat) : Fld := ⟨(0x09 + q), 0x41C, 0, 24, .rw, 0, .any⟩
def F.SLT_OLIM_LO (q : Nat) : Fld := ⟨(0x09 + q), 0x420, 0, 24, .rw, 0, .any⟩
def F.SLT_SLEW (q : Nat) : Fld := ⟨(0x09 + q), 0x424, 0, 24, .rw, 0, .any⟩
def F.SLT_ACQ_LO (q : Nat) : Fld := ⟨(0x09 + q), 0x428, 0, 24, .rw, 0, .any⟩
def F.SLT_ACQ_HI (q : Nat) : Fld := ⟨(0x09 + q), 0x42C, 0, 24, .rw, 0, .any⟩
def F.SLT_ACQ_RATE (q : Nat) : Fld := ⟨(0x09 + q), 0x430, 0, 24, .rw, 0, .any⟩
def F.SLT_ACQ_CTL_SWEEPS (q : Nat) : Fld := ⟨(0x09 + q), 0x434, 0, 4, .rw, 2, (.range 1 15)⟩
def F.SLT_ACQ_CTL_POL (q : Nat) : Fld := ⟨(0x09 + q), 0x434, 4, 2, .rw, 0, (.range 0 2)⟩
def F.SLT_ACQ_CTL_SWEEP_EN (q : Nat) : Fld := ⟨(0x09 + q), 0x434, 6, 1, .rw, 1, .any⟩
def F.SLT_ACQ_CTL_DIR (q : Nat) : Fld := ⟨(0x09 + q), 0x434, 7, 1, .rw, 0, .any⟩
def F.SLT_ACQ_CTL_COUNT (q : Nat) : Fld := ⟨(0x09 + q), 0x434, 8, 6, .rw, 1, (.range 1 63)⟩
def F.SLT_ACQ_CTL_TMO (q : Nat) : Fld := ⟨(0x09 + q), 0x434, 20, 12, .rw, 4095, (.range 1 4095)⟩
def F.SLT_CAP_SLOPE (q : Nat) : Fld := ⟨(0x09 + q), 0x438, 0, 24, .rw, 8388607, .any⟩
def F.SLT_SUM_THR (q : Nat) : Fld := ⟨(0x09 + q), 0x43C, 0, 24, .rw, 0, .any⟩
def F.SLT_LOSS_THR (q : Nat) : Fld := ⟨(0x09 + q), 0x440, 0, 24, .rw, 0, .any⟩
def F.SLT_LOSS_N (q : Nat) : Fld := ⟨(0x09 + q), 0x444, 0, 16, .rw, 16, (.range 1 65535)⟩
def F.SLT_GL_C (q : Nat) (j : Nat) : Fld := ⟨(0x09 + q), 0x460 + 4 * (j - 1), 0, 24, .rw, 0, .any⟩
def F.SLT_GL_L (q : Nat) (j : Nat) : Fld := ⟨(0x09 + q), 0x474 + 4 * (j - 1), 0, 24, .rw, 0, .any⟩
def F.SLT_GL_THR (q : Nat) : Fld := ⟨(0x09 + q), 0x480, 0, 24, .rw, 8388607, .any⟩
def F.SLT_GL_CTL_N (q : Nat) : Fld := ⟨(0x09 + q), 0x484, 0, 8, .rw, (if q = 0 ∨ q = 1 then 8 else 4), (.range 1 255)⟩
def F.SLT_GL_CTL_ARM (q : Nat) : Fld := ⟨(0x09 + q), 0x484, 8, 16, .rw, 64, .any⟩
def F.SLT_GL_CTL_EN (q : Nat) : Fld := ⟨(0x09 + q), 0x484, 31, 1, .rw, 1, .any⟩

/-! SPN page, R222. -/

def F.SPN_CMD : Fld := ⟨0x10, 0x100, 0, 3, .wo, 0, .any⟩
def F.SPN_STS_STATE : Fld := ⟨0x10, 0x104, 0, 4, .ro, 0, .any⟩
def F.SPN_STS_REVERSE : Fld := ⟨0x10, 0x104, 4, 1, .ro, 0, .any⟩
def F.SPN_STS_VLIM : Fld := ⟨0x10, 0x104, 5, 1, .ro, 0, .any⟩
def F.SPN_STS_CHOP_ON : Fld := ⟨0x10, 0x104, 6, 1, .ro, 0, .any⟩
def F.SPN_STS_CHOP_FAULT : Fld := ⟨0x10, 0x104, 7, 1, .ro, 0, .any⟩
def F.SPN_STS_IN_01 : Fld := ⟨0x10, 0x104, 8, 1, .ro, 0, .any⟩
def F.SPN_STS_IN_05 : Fld := ⟨0x10, 0x104, 9, 1, .ro, 0, .any⟩
def F.SPN_STS_IN_1 : Fld := ⟨0x10, 0x104, 10, 1, .ro, 0, .any⟩
def F.SPN_STS_CAUSE : Fld := ⟨0x10, 0x104, 12, 3, .ro, 0, .any⟩
def F.SPN_STS_ANG_EPOCH : Fld := ⟨0x10, 0x104, 16, 8, .ro, 0, .any⟩
def F.SPN_SPEED_CMD : Fld := ⟨0x10, 0x108, 0, 12, .rw, 3000, (.range 300 3600)⟩
def F.SPN_RAMP : Fld := ⟨0x10, 0x10C, 0, 16, .rw, 40000, (.range 1 65535)⟩
def F.SPN_SPEED : Fld := ⟨0x10, 0x110, 0, 20, .ro, 0, .any⟩
def F.SPN_ANGLE_MECH : Fld := ⟨0x10, 0x114, 0, 16, .ro, 0, .any⟩
def F.SPN_ANGLE_ELEC : Fld := ⟨0x10, 0x114, 16, 16, .ro, 0, .any⟩
def F.SPN_CFG_POLE_PAIRS : Fld := ⟨0x10, 0x118, 0, 5, .rw, 6, (.range 1 16)⟩
def F.SPN_CFG_DIR_SWAP : Fld := ⟨0x10, 0x118, 8, 1, .rw, 0, .any⟩
def F.SPN_PWM : Fld := ⟨0x10, 0x11C, 0, 10, .rw, 200, (.range 50 800)⟩
def F.SPN_SHUNT_TSAMP : Fld := ⟨0x10, 0x120, 0, 11, .rw, 900, .any⟩
def F.SPN_SHUNT_WIN : Fld := ⟨0x10, 0x120, 16, 12, .rw, 1200, .any⟩
def F.SPN_SHUNT_STS : Fld := ⟨0x10, 0x124, 0, 16, .ro, 0, .any⟩
def F.SPN_SHUNT_R : Fld := ⟨0x10, 0x128, 0, 16, .rw, 0, .any⟩
def F.SPN_I_FS : Fld := ⟨0x10, 0x12C, 0, 16, .rw, 0, .any⟩
def F.SPN_ILOOP_KP : Fld := ⟨0x10, 0x130, 0, 16, .rw, 0, .any⟩
def F.SPN_ILOOP_KI : Fld := ⟨0x10, 0x130, 16, 16, .rw, 0, .any⟩
def F.SPN_MOTOR_R_PH : Fld := ⟨0x10, 0x134, 0, 16, .rw, 0, .any⟩
def F.SPN_MOTOR_L_PH : Fld := ⟨0x10, 0x134, 16, 16, .rw, 0, .any⟩
def F.SPN_KE : Fld := ⟨0x10, 0x138, 0, 16, .rw, 0, .any⟩
def F.SPN_SIXSTEP_ALIGN_T : Fld := ⟨0x10, 0x13C, 0, 8, .rw, 100, .any⟩
def F.SPN_SIXSTEP_SS_I : Fld := ⟨0x10, 0x13C, 8, 8, .rw, 128, .any⟩
def F.SPN_SIXSTEP_SOFT : Fld := ⟨0x10, 0x13C, 16, 8, .rw, 20, .any⟩
def F.SPN_SIXSTEP_SS_TMO : Fld := ⟨0x10, 0x13C, 24, 8, .rw, 50, .any⟩
def F.SPN_SS_RAMP_START : Fld := ⟨0x10, 0x140, 0, 9, .rw, 30, .any⟩
def F.SPN_SS_RAMP_ACC : Fld := ⟨0x10, 0x140, 16, 16, .rw, 1000, .any⟩
def F.SPN_CATCH_WIN : Fld := ⟨0x10, 0x144, 0, 9, .rw, 120, .any⟩
def F.SPN_CATCH_HYST : Fld := ⟨0x10, 0x144, 16, 8, .rw, 20, .any⟩
def F.SPN_VBUS_THR_CHOP_ON : Fld := ⟨0x10, 0x148, 0, 8, .rw, 138, .any⟩
def F.SPN_VBUS_THR_CHOP_OFF : Fld := ⟨0x10, 0x148, 8, 8, .rw, 132, .any⟩
def F.SPN_VBUS_THR_CHOP_FAIL : Fld := ⟨0x10, 0x148, 16, 8, .rw, 146, .any⟩
def F.SPN_VBUS_THR_OV : Fld := ⟨0x10, 0x148, 24, 8, .rw, 155, .any⟩
def F.SPN_VBUS_UV : Fld := ⟨0x10, 0x14C, 0, 8, .rw, 90, .any⟩
def F.SPN_CHOP_CHK : Fld := ⟨0x10, 0x150, 0, 12, .rw, 200, .any⟩
def F.SPN_OC_THR : Fld := ⟨0x10, 0x154, 0, 16, .rw, 3000, .any⟩
def F.SPN_VBUS : Fld := ⟨0x10, 0x158, 0, 12, .ro, 0, .any⟩
def F.SPN_IDQ_IQ : Fld := ⟨0x10, 0x15C, 0, 16, .ro, 0, .any⟩
def F.SPN_IDQ_ID : Fld := ⟨0x10, 0x15C, 16, 16, .ro, 0, .any⟩
def F.SPN_STOP_CTL_SB_PER : Fld := ⟨0x10, 0x160, 0, 8, .rw, 10, .any⟩
def F.SPN_STOP_CTL_SB_GAP : Fld := ⟨0x10, 0x160, 8, 8, .rw, 1, .any⟩
def F.SPN_STOP_CTL_HOLD : Fld := ⟨0x10, 0x160, 16, 12, .rw, 500, .any⟩
def F.SPN_TBL_IDX_IDX : Fld := ⟨0x10, 0x164, 0, 10, .rw, 0, .any⟩
def F.SPN_TBL_IDX_AUTOINC : Fld := ⟨0x10, 0x164, 12, 1, .rw, 0, .any⟩
def F.SPN_TBL_DATA : Fld := ⟨0x10, 0x168, 0, 16, .rw, 0, .any⟩

/-! SLD page, R223. -/

def F.SLD_CMD_OP : Fld := ⟨0x11, 0x100, 0, 3, .wo, 0, .any⟩
def F.SLD_CMD_FIRST : Fld := ⟨0x11, 0x100, 8, 6, .wo, 0, .any⟩
def F.SLD_CMD_LAST : Fld := ⟨0x11, 0x100, 16, 6, .wo, 0, .any⟩
def F.SLD_STS_STATE : Fld := ⟨0x11, 0x104, 0, 3, .ro, 0, .any⟩
def F.SLD_STS_SUCC : Fld := ⟨0x11, 0x104, 4, 1, .ro, 0, .any⟩
def F.SLD_STS_HOMED : Fld := ⟨0x11, 0x104, 5, 1, .ro, 0, .any⟩
def F.SLD_STS_RES : Fld := ⟨0x11, 0x104, 8, 3, .ro, 0, .any⟩
def F.SLD_STS_SEG : Fld := ⟨0x11, 0x104, 16, 6, .ro, 0, .any⟩
def F.SLD_STS_HOME_SW : Fld := ⟨0x11, 0x104, 24, 1, .ro, 0, .any⟩
def F.SLD_POS : Fld := ⟨0x11, 0x108, 0, 32, .ro, 0, .any⟩
def F.SLD_VEL : Fld := ⟨0x11, 0x10C, 0, 32, .ro, 0, .any⟩
def F.SLD_SCALE_SPEED : Fld := ⟨0x11, 0x110, 0, 6, .rw, 16, .any⟩
def F.SLD_SCALE_ACC : Fld := ⟨0x11, 0x110, 8, 6, .rw, 16, .any⟩
def F.SLD_SCALE_CUR : Fld := ⟨0x11, 0x114, 0, 12, .ro, 1024, .any⟩
def F.SLD_DECEL : Fld := ⟨0x11, 0x118, 0, 16, .rw, 20000, .any⟩
def F.SLD_LIM_LO : Fld := ⟨0x11, 0x11C, 0, 32, .rw, 0, .any⟩
def F.SLD_LIM_HI : Fld := ⟨0x11, 0x120, 0, 32, .rw, 614400, .any⟩
def F.SLD_HOME_VEL : Fld := ⟨0x11, 0x124, 0, 16, .rw, 2000, .any⟩
def F.SLD_HOME_BACKOFF : Fld := ⟨0x11, 0x124, 16, 16, .rw, 100, .any⟩
def F.SLD_HOME_TMO : Fld := ⟨0x11, 0x128, 0, 16, .rw, 2000, .any⟩
def F.SLD_CUR_I_RUN : Fld := ⟨0x11, 0x12C, 0, 12, .rw, 0, .any⟩
def F.SLD_CUR_I_HOLD : Fld := ⟨0x11, 0x12C, 16, 12, .rw, 0, .any⟩
def F.SLD_HOLD_DELAY : Fld := ⟨0x11, 0x130, 0, 16, .rw, 200, .any⟩
def F.SLD_FOLLOW_VMAX : Fld := ⟨0x11, 0x134, 0, 16, .rw, 200, .any⟩
def F.SLD_FOLLOW_ACC : Fld := ⟨0x11, 0x134, 16, 16, .rw, 1000, .any⟩
def F.SLD_ILOOP_KP : Fld := ⟨0x11, 0x138, 0, 16, .rw, 0, .any⟩
def F.SLD_ILOOP_KI : Fld := ⟨0x11, 0x138, 16, 16, .rw, 0, .any⟩
def F.SLD_SENSE_R : Fld := ⟨0x11, 0x13C, 0, 16, .rw, 0, .any⟩
def F.SLD_OC_THR : Fld := ⟨0x11, 0x140, 0, 12, .rw, 2000, .any⟩
def F.SLD_I_MEAS_IA : Fld := ⟨0x11, 0x144, 0, 16, .ro, 0, .any⟩
def F.SLD_I_MEAS_IB : Fld := ⟨0x11, 0x144, 16, 16, .ro, 0, .any⟩
def F.SLD_SEG_A_DUR (k : Nat) : Fld := ⟨0x11, 0x400 + 8 * k, 0, 16, .rw, 0, .any⟩
def F.SLD_SEG_A_END_VEL (k : Nat) : Fld := ⟨0x11, 0x400 + 8 * k, 16, 16, .rw, 0, .any⟩
def F.SLD_SEG_B (k : Nat) : Fld := ⟨0x11, 0x404 + 8 * k, 0, 32, .rw, 0, .any⟩

/-! CAL page, R240. -/

def F.CAL_CTL_EN : Fld := ⟨0x50, 0x100, 0, 1, .rw, 1, .any⟩
def F.CAL_CTL_HOLD : Fld := ⟨0x50, 0x100, 1, 1, .rw, 0, .any⟩
def F.CAL_CTL_FORCE : Fld := ⟨0x50, 0x100, 2, 1, .wo, 0, .any⟩
def F.CAL_CTL_STRAT_EN : Fld := ⟨0x50, 0x100, 8, 1, .rw, 1, .any⟩
def F.CAL_CTL_ADC_EN : Fld := ⟨0x50, 0x100, 9, 1, .rw, 1, .any⟩
def F.CAL_CTL_ZONE_EN : Fld := ⟨0x50, 0x100, 10, 1, .rw, 1, .any⟩
def F.CAL_CTL_SERVO_EN : Fld := ⟨0x50, 0x100, 11, 1, .rw, 1, .any⟩
def F.CAL_CTL_BRM_EN : Fld := ⟨0x50, 0x100, 12, 1, .rw, 1, .any⟩
def F.CAL_CTL_FSY_EN : Fld := ⟨0x50, 0x100, 13, 1, .rw, 1, .any⟩
def F.CAL_STS_BUF : Fld := ⟨0x50, 0x104, 0, 1, .ro, 0, .any⟩
def F.CAL_STS_TEMP_BAD : Fld := ⟨0x50, 0x104, 1, 1, .ro, 0, .any⟩
def F.CAL_STS_PENDING : Fld := ⟨0x50, 0x104, 2, 1, .ro, 0, .any⟩
def F.CAL_STS_FORMING : Fld := ⟨0x50, 0x104, 3, 1, .ro, 0, .any⟩
def F.CAL_SET_VALID : Fld := ⟨0x50, 0x108, 0, 5, .rw, 0, .any⟩
def F.CAL_SRC_BASE : Fld := ⟨0x50, 0x10C, 0, 32, .rw, 0, .any⟩
def F.CAL_WORK_BASE : Fld := ⟨0x50, 0x110, 0, 32, .rw, 10485760, .any⟩
def F.CAL_TEMP_NOW : Fld := ⟨0x50, 0x114, 0, 16, .ro, 0, .any⟩
def F.CAL_TEMP_USED : Fld := ⟨0x50, 0x114, 16, 16, .ro, 0, .any⟩
def F.CAL_PERIOD_DELTA : Fld := ⟨0x50, 0x118, 0, 8, .rw, 8, (.range 1 255)⟩
def F.CAL_PERIOD_RECOMP : Fld := ⟨0x50, 0x118, 16, 16, .rw, 1000, (.range 100 60000)⟩
def F.CAL_GEN : Fld := ⟨0x50, 0x11C, 0, 32, .ro, 0, .any⟩
def F.CAL_CNT_DISCARD : Fld := ⟨0x50, 0x120, 0, 16, .ro, 0, .any⟩
def F.CAL_CNT_DEFER : Fld := ⟨0x50, 0x120, 16, 16, .ro, 0, .any⟩
def F.CAL_PDELTA_IDX_IDX : Fld := ⟨0x50, 0x124, 0, 8, .rw, 0, .any⟩
def F.CAL_PDELTA_IDX_AUTOINC : Fld := ⟨0x50, 0x124, 8, 1, .rw, 0, .any⟩
def F.CAL_PDELTA_DATA : Fld := ⟨0x50, 0x128, 0, 16, .rw, 0, .any⟩

/-! MAP page, R272. -/

def F.MAP_CTL : Fld := ⟨0x40, 0x100, 1, 1, .wo, 0, .any⟩
def F.MAP_STS_STATE : Fld := ⟨0x40, 0x104, 0, 2, .ro, 0, .any⟩
def F.MAP_STS_DIRECT : Fld := ⟨0x40, 0x104, 2, 1, .ro, 0, .any⟩
def F.MAP_STS_SEALED : Fld := ⟨0x40, 0x104, 3, 1, .ro, 0, .any⟩
def F.MAP_STS_CKPT_ACTIVE : Fld := ⟨0x40, 0x104, 4, 1, .ro, 0, .any⟩
def F.MAP_STS_READ_ONLY : Fld := ⟨0x40, 0x104, 5, 1, .ro, 0, .any⟩
def F.MAP_STS_FALLBACK : Fld := ⟨0x40, 0x104, 6, 1, .ro, 0, .any⟩
def F.MAP_REC_TOTAL : Fld := ⟨0x40, 0x108, 0, 32, .ro, 201326592, .any⟩
def F.MAP_REC_USED : Fld := ⟨0x40, 0x10C, 0, 32, .ro, 0, .any⟩
def F.MAP_REC_RSVD : Fld := ⟨0x40, 0x110, 0, 32, .ro, 0, .any⟩
def F.MAP_CKPT_CTL_INTERVAL : Fld := ⟨0x40, 0x114, 0, 8, .rw, 8, (.range 1 64)⟩
def F.MAP_CKPT_CTL_EST_LIMIT : Fld := ⟨0x40, 0x114, 16, 6, .rw, 30, (.range 5 40)⟩
def F.MAP_CKPT_NUM : Fld := ⟨0x40, 0x118, 0, 32, .ro, 0, .any⟩
def F.MAP_CKPT_PCN : Fld := ⟨0x40, 0x11C, 0, 32, .ro, 0, .any⟩
def F.MAP_SINCE_CKPT : Fld := ⟨0x40, 0x120, 0, 32, .ro, 0, .any⟩
def F.MAP_REPLAY_EST : Fld := ⟨0x40, 0x124, 0, 32, .ro, 0, .any⟩
def F.MAP_REPLAY_START_LO : Fld := ⟨0x40, 0x128, 0, 32, .ro, 0, .any⟩
def F.MAP_REPLAY_START_HI : Fld := ⟨0x40, 0x12C, 0, 32, .ro, 0, .any⟩
def F.MAP_MOUNT_TIME : Fld := ⟨0x40, 0x130, 0, 32, .ro, 0, .any⟩
def F.MAP_GROUPS_APPLIED : Fld := ⟨0x40, 0x134, 0, 32, .ro, 0, .any⟩
def F.MAP_GROUPS_DISCARDED : Fld := ⟨0x40, 0x138, 0, 32, .ro, 0, .any⟩
def F.MAP_CLUSTERS_REPLAYED : Fld := ⟨0x40, 0x13C, 0, 32, .ro, 0, .any⟩
def F.MAP_PROBE_LBA_LBA : Fld := ⟨0x40, 0x140, 0, 31, .rw, 0, .any⟩
def F.MAP_PROBE_LBA_GO : Fld := ⟨0x40, 0x140, 31, 1, .wo, 0, .any⟩
def F.MAP_PROBE_REC (w : Nat) : Fld := ⟨0x40, 0x144 + 4 * w, 0, 32, .ro, 0, .any⟩
def F.MAP_PROBE_STS_DONE : Fld := ⟨0x40, 0x154, 0, 1, .ro, 0, .any⟩
def F.MAP_PROBE_STS_SOURCE : Fld := ⟨0x40, 0x154, 1, 2, .ro, 0, .any⟩

/-! LTC page, R273. -/

def F.LTC_CTL_EN : Fld := ⟨0x41, 0x100, 0, 1, .rw, 1, .any⟩
def F.LTC_CTL_STREAM_EN : Fld := ⟨0x41, 0x100, 1, 1, .rw, 1, .any⟩
def F.LTC_CTL_STREAM_MIN : Fld := ⟨0x41, 0x100, 16, 9, .rw, 128, (.range 1 256)⟩
def F.LTC_STS_VALID : Fld := ⟨0x41, 0x104, 0, 6, .ro, 0, .any⟩
def F.LTC_STS_EVB_USED : Fld := ⟨0x41, 0x104, 8, 3, .ro, 0, .any⟩
def F.LTC_STS_MISS_BUSY : Fld := ⟨0x41, 0x104, 16, 4, .ro, 0, .any⟩
def F.LTC_STS_LOCKED : Fld := ⟨0x41, 0x104, 24, 3, .ro, 0, .any⟩
def F.LTC_LOCK_STS_LOCKINV : Fld := ⟨0x41, 0x108, 0, 4, .ro, 0, .any⟩
def F.LTC_LOCK_STS_LOCK_VALID : Fld := ⟨0x41, 0x108, 8, 4, .ro, 0, .any⟩
def F.LTC_LOCK_ANCHOR (k : Nat) : Fld := ⟨0x41, 0x110 + 4 * k, 0, 31, .ro, 0, .any⟩
def F.LTC_INV_LBA : Fld := ⟨0x41, 0x120, 0, 31, .rw, 0, .any⟩
def F.LTC_INV_LEN : Fld := ⟨0x41, 0x124, 0, 32, .rw, 0, .any⟩
def F.LTC_INV_CTL_GO : Fld := ⟨0x41, 0x128, 0, 1, .wo, 0, .any⟩
def F.LTC_INV_CTL_ACK : Fld := ⟨0x41, 0x128, 31, 1, .ro, 0, .any⟩
def F.LTC_MERGED : Fld := ⟨0x41, 0x130, 0, 16, .ro, 0, .any⟩
def F.LTC_STALE : Fld := ⟨0x41, 0x134, 0, 16, .ro, 0, .any⟩

/-! CMP page, R294. -/

def F.CMP_CTL_HS_EN : Fld := ⟨0x38, 0x100, 0, 1, .rw, 1, .any⟩
def F.CMP_CTL_DEFL_EN : Fld := ⟨0x38, 0x100, 1, 1, .rw, 1, .any⟩
def F.CMP_CTL_CHECK_EN : Fld := ⟨0x38, 0x100, 2, 1, .rw, 1, .any⟩
def F.CMP_CTL_LAZY : Fld := ⟨0x38, 0x100, 3, 1, .rw, 1, .any⟩
def F.CMP_CTL_DEFL_MODE : Fld := ⟨0x38, 0x100, 4, 2, .rw, 0, (.range 0 2)⟩
def F.CMP_CTL_CHAIN : Fld := ⟨0x38, 0x100, 8, 7, .rw, 16, (.range 4 64)⟩
def F.CMP_STS_MOUNT_COMP : Fld := ⟨0x38, 0x104, 0, 1, .ro, 0, .any⟩
def F.CMP_STS_WR_BUSY : Fld := ⟨0x38, 0x104, 1, 1, .ro, 0, .any⟩
def F.CMP_STS_RD_BUSY : Fld := ⟨0x38, 0x104, 2, 1, .ro, 0, .any⟩
def F.CMP_STS_XF_BUSY : Fld := ⟨0x38, 0x104, 3, 1, .ro, 0, .any⟩
def F.CMP_STS_XF_PREEMPTED : Fld := ⟨0x38, 0x104, 4, 1, .ro, 0, .any⟩
def F.CMP_STS_AHEAD : Fld := ⟨0x38, 0x104, 8, 8, .ro, 0, .any⟩
def F.CMP_BLK_HS : Fld := ⟨0x38, 0x108, 0, 32, .ro, 0, .any⟩
def F.CMP_BLK_DEFL : Fld := ⟨0x38, 0x10C, 0, 32, .ro, 0, .any⟩
def F.CMP_BLK_RAW : Fld := ⟨0x38, 0x110, 0, 32, .ro, 0, .any⟩
def F.CMP_CHECK_FAIL : Fld := ⟨0x38, 0x114, 0, 16, .ro, 0, .any⟩
def F.CMP_RD_FAIL_HDR : Fld := ⟨0x38, 0x118, 0, 16, .ro, 0, .any⟩
def F.CMP_RD_FAIL_CRC : Fld := ⟨0x38, 0x118, 16, 16, .ro, 0, .any⟩
def F.CMP_RD_FAIL_LBA : Fld := ⟨0x38, 0x11C, 0, 31, .ro, 0, .any⟩
def F.CMP_UNDERRUN : Fld := ⟨0x38, 0x120, 0, 16, .ro, 0, .any⟩
def F.CMP_XF_IN : Fld := ⟨0x38, 0x124, 0, 32, .ro, 0, .any⟩
def F.CMP_XF_OUT : Fld := ⟨0x38, 0x128, 0, 32, .ro, 0, .any⟩

/-! XTS page, R295. -/

def F.XTS_STS_KEY_VALID : Fld := ⟨0x39, 0x100, 0, 1, .ro, 0, .any⟩
def F.XTS_STS_DISC_ENC : Fld := ⟨0x39, 0x100, 1, 1, .ro, 0, .any⟩
def F.XTS_KEY_ID : Fld := ⟨0x39, 0x104, 0, 32, .ro, 0, .any⟩
def F.XTS_BLK_ENC : Fld := ⟨0x39, 0x108, 0, 32, .ro, 0, .any⟩
def F.XTS_BLK_DEC : Fld := ⟨0x39, 0x10C, 0, 32, .ro, 0, .any⟩
def F.XTS_DENIED : Fld := ⟨0x39, 0x110, 0, 16, .ro, 0, .any⟩
def F.XTS_SELFTEST_GO : Fld := ⟨0x39, 0x114, 0, 1, .wo, 0, .any⟩
def F.XTS_SELFTEST_DONE : Fld := ⟨0x39, 0x114, 1, 1, .ro, 0, .any⟩
def F.XTS_SELFTEST_PASS : Fld := ⟨0x39, 0x114, 2, 1, .ro, 0, .any⟩

/-! PCI page, R319. -/

def F.PCI_LINK_STS_SPEED : Fld := ⟨0x0B, 0x100, 0, 4, .ro, 0, .any⟩
def F.PCI_LINK_STS_WIDTH : Fld := ⟨0x0B, 0x100, 4, 5, .ro, 0, .any⟩
def F.PCI_LINK_STS_DL_UP : Fld := ⟨0x0B, 0x100, 12, 1, .ro, 0, .any⟩
def F.PCI_LINK_STS_REVERSED : Fld := ⟨0x0B, 0x100, 13, 1, .ro, 0, .any⟩
def F.PCI_LINK_STS_L1_STATE : Fld := ⟨0x0B, 0x100, 14, 2, .ro, 0, .any⟩
def F.PCI_LINK_CAP_MAX_SPEED : Fld := ⟨0x0B, 0x104, 0, 4, .rw, 5, (.range 1 5)⟩
def F.PCI_LINK_CAP_MAX_WIDTH : Fld := ⟨0x0B, 0x104, 4, 5, .rw, 16, (.oneOf [1, 2, 4, 8, 16])⟩
def F.PCI_TAG_STS_IN_USE : Fld := ⟨0x0B, 0x108, 0, 10, .ro, 0, .any⟩
def F.PCI_TAG_STS_LIMIT : Fld := ⟨0x0B, 0x108, 16, 10, .ro, 256, .any⟩
def F.PCI_CPL_ERR_TIMEOUTS : Fld := ⟨0x0B, 0x10C, 0, 16, .ro, 0, .any⟩
def F.PCI_CPL_ERR_BAD_STATUS : Fld := ⟨0x0B, 0x10C, 16, 16, .ro, 0, .any⟩
def F.PCI_LATE_CPL : Fld := ⟨0x0B, 0x110, 0, 32, .ro, 0, .any⟩
def F.PCI_BME_STS_STALLED : Fld := ⟨0x0B, 0x114, 0, 1, .ro, 0, .any⟩
def F.PCI_BME_STS_MS : Fld := ⟨0x0B, 0x114, 16, 16, .ro, 0, .any⟩
def F.PCI_TIMEOUT : Fld := ⟨0x0B, 0x118, 0, 32, .ro, 50000, .any⟩

/-! DMA page, R320. -/

def F.DMA_STS_ACTIVE : Fld := ⟨0x0A, 0x100, 0, 16, .ro, 0, .any⟩
def F.DMA_STS_STALLED : Fld := ⟨0x0A, 0x100, 16, 1, .ro, 0, .any⟩
def F.DMA_INTERNAL : Fld := ⟨0x0A, 0x104, 0, 32, .ro, 0, .any⟩
def F.DMA_WEIGHT (c : Nat) : Fld := ⟨0x0A, 0x110 + 4 * (c / 4), 8 * (c % 4), 4, .rw, 4, (.range 1 15)⟩
def F.DMA_LAST_ERR_SLOT : Fld := ⟨0x0A, 0x120, 0, 16, .ro, 0, .any⟩
def F.DMA_LAST_ERR_CHANNEL : Fld := ⟨0x0A, 0x120, 16, 4, .ro, 0, .any⟩
def F.DMA_LAST_ERR_CAUSE : Fld := ⟨0x0A, 0x120, 20, 4, .ro, 0, .any⟩
def F.DMA_LAST_ERR_VALID : Fld := ⟨0x0A, 0x120, 31, 1, .w1c, 0, .any⟩
def F.DMA_LAST_ERR_ADDR_LO : Fld := ⟨0x0A, 0x124, 0, 32, .ro, 0, .any⟩
def F.DMA_LAST_ERR_ADDR_HI : Fld := ⟨0x0A, 0x128, 0, 32, .ro, 0, .any⟩

/-! WIN page, R321. -/

def F.WIN_TBL_IDX_IDX : Fld := ⟨0x0C, 0x100, 0, 11, .rw, 0, .any⟩
def F.WIN_TBL_IDX_AUTOINC : Fld := ⟨0x0C, 0x100, 16, 1, .rw, 0, .any⟩
def F.WIN_TBL_DATA_VALID : Fld := ⟨0x0C, 0x104, 0, 1, .rwf, 0, .any⟩
def F.WIN_TBL_DATA_WP : Fld := ⟨0x0C, 0x104, 1, 1, .rwf, 0, .any⟩
def F.WIN_TBL_DATA_CHANNEL : Fld := ⟨0x0C, 0x104, 4, 4, .rwf, 0, .any⟩
def F.WIN_TBL_DATA_FRAME : Fld := ⟨0x0C, 0x104, 16, 9, .rwf, 0, .any⟩
def F.WIN_STS_SYNCING : Fld := ⟨0x0C, 0x108, 0, 1, .ro, 0, .any⟩
def F.WIN_STS_VALID_PAGES : Fld := ⟨0x0C, 0x108, 16, 12, .ro, 0, .any⟩
def F.WIN_ERR_OFS : Fld := ⟨0x0C, 0x10C, 0, 32, .ro, 0, .any⟩
def F.WIN_ERR_KIND_KIND : Fld := ⟨0x0C, 0x110, 0, 3, .ro, 0, .any⟩
def F.WIN_ERR_KIND_WRITE : Fld := ⟨0x0C, 0x110, 7, 1, .ro, 0, .any⟩
def F.WIN_ERR_COUNT : Fld := ⟨0x0C, 0x114, 0, 32, .ro, 0, .any⟩

/-! SCH page, R362. -/

def F.SCH_CTL_AGE_LIMIT : Fld := ⟨0x60, 0x100, 0, 14, .rw, 2000, (.range 100 10000)⟩
def F.SCH_CTL_READ_PREEMPT : Fld := ⟨0x60, 0x100, 16, 10, .rw, 20, (.range 1 1000)⟩
def F.SCH_CMD_LIMIT : Fld := ⟨0x60, 0x104, 0, 10, .rw, 30, (.range 1 600)⟩
def F.SCH_WB_WB_MAX : Fld := ⟨0x60, 0x108, 0, 11, .rw, 768, (.range 64 1024)⟩
def F.SCH_WB_WB_HIGH : Fld := ⟨0x60, 0x108, 16, 8, .rw, 75, (.range 10 100)⟩
def F.SCH_QUEUED : Fld := ⟨0x60, 0x10C, 0, 13, .ro, 0, .any⟩
def F.SCH_OLDEST : Fld := ⟨0x60, 0x110, 0, 32, .ro, 0, .any⟩
def F.SCH_WB_USED : Fld := ⟨0x60, 0x114, 0, 32, .ro, 0, .any⟩
def F.SCH_AGED : Fld := ⟨0x60, 0x118, 0, 32, .ro, 0, .any⟩
def F.SCH_PREEMPTS : Fld := ⟨0x60, 0x11C, 0, 32, .ro, 0, .any⟩
def F.SCH_CANCELS_CANCELLED : Fld := ⟨0x60, 0x120, 0, 16, .ro, 0, .any⟩
def F.SCH_CANCELS_COMPLETING : Fld := ⟨0x60, 0x120, 16, 16, .ro, 0, .any⟩

/-! DRC page, R378. -/

def F.DRC_STS_TRAINED : Fld := ⟨0x48, 0x100, 0, 1, .ro, 0, .any⟩
def F.DRC_STS_FILL_BUSY : Fld := ⟨0x48, 0x100, 1, 1, .ro, 0, .any⟩
def F.DRC_STS_SELF_REFRESH : Fld := ⟨0x48, 0x100, 2, 1, .ro, 0, .any⟩
def F.DRC_STS_MR4_RATE : Fld := ⟨0x48, 0x100, 4, 4, .ro, 0, .any⟩
def F.DRC_RETRAIN_GO : Fld := ⟨0x48, 0x104, 0, 1, .wo, 0, .any⟩
def F.DRC_RETRAIN_PERIOD : Fld := ⟨0x48, 0x104, 8, 8, .rw, 10, (.range 1 255)⟩
def F.DRC_FILL_TIME : Fld := ⟨0x48, 0x108, 0, 16, .ro, 0, .any⟩

/-! ECC page, R379. -/

def F.ECC_CTL : Fld := ⟨0x49, 0x100, 0, 1, .rw, 1, .any⟩
def F.ECC_BUCKET_LEVEL : Fld := ⟨0x49, 0x104, 0, 8, .ro, 0, .any⟩
def F.ECC_BUCKET_THR : Fld := ⟨0x49, 0x104, 8, 8, .rw, 16, (.range 1 255)⟩
def F.ECC_LEAK : Fld := ⟨0x49, 0x108, 0, 16, .rw, 1000, (.range 1 65535)⟩
def F.ECC_CE_COUNT : Fld := ⟨0x49, 0x10C, 0, 32, .ro, 0, .any⟩
def F.ECC_UE_COUNT : Fld := ⟨0x49, 0x110, 0, 32, .ro, 0, .any⟩
def F.ECC_LAST_CE : Fld := ⟨0x49, 0x114, 0, 30, .ro, 0, .any⟩
def F.ECC_FIRST_UE_WORD : Fld := ⟨0x49, 0x118, 0, 30, .ro, 0, .any⟩
def F.ECC_FIRST_UE_VALID : Fld := ⟨0x49, 0x118, 31, 1, .w1c, 0, .any⟩
def F.ECC_STS : Fld := ⟨0x49, 0x11C, 0, 1, .ro, 0, .any⟩

/-! SCB page, R380. -/

def F.SCB_START : Fld := ⟨0x4A, 0x100, 0, 30, .rw, 0, .any⟩
def F.SCB_END : Fld := ⟨0x4A, 0x104, 0, 30, .rw, 0, .any⟩
def F.SCB_CTL_GO : Fld := ⟨0x4A, 0x108, 0, 1, .wo, 0, .any⟩
def F.SCB_CTL_STOP : Fld := ⟨0x4A, 0x108, 1, 1, .wo, 0, .any⟩
def F.SCB_CTL_RATE : Fld := ⟨0x4A, 0x108, 8, 3, .rw, 5, (.range 1 5)⟩
def F.SCB_STS_BUSY : Fld := ⟨0x4A, 0x10C, 0, 1, .ro, 0, .any⟩
def F.SCB_STS_DONE : Fld := ⟨0x4A, 0x10C, 1, 1, .ro, 0, .any⟩
def F.SCB_STS_STOPPED : Fld := ⟨0x4A, 0x10C, 2, 1, .ro, 0, .any⟩
def F.SCB_STS_REFUSED : Fld := ⟨0x4A, 0x10C, 3, 1, .ro, 0, .any⟩
def F.SCB_WORDS_READ : Fld := ⟨0x4A, 0x110, 0, 32, .ro, 0, .any⟩
def F.SCB_CORRECTED : Fld := ⟨0x4A, 0x114, 0, 32, .ro, 0, .any⟩
def F.SCB_UNCORR : Fld := ⟨0x4A, 0x118, 0, 32, .ro, 0, .any⟩
def F.SCB_FIRST_UE : Fld := ⟨0x4A, 0x11C, 0, 30, .ro, 0, .any⟩
def F.SCB_LAST_UE : Fld := ⟨0x4A, 0x120, 0, 30, .ro, 0, .any⟩
def F.SCB_POSITION : Fld := ⟨0x4A, 0x124, 0, 30, .ro, 0, .any⟩

/-! PWR page, R405. -/

def F.PWR_RAIL_STS_GOOD : Fld := ⟨0x01, 0x100, 0, 6, .ro, 0, .any⟩
def F.PWR_RAIL_STS_WARN : Fld := ⟨0x01, 0x100, 8, 6, .ro, 0, .any⟩
def F.PWR_PFW_CTL_EN : Fld := ⟨0x01, 0x104, 0, 1, .rw, 0, .any⟩
def F.PWR_PFW_CTL_GPIO : Fld := ⟨0x01, 0x104, 1, 4, .rw, 0, .any⟩
def F.PWR_PFW_CTL_POL : Fld := ⟨0x01, 0x104, 5, 1, .rw, 0, .any⟩
def F.PWR_BIV_CTL : Fld := ⟨0x01, 0x108, 0, 16, .rw, 65535, .any⟩
def F.PWR_BIV_DELAY : Fld := ⟨0x01, 0x10C, 0, 16, .rw, 1000, (.range 10 60000)⟩
def F.PWR_BIV_STS : Fld := ⟨0x01, 0x110, 0, 16, .ro, 0, .any⟩
def F.PWR_WAKE : Fld := ⟨0x01, 0x114, 0, 16, .wo, 0, .any⟩
def F.PWR_CHPWR_STS : Fld := ⟨0x01, 0x118, 0, 16, .ro, 0, .any⟩
def F.PWR_PFW_COUNT : Fld := ⟨0x01, 0x11C, 0, 16, .ro, 0, .any⟩

/-! CLK page, R406. -/

def F.CLK_PLL_STS_PORT : Fld := ⟨0x02, 0x100, 0, 1, .ro, 0, .any⟩
def F.CLK_PLL_STS_PCIE : Fld := ⟨0x02, 0x100, 1, 1, .ro, 0, .any⟩
def F.CLK_PLL_STS_LINK_A : Fld := ⟨0x02, 0x100, 2, 1, .ro, 0, .any⟩
def F.CLK_PLL_STS_LINK_B : Fld := ⟨0x02, 0x100, 3, 1, .ro, 0, .any⟩
def F.CLK_SSC_CTL_EN : Fld := ⟨0x02, 0x104, 0, 1, .rw, 1, .any⟩
def F.CLK_SSC_CTL_DEPTH : Fld := ⟨0x02, 0x104, 4, 4, .rw, 5, (.range 1 5)⟩
def F.CLK_XO_CTL : Fld := ⟨0x02, 0x108, 0, 1, .rw, 1, .any⟩
def F.CLK_XO_STS_XO50_RUN : Fld := ⟨0x02, 0x10C, 0, 1, .ro, 1, .any⟩
def F.CLK_XO_STS_XO32K_RUN : Fld := ⟨0x02, 0x10C, 1, 1, .ro, 0, .any⟩
def F.CLK_XO_STS_STOPS : Fld := ⟨0x02, 0x10C, 8, 8, .ro, 0, .any⟩

/-! RST page, R407. -/

def F.RST_CAUSE_PIN : Fld := ⟨0x03, 0x100, 0, 1, .w1c, 1, .any⟩
def F.RST_CAUSE_BROWNOUT : Fld := ⟨0x03, 0x100, 1, 1, .w1c, 0, .any⟩
def F.RST_CAUSE_RAIL : Fld := ⟨0x03, 0x100, 2, 3, .ro, 0, .any⟩
def F.RST_CAUSE_PLL : Fld := ⟨0x03, 0x100, 5, 1, .w1c, 0, .any⟩
def F.RST_CAUSE_XO : Fld := ⟨0x03, 0x100, 6, 1, .w1c, 0, .any⟩
def F.RST_COUNTS_PERST : Fld := ⟨0x03, 0x104, 0, 8, .ro, 0, .any⟩
def F.RST_COUNTS_FLR : Fld := ⟨0x03, 0x104, 8, 8, .ro, 0, .any⟩
def F.RST_COUNTS_CTRL : Fld := ⟨0x03, 0x104, 16, 8, .ro, 0, .any⟩
def F.RST_WDT_CTL_STW_MS : Fld := ⟨0x03, 0x108, 0, 16, .rw, 100, (.range 10 10000)⟩
def F.RST_WDT_CTL_FE_MS : Fld := ⟨0x03, 0x108, 16, 16, .rw, 20, (.range 5 1000)⟩
def F.RST_WDT_LAST_KIND : Fld := ⟨0x03, 0x10C, 0, 2, .ro, 0, .any⟩
def F.RST_WDT_LAST_CHANNEL : Fld := ⟨0x03, 0x10C, 4, 4, .ro, 0, .any⟩

/-! AON page, R408. -/

def F.AON_TIME_LO : Fld := ⟨0x04, 0x100, 0, 32, .ro, 0, .any⟩
def F.AON_TIME_HI : Fld := ⟨0x04, 0x104, 0, 32, .ro, 0, .any⟩
def F.AON_TIME_SRC : Fld := ⟨0x04, 0x108, 0, 1, .ro, 0, .any⟩
def F.AON_FENCE : Fld := ⟨0x04, 0x10C, 0, 16, .ro, 0, .any⟩
def F.AON_INPUTS_DISCP : Fld := ⟨0x04, 0x110, 0, 16, .ro, 0, .any⟩
def F.AON_INPUTS_LDRQ : Fld := ⟨0x04, 0x110, 16, 16, .ro, 0, .any⟩
def F.AON_WAKE_LAST_CHANNEL : Fld := ⟨0x04, 0x114, 0, 4, .ro, 0, .any⟩
def F.AON_WAKE_LAST_SOURCE : Fld := ⟨0x04, 0x114, 4, 4, .ro, 0, .any⟩

/-! TMP page, R409. -/

def F.TMP_TEMP_PORT : Fld := ⟨0x19, 0x100, 0, 16, .ro, 0, .any⟩
def F.TMP_TEMP_A : Fld := ⟨0x19, 0x104, 0, 16, .ro, 0, .any⟩
def F.TMP_TEMP_B : Fld := ⟨0x19, 0x108, 0, 16, .ro, 0, .any⟩
def F.TMP_THR_WARN : Fld := ⟨0x19, 0x10C, 0, 8, .rw, 95, .any⟩
def F.TMP_THR_THR1 : Fld := ⟨0x19, 0x10C, 8, 8, .rw, 100, .any⟩
def F.TMP_THR_THR2 : Fld := ⟨0x19, 0x10C, 16, 8, .rw, 105, .any⟩
def F.TMP_THR_HYST : Fld := ⟨0x19, 0x10C, 24, 4, .rw, 5, .any⟩
def F.TMP_STS_LEVEL : Fld := ⟨0x19, 0x110, 0, 2, .ro, 0, .any⟩
def F.TMP_STS_TRIPPED : Fld := ⟨0x19, 0x110, 2, 1, .w1c, 0, .any⟩
def F.TMP_STS_ALERT : Fld := ⟨0x19, 0x110, 3, 1, .ro, 0, .any⟩
def F.TMP_FAN_DUTY_MIN : Fld := ⟨0x19, 0x114, 0, 8, .rw, 64, .any⟩
def F.TMP_FAN_DUTY_MAX : Fld := ⟨0x19, 0x114, 8, 8, .rw, 255, .any⟩
def F.TMP_FAN_T_LO : Fld := ⟨0x19, 0x114, 16, 8, .rw, 50, .any⟩
def F.TMP_FAN_T_HI : Fld := ⟨0x19, 0x114, 24, 8, .rw, 90, .any⟩
def F.TMP_FAN_DUTY : Fld := ⟨0x19, 0x118, 0, 8, .ro, 255, .any⟩

/-! SEC page, R436. -/

def F.SEC_STS_STORE_READY : Fld := ⟨0x10, 0x100, 0, 1, .ro, 0, .any⟩
def F.SEC_STS_DEBUG_OPEN : Fld := ⟨0x10, 0x100, 1, 1, .ro, 0, .any⟩
def F.SEC_STS_TAMPER : Fld := ⟨0x10, 0x100, 2, 1, .w1c, 0, .any⟩
def F.SEC_STS_DBGEN : Fld := ⟨0x10, 0x100, 3, 1, .ro, 0, .any⟩
def F.SEC_STS_CAUSE : Fld := ⟨0x10, 0x100, 4, 4, .ro, 0, .any⟩
def F.SEC_STS_KEYS : Fld := ⟨0x10, 0x100, 16, 10, .ro, 0, .any⟩
def F.SEC_ZERO_COUNT : Fld := ⟨0x10, 0x104, 0, 16, .ro, 0, .any⟩
def F.SEC_KEYS_LOST : Fld := ⟨0x10, 0x108, 0, 16, .ro, 0, .any⟩
def F.SEC_DBG_CTL : Fld := ⟨0x10, 0x10C, 0, 1, .wo, 0, .any⟩
def F.SEC_DBG_STS_STATE : Fld := ⟨0x10, 0x110, 0, 2, .ro, 0, .any⟩
def F.SEC_DBG_STS_FAILS : Fld := ⟨0x10, 0x110, 8, 2, .ro, 0, .any⟩
def F.SEC_DBG_CHAL (k : Nat) : Fld := ⟨0x10, 0x120 + 4 * k, 0, 32, .ro, 0, .any⟩

/-! BOOT page, R437. -/

def F.BOOT_STS_SLOT : Fld := ⟨0x11, 0x100, 0, 3, .ro, 0, .any⟩
def F.BOOT_STS_FALLBACK : Fld := ⟨0x11, 0x100, 3, 1, .ro, 0, .any⟩
def F.BOOT_STS_HALT : Fld := ⟨0x11, 0x100, 4, 1, .ro, 0, .any⟩
def F.BOOT_STS_FAIL_SLOTS : Fld := ⟨0x11, 0x100, 8, 4, .ro, 0, .any⟩
def F.BOOT_TABLE_ACTIVE : Fld := ⟨0x11, 0x104, 0, 3, .ro, 0, .any⟩
def F.BOOT_TABLE_PREVIOUS : Fld := ⟨0x11, 0x104, 4, 3, .ro, 0, .any⟩
def F.BOOT_TABLE_NEXT : Fld := ⟨0x11, 0x104, 8, 3, .ro, 0, .any⟩
def F.BOOT_TABLE_TRIAL : Fld := ⟨0x11, 0x104, 12, 2, .ro, 0, .any⟩
def F.BOOT_SVN_MIN : Fld := ⟨0x11, 0x108, 0, 6, .ro, 0, .any⟩
def F.BOOT_SVN_RUN : Fld := ⟨0x11, 0x108, 8, 6, .ro, 0, .any⟩
def F.BOOT_STAGE_BYTES : Fld := ⟨0x11, 0x10C, 0, 24, .ro, 0, .any⟩
def F.BOOT_STAGE_ERASED : Fld := ⟨0x11, 0x10C, 31, 1, .ro, 0, .any⟩
def F.BOOT_VERIFY_MS : Fld := ⟨0x11, 0x110, 0, 16, .ro, 0, .any⟩
def F.BOOT_FLASH_ERR : Fld := ⟨0x11, 0x114, 0, 16, .ro, 0, .any⟩
def F.BOOT_SLOT_VER_LO (s : Nat) : Fld := ⟨0x11, 0x120 + 8 * (s - 1), 0, 32, .ro, 0, .any⟩
def F.BOOT_SLOT_VER_HI (s : Nat) : Fld := ⟨0x11, 0x124 + 8 * (s - 1), 0, 32, .ro, 0, .any⟩
def F.BOOT_SLOT_STS_VALID (s : Nat) : Fld := ⟨0x11, 0x140 + 4 * (s - 1), 0, 1, .ro, 0, .any⟩
def F.BOOT_SLOT_STS_SVN (s : Nat) : Fld := ⟨0x11, 0x140 + 4 * (s - 1), 8, 6, .ro, 0, .any⟩
def F.BOOT_SLOT_STS_KEY (s : Nat) : Fld := ⟨0x11, 0x140 + 4 * (s - 1), 16, 2, .ro, 0, .any⟩

/-! MON page, R459. -/

def F.MON_PU_TEMP_T : Fld := ⟨0x58, 0x100, 0, 16, .ro, 0, .any⟩
def F.MON_PU_TEMP_BAD : Fld := ⟨0x58, 0x100, 16, 1, .ro, 0, .any⟩
def F.MON_PU_LIMITS_LO_CODE : Fld := ⟨0x58, 0x104, 0, 12, .rw, 64, .any⟩
def F.MON_PU_LIMITS_HI_CODE : Fld := ⟨0x58, 0x104, 16, 12, .rw, 4032, .any⟩
def F.MON_HIST_IDX : Fld := ⟨0x58, 0x108, 0, 8, .rw, 0, (.oneOf [0, 1, 2, 3, 16, 17, 18, 19, 20, 21, 22, 23, 24, 25, 26, 27, 32, 33])⟩
def F.MON_HIST_CFG_EN : Fld := ⟨0x58, 0x10C, 0, 1, .rw, 1, .any⟩
def F.MON_HIST_CFG_SCALE : Fld := ⟨0x58, 0x10C, 1, 1, .rw, 1, .any⟩
def F.MON_HIST_CFG_OVF : Fld := ⟨0x58, 0x10C, 8, 1, .ro, 0, .any⟩
def F.MON_HIST_LOW : Fld := ⟨0x58, 0x110, 0, 32, .rw, 1, .any⟩
def F.MON_HIST_WIDTH : Fld := ⟨0x58, 0x114, 0, 32, .rw, 0, (.range 1 4294967295)⟩
def F.MON_SNAP_CTL_GO : Fld := ⟨0x58, 0x118, 0, 1, .wo, 0, .any⟩
def F.MON_SNAP_CTL_DONE : Fld := ⟨0x58, 0x118, 1, 1, .ro, 0, .any⟩
def F.MON_SNAP_CTL_SRC : Fld := ⟨0x58, 0x118, 8, 8, .ro, 0, .any⟩
def F.MON_SNAP_IDX_WORD : Fld := ⟨0x58, 0x11C, 0, 6, .rw, 0, .any⟩
def F.MON_SNAP_IDX_AUTOINC : Fld := ⟨0x58, 0x11C, 8, 1, .rw, 0, .any⟩
def F.MON_SNAP_DATA : Fld := ⟨0x58, 0x120, 0, 32, .ro, 0, .any⟩
def F.MON_MM_CLR_SRC : Fld := ⟨0x58, 0x124, 0, 8, .wo, 0, .any⟩
def F.MON_MM_CLR_GO : Fld := ⟨0x58, 0x124, 31, 1, .wo, 0, .any⟩
def F.MON_HIST_CLR_SRC : Fld := ⟨0x58, 0x128, 0, 8, .wo, 0, .any⟩
def F.MON_HIST_CLR_GO : Fld := ⟨0x58, 0x128, 31, 1, .wo, 0, .any⟩

/-! CNT page, R460. -/

def F.CNT_CNT_IDX_IDX : Fld := ⟨0x59, 0x100, 0, 4, .rw, 0, .any⟩
def F.CNT_CNT_IDX_AUTOINC : Fld := ⟨0x59, 0x100, 8, 1, .rw, 0, .any⟩
def F.CNT_CNT_LO : Fld := ⟨0x59, 0x104, 0, 32, .ro, 0, .any⟩
def F.CNT_CNT_HI : Fld := ⟨0x59, 0x108, 0, 16, .ro, 0, .any⟩
def F.CNT_SAT : Fld := ⟨0x59, 0x10C, 0, 16, .w1c, 0, .any⟩
def F.CNT_CLEAR : Fld := ⟨0x59, 0x110, 0, 16, .wo, 0, .any⟩

/-! GMON page, R461. -/

def F.GMON_FE_STS_ACTIVE_PAIR : Fld := ⟨0x18, 0x100, 0, 1, .ro, 0, .any⟩
def F.GMON_FE_STS_STANDBY_READY : Fld := ⟨0x18, 0x100, 1, 1, .ro, 0, .any⟩
def F.GMON_FE_STS_STANDBY_RETIRED : Fld := ⟨0x18, 0x100, 2, 1, .ro, 0, .any⟩
def F.GMON_FE_STS_FAILOVERS : Fld := ⟨0x18, 0x100, 8, 8, .ro, 0, .any⟩
def F.GMON_FE_STS_LAST_CAUSE : Fld := ⟨0x18, 0x100, 16, 2, .ro, 0, .any⟩
def F.GMON_FE_LAST_LO : Fld := ⟨0x18, 0x104, 0, 32, .ro, 0, .any⟩
def F.GMON_FE_LAST_HI : Fld := ⟨0x18, 0x108, 0, 32, .ro, 0, .any⟩
def F.GMON_LINK_A_STS_SPARES_USED : Fld := ⟨0x18, 0x110, 0, 3, .ro, 0, .any⟩
def F.GMON_LINK_A_STS_DEGRADED : Fld := ⟨0x18, 0x110, 3, 1, .ro, 0, .any⟩
def F.GMON_LINK_A_STS_RETRAINS : Fld := ⟨0x18, 0x110, 8, 8, .ro, 0, .any⟩
def F.GMON_LINK_A_STS_REPLAYS : Fld := ⟨0x18, 0x110, 16, 16, .ro, 0, .any⟩
def F.GMON_LINK_B_STS_SPARES_USED : Fld := ⟨0x18, 0x114, 0, 3, .ro, 0, .any⟩
def F.GMON_LINK_B_STS_DEGRADED : Fld := ⟨0x18, 0x114, 3, 1, .ro, 0, .any⟩
def F.GMON_LINK_B_STS_RETRAINS : Fld := ⟨0x18, 0x114, 8, 8, .ro, 0, .any⟩
def F.GMON_LINK_B_STS_REPLAYS : Fld := ⟨0x18, 0x114, 16, 16, .ro, 0, .any⟩
def F.GMON_QUAR : Fld := ⟨0x18, 0x118, 0, 16, .ro, 0, .any⟩
def F.GMON_QMG_RETIRED : Fld := ⟨0x18, 0x11C, 0, 17, .ro, 0, .any⟩
def F.GMON_FE_CMD_LIMIT : Fld := ⟨0x18, 0x120, 0, 10, .rw, 30, (.range 1 600)⟩
def F.GMON_TIME_LIMIT : Fld := ⟨0x18, 0x124, 0, 32, .ro, 0, .any⟩

/-! The common header of every page, R464. -/

def F.HDR_BLK_ID_CHANNEL (q : Nat) : Fld := ⟨q, 0x000, 0, 8, .ro, 0, .any⟩
def F.HDR_BLK_ID_INSTANCE (q : Nat) : Fld := ⟨q, 0x000, 8, 8, .ro, 0, .any⟩
def F.HDR_BLK_ID_TYPE (q : Nat) : Fld := ⟨q, 0x000, 16, 8, .ro, 0, .any⟩
def F.HDR_BLK_ID_LEVEL (q : Nat) : Fld := ⟨q, 0x000, 24, 8, .ro, 0, .any⟩
def F.HDR_BLK_VER_MINOR (q : Nat) : Fld := ⟨q, 0x004, 0, 16, .ro, 0, .any⟩
def F.HDR_BLK_VER_MAJOR (q : Nat) : Fld := ⟨q, 0x004, 16, 16, .ro, 1, .any⟩
def F.HDR_BLK_CTL_EN (q : Nat) : Fld := ⟨q, 0x008, 0, 1, .rw, 1, .any⟩
def F.HDR_BLK_CTL_SRST (q : Nat) : Fld := ⟨q, 0x008, 1, 1, .rw, 0, .any⟩
def F.HDR_BLK_CTL_FREEZE (q : Nat) : Fld := ⟨q, 0x008, 2, 1, .rw, 0, .any⟩
def F.HDR_BLK_CTL_QUIESCE (q : Nat) : Fld := ⟨q, 0x008, 3, 1, .rw, 0, .any⟩
def F.HDR_BLK_STS_READY (q : Nat) : Fld := ⟨q, 0x00C, 0, 1, .ro, 0, .any⟩
def F.HDR_BLK_STS_BUSY (q : Nat) : Fld := ⟨q, 0x00C, 1, 1, .ro, 0, .any⟩
def F.HDR_BLK_STS_QUIESCED (q : Nat) : Fld := ⟨q, 0x00C, 2, 1, .ro, 0, .any⟩
def F.HDR_BLK_STS_FAULT (q : Nat) : Fld := ⟨q, 0x00C, 3, 1, .ro, 0, .any⟩
def F.HDR_BLK_STS_STATE (q : Nat) : Fld := ⟨q, 0x00C, 4, 4, .ro, 0, .any⟩
def F.HDR_IRQ_RAW (q : Nat) : Fld := ⟨q, 0x010, 0, 32, .ro, 0, .any⟩
def F.HDR_IRQ_EN (q : Nat) : Fld := ⟨q, 0x014, 0, 32, .rw, 0, .any⟩
def F.HDR_IRQ_STS (q : Nat) : Fld := ⟨q, 0x018, 0, 32, .w1c, 0, .any⟩
def F.HDR_IRQ_TEST (q : Nat) : Fld := ⟨q, 0x01C, 0, 32, .w1s, 0, .any⟩
def F.HDR_ERR_FIRST_OFS (q : Nat) : Fld := ⟨q, 0x020, 0, 12, .ro, 0, .any⟩
def F.HDR_ERR_FIRST_FLYSHEET (q : Nat) : Fld := ⟨q, 0x020, 12, 1, .ro, 0, .any⟩
def F.HDR_ERR_FIRST_CODE (q : Nat) : Fld := ⟨q, 0x020, 16, 8, .ro, 0, .any⟩
def F.HDR_ERR_FIRST_VALID (q : Nat) : Fld := ⟨q, 0x020, 31, 1, .w1c, 0, .any⟩
def F.HDR_ERR_INFO (q : Nat) : Fld := ⟨q, 0x024, 0, 32, .ro, 0, .any⟩
def F.HDR_ERR_COUNT (q : Nat) : Fld := ⟨q, 0x028, 0, 16, .ro, 0, .any⟩
def F.HDR_SET_STS_BANK (q : Nat) : Fld := ⟨q, 0x030, 0, 1, .ro, 0, .any⟩
def F.HDR_SET_STS_PENDING (q : Nat) : Fld := ⟨q, 0x030, 1, 1, .ro, 0, .any⟩
def F.HDR_SET_STS_DONE (q : Nat) : Fld := ⟨q, 0x030, 2, 1, .ro, 0, .any⟩
def F.HDR_SET_STS_REFUSED (q : Nat) : Fld := ⟨q, 0x030, 3, 1, .ro, 0, .any⟩
def F.HDR_SET_STS_CAUSE (q : Nat) : Fld := ⟨q, 0x030, 4, 3, .ro, 0, .any⟩
def F.HDR_SET_STS_WHEN (q : Nat) : Fld := ⟨q, 0x030, 8, 3, .ro, 0, .any⟩
def F.HDR_SET_STS_SYNCING (q : Nat) : Fld := ⟨q, 0x030, 12, 1, .ro, 0, .any⟩
def F.HDR_SET_CMD_WHEN (q : Nat) : Fld := ⟨q, 0x034, 0, 3, .wo, 0, .any⟩
def F.HDR_SET_CMD_GROUP (q : Nat) : Fld := ⟨q, 0x034, 8, 1, .wo, 0, .any⟩
def F.HDR_SET_CMD_CANCEL (q : Nat) : Fld := ⟨q, 0x034, 31, 1, .wo, 0, .any⟩
def F.HDR_SET_SEQ_DONE_N (q : Nat) : Fld := ⟨q, 0x038, 0, 16, .ro, 0, .any⟩
def F.HDR_SET_SEQ_REFUSED_N (q : Nat) : Fld := ⟨q, 0x038, 16, 16, .ro, 0, .any⟩
def F.HDR_PEND (q : Nat) (k : Nat) : Fld := ⟨q, 0x040 + 4 * k, 0, 32, .ro, 0, .any⟩

/-! CHN page, R472. -/

def F.CHN_STS_STATE : Fld := ⟨0x00, 0x100, 0, 4, .ro, 0, .any⟩
def F.CHN_STS_FENCE_CAUSE : Fld := ⟨0x00, 0x100, 8, 4, .ro, 0, .any⟩
def F.CHN_STS_DISC_PRESENT : Fld := ⟨0x00, 0x100, 16, 1, .ro, 0, .any⟩
def F.CHN_STS_LDRQ : Fld := ⟨0x00, 0x100, 17, 1, .ro, 0, .any⟩
def F.CHN_STS_SAFE : Fld := ⟨0x00, 0x100, 18, 1, .ro, 0, .any⟩
def F.CHN_STS_POWERED : Fld := ⟨0x00, 0x100, 19, 1, .ro, 0, .any⟩
def F.CHN_SAFE_CTL_EN : Fld := ⟨0x00, 0x104, 0, 1, .rw, 1, .any⟩
def F.CHN_SAFE_CTL_COAST_WAIT : Fld := ⟨0x00, 0x104, 16, 16, .rw, 30000, (.range 1000 65535)⟩
def F.CHN_GRP_MASK (k : Nat) : Fld := ⟨0x00, 0x110 + 4 * k, 0, 32, .rw, 0, .any⟩

/-! STW page, R474. -/

def F.STW_STS_RUN : Fld := ⟨0x01, 0x100, 0, 1, .ro, 0, .any⟩
def F.STW_STS_STOPPED : Fld := ⟨0x01, 0x100, 1, 1, .ro, 0, .any⟩
def F.STW_STS_LAST_FAULT : Fld := ⟨0x01, 0x100, 4, 4, .ro, 0, .any⟩
def F.STW_FW_VER_LO : Fld := ⟨0x01, 0x104, 0, 32, .ro, 0, .any⟩
def F.STW_FW_VER_HI : Fld := ⟨0x01, 0x108, 0, 32, .ro, 0, .any⟩
def F.STW_HEARTBEAT : Fld := ⟨0x01, 0x10C, 0, 32, .ro, 0, .any⟩

/-! GBL page, R475. -/

def F.GBL_REV_SILICON : Fld := ⟨0x00, 0x100, 0, 8, .ro, 1, .any⟩
def F.GBL_REV_DEVICE : Fld := ⟨0x00, 0x100, 16, 16, .ro, 12822, .any⟩
def F.GBL_DSN_LO : Fld := ⟨0x00, 0x104, 0, 32, .ro, 0, .any⟩
def F.GBL_DSN_HI : Fld := ⟨0x00, 0x108, 0, 32, .ro, 0, .any⟩
def F.GBL_FAULT_SUM_FENCE_FAULT : Fld := ⟨0x00, 0x10C, 0, 16, .ro, 0, .any⟩
def F.GBL_FAULT_SUM_CFS : Fld := ⟨0x00, 0x10C, 16, 1, .ro, 0, .any⟩
def F.GBL_FAULT_SUM_STANDBY_LOST : Fld := ⟨0x00, 0x10C, 17, 1, .ro, 0, .any⟩
def F.GBL_FAULT_SUM_THERMAL : Fld := ⟨0x00, 0x10C, 18, 1, .ro, 0, .any⟩
def F.GBL_FAULT_SUM_BOOT_FALLBACK : Fld := ⟨0x00, 0x10C, 19, 1, .ro, 0, .any⟩
def F.GBL_CH_PEND : Fld := ⟨0x00, 0x110, 0, 16, .ro, 0, .any⟩

/-! FEC page, R476. -/

def F.FEC_STS_ACTIVE_PAIR : Fld := ⟨0x08, 0x100, 0, 1, .ro, 0, .any⟩
def F.FEC_STS_PP : Fld := ⟨0x08, 0x100, 1, 1, .ro, 0, .any⟩
def F.FEC_VER_LO : Fld := ⟨0x08, 0x104, 0, 32, .ro, 0, .any⟩
def F.FEC_VER_HI : Fld := ⟨0x08, 0x108, 0, 32, .ro, 0, .any⟩
def F.FEC_ROUTED : Fld := ⟨0x08, 0x10C, 0, 32, .ro, 0, .any⟩

/-! QMG page, R476. -/

def F.QMG_SLOTS : Fld := ⟨0x09, 0x100, 0, 17, .ro, 0, .any⟩
def F.QMG_PEAK : Fld := ⟨0x09, 0x104, 0, 17, .ro, 0, .any⟩
def F.QMG_QUEUES_SQ : Fld := ⟨0x09, 0x108, 0, 7, .ro, 0, .any⟩
def F.QMG_QUEUES_CQ : Fld := ⟨0x09, 0x108, 16, 7, .ro, 0, .any⟩
def F.QMG_ABORTS : Fld := ⟨0x09, 0x10C, 0, 5, .ro, 0, .any⟩

/-! GPIO page, R477. -/

def F.GPIO_DIR : Fld := ⟨0x1A, 0x100, 0, 16, .rw, 0, .any⟩
def F.GPIO_OUT : Fld := ⟨0x1A, 0x104, 0, 16, .rw, 0, .any⟩
def F.GPIO_IN : Fld := ⟨0x1A, 0x108, 0, 16, .ro, 0, .any⟩
def F.GPIO_EDGE_RISE : Fld := ⟨0x1A, 0x10C, 0, 16, .rw, 0, .any⟩
def F.GPIO_EDGE_FALL : Fld := ⟨0x1A, 0x110, 0, 16, .rw, 0, .any⟩

/-! SMB page, R480. -/

def F.SMB_CTL : Fld := ⟨0x1B, 0x100, 0, 1, .rw, 1, .any⟩
def F.SMB_STS_ADDR : Fld := ⟨0x1B, 0x104, 0, 7, .ro, 106, .any⟩
def F.SMB_STS_TIMEOUTS : Fld := ⟨0x1B, 0x104, 8, 8, .ro, 0, .any⟩
def F.SMB_STS_READS : Fld := ⟨0x1B, 0x104, 16, 8, .ro, 0, .any⟩

/-! GMON page, R459. -/

def F.GMON_HIST_IDX : Fld := ⟨0x18, 0x140, 0, 8, .rw, 0, (.range 0x80 0x83)⟩
def F.GMON_HIST_CFG_EN : Fld := ⟨0x18, 0x144, 0, 1, .rw, 1, .any⟩
def F.GMON_HIST_CFG_SCALE : Fld := ⟨0x18, 0x144, 1, 1, .rw, 1, .any⟩
def F.GMON_HIST_CFG_OVF : Fld := ⟨0x18, 0x144, 8, 1, .ro, 0, .any⟩
def F.GMON_HIST_LOW : Fld := ⟨0x18, 0x148, 0, 32, .rw, 1, .any⟩
def F.GMON_HIST_WIDTH : Fld := ⟨0x18, 0x14C, 0, 32, .rw, 0, (.range 1 4294967295)⟩
def F.GMON_SNAP_CTL_GO : Fld := ⟨0x18, 0x150, 0, 1, .wo, 0, .any⟩
def F.GMON_SNAP_CTL_DONE : Fld := ⟨0x18, 0x150, 1, 1, .ro, 0, .any⟩
def F.GMON_SNAP_CTL_SRC : Fld := ⟨0x18, 0x150, 8, 8, .ro, 0, .any⟩
def F.GMON_SNAP_IDX_WORD : Fld := ⟨0x18, 0x154, 0, 6, .rw, 0, .any⟩
def F.GMON_SNAP_IDX_AUTOINC : Fld := ⟨0x18, 0x154, 8, 1, .rw, 0, .any⟩
def F.GMON_SNAP_DATA : Fld := ⟨0x18, 0x158, 0, 32, .ro, 0, .any⟩
def F.GMON_MM_CLR_SRC : Fld := ⟨0x18, 0x15C, 0, 8, .wo, 0, .any⟩
def F.GMON_MM_CLR_GO : Fld := ⟨0x18, 0x15C, 31, 1, .wo, 0, .any⟩
def F.GMON_HIST_CLR_SRC : Fld := ⟨0x18, 0x160, 0, 8, .wo, 0, .any⟩
def F.GMON_HIST_CLR_GO : Fld := ⟨0x18, 0x160, 31, 1, .wo, 0, .any⟩

/-- Every field of the BRC pages. -/
def fieldsBRC (q : Nat) : List Fld :=
  [F.BRC_AFE_CUR_GAIN q]
  ++ [F.BRC_AFE_CUR_BOOST q]
  ++ [F.BRC_AFE_OVR_GAIN q]
  ++ [F.BRC_AFE_OVR_BOOST q]
  ++ [F.BRC_AFE_OVR_OVR_EN q]
  ++ (List.range 8).map (fun i => F.BRC_SK q i)
  ++ [F.BRC_ADAPT_CTL_EN_OFS q]
  ++ [F.BRC_ADAPT_CTL_EN_GAIN q]
  ++ [F.BRC_ADAPT_CTL_EN_ASYM q]
  ++ [F.BRC_ADAPT_CTL_EN_TR q]
  ++ [F.BRC_ADAPT_CTL_EN_EQ q]
  ++ [F.BRC_ADAPT_CTL_MU_OFS q]
  ++ [F.BRC_ADAPT_CTL_MU_GAIN q]
  ++ [F.BRC_ADAPT_CTL_MU_ASYM q]
  ++ [F.BRC_ADAPT_CTL_MU_EQ q]
  ++ [F.BRC_ADAPT_CTL_GAIN_TGT q]
  ++ [F.BRC_CORR_CUR_OFS q]
  ++ [F.BRC_CORR_CUR_GAIN q]
  ++ [F.BRC_CORR_CUR_ASYM q]
  ++ [F.BRC_TR_CTL_KP q]
  ++ [F.BRC_TR_CTL_KI q]
  ++ [F.BRC_TR_STS_FERR q]
  ++ [F.BRC_TR_STS_RESETS q]
  ++ [F.BRC_TR_STS_LOCK q]
  ++ (List.range 4).map (fun i => F.BRC_PR_CUR q i)
  ++ [F.BRC_QUAL_SNR q]
  ++ [F.BRC_QUAL_JITTER q]
  ++ [F.BRC_LANE_STS_SYNC q]
  ++ [F.BRC_LANE_STS_FLYCNT q]
  ++ [F.BRC_LANE_STS_FROZEN q]
  ++ [F.BRC_LANE_STS_BRM q]
  ++ [F.BRC_LANE_STS_BLANK q]
  ++ [F.BRC_LANE_STS_STRAND q]

/-- Every field of the XTC page. -/
def fieldsXTC : List Fld :=
  [F.XTC_CTL_EN]
  ++ [F.XTC_CTL_ACTIVE_SET]
  ++ (List.range 8).map (fun i => F.XTC_ALIGN i)
  ++ [F.XTC_ZT_BASE]
  ++ [F.XTC_EQ_SEL_LANE]
  ++ [F.XTC_EQ_SEL_SET]
  ++ [F.XTC_EQ_SEL_TAP]
  ++ [F.XTC_EQ_SEL_AUTOINC]
  ++ [F.XTC_EQ_DATA]

/-- Every field of the FSY page. -/
def fieldsFSY : List Fld :=
  [F.FSY_CTL_ALIGN_EN]
  ++ [F.FSY_CTL_NBR_CAND_EN]
  ++ [F.FSY_CTL_ADIP_CHECK]
  ++ [F.FSY_CTL_ALIGN_ACCEPT]
  ++ (List.range 8).map (fun i => F.FSY_SYNC_THR i)
  ++ [F.FSY_BLANK_CTL_BLANK_THR]
  ++ [F.FSY_BLANK_CTL_BLANK_FRAC]
  ++ (List.range 8).map (fun i => F.FSY_ADDR_LO i)
  ++ (List.range 8).map (fun i => F.FSY_ADDR_HI i)

/-- Every field of the DEC page. -/
def fieldsDEC : List Fld :=
  [F.DEC_CTL_ITER_NORM]
  ++ [F.DEC_CTL_ITER_RETRY]
  ++ [F.DEC_CTL_TURBO_MAX]
  ++ [F.DEC_CTL_NORM]
  ++ [F.DEC_CTL_EARLY_STOP]
  ++ [F.DEC_LLR_SCALE]
  ++ [F.DEC_POOL_STS_BUSY]
  ++ [F.DEC_POOL_STS_QUEUED]

/-- Every field of the OCD page. -/
def fieldsOCD : List Fld :=
  [F.OCD_CTL_SUSPECT_ERASE]
  ++ [F.OCD_CTL_SALVAGE]
  ++ [F.OCD_LAST_RES_ERASURES]
  ++ [F.OCD_LAST_RES_ERRORS]
  ++ [F.OCD_LAST_RES_FAILED_CW]
  ++ [F.OCD_LAST_RES_RESULT]
  ++ [F.OCD_LAST_PCN]

/-- Every field of the BRM page. -/
def fieldsBRM : List Fld :=
  [F.BRM_CTL_EN]
  ++ [F.BRM_CTL_ZERO_LLR]
  ++ [F.BRM_CTL_MIN_LEN]
  ++ [F.BRM_CTL_HOLD]
  ++ [F.BRM_CTL_SUSPECT_LEN]
  ++ (List.range 8).map (fun i => F.BRM_THR_LO i)
  ++ (List.range 8).map (fun i => F.BRM_THR_HI i)
  ++ [F.BRM_FLAG]

/-- Every field of the WOB page. -/
def fieldsWOB : List Fld :=
  [F.WOB_CTL_EN]
  ++ [F.WOB_CTL_REF_STRAND]
  ++ (List.range 8).map (fun i => F.WOB_MIX i)
  ++ [F.WOB_STS_PLL_LOCK]
  ++ [F.WOB_STS_ADIP_VALID]
  ++ [F.WOB_STS_ADIP_FAILS]
  ++ [F.WOB_FREQ]
  ++ [F.WOB_ADIP_LO]
  ++ [F.WOB_ADIP_HI]

/-- Every field of the RTY page. -/
def fieldsRTY : List Fld :=
  [F.RTY_CTL_STEP_EN]
  ++ [F.RTY_CTL_COMB_GAIN]
  ++ [F.RTY_CTL_BUDGET]
  ++ [F.RTY_OFFSETS_TRK_OFS]
  ++ [F.RTY_OFFSETS_FOC_OFS]
  ++ [F.RTY_OFFSETS_SA_OFS]
  ++ [F.RTY_STATUS_STEP]
  ++ [F.RTY_STATUS_ACTIVE]
  ++ [F.RTY_PCN]
  ++ [F.RTY_LAST_RESULT_STEP]
  ++ [F.RTY_LAST_RESULT_TIME]
  ++ [F.RTY_STORE_STS]

/-- Every field of the WRC page. -/
def fieldsWRC : List Fld :=
  [F.WRC_CTL_EN]
  ++ [F.WRC_CTL_STOP]
  ++ [F.WRC_STS_STATE]
  ++ [F.WRC_STS_LAST_STOP]
  ++ (List.range 8).map (fun i => F.WRC_WALIGN i)
  ++ [F.WRC_ASSY_CTL]
  ++ [F.WRC_STOP_CTL_OFFTRK]
  ++ [F.WRC_STOP_CTL_DEFOC]
  ++ [F.WRC_STOP_CTL_PU_TMAX]
  ++ [F.WRC_SEQ_LO]
  ++ [F.WRC_SEQ_HI]
  ++ [F.WRC_WPTR]
  ++ [F.WRC_LAST_SCAR]
  ++ [F.WRC_TEST_CTL_SLOT]
  ++ [F.WRC_TEST_CTL_LAYER]
  ++ [F.WRC_TEST_CTL_P_STEP]
  ++ [F.WRC_TEST_CTL_MQ_TARGET]
  ++ [F.WRC_TEST_CTL_MARGIN]
  ++ [F.WRC_TEST_CTL_RUN]
  ++ [F.WRC_TEST_STS_DONE]
  ++ [F.WRC_TEST_STS_FAIL]
  ++ (List.range 8).map (fun i => F.WRC_TEST_RES_P_OPT i)
  ++ (List.range 8).map (fun i => F.WRC_TEST_RES_BEST_MQ i)

/-- Every field of the TPY page. -/
def fieldsTPY : List Fld :=
  [F.TPY_CTL_HOLD_TABLE]
  ++ [F.TPY_CTL_MIN_PW]
  ++ [F.TPY_ST_BASE]
  ++ (List.range 32).map (fun i => F.TPY_STRAT_FPS (i / 4) (i % 4 + 1))
  ++ (List.range 32).map (fun i => F.TPY_STRAT_FPE (i / 4) (i % 4 + 1))
  ++ (List.range 32).map (fun i => F.TPY_STRAT_MPP (i / 4) (i % 4 + 1))
  ++ (List.range 32).map (fun i => F.TPY_STRAT_LPE (i / 4) (i % 4 + 1))
  ++ (List.range 32).map (fun i => F.TPY_STRAT_GAP (i / 4) (i % 4 + 1))
  ++ (List.range 8).map (fun i => F.TPY_POWER_PEAK i)
  ++ (List.range 8).map (fun i => F.TPY_POWER_BIAS i)
  ++ (List.range 8).map (fun i => F.TPY_POWER_SLOPE i)

/-- Every field of the LDI page. -/
def fieldsLDI : List Fld :=
  [F.LDI_CTL_LINK_EN]
  ++ [F.LDI_CTL_KILL]
  ++ [F.LDI_CMD_DATA]
  ++ [F.LDI_CMD_ADDR]
  ++ [F.LDI_CMD_READ]
  ++ [F.LDI_CMD_GO]
  ++ [F.LDI_RSP_DATA]
  ++ [F.LDI_RSP_STATUS]
  ++ [F.LDI_RSP_REFUSED]
  ++ [F.LDI_RSP_CRC_ERR]
  ++ [F.LDI_RSP_DONE]
  ++ [F.LDI_RSP_BUSY]
  ++ (List.range 8).map (fun i => F.LDI_READ i)
  ++ [F.LDI_STS_KILL_LATCH]
  ++ [F.LDI_STS_KILL_PIN]
  ++ [F.LDI_STS_CRC_ERRS]

/-- Every field of the VFY page. -/
def fieldsVFY : List Fld :=
  [F.VFY_CTL_EN]
  ++ [F.VFY_CTL_REPL_EN]
  ++ [F.VFY_CTL_LIMIT]
  ++ [F.VFY_CTL_THR]
  ++ [F.VFY_CTL_MAX_REPL]
  ++ [F.VFY_EMAX]
  ++ (List.range 8).map (fun i => F.VFY_DELAY i)
  ++ (List.range 8).map (fun i => F.VFY_SLICE i)
  ++ [F.VFY_LAST_MIN_MQ]
  ++ [F.VFY_LAST_MEAN_MQ]
  ++ [F.VFY_LAST_BELOW]
  ++ [F.VFY_LAST_FAILED]
  ++ [F.VFY_LAST_PCN]
  ++ (List.range 128).map (fun i => F.VFY_STEP_MQ (i / 8) (i % 8))

/-- Every field of the CLE page. -/
def fieldsCLE : List Fld :=
  [F.CLE_CTL]
  ++ [F.CLE_STS_RUN]
  ++ [F.CLE_STS_FAULT]
  ++ [F.CLE_STS_UCODE]
  ++ [F.CLE_DEF_CTL_MASK]
  ++ [F.CLE_DEF_CTL_MIN_LANES]
  ++ [F.CLE_DEF_CTL_DEF_MAX]
  ++ [F.CLE_SA_CTL]
  ++ [F.CLE_JUMP_CMD_LAYER]
  ++ [F.CLE_JUMP_CMD_GO]
  ++ [F.CLE_JUMP_STS_STATE]
  ++ [F.CLE_JUMP_STS_LAYER]
  ++ [F.CLE_JUMP_STS_FAIL]
  ++ [F.CLE_TJUMP_CMD_STRANDS]
  ++ [F.CLE_TJUMP_CMD_GO]
  ++ [F.CLE_TJUMP_STS_STATE]
  ++ [F.CLE_TJUMP_STS_FAIL]
  ++ [F.CLE_SWEEP_CTL_SLOT]
  ++ [F.CLE_SWEEP_CTL_DWELL]
  ++ [F.CLE_SWEEP_CTL_COUNT]
  ++ [F.CLE_SWEEP_CTL_GO]
  ++ [F.CLE_SWEEP_START]
  ++ [F.CLE_SWEEP_STEP]
  ++ [F.CLE_SWEEP_STS_STATE]
  ++ [F.CLE_SWEEP_STS_POINTS]
  ++ [F.CLE_CAP_IDX_IDX]
  ++ [F.CLE_CAP_IDX_AUTOINC]
  ++ [F.CLE_CAP_DATA]
  ++ (List.range 16).map (fun i => F.CLE_SA_LAYER_CODE_EVEN i)
  ++ (List.range 16).map (fun i => F.CLE_SA_LAYER_CODE_ODD i)
  ++ (List.range 64).map (fun i => F.CLE_KB_DUR (i / 16) (i % 16))
  ++ (List.range 64).map (fun i => F.CLE_KB_LEVEL (i / 16) (i % 16))
  ++ (List.range 4).map (fun i => F.CLE_KB_BRK i)
  ++ (List.range 4).map (fun i => F.CLE_KB_DC i)
  ++ (List.range 4).map (fun i => F.CLE_KB_TMO i)

/-- Every field of the SLT pages. -/
def fieldsSLT (q : Nat) : List Fld :=
  [F.SLT_STATE_MODE q]
  ++ [F.SLT_STATE_CAUSE q]
  ++ [F.SLT_STATE_ARMED q]
  ++ [F.SLT_STATE_DEFECT q]
  ++ [F.SLT_STATE_SWEEP q]
  ++ [F.SLT_STATE_SEQ q]
  ++ [F.SLT_STATE_FF_ACT q]
  ++ [F.SLT_CMD q]
  ++ [F.SLT_MANUAL q]
  ++ [F.SLT_TGT q]
  ++ [F.SLT_TGT_SLEW q]
  ++ [F.SLT_TRIM_OFS q]
  ++ [F.SLT_TRIM_GAIN q]
  ++ [F.SLT_TRIM_CUR_OFS q]
  ++ [F.SLT_TRIM_CUR_GAIN q]
  ++ [F.SLT_ERR q]
  ++ [F.SLT_FERR q]
  ++ [F.SLT_SUMV q]
  ++ [F.SLT_OUT q]
  ++ [F.SLT_OUT_CODE q]
  ++ [F.SLT_INTEG q]
  ++ [F.SLT_RESID q]
  ++ [F.SLT_GL_STS_COUNT q]
  ++ [F.SLT_GL_STS_TRIPS q]
  ++ [F.SLT_FF_IDX_IDX q]
  ++ [F.SLT_FF_IDX_AUTOINC q]
  ++ [F.SLT_FF_DATA q]
  ++ (List.range 36).map (fun i => F.SLT_MIX q (i / 12) (i % 12))
  ++ [F.SLT_MIX_CTL q]
  ++ [F.SLT_OFS q]
  ++ [F.SLT_GAIN q]
  ++ [F.SLT_UNIT q]
  ++ [F.SLT_BQ_CTL q]
  ++ (List.range 40).map (fun i => F.SLT_BQ q (i / 5) (i % 5))
  ++ (List.range 8).map (fun i => F.SLT_BQ_SH q i)
  ++ [F.SLT_PID_CTL_D_EN q]
  ++ [F.SLT_PID_CTL_GEXP q]
  ++ [F.SLT_KP q]
  ++ [F.SLT_KI q]
  ++ [F.SLT_KD q]
  ++ [F.SLT_ILIM_HI q]
  ++ [F.SLT_ILIM_LO q]
  ++ [F.SLT_FF_CTL_EN q]
  ++ [F.SLT_FF_CTL_LEARN q]
  ++ [F.SLT_FF_CTL_MU q]
  ++ [F.SLT_FF_CTL_LEAK q]
  ++ [F.SLT_FF_CTL_ADV q]
  ++ [F.SLT_OLIM_HI q]
  ++ [F.SLT_OLIM_LO q]
  ++ [F.SLT_SLEW q]
  ++ [F.SLT_ACQ_LO q]
  ++ [F.SLT_ACQ_HI q]
  ++ [F.SLT_ACQ_RATE q]
  ++ [F.SLT_ACQ_CTL_SWEEPS q]
  ++ [F.SLT_ACQ_CTL_POL q]
  ++ [F.SLT_ACQ_CTL_SWEEP_EN q]
  ++ [F.SLT_ACQ_CTL_DIR q]
  ++ [F.SLT_ACQ_CTL_COUNT q]
  ++ [F.SLT_ACQ_CTL_TMO q]
  ++ [F.SLT_CAP_SLOPE q]
  ++ [F.SLT_SUM_THR q]
  ++ [F.SLT_LOSS_THR q]
  ++ [F.SLT_LOSS_N q]
  ++ (List.range 5).map (fun i => F.SLT_GL_C q (i + 1))
  ++ (List.range 3).map (fun i => F.SLT_GL_L q (i + 1))
  ++ [F.SLT_GL_THR q]
  ++ [F.SLT_GL_CTL_N q]
  ++ [F.SLT_GL_CTL_ARM q]
  ++ [F.SLT_GL_CTL_EN q]

/-- Every field of the SPN page. -/
def fieldsSPN : List Fld :=
  [F.SPN_CMD]
  ++ [F.SPN_STS_STATE]
  ++ [F.SPN_STS_REVERSE]
  ++ [F.SPN_STS_VLIM]
  ++ [F.SPN_STS_CHOP_ON]
  ++ [F.SPN_STS_CHOP_FAULT]
  ++ [F.SPN_STS_IN_01]
  ++ [F.SPN_STS_IN_05]
  ++ [F.SPN_STS_IN_1]
  ++ [F.SPN_STS_CAUSE]
  ++ [F.SPN_STS_ANG_EPOCH]
  ++ [F.SPN_SPEED_CMD]
  ++ [F.SPN_RAMP]
  ++ [F.SPN_SPEED]
  ++ [F.SPN_ANGLE_MECH]
  ++ [F.SPN_ANGLE_ELEC]
  ++ [F.SPN_CFG_POLE_PAIRS]
  ++ [F.SPN_CFG_DIR_SWAP]
  ++ [F.SPN_PWM]
  ++ [F.SPN_SHUNT_TSAMP]
  ++ [F.SPN_SHUNT_WIN]
  ++ [F.SPN_SHUNT_STS]
  ++ [F.SPN_SHUNT_R]
  ++ [F.SPN_I_FS]
  ++ [F.SPN_ILOOP_KP]
  ++ [F.SPN_ILOOP_KI]
  ++ [F.SPN_MOTOR_R_PH]
  ++ [F.SPN_MOTOR_L_PH]
  ++ [F.SPN_KE]
  ++ [F.SPN_SIXSTEP_ALIGN_T]
  ++ [F.SPN_SIXSTEP_SS_I]
  ++ [F.SPN_SIXSTEP_SOFT]
  ++ [F.SPN_SIXSTEP_SS_TMO]
  ++ [F.SPN_SS_RAMP_START]
  ++ [F.SPN_SS_RAMP_ACC]
  ++ [F.SPN_CATCH_WIN]
  ++ [F.SPN_CATCH_HYST]
  ++ [F.SPN_VBUS_THR_CHOP_ON]
  ++ [F.SPN_VBUS_THR_CHOP_OFF]
  ++ [F.SPN_VBUS_THR_CHOP_FAIL]
  ++ [F.SPN_VBUS_THR_OV]
  ++ [F.SPN_VBUS_UV]
  ++ [F.SPN_CHOP_CHK]
  ++ [F.SPN_OC_THR]
  ++ [F.SPN_VBUS]
  ++ [F.SPN_IDQ_IQ]
  ++ [F.SPN_IDQ_ID]
  ++ [F.SPN_STOP_CTL_SB_PER]
  ++ [F.SPN_STOP_CTL_SB_GAP]
  ++ [F.SPN_STOP_CTL_HOLD]
  ++ [F.SPN_TBL_IDX_IDX]
  ++ [F.SPN_TBL_IDX_AUTOINC]
  ++ [F.SPN_TBL_DATA]

/-- Every field of the SLD page. -/
def fieldsSLD : List Fld :=
  [F.SLD_CMD_OP]
  ++ [F.SLD_CMD_FIRST]
  ++ [F.SLD_CMD_LAST]
  ++ [F.SLD_STS_STATE]
  ++ [F.SLD_STS_SUCC]
  ++ [F.SLD_STS_HOMED]
  ++ [F.SLD_STS_RES]
  ++ [F.SLD_STS_SEG]
  ++ [F.SLD_STS_HOME_SW]
  ++ [F.SLD_POS]
  ++ [F.SLD_VEL]
  ++ [F.SLD_SCALE_SPEED]
  ++ [F.SLD_SCALE_ACC]
  ++ [F.SLD_SCALE_CUR]
  ++ [F.SLD_DECEL]
  ++ [F.SLD_LIM_LO]
  ++ [F.SLD_LIM_HI]
  ++ [F.SLD_HOME_VEL]
  ++ [F.SLD_HOME_BACKOFF]
  ++ [F.SLD_HOME_TMO]
  ++ [F.SLD_CUR_I_RUN]
  ++ [F.SLD_CUR_I_HOLD]
  ++ [F.SLD_HOLD_DELAY]
  ++ [F.SLD_FOLLOW_VMAX]
  ++ [F.SLD_FOLLOW_ACC]
  ++ [F.SLD_ILOOP_KP]
  ++ [F.SLD_ILOOP_KI]
  ++ [F.SLD_SENSE_R]
  ++ [F.SLD_OC_THR]
  ++ [F.SLD_I_MEAS_IA]
  ++ [F.SLD_I_MEAS_IB]
  ++ (List.range 64).map (fun i => F.SLD_SEG_A_DUR i)
  ++ (List.range 64).map (fun i => F.SLD_SEG_A_END_VEL i)
  ++ (List.range 64).map (fun i => F.SLD_SEG_B i)

/-- Every field of the CAL page. -/
def fieldsCAL : List Fld :=
  [F.CAL_CTL_EN]
  ++ [F.CAL_CTL_HOLD]
  ++ [F.CAL_CTL_FORCE]
  ++ [F.CAL_CTL_STRAT_EN]
  ++ [F.CAL_CTL_ADC_EN]
  ++ [F.CAL_CTL_ZONE_EN]
  ++ [F.CAL_CTL_SERVO_EN]
  ++ [F.CAL_CTL_BRM_EN]
  ++ [F.CAL_CTL_FSY_EN]
  ++ [F.CAL_STS_BUF]
  ++ [F.CAL_STS_TEMP_BAD]
  ++ [F.CAL_STS_PENDING]
  ++ [F.CAL_STS_FORMING]
  ++ [F.CAL_SET_VALID]
  ++ [F.CAL_SRC_BASE]
  ++ [F.CAL_WORK_BASE]
  ++ [F.CAL_TEMP_NOW]
  ++ [F.CAL_TEMP_USED]
  ++ [F.CAL_PERIOD_DELTA]
  ++ [F.CAL_PERIOD_RECOMP]
  ++ [F.CAL_GEN]
  ++ [F.CAL_CNT_DISCARD]
  ++ [F.CAL_CNT_DEFER]
  ++ [F.CAL_PDELTA_IDX_IDX]
  ++ [F.CAL_PDELTA_IDX_AUTOINC]
  ++ [F.CAL_PDELTA_DATA]

/-- Every field of the MAP page. -/
def fieldsMAP : List Fld :=
  [F.MAP_CTL]
  ++ [F.MAP_STS_STATE]
  ++ [F.MAP_STS_DIRECT]
  ++ [F.MAP_STS_SEALED]
  ++ [F.MAP_STS_CKPT_ACTIVE]
  ++ [F.MAP_STS_READ_ONLY]
  ++ [F.MAP_STS_FALLBACK]
  ++ [F.MAP_REC_TOTAL]
  ++ [F.MAP_REC_USED]
  ++ [F.MAP_REC_RSVD]
  ++ [F.MAP_CKPT_CTL_INTERVAL]
  ++ [F.MAP_CKPT_CTL_EST_LIMIT]
  ++ [F.MAP_CKPT_NUM]
  ++ [F.MAP_CKPT_PCN]
  ++ [F.MAP_SINCE_CKPT]
  ++ [F.MAP_REPLAY_EST]
  ++ [F.MAP_REPLAY_START_LO]
  ++ [F.MAP_REPLAY_START_HI]
  ++ [F.MAP_MOUNT_TIME]
  ++ [F.MAP_GROUPS_APPLIED]
  ++ [F.MAP_GROUPS_DISCARDED]
  ++ [F.MAP_CLUSTERS_REPLAYED]
  ++ [F.MAP_PROBE_LBA_LBA]
  ++ [F.MAP_PROBE_LBA_GO]
  ++ (List.range 4).map (fun i => F.MAP_PROBE_REC i)
  ++ [F.MAP_PROBE_STS_DONE]
  ++ [F.MAP_PROBE_STS_SOURCE]

/-- Every field of the LTC page. -/
def fieldsLTC : List Fld :=
  [F.LTC_CTL_EN]
  ++ [F.LTC_CTL_STREAM_EN]
  ++ [F.LTC_CTL_STREAM_MIN]
  ++ [F.LTC_STS_VALID]
  ++ [F.LTC_STS_EVB_USED]
  ++ [F.LTC_STS_MISS_BUSY]
  ++ [F.LTC_STS_LOCKED]
  ++ [F.LTC_LOCK_STS_LOCKINV]
  ++ [F.LTC_LOCK_STS_LOCK_VALID]
  ++ (List.range 4).map (fun i => F.LTC_LOCK_ANCHOR i)
  ++ [F.LTC_INV_LBA]
  ++ [F.LTC_INV_LEN]
  ++ [F.LTC_INV_CTL_GO]
  ++ [F.LTC_INV_CTL_ACK]
  ++ [F.LTC_MERGED]
  ++ [F.LTC_STALE]

/-- Every field of the CMP page. -/
def fieldsCMP : List Fld :=
  [F.CMP_CTL_HS_EN]
  ++ [F.CMP_CTL_DEFL_EN]
  ++ [F.CMP_CTL_CHECK_EN]
  ++ [F.CMP_CTL_LAZY]
  ++ [F.CMP_CTL_DEFL_MODE]
  ++ [F.CMP_CTL_CHAIN]
  ++ [F.CMP_STS_MOUNT_COMP]
  ++ [F.CMP_STS_WR_BUSY]
  ++ [F.CMP_STS_RD_BUSY]
  ++ [F.CMP_STS_XF_BUSY]
  ++ [F.CMP_STS_XF_PREEMPTED]
  ++ [F.CMP_STS_AHEAD]
  ++ [F.CMP_BLK_HS]
  ++ [F.CMP_BLK_DEFL]
  ++ [F.CMP_BLK_RAW]
  ++ [F.CMP_CHECK_FAIL]
  ++ [F.CMP_RD_FAIL_HDR]
  ++ [F.CMP_RD_FAIL_CRC]
  ++ [F.CMP_RD_FAIL_LBA]
  ++ [F.CMP_UNDERRUN]
  ++ [F.CMP_XF_IN]
  ++ [F.CMP_XF_OUT]

/-- Every field of the XTS page. -/
def fieldsXTS : List Fld :=
  [F.XTS_STS_KEY_VALID]
  ++ [F.XTS_STS_DISC_ENC]
  ++ [F.XTS_KEY_ID]
  ++ [F.XTS_BLK_ENC]
  ++ [F.XTS_BLK_DEC]
  ++ [F.XTS_DENIED]
  ++ [F.XTS_SELFTEST_GO]
  ++ [F.XTS_SELFTEST_DONE]
  ++ [F.XTS_SELFTEST_PASS]

/-- Every field of the PCI page. -/
def fieldsPCI : List Fld :=
  [F.PCI_LINK_STS_SPEED]
  ++ [F.PCI_LINK_STS_WIDTH]
  ++ [F.PCI_LINK_STS_DL_UP]
  ++ [F.PCI_LINK_STS_REVERSED]
  ++ [F.PCI_LINK_STS_L1_STATE]
  ++ [F.PCI_LINK_CAP_MAX_SPEED]
  ++ [F.PCI_LINK_CAP_MAX_WIDTH]
  ++ [F.PCI_TAG_STS_IN_USE]
  ++ [F.PCI_TAG_STS_LIMIT]
  ++ [F.PCI_CPL_ERR_TIMEOUTS]
  ++ [F.PCI_CPL_ERR_BAD_STATUS]
  ++ [F.PCI_LATE_CPL]
  ++ [F.PCI_BME_STS_STALLED]
  ++ [F.PCI_BME_STS_MS]
  ++ [F.PCI_TIMEOUT]

/-- Every field of the DMA page. -/
def fieldsDMA : List Fld :=
  [F.DMA_STS_ACTIVE]
  ++ [F.DMA_STS_STALLED]
  ++ [F.DMA_INTERNAL]
  ++ (List.range 16).map (fun i => F.DMA_WEIGHT i)
  ++ [F.DMA_LAST_ERR_SLOT]
  ++ [F.DMA_LAST_ERR_CHANNEL]
  ++ [F.DMA_LAST_ERR_CAUSE]
  ++ [F.DMA_LAST_ERR_VALID]
  ++ [F.DMA_LAST_ERR_ADDR_LO]
  ++ [F.DMA_LAST_ERR_ADDR_HI]

/-- Every field of the WIN page. -/
def fieldsWIN : List Fld :=
  [F.WIN_TBL_IDX_IDX]
  ++ [F.WIN_TBL_IDX_AUTOINC]
  ++ [F.WIN_TBL_DATA_VALID]
  ++ [F.WIN_TBL_DATA_WP]
  ++ [F.WIN_TBL_DATA_CHANNEL]
  ++ [F.WIN_TBL_DATA_FRAME]
  ++ [F.WIN_STS_SYNCING]
  ++ [F.WIN_STS_VALID_PAGES]
  ++ [F.WIN_ERR_OFS]
  ++ [F.WIN_ERR_KIND_KIND]
  ++ [F.WIN_ERR_KIND_WRITE]
  ++ [F.WIN_ERR_COUNT]

/-- Every field of the SCH page. -/
def fieldsSCH : List Fld :=
  [F.SCH_CTL_AGE_LIMIT]
  ++ [F.SCH_CTL_READ_PREEMPT]
  ++ [F.SCH_CMD_LIMIT]
  ++ [F.SCH_WB_WB_MAX]
  ++ [F.SCH_WB_WB_HIGH]
  ++ [F.SCH_QUEUED]
  ++ [F.SCH_OLDEST]
  ++ [F.SCH_WB_USED]
  ++ [F.SCH_AGED]
  ++ [F.SCH_PREEMPTS]
  ++ [F.SCH_CANCELS_CANCELLED]
  ++ [F.SCH_CANCELS_COMPLETING]

/-- Every field of the DRC page. -/
def fieldsDRC : List Fld :=
  [F.DRC_STS_TRAINED]
  ++ [F.DRC_STS_FILL_BUSY]
  ++ [F.DRC_STS_SELF_REFRESH]
  ++ [F.DRC_STS_MR4_RATE]
  ++ [F.DRC_RETRAIN_GO]
  ++ [F.DRC_RETRAIN_PERIOD]
  ++ [F.DRC_FILL_TIME]

/-- Every field of the ECC page. -/
def fieldsECC : List Fld :=
  [F.ECC_CTL]
  ++ [F.ECC_BUCKET_LEVEL]
  ++ [F.ECC_BUCKET_THR]
  ++ [F.ECC_LEAK]
  ++ [F.ECC_CE_COUNT]
  ++ [F.ECC_UE_COUNT]
  ++ [F.ECC_LAST_CE]
  ++ [F.ECC_FIRST_UE_WORD]
  ++ [F.ECC_FIRST_UE_VALID]
  ++ [F.ECC_STS]

/-- Every field of the SCB page. -/
def fieldsSCB : List Fld :=
  [F.SCB_START]
  ++ [F.SCB_END]
  ++ [F.SCB_CTL_GO]
  ++ [F.SCB_CTL_STOP]
  ++ [F.SCB_CTL_RATE]
  ++ [F.SCB_STS_BUSY]
  ++ [F.SCB_STS_DONE]
  ++ [F.SCB_STS_STOPPED]
  ++ [F.SCB_STS_REFUSED]
  ++ [F.SCB_WORDS_READ]
  ++ [F.SCB_CORRECTED]
  ++ [F.SCB_UNCORR]
  ++ [F.SCB_FIRST_UE]
  ++ [F.SCB_LAST_UE]
  ++ [F.SCB_POSITION]

/-- Every field of the PWR page. -/
def fieldsPWR : List Fld :=
  [F.PWR_RAIL_STS_GOOD]
  ++ [F.PWR_RAIL_STS_WARN]
  ++ [F.PWR_PFW_CTL_EN]
  ++ [F.PWR_PFW_CTL_GPIO]
  ++ [F.PWR_PFW_CTL_POL]
  ++ [F.PWR_BIV_CTL]
  ++ [F.PWR_BIV_DELAY]
  ++ [F.PWR_BIV_STS]
  ++ [F.PWR_WAKE]
  ++ [F.PWR_CHPWR_STS]
  ++ [F.PWR_PFW_COUNT]

/-- Every field of the CLK page. -/
def fieldsCLK : List Fld :=
  [F.CLK_PLL_STS_PORT]
  ++ [F.CLK_PLL_STS_PCIE]
  ++ [F.CLK_PLL_STS_LINK_A]
  ++ [F.CLK_PLL_STS_LINK_B]
  ++ [F.CLK_SSC_CTL_EN]
  ++ [F.CLK_SSC_CTL_DEPTH]
  ++ [F.CLK_XO_CTL]
  ++ [F.CLK_XO_STS_XO50_RUN]
  ++ [F.CLK_XO_STS_XO32K_RUN]
  ++ [F.CLK_XO_STS_STOPS]

/-- Every field of the RST page. -/
def fieldsRST : List Fld :=
  [F.RST_CAUSE_PIN]
  ++ [F.RST_CAUSE_BROWNOUT]
  ++ [F.RST_CAUSE_RAIL]
  ++ [F.RST_CAUSE_PLL]
  ++ [F.RST_CAUSE_XO]
  ++ [F.RST_COUNTS_PERST]
  ++ [F.RST_COUNTS_FLR]
  ++ [F.RST_COUNTS_CTRL]
  ++ [F.RST_WDT_CTL_STW_MS]
  ++ [F.RST_WDT_CTL_FE_MS]
  ++ [F.RST_WDT_LAST_KIND]
  ++ [F.RST_WDT_LAST_CHANNEL]

/-- Every field of the AON page. -/
def fieldsAON : List Fld :=
  [F.AON_TIME_LO]
  ++ [F.AON_TIME_HI]
  ++ [F.AON_TIME_SRC]
  ++ [F.AON_FENCE]
  ++ [F.AON_INPUTS_DISCP]
  ++ [F.AON_INPUTS_LDRQ]
  ++ [F.AON_WAKE_LAST_CHANNEL]
  ++ [F.AON_WAKE_LAST_SOURCE]

/-- Every field of the TMP page. -/
def fieldsTMP : List Fld :=
  [F.TMP_TEMP_PORT]
  ++ [F.TMP_TEMP_A]
  ++ [F.TMP_TEMP_B]
  ++ [F.TMP_THR_WARN]
  ++ [F.TMP_THR_THR1]
  ++ [F.TMP_THR_THR2]
  ++ [F.TMP_THR_HYST]
  ++ [F.TMP_STS_LEVEL]
  ++ [F.TMP_STS_TRIPPED]
  ++ [F.TMP_STS_ALERT]
  ++ [F.TMP_FAN_DUTY_MIN]
  ++ [F.TMP_FAN_DUTY_MAX]
  ++ [F.TMP_FAN_T_LO]
  ++ [F.TMP_FAN_T_HI]
  ++ [F.TMP_FAN_DUTY]

/-- Every field of the SEC page. -/
def fieldsSEC : List Fld :=
  [F.SEC_STS_STORE_READY]
  ++ [F.SEC_STS_DEBUG_OPEN]
  ++ [F.SEC_STS_TAMPER]
  ++ [F.SEC_STS_DBGEN]
  ++ [F.SEC_STS_CAUSE]
  ++ [F.SEC_STS_KEYS]
  ++ [F.SEC_ZERO_COUNT]
  ++ [F.SEC_KEYS_LOST]
  ++ [F.SEC_DBG_CTL]
  ++ [F.SEC_DBG_STS_STATE]
  ++ [F.SEC_DBG_STS_FAILS]
  ++ (List.range 12).map (fun i => F.SEC_DBG_CHAL i)

/-- Every field of the BOOT page. -/
def fieldsBOOT : List Fld :=
  [F.BOOT_STS_SLOT]
  ++ [F.BOOT_STS_FALLBACK]
  ++ [F.BOOT_STS_HALT]
  ++ [F.BOOT_STS_FAIL_SLOTS]
  ++ [F.BOOT_TABLE_ACTIVE]
  ++ [F.BOOT_TABLE_PREVIOUS]
  ++ [F.BOOT_TABLE_NEXT]
  ++ [F.BOOT_TABLE_TRIAL]
  ++ [F.BOOT_SVN_MIN]
  ++ [F.BOOT_SVN_RUN]
  ++ [F.BOOT_STAGE_BYTES]
  ++ [F.BOOT_STAGE_ERASED]
  ++ [F.BOOT_VERIFY_MS]
  ++ [F.BOOT_FLASH_ERR]
  ++ (List.range 4).map (fun i => F.BOOT_SLOT_VER_LO (i + 1))
  ++ (List.range 4).map (fun i => F.BOOT_SLOT_VER_HI (i + 1))
  ++ (List.range 4).map (fun i => F.BOOT_SLOT_STS_VALID (i + 1))
  ++ (List.range 4).map (fun i => F.BOOT_SLOT_STS_SVN (i + 1))
  ++ (List.range 4).map (fun i => F.BOOT_SLOT_STS_KEY (i + 1))

/-- Every field of the MON page. -/
def fieldsMON : List Fld :=
  [F.MON_PU_TEMP_T]
  ++ [F.MON_PU_TEMP_BAD]
  ++ [F.MON_PU_LIMITS_LO_CODE]
  ++ [F.MON_PU_LIMITS_HI_CODE]
  ++ [F.MON_HIST_IDX]
  ++ [F.MON_HIST_CFG_EN]
  ++ [F.MON_HIST_CFG_SCALE]
  ++ [F.MON_HIST_CFG_OVF]
  ++ [F.MON_HIST_LOW]
  ++ [F.MON_HIST_WIDTH]
  ++ [F.MON_SNAP_CTL_GO]
  ++ [F.MON_SNAP_CTL_DONE]
  ++ [F.MON_SNAP_CTL_SRC]
  ++ [F.MON_SNAP_IDX_WORD]
  ++ [F.MON_SNAP_IDX_AUTOINC]
  ++ [F.MON_SNAP_DATA]
  ++ [F.MON_MM_CLR_SRC]
  ++ [F.MON_MM_CLR_GO]
  ++ [F.MON_HIST_CLR_SRC]
  ++ [F.MON_HIST_CLR_GO]

/-- Every field of the CNT page. -/
def fieldsCNT : List Fld :=
  [F.CNT_CNT_IDX_IDX]
  ++ [F.CNT_CNT_IDX_AUTOINC]
  ++ [F.CNT_CNT_LO]
  ++ [F.CNT_CNT_HI]
  ++ [F.CNT_SAT]
  ++ [F.CNT_CLEAR]

/-- Every field of the GMON page. -/
def fieldsGMON : List Fld :=
  [F.GMON_FE_STS_ACTIVE_PAIR]
  ++ [F.GMON_FE_STS_STANDBY_READY]
  ++ [F.GMON_FE_STS_STANDBY_RETIRED]
  ++ [F.GMON_FE_STS_FAILOVERS]
  ++ [F.GMON_FE_STS_LAST_CAUSE]
  ++ [F.GMON_FE_LAST_LO]
  ++ [F.GMON_FE_LAST_HI]
  ++ [F.GMON_LINK_A_STS_SPARES_USED]
  ++ [F.GMON_LINK_A_STS_DEGRADED]
  ++ [F.GMON_LINK_A_STS_RETRAINS]
  ++ [F.GMON_LINK_A_STS_REPLAYS]
  ++ [F.GMON_LINK_B_STS_SPARES_USED]
  ++ [F.GMON_LINK_B_STS_DEGRADED]
  ++ [F.GMON_LINK_B_STS_RETRAINS]
  ++ [F.GMON_LINK_B_STS_REPLAYS]
  ++ [F.GMON_QUAR]
  ++ [F.GMON_QMG_RETIRED]
  ++ [F.GMON_FE_CMD_LIMIT]
  ++ [F.GMON_TIME_LIMIT]
  ++ [F.GMON_HIST_IDX]
  ++ [F.GMON_HIST_CFG_EN]
  ++ [F.GMON_HIST_CFG_SCALE]
  ++ [F.GMON_HIST_CFG_OVF]
  ++ [F.GMON_HIST_LOW]
  ++ [F.GMON_HIST_WIDTH]
  ++ [F.GMON_SNAP_CTL_GO]
  ++ [F.GMON_SNAP_CTL_DONE]
  ++ [F.GMON_SNAP_CTL_SRC]
  ++ [F.GMON_SNAP_IDX_WORD]
  ++ [F.GMON_SNAP_IDX_AUTOINC]
  ++ [F.GMON_SNAP_DATA]
  ++ [F.GMON_MM_CLR_SRC]
  ++ [F.GMON_MM_CLR_GO]
  ++ [F.GMON_HIST_CLR_SRC]
  ++ [F.GMON_HIST_CLR_GO]

/-- Every field of the HDR pages. -/
def fieldsHDR (q : Nat) : List Fld :=
  [F.HDR_BLK_ID_CHANNEL q]
  ++ [F.HDR_BLK_ID_INSTANCE q]
  ++ [F.HDR_BLK_ID_TYPE q]
  ++ [F.HDR_BLK_ID_LEVEL q]
  ++ [F.HDR_BLK_VER_MINOR q]
  ++ [F.HDR_BLK_VER_MAJOR q]
  ++ [F.HDR_BLK_CTL_EN q]
  ++ [F.HDR_BLK_CTL_SRST q]
  ++ [F.HDR_BLK_CTL_FREEZE q]
  ++ [F.HDR_BLK_CTL_QUIESCE q]
  ++ [F.HDR_BLK_STS_READY q]
  ++ [F.HDR_BLK_STS_BUSY q]
  ++ [F.HDR_BLK_STS_QUIESCED q]
  ++ [F.HDR_BLK_STS_FAULT q]
  ++ [F.HDR_BLK_STS_STATE q]
  ++ [F.HDR_IRQ_RAW q]
  ++ [F.HDR_IRQ_EN q]
  ++ [F.HDR_IRQ_STS q]
  ++ [F.HDR_IRQ_TEST q]
  ++ [F.HDR_ERR_FIRST_OFS q]
  ++ [F.HDR_ERR_FIRST_FLYSHEET q]
  ++ [F.HDR_ERR_FIRST_CODE q]
  ++ [F.HDR_ERR_FIRST_VALID q]
  ++ [F.HDR_ERR_INFO q]
  ++ [F.HDR_ERR_COUNT q]
  ++ [F.HDR_SET_STS_BANK q]
  ++ [F.HDR_SET_STS_PENDING q]
  ++ [F.HDR_SET_STS_DONE q]
  ++ [F.HDR_SET_STS_REFUSED q]
  ++ [F.HDR_SET_STS_CAUSE q]
  ++ [F.HDR_SET_STS_WHEN q]
  ++ [F.HDR_SET_STS_SYNCING q]
  ++ [F.HDR_SET_CMD_WHEN q]
  ++ [F.HDR_SET_CMD_GROUP q]
  ++ [F.HDR_SET_CMD_CANCEL q]
  ++ [F.HDR_SET_SEQ_DONE_N q]
  ++ [F.HDR_SET_SEQ_REFUSED_N q]
  ++ (List.range 8).map (fun i => F.HDR_PEND q i)

/-- Every field of the CHN page. -/
def fieldsCHN : List Fld :=
  [F.CHN_STS_STATE]
  ++ [F.CHN_STS_FENCE_CAUSE]
  ++ [F.CHN_STS_DISC_PRESENT]
  ++ [F.CHN_STS_LDRQ]
  ++ [F.CHN_STS_SAFE]
  ++ [F.CHN_STS_POWERED]
  ++ [F.CHN_SAFE_CTL_EN]
  ++ [F.CHN_SAFE_CTL_COAST_WAIT]
  ++ (List.range 8).map (fun i => F.CHN_GRP_MASK i)

/-- Every field of the STW page. -/
def fieldsSTW : List Fld :=
  [F.STW_STS_RUN]
  ++ [F.STW_STS_STOPPED]
  ++ [F.STW_STS_LAST_FAULT]
  ++ [F.STW_FW_VER_LO]
  ++ [F.STW_FW_VER_HI]
  ++ [F.STW_HEARTBEAT]

/-- Every field of the GBL page. -/
def fieldsGBL : List Fld :=
  [F.GBL_REV_SILICON]
  ++ [F.GBL_REV_DEVICE]
  ++ [F.GBL_DSN_LO]
  ++ [F.GBL_DSN_HI]
  ++ [F.GBL_FAULT_SUM_FENCE_FAULT]
  ++ [F.GBL_FAULT_SUM_CFS]
  ++ [F.GBL_FAULT_SUM_STANDBY_LOST]
  ++ [F.GBL_FAULT_SUM_THERMAL]
  ++ [F.GBL_FAULT_SUM_BOOT_FALLBACK]
  ++ [F.GBL_CH_PEND]

/-- Every field of the FEC page. -/
def fieldsFEC : List Fld :=
  [F.FEC_STS_ACTIVE_PAIR]
  ++ [F.FEC_STS_PP]
  ++ [F.FEC_VER_LO]
  ++ [F.FEC_VER_HI]
  ++ [F.FEC_ROUTED]

/-- Every field of the QMG page. -/
def fieldsQMG : List Fld :=
  [F.QMG_SLOTS]
  ++ [F.QMG_PEAK]
  ++ [F.QMG_QUEUES_SQ]
  ++ [F.QMG_QUEUES_CQ]
  ++ [F.QMG_ABORTS]

/-- Every field of the GPIO page. -/
def fieldsGPIO : List Fld :=
  [F.GPIO_DIR]
  ++ [F.GPIO_OUT]
  ++ [F.GPIO_IN]
  ++ [F.GPIO_EDGE_RISE]
  ++ [F.GPIO_EDGE_FALL]

/-- Every field of the SMB page. -/
def fieldsSMB : List Fld :=
  [F.SMB_CTL]
  ++ [F.SMB_STS_ADDR]
  ++ [F.SMB_STS_TIMEOUTS]
  ++ [F.SMB_STS_READS]

/-- The body and header fields of a channel page that Table 16-3 lists. -/
def channelFields (page : Nat) : Option (List Fld) :=
  (match page with
  | 0x00 => some fieldsCHN
  | 0x01 => some fieldsSTW
  | 0x08 => some fieldsCLE
  | 0x10 => some fieldsSPN
  | 0x11 => some fieldsSLD
  | 0x28 => some fieldsXTC
  | 0x29 => some fieldsFSY
  | 0x2A => some fieldsDEC
  | 0x2B => some fieldsOCD
  | 0x2C => some fieldsBRM
  | 0x2D => some fieldsWOB
  | 0x2E => some fieldsRTY
  | 0x30 => some fieldsWRC
  | 0x31 => some fieldsTPY
  | 0x32 => some fieldsLDI
  | 0x33 => some fieldsVFY
  | 0x38 => some fieldsCMP
  | 0x39 => some fieldsXTS
  | 0x40 => some fieldsMAP
  | 0x41 => some fieldsLTC
  | 0x48 => some fieldsDRC
  | 0x49 => some fieldsECC
  | 0x4A => some fieldsSCB
  | 0x50 => some fieldsCAL
  | 0x58 => some fieldsMON
  | 0x59 => some fieldsCNT
  | 0x60 => some fieldsSCH
  | _ =>
    if 0x09 ≤ page ∧ page ≤ 0x0F then some (fieldsSLT (page - 0x09))
    else if 0x20 ≤ page ∧ page ≤ 0x27 then some (fieldsBRC (page - 0x20))
    else none).map (fun l => fieldsHDR page ++ l)

/-- The body and header fields of a port die page that Table 16-4 lists. -/
def portFields (page : Nat) : Option (List Fld) :=
  (match page with
  | 0x00 => some fieldsGBL
  | 0x01 => some fieldsPWR
  | 0x02 => some fieldsCLK
  | 0x03 => some fieldsRST
  | 0x04 => some fieldsAON
  | 0x08 => some fieldsFEC
  | 0x09 => some fieldsQMG
  | 0x0A => some fieldsDMA
  | 0x0B => some fieldsPCI
  | 0x0C => some fieldsWIN
  | 0x10 => some fieldsSEC
  | 0x11 => some fieldsBOOT
  | 0x18 => some fieldsGMON
  | 0x19 => some fieldsTMP
  | 0x1A => some fieldsGPIO
  | 0x1B => some fieldsSMB
  | _ => none).map (fun l => fieldsHDR page ++ l)

/-- The fields of page `page` of region `rg`: region 0 is the port die, region `c + 1` channel `c` (R462). -/
def pageFields (rg page : Nat) : Option (List Fld) :=
  if rg = 0 then portFields page else if rg ≤ 16 then channelFields page else none

end Sys2Proof.Machine
end

