-- ==== Sys2Proof/Machine/State.lean ====
section
/-! DEFINITION. The state of the block: every register, queue, table, store and pin the spec gives the K3216, as plain
data, the queue of waiting commands, and the machine right after reset. -/

namespace Sys2Proof.Machine
open Sys2Proof

/-- A command's completion status: status code type, status code and Do Not Retry (Table 11-14). -/
structure Status where
  sct : Nat
  sc  : Nat
  dnr : Bool
  deriving DecidableEq, Repr

/-- What leaves the device, oldest first (R308: data, completion entry and message on one posted path). -/
inductive Out where
  /-- a posted memory write of the bytes to a host address (R302), with the channel whose command they are for -/
  | memWrite (addr : Nat) (data : List Byte) (chan : Option Nat)
  /-- a memory read request: tag, address, length (R303) -/
  | memRead (tag addr len : Nat)
  /-- a completion queue entry: address and its four dwords -/
  | cqe (addr : Nat) (dw : List Word)
  /-- an MSI-X message: vector, address and data from its table entry (R301) -/
  | msix (v addr data : Nat)
  /-- the completion of an inbound register or configuration read -/
  | readData (value : List Byte)
  /-- the completion of a staging window read; `ep` marks poisoned data (Table 10-7) -/
  | windowData (data : List Byte) (ep : Bool)
  /-- Unsupported Request, for an access no BAR claims (R299) -/
  | unsupported
  /-- Configuration Request Retry Status (R311) -/
  | retryStatus
  /-- the bytes an SMBus read returns, and the PEC that follows when one more byte is clocked (R478) -/
  | smbus (data : List Byte) (pec : Byte)
  /-- an SMBus byte left unacknowledged (R478) -/
  | smbusNack
  /-- what the debug mailbox answers, as bytes (R430) -/
  | debug (data : List Byte)
  /-- one transaction on a channel's laser driver link, as its transmitted word (R124) -/
  | laser (c : Nat) (word : Nat)
  /-- a cluster's frames as they are recorded from its first frame on: channel, PCN, and the channel bits of its 80 frames by
  cluster position (R113) -/
  | cluster (c pcn : Nat) (frames : List (List Bool))
  /-- the gate pulses of each beam over a cluster, in taps from its first bit: start and end (R118) -/
  | gates (c pcn : Nat) (pulses : List (List (Int × Int)))
  /-- writing of the cluster at a PCN ended in a row; `safety`: the row was cut short (R138, R139) -/
  | cut (c pcn row : Nat) (safety : Bool)
  /-- a test-area slot as it is written: layer, slot, the channel bits of frames 0 to 449 of each strand, and their gate pulses from the
  first of them on (R142, R118) -/
  | testArea (c layer slot : Nat) (frames : List (List (List Bool))) (pulses : List (List (Int × Int)))
  /-- a Latency Tolerance Reporting message, in µs (R297) -/
  | ltr (us : Nat)
  /-- Cnn_LKILL_N asserted or released (R129) -/
  | kill (c : Nat) (asserted : Bool)
  deriving DecidableEq, Repr

/-- Where a command slot stands (R324, R349 to R352, Table 15-4). -/
inductive SlotPhase where
  /-- fetched, its command not yet executed or routed -/
  | fetched
  /-- routed to a channel -/
  | routed
  /-- an admin command the front end is executing over time (Commit, Abort, Delete queue, AER) -/
  | executing
  /-- its completion record is in the slot, not yet posted -/
  | completed (st : Status) (dw0 dw1 : Word)
  /-- its completion is posted and a cancel answer is still awaited (R352) -/
  | posted
  deriving DecidableEq, Repr

/-- Why a cancel request went to a slot's command (R326, R349, R449). -/
inductive CancelCause where
  /-- an Abort command in slot `by_` -/
  | abort (by_ : Nat)
  /-- Delete I/O Submission Queue, in slot `by_` -/
  | deleteQueue (by_ : Nat)
  /-- the command time limit (R449) -/
  | timeLimit
  /-- controller reset, FLR or PERST#: no completion follows (R353, R311) -/
  | silent
  deriving DecidableEq, Repr

/-- One of the 65,536 command slots of the queue manager (R16, R324). -/
structure CmdSlot where
  /-- submission queue identifier -/
  sqid    : Nat
  /-- the 16 dwords of the entry -/
  entry   : List Word
  /-- the pieces the data pointer names, as addresses and lengths (R325) -/
  pieces  : List (Nat × Nat)
  /-- device time of the fetch -/
  fetched : Nat
  phase   : SlotPhase
  /-- the channel it was routed to, if any -/
  chan    : Option Nat
  /-- the cancel request outstanding for it -/
  cancel  : Option CancelCause
  /-- the channel's answer, CANCELLED = true, once it has arrived at the slot or is on its way -/
  answer  : Option Bool
  /-- the base of BAR4 in force at the fetch (R306) -/
  bar4    : Nat
  /-- data that has arrived for a Write, by byte offset in its transfer -/
  data    : List (Nat × List Byte)
  /-- dropped by a reset while work it started goes on: it ends without a completion (R311, R353) -/
  silent  : Bool
  deriving DecidableEq, Repr

/-- A submission queue (R323). -/
structure SubQueue where
  base : Nat
  size : Nat
  cqid : Nat
  head : Nat
  tail : Nat
  deriving DecidableEq, Repr

/-- A completion queue (R323). -/
structure CplQueue where
  base  : Nat
  size  : Nat
  head  : Nat
  tail  : Nat
  phase : Bool
  iv    : Nat
  ien   : Bool
  deriving DecidableEq, Repr

/-- One outstanding read of host memory: the piece of a Write command's data a tag stands for (R303). -/
structure ReadReq where
  slot : Nat
  chan : Nat
  addr : Nat
  /-- byte offset in the command's transfer -/
  ofs  : Nat
  len  : Nat
  got  : List Byte
  /-- device time of its issue -/
  since : Nat
  /-- discarded: a late completion is dropped without error (R305, R309, R311, R12) -/
  dead : Bool
  deriving DecidableEq, Repr

/-- One entry of the Error Information log (standard layout): error count, queue, command, status, LBA, namespace. -/
structure ErrEntry where
  count  : Nat
  sqid   : Nat
  cid    : Nat
  status : Nat
  lba    : Nat
  nsid   : Nat
  deriving DecidableEq, Repr

/-- One entry of the Lost Data log (Table 11-18); `lba` carries NO_LBA in bit 31. -/
structure LostEntry where
  num    : Nat
  time   : Nat
  pcn    : Nat
  lba    : Nat
  nsid   : Nat
  reason : Nat
  deriving DecidableEq, Repr

/-- One entry of the Event Trace log (R360). -/
structure TraceEntry where
  num  : Nat
  time : Nat
  chan : Nat
  page : Nat
  bit  : Nat
  err  : Nat
  info : Nat
  deriving DecidableEq, Repr

/-- The counts of the SMART / Health log of one namespace (R359). -/
structure Smart where
  blocksRead    : Nat
  blocksWritten : Nat
  reads         : Nat
  writes        : Nat
  mediaErrors   : Nat
  deriving DecidableEq, Repr

/-- An access to BAR2 that waits for the wake of its channel, or behind one that does (R307, R392). -/
inductive Access where
  | read (addr size : Nat)
  | write (addr : Nat) (value : Word)
  deriving DecidableEq, Repr

/-- An access to BAR4 that waits likewise; it keeps the entry in force when its header arrived (R315). -/
inductive WinAccess where
  | read (ofs entry len : Nat)
  | write (ofs entry : Nat) (data : List (Option Byte))
  deriving DecidableEq, Repr

/-- The PCI Express function and the NVMe controller. -/
structure Front where
  /-- configuration space dwords that differ from their reset value, by offset -/
  cfg       : SMap Nat
  /-- NVMe registers CC, AQA, ASQ, ACQ by offset, where they differ from 0 -/
  nvme      : SMap Nat
  rdy       : Bool
  cfs       : Bool
  shst      : Nat
  pp        : Bool
  /-- PERST# low, or the link in hot reset or down -/
  inReset   : Bool
  /-- FLR running up to step 5 of Table 10-6 -/
  flr       : Bool
  /-- Bus Master Enable stall running (R309), and expired (R310) -/
  bmeStall  : Bool
  bmeOver   : Bool
  /-- device time at which Bus Master Enable was cleared -/
  bmeSince  : Nat
  /-- posted requests held back while Bus Master Enable is clear, oldest first -/
  held      : List Out
  sqs       : SMap SubQueue
  cqs       : SMap CplQueue
  slots     : SMap CmdSlot
  /-- slots retired by an uncorrectable queue manager SRAM error (R377) -/
  retired   : List Nat
  reads     : SMap ReadReq
  /-- reads waiting for a tag, oldest first (R303) -/
  readQ     : List ReadReq
  /-- tags timed out and the device time from which each may be used again (R305) -/
  deadTags  : List (Nat × Nat)
  /-- the queue whose turn it is, and entries taken in this turn (R324) -/
  arb       : Nat
  burst     : Nat
  /-- outstanding Asynchronous Event Requests, oldest first -/
  aers      : List Nat
  /-- events queued for an Asynchronous Event Request: type, information, log page -/
  events    : List (Nat × Nat × Nat)
  /-- event types masked until their log page is read: type, log page (R357) -/
  masked    : List (Nat × Nat)
  /-- Changed Namespace List (log 0x04) -/
  changed   : List Nat
  /-- namespaces active when the controller was last disabled (R353) -/
  wasActive : Nat
  /-- feature values by key, where they differ from their default (Table 11-19) -/
  feats     : SMap Nat
  /-- interrupt coalescing: completions waiting per vector (feature 0x08) -/
  coalesced : SMap Nat
  /-- MSI-X pending bits (R301) -/
  pba       : SMap Bool
  /-- Error Information log, newest first -/
  errLog    : List ErrEntry
  errCount  : Nat
  /-- Lost Data log, oldest first -/
  lost      : List LostEntry
  lostNext  : Nat
  lostDrop  : Nat
  /-- Event Trace, newest first (log 0xC5) -/
  trace     : List TraceEntry
  traceNext : Nat
  /-- by channel -/
  smart     : Vector Smart 16
  /-- normal shutdown under way (R354) -/
  shutting  : Bool
  /-- inbound requests to BAR2 and to BAR4 that wait for a wake, in the order their headers arrived (R307) -/
  q2        : List Access
  q4        : List WinAccess
  /-- read arbitration: the channel whose turn it is, its grants in this turn, and how often each channel was passed over (R320, R450) -/
  turn      : Nat
  grants    : Nat
  passed    : SMap Nat
  /-- the link in L2, and WAKE# asserted (R298) -/
  l2        : Bool
  wakePin   : Bool
  /-- the latency tolerance last reported, in µs; 0 before the first message (R297) -/
  ltr       : Nat
  deriving DecidableEq, Repr

/-- The security core, the key store, the boot flash and the debug port (chapter 14). -/
structure Security where
  /-- boot flash bytes that differ from the board maker's programming -/
  flash     : SMap Byte
  /-- the fused minimum SVN raised since, if any (R419) -/
  svn       : Option Nat
  /-- SVN to fuse once the trial count is cleared (R419) -/
  svnDue    : Option Nat
  /-- pieces received since the staging area was erased: offset, length (R417) -/
  staged    : List (Nat × Nat)
  /-- the next Download erases the staging area (R417) -/
  eraseDue  : Bool
  /-- archive keys held, in load order: identifier, key (R421) -/
  keys      : List (Nat × List Byte)
  /-- a challenge is valid, and its 48 bytes (R431) -/
  challenge : Option (List Byte)
  chalNext  : Nat
  /-- draws made from the random bit generator -/
  draws     : Nat
  tamperLow : Bool
  /-- the 1-bit bypass register of the debug port (R496) -/
  bypass    : Bool
  /-- bundle running: slot, header fields version, svn -/
  running   : Option Nat
  /-- slot to activate at the next controller reset, FLR or PERST# (R355) -/
  actDue    : Option Nat
  /-- an activation in progress (R355): the Commit's slot (65,536 for one a reset began), firmware slot, next channel to switch -/
  activating : Option (Nat × Nat × Nat)
  /-- a channel has faulted since that activation began -/
  actBad    : Bool
  deriving DecidableEq, Repr

/-- Pins, links, thermal and clock state of the package. -/
structure Plat where
  /-- PORST# held low, or a PORST#-level reset not yet released -/
  porst     : Bool
  /-- PERST# is low -/
  perstLow  : Bool
  /-- the front end runs firmware (Table 13-3 step 4) -/
  feUp      : Bool
  /-- steward and CLE images verified (Table 13-3 step 5) -/
  imagesUp  : Bool
  /-- nanoseconds of device time (R389) -/
  time      : Nat
  /-- position in the 64-cycle pattern of the 32.768 kHz time base (R389) -/
  slow      : Nat
  /-- levels at the GPIO pins as driven from outside -/
  gpioIn    : Nat
  /-- a power early warning is present, or less than 100 ms ago (R384) -/
  pfw       : Bool
  tripped   : Bool
  /-- retrains in succession that failed, per channel die (R440) -/
  retrains  : SMap Nat
  /-- replays in succession that failed, per channel die (R8) -/
  replays   : SMap Nat
  /-- spare lanes used, by die × 2 + direction (R9) -/
  spares    : SMap Nat
  /-- an early warning is latched for the SMBus STATUS byte and ALERT_N (R479) -/
  alertPfw  : Bool
  /-- output slew groups, bit = 1 for FAST (R492) -/
  slew      : Nat
  /-- the failed front-end pair is still recovering (R447) -/
  standby   : Bool
  /-- channel dies whose interposer link is being retrained (R440) -/
  training  : List Nat
  /-- die temperature samples since the last that the histograms took (Table 15-10) -/
  samples   : Nat
  deriving DecidableEq, Repr

/-- The states of a channel (Table 11-17 byte 0). -/
inductive ChState where
  | notMounted | bivouac | mounting | mounted | unmounting | hostLost | isolated | poweredDown | keysLost
  | restoring | mechStopped
  deriving DecidableEq, Repr

/-- The code of a channel state (Table 11-17 byte 0). -/
def ChState.code : ChState → Nat
  | .notMounted => 0 | .bivouac => 1 | .mounting => 2 | .mounted => 3 | .unmounting => 4 | .hostLost => 5
  | .isolated => 6 | .poweredDown => 7 | .keysLost => 8 | .restoring => 9 | .mechStopped => 10

/-- A multi-stage operation of a channel: what it is for. -/
inductive ProcKind where
  /-- Unmount (R340); also Channel Service ISOLATE with DRAIN = 1 (`isolate`) -/
  | unmount (spin isolate : Bool)
  /-- Seal Disc (R341) -/
  | seal (thenUnmount : Bool)
  /-- normal shutdown (R354) -/
  | shutdown
  /-- host-lost mode (R312) -/
  | hostLost
  deriving DecidableEq, Repr

/-- An accepted Unmount, after which the namespace takes no further command (R340). -/
def ProcKind.unmounts : ProcKind → Bool
  | .unmount _ _ => true
  | .seal _ | .shutdown | .hostLost => false

/-- How far a multi-stage operation has come. -/
inductive ProcStage where
  /-- committing every staged block -/
  | drain
  /-- writing PAD clusters (Seal) -/
  | pad
  /-- writing the checkpoint -/
  | ckpt
  /-- waiting for the spindle to stop -/
  | spinDown
  deriving DecidableEq, Repr

/-- A multi-stage operation under way, for the command in `slot` if there is one. -/
structure Proc where
  kind  : ProcKind
  slot  : Option Nat
  stage : ProcStage
  deriving DecidableEq, Repr

/-- Why the machine stops. -/
inductive Fault where
  /-- a channel DRAM address that R366 makes unaddressable (check bytes, training patterns, beyond 8 GiB): raised by the
  operations on channel DRAM. Safe: the spec gives no effect -/
  | dramAddress
  deriving DecidableEq, Repr

/-- Why a command has no meaning. -/
inductive Refusal where
  /-- no meaning written yet, by mnemonic. Safe -/
  | notModelled (mnemonic : String)
  /-- an instruction of the open debug port, whose effect the spec does not give (R496). Safe -/
  | openDebugPort
  deriving DecidableEq, Repr

/-- One channel beyond its registers. -/
structure Chan where
  st        : ChState
  /-- device time of the last state change -/
  stTime    : Nat
  /-- its namespace is active (R327) -/
  active    : Bool
  /-- fence cause: 0 open, else closed (Table 11-17 byte 2, R11) -/
  fence     : Nat
  /-- channel power switches on -/
  powered   : Bool
  /-- a wake from Bivouac is under way (R392) -/
  waking    : Bool
  /-- the depth in force of the channel core clock's down-spread, in 0.1 % steps; 0 without spread (R395) -/
  spread    : Nat
  /-- STOP has been written for the scrub pass that runs (R376) -/
  scrubStop : Bool
  /-- the Channel Service operation running: slot and OP (R342) -/
  svc       : Option (Nat × Nat)
  /-- Channel Service ISOLATE in progress (R18) -/
  isolating : Bool
  procs     : List Proc
  /-- the slot of a Mount in progress (Table 8-2) -/
  mounting  : Option Nat
  /-- version of the microcode image loaded (Table 11-17) -/
  cleVer    : List Byte
  /-- in KEYS LOST (R428) -/
  keysLost  : Bool
  /-- the CAL block's own group swap of R233 is pending -/
  calSwap   : Bool
  /-- IMPLAUSIBLE events of the last 10 s: slot and device time (R178) -/
  implTimes : List (Nat × Nat)
  /-- IMPLAUSIBLE events since mount -/
  implCount : Nat
  stagedAtFence : Nat
  /-- the mounted disc -/
  disc      : Option Disc
  /-- the key pair in the XTS key store (R285) -/
  xtsKey    : Option (List Byte)
  wr        : WriteChain
  map       : MapState
  rd        : ReadPath
  servo     : Servo
  spin      : Spin
  sled      : Sled
  cal       : Cal
  /-- the stopped Transform job (R346) -/
  xf        : Option Transform
  deriving DecidableEq, Repr

/-- The state of the K3216. -/
structure State where
  /-- register fields that differ from their value after PORST#, by field key -/
  regs    : SMap Nat
  /-- entries of the index-window tables that differ from their reset value, by table key -/
  tbl     : SMap Nat
  /-- high words latched by a low-word read (R5), by register key -/
  latch   : SMap Nat
  /-- Flysheet writes held while SYNCING, oldest first: region, page, offset, value (R469) -/
  flyHeld : List (Nat × Nat × Nat × Nat)
  /-- registers with a parity error, by address: they read 0 until written (R377) -/
  parity  : SMap Bool
  /-- members of the pending group swap of each channel (R470) -/
  groups  : SMap (List Nat)
  front   : Front
  chans   : Vector Chan 16
  /-- channel DRAM bytes that are not 0, keyed `c × 2^33 + address` (R365) -/
  dram    : SMap Byte
  /-- poisoned words, keyed `c × 2^30 + word` (R372) -/
  poison  : SMap Bool
  sec     : Security
  plat    : Plat
  /-- what has left the device, oldest first -/
  out     : List Out
  /-- free values drawn so far: the model's own counter -/
  free    : Nat
  /-- commands waiting, first in first out -/
  pending : List Instr
  deriving DecidableEq, Repr

/-! Right after reset: PORST# is low, and PORST_DEASSERT starts the machine (Table 13-3). -/

/-- A channel during PORST#: unpowered, its fence open, without a disc. -/
def Chan.off : Chan :=
  { st := .notMounted, stTime := 0, active := false, fence := 0, powered := false, waking := false, spread := 0, scrubStop := false, svc := none
    isolating := false, procs := [], mounting := none, cleVer := List.replicate 8 0, keysLost := false, calSwap := false
    implTimes := [], implCount := 0, stagedAtFence := 0, disc := none, xtsKey := none, wr := WriteChain.off, map := MapState.off
    rd := ReadPath.off, servo := Servo.off, spin := Spin.off, sled := Sled.off, cal := Cal.off, xf := none }

/-- The front end during PORST#. -/
def Front.off : Front :=
  { cfg := [], nvme := [], rdy := false, cfs := false, shst := 0, pp := false, inReset := true, flr := false, bmeStall := false
    bmeOver := false, bmeSince := 0, held := [], sqs := [], cqs := [], slots := [], retired := [], reads := [], readQ := []
    deadTags := [], arb := 0, burst := 0, aers := [], events := [], masked := [], changed := [], wasActive := 0, feats := []
    coalesced := [], pba := [], errLog := [], errCount := 0, lost := [], lostNext := 1, lostDrop := 0, trace := [], traceNext := 1
    smart := Vector.replicate 16 ⟨0, 0, 0, 0, 0⟩, shutting := false, q2 := [], q4 := []
    turn := 0, grants := 0, passed := [], l2 := false, wakePin := false, ltr := 0 }

/-- The security core during PORST#, its flash and fuses as the board maker left them. -/
def Security.off : Security :=
  { flash := [], svn := none, svnDue := none, staged := [], eraseDue := true, keys := [], challenge := none, chalNext := 1, draws := 0
    tamperLow := false, bypass := false, running := none, actDue := none, activating := none, actBad := false }

/-- The package during PORST#; levels at the pins are a DESIGN CHOICE (log 20). -/
def Plat.off : Plat :=
  { porst := true, perstLow := true, feUp := false, imagesUp := false, time := 0, slow := 0, gpioIn := 0, pfw := false, tripped := false
    retrains := [], replays := [], spares := [], alertPfw := false, slew := 0, standby := false, training := [], samples := 0 }

/-- The machine right after reset: every register at its value of the register tables, PORST# low. -/
def State.reset : State :=
  { regs := [], tbl := [], latch := [], flyHeld := [], parity := [], groups := [], front := Front.off, chans := Vector.replicate 16 Chan.off
    dram := [], poison := [], sec := Security.off, plat := Plat.off, out := [], free := 0, pending := [] }

end Sys2Proof.Machine
end

