-- ==== Sys2Proof/Machine/Ops.lean ====
section
/-! DEFINITION. The named operations over registers, index-window tables, channels and messages that every meaning
is written with. -/

namespace Sys2Proof.Machine
open Sys2Proof

/-! Registers (R4, R462, R463). Region 0 is the port die, region `c + 1` channel `c`. -/

/-- The key of a register field in `State.regs`. -/
def fieldKey (rg : Nat) (f : Fld) : Nat := ((rg * 0x100 + f.page) * 0x1000 + f.off) * 32 + f.lsb

/-- The key of a field's Flysheet copy, at offset + 0x800 (R463). -/
def flyKey (rg : Nat) (f : Fld) : Nat := fieldKey rg f + 0x800 * 32

/-- The active value of a field. -/
def State.rd (s : State) (rg : Nat) (f : Fld) : Nat := SMap.get s.regs (fieldKey rg f) f.reset

/-- Set the active value of a field, truncated to its width. -/
def State.wr (s : State) (rg : Nat) (f : Fld) (v : Nat) : State :=
  { s with regs := SMap.put s.regs (fieldKey rg f) f.reset (v % 2 ^ f.width) }

/-- The Flysheet value of a field. -/
def State.rdFly (s : State) (rg : Nat) (f : Fld) : Nat := SMap.get s.regs (flyKey rg f) f.reset

/-- Set the Flysheet value of a field. -/
def State.wrFly (s : State) (rg : Nat) (f : Fld) (v : Nat) : State :=
  { s with regs := SMap.put s.regs (flyKey rg f) f.reset (v % 2 ^ f.width) }

/-- The region of channel `c`. -/
def chRg (c : Fin 16) : Nat := c.val + 1

/-- Read a field of a port die page. -/
def State.pr (s : State) (f : Fld) : Nat := s.rd 0 f
/-- Write a field of a port die page. -/
def State.pw (s : State) (f : Fld) (v : Nat) : State := s.wr 0 f v
/-- Read a field of a channel page. -/
def State.cr (s : State) (c : Fin 16) (f : Fld) : Nat := s.rd (chRg c) f
/-- Write a field of a channel page. -/
def State.cw (s : State) (c : Fin 16) (f : Fld) (v : Nat) : State := s.wr (chRg c) f v
/-- Whether a field is not 0. -/
def State.cb (s : State) (c : Fin 16) (f : Fld) : Bool := s.cr c f != 0

/-- Advance a saturating register count (R454). -/
def State.incSat (s : State) (rg : Nat) (f : Fld) (n : Nat := 1) : State :=
  s.wr rg f (min (s.rd rg f + n) (2 ^ f.width - 1))

/-- Advance a wrapping register count. -/
def State.incWrap (s : State) (rg : Nat) (f : Fld) (n : Nat := 1) : State := s.wr rg f (s.rd rg f + n)

/-- A write under R6: an encoding the table marks reserved leaves the field as it was. -/
def State.wrLegal (s : State) (rg : Nat) (f : Fld) (v : Nat) : State :=
  if f.legal.allows (v % 2 ^ f.width) then s.wr rg f v else s

/-- Put several fields. -/
def State.wrs (s : State) (rg : Nat) (l : List (Fld × Nat)) : State :=
  l.foldl (fun s e => s.wr rg e.1 e.2) s

/-! Index-window tables: a kind, a region and an index. -/

/-- The tables reached through an index window, and other stores kept as sparse tables. -/
inductive Tbl where
  | msix | winActive | winFly | ff | commutation | eqCoef | pdelta | capture | counter | hist | snap
  deriving DecidableEq, Repr

/-- The number of a table, which orders the tables in `State.tbl`. -/
def Tbl.code : Tbl → Nat
  | .msix => 0 | .winActive => 1 | .winFly => 2 | .ff => 3 | .commutation => 4 | .eqCoef => 5
  | .pdelta => 6 | .capture => 7 | .counter => 8 | .hist => 9 | .snap => 10

/-- The key of an entry. -/
def tblKey (t : Tbl) (rg i : Nat) : Nat := (t.code * 32 + rg) * 0x100000 + i

/-- An entry of the commutation table at reset, which R190 gives as a sine: `round(32767 · sin(2π i / 1024))` in 16 bits, evaluated
with a Taylor sum over integers scaled by 2^40 (DESIGN CHOICE, log 12). -/
def sineEntry (i : Nat) : Nat :=
  let q := i % 1024
  let neg := q ≥ 512
  let h := q % 512
  let k := if h > 256 then 512 - h else h
  let one : Nat := 2 ^ 40
  -- x = 2π k / 1024 scaled by 2^40, π scaled by 2^40
  let x := 2 * 3454217652358 * k / 1024
  let x2 := x * x / one
  let t1 := x
  let t3 := t1 * x2 / one / 6
  let t5 := t3 * x2 / one / 20
  let t7 := t5 * x2 / one / 42
  let t9 := t7 * x2 / one / 72
  let t11 := t9 * x2 / one / 110
  let sn := t1 + t5 + t9 - (t3 + t7 + t11)
  let v := (32767 * sn + one / 2) / one
  if neg then (65536 - v) % 65536 else v

/-- The scale, LOW and WIDTH a histogram source has at reset (Table 15-10), as (log2?, LOW, WIDTH). -/
def histDefault (src : Nat) : Nat × Nat × Nat :=
  match src with
  | 0x00 => (1, 1, 0) | 0x01 => (1, 1, 0) | 0x02 => (1, 16, 0) | 0x03 => (1, 1, 0)
  | 0x10 => (0, 0, 1) | 0x11 => (0, 0, 8) | 0x12 => (0, 0, 10) | 0x13 => (0, 0, 20)
  | 0x14 => (0, 2 ^ 32 - 1600, 100)
  | 0x15 => (0, 0, 1024) | 0x16 => (0, 0, 1024) | 0x17 => (0, 0, 1024) | 0x18 => (0, 0, 1024)
  | 0x19 => (0, 0, 1024) | 0x1A => (0, 0, 1024) | 0x1B => (0, 0, 1024)
  | 0x20 => (1, 16, 0) | 0x21 => (0, 0, 64)
  | 0x80 => (0, 0, 64) | 0x81 => (0, 0, 64) | 0x82 => (0, 0, 64) | 0x83 => (1, 64, 0)
  | _ => (0, 0, 1)

/-- The histogram sources of Table 15-10 that a region keeps: MON the channel sources, GMON the port die ones. -/
def histSource (rg src : Nat) : Bool :=
  if rg = 0 then 0x80 ≤ src && src ≤ 0x83
  else src ≤ 3 || (0x10 ≤ src && src ≤ 0x1B) || src == 0x20 || src == 0x21

/-- What an unlisted entry of a table reads as. -/
def Tbl.default (t : Tbl) (i : Nat) : Nat :=
  match t with
  | .msix => if i % 4 = 3 then 1 else 0
  | .commutation => sineEntry i
  | .hist =>
    let d := histDefault (i / 64)
    match i % 64 with
    | 32 => 1
    | 33 => d.1
    | 34 => d.2.1
    | 35 => d.2.2
    | 37 => 0x7FFFFFFF
    | 39 => 0x80000000
    | _ => 0
  | _ => 0

/-- Read a table entry. -/
def State.tget (s : State) (t : Tbl) (rg i : Nat) : Nat := SMap.get s.tbl (tblKey t rg i) (t.default i)

/-- Write a table entry. -/
def State.tput (s : State) (t : Tbl) (rg i v : Nat) : State :=
  { s with tbl := SMap.put s.tbl (tblKey t rg i) (t.default i) v }

/-- Return a table of a region to its reset contents. -/
def State.tclear (s : State) (t : Tbl) (rg : Nat) : State :=
  { s with tbl := SMap.eraseIf s.tbl (fun k => k / 0x100000 == t.code * 32 + rg) }

/-! Resetting pages. -/

/-- Return every field of the pages of a region that `p` selects (page, offset) to its reset value, both copies; a register so
written has no parity error any more (log 22). -/
def State.resetFields (s : State) (rg : Nat) (p : Nat → Nat → Bool) : State :=
  { s with
    regs := SMap.eraseIf s.regs (fun k =>
      k / 32 / 0x1000 / 0x100 == rg && p (k / 32 / 0x1000 % 0x100) (k / 32 % 0x1000))
    parity := SMap.eraseIf s.parity (fun k =>
      k / 2 / 0x100000 == rg && p (k / 2 / 0x1000 % 0x100) (k / 2 % 0x1000 + 0x800 * (k % 2))) }

/-! Channels. -/

/-- Channel `c`. -/
def State.ch (s : State) (c : Fin 16) : Chan := s.chans[c]
/-- Replace channel `c`. -/
def State.setCh (s : State) (c : Fin 16) (x : Chan) : State := { s with chans := s.chans.set c x }
/-- Change channel `c`. -/
def State.modCh (s : State) (c : Fin 16) (f : Chan → Chan) : State := s.setCh c (f (s.ch c))
/-- Channel number `n`, where it is one. -/
def chan? (n : Nat) : Option (Fin 16) := if h : n < 16 then some ⟨n, h⟩ else none
/-- All sixteen channels. -/
def allChans : List (Fin 16) := List.finRange 16
/-- A mask with one bit per channel that satisfies `p`. -/
def State.chMask (s : State) (p : Chan → Bool) : Nat :=
  allChans.foldl (fun a c => a + (if p (s.ch c) then 2 ^ c.val else 0)) 0
/-- Change a channel's state, noting the device time (Table 11-17). -/
def State.setSt (s : State) (c : Fin 16) (st : ChState) : State :=
  if (s.ch c).st = st then s else s.modCh c fun x => { x with st := st, stTime := s.plat.time }

/-! Blocks that take new work. -/

/-- Whether a block takes new work: EN set and QUIESCE clear (R465). -/
def State.running (s : State) (rg page : Nat) : Bool :=
  s.rd rg (F.HDR_BLK_CTL_EN page) == 1 && s.rd rg (F.HDR_BLK_CTL_QUIESCE page) == 0

/-- A block's event: what starts a unit of its work waits while it takes no new work (R465). -/
def State.whileRunning (s : State) (rg page : Nat) (f : State → State) : State := if s.running rg page then f s else s

/-- Whether a channel is at its turn to switch to a new image (R355): it begins no media operation and its commands wait. -/
def State.switching (s : State) (c : Fin 16) : Bool := s.sec.activating.elim false fun a => a.2.2 == c.val

/-! Free values. -/

/-- A free value below `2 ^ w`: nothing constrains it. The counter advances, so each draw is its own. -/
def State.draw (s : State) (w : Nat) : Nat × State :=
  (Config.freeValue s.free % 2 ^ w, { s with free := s.free + 1 })

/-! Outputs and messages. -/

/-- The Command register of configuration space (PCI Express Base 5.0 header layout). -/
def State.cfgRaw (s : State) (off rst : Nat) : Nat := SMap.get s.front.cfg off rst

/-- Memory Space Enable. -/
def State.mse (s : State) : Bool := bitAt (s.cfgRaw 0x04 0) 1
/-- Bus Master Enable. -/
def State.bme (s : State) : Bool := bitAt (s.cfgRaw 0x04 0) 2
/-- MSI-X Enable and not Function Mask (message control in the capability at 0x50: PRESUMED placement, log 5). -/
def State.msixOn (s : State) : Bool := bitAt (s.cfgRaw 0x50 0) 31 && !bitAt (s.cfgRaw 0x50 0) 30

/-- Issue a posted request: dropped while the function is in reset, held back in order while Bus Master Enable is
clear (R309, R310), else sent. -/
def State.post (s : State) (o : Out) : State :=
  if s.front.inReset || s.front.flr || s.plat.tripped then s
  else if s.bme && s.front.held.isEmpty then { s with out := s.out ++ [o] }
  else { s with front := { s.front with held := s.front.held ++ [o] } }

/-- The channel core PLL locks: `CLK.SSC_CTL` as it stands takes effect (R395). -/
def State.lockCore (s : State) (c : Fin 16) : State :=
  s.modCh c fun x => { x with spread := if s.pr F.CLK_SSC_CTL_EN = 1 then s.pr F.CLK_SSC_CTL_DEPTH else 0 }

/-- An answer to an inbound request or on a side bus: served whatever Bus Master Enable says (R309). -/
def State.answer (s : State) (o : Out) : State := { s with out := s.out ++ [o] }

/-- Signal MSI-X vector `v`: a masked vector sets its PBA bit (R301). -/
def State.msix (s : State) (v : Nat) : State :=
  if s.msixOn && s.tget .msix 0 (4 * v + 3) % 2 == 0 then
    s.post (.msix v (s.tget .msix 0 (4 * v) + 2 ^ 32 * s.tget .msix 0 (4 * v + 1)) (s.tget .msix 0 (4 * v + 2)))
  else { s with front := { s.front with pba := SMap.put s.front.pba v false true } }

/-! Bytes. -/

/-- A number as `n` bytes, least significant first. -/
def leBytes : Nat → Nat → List Byte
  | 0, _ => []
  | n + 1, v => BitVec.ofNat 8 v :: leBytes n (v / 256)

/-- Bytes as a number, least significant first. -/
def leNat : List Byte → Nat
  | [] => 0
  | b :: bs => b.toNat + 256 * leNat bs

/-- Bytes as a number, most significant first. -/
def beNat (l : List Byte) : Nat := l.foldl (fun a b => 256 * a + b.toNat) 0

/-- A number as `n` bytes, most significant first. -/
def beBytes (n v : Nat) : List Byte := (leBytes n v).reverse

/-- The characters of a text as bytes. -/
def ascii (t : String) : List Byte := t.toList.map fun ch => BitVec.ofNat 8 ch.toNat

/-- `n` zero bytes. -/
def zeros (n : Nat) : List Byte := List.replicate n 0

/-- A list cut or padded with `d` to length `n`. -/
def padTo (n : Nat) (d : Byte) (l : List Byte) : List Byte := (l ++ List.replicate (n - l.length) d).take n

/-- A table of bytes filled from pieces (offset, bytes); bytes outside every piece are 0. -/
def layout (n : Nat) (ps : List (Nat × List Byte)) : List Byte :=
  ps.foldl (fun l p => l.take p.1 ++ (p.2 ++ l.drop (p.1 + p.2.length))) (zeros n)

end Sys2Proof.Machine
end

