-- ==== Sys2Proof/Machine/Flags.lean ====
section
/-! DEFINITION. The flags of the block: interrupt bits and their messages, error records, and the bins, extremes and counters that
events advance. The block has no arithmetic flags of a processor's kind. -/

namespace Sys2Proof.Machine
open Sys2Proof

/-! Interrupts (R466, R467). -/

/-- `IRQ_STS`: `IRQ_RAW` AND `IRQ_EN` (R466). -/
def State.irqSts (s : State) (rg page : Nat) : Nat :=
  s.rd rg (F.HDR_IRQ_RAW page) &&& s.rd rg (F.HDR_IRQ_EN page)

/-- The pages of a region (Tables 16-3, 16-4). -/
def regionPages (rg : Nat) : List Nat :=
  if rg = 0 then [0x00, 0x01, 0x02, 0x03, 0x04, 0x08, 0x09, 0x0A, 0x0B, 0x0C, 0x10, 0x11, 0x18, 0x19, 0x1A, 0x1B]
  else [0x00, 0x01, 0x08, 0x09, 0x0A, 0x0B, 0x0C, 0x0D, 0x0E, 0x0F, 0x10, 0x11,
    0x20, 0x21, 0x22, 0x23, 0x24, 0x25, 0x26, 0x27, 0x28, 0x29, 0x2A, 0x2B, 0x2C, 0x2D, 0x2E,
    0x30, 0x31, 0x32, 0x33, 0x38, 0x39, 0x40, 0x41, 0x48, 0x49, 0x4A, 0x50, 0x58, 0x59, 0x60]

/-- The pages served from shadows (R14): CHN, MON, CNT. -/
def shadowPage (page : Nat) : Bool := page == 0x00 || page == 0x58 || page == 0x59

/-- Whether a region is a channel whose fence is closed: nothing of it reaches the port die but its shadows and its fence status
(R11). -/
def State.fenced (s : State) (rg : Nat) : Bool := rg != 0 && (chan? (rg - 1)).elim false fun c => (s.ch c).fence != 0

/-- Whether MON and CNT of a region are served from shadows, which hold the values at entry: its fence is closed, or it is in Bivouac
(R458). -/
def State.shadowed (s : State) (rg : Nat) : Bool :=
  rg != 0 && (chan? (rg - 1)).elim false fun c => (s.ch c).fence != 0 || (s.ch c).st == .bivouac

/-- The pages of a region whose interrupts reach the port die (R11, R467). -/
def State.irqPages (s : State) (rg : Nat) : List Nat :=
  if s.fenced rg then (regionPages rg).filter shadowPage else regionPages rg

/-- Whether a region's interrupt is pending (R467). -/
def State.regionPending (s : State) (rg : Nat) : Bool :=
  (s.irqPages rg).any fun p => s.irqSts rg p != 0

/-- The vector of a region (R301). -/
def regionVector (rg : Nat) : Nat := 64 + rg

/-- Replace a page's `IRQ_RAW`, sending the region's message when its pending state rises (R467). -/
def State.setIrqRaw (s : State) (rg page raw : Nat) : State :=
  let was := s.regionPending rg
  let s1 := s.wr rg (F.HDR_IRQ_RAW page) raw
  if s1.regionPending rg && !was then s1.msix (regionVector rg) else s1

/-- `PEND_k`: bit `j` is set while page `32k + j` has `IRQ_STS` not 0. -/
def State.pend (s : State) (rg k : Nat) : Nat :=
  ((s.irqPages rg).filter (fun p => p / 32 == k && s.irqSts rg p != 0)).foldl (fun a p => a ||| 2 ^ (p % 32)) 0

/-- The `ERR_FIRST` word of a page. -/
def State.errFirstWord (s : State) (rg page : Nat) : Nat :=
  s.rd rg (F.HDR_ERR_FIRST_OFS page) + 2 ^ 12 * s.rd rg (F.HDR_ERR_FIRST_FLYSHEET page)
    + 2 ^ 16 * s.rd rg (F.HDR_ERR_FIRST_CODE page) + 2 ^ 31 * s.rd rg (F.HDR_ERR_FIRST_VALID page)

/-- Add an Event Trace entry (log 0xC5 keeps 4,096). -/
def State.traceEvent (s : State) (rg page bit : Nat) : State :=
  { s with front := { s.front with
      trace := (⟨s.front.traceNext, s.plat.time, (if rg = 0 then 0xFF else rg - 1), page, bit,
        s.errFirstWord rg page, s.rd rg (F.HDR_ERR_INFO page)⟩ :: s.front.trace).take 4096
      traceNext := s.front.traceNext + 1 } }

/-- An event of a page: its `IRQ_RAW` bit is set whether or not it is enabled (R466), and it is traced. Behind a closed fence only CHN's
events reach the trace, and the shadows of MON and CNT stay as they were at entry (R11, R458). -/
def State.irq (s : State) (rg page bit : Nat) : State :=
  if s.shadowed rg && shadowPage page && page != 0 then s
  else (if s.fenced rg && page != 0 then s else s.traceEvent rg page bit).setIrqRaw rg page (s.rd rg (F.HDR_IRQ_RAW page) ||| 2 ^ bit)

/-- An event of a channel page. -/
def State.cirq (s : State) (c : Fin 16) (page bit : Nat) : State := s.irq (chRg c) page bit

/-- Record an error in the common header: `ERR_FIRST` keeps the first since VALID was cleared, `ERR_COUNT` counts all
(Table 16-2, Table 16-6). -/
def State.err (s : State) (rg page ofs code info : Nat) (fly : Bool := false) : State :=
  let s1 := s.incSat rg (F.HDR_ERR_COUNT page)
  if s.rd rg (F.HDR_ERR_FIRST_VALID page) = 1 then s1
  else s1.wrs rg [(F.HDR_ERR_FIRST_OFS page, ofs), (F.HDR_ERR_FIRST_FLYSHEET page, b2n fly),
    (F.HDR_ERR_FIRST_CODE page, code), (F.HDR_ERR_FIRST_VALID page, 1), (F.HDR_ERR_INFO page, info)]

/-- Record an error whose `ERR_INFO` the spec leaves to the block: a free value (Table 16-2). -/
def State.errOpen (s : State) (rg page ofs code : Nat) : State :=
  let d := s.draw 32
  d.2.err rg page ofs code d.1

/-! Histograms, counters (R454 to R457). -/

/-- The bin of a sample (R456). -/
def histBin (log2 : Bool) (low : Int) (width : Nat) (v : Int) : Nat :=
  if log2 then
    if v < low then 0
    else ((List.range 30).find? (fun i => low * 2 ^ i ≤ v ∧ v < low * 2 ^ (i + 1))).elim 31 (· + 1)
  else if width = 0 then 0
  else (max 0 (min 31 (Int.fdiv (v - low) width))).toNat

/-- One sample of a histogram source: its bin, and the minimum and maximum with their device times, a tie keeping the
earlier time (R456). Shadows take none (R458). A saturated bin sets the source's OVF and raises OVF (R454, R459, R461). -/
def State.sample (s : State) (rg src : Nat) (v : Int) : State :=
  let g := fun i => s.tget .hist rg (src * 64 + i)
  if g 32 = 0 || s.shadowed rg then s
  else
    let b := histBin (g 33 = 1) (toSigned 32 (g 34)) (g 35) v
    let n := g b
    let s1 := s.tput .hist rg (src * 64 + b) (min (n + 1) (2 ^ 32 - 1))
    let s2 := if n + 1 ≥ 2 ^ 32 - 1 ∧ g 36 = 0 then
        (s1.tput .hist rg (src * 64 + 36) 1).irq rg (if rg = 0 then 0x18 else 0x58) (if rg = 0 then 4 else 1)
      else s1
    let fresh := g 41 = 0
    let s3 := if fresh ∨ v < toSigned 32 (g 37) then
        (s2.tput .hist rg (src * 64 + 37) (ofSigned 32 v)).tput .hist rg (src * 64 + 38) s.plat.time
      else s2
    let s4 := if fresh ∨ v > toSigned 32 (g 39) then
        (s3.tput .hist rg (src * 64 + 39) (ofSigned 32 v)).tput .hist rg (src * 64 + 40) s.plat.time
      else s3
    s4.tput .hist rg (src * 64 + 41) 1

/-- Clear a source's bins and OVF. -/
def State.histClearBins (s : State) (rg src : Nat) : State :=
  ((List.range 32).foldl (fun s i => s.tput .hist rg (src * 64 + i) 0) s).tput .hist rg (src * 64 + 36) 0

/-- Clear a source's minimum and maximum. -/
def State.histClearMM (s : State) (rg src : Nat) : State :=
  [37, 38, 39, 40, 41].foldl (fun s i => s.tput .hist rg (src * 64 + i) (Tbl.hist.default (src * 64 + i))) s

/-- A counter reaches its limit: SAT and the interrupt, once until SAT is cleared (R455). -/
def State.cntSaturated (s : State) (c : Fin 16) (i : Nat) : State :=
  if bitAt (s.cr c F.CNT_SAT) i then s
  else (s.cw c F.CNT_SAT (s.cr c F.CNT_SAT ||| 2 ^ i)).cirq c 0x59 0

/-- Advance channel event counter `i` of Table 15-9 (R454, R455). Its shadow holds the count at entry (R458). -/
def State.cnt (s : State) (c : Fin 16) (i : Nat) (n : Nat := 1) : State :=
  if s.shadowed (chRg c) then s else
  let v := s.tget .counter (chRg c) i
  let v' := min (v + n) (2 ^ 48 - 1)
  let s1 := s.tput .counter (chRg c) i v'
  if v' = 2 ^ 48 - 1 ∧ n > 0 then s1.cntSaturated c i else s1

end Sys2Proof.Machine
end

