-- ==== Sys2Proof/Machine/Dram.lean ====
section
/-! DEFINITION. Channel DRAM: bytes, inline SEC-DED's visible effects, poisoning, and the staging window's view of it
(chapter 12, R314). -/

namespace Sys2Proof.Machine
open Sys2Proof

/-- The first channel DRAM address that neither firmware, the DMA engine nor the window reaches (R366). -/
def dramLimit : Nat := 0x1C0000000

/-- The window region of channel DRAM (Table 12-2). -/
def windowBase : Nat := 0xC0000000

/-- The canonical form of channel DRAM: addresses strictly rising and no entry that equals what an unlisted address reads as, 0 (R370). -/
def Memory.wf (m : SMap Byte) : Bool := decide (SMap.wf m) && m.all fun e => e.2 != 0

/-- Key of a DRAM byte. -/
def dramKey (c : Fin 16) (a : Nat) : Nat := c.val * 2 ^ 33 + a

/-- Key of a DRAM word's poison mark. -/
def poisonKey (c : Fin 16) (w : Nat) : Nat := c.val * 2 ^ 30 + w

/-- The byte at an address; memory holds zeros after the power-on fill (R370). -/
def State.dramByte (s : State) (c : Fin 16) (a : Nat) : Byte := SMap.get s.dram (dramKey c a) 0

/-- The bytes from an address on. -/
def State.dramBytes (s : State) (c : Fin 16) (a n : Nat) : List Byte :=
  (List.range n).map fun i => s.dramByte c (a + i)

/-- Whether a word is poisoned (R372). -/
def State.poisoned (s : State) (c : Fin 16) (w : Nat) : Bool := SMap.get s.poison (poisonKey c w) false

/-- Whether any word under a range of bytes is poisoned. -/
def State.anyPoison (s : State) (c : Fin 16) (a n : Nat) : Bool :=
  n != 0 && (List.range ((a + n - 1) / 8 - a / 8 + 1)).any fun i => s.poisoned c (a / 8 + i)

/-- Mark a word poisoned; each new poisoning advances `UE_COUNT`, raises UE and fills `FIRST_UE` (R372). -/
def State.poisonWord (s : State) (c : Fin 16) (w : Nat) : State :=
  if s.poisoned c w then s
  else
    let s1 := { s with poison := SMap.put s.poison (poisonKey c w) false true }
    let s2 := s1.incSat (chRg c) F.ECC_UE_COUNT
    let s3 := if s2.cb c F.ECC_FIRST_UE_VALID then s2
      else (s2.cw c F.ECC_FIRST_UE_WORD w).cw c F.ECC_FIRST_UE_VALID 1
    s3.cirq c 0x49 1

/-- Write one byte. -/
def State.dramPut (s : State) (c : Fin 16) (a : Nat) (b : Byte) : State :=
  { s with dram := SMap.put s.dram (dramKey c a) 0 b }

/-- Write bytes under their enables (`none`: not enabled). -/
def State.dramPutList (s : State) (c : Fin 16) (a : Nat) : List (Option Byte) → State
  | [] => s
  | none :: bs => State.dramPutList s c (a + 1) bs
  | some b :: bs => State.dramPutList (s.dramPut c a b) c (a + 1) bs

/-- Whether the write covers all eight bytes of a word. -/
def coversWord (a : Nat) (bs : List (Option Byte)) (w : Nat) : Bool :=
  (List.range 8).all fun i =>
    a ≤ 8 * w + i && match bs[8 * w + i - a]? with
      | some (some _) => true
      | _ => false

/-- A write of bytes: a poisoned word stays poisoned unless the write covers all of its bytes (R372). -/
def State.dramWrite (s : State) (c : Fin 16) (a : Nat) (bs : List (Option Byte)) : State :=
  let s1 := s.dramPutList c a bs
  let ws := (List.range ((a + bs.length + 7) / 8 - a / 8)).map (a / 8 + ·)
  { s1 with poison := (ws.filter (coversWord a bs)).foldl (fun p w => SMap.erase p (poisonKey c w)) s1.poison }

/-- Fill a channel's DRAM with zeros and valid check bytes (R370). -/
def State.dramFill (s : State) (c : Fin 16) : State :=
  { s with
    dram := SMap.eraseIf s.dram (fun k => k / 2 ^ 33 == c.val)
    poison := SMap.eraseIf s.poison (fun k => k / 2 ^ 30 == c.val) }

/-! The staging window (R314). -/

/-- An active window table entry, decoded. -/
structure WinEntry where
  valid : Bool
  wp    : Bool
  chan  : Nat
  frame : Nat
  deriving DecidableEq, Repr

/-- Decode a window table entry (Table 10-10). -/
def winEntry (e : Nat) : WinEntry := ⟨bitAt e 0, bitAt e 1, bitsAt e 4 4, bitsAt e 16 9⟩

/-- The entry in force for a window page. -/
def State.winPage (s : State) (p : Nat) : WinEntry := winEntry (s.tget .winActive 0 p)

/-- The DRAM address an offset of the window reaches through an entry. -/
def winAddr (e : WinEntry) (ofs : Nat) : Nat := windowBase + e.frame * 0x200000 + ofs % 0x200000

end Sys2Proof.Machine
end

