-- ==== Sys2Proof/Machine/FrontOps.lean ====
section
/-! DEFINITION. The queue manager and the front end: slots, completion records, asynchronous events, data pointers,
and the data a command moves over the link (chapters 10 and 11). -/

namespace Sys2Proof.Machine
open Sys2Proof

/-- Change the front end's state. -/
def State.modFront (s : State) (f : Front → Front) : State := { s with front := f s.front }

/-! Waking (R392, R393, R396). -/

/-- The 50 MHz oscillator restarts (R396): `CLK.XO_STS`, the XO_START event, and the time base (R389). -/
def State.xoStart (s : State) : State :=
  if s.pr F.CLK_XO_STS_XO50_RUN = 1 then s
  else ((s.pw F.CLK_XO_STS_XO50_RUN 1).pw F.AON_TIME_SRC 0).irq 0 0x02 1

/-- An asynchronous event falls due: with the link in L2 it asserts WAKE# (R298). -/
def State.wakeHost (s : State) : State := s.modFront fun f => { f with wakePin := f.wakePin || f.l2 }

/-- CLKREQ# is driven low whenever REFCLK is needed, and released in L1.2 (R298). -/
def State.clkreqLow (s : State) : Bool := s.pr F.PCI_LINK_STS_L1_STATE != 3

/-- A wake source of a channel in Bivouac: the wake starts, and its source is recorded in `AON.WAKE_LAST` (R393). -/
def State.startWake (s : State) (c : Fin 16) (src : Nat) : State :=
  if (s.ch c).st = .bivouac ∧ !(s.ch c).waking then
    (((s.modCh c fun x => { x with waking := true }).wrs 0
      [(F.AON_WAKE_LAST_CHANNEL, c.val), (F.AON_WAKE_LAST_SOURCE, src)]).irq 0 0x01 2).xoStart
  else s

/-! Status codes (Table 11-14). -/

def stSuccess : Status := ⟨0, 0x00, false⟩
def stInvalidOpcode : Status := ⟨0, 0x01, true⟩
def stInvalidField : Status := ⟨0, 0x02, true⟩
def stDataTransfer : Status := ⟨0, 0x04, false⟩
def stDataTransferDnr : Status := ⟨0, 0x04, true⟩
def stInternal : Status := ⟨0, 0x06, false⟩
def stAbortRequested : Status := ⟨0, 0x07, false⟩
def stSqDeletion : Status := ⟨0, 0x08, false⟩
def stInvalidNs : Status := ⟨0, 0x0B, true⟩
def stSequence : Status := ⟨0, 0x0C, true⟩
def stSglType : Status := ⟨0, 0x11, true⟩
def stWriteProtected : Status := ⟨0, 0x20, true⟩
def stLbaRange : Status := ⟨0, 0x80, true⟩
def stAbortLimit : Status := ⟨1, 0x03, true⟩
def stAerLimit : Status := ⟨1, 0x05, true⟩
def stInvalidQid : Status := ⟨1, 0x01, true⟩
def stInvalidQSize : Status := ⟨1, 0x02, true⟩
def stCqInvalid : Status := ⟨1, 0x00, true⟩
def stInvalidFwSlot : Status := ⟨1, 0x06, true⟩
def stInvalidFwImage : Status := ⟨1, 0x07, true⟩
def stInvalidLogPage : Status := ⟨1, 0x09, true⟩
def stInvalidQueueDeletion : Status := ⟨1, 0x0C, true⟩
def stFwProhibited : Status := ⟨1, 0x13, true⟩
def stOverlapping : Status := ⟨1, 0x14, true⟩
def stUnrecovered : Status := ⟨2, 0x81, false⟩
def stAccessDenied : Status := ⟨2, 0x86, true⟩
def stNotMounted : Status := ⟨7, 0x80, true⟩
def stQuarantined : Status := ⟨7, 0x81, false⟩
def stSealed : Status := ⟨7, 0x82, true⟩
def stCapacity : Status := ⟨7, 0x83, true⟩
def stMapCapacity : Status := ⟨7, 0x84, true⟩
def stDirectRewrite : Status := ⟨7, 0x85, true⟩
def stServo : Status := ⟨7, 0x86, false⟩
def stPinLimit : Status := ⟨7, 0x87, true⟩
def stTransformInput : Status := ⟨7, 0x88, true⟩
def stTimeLimit : Status := ⟨7, 0x89, false⟩
def stNoDisc : Status := ⟨7, 0x8A, true⟩
def stUnrecognised : Status := ⟨7, 0x8B, true⟩
def stKeyRequired : Status := ⟨7, 0x8C, true⟩

/-- A status as the 15-bit status field of a completion entry (NVMe Base 2.0: SC, SCT, DNR). -/
def Status.field (st : Status) : Nat := st.sc + 2 ^ 8 * st.sct + 2 ^ 14 * b2n st.dnr

/-! Slots. -/

/-- Dword `i` of a slot's entry. -/
def CmdSlot.dw (c : CmdSlot) (i : Nat) : Nat := (c.entry.getD i 0).toNat
def CmdSlot.opcode (c : CmdSlot) : Nat := bitsAt (c.dw 0) 0 8
def CmdSlot.cid (c : CmdSlot) : Nat := bitsAt (c.dw 0) 16 16
def CmdSlot.nsid (c : CmdSlot) : Nat := c.dw 1
def CmdSlot.isAdmin (c : CmdSlot) : Bool := c.sqid == 0

/-- The slot `k`, if a command is in it. -/
def State.slot? (s : State) (k : Nat) : Option CmdSlot := SMap.find? s.front.slots k

/-- Put a slot's contents. -/
def State.putSlot (s : State) (k : Nat) (c : CmdSlot) : State :=
  s.modFront fun f => { f with slots := SMap.insert f.slots k c }

/-- Free a slot. -/
def State.freeSlot (s : State) (k : Nat) : State :=
  s.modFront fun f => { f with slots := SMap.erase f.slots k }

/-- Whether the slot's command has neither a completion record nor a posted completion. -/
def CmdSlot.live (c : CmdSlot) : Bool :=
  match c.phase with
  | .fetched | .routed | .executing => true
  | .completed _ _ _ | .posted => false

/-- The command in slot `k`, if it is the fetched, unexecuted admin (or I/O) command of that opcode, not cancelled. -/
def State.cmd? (s : State) (k : Nat) (admin : Bool) (op : Nat) : Option CmdSlot :=
  match s.slot? k with
  | some c => if c.isAdmin == admin && c.opcode == op && (c.phase == .fetched || c.phase == .routed)
      && c.answer != some true then some c else none
  | none => none

/-- Change the health counts of a namespace. -/
def State.modSmart (s : State) (c : Option (Fin 16)) (f : Smart → Smart) : State :=
  match c with
  | none => s
  | some c => s.modFront fun x => { x with smart := x.smart.set c (f x.smart[c]) }

/-! Completion (R352, R356, R448). -/

/-- A completion record reaches the slot: the command's status and dwords 0 and 1. Whichever of the record and a
cancel answer comes first decides (R352). Errors enter the Error Information log; a channel's completions are
counted (Table 15-9 counter 0), all but Channel Service, which completes outside the channel. -/
def State.finish (s : State) (k : Nat) (st : Status) (dw0 : Nat := 0) (dw1 : Nat := 0) : State :=
  match s.slot? k with
  | none => s
  | some c =>
    if !c.live then s
    else if c.silent then s.freeSlot k
    else
      let s1 := s.putSlot k { c with phase := .completed st (BitVec.ofNat 32 dw0) (BitVec.ofNat 32 dw1) }
      let s2 := if st = stSuccess then s1
        else s1.modFront fun f => { f with
          errCount := f.errCount + 1
          errLog := (⟨f.errCount + 1, c.sqid, c.cid, st.field, c.dw 10 + 2 ^ 32 * c.dw 11, c.nsid⟩ :: f.errLog).take 64 }
      let s3 := if st = stUnrecovered then
          s2.modSmart (c.chan.bind chan?) fun m => { m with mediaErrors := m.mediaErrors + 1 }
        else s2
      match c.chan with
      | none => s3
      | some n => match chan? n with
        | none => s3
        | some ch => if c.isAdmin && c.opcode == 0xC4 then s3 else s3.cnt ch 0

/-- Mark a fetched command as one the front end or a channel works on over time. -/
def State.executing (s : State) (k : Nat) : State :=
  match s.slot? k with
  | some c => if c.live then s.putSlot k { c with phase := .executing } else s
  | none => s

/-- Features by identifier and sub-key, with the defaults of Table 11-19. -/
def featDefault (key : Nat) : Nat :=
  match key with
  | 0x01 => 3
  | 0x06 => 1
  | 0x07 => 63 + 2 ^ 16 * 63
  | 0xC2 => 0x3F
  | 0x400 => 368   -- composite over threshold, kelvin: WCTEMP of Table 11-2 (PRESUMED, log 7)
  | _ => if 0x401 ≤ key ∧ key ≤ 0x402 then 0xFFFF else 0

/-- A feature's current value. -/
def State.feat (s : State) (key : Nat) : Nat := SMap.get s.front.feats key (featDefault key)

/-- Set a feature's value. -/
def State.setFeat (s : State) (key v : Nat) : State :=
  s.modFront fun f => { f with feats := SMap.put f.feats key (featDefault key) v }

/-! Asynchronous events (R357). -/

/-- Whether an event is enabled: standard events by feature 0x0B, vendor events by feature 0xC2; error events are
always enabled. -/
def State.eventEnabled (s : State) (ty info : Nat) : Bool :=
  if ty = 2 ∧ info = 0 then bitAt (s.feat 0x0B) 8
  else if ty = 2 ∧ info = 1 then bitAt (s.feat 0x0B) 9
  else if ty = 1 ∧ info = 1 then bitAt (s.feat 0x0B) 1
  else if ty = 1 ∧ info = 0 then bitAt (s.feat 0x0B) 2
  else if ty = 7 then bitAt (s.feat 0xC2) info
  else true

/-- Report queued events through outstanding requests: the first queued event whose type is not masked completes the
oldest request and masks its type until its log page is read (R357). `n` bounds the reports of one call. -/
def State.pumpEvents (s : State) : Nat → State
  | 0 => s
  | n + 1 =>
    match s.front.aers, s.front.events.find? (fun e => !s.front.masked.any (fun m => m.1 == e.1)) with
    | k :: rest, some (ty, info, log) =>
      let s1 := s.modFront fun f => { f with
        aers := rest, events := f.events.erase (ty, info, log), masked := (ty, log) :: f.masked }
      State.pumpEvents (s1.finish k stSuccess (ty + 2 ^ 8 * info + 2 ^ 16 * log)) n
    | _, _ => s

/-- An event occurs: queued if enabled (once while it waits), then reported if it can be. -/
def State.event (s : State) (ty info log : Nat) : State :=
  if !s.eventEnabled ty info then s
  else
    let s1 := if s.front.events.contains (ty, info, log) then s
      else s.modFront fun f => { f with events := f.events ++ [(ty, info, log)] }
    s1.pumpEvents 8

/-- Namespace Attribute Changed for channel `c`: the Changed Namespace List and the event (Table 11-15). -/
def State.nsChanged (s : State) (c : Fin 16) : State :=
  let n := c.val + 1
  (s.modFront fun f => { f with changed := if f.changed.contains n then f.changed else f.changed ++ [n] }).event 2 0 0x04

/-- Set CSTS.CFS: the GBL event and the Persistent Internal Error event (R475, Table 11-15). -/
def State.setCfs (s : State) : State :=
  if s.front.cfs then s
  else ((s.modFront fun f => { f with cfs := true }).irq 0 0x00 1).event 0 3 0x01

/-! The Lost Data log (Table 11-18). -/

/-- Add an entry for an LBA (or none) of channel `c`, dropping the oldest when 8,192 are held; it is counted
(Table 15-9 counter 8) and the vendor Lost data event is sent. -/
def State.logLost (s : State) (c : Fin 16) (pcn : Nat) (lba : Option Nat) (reason : Nat) : State :=
  let full := s.front.lost.length ≥ 8192
  let e : LostEntry := ⟨s.front.lostNext, s.plat.time, pcn, lba.elim (2 ^ 31) id, c.val + 1, reason⟩
  ((s.modFront fun f => { f with
      lost := (if full then f.lost.drop 1 else f.lost) ++ [e]
      lostNext := f.lostNext + 1
      lostDrop := if full then min (f.lostDrop + 1) (2 ^ 32 - 1) else f.lostDrop }).cnt c 8).event 7 1 0xC3

/-! Data pointers (R306, R325). -/

/-- The memory page size of CC.MPS. -/
def State.pageSize (s : State) : Nat := 4096 * 2 ^ bitsAt (SMap.get s.front.nvme 0x14 0) 7 4

/-- The pieces a PRP list names for `rem` bytes: `left` entries remain in the present list page, whose last entry
points to the next page when more are needed. -/
def prpListPieces (page : Nat) : List Nat → Nat → Nat → List (Nat × Nat)
  | [], _, _ => []
  | e :: es, left, rem =>
    if rem = 0 then []
    else if left = 1 ∧ rem > page then prpListPieces page es ((page - e % page) / 8) rem
    else (e, min page rem) :: prpListPieces page es (left - 1) (rem - min page rem)

/-- The pieces of a command's PRPs: PRP1 to the end of its page, then PRP2 or the list it names (NVMe 2.0). -/
def prpPieces (page prp1 prp2 : Nat) (list : List Nat) (len : Nat) : List (Nat × Nat) :=
  let first := min len (page - prp1 % page)
  let rem := len - first
  (if first = 0 then [] else [(prp1, first)]) ++
    (if rem = 0 then [] else if rem ≤ page then [(prp2, rem)]
     else prpListPieces page list ((page - prp2 % page) / 8) rem)

/-- The pieces of SGL descriptors (address, length and type in two 64-bit words); `none` for a type R325 does not
accept. Segment and Last Segment descriptors lead to the words that follow. -/
def sglPieces : List Nat → Option (List (Nat × Nat))
  | a :: b :: rest =>
    let ty := bitsAt b 60 4
    let sub := bitsAt b 56 4
    if sub ≠ 0 then none
    else if ty = 0 then (sglPieces rest).map ((a, bitsAt b 0 32) :: ·)
    else if ty = 2 ∨ ty = 3 then sglPieces rest
    else none
  | _ => some []

/-- Cut a list of pieces to at most `n` bytes, from byte `ofs` of the transfer on. -/
def slicePieces : List (Nat × Nat) → Nat → Nat → List (Nat × Nat)
  | [], _, _ => []
  | (a, l) :: ps, ofs, n =>
    if n = 0 then []
    else if l ≤ ofs then slicePieces ps (ofs - l) n
    else
      let m := min (l - ofs) n
      (a + ofs, m) :: slicePieces ps 0 (n - m)

/-- Split an address range at every multiple of `cut`. The first argument bounds the number of parts. -/
def splitAt (cut : Nat) : Nat → Nat → Nat → List (Nat × Nat)
  | 0, _, _ => []
  | fuel + 1, a, n =>
    if n = 0 then []
    else
      let m := min n (cut - a % cut)
      (a, m) :: splitAt cut fuel (a + m) (n - m)

/-- Max_Payload_Size in use: the field of Device Control, at most 512 bytes (R302; the register's place is PRESUMED,
log 5). -/
def State.mps (s : State) : Nat := min 512 (128 * 2 ^ bitsAt (s.cfgRaw 0x78 0x2100) 5 3)
/-- Max_Read_Request_Size (R303). -/
def State.mrrs (s : State) : Nat := 128 * 2 ^ bitsAt (s.cfgRaw 0x78 0x2100) 12 3

/-- A BAR's base address from configuration space. -/
def State.barBase (s : State) (off : Nat) : Nat :=
  s.cfgRaw off 0 / 16 * 16 + 2 ^ 32 * s.cfgRaw (off + 4) 0

/-- Whether an address lies in the BAR4 range at `base` (R306). -/
def inBar4 (base a : Nat) : Bool := base != 0 && base ≤ a && a < base + 2 ^ 32

/-- Whether a data pointer may be used: a piece inside BAR4 must lie in a page mapped to the command's own channel,
and not write-protected when the transfer writes it (R306). -/
def State.pointersOk (s : State) (c : CmdSlot) (toHost : Bool) : Bool :=
  c.pieces.all fun p =>
    !inBar4 c.bar4 p.1 ||
      (let e := s.winPage ((p.1 - c.bar4) / 0x200000)
       e.valid && some e.chan == c.chan && !(toHost && e.wp))

/-- Record a failed transfer (Table 10-9). -/
def State.xferErr (s : State) (k : Nat) (chan cause addr : Nat) : State :=
  (s.wrs 0 [(F.DMA_LAST_ERR_SLOT, k), (F.DMA_LAST_ERR_CHANNEL, chan), (F.DMA_LAST_ERR_CAUSE, cause),
    (F.DMA_LAST_ERR_VALID, 1), (F.DMA_LAST_ERR_ADDR_LO, addr), (F.DMA_LAST_ERR_ADDR_HI, addr / 2 ^ 32)]).irq 0 0x0A 0

/-- End a command whose data pointer the window refuses (R306). -/
def State.refusePointer (s : State) (k : Nat) (c : CmdSlot) : State :=
  let bad := (c.pieces.find? fun p => inBar4 c.bar4 p.1).elim 0 (·.1)
  (s.xferErr k (c.chan.getD 0) 4 bad).finish k stDataTransferDnr

/-- One piece of data towards host memory: TLPs of at most MPS bytes that do not cross 4 KiB (R302), or the channel's
own window frame (R306). -/
def State.sendPiece (s : State) (c : CmdSlot) (a : Nat) (data : List Byte) : State :=
  if inBar4 c.bar4 a then
    match c.chan.bind chan? with
    | some ch =>
      let e := s.winPage ((a - c.bar4) / 0x200000)
      (s.dramWrite ch (winAddr e ((a - c.bar4) % 0x200000)) (data.map some)).incSat 0 F.DMA_INTERNAL
    | none => s
  else
    (splitAt 4096 (data.length / 4096 + 2) a data.length).foldl (fun s p =>
      (splitAt s.mps (p.2 / s.mps + 2) p.1 p.2).foldl (fun s q =>
        s.post (.memWrite q.1 ((data.drop (q.1 - a)).take q.2) c.chan)) s) s

/-- Move `data`, from byte `ofs` of the command's transfer on, to where its data pointer says. -/
def State.sendData (s : State) (c : CmdSlot) (ofs : Nat) (data : List Byte) : State :=
  ((slicePieces c.pieces ofs data.length).foldl (fun (acc : State × List Byte) p =>
    (acc.1.sendPiece c p.1 (acc.2.take p.2), acc.2.drop p.2)) (s, data)).1

/-- Complete an admin command that returns data. -/
def State.finishData (s : State) (k : Nat) (c : CmdSlot) (data : List Byte) (dw0 : Nat := 0) : State :=
  if s.pointersOk c true then (s.sendData c 0 data).finish k stSuccess dw0 else s.refusePointer k c

/-! Read tags (R303, R22). -/

/-- The tags in use: 768, 256 or 32. -/
def State.tagTotal (s : State) : Nat :=
  if bitAt (s.cfgRaw 0x98 0) 12 then 768 else if bitAt (s.cfgRaw 0x78 0x2100) 8 then 256 else 32

/-- The first tag number: 10-bit tags run from 256 (R303). -/
def State.tagBase (s : State) : Nat := if bitAt (s.cfgRaw 0x98 0) 12 then 256 else 0

/-- Tags a channel holds. -/
def State.tagsOf (s : State) (c : Nat) : Nat := (s.front.reads.filter fun e => e.2.chan == c).length

/-- Whether channel `c` may take a tag: within its reserved share, or from the shared pool while it holds at most a third
of all tags (R303). The shared pool is what the sixteen reserved shares leave. -/
def State.mayTakeTag (s : State) (c : Nat) : Bool :=
  let t := s.tagTotal
  let share := t / 32
  let sharedUsed := (List.range 16).foldl (fun a i => a + (s.tagsOf i - share)) 0
  s.tagsOf c < share || (s.tagsOf c < t / 3 && sharedUsed < t - 16 * share)

/-- A tag that is neither outstanding nor timed out within its quiet period (R305). -/
def State.freeTag (s : State) : Option Nat :=
  (List.range s.tagTotal).find? (fun i =>
    (SMap.find? s.front.reads (s.tagBase + i)).isNone && !s.front.deadTags.any (fun d => d.1 == s.tagBase + i && s.plat.time < d.2)) |>.map (s.tagBase + ·)

/-- The channels with a read waiting that may take a tag, in the order of their turns from the present one on. -/
def State.readers (s : State) : List Nat :=
  ((List.range 16).map fun i => (s.front.turn + i) % 16).filter fun c => s.front.readQ.any (·.chan == c) && s.mayTakeTag c

/-- Whom the arbiter grants: a channel passed over 64 times, else the channel whose turn it is while its weight lasts, else the next
(R320, R450). It starts with channel 0 and goes on in channel order (DESIGN CHOICE, log 184). -/
def State.granted (s : State) : Option Nat :=
  let l := s.readers
  match l.find? fun c => 64 ≤ SMap.get s.front.passed c 0 with
  | some c => some c
  | none =>
    if l.head? = some s.front.turn ∧ s.pr (F.DMA_WEIGHT s.front.turn) ≤ s.front.grants then (l.drop 1 ++ l.take 1).head? else l.head?

/-- A read takes tag `t` and is issued: the turn is counted, and the channels that waited were passed over once more. A grant of age is
ahead of the weights and no part of a turn. -/
def State.issueRead (s : State) (t : Nat) (r : ReadReq) : State :=
  let aged := decide (64 ≤ SMap.get s.front.passed r.chan 0)
  let waiting := s.readers
  let s1 := s.modFront fun f => { f with
    reads := SMap.insert f.reads t r, readQ := f.readQ.erase r
    passed := SMap.put (waiting.foldl (fun (m : SMap Nat) (c : Nat) => SMap.put m c 0 (SMap.get m c 0 + 1)) f.passed) r.chan 0 0
    turn := if aged then f.turn else r.chan
    grants := if aged then f.grants else if r.chan = f.turn && f.grants < s.pr (F.DMA_WEIGHT r.chan) then f.grants + 1 else 1 }
  s1.post (.memRead t r.addr r.len)

/-- Issue the reads that wait for tags, in order per channel, while tags are to be had and Bus Master Enable is set. The argument bounds
the reads issued. -/
def State.pumpReads (s : State) : Nat → State
  | 0 => s
  | n + 1 =>
    let go := s.running 0 0x0A && s.bme && !s.front.inReset && !s.front.flr
    match (if go then s.granted else none).bind fun c => s.front.readQ.find? (·.chan == c), s.freeTag with
    | some r, some t => State.pumpReads (s.issueRead t r) n
    | _, _ => s

/-- Issue what can be issued. -/
def State.issueReads (s : State) : State := s.pumpReads s.front.readQ.length

/-- Drop the reads of a slot: those outstanding become discarded, those waiting are removed. -/
def State.dropReads (s : State) (k : Nat) : State :=
  s.modFront fun f => { f with
    reads := f.reads.map fun e => if e.2.slot == k then (e.1, { e.2 with dead := true }) else e
    readQ := f.readQ.filter fun r => r.slot != k }

end Sys2Proof.Machine
end

