-- ==== Sys2Proof/Machine/Geometry.lean ====
section
/-! DEFINITION. Where things lie on a disc: frames, zones, physical cluster numbers, reserved areas and the position a write may
begin at after a stop, and the end of a recorded extent (R24 to R26, R37, R40, R41, R48 to R50). -/

namespace Sys2Proof.Machine
open Sys2Proof

/-- Frames per revolution of one strand in zone `z` (R26). -/
def framesIn (z : Nat) : Nat := 480 + 14 * z

/-- Clusters in zones Z0 to Z(z − 1) of one layer (R40). -/
def clustersBelow (z : Nat) : Nat := 21120 * z + 308 * z * (z - 1)

/-- Clusters per layer (Table 2-6). -/
def layerClusters : Nat := 1708608

/-- Clusters per disc. -/
def discClusters : Nat := 54675456

/-- Clusters of one zone: 44·F(z) (R37). -/
def zoneClusters (z : Nat) : Nat := 44 * framesIn z

/-- A cluster position: layer, zone, and number `k` within the zone in recording order. -/
structure Pos where
  layer : Nat
  zone  : Nat
  k     : Nat
  deriving DecidableEq, Repr

/-- The zone holding index `i` of a layer counted from the inside, searching down from `z`. -/
def zoneOf (i : Nat) : Nat → Nat
  | 0 => 0
  | z + 1 => if clustersBelow (z + 1) ≤ i then z + 1 else zoneOf i z

/-- The physical cluster number of a position (R40). -/
def pcnOf (p : Pos) : Nat :=
  p.layer * layerClusters +
    (if p.layer % 2 = 0 then clustersBelow p.zone + p.k else layerClusters - clustersBelow (p.zone + 1) + p.k)

/-- The position of a physical cluster number (R40). -/
def posOf (pcn : Nat) : Pos :=
  let l := pcn / layerClusters
  let i := pcn % layerClusters
  if l % 2 = 0 then
    let z := zoneOf i 47
    ⟨l, z, i - clustersBelow z⟩
  else
    let z := zoneOf (layerClusters - 1 - i) 47
    ⟨l, z, i - (layerClusters - clustersBelow (z + 1))⟩

/-- The zone after `z` in recording order, with its layer; odd layers run outside in (R24). -/
def nextZone (layer z : Nat) : Nat × Nat :=
  if layer % 2 = 0 then (if z = 47 then (layer + 1, 47) else (layer, z + 1))
  else (if z = 0 then (layer + 1, 0) else (layer, z - 1))

/-- Ends of the areas of the anchor zone (Table 2-10). -/
def identityStart : Nat := 768
def identityEnd : Nat := 1280
def calibrationEnd : Nat := 9472
/-- The first PCN after the anchor zone. -/
def anchorEnd : Nat := 42856

/-- Whether a PCN lies in a test area (R41, Table 2-5). -/
def inTestArea (pcn : Nat) : Bool :=
  let l := pcn / layerClusters
  let i := pcn % layerClusters
  if l % 2 = 0 then i < 768 else 1707840 ≤ i

/-- Whether a PCN belongs to the user area. -/
def inUser (pcn : Nat) : Bool := anchorEnd ≤ pcn && pcn < discClusters && !inTestArea pcn

/-- The first user-area PCN at or after `pcn`: test areas are passed over. -/
def userFrom (pcn : Nat) : Nat :=
  let p := max pcn anchorEnd
  if inTestArea p then
    (if p / layerClusters % 2 = 0 then p / layerClusters * layerClusters + 768
     else let q := (p / layerClusters + 1) * layerClusters; if inTestArea q then q + 768 else q)
  else p

/-- User-area clusters from `pcn` to the end of the disc. -/
def userBeyond (pcn : Nat) : Nat :=
  (List.range 32).foldl (fun a l =>
    let lo := l * layerClusters + (if l = 0 then anchorEnd else if l % 2 = 0 then 768 else 0)
    let hi := (l + 1) * layerClusters - (if l % 2 = 0 then 0 else 768)
    a + (hi - max lo pcn)) 0

/-- One revolution on from frame `t` of a zone: the frame at the same angle or just after it, carried over a zone or layer end (R48). -/
def revOn (layer z t : Nat) : Nat × Nat × Nat :=
  let bound := t + framesIn z
  let total := 440 * framesIn z
  if bound < total then (layer, z, bound)
  else
    let (l', z') := nextZone layer z
    (l', z', ((bound - total) * framesIn z' + framesIn z - 1) / framesIn z)

/-- The first cluster position that begins at or after frame `t` of a zone. -/
def clusterFrom (p : Nat × Nat × Nat) : Nat := pcnOf ⟨p.1, p.2.1, (p.2.2 + 9) / 10⟩

/-- The first cluster position R48 allows after a last recorded frame `t` of a zone. -/
def afterGap (layer z t : Nat) : Nat := clusterFrom (revOn layer z (t + 1))

/-- The first cluster position that begins two revolutions or more after the position at `pcn` begins (R49). -/
def twoRevsOn (pcn : Nat) : Nat :=
  let p := posOf pcn
  let q := revOn p.layer p.zone (10 * p.k)
  clusterFrom (revOn q.1 q.2.1 q.2.2)

/-- The last frame of row `row` of a cluster, in its zone's count of R37. -/
def frameOfRow (pcn row : Nat) : Nat := 10 * (posOf pcn).k + row

/-- The position the next cluster is begun at after the cluster at `pcn` was cut in row `row` (R48): the next position of its own
area. -/
def afterCut (pcn row : Nat) : Nat :=
  let p := posOf pcn
  afterGap p.layer p.zone (frameOfRow pcn row)

/-- The end of an area's recorded extent (R49), from a first candidate on: `rs` is the recorded positions of the area in PCN order, each
with the last row in which it holds a recorded frame. A candidate ends the extent when it begins two revolutions of blank media; the next
one lies behind the next recorded position, and behind the post-scar gap where that is a scar. The answer names the last recorded position
before the end as well. -/
def extentEnd (skip : Nat → Nat) : Nat → Option (Nat × Nat) → List (Nat × Nat) → Nat × Option (Nat × Nat)
  | p, last, [] => (p, last)
  | p, last, (q, row) :: rest =>
    if twoRevsOn p ≤ q then (p, last)
    else extentEnd skip (max p (skip (if row < 9 then afterCut q row else q + 1))) (some (q, row)) rest

/-- The user-area positions from `p` on that lie before `q`. The first argument bounds them: blank positions inside an extent span less than
two revolutions. -/
def userBetween : Nat → Nat → Nat → List Nat
  | 0, _, _ => []
  | n + 1, p, q => if userFrom p < q then userFrom p :: userBetween n (userFrom p + 1) q else []

/-- The time of one cluster position at 3,000 rpm in units of one 1,200th of a microsecond per frame: ten frames of 20 ms ÷ F(z)
(R256), as nanoseconds. -/
def clusterNs (z : Nat) : Nat := 200000000 / framesIn z

/-- The swath of a cluster's last frame ends at this PCN: the last cluster position that begins in the swath holding the last frame
of the cluster at `pcn`. -/
def swathEnd (pcn : Nat) : Nat :=
  let p := posOf pcn
  let f := framesIn p.zone
  let last := 10 * p.k + 9
  let swath := last / f
  -- the last cluster that begins before the end of that swath
  pcnOf ⟨p.layer, p.zone, ((swath + 1) * f - 1) / 10⟩

/-- Whether the recorded extent that ends after the cluster at `pcn` ends exactly at a swath boundary. -/
def atSwathEnd (pcn : Nat) : Bool :=
  let p := posOf pcn
  (10 * p.k + 10) % framesIn p.zone == 0

/-- A frame address (Table 2-2): layer, zone, swath, strand, frame in revolution. -/
structure FrameAddr where
  layer  : Nat
  zone   : Nat
  swath  : Nat
  strand : Nat
  frame  : Nat
  deriving DecidableEq, Repr

/-- The 48-bit frame address (Table 2-2). -/
def FrameAddr.bits (a : FrameAddr) : Nat :=
  a.layer * 2 ^ 43 + a.zone * 2 ^ 37 + a.swath * 2 ^ 28 + a.strand * 2 ^ 25 + a.frame * 2 ^ 14

/-- The fields of a 48-bit frame address; reserved bits are ignored (R30). -/
def frameAddr (v : Nat) : FrameAddr :=
  ⟨bitsAt v 43 5, bitsAt v 37 6, bitsAt v 28 9, bitsAt v 25 3, bitsAt v 14 11⟩

/-- The address of cluster position `p` (frame index `p / 8`, strand `p % 8`) of the cluster at `pcn` (R37). -/
def addrOf (pcn p : Nat) : FrameAddr :=
  let q := posOf pcn
  let t := 10 * q.k + p / 8
  ⟨q.layer, q.zone, t / framesIn q.zone, p % 8, t % framesIn q.zone⟩

/-- The address of frame `f` of slot `j` of a layer's test area, on a strand (R142): swath `j` of Z0, or swath 424 + j in recording order on
an odd layer. -/
def testAddr (layer j strand f : Nat) : FrameAddr := ⟨layer, 0, if layer % 2 = 0 then j else 424 + j, strand, f⟩

/-- The address one frame later in recording order (R26, R76). -/
def FrameAddr.next (a : FrameAddr) : FrameAddr :=
  if a.frame + 1 < framesIn a.zone then { a with frame := a.frame + 1 }
  else if a.swath + 1 < 440 then { a with frame := 0, swath := a.swath + 1 }
  else
    let (l', z') := nextZone a.layer a.zone
    { a with layer := l', zone := z', swath := 0, frame := 0 }

/-- The cluster and the cluster position a frame address belongs to. -/
def FrameAddr.place (a : FrameAddr) : Nat × Nat :=
  let t := a.swath * framesIn a.zone + a.frame
  (pcnOf ⟨a.layer, a.zone, t / 10⟩, 8 * (t % 10) + a.strand)

end Sys2Proof.Machine
end

