-- ==== Sys2Proof/Machine/Topiary.lean ====
section
/-! DEFINITION. Topiary: mark shaping into gate pulses, peak levels, and how the verify spot's signal is compared with the bits written
(R115, R117 to R119, R131). -/

namespace Sys2Proof.Machine
open Sys2Proof

/-- The five parameters of a class (Table 4-3). -/
structure Shape where
  fps : Nat
  fpe : Nat
  mpp : Nat
  lpe : Nat
  gap : Nat
  deriving DecidableEq, Repr

/-- The class of a mark of length `L` (R117). -/
def markClass (L : Nat) : Nat := min L 4

/-- The pulses of a mark of `L` bits that begins at bit `at_`, after a space of `space` bits (R118), in taps. -/
def markPulses (p : Shape) (at_ : Int) (L space : Nat) : List (Int × Int) :=
  let t := 64 * at_
  let rise := t + p.fps + (if space = 1 then p.gap else 0)
  [(rise, t + 32 + p.fpe)]
    ++ (List.range (L - 2)).map (fun (j : Nat) => (t + 64 * ((j : Int) + 1), t + 64 * ((j : Int) + 1) + p.mpp))
    ++ (if 2 ≤ L then [(t + 64 * ((L : Int) - 1), t + 64 * ((L : Int) - 1) + 32 + p.lpe)] else [])

/-- A pulse that is too short is widened to MIN_PW taps (R118). -/
def widen (minPw : Nat) (q : Int × Int) : Int × Int := if q.2 - q.1 < minPw then (q.1, q.1 + minPw) else q

/-- The OR of pulses sorted by their start, with off intervals shorter than MIN_PW filled (R118); `cur` is the pulse so far. -/
def joinPulses (minPw : Nat) (cur : Int × Int) : List (Int × Int) → List (Int × Int)
  | [] => [cur]
  | q :: qs => if q.1 - cur.2 < minPw then joinPulses minPw (cur.1, max cur.2 q.2) qs else cur :: joinPulses minPw q qs

/-- The gate of a list of pulses (R118). -/
def gateOf (minPw : Nat) (ps : List (Int × Int)) : List (Int × Int) :=
  match ps.mergeSort fun a b => a.1 ≤ b.1 with
  | [] => []
  | q :: qs => joinPulses minPw q qs

/-- Run lengths of bits. -/
def runs : List Bool → List (Bool × Nat)
  | [] => []
  | b :: bs =>
    match runs bs with
    | [] => [(b, 1)]
    | (d, n) :: rs => if d = b then (b, n + 1) :: rs else (b, 1) :: (d, n) :: rs

/-- What a beam's gate carries from one cluster into the next: the length of a mark that has reached the end of the bits, the space
before it, and the last pulse, which an off interval after it may still lengthen (R118). -/
abbrev Trail := Nat × Nat × Option (Int × Int)

/-- A beam at a session start, where the preceding space counts as longer than one bit. -/
def Trail.fresh : Trail := (0, 0, none)

/-- The pulses of the marks of a beam's bits, in taps from the first of `bits`, and the mark and space left at the end. -/
def marksOf (shape : Nat → Shape) (minPw carry space : Nat) (bits : List Bool) : List (Int × Int) × Nat × Nat :=
  let rec go (rs : List (Bool × Nat)) (at_ : Int) (sp : Nat) : List (Int × Int) × Nat × Nat :=
    match rs with
    | [] => ([], 0, sp)
    | (false, n) :: rest => go rest (at_ + n) (if at_ = 0 then sp + n else n)
    | (true, n) :: rest =>
      if rest.isEmpty then ([], n, sp)
      else
        let ps := (markPulses (shape (markClass n)) at_ n sp).map (widen minPw)
        let r := go rest (at_ + n) sp
        (ps ++ r.1, r.2)
  go (runs (List.replicate carry true ++ bits)) (-(carry : Int)) space

/-- The gate of a beam over the bits of a cluster, and what it carries on. The last pulse is held back, so that an off interval across
the cluster boundary is filled as any other. -/
def beamPulses (shape : Nat → Shape) (minPw : Nat) (t : Trail) (bits : List Bool) : List (Int × Int) × Trail :=
  let r := marksOf shape minPw t.1 t.2.1 bits
  let ps := gateOf minPw (t.2.2.toList ++ r.1)
  let d := 64 * (bits.length : Int)
  (ps.dropLast, r.2.1, r.2.2, ps.getLast?.map fun q => (q.1 - d, q.2 - d))

/-- What is left over when a session ends: the mark that reached the last bit, and the pulse held back. -/
def endPulses (shape : Nat → Shape) (minPw : Nat) (t : Trail) : List (Int × Int) :=
  gateOf minPw (t.2.2.toList ++ (if t.1 = 0 then []
    else (markPulses (shape (markClass t.1)) (-(t.1 : Int)) t.1 t.2.1).map (widen minPw)))

/-- A gate delayed by a number of channel bits (R115). -/
def delayed (n : Nat) (ps : List (Int × Int)) : List (Int × Int) := ps.map fun q => (q.1 + 64 * n, q.2 + 64 * n)

/-- The peak level of zone `z`: PEAK + round(SLOPE × z ÷ 16), a half away from zero, clamped to 0 to 1,023 (R119). -/
def peakLevel (peak : Nat) (slope : Int) (z : Nat) : Nat :=
  let x := slope * z
  let r := if 0 ≤ x then (x + 8) / 16 else -((-x + 8) / 16)
  (max 0 (min 1023 ((peak : Int) + r))).toNat

/-! Verify (R131). -/

/-- Every fourth of a list of samples: one per channel bit of samples taken at quarter channel bits. -/
def everyFourth : List Nat → List Nat
  | x :: _ :: _ :: _ :: xs => x :: everyFourth xs
  | x :: _ => [x]
  | [] => []

/-- How many bits differ from the sliced samples. A sample at or above the slice level is a mark, a 1 (DEDUCED, log 175); one that was
not delivered is a 0. -/
def sliceErrors (slice : Nat) : List Bool → List Nat → Nat
  | [], _ => 0
  | b :: bs, [] => b2n b + sliceErrors slice bs []
  | b :: bs, x :: xs => b2n (decide (slice ≤ x) != b) + sliceErrors slice bs xs

/-- E of a frame (R131): the payload channel bits, positions 144 to 9,935, whose sliced value differs from the bit written, the least over
alignments of −2 to +2 bits about the delay. `signal` is the verify signal at quarter channel bits from the frame's first bit on. -/
def frameErrors (slice delay : Nat) (bits : List Bool) (signal : List Nat) : Nat :=
  let body := (bits.drop 144).take 9792
  let e := fun (a : Nat) => sliceErrors slice body (everyFourth (signal.drop (delay + 4 * (142 + a))))
  ([0, 1, 3, 4].map e).foldl min (e 2)

/-- The mark quality of a frame (R131). -/
def markQuality (emax e : Nat) : Nat := 255 - min 255 (255 * e / max 1 emax)

end Sys2Proof.Machine
end

