-- ==== Sys2Proof/Machine/Strategy.lean ====
section
/-! DEFINITION. The strategy table of a channel: its entries, when TPY fetches one, and the levels an entry gives the driver (R119 to
R122). -/

namespace Sys2Proof.Machine
open Sys2Proof

/-- Change a channel's write chain. -/
def State.modWr (s : State) (c : Fin 16) (f : WriteChain → WriteChain) : State := s.modCh c fun x => { x with wr := f x.wr }

/-- A word of a layer's strategy entry (R120). -/
def State.tpyWord (s : State) (c : Fin 16) (layer ofs : Nat) : Nat := leNat (s.dramBytes c (s.cr c F.TPY_ST_BASE + 256 * layer + ofs) 4)

/-- Whether the fetch of a layer's entry would meet a poisoned word. -/
def State.tpyBad (s : State) (c : Fin 16) (layer : Nat) : Bool := s.anyPoison c (s.cr c F.TPY_ST_BASE + 256 * layer) 256

/-- Fetch a layer's strategy entry into the active copy of `TPY.STRAT` and `TPY.POWER`. A fetch that meets a poisoned word leaves the
values and raises ST_ERR (R121). -/
def State.tpyFetch (s : State) (c : Fin 16) (layer : Nat) : State :=
  if s.tpyBad c layer then (s.errOpen (chRg c) 0x31 0 7).cirq c 0x31 0
  else
    let s1 := (List.range 8).foldl (fun s b =>
      let s := (List.range 4).foldl (fun s k =>
        let w := s.tpyWord c layer (32 * b + 4 * k)
        s.wrs (chRg c) [(F.TPY_STRAT_FPS b (k + 1), bitsAt w 0 6), (F.TPY_STRAT_FPE b (k + 1), bitsAt w 6 6),
          (F.TPY_STRAT_MPP b (k + 1), bitsAt w 12 6), (F.TPY_STRAT_LPE b (k + 1), bitsAt w 18 6),
          (F.TPY_STRAT_GAP b (k + 1), bitsAt w 24 6)]) s
      let w := s.tpyWord c layer (32 * b + 16)
      s.wrs (chRg c) [(F.TPY_POWER_PEAK b, bitsAt w 0 10), (F.TPY_POWER_BIAS b, bitsAt w 10 10),
        (F.TPY_POWER_SLOPE b, bitsAt w 20 8)]) s
    s1.modWr c fun w => { w with tpyLayer := some layer, tpyStale := false }

/-- Whether a cluster on a layer needs a fetch first: a new layer, or a new generation unless HOLD_TABLE is set (R121). -/
def State.tpyNeeds (s : State) (c : Fin 16) (layer : Nat) : Bool :=
  (s.ch c).wr.tpyLayer != some layer || ((s.ch c).wr.tpyStale && s.cr c F.TPY_CTL_HOLD_TABLE == 0)

/-- The layer whose entry is due at the next cluster boundary: that of the cluster committed to begin there, else the layer in force
after a new generation (R121). -/
def State.tpyDue (s : State) (c : Fin 16) : Option Nat :=
  let w := (s.ch c).wr
  let layer := match w.placed.find? fun p => !p.begun with
    | some p => some (posOf p.pcn).layer
    | none => w.tpyLayer
  layer.filter fun l => s.tpyNeeds c l

/-- At a cluster boundary a fetch that is due comes before a Flysheet swap (R122). One that would fail is left to the session's own
boundary, which it stops. -/
def State.tpyBoundary (s : State) (c : Fin 16) : State :=
  match s.tpyDue c with
  | some l => if s.tpyBad c l then s else s.tpyFetch c l
  | none => s

/-- The levels of the driver's PEAK and BIAS registers for a cluster on a layer, in a zone: of the entry that will be in force when it
begins (R119, R121). -/
def State.tpyLevels (s : State) (c : Fin 16) (layer z : Nat) : List Nat :=
  let fetch := s.tpyNeeds c layer && !s.tpyBad c layer
  let power := fun b => s.tpyWord c layer (32 * b + 16)
  let peak := fun b => if fetch then peakLevel (bitsAt (power b) 0 10) (toSigned 8 (bitsAt (power b) 20 8)) z
    else peakLevel (s.cr c (F.TPY_POWER_PEAK b)) (toSigned 8 (s.cr c (F.TPY_POWER_SLOPE b))) z
  let bias := fun b => if fetch then bitsAt (power b) 10 10 else s.cr c (F.TPY_POWER_BIAS b)
  (List.range 8).map peak ++ (List.range 8).map bias

end Sys2Proof.Machine
end

