-- ==== Sys2Proof/Machine/Headers.lean ====
section
/-! DEFINITION. The common header: Flysheet swaps, quiesce, interrupt clear and test, and how a host access reaches the pages of a
fenced or Bivouac channel (R14, R392, R463 to R470). -/

namespace Sys2Proof.Machine
open Sys2Proof

/-- The outcome of a command. -/
abbrev HRes := Host.Outcome State Fault Refusal

/-- How a register access of the host meets channel `c`'s fence (R14, R392). -/
inductive Reach where
  /-- the access is executed -/
  | open_
  /-- served from the always-on shadows: reads work, writes are ignored but for the fields R14 names -/
  | shadow
  /-- reads 0, writes ignored -/
  | closed
  /-- the access wakes the channel and is stalled (R392), or waits behind one that is (R307) -/
  | stall
  deriving DecidableEq, Repr

/-- What a page of region `rg` is to the host. -/
def State.meets (s : State) (rg page : Nat) : Reach :=
  if rg = 0 then .open_
  else match chan? (rg - 1) with
    | none => .closed
    | some c =>
      let x := s.ch c
      -- a channel not yet powered up is met as a fenced one (DESIGN CHOICE, log 21)
      if x.fence != 0 || !x.powered then (if shadowPage page then .shadow else .closed)
      else if x.st = .bivouac then (if shadowPage page then .shadow else .stall)
      else .open_

/-- What an access to a page of region `rg` meets: one of the host waits behind those that wait for a wake (R307); firmware inside the
device is not behind the fence. -/
def State.reach (s : State) (src : Src) (rg page : Nat) : Reach :=
  match src with
  | .firmware => .open_
  | .host => if s.front.q2.isEmpty then s.meets rg page else .stall

/-- Wake the channel of region `rg` for an access to one of its pages, if it is in Bivouac (R392). -/
def State.wakeFor (s : State) (rg page : Nat) : State :=
  match chan? (rg - 1), s.meets rg page with
  | some c, .stall => s.startWake c 1
  | _, _ => s

/-- An access waits, and wakes the channel it is for (R307, R392). -/
def State.stallAccess (s : State) (rg page : Nat) (a : Access) : State :=
  (s.modFront fun f => { f with q2 := f.q2 ++ [a] }).wakeFor rg page

/-- The BAR2 offset of a register (R462). -/
def busAddr (rg page off : Nat) : Nat := rg * 0x100000 + page * 0x1000 + off

/-- The key of a register's parity mark; `fly` names the Flysheet copy (R377). -/
def parityKey (rg page off : Nat) (fly : Bool) : Nat := busAddr rg page off * 2 + b2n fly

/-- A write ends a parity error's mark (log 22). -/
def State.unmark (s : State) (rg page off : Nat) (fly : Bool) : State :=
  { s with parity := SMap.erase s.parity (parityKey rg page off fly) }

/-- A register write that starts something: executed, ignored, or stalled behind a wake as the write it is. -/
def State.gated (s : State) (src : Src) (rg page off : Nat) (value : Nat) (eff : State → State) : State :=
  match s.reach src rg page with
  | .open_ => eff (s.unmark rg page off false)
  | .shadow | .closed => s
  | .stall => s.stallAccess rg page (.write (busAddr rg page off) (BitVec.ofNat 32 value))

/-! Flysheet swaps (R468 to R470). -/

/-- The RW and RWF body fields of a page: those with a Flysheet copy (R463). -/
def swapFields (rg page : Nat) : List Fld :=
  ((pageFields rg page).getD []).filter fun f =>
    0x100 ≤ f.off && f.off < 0x800 && (f.acc == .rw || f.acc == .rwf)

/-- The page of a region's telemetry registers: GMON on the port die, MON in a channel. -/
def monPage (rg : Nat) : Nat := if rg = 0 then 0x18 else 0x58

/-- The source whose configuration the telemetry page shows. -/
def fHistIdx (rg : Nat) : Fld := if rg = 0 then F.GMON_HIST_IDX else F.MON_HIST_IDX

/-- The word of a histogram source that a configuration field stands for: EN, SCALE, LOW and WIDTH (R459, R461). -/
def histWord (rg : Nat) (f : Fld) : Option Nat :=
  let base := if rg = 0 then 0x140 else 0x108
  if f.page ≠ monPage rg then none
  else match f.off - base, f.lsb with
    | 0x04, 0 => some 32
    | 0x04, 1 => some 33
    | 0x08, 0 => some 34
    | 0x0C, 0 => some 35
    | _, _ => none

/-- The active copy of a field: a histogram configuration is that of the source selected. -/
def State.rdAct (s : State) (rg : Nat) (f : Fld) : Nat :=
  match histWord rg f with
  | some w => s.tget .hist rg (s.rd rg (fHistIdx rg) * 64 + w)
  | none => s.rd rg f

/-- Put the active copy of a field. -/
def State.wrAct (s : State) (rg : Nat) (f : Fld) (v : Nat) : State :=
  match histWord rg f with
  | some w => if histSource rg (s.rd rg (fHistIdx rg)) then s.tput .hist rg (s.rd rg (fHistIdx rg) * 64 + w) v else s
  | none => s.wr rg f v

/-- Exchange the active and Flysheet copies of a page's fields; the window table goes with the WIN page (R316). A histogram configuration
comes into force for the source that the swap selects, and the Flysheet copy takes that of the source selected before (DEDUCED, log 167). -/
def State.exchange (s : State) (rg page : Nat) : State :=
  let s1 := (swapFields rg page).foldl (fun t f => (t.wrAct rg f (s.rdFly rg f)).wrFly rg f (s.rdAct rg f)) s
  if rg = 0 ∧ page = 0x0C then
    let act := s.tbl.filter fun e => e.1 / 0x100000 == Tbl.winActive.code * 32
    let fly := s.tbl.filter fun e => e.1 / 0x100000 == Tbl.winFly.code * 32
    let s2 := (s1.tclear .winActive 0).tclear .winFly 0
    let s3 := fly.foldl (fun s e => s.tput .winActive 0 (e.1 % 0x100000) e.2) s2
    act.foldl (fun s e => s.tput .winFly 0 (e.1 % 0x100000) e.2) s3
  else s1

/-- A completed swap of one page: BANK toggles, DONE is set and REFUSED cleared, the count advances, and the Flysheet
copy is being reloaded (R468, R469). -/
def State.swapDone (s : State) (rg page : Nat) : State :=
  let s1 := s.exchange rg page
  let s2 := s1.wrs rg [(F.HDR_SET_STS_BANK page, 1 - s.rd rg (F.HDR_SET_STS_BANK page)),
    (F.HDR_SET_STS_PENDING page, 0), (F.HDR_SET_STS_DONE page, 1), (F.HDR_SET_STS_REFUSED page, 0),
    (F.HDR_SET_STS_SYNCING page, 1)]
  let s3 := s2.incWrap rg (F.HDR_SET_SEQ_DONE_N page)
  if rg = 0 ∧ page = 0x0C then (s3.pw F.WIN_STS_SYNCING 1).irq 0 0x0C 4 else s3

/-- A refused or cancelled request: both copies stay (R469); REFUSED, CAUSE and the count. -/
def State.swapRefused (s : State) (rg page cause : Nat) : State :=
  (s.wrs rg [(F.HDR_SET_STS_DONE page, 0), (F.HDR_SET_STS_REFUSED page, 1), (F.HDR_SET_STS_CAUSE page, cause)]).incWrap
    rg (F.HDR_SET_SEQ_REFUSED_N page)

/-- Whether a page is a servo slot page. -/
def slotPage (page : Nat) : Bool := 0x09 ≤ page && page ≤ 0x0F

/-- Whether R170 refuses a swap of slot page `page` now: the slot is in ACQUIRE or CLOSED and a coefficient differs. The
coefficients are the fields at 0x200 to 0x4FF (R169). -/
def State.slotRefuses (s : State) (rg page : Nat) : Bool :=
  rg != 0 && slotPage page &&
    (let m := s.rd rg (F.SLT_STATE_MODE (page - 9))
     m == 2 || m == 3) &&
    (swapFields rg page).any fun f => 0x200 ≤ f.off && f.off < 0x500 && s.rd rg f != s.rdFly rg f

/-- The pages of the CAL block's own group swap (R233): BRC0 to BRC7, BRM and FSY. -/
def calSwapPages : List Nat := [0x20, 0x21, 0x22, 0x23, 0x24, 0x25, 0x26, 0x27, 0x2C, 0x29]

/-- Whether a page is a member of a pending group swap, or of the CAL block's pending swap (R470). -/
def State.inGroup (s : State) (rg page : Nat) : Bool :=
  (SMap.get s.groups rg []).contains page ||
    (match if rg = 0 then none else chan? (rg - 1) with
     | some c => (s.ch c).calSwap && calSwapPages.contains page
     | none => false)

/-- Whether the boundary of a request takes it at once (Table 16-5). A slot page waits for its next sample (R170). -/
def State.boundaryNow (s : State) (rg when_ : Nat) : Bool :=
  match when_ with
  | 0 => true
  | 1 | 2 => s.rd rg F.WOB_STS_ADIP_VALID == 0
  | 3 => let st := s.rd rg F.SPN_STS_STATE; st != 6 && st != 7
  | _ => false

/-- Whether the boundary that a slot page's swap, or a group with one, waits for has come: what is left is that slot's first sample
(R170). Page 0 stands for the group. -/
def State.setReached (s : State) (rg page : Nat) (on : Bool) : State :=
  match if rg = 0 then none else chan? (rg - 1) with
  | none => s
  | some c => s.modCh c fun x =>
    let l := x.servo.reached.filter (· != page)
    { x with servo := { x.servo with reached := if on then page :: l else l } }

/-- Evaluate a page's own pending swap at its boundary (R170, R468). -/
def State.evalSwap (s : State) (rg page : Nat) : State :=
  if s.slotRefuses rg page then
    ((s.wr rg (F.HDR_SET_STS_PENDING page) 0).swapRefused rg page 2).irq rg page 7
  else s.swapDone rg page

/-- SWAP_REQUEST: a `SET_CMD` write without GROUP or CANCEL (R468). -/
def swapRequest (rg page when_ : Nat) (s : State) : State :=
  if (pageFields rg page).isNone then s
  else if when_ ≥ 5 ∨ (rg = 0 ∧ when_ ≠ 0) then s.swapRefused rg page 1
  else if s.rd rg (F.HDR_SET_STS_PENDING page) = 1 ∨ s.inGroup rg page then s.swapRefused rg page 4
  else
    let s1 := s.wrs rg [(F.HDR_SET_STS_PENDING page, 1), (F.HDR_SET_STS_WHEN page, when_),
      (F.HDR_SET_STS_DONE page, 0), (F.HDR_SET_STS_REFUSED page, 0)]
    if slotPage page then s1.setReached rg page (s1.boundaryNow rg when_)
    else if s1.boundaryNow rg when_ then s1.evalSwap rg page else s1

def execSwapRequest (src : Src) (rg page when_ : Nat) (s : State) : HRes :=
  .next (s.gated src rg page 0x034 (when_ % 8) (swapRequest rg page (when_ % 8)))

/-- The pages selected in `CHN.GRP_MASK_k`. -/
def State.groupMask (s : State) (rg : Nat) : List Nat :=
  (List.range 256).filter fun p => bitAt (s.rd rg (F.CHN_GRP_MASK (p / 32))) (p % 32)

/-- Evaluate a pending group swap at its boundary: every member swaps or none does (R470). CHN and each member report. -/
def State.evalGroup (s : State) (rg : Nat) : State :=
  let ms := SMap.get s.groups rg []
  let s0 := { s with groups := SMap.erase s.groups rg }
  if ms.any (s.slotRefuses rg) then
    let s1 := (ms.filter (s.slotRefuses rg)).foldl (fun s p => s.irq rg p 7) s0
    (0 :: ms).foldl (fun s p => s.swapRefused rg p 3) (s1.wr rg (F.HDR_SET_STS_PENDING 0) 0)
  else
    let s1 := ms.foldl (fun s p => s.swapDone rg p) s0
    (s1.wrs rg [(F.HDR_SET_STS_PENDING 0, 0), (F.HDR_SET_STS_DONE 0, 1), (F.HDR_SET_STS_REFUSED 0, 0)]).incWrap rg
      (F.HDR_SET_SEQ_DONE_N 0)

/-- GROUP_SWAP_REQUEST (R470): a request refused at once is reported by CHN alone (DEDUCED, log 14). -/
def groupSwapRequest (c : Fin 16) (when_ : Nat) (s : State) : State :=
  let rg := chRg c
  let ms := s.groupMask rg
  if when_ ≥ 5 ∨ ms.any (fun p => p == 0 || (channelFields p).isNone) then s.swapRefused rg 0 1
  else if s.rd rg (F.HDR_SET_STS_PENDING 0) = 1 ∨ ((s.ch c).calSwap ∧ ms.any calSwapPages.contains) then
    s.swapRefused rg 0 4
  else if ms.any (fun p => s.rd rg (F.HDR_SET_STS_PENDING p) == 1) then s.swapRefused rg 0 3
  else
    let s1 : State := { (s.wrs rg [(F.HDR_SET_STS_PENDING 0, 1), (F.HDR_SET_STS_WHEN 0, when_),
      (F.HDR_SET_STS_DONE 0, 0), (F.HDR_SET_STS_REFUSED 0, 0)]) with groups := SMap.put s.groups rg [] ms }
    if ms.any slotPage then s1.setReached rg 0 (s1.boundaryNow rg when_)
    else if s1.boundaryNow rg when_ then s1.evalGroup rg else s1

def execGroupSwapRequest (src : Src) (c : Fin 16) (when_ : Nat) (s : State) : HRes :=
  .next (s.gated src (chRg c) 0 0x034 (when_ % 8 + 0x100) (groupSwapRequest c (when_ % 8)))

/-- The CAL block's own group swap (R233): complete once no member's Flysheet copy is being reloaded, else still pending. -/
def State.evalCal (s : State) (c : Fin 16) : State :=
  let rg := chRg c
  if calSwapPages.any fun p => s.rd rg (F.HDR_SET_STS_SYNCING p) == 1 then s
  else calSwapPages.foldl (fun s p => s.swapDone rg p) (s.modCh c fun x => { x with calSwap := false })

/-- Whether the CAL block's swap of R233 is what is pending on a page. -/
def State.calPending (s : State) (rg page : Nat) : Option (Fin 16) :=
  match if rg = 0 then none else chan? (rg - 1) with
  | some c => if (s.ch c).calSwap && calSwapPages.contains page then some c else none
  | none => none

/-- End a page's pending request, or CHN's pending group, with a cause. -/
def State.endSwap (s : State) (rg page cause : Nat) : State :=
  if s.rd rg (F.HDR_SET_STS_PENDING page) = 0 || ((s.calPending rg page).isSome && cause == 5) then s
  else
    let ms := if page = 0 then SMap.get s.groups rg [] else []
    let s1 := (s.wr rg (F.HDR_SET_STS_PENDING page) 0).swapRefused rg page cause
    let s2 := ms.foldl (fun s p => s.swapRefused rg p cause) s1
    if page = 0 then { s2 with groups := SMap.erase s2.groups rg } else s2

/-- SWAP_CANCEL: no effect at all when no request of its own page is pending (R470). -/
def execSwapCancel (src : Src) (rg page : Nat) (s : State) : HRes :=
  .next (s.gated src rg page 0x034 (2 ^ 31) fun s => s.endSwap rg page 5)

/-- A cluster boundary is reached with a swap of TPY pending: a fetch that is due is applied first (R122). -/
def State.fetchFirst (s : State) (rg page : Nat) : State :=
  let tpy := page = 0x31 ∨ (page = 0 ∧ (SMap.get s.groups rg []).contains 0x31)
  match if rg = 0 then none else chan? (rg - 1) with
  | some c => if tpy ∧ s.rd rg (F.HDR_SET_STS_WHEN page) = 2 then s.tpyBoundary c else s
  | none => s

/-- FLYSHEET_SWAP: the boundary a pending request waits for is reached (R59, R68, R82, R115, R122, R469). A slot page's request, and a
group with one, then waits for the slot's first sample (R170). -/
def flysheetSwap (rg page : Nat) (s : State) : State :=
  if let some c := s.calPending rg page then s.evalCal c
  else if s.rd rg (F.HDR_SET_STS_PENDING page) = 0 then s
  else if rg ≠ 0 ∧ page = 0 ∧ (SMap.find? s.groups rg).isSome then
    if (SMap.get s.groups rg []).any slotPage then s.setReached rg 0 true else (s.fetchFirst rg 0).evalGroup rg
  else if rg ≠ 0 ∧ slotPage page then s.setReached rg page true
  else (s.fetchFirst rg page).evalSwap rg page

def execFlysheetSwap (rg page : Nat) (s : State) : HRes := .next (flysheetSwap rg page s)

/-- A write of a whole register under the access codes of the fields in it, to the active or the Flysheet copy
(Table 0-4, R6, R463). -/
def State.writeFields (s : State) (rg : Nat) (fs : List Fld) (fly : Bool) (value : Nat) : State :=
  fs.foldl (fun s f =>
    let v := bitsAt value f.lsb f.width
    if fly then
      if f.acc == .rw || f.acc == .rwf then (if f.legal.allows v then s.wrFly rg f v else s) else s
    else match f.acc with
      | .rw => s.wrLegal rg f v
      | .w1c => s.wr rg f ((s.rd rg f) &&& (2 ^ f.width - 1 - v))
      | .w1s => s.wr rg f (s.rd rg f ||| v)
      | _ => s) s

/-- The fields of the register at an offset of a page. -/
def regFields (rg page off : Nat) : List Fld := ((pageFields rg page).getD []).filter fun f => f.off == off

/-- A Flysheet write of the register at an offset: held while the copy is being reloaded (R469). -/
def State.flyWrite (s : State) (rg page off value : Nat) : State :=
  if s.rd rg (F.HDR_SET_STS_SYNCING page) = 1 then { s with flyHeld := s.flyHeld ++ [(rg, page, off, value)] }
  else s.writeFields rg (regFields rg page off) true value

/-- FLYSHEET_RELOAD_DONE: the Flysheet copy equals the new active copy, SYNCING ends, and the writes held meanwhile are
applied in order (R469, R316). -/
def flysheetReloadDone (rg page : Nat) (s : State) : State :=
  if s.rd rg (F.HDR_SET_STS_SYNCING page) = 0 then s
  else
    let s1 := (swapFields rg page).foldl (fun s f => s.wrFly rg f (s.rdAct rg f)) (s.wr rg (F.HDR_SET_STS_SYNCING page) 0)
    let s2 := if rg = 0 ∧ page = 0x0C then
        (s1.tbl.filter fun e => e.1 / 0x100000 == Tbl.winActive.code * 32).foldl
          (fun s e => s.tput .winFly 0 (e.1 % 0x100000) e.2) ((s1.tclear .winFly 0).pw F.WIN_STS_SYNCING 0)
      else s1
    let mine := s2.flyHeld.filter fun h => h.1 == rg && h.2.1 == page
    let s3 := { s2 with flyHeld := s2.flyHeld.filter fun h => !(h.1 == rg && h.2.1 == page) }
    mine.foldl (fun s h =>
      if rg = 0 ∧ page = 0x0C ∧ h.2.2.1 ≥ 0x100000 then s.tput .winFly 0 (h.2.2.1 - 0x100000) h.2.2.2
      else s.writeFields rg (regFields rg page h.2.2.1) true h.2.2.2) s3

def execFlysheetReloadDone (rg page : Nat) (s : State) : HRes := .next (flysheetReloadDone rg page s)

/-! Quiesce, enable, interrupts. -/

/-- BLOCK_QUIESCE: `BLK_CTL.QUIESCE` set (R465). -/
def execBlockQuiesce (src : Src) (rg page : Nat) (s : State) : HRes :=
  .next (s.gated src rg page 0x008 (8 + s.rd rg (F.HDR_BLK_CTL_EN page)) fun s =>
    if (pageFields rg page).isNone then s else s.wr rg (F.HDR_BLK_CTL_QUIESCE page) 1)

/-- BLOCK_DISABLE: `BLK_CTL.EN` cleared, which acts on QUIESCED as QUIESCE does (R465). -/
def execBlockDisable (src : Src) (rg page : Nat) (s : State) : HRes :=
  .next (s.gated src rg page 0x008 (8 * s.rd rg (F.HDR_BLK_CTL_QUIESCE page)) fun s =>
    if (pageFields rg page).isNone then s else s.wr rg (F.HDR_BLK_CTL_EN page) 0)

/-- Clear `IRQ_RAW` bits through `IRQ_STS`; the region's message is sent again if some bit stays pending (R466, R467).
Clearing the PWR page's PFW bit also releases the early warning from ALERT_N (R479). -/
def irqStatusClear (rg page : Nat) (bits : Nat) (s : State) : State :=
  if (pageFields rg page).isNone then s
  else
    let raw := s.rd rg (F.HDR_IRQ_RAW page)
    let s1 := s.wr rg (F.HDR_IRQ_RAW page) (raw - (raw &&& bits))
    let s2 := if s1.regionPending rg then s1.msix (regionVector rg) else s1
    if rg = 0 ∧ page = 0x01 ∧ bitAt bits 0 then { s2 with plat := { s2.plat with alertPfw := false } } else s2

/-- R14 lets the CHN page's `IRQ_EN`, `IRQ_STS` and `IRQ_TEST` be written behind a closed fence and in Bivouac. -/
def State.gatedIrq (s : State) (src : Src) (rg page off value : Nat) (eff : State → State) : State :=
  if page = 0x00 ∧ s.reach src rg page = .shadow then eff (s.unmark rg page off false) else s.gated src rg page off value eff

def execIrqStatusClear (src : Src) (rg page : Nat) (bits : Word) (s : State) : HRes :=
  .next (s.gatedIrq src rg page 0x018 bits.toNat (irqStatusClear rg page bits.toNat))

/-- IRQ_TEST: each 1 sets that `IRQ_RAW` bit (Table 16-2). -/
def irqTest (rg page bits : Nat) (s : State) : State :=
  if (pageFields rg page).isNone then s
  else s.setIrqRaw rg page (s.rd rg (F.HDR_IRQ_RAW page) ||| bits)

def execIrqTest (src : Src) (rg page : Nat) (bits : Word) (s : State) : HRes :=
  .next (s.gatedIrq src rg page 0x01C bits.toNat (irqTest rg page bits.toNat))

end Sys2Proof.Machine
end

