-- ==== Sys2Proof/Machine/Memory.lean ====
section
/-! DEFINITION. Channel DRAM maintenance: correction, the leaky bucket, retraining, refresh and the scrubber (R363 to R380). -/

namespace Sys2Proof.Machine
open Sys2Proof

/-- The words software and the scrubber reach (R366, R375). -/
def wordLimit : Nat := 0x38000000

/-- One corrected word: the bucket, its threshold interrupt, the count and the address (R368, R369). CE_THR is set when an
increment brings LEVEL to THR; a LEVEL already at or above THR does not set it again. -/
def State.correctWord (s : State) (c : Fin 16) (word : Nat) : State :=
  let lv := s.cr c F.ECC_BUCKET_LEVEL
  let lv' := min (lv + 1) 255
  let thr := s.cr c F.ECC_BUCKET_THR
  let s1 := ((s.cw c F.ECC_BUCKET_LEVEL lv').incSat (chRg c) F.ECC_CE_COUNT).cw c F.ECC_LAST_CE word
  if lv < thr ∧ lv' = thr then s1.cirq c 0x49 0 else s1

/-- ECC_CORRECTED: a read met a correctable error. The data delivered is corrected; the write-back (while `ECC.CTL.WB_EN`
is 1 and the word has not been written since) leaves the word's value as it is (R368), so `rewritten` changes no state. -/
def execEccCorrected (c : Fin 16) (word : Nat) (_rewritten : Bool) (s : State) : HRes :=
  if word < wordLimit then .next (s.correctWord c word) else .fault .dramAddress

/-- BUCKET_LEAK: every `ECC.LEAK.MS`, never below 0 (R369). -/
def execBucketLeak (c : Fin 16) (s : State) : HRes :=
  .next (s.cw c F.ECC_BUCKET_LEVEL (s.cr c F.ECC_BUCKET_LEVEL - 1))

/-- OSCILLATOR_CHECK: a drift of more than 4 PHY taps since the last training makes the controller retrain, which stalls
traffic for at most 2 µs and changes no register (R364); the check itself changes nothing. -/
def execOscillatorCheck (_c : Fin 16) (_drift : Nat) (s : State) : HRes := .next s

/-- DRAM_RETRAIN: `DRC.RETRAIN.GO` retrains at the next refresh window (R364, R378): delays of the PHY, which no register
shows. Data and registers keep their values. -/
def execDramRetrain (src : Src) (c : Fin 16) (s : State) : HRes :=
  .next (s.gated src (chRg c) 0x48 0x104 (1 + 2 ^ 8 * s.cr c F.DRC_RETRAIN_PERIOD) id)

/-- MR4_READ: the refresh rate field read every 32 ms; when the device reports a rate above the 4× setting HOT is set (R364). -/
def execMr4Read (c : Fin 16) (rate : Nat) (above4x : Bool) (s : State) : HRes :=
  .next (let s1 := s.cw c F.DRC_STS_MR4_RATE rate
    if above4x then s1.cirq c 0x48 1 else s1)

/-- ZQ_CALIBRATION: background mode every 256 ms (Table 12-1); no register shows it and no data changes. -/
def execZqCalibration (_c : Fin 16) (s : State) : HRes := .next s

/-! The scrubber. -/

/-- SCRUB_GO: a pass begins, or is refused (R375). -/
def scrubGo (c : Fin 16) (s : State) : State :=
  let start := s.cr c F.SCB_START
  let fin := s.cr c F.SCB_END
  if start ≥ fin ∨ fin > wordLimit ∨ s.cb c F.SCB_STS_BUSY then
    (s.cw c F.SCB_STS_REFUSED 1).errOpen (chRg c) 0x4A 0x108 2
  else (s.modCh c fun x => { x with scrubStop := false }).wrs (chRg c) [(F.SCB_STS_BUSY, 1), (F.SCB_STS_DONE, 0), (F.SCB_STS_STOPPED, 0), (F.SCB_STS_REFUSED, 0),
    (F.SCB_WORDS_READ, 0), (F.SCB_CORRECTED, 0), (F.SCB_UNCORR, 0), (F.SCB_FIRST_UE, 0), (F.SCB_LAST_UE, 0),
    (F.SCB_POSITION, start)]

def execScrubGo (src : Src) (c : Fin 16) (s : State) : HRes :=
  .next (s.gated src (chRg c) 0x4A 0x108 (1 + 2 ^ 8 * s.cr c F.SCB_CTL_RATE) (scrubGo c))

/-- What a pass found from POSITION up to (not including) `upto`: the words it corrected, named by the event, and the words
that are poisoned, in the summary registers (R376). -/
def scrubAdvance (c : Fin 16) (corrected : List Nat) (upto : Nat) (s : State) : State :=
  let from_ := s.cr c F.SCB_POSITION
  let inside := fun w => from_ ≤ w && w < upto
  let fixed := corrected.filter fun w => inside w && !s.poisoned c w
  let bad := (s.poison.filter fun e => e.1 / 2 ^ 30 == c.val && inside (e.1 % 2 ^ 30)).map (·.1 % 2 ^ 30)
  let s1 := fixed.foldl (fun s w => s.correctWord c w) s
  let s2 := (s1.cw c F.SCB_WORDS_READ (s1.cr c F.SCB_WORDS_READ + (upto - from_))).cw c F.SCB_CORRECTED
    (s1.cr c F.SCB_CORRECTED + fixed.length)
  let s3 := match bad.head? with
    | none => s2
    | some w => if s2.cr c F.SCB_UNCORR = 0 then s2.cw c F.SCB_FIRST_UE w else s2
  let s4 := match bad.getLast? with
    | none => s3
    | some w => s3.cw c F.SCB_LAST_UE w
  (s4.cw c F.SCB_UNCORR (s4.cr c F.SCB_UNCORR + bad.length)).cw c F.SCB_POSITION upto

/-- A pass ends: DONE and its interrupt; the summary is held until the next GO (R376). -/
def scrubEnd (c : Fin 16) (stopped : Bool) (s : State) : State :=
  (s.wrs (chRg c) [(F.SCB_STS_BUSY, 0), (F.SCB_STS_DONE, 1), (F.SCB_STS_STOPPED, b2n stopped)]).cirq c 0x4A 0

/-- STOP is written: the pass that runs, if any, ends at the next word (R376); SCRUB_PASS_END says which that is. -/
def scrubStop (c : Fin 16) (s : State) : State :=
  if s.cb c F.SCB_STS_BUSY then s.modCh c fun x => { x with scrubStop := true } else s

/-- SCRUB_STOP. -/
def execScrubStop (src : Src) (c : Fin 16) (s : State) : HRes :=
  .next (s.gated src (chRg c) 0x4A 0x108 (2 + 2 ^ 8 * s.cr c F.SCB_CTL_RATE) (scrubStop c))

/-- SCRUB_PASS_END: the pass has read to END, or, after STOP, up to `stoppedAt`, having corrected the words named. -/
def execScrubPassEnd (c : Fin 16) (corrected : List Nat) (stoppedAt : Nat) (s : State) : HRes :=
  .next (s.whileRunning (chRg c) 0x4A fun s => if s.cb c F.SCB_STS_BUSY then
    let end_ := s.cr c F.SCB_END
    let upto := if (s.ch c).scrubStop then max (s.cr c F.SCB_POSITION) (min stoppedAt end_) else max (s.cr c F.SCB_POSITION) end_
    scrubEnd c (upto < s.cr c F.SCB_END) (scrubAdvance c corrected upto s)
  else s)

end Sys2Proof.Machine
end

