-- ==== Sys2Proof/Machine/Crypto.lean ====
section
/-! DEFINITION. The published algorithms the K3216 uses: CRC-32C, SHA-384 (FIPS 180-4), ECDSA P-384 (FIPS 186), AES-256
(FIPS 197), AES Key Wrap (RFC 3394) and AES-256-XTS (IEEE 1619). The spec names these standards; their tables here are
computed from the standards' definitions (PRESUMED, log 16). -/

namespace Sys2Proof.Machine
open Sys2Proof

/-! CRC-32C (Castagnoli), reflected, initial value and final inversion of all ones. -/

/-- One byte of CRC-32C. -/
def crc32cByte (crc : Nat) (b : Byte) : Nat :=
  (List.range 8).foldl (fun r _ => if r % 2 = 1 then r / 2 ^^^ 0x82F63B78 else r / 2) (crc ^^^ b.toNat)

/-- CRC-32C of bytes. -/
def crc32c (bs : List Byte) : Nat := bs.foldl crc32cByte 0xFFFFFFFF ^^^ 0xFFFFFFFF

/-! SHA-384. -/

/-- The round constants of SHA-384 (FIPS 180-4): fractional parts of the cube roots of the first 80 primes. -/
def shaK0 : List Nat :=
  [0x428A2F98D728AE22, 0x7137449123EF65CD, 0xB5C0FBCFEC4D3B2F, 0xE9B5DBA58189DBBC,
   0x3956C25BF348B538, 0x59F111F1B605D019, 0x923F82A4AF194F9B, 0xAB1C5ED5DA6D8118,
   0xD807AA98A3030242, 0x12835B0145706FBE, 0x243185BE4EE4B28C, 0x550C7DC3D5FFB4E2,
   0x72BE5D74F27B896F, 0x80DEB1FE3B1696B1, 0x9BDC06A725C71235, 0xC19BF174CF692694,
   0xE49B69C19EF14AD2, 0xEFBE4786384F25E3, 0xFC19DC68B8CD5B5, 0x240CA1CC77AC9C65,
   0x2DE92C6F592B0275, 0x4A7484AA6EA6E483, 0x5CB0A9DCBD41FBD4, 0x76F988DA831153B5,
   0x983E5152EE66DFAB, 0xA831C66D2DB43210, 0xB00327C898FB213F, 0xBF597FC7BEEF0EE4,
   0xC6E00BF33DA88FC2, 0xD5A79147930AA725, 0x6CA6351E003826F, 0x142929670A0E6E70,
   0x27B70A8546D22FFC, 0x2E1B21385C26C926, 0x4D2C6DFC5AC42AED, 0x53380D139D95B3DF,
   0x650A73548BAF63DE, 0x766A0ABB3C77B2A8, 0x81C2C92E47EDAEE6, 0x92722C851482353B]

/-- The round constants of SHA-384 (FIPS 180-4): fractional parts of the cube roots of the first 80 primes. -/
def shaK1 : List Nat :=
  [0xA2BFE8A14CF10364, 0xA81A664BBC423001, 0xC24B8B70D0F89791, 0xC76C51A30654BE30,
   0xD192E819D6EF5218, 0xD69906245565A910, 0xF40E35855771202A, 0x106AA07032BBD1B8,
   0x19A4C116B8D2D0C8, 0x1E376C085141AB53, 0x2748774CDF8EEB99, 0x34B0BCB5E19B48A8,
   0x391C0CB3C5C95A63, 0x4ED8AA4AE3418ACB, 0x5B9CCA4F7763E373, 0x682E6FF3D6B2B8A3,
   0x748F82EE5DEFB2FC, 0x78A5636F43172F60, 0x84C87814A1F0AB72, 0x8CC702081A6439EC,
   0x90BEFFFA23631E28, 0xA4506CEBDE82BDE9, 0xBEF9A3F7B2C67915, 0xC67178F2E372532B,
   0xCA273ECEEA26619C, 0xD186B8C721C0C207, 0xEADA7DD6CDE0EB1E, 0xF57D4F7FEE6ED178,
   0x6F067AA72176FBA, 0xA637DC5A2C898A6, 0x113F9804BEF90DAE, 0x1B710B35131C471B,
   0x28DB77F523047D84, 0x32CAAB7B40C72493, 0x3C9EBE0A15C9BEBC, 0x431D67C49C100D4C,
   0x4CC5D4BECB3E42B6, 0x597F299CFC657E2A, 0x5FCB6FAB3AD6FAEC, 0x6C44198C4A475817]

/-- The round constants of SHA-384 (FIPS 180-4): fractional parts of the cube roots of the first 80 primes. -/
def shaK : List Nat := shaK0 ++ shaK1

/-- The initial hash of SHA-384 (FIPS 180-4). -/
def shaH0 : List Nat :=
  [0xCBBB9D5DC1059ED8, 0x629A292A367CD507, 0x9159015A3070DD17, 0x152FECD8F70E5939,
   0x67332667FFC00B31, 0x8EB44A8768581511, 0xDB0C2E0D64F98FA7, 0x47B5481DBEFA4FA4]

/-- Rotate a 64-bit word right. -/
def rotr64 (x n : Nat) : Nat := (x / 2 ^ n + x * 2 ^ (64 - n)) % 2 ^ 64

/-- The padded message of SHA-384 in 64-bit words. -/
def shaPad (m : List Byte) : List Nat :=
  let l := m.length
  let k := (240 - (l + 1) % 128) % 128
  let p := m ++ [0x80] ++ zeros k ++ beBytes 16 (8 * l)
  (List.range (p.length / 8)).map fun i => beNat ((p.drop (8 * i)).take 8)

/-- The 80 words of the message schedule, from the block's 16: the last words are kept newest first. -/
def shaSchedule (blk : List Nat) : List Nat :=
  ((List.range 64).foldl (fun (w : List Nat) _ =>
    let g := fun i => w.getD (i - 1) 0
    let s0 := rotr64 (g 15) 1 ^^^ rotr64 (g 15) 8 ^^^ g 15 / 2 ^ 7
    let s1 := rotr64 (g 2) 19 ^^^ rotr64 (g 2) 61 ^^^ g 2 / 2 ^ 6
    ((g 16 + s0 + g 7 + s1) % 2 ^ 64) :: w) blk.reverse).reverse

/-- One round of SHA-384 on the working variables a to h. -/
def shaRound (v : List Nat) (kw : Nat) : List Nat :=
  match v with
  | [a, b, c, d, e, f, g, h] =>
    let s1 := rotr64 e 14 ^^^ rotr64 e 18 ^^^ rotr64 e 41
    let ch := (e &&& f) ^^^ ((2 ^ 64 - 1 - e) &&& g)
    let t1 := h + s1 + ch + kw
    let s0 := rotr64 a 28 ^^^ rotr64 a 34 ^^^ rotr64 a 39
    let mj := (a &&& b) ^^^ (a &&& c) ^^^ (b &&& c)
    [(t1 + s0 + mj) % 2 ^ 64, a, b, c, (d + t1) % 2 ^ 64, e, f, g]
  | _ => v

/-- One block of SHA-384. -/
def shaBlock (h blk : List Nat) : List Nat :=
  let kw := (shaK.zip (shaSchedule blk)).map fun p => p.1 + p.2
  (h.zip (kw.foldl shaRound h)).map fun p => (p.1 + p.2) % 2 ^ 64

/-- Fold the blocks of a padded message; the first argument bounds their number. -/
def shaBlocks : Nat → List Nat → List Nat → List Nat
  | 0, h, _ => h
  | n + 1, h, w => if w.isEmpty then h else shaBlocks n (shaBlock h (w.take 16)) (w.drop 16)

/-- SHA-384 of a message, 48 bytes. -/
def sha384 (m : List Byte) : List Byte :=
  let w := shaPad m
  ((shaBlocks (w.length / 16) shaH0 w).take 6).flatMap (beBytes 8)

/-! ECDSA over P-384. -/

def p384p : Nat := 0xfffffffffffffffffffffffffffffffffffffffffffffffffffffffffffffffeffffffff0000000000000000ffffffff
def p384b : Nat := 0xb3312fa7e23ee7e4988e056be3f82d19181d9c6efe8141120314088f5013875ac656398d8a2ed19d2a85c8edd3ec2aef
def p384n : Nat := 0xffffffffffffffffffffffffffffffffffffffffffffffffc7634d81f4372ddf581a0db248b0a77aecec196accc52973
def p384gx : Nat := 0xaa87ca22be8b05378eb1c71ef320ad746e1d3b628ba79b9859f741e082542a385502f25dbf55296c3a545e3872760ab7
def p384gy : Nat := 0x3617de4a96262c6f5d9e98bf9292dc29f8f41dbd289a147ce9da3113b5f0b8c00a60b1ce1d7e819d7a431d7c90ea0e5f

/-- `b ^ e` modulo `m`; the first argument bounds the number of bits of `e`. -/
def powMod (m : Nat) : Nat → Nat → Nat → Nat
  | 0, _, _ => 1 % m
  | n + 1, b, e =>
    if e = 0 then 1 % m
    else
      let r := powMod m n (b * b % m) (e / 2)
      if e % 2 = 1 then r * b % m else r

/-- The inverse modulo a prime. -/
def invMod (m x : Nat) : Nat := powMod m 400 (x % m) (m - 2)

/-- Addition of points of P-384; `none` is the point at infinity. -/
def ecAdd (a b : Option (Nat × Nat)) : Option (Nat × Nat) :=
  match a, b with
  | none, q => q
  | q, none => q
  | some (x1, y1), some (x2, y2) =>
    let m := p384p
    if x1 = x2 ∧ (y1 + y2) % m = 0 then none
    else
      let l := if x1 = x2 then (3 * x1 * x1 + (m - 3)) % m * invMod m (2 * y1) % m
        else (y2 + (m - y1)) % m * invMod m ((x2 + (m - x1)) % m) % m
      let x3 := (l * l + (m - x1) + (m - x2)) % m
      some (x3, (l * ((x1 + (m - x3)) % m) + (m - y1)) % m)

/-- `k` times a point; the first argument bounds the number of bits of `k`. -/
def ecMul : Nat → Nat → Option (Nat × Nat) → Option (Nat × Nat)
  | 0, _, _ => none
  | n + 1, k, p =>
    if k = 0 then none
    else
      let r := ecMul n (k / 2) (ecAdd p p)
      if k % 2 = 1 then ecAdd r p else r

/-- The point of an uncompressed public key of 97 bytes, if it lies on the curve. -/
def ecKey (key : List Byte) : Option (Nat × Nat) :=
  let x := beNat ((key.drop 1).take 48)
  let y := beNat ((key.drop 49).take 48)
  if key.length = 97 ∧ key.head? = some 4 ∧ x < p384p ∧ y < p384p
      ∧ (y * y) % p384p = (x * x % p384p * x + (p384p - 3) * x + p384b) % p384p then some (x, y)
  else none

/-- ECDSA P-384 verification of `r ‖ s` (48 bytes each, big-endian) over the SHA-384 of a message. -/
def ecdsaVerify (key sig msg : List Byte) : Bool :=
  match ecKey key with
  | none => false
  | some q =>
    let r := beNat (sig.take 48)
    let s := beNat ((sig.drop 48).take 48)
    let n := p384n
    sig.length == 96 && 0 < r && r < n && 0 < s && s < n &&
      (let w := invMod n s
       let u1 := beNat (sha384 msg) * w % n
       let u2 := r * w % n
       match ecAdd (ecMul 384 u1 (some (p384gx, p384gy))) (ecMul 384 u2 (some q)) with
       | none => false
       | some (x, _) => x % n == r)

/-! AES-256. A block is a list of 16 bytes as numbers, in the order of the standard. -/

/-- The AES S-box (FIPS 197). -/
def aesSbox0 : List Nat :=
  [0x63, 0x7C, 0x77, 0x7B, 0xF2, 0x6B, 0x6F, 0xC5, 0x30, 0x1, 0x67, 0x2B, 0xFE, 0xD7, 0xAB, 0x76,
   0xCA, 0x82, 0xC9, 0x7D, 0xFA, 0x59, 0x47, 0xF0, 0xAD, 0xD4, 0xA2, 0xAF, 0x9C, 0xA4, 0x72, 0xC0,
   0xB7, 0xFD, 0x93, 0x26, 0x36, 0x3F, 0xF7, 0xCC]

/-- The AES S-box (FIPS 197). -/
def aesSbox1 : List Nat :=
  [0x34, 0xA5, 0xE5, 0xF1, 0x71, 0xD8, 0x31, 0x15, 0x4, 0xC7, 0x23, 0xC3, 0x18, 0x96, 0x5, 0x9A,
   0x7, 0x12, 0x80, 0xE2, 0xEB, 0x27, 0xB2, 0x75, 0x9, 0x83, 0x2C, 0x1A, 0x1B, 0x6E, 0x5A, 0xA0,
   0x52, 0x3B, 0xD6, 0xB3, 0x29, 0xE3, 0x2F, 0x84]

/-- The AES S-box (FIPS 197). -/
def aesSbox2 : List Nat :=
  [0x53, 0xD1, 0x0, 0xED, 0x20, 0xFC, 0xB1, 0x5B, 0x6A, 0xCB, 0xBE, 0x39, 0x4A, 0x4C, 0x58, 0xCF,
   0xD0, 0xEF, 0xAA, 0xFB, 0x43, 0x4D, 0x33, 0x85, 0x45, 0xF9, 0x2, 0x7F, 0x50, 0x3C, 0x9F, 0xA8,
   0x51, 0xA3, 0x40, 0x8F, 0x92, 0x9D, 0x38, 0xF5]

/-- The AES S-box (FIPS 197). -/
def aesSbox3 : List Nat :=
  [0xBC, 0xB6, 0xDA, 0x21, 0x10, 0xFF, 0xF3, 0xD2, 0xCD, 0xC, 0x13, 0xEC, 0x5F, 0x97, 0x44, 0x17,
   0xC4, 0xA7, 0x7E, 0x3D, 0x64, 0x5D, 0x19, 0x73, 0x60, 0x81, 0x4F, 0xDC, 0x22, 0x2A, 0x90, 0x88,
   0x46, 0xEE, 0xB8, 0x14, 0xDE, 0x5E, 0xB, 0xDB]

/-- The AES S-box (FIPS 197). -/
def aesSbox4 : List Nat :=
  [0xE0, 0x32, 0x3A, 0xA, 0x49, 0x6, 0x24, 0x5C, 0xC2, 0xD3, 0xAC, 0x62, 0x91, 0x95, 0xE4, 0x79,
   0xE7, 0xC8, 0x37, 0x6D, 0x8D, 0xD5, 0x4E, 0xA9, 0x6C, 0x56, 0xF4, 0xEA, 0x65, 0x7A, 0xAE, 0x8,
   0xBA, 0x78, 0x25, 0x2E, 0x1C, 0xA6, 0xB4, 0xC6]

/-- The AES S-box (FIPS 197). -/
def aesSbox5 : List Nat :=
  [0xE8, 0xDD, 0x74, 0x1F, 0x4B, 0xBD, 0x8B, 0x8A, 0x70, 0x3E, 0xB5, 0x66, 0x48, 0x3, 0xF6, 0xE,
   0x61, 0x35, 0x57, 0xB9, 0x86, 0xC1, 0x1D, 0x9E, 0xE1, 0xF8, 0x98, 0x11, 0x69, 0xD9, 0x8E, 0x94,
   0x9B, 0x1E, 0x87, 0xE9, 0xCE, 0x55, 0x28, 0xDF]

/-- The AES S-box (FIPS 197). -/
def aesSbox6 : List Nat :=
  [0x8C, 0xA1, 0x89, 0xD, 0xBF, 0xE6, 0x42, 0x68, 0x41, 0x99, 0x2D, 0xF, 0xB0, 0x54, 0xBB, 0x16]

/-- The AES S-box (FIPS 197). -/
def aesSbox : List Nat := aesSbox0 ++ aesSbox1 ++ aesSbox2 ++ aesSbox3 ++ aesSbox4 ++ aesSbox5 ++ aesSbox6

/-- Multiplication by x in GF(2^8). -/
def xtime (a : Nat) : Nat := if a < 128 then 2 * a else (2 * a) % 256 ^^^ 0x1B

/-- Multiplication in GF(2^8). -/
def gmul8 (a b : Nat) : Nat :=
  ((List.range 8).foldl (fun (acc : Nat × Nat) i => (if b / 2 ^ i % 2 = 1 then acc.1 ^^^ acc.2 else acc.1, xtime acc.2))
    (0, a)).1

def sbox (x : Nat) : Nat := aesSbox.getD x 0
def invSbox (x : Nat) : Nat := (aesSbox.findIdx? (· == x)).getD 0

/-- XOR of two lists of bytes. -/
def xorL (a b : List Nat) : List Nat := (a.zip b).map fun p => p.1 ^^^ p.2

/-- The 60 words of the AES-256 key schedule, newest first while it is built. -/
def aesSchedule (key : List Nat) : List (List Nat) :=
  let w0 := (List.range 8).map fun i => (key.drop (4 * i)).take 4
  (((List.range 52).foldl (fun (acc : List (List Nat) × Nat) j =>
    let i := j + 8
    let prev := acc.1.headD []
    let t := if i % 8 = 0 then
        (match prev with
         | [a, b, c, d] => [sbox b ^^^ acc.2, sbox c, sbox d, sbox a]
         | l => l)
      else if i % 8 = 4 then prev.map sbox
      else prev
    (xorL (acc.1.getD 7 []) t :: acc.1, if i % 8 = 0 then xtime acc.2 else acc.2)) (w0.reverse, 1)).1).reverse

/-- The 15 round keys. -/
def aesRoundKeys (key : List Nat) : List (List Nat) :=
  let w := aesSchedule key
  (List.range 15).map fun r => ((w.drop (4 * r)).take 4).flatten

/-- ShiftRows on the column-major state. -/
def shiftRows (b : List Nat) : List Nat :=
  (List.range 16).map fun i => b.getD ((i + 4 * (i % 4)) % 16) 0
def invShiftRows (b : List Nat) : List Nat :=
  (List.range 16).map fun i => b.getD ((i + 16 - 4 * (i % 4)) % 16) 0

/-- MixColumns with the row of coefficients of the first output byte. -/
def mixCols (m : List Nat) (b : List Nat) : List Nat :=
  (List.range 16).map fun i =>
    let col := (b.drop (i / 4 * 4)).take 4
    (List.range 4).foldl (fun a j => a ^^^ gmul8 (col.getD j 0) (m.getD ((j + 4 - i % 4) % 4) 0)) 0

/-- AES-256 encryption of one block. -/
def aesEnc (key blk : List Nat) : List Nat :=
  let rk := aesRoundKeys key
  let s0 := xorL blk (rk.headD [])
  let s13 := (List.range 13).foldl (fun s r =>
    xorL (mixCols [2, 3, 1, 1] (shiftRows (s.map sbox))) (rk.getD (r + 1) [])) s0
  xorL (shiftRows (s13.map sbox)) (rk.getD 14 [])

/-- AES-256 decryption of one block. -/
def aesDec (key blk : List Nat) : List Nat :=
  let rk := aesRoundKeys key
  let s0 := xorL blk (rk.getD 14 [])
  let s13 := (List.range 13).foldl (fun s r =>
    mixCols [14, 11, 13, 9] (xorL ((invShiftRows s).map invSbox) (rk.getD (13 - r) []))) s0
  xorL ((invShiftRows s13).map invSbox) (rk.headD [])

/-! AES Key Wrap, RFC 3394, default initial value. -/

/-- Wrap: `n` 64-bit halves. -/
def keyWrap (kek plain : List Nat) : List Nat :=
  let n := plain.length / 8
  let r0 := (List.range n).map fun i => (plain.drop (8 * i)).take 8
  let res := (List.range (6 * n)).foldl (fun (acc : List Nat × List (List Nat)) t =>
    let i := t % n
    let b := aesEnc kek (acc.1 ++ acc.2.getD i [])
    let cnt := (beBytes 8 (t + 1)).map (·.toNat)
    (xorL (b.take 8) cnt, acc.2.set i (b.drop 8))) (List.replicate 8 0xA6, r0)
  res.1 ++ res.2.flatten

/-- Unwrap; `none` when the integrity check fails. -/
def keyUnwrap (kek wrapped : List Nat) : Option (List Nat) :=
  let n := wrapped.length / 8 - 1
  let r0 := (List.range n).map fun i => (wrapped.drop (8 * (i + 1))).take 8
  let res := (List.range (6 * n)).foldl (fun (acc : List Nat × List (List Nat)) u =>
    let t := 6 * n - u
    let i := (t - 1) % n
    let cnt := (beBytes 8 t).map (·.toNat)
    let b := aesDec kek (xorL acc.1 cnt ++ acc.2.getD i [])
    (b.take 8, acc.2.set i (b.drop 8))) (wrapped.take 8, r0)
  if res.1 = List.replicate 8 0xA6 then some res.2.flatten else none

/-! AES-256-XTS, IEEE 1619, on whole blocks of 16 bytes. -/

/-- Multiply a tweak by α. -/
def xtsNext (t : List Nat) : List Nat :=
  let v := t.foldr (fun b a => b + 256 * a) 0
  let v' := if v < 2 ^ 127 then 2 * v else (2 * v) % 2 ^ 128 ^^^ 0x87
  (leBytes 16 v').map (·.toNat)

/-- Run a block function over the 16-byte blocks of a message; the first argument bounds their number. -/
def xtsRun (f : List Nat → List Nat) : Nat → List Nat → List Nat → List Nat
  | 0, _, _ => []
  | n + 1, t, m => if m.isEmpty then [] else xorL (f (xorL (m.take 16) t)) t ++ xtsRun f n (xtsNext t) (m.drop 16)

/-- The tweak after `n` multiplications. -/
def xtsTweak (t : List Nat) : Nat → List Nat
  | 0 => t
  | n + 1 => xtsNext (xtsTweak t n)

/-- One block under a tweak. -/
def xtsBlock (f : List Nat → List Nat) (t b : List Nat) : List Nat := xorL (f (xorL b t)) t

/-- XTS encryption of a data unit of at least 16 bytes under a data key and a tweak key, for a 16-byte tweak value, with
ciphertext stealing where the length is not a multiple of 16. -/
def xtsEnc (k1 k2 tweak m : List Nat) : List Nat :=
  let f := aesEnc k1
  let t := aesEnc k2 tweak
  let n := m.length / 16
  let r := m.length % 16
  if r = 0 then xtsRun f n t m
  else
    let head := xtsRun f (n - 1) t (m.take (16 * (n - 1)))
    let cc := xtsBlock f (xtsTweak t (n - 1)) ((m.drop (16 * (n - 1))).take 16)
    let last := xtsBlock f (xtsTweak t n) (m.drop (16 * n) ++ cc.drop r)
    head ++ last ++ cc.take r

/-- XTS decryption, with ciphertext stealing. -/
def xtsDec (k1 k2 tweak m : List Nat) : List Nat :=
  let f := aesDec k1
  let t := aesEnc k2 tweak
  let n := m.length / 16
  let r := m.length % 16
  if r = 0 then xtsRun f n t m
  else
    let head := xtsRun f (n - 1) t (m.take (16 * (n - 1)))
    let pp := xtsBlock f (xtsTweak t n) ((m.drop (16 * (n - 1))).take 16)
    let last := xtsBlock f (xtsTweak t (n - 1)) (m.drop (16 * n) ++ pp.drop r)
    head ++ last ++ pp.take r

end Sys2Proof.Machine
end

