-- ==== Sys2Proof/Machine/Queues.lean ====
section
/-! DEFINITION. Queues, fetching, completion posting, Abort and Asynchronous Event Request (R322 to R326, R349 to R357). -/

namespace Sys2Proof.Machine
open Sys2Proof

/-- The outcome of a command that always goes on. -/
abbrev Res := Host.Outcome State Fault Refusal

/-- NVMe registers: CC at 0x14, AQA at 0x24, ASQ at 0x28, ACQ at 0x30 (NVMe 2.0 offsets). -/
def State.cc (s : State) : Nat := SMap.get s.front.nvme 0x14 0

/-- Put a register of the NVMe block. -/
def State.putNvme (s : State) (off v : Nat) : State :=
  s.modFront fun f => { f with nvme := SMap.put f.nvme off 0 v }

/-- The submission queue being deleted by a Delete command still executing, if any. -/
def State.deleting (s : State) (q : Nat) : Bool :=
  s.front.slots.any fun e => e.2.isAdmin && e.2.opcode == 0x00 && e.2.phase == .executing && bitsAt (e.2.dw 10) 0 16 == q

/-- CREATE_IO_COMPLETION_QUEUE (R323): QID and QSIZE in Dword 10, PC, IEN and vector in Dword 11. -/
def createCq (s : State) (k : Nat) (c : CmdSlot) : State :=
  let qid := bitsAt (c.dw 10) 0 16
  let qsize := bitsAt (c.dw 10) 16 16
  let iv := bitsAt (c.dw 11) 16 16
  if qid = 0 ∨ qid > 64 ∨ (SMap.find? s.front.cqs qid).isSome then s.finish k stInvalidQid
  else if qsize = 0 ∨ qsize > 4095 then s.finish k stInvalidQSize
  else if !bitAt (c.dw 11) 0 ∨ iv > 63 then s.finish k stInvalidField
  else
    let q : CplQueue := ⟨c.dw 6 / 4 * 4 + 2 ^ 32 * c.dw 7, qsize + 1, 0, 0, true, iv, bitAt (c.dw 11) 1⟩
    (s.modFront fun f => { f with cqs := SMap.insert f.cqs qid q }).finish k stSuccess

def execCreateIoCq (k : Nat) (s : State) : Res :=
  match s.cmd? k true 0x05 with
  | some c => .next (createCq s k c)
  | none => .next s

/-- CREATE_IO_SUBMISSION_QUEUE (R323): QPRIO is ignored. -/
def createSq (s : State) (k : Nat) (c : CmdSlot) : State :=
  let qid := bitsAt (c.dw 10) 0 16
  let qsize := bitsAt (c.dw 10) 16 16
  let cqid := bitsAt (c.dw 11) 16 16
  if qid = 0 ∨ qid > 64 ∨ (SMap.find? s.front.sqs qid).isSome then s.finish k stInvalidQid
  else if qsize = 0 ∨ qsize > 4095 then s.finish k stInvalidQSize
  else if !bitAt (c.dw 11) 0 then s.finish k stInvalidField
  else if cqid = 0 ∨ (SMap.find? s.front.cqs cqid).isNone then s.finish k stCqInvalid
  else
    let q : SubQueue := ⟨c.dw 6 / 4 * 4 + 2 ^ 32 * c.dw 7, qsize + 1, cqid, 0, 0⟩
    (s.modFront fun f => { f with sqs := SMap.insert f.sqs qid q }).finish k stSuccess

def execCreateIoSq (k : Nat) (s : State) : Res :=
  match s.cmd? k true 0x01 with
  | some c => .next (createSq s k c)
  | none => .next s

/-- DELETE_IO_COMPLETION_QUEUE (R326): refused while a submission queue uses it. -/
def deleteCq (s : State) (k : Nat) (c : CmdSlot) : State :=
  let qid := bitsAt (c.dw 10) 0 16
  if qid = 0 ∨ (SMap.find? s.front.cqs qid).isNone then s.finish k stInvalidQid
  else if s.front.sqs.any (fun e => e.2.cqid == qid) then s.finish k stInvalidQueueDeletion
  else (s.modFront fun f => { f with cqs := SMap.erase f.cqs qid }).finish k stSuccess

def execDeleteIoCq (k : Nat) (s : State) : Res :=
  match s.cmd? k true 0x04 with
  | some c => .next (deleteCq s k c)
  | none => .next s

/-- A Delete I/O Submission Queue completes, and its queue goes, once every command of the queue has settled: its completion is posted
(R326). -/
def State.settleDelete (s : State) (k : Nat) : State :=
  match s.slot? k with
  | some c =>
    let q := bitsAt (c.dw 10) 0 16
    if c.isAdmin && c.opcode == 0x00 && c.phase == .executing
        && !s.front.slots.any (fun e => e.2.sqid == q && e.2.phase != .posted) then
      (s.modFront fun f => { f with sqs := SMap.erase f.sqs q }).finish k stSuccess
    else s
  | none => s

/-- The Delete I/O Submission Queue that waits for the commands of queue `q`, if any, completes if it can. -/
def State.settleDeletes (s : State) (q : Nat) : State :=
  match s.front.slots.find? fun e => e.2.isAdmin && e.2.opcode == 0x00 && e.2.phase == .executing && bitsAt (e.2.dw 10) 0 16 == q with
  | some e => s.settleDelete e.1
  | none => s

/-- Send a cancel request for a routed command (R350); one already outstanding stands. -/
def State.requestCancel (s : State) (k : Nat) (why : CancelCause) : State :=
  match s.slot? k with
  | some c => if c.cancel.isSome then s else s.putSlot k { c with cancel := some why }
  | none => s

/-- The command in slot `k` waits for commits on no channel (R332, R335). -/
def State.dropWaits (s : State) (k : Nat) : State :=
  allChans.foldl (fun (s : State) (c : Fin 16) => s.modCh c fun x =>
    { x with wr := { x.wr with waits := x.wr.waits.filter fun w => w.slot != k } }) s

/-- DELETE_IO_SUBMISSION_QUEUE (R326): its commands are treated as aborted; those still in the front end end at once. -/
def deleteSq (s : State) (k : Nat) (c : CmdSlot) : State :=
  let qid := bitsAt (c.dw 10) 0 16
  if qid = 0 ∨ (SMap.find? s.front.sqs qid).isNone then s.finish k stInvalidQid
  else
    let mine := s.front.slots.filter fun e => e.2.sqid == qid && e.2.live
    let s1 := mine.foldl (fun s e =>
      if e.2.chan.isNone then (s.dropWaits e.1).finish e.1 stSqDeletion else s.requestCancel e.1 (.deleteQueue k)) (s.executing k)
    s1.settleDelete k

def execDeleteIoSq (k : Nat) (s : State) : Res :=
  match s.cmd? k true 0x00 with
  | some c => .next (deleteSq s k c)
  | none => .next s

/-- Aborts outstanding (`QMG.ABORTS`). -/
def State.abortsOutstanding (s : State) : Nat :=
  (s.front.slots.filter fun e => e.2.isAdmin && e.2.opcode == 0x08 && e.2.phase == .executing).length

/-- ABORT (R349, R350): a target in the front end ends there; one at a channel is the subject of a cancel request. -/
def abortCmd (s : State) (k : Nat) (c : CmdSlot) : State :=
  let sqid := bitsAt (c.dw 10) 0 16
  let cid := bitsAt (c.dw 10) 16 16
  if s.abortsOutstanding ≥ 16 then s.finish k stAbortLimit
  else
    match s.front.slots.find? (fun e => e.2.sqid == sqid && e.2.cid == cid && e.1 != k) with
    | none => s.finish k stSuccess 1
    | some (t, tc) =>
      if tc.isAdmin && (tc.opcode == 0x08 || tc.opcode == 0x0C) then s.finish k stSuccess 1
      else if !tc.live then s.finish k stSuccess 1
      else if tc.chan.isSome then
        if tc.cancel.isSome then s.finish k stSuccess 1
        else (s.executing k).requestCancel t (.abort k)
      else if tc.phase == .fetched || !tc.isAdmin then ((s.dropWaits t).finish t stAbortRequested).finish k stSuccess 0
      else s.finish k stSuccess 1

def execAbort (k : Nat) (s : State) : Res :=
  match s.cmd? k true 0x08 with
  | some c => .next (abortCmd s k c)
  | none => .next s

/-- ASYNCHRONOUS_EVENT_REQUEST (R357): at most AERL + 1 = 8 are outstanding. -/
def aerCmd (s : State) (k : Nat) : State :=
  if s.front.aers.length ≥ 8 then s.finish k stAerLimit
  else ((s.executing k).modFront fun f => { f with aers := f.aers ++ [k] }).pumpEvents 8

def execAsyncEventRequest (k : Nat) (s : State) : Res :=
  match s.cmd? k true 0x0C with
  | some _ => .next (aerCmd s k)
  | none => .next s

/-- A submission queue, the admin queue included: its head and tail live with the others under identifier 0. -/
def State.sq? (s : State) (q : Nat) : Option SubQueue := SMap.find? s.front.sqs q

/-- A doorbell with an identifier or value outside its queue is an Invalid Doorbell error: an Error event, and the
write has no other effect (NVMe 2.0 keeps the meaning; log page 0x01; PRESUMED, log 8). -/
def State.badDoorbell (s : State) (info : Nat) : State := s.event 0 info 0x01

/-- SUBMISSION_QUEUE_DOORBELL: the host's new tail (R324). -/
def sqDoorbell (qid tail : Nat) (s : State) : State :=
  if !s.front.rdy then s
  else match s.sq? qid with
    | none => s.badDoorbell 0
    | some q =>
      if tail ≥ q.size then s.badDoorbell 1
      else s.modFront fun f => { f with sqs := SMap.insert f.sqs qid { q with tail := tail } }

def execSqDoorbell (qid tail : Nat) (s : State) : Res := .next (sqDoorbell qid tail s)

/-- COMPLETION_QUEUE_DOORBELL: the host's new head; entries waiting for room can then be posted (R448). -/
def cqDoorbell (qid head : Nat) (s : State) : State :=
  if !s.front.rdy then s
  else match SMap.find? s.front.cqs qid with
    | none => s.badDoorbell 0
    | some q =>
      if head ≥ q.size then s.badDoorbell 1
      else s.modFront fun f => { f with cqs := SMap.insert f.cqs qid { q with head := head } }

def execCqDoorbell (qid head : Nat) (s : State) : Res := .next (cqDoorbell qid head s)

/-! Fetching (R324, R325, R327, R329). -/

/-- Entries of a queue the device has been told of and not fetched. -/
def SubQueue.waiting (q : SubQueue) : Nat := (q.tail + q.size - q.head) % q.size

/-- The Arbitration Burst in force: 2^AB entries, or no limit at 0b111 (feature 0x01). -/
def State.arbBurst (s : State) : Nat :=
  let ab := s.feat 0x01 % 8
  if ab = 7 then 4096 else 2 ^ ab

/-- Whether the round robin now serves queue `q`: it is the queue of the present turn with burst left, or the next
queue in cyclic order that has entries once the present one has none or its burst is used up. -/
def State.arbGrants (s : State) (q : Nat) : Bool :=
  let busy := fun i => match s.sq? i with
    | some x => x.waiting != 0 && !s.deleting i
    | none => false
  if busy s.front.arb && s.front.burst < s.arbBurst then q == s.front.arb
  else
    ((List.range 65).map (fun i => (s.front.arb + 1 + i) % 65)).find? busy == some q

/-- The bytes a command transfers, by opcode (Tables 11-7 to 11-10, NVMe 2.0 for the standard commands). -/
def xferLen (admin : Bool) (op : Nat) (c : CmdSlot) : Nat :=
  if admin then
    match op with
    | 0x02 => 4 * (bitsAt (c.dw 10) 16 16 + 2 ^ 16 * bitsAt (c.dw 11) 0 16 + 1)
    | 0x06 => 4096
    | 0x09 => if bitsAt (c.dw 10) 0 8 = 0x0E then 8 else 0
    | 0x0A => if bitsAt (c.dw 10) 0 8 = 0x0E then 8 else 0
    | 0x11 => 4 * (c.dw 10 + 1)
    | 0xC5 => if bitsAt (c.dw 10) 0 3 = 0 ∨ bitsAt (c.dw 10) 0 3 = 4 then 2097152 else 0
    | 0xC6 => if bitsAt (c.dw 10) 0 4 = 1 then 64 else if bitsAt (c.dw 10) 0 4 = 4 then 4096 else 0
    | _ => 0
  else
    match op with
    | 0x01 => 4096 * (bitsAt (c.dw 12) 0 16 + 1)
    | 0x02 => 4096 * (bitsAt (c.dw 12) 0 16 + 1)
    | 0x81 => bitsAt (c.dw 15) 0 23
    | 0x84 => 32 * (bitsAt (c.dw 12) 0 10 + 1)
    | _ => 0

/-- The opcodes of Table 11-5. -/
def knownOpcode (admin : Bool) (op : Nat) : Bool :=
  if admin then [0x00, 0x01, 0x02, 0x04, 0x05, 0x06, 0x08, 0x09, 0x0A, 0x0C, 0x10, 0x11,
    0xC0, 0xC1, 0xC2, 0xC4, 0xC5, 0xC6].contains op
  else [0x00, 0x01, 0x02, 0x0C, 0x81, 0x82, 0x84].contains op

/-- What the front end makes of a decoded command: it ends with a status, stays in the front end, or goes to a channel. -/
inductive Route where
  | fail (st : Status)
  | front
  | channel (c : Fin 16)
  deriving DecidableEq, Repr

/-- The gate of R18 for a command that needs an active namespace; one being unmounted counts as inactive (R340). -/
def State.gate (s : State) (c : Fin 16) : Route :=
  if (s.ch c).fence != 0 || (s.ch c).isolating then .fail stQuarantined
  else if !(s.ch c).active || (s.ch c).st == .unmounting || (s.ch c).procs.any (fun p => p.kind.unmounts) then .fail stNotMounted
  else .channel c

/-- The gate of a command that reaches a channel without an active namespace: only a closed fence stops it. -/
def State.gateOpen (s : State) (c : Fin 16) : Route :=
  if (s.ch c).fence != 0 || (s.ch c).isolating then .fail stQuarantined else .channel c

/-- A field value no operation of the command has, or a reserved dword that is not 0 (R339 to R344, R418; R342 and R344
name the operations there are). -/
def badField (c : CmdSlot) : Bool :=
  let z := fun (l : List Nat) => l.any fun i => c.dw i != 0
  if !c.isAdmin then false
  else match c.opcode with
    | 0x10 => bitsAt (c.dw 10) 3 3 ≥ 4
    | 0xC0 => z [13, 14, 15]
    | 0xC1 => z [11, 12, 13, 14, 15]
    | 0xC2 => z [12, 13, 14, 15] || c.dw 11 != 0x5345414C
    | 0xC4 => z [11, 12, 13, 14, 15] || bitsAt (c.dw 10) 8 3 == 0 || bitsAt (c.dw 10) 8 3 > 4
    | 0xC5 => z [14, 15] || bitsAt (c.dw 10) 0 3 > 4
    | 0xC6 => z [15] || bitsAt (c.dw 10) 0 4 == 0 || bitsAt (c.dw 10) 0 4 > 4
    | _ => false

/-- Decode and route an entry (R18, R327, R329, R339 to R348). -/
def State.route (s : State) (c : CmdSlot) : Route :=
  let op := c.opcode
  if !knownOpcode c.isAdmin op then .fail stInvalidOpcode
  -- the commands of the front end that take an NSID (R327)
  else if c.isAdmin && [0x02, 0x09, 0x0A, 0xC4, 0xC6].contains op && 17 ≤ c.nsid && c.nsid ≤ 0xFFFFFFFE then .fail stInvalidNs
  else if badField c then .fail stInvalidField
  else
    let ns := c.nsid
    let one := if 1 ≤ ns ∧ ns ≤ 16 then chan? (ns - 1) else none
    if c.isAdmin then
      if op = 0xC0 ∨ op = 0xC1 ∨ op = 0xC2 ∨ op = 0xC5 then
        match one with
        | none => .fail stInvalidNs
        | some ch => if op = 0xC0 ∨ op = 0xC5 then s.gateOpen ch else s.gate ch
      else if op = 0xC4 then
        if ns ≠ 0 then .fail stInvalidField else .front
      else if op = 0xC6 ∧ bitsAt (c.dw 10) 0 4 = 3 then
        match one with
        | none => .fail stInvalidNs
        | some ch => s.gate ch
      else .front
    else if op = 0x00 ∧ ns = 0xFFFFFFFF then .front
    else match one with
      | none => .fail stInvalidNs
      | some ch => if op = 0x81 then s.gateOpen ch else s.gate ch

/-- The pieces of an entry's data pointer, or `none` for an SGL type that is not accepted (R325). `lists` holds the PRP list
entries or SGL descriptor words as they stand in host memory. -/
def State.dataPieces (s : State) (c : CmdSlot) (lists : List Nat) : Option (List (Nat × Nat)) :=
  let len := xferLen c.isAdmin c.opcode c
  let d0 := c.dw 6 + 2 ^ 32 * c.dw 7
  let d1 := c.dw 8 + 2 ^ 32 * c.dw 9
  if !c.isAdmin && bitsAt (c.dw 0) 14 2 != 0 then
    (sglPieces (d0 :: d1 :: lists)).map fun ps => slicePieces ps 0 len
  else some (prpPieces s.pageSize d0 d1 lists len)

/-- COMMAND_FETCH: the entry at the head of queue `qid` goes into free slot `k` and is decoded and routed. `lists` are
the PRP list entries or SGL descriptors its pointer leads to. No effect unless the round robin serves the queue, the
slot is free, and fetching runs (R324, R354, Table 15-5): a shutdown stops it until the controller is enabled again. -/
def commandFetch (qid k : Nat) (entry : List Word) (lists : List Nat) (s : State) : State :=
  match s.sq? qid with
  | none => s
  | some q =>
    if !s.front.rdy || s.front.shst != 0 || s.front.pp || !s.bme || s.front.inReset || s.front.flr || !s.plat.feUp
        || k ≥ 65536 || (s.slot? k).isSome || s.front.retired.contains k || q.waiting == 0 || s.deleting qid
        || !s.arbGrants qid || !s.running 0 0x08 || !s.running 0 0x09 then s
    else
      let burst := if s.front.arb = qid then s.front.burst + 1 else 1
      let s1 := s.modFront fun f => { f with
        sqs := SMap.insert f.sqs qid { q with head := (q.head + 1) % q.size }, arb := qid, burst := burst }
      let c : CmdSlot := ⟨qid, (entry ++ List.replicate 16 0).take 16, [], s.plat.time, .fetched, none, none, none,
        s.barBase 0x20, [], false⟩
      let s2 := s1.putSlot k c
      let used := s2.front.slots.length
      let s3 := if used > s2.pr F.QMG_PEAK then s2.pw F.QMG_PEAK used else s2
      match s3.route c with
      | .fail st => s3.finish k st
      | r =>
        match s3.dataPieces c lists with
        | none => s3.finish k stSglType
        | some ps0 =>
          -- a piece never spans two window pages (R314)
          let ps := ps0.flatMap fun p => splitAt 0x200000 (p.2 / 0x200000 + 2) p.1 p.2
          match r with
          | .channel ch =>
            ((s3.putSlot k { c with pieces := ps, phase := .routed, chan := some ch.val }).incSat 0 F.FEC_ROUTED).startWake
              ch 3
          | _ => s3.putSlot k { c with pieces := ps }

def execCommandFetch (qid k : Nat) (entry : List Word) (lists : List Nat) (s : State) : Res :=
  .next (commandFetch qid k entry lists s)

/-! Posting (R308, R352, R356). -/

/-- The histogram source of a command's latency (Table 15-10). -/
def latencySource (c : CmdSlot) : Nat :=
  if c.isAdmin then 3 else match c.opcode with
    | 0x02 => 0
    | 0x01 => 1
    | 0x00 => 2
    | _ => 3

/-- Interrupt coalescing (feature 0x08: THR in [7:0], TIME in [15:8]; vector configuration 0x09 bit 16 disables it). -/
def State.cqInterrupt (s : State) (q : CplQueue) (admin : Bool) : State :=
  if !q.ien then s
  else
    let thr := bitsAt (s.feat 0x08) 0 8
    let off := admin || bitsAt (s.feat 0x08) 8 8 = 0 || thr = 0 || bitAt (s.feat (0x900 + q.iv)) 16
    if off then s.msix q.iv
    else
      let n := SMap.get s.front.coalesced q.iv 0 + 1
      if n > thr then (s.modFront fun f => { f with coalesced := SMap.erase f.coalesced q.iv }).msix q.iv
      else s.modFront fun f => { f with coalesced := SMap.put f.coalesced q.iv 0 n }

/-- COMPLETION_RECORD: the record in slot `k` is posted as a completion queue entry, then its message; the slot is freed
once no cancel answer is awaited (R308, R352). It waits while the completion queue is full. -/
def completionRecord (k : Nat) (s : State) : State :=
  match s.slot? k with
  | none => s
  | some c =>
    match c.phase, s.sq? c.sqid with
    | .completed st d0 d1, some sq =>
      match SMap.find? s.front.cqs sq.cqid with
      | none => s
      | some q =>
        if (q.tail + 1) % q.size = q.head then s
        else
          let dw2 := sq.head + 2 ^ 16 * c.sqid
          let dw3 := c.cid + 2 ^ 16 * (b2n q.phase + 2 * st.field)
          let s1 := s.post (.cqe (q.base + 16 * q.tail) [d0, d1, BitVec.ofNat 32 dw2, BitVec.ofNat 32 dw3])
          let wrap := q.tail + 1 = q.size
          let q' := { q with tail := (q.tail + 1) % q.size, phase := if wrap then !q.phase else q.phase }
          let s2 := s1.modFront fun f => { f with cqs := SMap.insert f.cqs sq.cqid q' }
          let s3 := s2.cqInterrupt q c.isAdmin
          let s4 := match c.chan.bind chan? with
            | some ch => s3.sample (chRg ch) (latencySource c) (Int.ofNat ((s.plat.time - c.fetched) / 1000))
            | none => s3
          let s5 := if c.cancel.isSome then s4.putSlot k { c with phase := .posted } else s4.freeSlot k
          s5.settleDeletes c.sqid
    | _, _ => s

def execCompletionRecord (k : Nat) (s : State) : Res := .next (completionRecord k s)

/-- COALESCING_TIME_EXPIRY: TIME has passed with completions of vector `v` unsignalled (feature 0x08). -/
def coalescingExpiry (v : Nat) (s : State) : State :=
  if SMap.get s.front.coalesced v 0 = 0 then s
  else (s.modFront fun f => { f with coalesced := SMap.erase f.coalesced v }).msix v

def execCoalescingTimeExpiry (v : Nat) (s : State) : Res := .next (coalescingExpiry v s)

/-! Cancel answers (R351, R352, R326, R449). -/

/-- What a channel's answer does once it reaches slot `k`. -/
def State.cancelSettled (s : State) (k : Nat) (c : CmdSlot) (why : CancelCause) (cancelled : Bool) : State :=
  let ended := cancelled && c.live
  match why with
  | .abort by_ => (if ended then s.finish k stAbortRequested else s).finish by_ stSuccess (b2n !ended)
  | .deleteQueue by_ => (if ended then s.finish k stSqDeletion else s).settleDelete by_
  | .timeLimit =>
    if ended then
      let s1 := s.finish k stTimeLimit
      match c.chan.bind chan? with
      | some ch => s1.cnt ch 15
      | none => s1
    else s
  | .silent => if cancelled || !c.live then s.freeSlot k else s

/-- CANCEL_ANSWER: the channel's answer for the command in slot `k` reaches the slot. -/
def cancelAnswer (k : Nat) (s : State) : State :=
  match s.slot? k with
  | none => s
  | some c =>
    match c.cancel, c.answer with
    | some why, some a =>
      let c' := { c with cancel := none, answer := none }
      let s1 := s.putSlot k c'
      let s2 := s1.cancelSettled k c' why a
      match s2.slot? k with
      | some c2 => if c2.phase = .posted then s2.freeSlot k else s2
      | none => s2
    | _, _ => s

def execCancelAnswer (k : Nat) (s : State) : Res := .next (cancelAnswer k s)

end Sys2Proof.Machine
end

