-- ==== Sys2Proof/Machine/Firmware.lean ====
section
/-! DEFINITION. The boot flash, signed bundles, Download and Commit (R410 to R420, R437). -/

namespace Sys2Proof.Machine
open Sys2Proof

/-- Change the security core's state. -/
def State.modSec (s : State) (f : Security → Security) : State := { s with sec := f s.sec }

/-- A boot flash byte. -/
def State.flashByte (s : State) (a : Nat) : Byte := SMap.get s.sec.flash a (Config.flash a)
def State.flashBytes (s : State) (a n : Nat) : List Byte := (List.range n).map fun i => s.flashByte (a + i)
/-- Program bytes of the boot flash. -/
def State.flashPut (s : State) (a : Nat) (bs : List Byte) : State :=
  let put := fun (m : SMap Byte) (e : Nat × Byte) => SMap.put m (a + e.1) (Config.flash (a + e.1)) e.2
  s.modSec fun x => { x with flash := ((List.range bs.length).zip bs).foldl put x.flash }
/-- Erase a range of the boot flash: NOR flash erases to 0xFF. -/
def State.flashErase (s : State) (a n : Nat) : State := s.flashPut a (List.replicate n 0xFF)

/-- Where slot `i` starts (Table 14-1). -/
def slotBase (i : Nat) : Nat := 0x200000 + (i - 1) * 0xC00000
/-- The Download staging area. -/
def stagingBase : Nat := 0x3200000
/-- The size of a slot and of the staging area. -/
def slotSize : Nat := 12582912

/-! The slot table (R411). The offsets of its fields within a copy are a DESIGN CHOICE (log 17): sequence number at 0,
ACTIVE, PREVIOUS, next and trial count at 4 to 7, CRC-32C at 8. -/

/-- The slot table in force. -/
structure SlotTable where
  seq      : Nat
  active   : Nat
  previous : Nat
  next     : Nat
  trial    : Nat
  deriving DecidableEq, Repr

/-- One copy, if its CRC is correct. -/
def State.tableCopy (s : State) (a : Nat) : Option SlotTable :=
  let b := s.flashBytes a 12
  if leNat (b.drop 8) = crc32c (b.take 8) then
    some ⟨leNat (b.take 4), leNat ((b.drop 4).take 1), leNat ((b.drop 5).take 1), leNat ((b.drop 6).take 1),
      leNat ((b.drop 7).take 1)⟩
  else none

/-- The copy with the higher sequence number and a correct CRC is in force: the table and whether it is copy A. With no
correct copy the factory slot 1 is active (DESIGN CHOICE, log 17). -/
def State.table (s : State) : SlotTable × Bool :=
  match s.tableCopy 0, s.tableCopy 0x10000 with
  | some a, some b => if a.seq ≥ b.seq then (a, true) else (b, false)
  | some a, none => (a, true)
  | none, some b => (b, false)
  | none, none => (⟨0, 1, 0, 0, 0⟩, false)

/-- Show the table in `BOOT.TABLE`. -/
def State.showTable (s : State) (t : SlotTable) : State :=
  s.wrs 0 [(F.BOOT_TABLE_ACTIVE, t.active), (F.BOOT_TABLE_PREVIOUS, t.previous), (F.BOOT_TABLE_NEXT, t.next),
    (F.BOOT_TABLE_TRIAL, t.trial)]

/-- An update writes the copy not in force, with the sequence number raised by 1 (R411). -/
def State.putTable (s : State) (t : SlotTable) : State :=
  let old := s.table
  let body := leBytes 4 (old.1.seq + 1) ++ leBytes 1 t.active ++ leBytes 1 t.previous ++ leBytes 1 t.next
    ++ leBytes 1 t.trial
  (s.flashPut (if old.2 then 0x10000 else 0) (body ++ leBytes 4 (crc32c body))).showTable t

/-! The board record (R412, Table 17-8). -/

/-- Subsystem dword and SLEW word of the board record; an empty record gives 0x1E9A, 0x3216 and SLOW. -/
def State.boardRecord (s : State) : Nat × Nat :=
  let b := s.flashBytes 0x100000 64
  if b.take 4 = ascii "KBRD" ∧ leNat (b.drop 0x3C) = crc32c (b.take 60) then
    (leNat ((b.drop 4).take 4), leNat ((b.drop 8).take 4) % 32)
  else (0x32161E9A, 0)

/-! Bundles (Table 14-2, R413). -/

/-- A component of a bundle: type, offset, length, version, hash. -/
structure Component where
  type    : Nat
  offset  : Nat
  len     : Nat
  version : List Byte
  hash    : List Byte
  deriving DecidableEq, Repr

/-- What the header of a valid bundle says. -/
structure Bundle where
  key     : Nat
  advance : Bool
  version : List Byte
  svn     : Nat
  len     : Nat
  comps   : List Component
  deriving DecidableEq, Repr

/-- The minimum SVN fused so far (R419). -/
def State.minSvn (s : State) : Nat := s.sec.svn.getD Config.fusedSvn.toNat

/-- The bundle at a flash address, if every check of R413 passes. -/
def State.bundleAt (s : State) (base : Nat) : Option Bundle :=
  let h := s.flashBytes base 0x400
  let at_ := fun o n => (h.drop o).take n
  let key := leNat (at_ 6 1)
  let len := leNat (at_ 0x14 4)
  let comps := (List.range 4).map fun i =>
    let o := 0x40 + 0x60 * i
    (⟨leNat (at_ o 1), leNat (at_ (o + 4) 4), leNat (at_ (o + 8) 4), at_ (o + 16) 8, at_ (o + 32) 48⟩ : Component)
  let pub := at_ 0x200 97
  let one := fun (t lim : Nat) =>
    match comps.filter fun c => c.type == t with
    | [c] => c.len ≤ lim && sha384 (s.flashBytes (base + c.offset) c.len) == c.hash
    | _ => false
  let svn := leNat (at_ 0x10 1)
  if at_ 0 4 == ascii "KBND" && leNat (at_ 4 2) == 1 && len ≤ slotSize
      && key ≤ 3 && beNat (sha384 pub) == Config.keyHash key && !Config.keyRevoked key
      && ecdsaVerify pub (at_ 0x300 96) (h.take 0x300)
      && one 1 (4 * 2 ^ 20) && one 2 (2 ^ 20) && one 3 (2 ^ 16)
      && s.minSvn ≤ svn && svn ≤ 63 then
    some ⟨key, bitAt (leNat (at_ 7 1)) 0, at_ 8 8, leNat (at_ 0x10 1), len, comps⟩
  else none

/-- The version of a bundle's component of a type. -/
def Bundle.compVersion (b : Bundle) (t : Nat) : List Byte := ((b.comps.find? (·.type == t)).map (·.version)).getD []

/-- A verification of slot `i`: `SLOT_STS` and the version registers show its outcome; the time it took is open, a free
value (log 3). -/
def State.verifySlot (s : State) (i : Nat) : Option Bundle × State :=
  let r := s.bundleAt (slotBase i)
  let d := s.draw 16
  let s1 := d.2.pw F.BOOT_VERIFY_MS d.1
  match r with
  | some b => (r, s1.wrs 0 [(F.BOOT_SLOT_STS_VALID i, 1), (F.BOOT_SLOT_STS_SVN i, b.svn), (F.BOOT_SLOT_STS_KEY i, b.key),
      (F.BOOT_SLOT_VER_LO i, leNat (b.version.take 4)), (F.BOOT_SLOT_VER_HI i, leNat (b.version.drop 4))])
  | none => (r, (s1.wrs 0 [(F.BOOT_SLOT_STS_VALID i, 0), (F.BOOT_SLOT_STS_SVN i, 0), (F.BOOT_SLOT_STS_KEY i, 0),
      (F.BOOT_SLOT_VER_LO i, 0), (F.BOOT_SLOT_VER_HI i, 0)]).irq 0 0x11 1)

/-- The front end now runs a bundle's image: FR, its SVN (R413, R476). -/
def State.runBundle (s : State) (i : Nat) (b : Bundle) : State :=
  (s.wrs 0 [(F.FEC_VER_LO, leNat (b.version.take 4)), (F.FEC_VER_HI, leNat (b.version.drop 4)),
    (F.BOOT_SVN_RUN, b.svn)]).modSec fun x => { x with running := some i, svnDue := if b.advance then some b.svn else none }

/-- The trial count is cleared once CSTS.RDY has been set, and a bundle with ADVANCE_SVN then raises the fused minimum, never
above the SVN of the bundle in slot 1 (R415, R419). -/
def State.trialCleared (s : State) : State :=
  let t := s.table.1
  let s1 := if t.trial = 0 then s else s.putTable { t with trial := 0 }
  match s1.sec.svnDue with
  | none => s1
  | some v =>
    let cap := leNat (s1.flashBytes (slotBase 1 + 0x10) 1)
    let v' := max s1.minSvn (min v cap)
    (s1.modSec fun x => { x with svn := some v', svnDue := none }).pw F.BOOT_SVN_MIN v'

/-! BOOT_VERIFY (R414 to R416). -/

/-- Try slots in order, recording those that fail. The first argument is the list still to try, the second those tried. -/
def bootTry : List Nat → List Nat → State → Option (Nat × Bundle) × State
  | [], _, s => (none, s)
  | i :: is, tried, s =>
    if i = 0 ∨ i > 4 ∨ tried.contains i then bootTry is tried s
    else
      let trialOut := i == s.table.1.active && s.table.1.trial == 3 && s.table.1.next == 0
      let v := s.verifySlot i
      match if trialOut then none else v.1 with
      | some b => (some (i, b), v.2)
      | none => bootTry is (i :: tried) (v.2.pw F.BOOT_STS_FAIL_SLOTS (v.2.pr F.BOOT_STS_FAIL_SLOTS ||| 2 ^ (i - 1)))

/-- BOOT_VERIFY: choose, verify and start, or halt. The security core has started: its KEK is derived (R421). -/
def bootVerify (s : State) : State :=
  if s.plat.porst ∨ s.plat.tripped ∨ s.plat.feUp ∨ s.front.cfs ∨ s.pr F.BOOT_STS_HALT = 1 then s
  else
    let rec0 := s.boardRecord
    let s0 : State := (s.modFront fun f => { f with cfg := SMap.put f.cfg 0x2C 0x32161E9A rec0.1 }).showTable s.table.1 |>.pw F.SEC_STS_STORE_READY 1
    let s1 : State := { s0 with plat := { s0.plat with slew := rec0.2 } }
    let t := s1.table.1
    let first := if t.next ≠ 0 then t.next else t.active
    let r := bootTry [first, t.previous, 1] [] s1
    match r.1 with
    | none => ((r.2.pw F.BOOT_STS_HALT 1).setCfs).pw F.BOOT_SVN_MIN s.minSvn
    | some (i, b) =>
      let s2 := r.2
      let fell := i ≠ first
      let t' : SlotTable :=
        if t.next ≠ 0 ∧ !fell then ⟨t.seq, i, t.active, 0, 1⟩
        else if fell then ⟨t.seq, i, t.previous, 0, 0⟩
        else if t.trial ≠ 0 then { t with trial := min 3 (t.trial + 1) } else t
      let s3 := if t' = t then s2 else s2.putTable t'
      let s4 := ((s3.runBundle i b).pw F.BOOT_STS_SLOT i).pw F.BOOT_SVN_MIN s.minSvn
      let s5 : State := { s4 with plat := { s4.plat with feUp := true } }
      let s6 := (s5.pw F.GMON_FE_STS_STANDBY_READY 1).modSec fun x => { x with actDue := none }
      if fell then (s6.pw F.BOOT_STS_FALLBACK 1).irq 0 0x11 0 else s6

/-! Download and Commit (R417, R418). -/

/-- Whether two ranges share a byte. -/
def overlaps (a n b m : Nat) : Bool := a < b + m && b < a + n && n != 0 && m != 0

/-- FIRMWARE_IMAGE_DOWNLOAD: NUMD in Dword 10 (0-based dwords) and OFST in Dword 11 (dwords), as the standard lays them out. -/
def firmwareDownload (s : State) (k : Nat) (c : CmdSlot) (data : List Byte) : State :=
  let n := 4 * (c.dw 10 + 1)
  let ofs := 4 * c.dw 11
  let s0 := if s.sec.eraseDue then
      ((s.flashErase stagingBase slotSize).modSec fun x => { x with staged := [], eraseDue := false }).wrs 0
        [(F.BOOT_STAGE_BYTES, 0), (F.BOOT_STAGE_ERASED, 1)]
    else s
  if !s.pointersOk c false then s.refusePointer k c
  else if ofs + n > slotSize ∨ s0.sec.staged.any (fun p => overlaps ofs n p.1 p.2) then s0.finish k stOverlapping
  else
    let s1 := (s0.flashPut (stagingBase + ofs) (padTo n 0 data)).modSec fun x => { x with staged := x.staged ++ [(ofs, n)] }
    (s1.wrs 0 [(F.BOOT_STAGE_BYTES, s1.pr F.BOOT_STAGE_BYTES + n), (F.BOOT_STAGE_ERASED, 0)]).finish k stSuccess

def execFirmwareDownload (k : Nat) (data : List Byte) (s : State) : Res :=
  match s.cmd? k true 0x11 with
  | some c => .next (firmwareDownload s k c data)
  | none => .next s

/-- The slot a Commit names: slot 0 is the lowest of 2 to 4 that is neither ACTIVE nor PREVIOUS (R418). -/
def State.commitSlot (s : State) (c : CmdSlot) : Nat :=
  let fs := bitsAt (c.dw 10) 0 3
  if fs ≠ 0 then fs
  else
    let t := s.table.1
    ([2, 3, 4].find? fun i => i != t.active && i != t.previous).getD 2

/-- A Commit is prohibited while the debug port is open or TAMPER is set (R418). -/
def State.commitBarred (s : State) : Bool := s.pr F.SEC_STS_DEBUG_OPEN == 1 || s.pr F.SEC_STS_TAMPER == 1

/-- Whether the staged pieces cover the first `n` bytes. -/
def covered (ps : List (Nat × Nat)) (n : Nat) : Bool :=
  (ps.filter (·.1 < n)).foldl (fun a p => a + (min n (p.1 + p.2) - p.1)) 0 == n

/-- Replace: verify the staged bundle, erase the slot, copy, verify the copy (Table 14-3); whether all of it passed. The time the first
verification took is open, a free value (log 3). -/
def State.replaceSlot (s : State) (i : Nat) : Bool × State :=
  let d := s.draw 16
  let s0 := d.2.pw F.BOOT_VERIFY_MS d.1
  match s.bundleAt stagingBase with
  | none => (false, s0.irq 0 0x11 1)
  | some b =>
    if !covered s.sec.staged b.len then (false, s0.irq 0 0x11 1)
    else
      let s1 := (s0.flashErase (slotBase i) slotSize).flashPut (slotBase i) (s.flashBytes stagingBase b.len)
      let v := s1.verifySlot i
      (v.1.isSome, v.2)

/-- A Commit is over: COMMIT_DONE, and the next Download erases the staging area (R417, R437). -/
def State.commitDone (s : State) (k : Nat) (st : Status) : State :=
  (((s.modSec fun x => { x with eraseDue := true }).irq 0 0x11 2)).finish k st

/-- Commit Actions 0b000 and 0b001: replace, and for 0b001 set the slot for the next reset. -/
def commitReplace (s : State) (k : Nat) (c : CmdSlot) (thenActivate : Bool) : State :=
  let i := s.commitSlot c
  if s.commitBarred then s.commitDone k stFwProhibited
  else if i = 1 ∨ i > 4 then s.commitDone k stInvalidFwSlot
  else
    let r := s.replaceSlot i
    if !r.1 then r.2.commitDone k stInvalidFwImage
    else if thenActivate then
      ((r.2.putTable { r.2.table.1 with next := i }).modSec fun x => { x with actDue := some i }).commitDone k stSuccess
    else r.2.commitDone k stSuccess

/-- The Commit in slot `k`, if its action is `ca`. -/
def State.commit? (s : State) (k ca : Nat) : Option CmdSlot :=
  match s.cmd? k true 0x10 with
  | some c => if bitsAt (c.dw 10) 3 3 = ca then some c else none
  | none => none

def execFirmwareCommitReplace (k : Nat) (s : State) : Res :=
  match s.commit? k 0 with
  | some c => .next (commitReplace s k c false)
  | none => .next s

def execFirmwareCommitReplaceActivate (k : Nat) (s : State) : Res :=
  match s.commit? k 1 with
  | some c => .next (commitReplace s k c true)
  | none => .next s

/-- FIRMWARE_COMMIT_ACTIVATE_AT_RESET: verify the slot and set it for the next reset (0b010). -/
def commitAtReset (s : State) (k : Nat) (c : CmdSlot) : State :=
  let i := s.commitSlot c
  if s.commitBarred then s.commitDone k stFwProhibited
  else if i > 4 then s.commitDone k stInvalidFwSlot
  else
    let v := s.verifySlot i
    match v.1 with
    | none => v.2.commitDone k stInvalidFwImage
    | some _ =>
      ((v.2.putTable { v.2.table.1 with next := i }).modSec fun x => { x with actDue := some i }).commitDone k stSuccess

def execFirmwareCommitAtReset (k : Nat) (s : State) : Res :=
  match s.commit? k 2 with
  | some c => .next (commitAtReset s k c)
  | none => .next s

end Sys2Proof.Machine
end

