-- ==== Sys2Proof/Machine/Keys.lean ====
section
/-! DEFINITION. The archive key store and the closed debug port (R421 to R436, R496). -/

namespace Sys2Proof.Machine
open Sys2Proof

/-- `SEC.STS.KEYS` follows the store. -/
def State.showKeys (s : State) : State := s.pw F.SEC_STS_KEYS s.sec.keys.length

/-- The archive key of an identifier. -/
def State.archiveKey (s : State) (id : Nat) : Option (List Byte) := (s.sec.keys.find? (·.1 == id)).map (·.2)

/-- Whether the debug port is open. -/
def State.debugOpen (s : State) : Bool := s.pr F.SEC_STS_DEBUG_OPEN == 1

/-- LOAD (R422, Table 14-4). The transfer must be 64 bytes. -/
def keyLoad (s : State) (k : Nat) (c : CmdSlot) (data : List Byte) : State :=
  let id := leNat ((data.drop 8).take 8)
  let key := (data.drop 0x10).take 32
  if c.nsid ≠ 0 then s.finish k stInvalidField
  else if !s.pointersOk c false then s.refusePointer k c
  else if data.length ≠ 64 then s.finish k stInvalidField
  else if s.debugOpen ∨ s.sec.tamperLow then s.finish k stAccessDenied
  else if data.take 4 ≠ ascii "KREC" ∨ (data.drop 4).head? ≠ some 1
      ∨ leNat (data.drop 0x3C) ≠ crc32c (data.take 0x3C) ∨ id = 0 then s.finish k stInvalidField
  else match s.archiveKey id with
    | some old => if old = key then s.finish k stSuccess else s.finish k stSequence
    | none =>
      if s.sec.keys.length ≥ 512 then s.finish k stCapacity
      else ((s.modSec fun x => { x with keys := x.keys ++ [(id, key)] }).showKeys).finish k stSuccess

/-- The Key Management command in slot `k`, if its operation is `op`. -/
def State.keyCmd? (s : State) (k op : Nat) : Option CmdSlot :=
  match s.cmd? k true 0xC6 with
  | some c => if bitsAt (c.dw 10) 0 4 = op then some c else none
  | none => none

def execKeyLoad (k : Nat) (data : List Byte) (s : State) : Res :=
  match s.keyCmd? k 1 with
  | some c => .next (keyLoad s k c data)
  | none => .next s

/-- DISCARD (R423): one identifier, or all of them; mounted discs keep their key pairs. -/
def keyDiscard (s : State) (k : Nat) (c : CmdSlot) : State :=
  let id := c.dw 11 + 2 ^ 32 * c.dw 12
  if c.nsid ≠ 0 then s.finish k stInvalidField
  else if id = 2 ^ 64 - 1 then ((s.modSec fun x => { x with keys := [] }).showKeys).finish k stSuccess
  else if (s.archiveKey id).isNone then s.finish k stInvalidField
  else ((s.modSec fun x => { x with keys := x.keys.filter (·.1 != id) }).showKeys).finish k stSuccess

def execKeyDiscard (k : Nat) (s : State) : Res :=
  match s.keyCmd? k 2 with
  | some c => .next (keyDiscard s k c)
  | none => .next s

/-- LIST: identifiers in load order, 8 bytes each, then zeros, 4 KiB in all (R344, R423). -/
def keyList (s : State) (k : Nat) (c : CmdSlot) : State :=
  if c.nsid ≠ 0 then s.finish k stInvalidField
  else s.finishData k c (padTo 4096 0 (s.sec.keys.flatMap fun e => leBytes 8 e.1))

def execKeyList (k : Nat) (s : State) : Res :=
  match s.keyCmd? k 4 with
  | some c => .next (keyList s k c)
  | none => .next s

/-! The debug port. `SEC.DBG_STS.STATE`: 0 closed, 1 challenge issued, 2 open, 3 locked out. -/

/-- Draw `n` bytes from the random bit generator (R426). -/
def State.drawRandom (s : State) (n : Nat) : List Byte × State :=
  ((List.range n).map fun i => Config.random (s.sec.draws + i), s.modSec fun x => { x with draws := x.draws + n })

/-- Show challenge bytes in `DBG_CHAL_k`. -/
def State.showChallenge (s : State) (b : List Byte) : State :=
  (List.range 12).foldl (fun s i => s.pw (F.SEC_DBG_CHAL i) (leNat ((b.drop (4 * i)).take 4))) s

/-- Generate a challenge: nonce, Device Serial Number, challenge number (R431). Not while DBGEN is low, TAMPER_N is low, the
port is open or locked out (R432, R435). Byte order of the numbers is least significant first (DESIGN CHOICE, log 18). -/
def newChallenge (s : State) : State :=
  let st := s.pr F.SEC_DBG_STS_STATE
  if s.pr F.SEC_STS_DBGEN = 0 ∨ s.sec.tamperLow ∨ st = 2 ∨ st = 3 then s
  else
    let r := s.drawRandom 32
    let b := r.1 ++ leBytes 8 Config.dsn.toNat ++ leBytes 8 r.2.sec.chalNext
    ((r.2.modSec fun x => { x with challenge := some b, chalNext := x.chalNext + 1 }).showChallenge b).pw
      F.SEC_DBG_STS_STATE 1

/-- End the challenge. -/
def dropChallenge (s : State) : State :=
  let s1 := s.modSec fun x => { x with challenge := none }
  if s.pr F.SEC_DBG_STS_STATE = 1 then (s1.showChallenge []).pw F.SEC_DBG_STS_STATE 0 else s1.showChallenge []

/-- DEBUG_CHALLENGE: `SEC.DBG_CTL.CHAL_GO` (R431). -/
def execDebugChallenge (_src : Src) (s : State) : Res := .next (newChallenge s)

/-- CHALLENGE_EXPIRY: 300 s without a response (R431). -/
def execChallengeExpiry (s : State) : Res := .next (if s.sec.challenge.isSome then dropChallenge s else s)

/-- DBGEN_RISE (R431). -/
def execDbgenRise (s : State) : Res := .next (if s.plat.porst then s else s.pw F.SEC_STS_DBGEN 1)

/-- DBGEN_FALL: the challenge ends and an open port closes; no key is restored (R431, R433). -/
def execDbgenFall (s : State) : Res :=
  .next (let s1 := dropChallenge (s.pw F.SEC_STS_DBGEN 0)
    if s1.debugOpen then (s1.pw F.SEC_STS_DEBUG_OPEN 0).pw F.SEC_DBG_STS_STATE 0 else s1)

/-- CHAL: Capture-DR requests a challenge if none is valid; its 48 bytes are shifted out, or zeros (Table 17-11). -/
def execChal (s : State) : Res :=
  .next (let s1 := if s.sec.challenge.isSome then s else newChallenge s
    s1.answer (.debug (s1.sec.challenge.getD (zeros 48))))

/-- STATE: [1:0] `DBG_STS.STATE`, [3:2] FAILS, [4] DBGEN, [5] TAMPER (Table 17-11). -/
def execState (s : State) : Res :=
  .next (s.answer (.debug (leBytes 1 (s.pr F.SEC_DBG_STS_STATE + 4 * s.pr F.SEC_DBG_STS_FAILS
    + 16 * s.pr F.SEC_STS_DBGEN + 32 * s.pr F.SEC_STS_TAMPER))))

/-- BYPASS: the 1-bit bypass register, for code 0xF and, while the port is closed, for every code but 0x1 to 0x3; an
instruction of the open port has no effect the spec gives (R496). -/
def execBypass (code : BitVec 4) (tdi : Bool) (s : State) : Res :=
  if s.debugOpen ∧ code ≠ 0xF then .refused .openDebugPort
  else .next ((s.answer (.debug (leBytes 1 (b2n s.sec.bypass)))).modSec fun x => { x with bypass := tdi })

/-- TAMPER_RELEASE: TAMPER_N is high again (R435). -/
def execTamperRelease (s : State) : Res := .next (s.modSec fun x => { x with tamperLow := false })

end Sys2Proof.Machine
end

