-- ==== Sys2Proof/Machine/Codec.lean ====
section
/-! DEFINITION. How a frame and a cluster are coded on the medium: CRCs, the header code, the scrambler, the LDPC code, 16/17 DC
control, and the outer RS(80,68) code (R28 to R39). -/

namespace Sys2Proof.Machine
open Sys2Proof

/-! Bits and CRCs. -/

/-- The `n` bits of a number, most significant first. -/
def msbBits (n v : Nat) : List Bool := (List.range n).map fun i => bitAt v (n - 1 - i)

/-- Bits, most significant first, as a number. -/
def ofMsb (l : List Bool) : Nat := l.foldl (fun a b => 2 * a + b2n b) 0

/-- One bit into a CRC register of `w` bits, most significant first. -/
def crcBit (w poly : Nat) (crc : Nat) (b : Bool) : Nat :=
  if bitAt crc (w - 1) != b then (2 * crc % 2 ^ w) ^^^ poly else 2 * crc % 2 ^ w

/-- A CRC over bits, most significant first, without reflection or final inversion. -/
def crcBits (w poly init : Nat) (bits : List Bool) : Nat := bits.foldl (crcBit w poly) init

/-- The CRC-12 of an ADIP word (R28). -/
def crc12 (bits : List Bool) : Nat := crcBits 12 0x80F 0 bits

/-- The CRC-16 of a frame header (R32). -/
def crc16 (bits : List Bool) : Nat := crcBits 16 0x1021 0xFFFF bits

/-- The CRC-8 of a laser driver transaction (R124). -/
def crc8 (bits : List Bool) : Nat := crcBits 8 0x07 0 bits

/-- The bits of bytes, each most significant first. -/
def byteBits (l : List Byte) : List Bool := l.flatMap fun b => msbBits 8 b.toNat

/-- Bits, eight to a byte, most significant first. The first argument is the number of bytes. -/
def bitsBytes : Nat → List Bool → List Byte
  | 0, _ => []
  | n + 1, l => BitVec.ofNat 8 (ofMsb (l.take 8)) :: bitsBytes n (l.drop 8)

/-! ADIP words (R28). -/

/-- The 48 bits of the ADIP word for a frame address: frame-in-revolution bits [10:1] of an even frame. -/
def adipWordOf (a : FrameAddr) : Nat :=
  let top := a.layer * 2 ^ 31 + a.zone * 2 ^ 25 + a.swath * 2 ^ 16 + a.strand * 2 ^ 13 + a.frame / 2 * 2 ^ 3
  top * 2 ^ 12 + crc12 (msbBits 36 top)

/-- The address an ADIP word carries, when its CRC-12 is right. -/
def adipAddr (w : Nat) : Option FrameAddr :=
  if crc12 (msbBits 36 (bitsAt w 12 36)) = bitsAt w 0 12 then
    some ⟨bitsAt w 43 5, bitsAt w 37 6, bitsAt w 28 9, bitsAt w 25 3, 2 * bitsAt w 15 10⟩
  else none

/-- The wobble periods of an ADIP word, `true` where inverted (R28): the sync of 15 periods, then 48 cells of 4. -/
def adipPeriods (w : Nat) : List Bool :=
  List.replicate 3 true ++ List.replicate 12 false ++ (msbBits 48 w).flatMap fun b => [true, false, b, false]

/-- The word that wobble periods spell after an ADIP sync: one bit by period 2 of each cell (R28). -/
def adipWordIn (ps : List Bool) : Option Nat :=
  if ps.take 15 = (adipPeriods 0).take 15 then some (ofMsb ((List.range 48).map fun i => ps.getD (17 + 4 * i) false)) else none

/-! Frame headers (R30 to R33). -/

/-- The header flags (R31): role, frame index and LINK. -/
def headerFlags (role i : Nat) (link : Bool) : Nat := role * 64 + i * 4 + b2n link * 2

/-- The 72 information bits of a header. -/
def headerInfo (addr flags : Nat) : Nat :=
  let hi := addr * 2 ^ 8 + flags
  hi * 2 ^ 16 + crc16 (msbBits 56 hi)

/-- Table 2-3. -/
def headerCode : List Nat := [0b0101, 0b0110, 0b1001, 0b1010, 0b0011, 0b1100, 0b0100, 0b1011]

/-- The 96 channel bits of a header (R33). -/
def headerBits (info : Nat) : List Bool :=
  (List.range 24).flatMap fun t => msbBits 4 (headerCode.getD (bitsAt info (69 - 3 * t) 3) 0)

/-- The triplets of header channel bits; `none` marks the header failed (R33). The first argument counts triplets. -/
def headerTriplets : Nat → List Bool → Option (List Nat)
  | 0, _ => some []
  | n + 1, l =>
    match headerCode.findIdx? (· == ofMsb (l.take 4)), headerTriplets n (l.drop 4) with
    | some t, some ts => some (t :: ts)
    | _, _ => none

/-- Decode header channel bits: address and flags, when every group is in the table and the CRC passes. The reserved bits of the address
are ignored (R30). -/
def headerDecode (bits : List Bool) : Option (Nat × Nat) :=
  match headerTriplets 24 bits with
  | none => none
  | some ts =>
    let info := ts.foldl (fun a t => 8 * a + t) 0
    if crc16 (msbBits 56 (info / 2 ^ 16)) = info % 2 ^ 16 then some ((frameAddr (info / 2 ^ 24)).bits, info / 2 ^ 16 % 256) else none

/-! Scrambler (R34). -/

/-- The seed of a frame's scrambler. -/
def scrambleSeed (a : FrameAddr) : Nat :=
  let s := (a.layer * 2 ^ 18 + a.zone * 2 ^ 12 + a.swath * 2 ^ 3 + a.strand) ^^^ (a.frame * 2 ^ 12)
  if s = 0 then 0x7FFFFF else s

/-- One step of the scrambler. -/
def scrambleStep (s : Nat) : Nat := 2 * s % 2 ^ 23 + b2n (bitAt s 22 != bitAt s 17)

/-- Scramble or descramble information bits from a seed. -/
def scrambleBits : Nat → List Bool → List Bool
  | _, [] => []
  | s, d :: ds => (d != bitAt s 22) :: scrambleBits (scrambleStep s) ds

/-- Scramble or descramble a frame's 1,024 information bytes. -/
def scramble (a : FrameAddr) (l : List Byte) : List Byte :=
  bitsBytes l.length (scrambleBits (scrambleSeed a) (byteBits l))

/-! LDPC (R35). A block column is a number whose bit `r` is the block's row `r`. -/

/-- `P^s` times a block: row `r` takes column `(r + s) mod 256`. -/
def circ (s x : Nat) : Nat := x / 2 ^ s + x % 2 ^ s * 2 ^ (256 - s)

/-- The block columns of a codeword's bits. The first argument counts columns. -/
def toCols : Nat → List Bool → List Nat
  | 0, _ => []
  | n + 1, l => (l.take 256).foldr (fun b a => 2 * a + b2n b) 0 :: toCols n (l.drop 256)

/-- The bits of block columns. -/
def ofCols (cs : List Nat) : List Bool := cs.flatMap fun x => (List.range 256).map (bitAt x)

/-- The information part of block row `i` times the information columns. -/
def ldpcRow (i : Nat) (u : List Nat) : Nat :=
  u.zipIdx.foldl (fun a e => a ^^^ circ (i * (4 * e.2 + 1) % 256) e.1) 0

/-- The four parity columns of 32 information columns. -/
def ldpcParity (u : List Nat) : List Nat :=
  let p0 := ldpcRow 0 u
  let p1 := ldpcRow 1 u ^^^ p0
  let p2 := ldpcRow 2 u ^^^ p1
  let p3 := ldpcRow 3 u ^^^ p2
  [p0, p1, p2, p3]

/-- The codeword of 8,192 information bits. -/
def ldpcEncode (bits : List Bool) : List Bool :=
  let u := toCols 32 bits
  bits ++ ofCols (ldpcParity u)

/-- The syndrome of a codeword's block columns, one block per block row: `H·c`. -/
def ldpcSyndrome (c : List Nat) : List Nat :=
  let u := c.take 32
  (List.range 4).map fun i =>
    ldpcRow i u ^^^ c.getD (32 + i) 0 ^^^ (if i = 0 then 0 else c.getD (31 + i) 0)

/-- The syndrome weight of a codeword: its unsatisfied checks, 0 to 1,024. -/
def syndromeWeight (bits : List Bool) : Nat :=
  (ldpcSyndrome (toCols 36 bits)).foldl (fun a x => a + ((List.range 256).filter (bitAt x)).length) 0

/-! 16/17 DC control (R36). -/

/-- The disparity of bits: ones minus zeros. -/
def disparity (l : List Bool) : Int := l.foldl (fun a b => a + (if b then 1 else -1)) 0

/-- Code `n` words of 16 bits from a running digital sum. -/
def dcEncode : Nat → Int → List Bool → List Bool
  | 0, _, _ => []
  | n + 1, rds, l =>
    let w := l.take 16
    let d := disparity w
    let asIs := rds - 1 + d
    let inv := rds + 1 - d
    if inv.natAbs < asIs.natAbs then true :: (w.map (!·) ++ dcEncode n inv (l.drop 16))
    else false :: (w ++ dcEncode n asIs (l.drop 16))

/-- Undo 16/17 coding of `n` words. -/
def dcDecode : Nat → List Bool → List Bool
  | 0, _ => []
  | n + 1, l =>
    match l with
    | [] => []
    | c :: r => (r.take 16).map (· != c) ++ dcDecode n (r.drop 16)

/-! The frame (R29). -/

/-- The sync mark. -/
def syncMark : List Bool := List.replicate 24 true ++ List.replicate 24 false

/-- The 9,936 channel bits of a frame: address, flags and its 1,024 information bytes (R113). -/
def encodeFrame (a : FrameAddr) (flags : Nat) (info : List Byte) : List Bool :=
  syncMark ++ headerBits (headerInfo a.bits flags)
    ++ dcEncode 576 0 (ldpcEncode (scrambleBits (scrambleSeed a) (byteBits info)))

/-! The outer code (R39), over GF(2^8) with x^8 + x^4 + x^3 + x^2 + 1. -/

/-- Product in the field. -/
def gfMul (a b : Nat) : Nat :=
  ((List.range 8).foldl (fun (p : Nat × Nat) i =>
    (if bitAt b i then p.1 ^^^ p.2 else p.1, if p.2 < 128 then 2 * p.2 else (2 * p.2) ^^^ 0x11D)) (0, a)).1

/-- Powers of α. -/
def gfPow : Nat → Nat
  | 0 => 1
  | n + 1 => gfMul 2 (gfPow n)

/-- The inverse of a field element: `x^254`. -/
def gfInv (x : Nat) : Nat :=
  let x2 := gfMul x x; let x4 := gfMul x2 x2; let x8 := gfMul x4 x4
  let x16 := gfMul x8 x8; let x32 := gfMul x16 x16; let x64 := gfMul x32 x32; let x128 := gfMul x64 x64
  gfMul x2 (gfMul x4 (gfMul x8 (gfMul x16 (gfMul x32 (gfMul x64 x128)))))

/-- Sum of polynomials, coefficients lowest first. -/
def polyAdd : List Nat → List Nat → List Nat
  | [], b => b
  | a, [] => a
  | x :: a, y :: b => (x ^^^ y) :: polyAdd a b

/-- A polynomial times a constant. -/
def polyScale (k : Nat) (a : List Nat) : List Nat := a.map (gfMul k)

/-- Product of polynomials, coefficients lowest first. -/
def polyMul : List Nat → List Nat → List Nat
  | [], _ => []
  | x :: a, b => polyAdd (polyScale x b) (0 :: polyMul a b)

/-- The value of a polynomial, coefficients lowest first. -/
def polyEval (a : List Nat) (x : Nat) : Nat := a.foldr (fun c v => c ^^^ gfMul x v) 0

/-- The generator `(x − α^0)…(x − α^11)`, coefficients lowest first. -/
def rsGen : List Nat := (List.range 12).foldl (fun g i => polyMul [gfPow i, 1] g) [1]

/-- The 12 parity bytes of 68 message bytes, the coefficient of x^79 first. -/
def rsParity (msg : List Nat) : List Nat :=
  -- the generator without its leading coefficient, highest first
  let g := (rsGen.take 12).reverse
  msg.foldl (fun reg m =>
    let f := m ^^^ reg.headD 0
    ((reg.drop 1) ++ [0]).zipWith (fun r c => r ^^^ gfMul f c) g) (List.replicate 12 0)

/-- The 12 syndromes of a received word, the coefficient of x^79 first. -/
def rsSyndromes (word : List Nat) : List Nat :=
  (List.range 12).map fun i => word.foldl (fun v c => gfMul (gfPow i) v ^^^ c) 0

/-- One step of the Berlekamp–Massey iteration at step `n`: locator, previous locator, length. -/
def bmStep (syn : List Nat) (e : Nat) (st : List Nat × List Nat × Nat) (n : Nat) : List Nat × List Nat × Nat :=
  let (lam, b, len) := st
  let d := (List.range (n + 1)).foldl (fun v j => v ^^^ gfMul (lam.getD j 0) (syn.getD (n - j) 0)) 0
  if d = 0 then (lam, 0 :: b, len)
  else
    let lam' := polyAdd lam (polyScale d (0 :: b))
    if 2 * len ≤ n + e then (lam', polyScale (gfInv d) lam, n + 1 + e - len) else (lam', 0 :: b, len)

/-- The formal derivative of a polynomial over a field of characteristic 2. -/
def polyDeriv (a : List Nat) : List Nat := (a.drop 1).zipIdx.map fun e => if e.2 % 2 = 0 then e.1 else 0

/-- What the outer decoder gives for one codeword: the corrected word and the errors corrected outside the erasures. -/
abbrev RsResult := Option (List Nat × Nat)

/-- Decode a received word of 80 bytes with erased positions and at most `t` errors elsewhere (R39, R88). The result is a codeword
that differs from the received word in at most `t` positions outside the erasures; `none` where the algebra finds none. -/
def rsDecode (word : List Nat) (erased : List Nat) (t : Nat) : RsResult :=
  let w := word.zipIdx.map fun e => if erased.contains e.2 then 0 else e.1
  let syn := rsSyndromes w
  if syn.all (· == 0) then some (w, 0)
  else if erased.length > 12 then none
  else
    let e := erased.length
    let gam := erased.foldl (fun g p => polyMul [1, gfPow (79 - p)] g) [1]
    let lam := ((List.range (12 - e)).foldl (fun st i => bmStep syn e st (i + e)) (gam, gam, e)).1
    let omega := (polyMul syn lam).take 12
    let dl := polyDeriv lam
    let fixed := w.zipIdx.map fun c =>
      let x := gfPow (79 - c.2)
      let xi := gfInv x
      if polyEval lam xi = 0 then
        c.1 ^^^ gfMul x (gfMul (polyEval omega xi) (gfInv (polyEval dl xi)))
      else c.1
    let errs := ((w.zip fixed).zipIdx.filter fun c => c.1.1 != c.1.2 && !erased.contains c.2).length
    if (rsSyndromes fixed).all (· == 0) && errs ≤ t then some (fixed, errs) else none

/-! The cluster (R38). -/

/-- Byte `j` of each of the 68 message positions. -/
def column (rows : List (List Byte)) (j : Nat) : List Nat := rows.map fun r => (r.getD j 0).toNat

/-- The 80 information rows of a cluster: payload, descriptor, outer parity (R38, R39). -/
def clusterRows (payload descriptor : List Byte) : List (List Byte) :=
  let msg := (List.range 64).map (fun p => (payload.drop (1024 * p)).take 1024)
    ++ (List.range 4).map (fun p => (descriptor.drop (1024 * p)).take 1024)
  let par := (List.range 1024).map fun j => rsParity (column msg j)
  msg ++ (List.range 12).map fun i => par.map fun p => BitVec.ofNat 8 (p.getD i 0)

/-- The role flag of a cluster position (R31, R38). -/
def roleOf (p : Nat) : Nat := if p < 64 then 0 else if p < 68 then 1 else 2

/-- The 80 frames of a cluster at `pcn`, by cluster position; `link` sets LINK on the frames with i = 0 (R31, R113). -/
def encodeCluster (pcn : Nat) (link : Bool) (payload descriptor : List Byte) : List (List Bool) :=
  (clusterRows payload descriptor).zipIdx.map fun e =>
    encodeFrame (addrOf pcn e.2) (headerFlags (roleOf e.2) (e.2 / 8) (link && e.2 < 8)) e.1

/-- The frames a test-area run writes on a strand of slot `j` (R142): frames 0 to 449, role 0b11 and frame index 0, information bytes of 0
scrambled and encoded. Frames 450 to 479 stay blank. -/
def testFrames (layer j strand : Nat) : List (List Bool) :=
  (List.range 450).map fun f => encodeFrame (testAddr layer j strand f) (headerFlags 3 0 false) (List.replicate 1024 0)

end Sys2Proof.Machine
end

