-- ==== Sys2Proof/Machine/Operands.lean ====
section
/-! DEFINITION. The operand arithmetic of the control law engine: Q2.21 signals and 40-bit accumulators (R156), and the rounding rule the
spec uses throughout, halves away from zero. The block has no instruction operand forms: every operand of a command is a plain value. -/

namespace Sys2Proof.Machine
open Sys2Proof

/-- A quotient rounded to the nearest integer, halves away from zero. -/
def roundDiv (a : Int) (b : Nat) : Int :=
  if b = 0 then 0
  else if a < 0 then -((2 * a.natAbs + b) / (2 * b) : Nat) else ((2 * a.natAbs + b) / (2 * b) : Nat)

/-- A value held between two bounds. -/
def clampInt (lo hi x : Int) : Int := if x < lo then lo else if x > hi then hi else x

/-- Saturation to Q2.21 (R156). -/
def satQ (x : Int) : Int := clampInt (-8388608) 8388607 x

/-- A Q2.21 value at accumulator width. -/
def wide (x : Int) : Int := x * 2048

/-- A product of two Q2.21 values, rounded to 32 fraction bits (R156). -/
def mulQ (a b : Int) : Int := roundDiv (a * b) 1024

/-- A product of a Q2.21 value and an accumulator value. -/
def mulW (a b : Int) : Int := roundDiv (a * b) 2097152

/-- A stage result: rounded to 21 fraction bits and saturated (R156). -/
def stage (x : Int) : Int := satQ (roundDiv x 2048)

/-- A sum in a 40-bit accumulator: the spec gives no result outside it, so there it is free value `f`. -/
def acc (f : Nat) (x : Int) : Int :=
  if -549755813888 ≤ x ∧ x < 549755813888 then x else toSigned 40 (Config.freeValue f)

/-- A clamp between programmed limits: with the limits crossed the spec gives no result, and it is free value `f`. -/
def limitQ (f : Nat) (lo hi x : Int) : Int :=
  if lo ≤ hi then clampInt lo hi x else toSigned 24 (Config.freeValue f)

/-- The 16-bit code of an output (R154). -/
def outCode (out : Int) : Int := clampInt (-32768) 32767 (roundDiv out 64)

/-- The largest integer whose square is at most `n`, found bit by bit below `2 ^ k`. -/
def isqrtBits : Nat → Nat → Nat → Nat
  | 0, _, r => r
  | k + 1, n, r => isqrtBits k n (if (r + 2 ^ k) * (r + 2 ^ k) ≤ n then r + 2 ^ k else r)

/-- The integer square root of a number below `2 ^ 128`. -/
def isqrt (n : Nat) : Nat := isqrtBits 64 n 0

/-- 32,767 times the sine of an angle in 1/65,536 turn, by a Taylor sum scaled by 2^40 (DESIGN CHOICE, log 12). -/
def sin16 (a : Nat) : Int :=
  let q := a % 65536
  let h := q % 32768
  let k := if h > 16384 then 32768 - h else h
  let one : Nat := 2 ^ 40
  let x := 2 * 3454217652358 * k / 65536
  let x2 := x * x / one
  let t3 := x * x2 / one / 6
  let t5 := t3 * x2 / one / 20
  let t7 := t5 * x2 / one / 42
  let t9 := t7 * x2 / one / 72
  let t11 := t9 * x2 / one / 110
  let sn := x + t5 + t9 - (t3 + t7 + t11)
  let v : Int := ((32767 * sn + one / 2) / one : Nat)
  if q ≥ 32768 then -v else v

/-- Read a Q2.21 field of a channel. -/
def State.q21 (s : State) (c : Fin 16) (f : Fld) : Int := toSigned 24 (s.cr c f)

/-- Write a Q2.21 field of a channel. -/
def State.putQ (s : State) (c : Fin 16) (f : Fld) (x : Int) : State := s.cw c f (ofSigned 24 x)

end Sys2Proof.Machine
end

