-- ==== Sys2Proof/Machine/Detect.lean ====
section
/-! DEFINITION. The arithmetic of a lane and of a decoder core: correction, the equaliser's sum, the detector, soft 16/17 decoding,
layered min-sum, turbo iterations and soft combining (R60, R69 to R72, R84, R85, R87, R92). Every division rounds to the nearest
integer, halves away from zero (DESIGN CHOICE, log 74). -/

namespace Sys2Proof.Machine
open Sys2Proof

/-- A list cut or filled to a length. -/
def fitTo {α : Type} (n : Nat) (d : α) (l : List α) : List α := (l ++ List.replicate (n - l.length) d).take n

/-- Saturation of a signed 8-bit sample. -/
def sat8 (x : Int) : Int := clampInt (-128) 127 x

/-- Saturation of a 6-bit soft value or message (R71, R84). -/
def sat6 (x : Int) : Int := clampInt (-31) 31 x

/-- Stage 3 (R60): offset in 1/4 LSB, gain in Q2.14 and asymmetry in 1/128, applied to an ADC sample. -/
def correct (ofs gain asym x : Int) : Int :=
  let v := (4 * x - ofs) * gain
  sat8 (roundDiv (v * (128 + (if v < 0 then -asym else asym))) (2 ^ 23))

/-- The largest less the smallest of a list of ranges: an envelope (R80). -/
def envelope (l : List (Int × Int)) : Int :=
  match l with
  | [] => 0
  | e :: es =>
    let r := es.foldl (fun (a : Int × Int) b => (min a.1 b.1, max a.2 b.2)) e
    r.2 - r.1

/-- The equaliser's sum (R69): 25 coefficients in Q3.12 against the 15 own, 5 inner and 5 outer samples, latest first. -/
def eqSum (coefs samples : List Int) : Int :=
  sat8 (roundDiv ((coefs.zip samples).foldl (fun a e => a + e.1 * e.2) 0) 4096)

/-- The equaliser over `n` bits (R69); the lists begin 7, 2 and 2 samples before the first bit, and an absent neighbour's list is empty. -/
def zRun (coefs : List Int) : Nat → List Int → List Int → List Int → List Int
  | 0, _, _, _ => []
  | n + 1, own, inn, out =>
    eqSum coefs ((fitTo 15 0 (own.take 15)).reverse ++ (fitTo 5 0 (inn.take 5)).reverse ++ (fitTo 5 0 (out.take 5)).reverse)
      :: zRun coefs n (own.drop 1) (inn.drop 1) (out.drop 1)

/-! The detector (R71). State `n` holds the last three bits, the latest in bit 0. -/

/-- A bit as ±1. -/
def plusMinus (b : Bool) : Int := if b then 1 else -1

/-- The target of the branch that takes bit `b` from state `n`. -/
def prTarget (h : List Int) (n : Nat) (b : Bool) : Int :=
  h.getD 0 0 * plusMinus b + h.getD 1 0 * plusMinus (bitAt n 0) + h.getD 2 0 * plusMinus (bitAt n 1)
    + h.getD 3 0 * plusMinus (bitAt n 2)

/-- The metric of a branch: the equalised sample, its target, and the a-priori LLR of its bit. -/
def branch (h : List Int) (e : Int × Int) (n : Nat) (b : Bool) : Int :=
  Config.branchMetric e.1 (prTarget h n b) (if b then e.2 else 0)

/-- The state after a bit. -/
def nextTrellis (n : Nat) (b : Bool) : Nat := 2 * n % 8 + b2n b

/-- One forward step of the state metrics. -/
def forward (h : List Int) (e : Int × Int) (al : List Int) : List Int :=
  (List.range 8).map fun m =>
    let f := fun n => al.getD n 0 + branch h e n (bitAt m 0)
    max (f (m / 2)) (f (m / 2 + 4))

/-- One backward step of the state metrics. -/
def backward (h : List Int) (e : Int × Int) (be : List Int) : List Int :=
  (List.range 8).map fun n =>
    let f := fun b => be.getD (nextTrellis n b) 0 + branch h e n b
    max (f false) (f true)

/-- The largest of a list, 0 for none. -/
def maxOf : List Int → Int
  | [] => 0
  | x :: l => l.foldl max x

/-- The metric difference of one bit: the best path through a 1 less the best through a 0. -/
def bitDiff (h : List Int) (e : Int × Int) (al be : List Int) : Int :=
  let best := fun b => maxOf ((List.range 8).map fun n => al.getD n 0 + branch h e n b + be.getD (nextTrellis n b) 0)
  best true - best false

/-- A window: from the forward metrics on entry, the backward metrics on entry and the metric difference of every bit. -/
def detWindow (h : List Int) : List Int → List (Int × Int) → List Int × List Int
  | _, [] => (List.replicate 8 0, [])
  | al, e :: es =>
    let (be, ds) := detWindow h (forward h e al) es
    (backward h e be, bitDiff h e al be :: ds)

/-- The LLRs of a window: metric differences times `LLR_SCALE` in 1/16, saturated. -/
def windowLlr (h : List Int) (scale : Nat) (w : List (Int × Int)) : List Int :=
  (detWindow h (List.replicate 8 0) w).2.map fun d => sat6 (roundDiv (d * scale) 16)

/-- The LLRs of the bits `[done, …)` of a stream, window by window (R71): windows of 256 bits begin 192 bits apart, and of the 64 bits
two windows share the earlier delivers the first 32 and the later the rest (DEDUCED, log 154). With `flush` the last window may be
short and delivers its end. The first argument bounds the windows. -/
def detect (h : List Int) (scale : Nat) (flush : Bool) : Nat → Nat → List (Int × Int) → List Int
  | 0, _, _ => []
  | k + 1, done, l =>
    let start := done - 32
    let w := (l.drop start).take 256
    if w.length < 256 || l.length ≤ start + 256 && flush then
      if flush then (windowLlr h scale w).drop (done - start) else []
    else
      let out := ((windowLlr h scale w).take 224).drop (done - start)
      out ++ detect h scale flush k (start + 224) l

/-- A hard decision: a positive LLR favours 1, and a sign of 0 counts as positive (R71, R72). -/
def hard (l : Int) : Bool := 0 ≤ l

/-! 16/17 decoding (R72). -/

/-- The LLR of the exclusive or of two bits: `−sign × sign × min`. -/
def softXor (a b : Int) : Int :=
  let m : Int := min a.natAbs b.natAbs
  if hard a == hard b then -m else m

/-- The codeword LLRs of `n` words of 17, the control bit first. -/
def softDecode : Nat → List Int → List Int
  | 0, _ => []
  | n + 1, l =>
    match l with
    | [] => []
    | lc :: r => (r.take 16).map (softXor lc) ++ softDecode n (r.drop 16)

/-- A-priori LLRs of the channel bits of `n` words from codeword LLRs: each data bit's under the control bit's LLR, the control bit's 0
(DEDUCED, log 155). -/
def softEncode : Nat → List Int → List Int → List Int
  | 0, _, _ => []
  | n + 1, cw, l => 0 :: ((cw.take 16).map (softXor (l.headD 0)) ++ softEncode n (cw.drop 16) (l.drop 17))

/-! Layered normalised min-sum (R84). Columns are lists of 256 values. -/

/-- The columns of a codeword's values. The first argument counts columns. -/
def colsOf : Nat → List Int → List (List Int)
  | 0, _ => []
  | n + 1, l => fitTo 256 0 (l.take 256) :: colsOf n (l.drop 256)

/-- Rotate a column left: row `r` takes column `r + s` (R35). -/
def rot (s : Nat) (l : List Int) : List Int := l.drop s ++ l.take s

/-- The columns of block row `i` with their shifts (R35): 32 information columns, its parity column, and that of the row before. -/
def rowCols (i : Nat) : List (Nat × Nat) :=
  (List.range 32).map (fun j => (j, i * (4 * j + 1) % 256)) ++ [(32 + i, 0)] ++ (if i = 0 then [] else [(31 + i, 0)])

/-- The values of a codeword's bits and the check-to-bit messages of each block row. -/
structure Soft where
  post : List (List Int)
  msgs : List (List (List Int))
  deriving DecidableEq, Repr

/-- Of the messages into a check: parity of the 1s, the two smallest magnitudes, and which message has the smallest. -/
abbrev CheckAcc := Bool × Nat × Nat × Nat

/-- A message joins a check. -/
def checkIn (k : Nat) (a : CheckAcc) (v : Int) : CheckAcc :=
  let m := v.natAbs
  let p := a.1 != hard v
  if m < a.2.1 then (p, m, a.2.1, k) else (p, a.2.1, min a.2.2.1 m, a.2.2.2)

/-- The message back to bit `k` of a check: scaled by NORM/16. -/
def checkOut (norm k : Nat) (a : CheckAcc) (v : Int) : Int :=
  let m : Int := sat6 (roundDiv ((if a.2.2.2 = k then a.2.2.1 else a.2.1) * norm : Nat) 16)
  if a.1 != hard v then m else -m

/-- One block row of an iteration. -/
def layer (norm : Nat) (st : Soft) (i : Nat) : Soft :=
  let cs := rowCols i
  let old := st.msgs.getD i []
  let ins := cs.zipIdx.map fun e =>
    (List.zipWith (fun p m => sat6 (p - m)) (rot e.1.2 (st.post.getD e.1.1 [])) (fitTo 256 0 (old.getD e.2 [])))
  let acc := ins.zipIdx.foldl (fun (a : List CheckAcc) e => List.zipWith (checkIn e.2) a e.1) (List.replicate 256 (false, 63, 63, 99))
  let outs := ins.zipIdx.map fun e => List.zipWith (checkOut norm e.2) acc e.1
  let post := (cs.zip (ins.zip outs)).foldl (fun (p : List (List Int)) e =>
    p.set e.1.1 (rot (256 - e.1.2) (List.zipWith (· + ·) e.2.1 e.2.2))) st.post
  ⟨post, st.msgs.set i outs⟩

/-- One iteration: rows 0 to 3. -/
def ldpcIter (norm : Nat) (st : Soft) : Soft := (List.range 4).foldl (layer norm) st

/-- The hard decisions. -/
def Soft.bits (st : Soft) : List Bool := st.post.flatten.map hard

/-- What a decode leaves: decisions, values, final syndrome weight, iterations, the weight at the start and after one iteration. -/
structure Decoded where
  bits   : List Bool
  post   : List Int
  weight : Nat
  iters  : Nat
  initial : Nat
  first  : Nat
  deriving DecidableEq, Repr

/-- Iterate up to `n` more times; with `early` a decode stops at zero syndrome (R85). -/
def ldpcGo (norm : Nat) (early : Bool) : Nat → Nat → Nat → Nat → Soft → Decoded
  | 0, k, w0, w1, st => ⟨st.bits, st.post.flatten, syndromeWeight st.bits, k, w0, w1⟩
  | n + 1, k, w0, w1, st =>
    if early && syndromeWeight st.bits == 0 then ⟨st.bits, st.post.flatten, 0, k, w0, w1⟩
    else
      let st' := ldpcIter norm st
      ldpcGo norm early n (k + 1) w0 (if k = 0 then syndromeWeight st'.bits else w1) st'

/-- Decode 9,216 LLRs in at most `limit` iterations (R84, R85). -/
def ldpcRun (norm limit : Nat) (early : Bool) (llr : List Int) : Decoded :=
  let st : Soft := ⟨colsOf 36 (llr.map sat6), List.replicate 4 []⟩
  let w := syndromeWeight st.bits
  ldpcGo norm early limit 0 w w st

/-- The extrinsic LLRs of a decode: what it adds to its input (R87). -/
def Decoded.extrinsic (d : Decoded) (llr : List Int) : List Int := List.zipWith (fun p l => sat6 (p - l)) d.post llr

/-- Turbo iterations (R87): the detector with the extrinsic LLRs as a-priori input, then up to ITER_NORM LDPC iterations, `n` times at
most and no further once the syndrome is zero. -/
def turbo (det : List Int → List Int) (norm iters : Nat) (early : Bool) : Nat → List Int → Decoded → Decoded
  | 0, _, d => d
  | n + 1, llr, d =>
    if d.weight = 0 then d
    else
      let llr' := det (d.extrinsic llr)
      turbo det norm iters early n llr' (ldpcRun norm iters early llr')

/-! Stored frames (R91, R92). -/

/-- A read added into an 8-bit accumulator. -/
def combine (a l : Int) : Int := clampInt (-127) 127 (a + l)

/-- What the decoder takes from an accumulator: times COMB_GAIN/16, saturated. -/
def taken (gain : Nat) (a : Int) : Int := sat6 (roundDiv (a * gain) 16)

/-- The codeword LLRs among a frame's 9,936 channel-bit LLRs: past the sync mark and the header (R29). -/
def codewordLlr (l : List Int) : List Int := softDecode 576 (l.drop 144)

end Sys2Proof.Machine
end

