-- ==== Sys2Proof/Machine/LaneOps.lean ====
section
/-! DEFINITION. A lane's memories and what is read from them: coefficients, correction values, the zone start values that await their
first frame, the aligned stream around a position, blanks, quality, and the decoder pool (R58 to R70, R74, R76, R80, R86, R91, R97). -/

namespace Sys2Proof.Machine
open Sys2Proof

/-- Change a channel's read path. -/
def State.modRd (s : State) (c : Fin 16) (f : ReadPath → ReadPath) : State := s.modCh c fun x => { x with rd := f x.rd }

/-- Change a lane's loops and memories. -/
def State.modLoops (s : State) (c : Fin 16) (l : Fin 8) (f : LaneLoops → LaneLoops) : State :=
  s.modRd c fun r => { r with loops := r.loops.set l (f r.loops[l]) }

/-- Change a lane's frame sync. -/
def State.modLane (s : State) (c : Fin 16) (l : Nat) (f : Lane → Lane) : State :=
  s.modRd c fun r => { r with lanes := r.lanes.zipIdx.map fun e => if e.2 == l then f e.1 else e.1 }

/-- The frame sync of a lane. -/
def ReadPath.lane (r : ReadPath) (l : Nat) : Lane := r.lanes.getD l Lane.off

/-- Whether a Bramble flag is active on a lane. -/
def State.brm (s : State) (c : Fin 16) (l : Nat) : Bool := bitAt (s.ch c).rd.flags l

/-! Coefficients (R69, R99). -/

/-- Whether a lane has a tap: lane 0 has no inner neighbour, lane 7 no outer one (R69). -/
def hasTap (l t : Nat) : Bool := t < 25 && !(l == 0 && 15 ≤ t && t < 20) && !(l == 7 && 20 ≤ t)

/-- The index of a coefficient: lane, set (0 primary, 1 alternate), tap. -/
def eqIndex (l set t : Nat) : Nat := l * 64 + set * 32 + t

/-- A coefficient put; a tap the lane has not stays 0. -/
def State.putCoef (s : State) (c : Fin 16) (l set t : Nat) (v : Nat) : State :=
  if hasTap l t then s.tput .eqCoef (chRg c) (eqIndex l set t) (v % 2 ^ 16) else s

/-- Whether a ladder keeps the alternate set in use (Table 3-8 step 3). -/
def ReadPath.altSet (r : ReadPath) : Bool := r.clusters.any (·.alt)

/-- The 25 coefficients of a lane's set. With `XTC.CTL.EN` clear only c_own tap 7 passes, as 1.0 (Table 3-11). -/
def State.coefs (s : State) (c : Fin 16) (l set : Nat) : List Int :=
  if s.cr c F.XTC_CTL_EN = 0 then (List.range 25).map fun t => if t = 7 then 4096 else 0
  else (List.range 25).map fun t => toSigned 16 (s.tget .eqCoef (chRg c) (eqIndex l set t))

/-- The PR target of a lane. -/
def State.prCur (s : State) (c : Fin 16) (l : Nat) : List Int :=
  (List.range 4).map fun i => toSigned 8 (s.cr c (F.BRC_PR_CUR l i))

/-! Values in force (R58 to R64). -/

/-- A lane's correction values in `CORR_CUR`: o in 1/4 LSB, g in Q2.14, a in 1/128 (R60). -/
def State.showCorr (s : State) (c : Fin 16) (l : Fin 8) : State :=
  let x := (s.ch c).rd.loops[l]
  s.wrs (chRg c) [
    (F.BRC_CORR_CUR_OFS l, ofSigned 8 (clampInt (-128) 127 (x.ofs / 2 ^ 22))),
    (F.BRC_CORR_CUR_GAIN l, (clampInt 0 65535 (x.gain / 2 ^ 10)).toNat),
    (F.BRC_CORR_CUR_ASYM l, ofSigned 8 (clampInt (-128) 127 (x.asym / 2 ^ 17)))]

/-- The front end in force at a frame boundary: the override while OVR_EN is set, else the zone table's values (R58). -/
def State.showAfe (s : State) (c : Fin 16) (l : Fin 8) : State :=
  let x := (s.ch c).rd.loops[l]
  let ovr := s.cr c (F.BRC_AFE_OVR_OVR_EN l) == 1
  s.wrs (chRg c) [
    (F.BRC_AFE_CUR_GAIN l, if ovr then s.cr c (F.BRC_AFE_OVR_GAIN l) else x.afeGain),
    (F.BRC_AFE_CUR_BOOST l, if ovr then s.cr c (F.BRC_AFE_OVR_BOOST l) else x.afeBoost)]

/-- One lane's start values (Table 3-4) take effect: adaptation restarts from them. -/
def State.loadLane (s : State) (c : Fin 16) (l : Fin 8) (b : List Byte) : State :=
  let f := fun o n => leNat ((b.drop o).take n)
  let s1 := s.modLoops c l fun x => { x with
    afeGain := min 30 (f 0 1), afeBoost := min 12 (f 1 1), due := none
    ofs := toSigned 8 (f 2 1) * 2 ^ 22, asym := toSigned 8 (f 3 1) * 2 ^ 17, gain := (f 4 2 : Nat) * 2 ^ 10 }
  let s2 := (List.range 4).foldl (fun s i => s.cw c (F.BRC_PR_CUR l i) (f (8 + i) 1)) s1
  let s3 := (List.range 25).foldl (fun s t =>
    (s.putCoef c l 0 t (f (12 + 2 * t) 2)).putCoef c l 1 t (f (62 + 2 * t) 2)) s2
  s3.showCorr c l

/-- Before a lane's first frame in the zone of a fetched entry, the entry takes effect (R63). -/
def State.zoneDue (s : State) (c : Fin 16) (l : Fin 8) : State :=
  match (s.ch c).rd.loops[l].due with
  | none => s
  | some z =>
    let a := frameAddr ((s.ch c).rd.lane l).next
    if a.layer = z.layer ∧ a.zone = z.zone then s.loadLane c l z.bytes else s

/-- A boundary between two frames of a lane: the entry of a new zone, coefficients written, the front end, the sub-converter skews, and
the timing lock of the frame that ended (R58, R59, R63, R99, Table 3-10); between two clusters also the alignment delay and Bramble's
thresholds (R68, R82). The lane's predicted address is that of the frame that begins. -/
def State.frameBoundary (s : State) (c : Fin 16) (l : Fin 8) : State :=
  let s0 := s.zoneDue c l
  let mine := (s0.ch c).rd.eqDue.filter fun e => e.1 / 64 == l.val
  let s1 := mine.foldl (fun (s : State) (e : Nat × Nat) => s.putCoef c l (e.1 / 32 % 2) (e.1 % 32) e.2) s0
  let s2 := s1.modRd c fun r => { r with eqDue := r.eqDue.filter fun e => e.1 / 64 != l.val }
  let near := (s.ch c).rd.loops[l].near
  let now := decide ((toSigned 16 (s.cr c (F.BRC_TR_STS_FERR l))).natAbs ≤ 500)
  let first := (frameAddr ((s.ch c).rd.lane l).next).place.2 / 8 = 0
  let s3 := (s2.cw c (F.BRC_TR_STS_LOCK l) (b2n near)).modLoops c l fun x => { x with
    near := now, skew := (List.range 8).map fun i => s.cr c (F.BRC_SK l i)
    align := if first then s.cr c (F.XTC_ALIGN l) else x.align
    thrLo := if first then s.cr c (F.BRM_THR_LO l) else x.thrLo
    thrHi := if first then s.cr c (F.BRM_THR_HI l) else x.thrHi }
  s3.showAfe c l

/-! The aligned stream (R74, R76, R80, R91). -/

/-- `n` elements of a stream that begins at number `base`, from number `q` on; those it does not hold are `d`. -/
def sliceAt {α : Type} (base : Nat) (l : List α) (d : α) (q : Int) (n : Nat) : List α :=
  fitTo n d (List.replicate (min n (base - q).toNat) d ++ l.drop (q - base).toNat)

/-- How many of the 48 decisions differ from the sync mark (R29). -/
def markDiff (w : List Bool) : Nat := ((w.zip syncMark).filter fun e => e.1 != e.2).length

/-- Offsets from `o` on at which 48 decisions stand, with those that differ from the sync mark. The first argument counts offsets. -/
def marksFrom : Nat → Int → List Bool → List (Int × Nat)
  | 0, _, _ => []
  | n + 1, o, l => if (l.take 48).length < 48 then [] else (o, markDiff (l.take 48)) :: marksFrom n (o + 1) (l.drop 1)

/-- The positions within `win` bits of P, as offsets from it, with their differing decisions (R74). -/
def LaneLoops.marks (x : LaneLoops) (pos : Int) (win : Nat) : List (Int × Nat) :=
  let first := max (pos - win) x.base
  let n := (pos + win + 1 - first).toNat
  marksFrom n (first - pos) (((x.llr.drop (first - x.base).toNat).take (n + 47)).map hard)

/-- The hard decisions of a header whose frame stands at `q`. -/
def LaneLoops.header (x : LaneLoops) (q : Int) : List Bool := (sliceAt x.base x.llr 0 (q + 48) 96).map hard

/-- The codeword LLRs of the frame at `q`. -/
def LaneLoops.codeword (x : LaneLoops) (q : Int) : List Int := codewordLlr (sliceAt x.base x.llr 0 q 9936)

/-- The aligned resampled samples of the frame at `q`. -/
def LaneLoops.samples (x : LaneLoops) (q : Int) : List Int :=
  (sliceAt x.base x.bits ⟨0, 0, 0, false⟩ q 9936).map (·.x)

/-- Whether the sample memory holds the whole frame at `q`. -/
def LaneLoops.holds (x : LaneLoops) (q : Nat) : Bool := x.base ≤ q && q + 9936 ≤ x.base + x.bits.length

/-- The bits of the frame at `q` that the memory holds. -/
def LaneLoops.frameBits (x : LaneLoops) (q : Int) : List BitRec :=
  (x.bits.drop (q - x.base).toNat).take (9936 - (x.base - q).toNat)

/-- The number of the next bit of the aligned stream. -/
def LaneLoops.end_ (x : LaneLoops) : Nat := x.base + x.bits.length

/-- The envelopes of consecutive windows of `w` bits, whole ones only (R80). The first argument bounds the windows. -/
def envelopes (w : Nat) : Nat → List BitRec → List Int
  | 0, _ => []
  | n + 1, l =>
    if (l.take w).length < w then []
    else envelope ((l.take w).map fun b => (b.lo, b.hi)) :: envelopes w n (l.drop w)

/-- Whether an envelope lies below the blank threshold of a lane (R80). -/
def State.belowBlank (s : State) (c : Fin 16) (l : Nat) (e : Int) : Bool :=
  256 * e < (s.cr c F.FSY_BLANK_CTL_BLANK_THR * s.cr c (F.BRC_ADAPT_CTL_GAIN_TGT l) : Nat)

/-- Whether the envelope of the last 64 bits of a stream, latest first, lies below the blank threshold (Table 3-5). A shorter stream
has no window yet. -/
def State.lowNow (s : State) (c : Fin 16) (l : Nat) (rev : List BitRec) : Bool :=
  (rev.take 64).length == 64 && s.belowBlank c l (envelope ((rev.take 64).map fun b => (b.lo, b.hi)))

/-- The last `n` bits of a lane's aligned stream. -/
def LaneLoops.recent (x : LaneLoops) (n : Nat) : List BitRec := x.bits.drop (x.bits.length - n)

/-- Bramble's view of the last `n` bits of a lane (R82): their 8-bit windows' envelopes against GAIN_TGT, in 1/128, and the thresholds in
force; none where the stream is shorter. -/
def State.brambleWindows (s : State) (c : Fin 16) (l : Fin 8) (n : Nat) : Option (List (Int × Int)) :=
  let x := (s.ch c).rd.loops[l]
  let k := (n + 7) / 8
  let es := envelopes 8 k (x.recent (8 * k))
  if es.length < k then none else some (es.map fun e => (128 * e, (s.cr c (F.BRC_ADAPT_CTL_GAIN_TGT l) : Int)))

/-- The envelope has stayed below the low threshold, or above the high one, for MIN_LEN bits (R82). -/
def State.brambleOut (s : State) (c : Fin 16) (l : Fin 8) : Bool :=
  let x := (s.ch c).rd.loops[l]
  match s.brambleWindows c l (s.cr c F.BRM_CTL_MIN_LEN) with
  | none => false
  | some ws => (ws.all fun w => w.1 < x.thrLo * w.2) || ws.all fun w => w.1 > x.thrHi * w.2

/-- The envelope has been inside the thresholds for HOLD bits (R82). -/
def State.brambleIn (s : State) (c : Fin 16) (l : Fin 8) : Bool :=
  let x := (s.ch c).rd.loops[l]
  match s.brambleWindows c l (s.cr c F.BRM_CTL_HOLD) with
  | none => false
  | some ws => ws.all fun w => x.thrLo * w.2 ≤ w.1 && w.1 ≤ x.thrHi * w.2

/-- The lane registers. -/
def State.laneSts (s : State) (c : Fin 16) (l sync k : Nat) : State :=
  s.wrs (chRg c) [(F.BRC_LANE_STS_SYNC l, sync), (F.BRC_LANE_STS_FLYCNT l, k)]

/-- The sync candidate taken (R74): fewest differing bits, then nearest P, then earlier. -/
def candidate (thr win : Nat) (marks : List (Int × Nat)) : Option Int :=
  let ok := marks.filter fun m => m.1.natAbs ≤ win && m.2 ≤ thr
  ok.foldl (fun a m => match a with
    | none => some m
    | some b =>
      let near := m.1.natAbs < b.1.natAbs || (m.1.natAbs == b.1.natAbs && m.1 < b.1)
      if m.2 < b.2 || (m.2 == b.2 && near) then some m else a) none |>.map (·.1)

/-- Whether the frame at `q` is blank (R80): a low envelope in enough of its 64-bit windows, and no candidate within 256 bits of P. -/
def State.isBlank (s : State) (c : Fin 16) (l : Fin 8) (q : Int) : Bool :=
  let x := (s.ch c).rd.loops[l]
  let es := envelopes 64 156 (x.frameBits q)
  es.length != 0 && 256 * (es.filter (s.belowBlank c l)).length ≥ s.cr c F.FSY_BLANK_CTL_BLANK_FRAC * es.length
    && (candidate (s.cr c (F.FSY_SYNC_THR l)) 256 (x.marks ((s.ch c).rd.lane l).pos 256)).isNone

/-! Quality (Table 3-9). -/

/-- A lane's SNR in 0.25 dB: the greatest step not above GAIN_TGT² against the mean of e², held at 63.75 dB; 0 where nothing was
measured. -/
def snrOf (gain sumSq n : Nat) : Nat :=
  if n = 0 then 0
  else (((List.range 256).reverse).find? fun q => 10 ^ q * sumSq ^ 40 ≤ (gain * gain * n) ^ 40).getD 0

/-- Timing jitter RMS in 1/256 channel bit, held at 255. -/
def jitterOf (sumSq n : Nat) : Nat := if n = 0 then 0 else min 255 (isqrt (sumSq / n))

/-! The decoder pool (R86). -/

/-- The job to be taken next: the first of the lowest class. -/
def nextJob : List Job → Option Job
  | [] => none
  | j :: js => match nextJob js with
    | some k => if k.cls < j.cls then some k else some j
    | none => some j

/-- Free cores take waiting codewords in order of class. The first argument bounds the cores. -/
def ReadPath.feed : Nat → ReadPath → ReadPath
  | 0, r => r
  | n + 1, r =>
    match r.cores.findIdx? (·.isNone), nextJob r.queue with
    | some i, some j => ReadPath.feed n { r with cores := r.cores.set i (some j), queue := r.queue.erase j }
    | _, _ => r

/-- A codeword joins the queue. -/
def ReadPath.enqueue (r : ReadPath) (j : Job) : ReadPath := ReadPath.feed 8 { r with queue := r.queue ++ [j] }

/-- Whether the pool still holds a codeword. -/
def ReadPath.pending (r : ReadPath) (p : Job → Bool) : Bool := r.queue.any p || r.cores.any fun c => c.elim false p

/-- Codewords that wait are withdrawn; one in progress is never interrupted (R86). -/
def ReadPath.withdraw (r : ReadPath) (p : Job → Bool) : ReadPath := { r with queue := r.queue.filter fun j => !p j }

end Sys2Proof.Machine
end

