-- ==== Sys2Proof/Machine/Coder.lean ====
section
/-! DEFINITION. The block coder: half-slot coding, reading DEFLATE streams, the block header, encryption of a stored block, and the
checks of the read path (R274 to R290). -/

namespace Sys2Proof.Machine
open Sys2Proof

/-! Half-slot coding (R276 to R278). -/

/-- The class tag and the payload bytes of a word after the word before it (Table 9-3). -/
def hsWord (prev w : Nat) : Nat × List Byte :=
  if w = 0 then (0, [])
  else if w = prev then (1, [])
  else
    let d := (w + 2 ^ 64 - prev) % 2 ^ 64
    if d < 2 ^ 31 ∨ 2 ^ 64 - 2 ^ 31 ≤ d then (2, leBytes 4 d) else (3, leBytes 8 w)

/-- Tags and payloads of words, each after its predecessor. -/
def hsWords : Nat → List Nat → List (Nat × List Byte)
  | _, [] => []
  | prev, w :: ws => hsWord prev w :: hsWords w ws

/-- The little-endian 64-bit words of bytes. The first argument counts words. -/
def leWords : Nat → List Byte → List Nat
  | 0, _ => []
  | n + 1, l => leNat (l.take 8) :: leWords n (l.drop 8)

/-- Four tags to a byte. The first argument counts bytes. -/
def tagBytes : Nat → List Nat → List Byte
  | 0, _ => []
  | n + 1, l =>
    BitVec.ofNat 8 (l.getD 0 0 + 4 * l.getD 1 0 + 16 * l.getD 2 0 + 64 * l.getD 3 0) :: tagBytes n (l.drop 4)

/-- The half-slot form of a block; `none` where the coder refuses it (R277). -/
def hsEncode (block : List Byte) : Option (List Byte) :=
  let ws := hsWords 0 (leWords 512 block)
  let payload := ws.flatMap (·.2)
  if payload.length > 1920 then none
  else some (tagBytes 128 (ws.map (·.1)) ++ payload ++ zeros (1920 - payload.length))

/-- Rebuild words from tags and payload bytes (R278). -/
def hsRebuild : List Nat → Nat → List Byte → List Nat
  | [], _, _ => []
  | t :: ts, prev, p =>
    match t with
    | 0 => 0 :: hsRebuild ts 0 p
    | 1 => prev :: hsRebuild ts prev p
    | 2 =>
      let d := toSigned 32 (leNat (p.take 4))
      let w := (((prev : Int) + d) % (2 ^ 64 : Nat)).toNat
      w :: hsRebuild ts w (p.drop 4)
    | _ => let w := leNat (p.take 8); w :: hsRebuild ts w (p.drop 8)

/-- The payload bytes a tag takes. -/
def tagSize (t : Nat) : Nat := if t = 2 then 4 else if t = 3 then 8 else 0

/-- Decode a half-slot form; `none` is a header error. -/
def hsDecode (coded : List Byte) : Option (List Byte) :=
  let tags := (coded.take 128).flatMap fun b => [bitsAt b.toNat 0 2, bitsAt b.toNat 2 2, bitsAt b.toNat 4 2, bitsAt b.toNat 6 2]
  if (tags.map tagSize).sum > 1920 then none
  else some ((hsRebuild tags 0 (coded.drop 128)).flatMap (leBytes 8))

/-! Reading DEFLATE (R281; RFC 1951). -/

/-- Bits of bytes, least significant first. -/
def lsbBits (l : List Byte) : List Bool := l.flatMap fun b => (List.range 8).map (bitAt b.toNat)

/-- Take `n` bits as a number, least significant first. -/
def takeBits (n : Nat) (l : List Bool) : Option (Nat × List Bool) :=
  if l.length < n then none else some ((l.take n).foldr (fun b a => 2 * a + b2n b) 0, l.drop n)

/-- A canonical prefix code: for each symbol its length and its code. -/
abbrev Huff := List (Nat × Nat × Nat)

/-- The codes of a list of lengths (RFC 1951, 3.2.2); `none` where they over-subscribe. -/
def huffOf (lens : List Nat) : Option Huff :=
  let cnt := fun n => (lens.filter (· == n)).length
  let kraft := (List.range 15).foldl (fun a i => a + cnt (i + 1) * 2 ^ (14 - i)) 0
  if kraft > 2 ^ 15 then none
  else
    let first := (List.range 15).foldl (fun (st : List Nat × Nat) i =>
      let code := (st.2 + (if i = 0 then 0 else cnt i)) * 2
      (st.1 ++ [code], code)) ([], 0)
    some ((lens.zipIdx.foldl (fun (st : Huff × List Nat) e =>
      if e.1 = 0 then st
      else
        let code := st.2.getD (e.1 - 1) 0
        ((e.1, code, e.2) :: st.1, st.2.set (e.1 - 1) (code + 1))) ([], first.1)).1)

/-- Read one symbol, bit by bit. The first argument bounds the length. -/
def huffRead (h : Huff) : Nat → Nat → Nat → List Bool → Option (Nat × List Bool)
  | 0, _, _, _ => none
  | _, _, _, [] => none
  | n + 1, len, code, b :: bs =>
    let code' := 2 * code + b2n b
    match h.find? (fun e => e.1 == len + 1 && e.2.1 == code') with
    | some e => some (e.2.2, bs)
    | none => huffRead h n (len + 1) code' bs

/-- Base length and extra bits of length symbol 257 + i. -/
def lenTable : List (Nat × Nat) :=
  [(3, 0), (4, 0), (5, 0), (6, 0), (7, 0), (8, 0), (9, 0), (10, 0), (11, 1), (13, 1), (15, 1), (17, 1), (19, 2), (23, 2), (27, 2),
   (31, 2), (35, 3), (43, 3), (51, 3), (59, 3), (67, 4), (83, 4), (99, 4), (115, 4), (131, 5), (163, 5), (195, 5), (227, 5), (258, 0)]

/-- Base distance and extra bits of distance symbol i. -/
def distTable : List (Nat × Nat) :=
  [(1, 0), (2, 0), (3, 0), (4, 0), (5, 1), (7, 1), (9, 2), (13, 2), (17, 3), (25, 3), (33, 4), (49, 4), (65, 5), (97, 5), (129, 6),
   (193, 6), (257, 7), (385, 7), (513, 8), (769, 8), (1025, 9), (1537, 9), (2049, 10), (3073, 10), (4097, 11), (6145, 11),
   (8193, 12), (12289, 12), (16385, 13), (24577, 13)]

/-- The fixed literal and length code. -/
def fixedLens : List Nat :=
  List.replicate 144 8 ++ List.replicate 112 9 ++ List.replicate 24 7 ++ List.replicate 8 8

/-- Copy `n` bytes from `d` back in a reversed output. -/
def copyBack (d : Nat) : Nat → List Byte → List Byte
  | 0, out => out
  | n + 1, out => copyBack d n (out.getD (d - 1) 0 :: out)

/-- The symbols of a compressed block up to its end, on a reversed output of at most 4,096 bytes. The first argument bounds the
number of symbols. -/
def inflateSyms (lit dist : Huff) : Nat → List Bool → List Byte → Option (List Bool × List Byte)
  | 0, _, _ => none
  | n + 1, bits, out =>
    match huffRead lit 15 0 0 bits with
    | none => none
    | some (s, bits) =>
      if s < 256 then
        (if out.length < 4096 then inflateSyms lit dist n bits (BitVec.ofNat 8 s :: out) else none)
      else if s = 256 then some (bits, out)
      else
        match lenTable[s - 257]? with
        | none => none
        | some (lb, le) =>
          match takeBits le bits with
          | none => none
          | some (lx, bits) =>
            match huffRead dist 15 0 0 bits with
            | none => none
            | some (ds, bits) =>
              match distTable[ds]? with
              | none => none
              | some (db, de) =>
                match takeBits de bits with
                | none => none
                | some (dx, bits) =>
                  if db + dx ≤ out.length && out.length + lb + lx ≤ 4096 then
                    inflateSyms lit dist n bits (copyBack (db + dx) (lb + lx) out)
                  else none

/-- The order of code length codes. -/
def clOrder : List Nat := [16, 17, 18, 0, 8, 7, 9, 6, 10, 5, 11, 4, 12, 3, 13, 2, 14, 1, 15]

/-- Read the code lengths of a dynamic block. The first argument bounds the symbols read. -/
def readLens (h : Huff) : Nat → Nat → List Nat → List Bool → Option (List Nat × List Bool)
  | 0, want, acc, bits => if acc.length = want then some (acc, bits) else none
  | n + 1, want, acc, bits =>
    if acc.length = want then some (acc, bits)
    else if acc.length > want then none
    else
      match huffRead h 7 0 0 bits with
      | none => none
      | some (s, bits) =>
        if s < 16 then readLens h n want (acc ++ [s]) bits
        else
          let extra := if s = 16 then 2 else if s = 17 then 3 else 7
          match takeBits extra bits with
          | none => none
          | some (x, bits) =>
            if s = 16 then
              (match acc.getLast? with
               | none => none
               | some p => readLens h n want (acc ++ List.replicate (3 + x) p) bits)
            else readLens h n want (acc ++ List.replicate ((if s = 17 then 3 else 11) + x) 0) bits

/-- The codes of a dynamic block, and the bits after their description. -/
def dynamicCodes (bits : List Bool) : Option (Huff × Huff × List Bool) :=
  match takeBits 14 bits with
  | none => none
  | some (v, bits) =>
    let hlit := v % 32 + 257
    let hdist := v / 32 % 32 + 1
    let hclen := v / 1024 + 4
    match takeBits (3 * hclen) bits with
    | none => none
    | some (cl, bits) =>
      let lens := (List.range 19).map fun sym =>
        match clOrder.findIdx? (· == sym) with
        | some i => if i < hclen then cl / 2 ^ (3 * i) % 8 else 0
        | none => 0
      match huffOf lens with
      | none => none
      | some h =>
        match readLens h 320 (hlit + hdist) [] bits with
        | none => none
        | some (ls, bits) =>
          match huffOf (ls.take hlit), huffOf (ls.drop hlit) with
          | some a, some b => some (a, b, bits)
          | _, _ => none

/-- Blocks up to one with BFINAL set. `total` is the number of bits in the stream; the first argument bounds the blocks. -/
def inflateBlocks (total : Nat) : Nat → List Bool → List Byte → Option (List Byte)
  | 0, _, _ => none
  | n + 1, bits, out =>
    match takeBits 3 bits with
    | none => none
    | some (hd, bits) =>
      let body : Option (List Bool × List Byte) :=
        match hd / 2 with
        | 0 =>
          let bits := bits.drop ((8 - (total - bits.length) % 8) % 8)
          (match takeBits 32 bits with
           | none => none
           | some (v, bits) =>
             let len := v % 65536
             if v / 65536 + len ≠ 65535 ∨ bits.length < 8 * len ∨ out.length + len > 4096 then none
             else
               let bytes := (List.range len).map fun i => BitVec.ofNat 8 (((takeBits 8 (bits.drop (8 * i))).map (·.1)).getD 0)
               some (bits.drop (8 * len), bytes.reverse ++ out))
        | 1 =>
          (match huffOf fixedLens, huffOf (List.replicate 30 5) with
           | some a, some b => inflateSyms a b 4200 bits out
           | _, _ => none)
        | 2 =>
          (match dynamicCodes bits with
           | some (a, b, bits) => inflateSyms a b 4200 bits out
           | none => none)
        | _ => none
      match body with
      | none => none
      | some (bits, out) => if hd % 2 = 1 then some out else inflateBlocks total n bits out

/-- Decode a raw DEFLATE stream to exactly 4,096 bytes; `none` is a header error (R281). -/
def inflate (coded : List Byte) : Option (List Byte) :=
  let bits := lsbBits coded
  match inflateBlocks bits.length (bits.length + 1) bits [] with
  | some out => if out.length = 4096 then some out.reverse else none
  | none => none

/-! Coding a block (R274, R279, R280, R282). -/

/-- The coder settings of `CMP.CTL`, with whether compression is enabled at all. -/
structure CoderSet where
  on      : Bool
  hs      : Bool
  defl    : Bool
  check   : Bool
  /-- LAZY, DEFL_MODE and CHAIN, which fix the DEFLATE stream (R279) -/
  setting : Nat
  deriving DecidableEq, Repr

/-- A coded block: method, coded data, and whether a check of R282 failed. -/
structure Coded where
  method : Nat
  data   : List Byte
  failed : Bool
  deriving DecidableEq, Repr

/-- Whether the check of R282 passes a coded form. -/
def checkOk (set : CoderSet) (block : List Byte) (decoded : Option (List Byte)) : Bool :=
  !set.check || (match decoded with
    | some d => crc32c d == crc32c block
    | none => false)

/-- The DEFLATE form of a block, when it is accepted (R280). The stream is the device's own fixed function of the input and the
settings (R279), which the spec leaves open: `Config.deflate`. -/
def deflForm (set : CoderSet) (block : List Byte) : Option (List Byte) :=
  let d := Config.deflate set.setting block
  if set.defl && 1 ≤ d.length && d.length ≤ 4080 then some d else none

/-- Code a block by the first method that accepts it (R274), raw where the check fails (R282). -/
def codeBlock (set : CoderSet) (block : List Byte) : Coded :=
  if !set.on then ⟨0, block, false⟩
  else match (if set.hs then hsEncode block else none) with
    | some h => if checkOk set block (hsDecode h) then ⟨1, h, false⟩ else ⟨0, block, true⟩
    | none =>
      match deflForm set block with
      | some d => if checkOk set block (inflate d) then ⟨2, d, false⟩ else ⟨0, block, true⟩
      | none => ⟨0, block, false⟩

/-! The stored block (R275, R284). -/

/-- Bytes as numbers and back, for the cipher. -/
def toNats (l : List Byte) : List Nat := l.map (·.toNat)
def ofNats (l : List Nat) : List Byte := l.map (BitVec.ofNat 8)

/-- Encrypt or decrypt a data unit with a 64-byte key pair, tweak the LBA (R284). -/
def xtsUnit (enc : Bool) (key : List Byte) (lba : Nat) (unit : List Byte) : List Byte :=
  let k := toNats key
  let tw := toNats (leBytes 16 lba)
  ofNats ((if enc then xtsEnc else xtsDec) (k.take 32) (k.drop 32) tw (toNats unit))

/-- Bytes 0 to 11 of a block header. -/
def headerHead (method flags coded lba crc : Nat) : List Byte :=
  leBytes 1 method ++ leBytes 1 flags ++ leBytes 2 coded ++ leBytes 2 lba ++ leBytes 2 0 ++ leBytes 4 crc

/-- A stored block of methods 0 to 2, encrypted when a key pair is given (Table 9-2). -/
def storedBlock (key : Option (List Byte)) (lba crc : Nat) (c : Coded) : List Byte :=
  let pad := if key.isSome && c.data.length < 16 then 16 - c.data.length else 0
  let flags := b2n key.isSome + 2 * (if pad = 0 then 0 else 1)
  let head := headerHead c.method flags c.data.length lba crc
  let unit := c.data ++ zeros pad
  head ++ leBytes 4 (crc32c head) ++ (match key with
    | some k => xtsUnit true k lba unit
    | none => unit)

/-- A stored block of method 3: the bytes alone (R284). -/
def directBlock (key : Option (List Byte)) (lba : Nat) (block : List Byte) : List Byte :=
  match key with
  | some k => xtsUnit true k lba block
  | none => block

/-! Reading back (R289, R290). -/

/-- What the read path makes of a stored block. -/
inductive BlockRead where
  | ok (data : List Byte)
  /-- a failed header step or decode -/
  | header
  /-- the CRC-32C differs -/
  | crc
  /-- encrypted, without the key (R286) -/
  | denied
  deriving DecidableEq, Repr

/-- Decode coded data of a method. -/
def decodeMethod (method : Nat) (coded : List Byte) : Option (List Byte) :=
  match method with
  | 0 => if coded.length = 4096 then some coded else none
  | 1 => if coded.length = 2048 then hsDecode coded else none
  | 2 => inflate coded
  | _ => none

/-- Compare with the entry's check value. -/
def crcCheck (check : Nat) (d : List Byte) : BlockRead := if crc32c d = check then .ok d else .crc

/-- Check and decode a stored block of methods 0 to 2 (R289): its bytes, and the entry's LBA, method and check value. -/
def readStored (key : Option (List Byte)) (stored : List Byte) (lba method check : Nat) : BlockRead :=
  let f := fun o n => leNat ((stored.drop o).take n)
  let len := f 2 2
  let padded := bitAt (f 1 1) 1
  let pad := if padded then 16 - len else 0
  if stored.length < 16 ∨ f 12 4 ≠ crc32c (stored.take 12) then .header
  else if f 0 1 ≠ method ∨ f 4 2 ≠ lba % 65536 ∨ f 8 4 ≠ check then .header
  else if (stored.length != 16 + len + pad) || (padded && 16 ≤ len) then .header
  else
    let unit := stored.drop 16
    if bitAt (f 1 1) 0 then
      (match key with
       | none => .denied
       | some k => match decodeMethod method ((xtsUnit false k lba unit).take len) with
         | some d => crcCheck check d
         | none => .header)
    else match decodeMethod method (unit.take len) with
      | some d => crcCheck check d
      | none => .header

/-- Check a block of method 3: the entry's LBA must be the LBA sought (R289). -/
def readDirect (encrypted : Bool) (key : Option (List Byte)) (stored : List Byte) (entryLba lba check : Nat) : BlockRead :=
  if entryLba ≠ lba then .header
  else if encrypted then
    (match key with
     | none => .denied
     | some k => crcCheck check (xtsUnit false k lba stored))
  else crcCheck check stored

end Sys2Proof.Machine
end

