-- ==== Sys2Proof/Machine/Outer.lean ====
section
/-! DEFINITION. Outer decoding of a cluster: both passes, the forced-erasure pass, the descriptor, salvage, and the blank and scar
patterns (R43, R44, R81, R88, R89, R95). -/

namespace Sys2Proof.Machine
open Sys2Proof

/-- What outer decoding made of a cluster: the 68 payload and descriptor rows, corrected wherever a codeword decoded, which codewords
decoded, and the largest erasure and error counts. -/
structure Outer where
  rows   : List (List Byte)
  good   : List Bool
  second : Bool
  erased : Nat
  errors : Nat
  deriving DecidableEq, Repr

/-- A frame that has not been seen: FAILED, with nothing in it. -/
def noFrame : FrameRes :=
  { blank := true, decided := true, ok := false, info := zeros 1024, weight := 1024, iters := 0, initial := 1024, suspect := false
    flagged := 0, sync := 5, addr := 0, at_ := 0, llr := [] }

/-- The 80 frames of a cluster by position. -/
def ClusterRead.frameList (r : ClusterRead) : List FrameRes := (List.range 80).map fun p => SMap.get r.frames p noFrame

/-- Positions whose frame satisfies a test. -/
def positions (fs : List FrameRes) (p : FrameRes → Bool) : List Nat := (fs.zipIdx.filter fun e => p e.1).map (·.2)

/-- FAILED frames, and CONVERGED suspect frames. -/
def failedPos (fs : List FrameRes) : List Nat := positions fs fun f => !f.ok
def suspectPos (fs : List FrameRes) : List Nat := positions fs fun f => f.ok && f.suspect

/-- Decode all 1,024 codewords with the positions `er` erased and at most `t` errors each (R39). -/
def rsPass (fs : List FrameRes) (er : List Nat) (t : Nat) (second : Bool) : Outer :=
  let rows := fs.map (·.info)
  let ws := (List.range 1024).map fun j =>
    let w := column rows j
    match if er.length > 12 then none else rsDecode w er t with
    | some (x, n) => (x.take 68, true, n)
    | none => (w.take 68, false, 0)
  let cols := ws.map (·.1)
  ⟨(List.range 68).map fun p => cols.map fun x => BitVec.ofNat 8 (x.getD p 0), ws.map (·.2.1), second, er.length,
    ws.foldl (fun a w => max a w.2.2) 0⟩

/-- Whether every codeword decoded. -/
def Outer.all (o : Outer) : Bool := o.good.all id

/-- Codewords not decoded. -/
def Outer.bad (o : Outer) : Nat := (o.good.filter (!·)).length

/-- The two passes of R88. -/
def outerDecode (fs : List FrameRes) (suspectErase : Bool) : Outer :=
  let fl := failedPos fs
  let both := fl ++ suspectPos fs
  let o := rsPass fs fl ((12 - fl.length) / 2) false
  if o.all || !suspectErase || both.length > 12 then o
  else
    let o2 := rsPass fs both ((12 - both.length) / 2) true
    if o2.all then o2 else o

/-- The ranking of step 12 (R95), highest first. Of frames that R95 ranks alike the lower cluster position stands first (DESIGN CHOICE,
log 157). -/
def forcedRank (fs : List FrameRes) : List Nat :=
  let key := fun (f : FrameRes) => if !f.ok then 2000000 + f.weight else if f.suspect then 1000000 + f.iters else f.iters
  (fs.zipIdx.mergeSort fun a b => key b.1 ≤ key a.1).map (·.2)

/-- The bytes of a descriptor row set. -/
def Outer.descriptor (o : Outer) : List Byte := (o.rows.drop 64).flatten

/-- The payload. -/
def Outer.payload (o : Outer) : List Byte := (o.rows.take 64).flatten

/-- A descriptor, read (Table 2-7). -/
structure Desc where
  kind    : Nat
  pos     : Nat
  seq     : Nat
  gid     : Nat
  supersedes : Nat
  contSeq : Nat
  keyId   : Nat
  lead    : Nat
  enc     : Bool
  direct  : Bool
  used    : Nat
  entries : List Entry
  deriving DecidableEq, Repr

/-- A block entry, read (Table 2-8). -/
def readEntry (b : List Byte) : Entry :=
  let f := fun o n => leNat ((b.drop o).take n)
  ⟨f 0 4, f 4 2, f 6 2 % 2 ^ 13, f 6 2 / 2 ^ 13, f 8 4⟩

/-- The descriptor read from the cluster at `pcn`, if it is valid (R43). -/
def readDesc (b : List Byte) (pcn : Nat) : Option Desc :=
  let f := fun o n => leNat ((b.drop o).take n)
  if b.take 4 ≠ [0x46, 0x33, 0x32, 0x44] ∨ f 4 2 ≠ 1 ∨ f 0xFFC 4 ≠ crc32c (b.take 0xFFC) ∨ f 0x30 4 ≠ pcn then none
  else some ⟨f 6 1, f 7 1, f 8 8, f 0x10 8, f 0x18 8, f 0x20 8, f 0x34 4, f 0x38 2, bitAt (f 0x3B 1) 0, bitAt (f 0x3B 1) 1,
    f 0x3C 4, (List.range (f 0x3A 1)).map fun i => readEntry ((b.drop (0x60 + 12 * i)).take 12)⟩

/-- Step 12 (R95): the first t for which every codeword decodes and the descriptor is valid. It is no second pass of R88. -/
def forcedDecode (fs : List FrameRes) (pcn : Nat) : Option Outer :=
  let rank := forcedRank fs
  ((List.range 7).map fun t => rsPass fs (rank.take (12 - 2 * t)) t false).find? fun o =>
    o.all && (readDesc o.descriptor pcn).isSome

/-- The bytes of a payload range that are trusted (R89): their codeword decoded, or their frame CONVERGED and was not suspect. -/
def trusted (fs : List FrameRes) (o : Outer) (ofs n : Nat) : Bool :=
  (List.range n).all fun i =>
    let q := ofs + i
    o.good.getD (q % 1024) false || (match fs[q / 1024]? with
      | some f => f.ok && !f.suspect
      | none => false)

/-- What a cluster's recorded and blank frames say of it (R81). -/
inductive Pattern where
  | blank | scar | recorded
  deriving DecidableEq, Repr

/-- The pattern of a cluster's frames. -/
def pattern (fs : List FrameRes) : Pattern :=
  let rows := (List.range 10).map fun i => ((fs.drop (8 * i)).take 8).map (·.blank)
  if rows.all (·.all id) then .blank
  else if (List.range 9).any fun k => (rows.take (k + 1)).all (·.all (!·)) && (rows.drop (k + 1)).all (·.all id) then .scar
  else .recorded

/-- The positions of the rows that hold a FAILED frame (R91): all 8 frames of each. -/
def failedRows (fs : List FrameRes) : List Nat :=
  ((List.range 10).filter fun i => ((fs.drop (8 * i)).take 8).any (!·.ok)).flatMap fun i => (List.range 8).map (8 * i + ·)

end Sys2Proof.Machine
end

