-- ==== Sys2Proof/Machine/Map.lean ====
section
/-! DEFINITION. The map, its updates, and the location translation cache (R244 to R252, R262 to R271). -/

namespace Sys2Proof.Machine
open Sys2Proof

/-- Change a channel's map and cache. -/
def State.modMap (s : State) (c : Fin 16) (f : MapState → MapState) : State := s.modCh c fun x => { x with map := f x.map }

/-! Records (R244, R245). -/

/-- Whether an extent covers an LBA. -/
def Extent.has (e : Extent) (lba : Nat) : Bool := e.start ≤ lba && lba < e.start + e.len

/-- Whether an extent overlaps a run. -/
def Extent.meets (e : Extent) (a n : Nat) : Bool := e.start < a + n && a < e.start + e.len

/-- The record of the pool that covers an LBA. -/
def recAt (recs : SMap Extent) (lba : Nat) : Option Extent := (recs.find? fun e => e.2.has lba).map (·.2)

/-- The part of an extent within a run of LBAs. -/
def Extent.cut (e : Extent) (a n : Nat) : Option Extent :=
  let lo := max e.start a
  let hi := min (e.start + e.len) (a + n)
  if lo < hi then some { e with start := lo, len := hi - lo, idx := e.idx + (lo - e.start) } else none

/-- The parts of an extent outside a run (R250: older records are trimmed or split). -/
def Extent.outside (e : Extent) (a n : Nat) : List Extent :=
  ((e.cut 0 a).toList) ++ ((e.cut (a + n) (2 ^ 32)).toList)

/-- Remove a run of LBAs from the records. -/
def recTrim (recs : SMap Extent) (a n : Nat) : SMap Extent :=
  recs.flatMap fun e => if e.2.meets a n then (e.2.outside a n).map fun x => (x.start, x) else [e]

/-- Whether two records merge (R245). -/
def mergeable (a b : Extent) : Bool :=
  a.start + a.len == b.start && a.pcn == b.pcn && a.idx + a.len == b.idx && a.gen == b.gen && a.lost == b.lost
    && a.start / 256 == b.start / 256

/-- Merge a record with its neighbours in the pool. -/
def recMerge (recs : SMap Extent) (e : Extent) : SMap Extent :=
  let l := recs.find? fun x => mergeable x.2 e
  let e1 := l.elim e fun x => { x.2 with len := x.2.len + e.len }
  let r := recs.find? fun x => mergeable e1 x.2
  let e2 := r.elim e1 fun x => { e1 with len := e1.len + x.2.len }
  let recs1 := (l.elim recs fun x => SMap.erase recs x.1)
  let recs2 := (r.elim recs1 fun x => SMap.erase recs1 x.1)
  SMap.insert recs2 e2.start e2

/-- Put a record over whatever its LBAs had. -/
def recPut (recs : SMap Extent) (e : Extent) : SMap Extent := recMerge (recTrim recs e.start e.len) e

/-- Records in the pool (R247). -/
def recTotal : Nat := 201326592

/-! The eviction buffer (R265, R270). -/

/-- Mark stale the miss registers whose granule overlaps a run (R268, R270). -/
def staleMiss (miss : List Miss) (a n : Nat) : List Miss :=
  miss.map fun m => if m.granule * 256 < a + n && a < m.granule * 256 + 256 then { m with stale := true } else m

/-- Write the oldest eviction buffer entry back to the map (R265). -/
def State.evictOne (s : State) (c : Fin 16) : State :=
  match (s.ch c).map.evb with
  | [] => s
  | e :: rest =>
    s.modMap c fun m => { m with
      evb := rest, recs := recPut m.recs e.ext, miss := staleMiss m.miss e.ext.start e.ext.len }

/-- Move a dirty entry to the eviction buffer; one that finds it full waits for the oldest write-back (R265). -/
def State.evict (s : State) (c : Fin 16) (e : LtcEntry) : State :=
  let s1 := if (s.ch c).map.evb.length ≥ 4 then s.evictOne c else s
  (s1.modMap c fun m => { m with evb := m.evb ++ [e] }).cnt c 11

/-- Drain the eviction buffer. -/
def State.evictAll (s : State) (c : Fin 16) : State :=
  (List.replicate 4 ()).foldl (fun s _ => s.evictOne c) s

/-! Invalidation (R268, R269). -/

/-- Invalidate slot `i`: a locked slot stays reserved and raises LOCKINV. -/
def State.dropSlot (s : State) (c : Fin 16) (i : Nat) : State :=
  match (s.ch c).map.ltc[i]? with
  | none => s
  | some slot =>
    let s1 := s.modMap c fun m => { m with ltc := m.ltc.set i { slot with entry := none } }
    match slot.lock with
    | some k => (s1.cw c F.LTC_LOCK_STS_LOCKINV (s1.cr c F.LTC_LOCK_STS_LOCKINV ||| 2 ^ k)).cirq c 0x41 0
    | none => s1

/-- The slots whose entry satisfies a test. -/
def State.ltcWhere (s : State) (c : Fin 16) (p : LtcEntry → Bool) : List Nat :=
  ((s.ch c).map.ltc.zipIdx.filter fun x => x.1.entry.elim false p).map (·.2)

/-- A range invalidation (R268). -/
def State.ltcRangeInv (s : State) (c : Fin 16) (a n : Nat) : State :=
  let s1 := (s.ltcWhere c fun e => e.ext.meets a n).foldl (fun s i => s.dropSlot c i) s
  s1.modMap c fun m => { m with miss := staleMiss m.miss a n }

/-- Dirty entries of the cache that overlap a run move to the eviction buffer, in slot order, before they are invalidated: what an
invalidation through a register would discard is never the only copy (R272 note: it affects only the cache, never the map). -/
def State.saveDirty (s : State) (c : Fin 16) (a n : Nat) : State :=
  (s.ltcWhere c fun e => e.dirty && e.ext.meets a n).foldl (fun s i =>
    match ((s.ch c).map.ltc[i]?).bind (·.entry) with
    | some e => (s.evict c e).modMap c fun m =>
        { m with ltc := m.ltc.set i { (m.ltc.getD i ⟨none, none⟩) with entry := some { e with dirty := false } } }
    | none => s) s

/-- An invalidation by address (R269). -/
def State.ltcAddrInv (s : State) (c : Fin 16) (lba : Nat) : State :=
  let s1 := (s.ltcWhere c fun e => e.ext.has lba).foldl (fun s i => s.dropSlot c i) s
  s1.modMap c fun m => { m with miss := m.miss.map fun x => if x.granule == lba / 256 then { x with stale := true } else x }

/-! Installing (R262, R263, R265). -/

/-- The slot a new entry takes: the locked, invalidated slot whose anchor it covers (R268), else the victim of R263, with the ages
raised so that one unlocked entry has age 3. -/
def ltcVictim (m : MapState) (e : Extent) : Nat × List LtcSlot :=
  let anchored := m.ltc.zipIdx.find? fun x =>
    x.1.entry.isNone && (x.1.lock.elim false fun k => (SMap.find? m.locks k).elim false fun a => e.has a)
  match anchored with
  | some x => (x.2, m.ltc)
  | none =>
    match m.ltc.zipIdx.find? fun x => x.1.entry.isNone && x.1.lock.isNone with
    | some x => (x.2, m.ltc)
    | none =>
      let top := m.ltc.foldl (fun a x => if x.lock.isNone then max a (x.entry.elim 0 (·.age)) else a) 0
      let aged := m.ltc.map fun x =>
        if x.lock.isNone then { x with entry := x.entry.map fun y => { y with age := y.age + (3 - top) } } else x
      let old := aged.zipIdx.filter fun x => x.1.lock.isNone && x.1.entry.elim false (·.age == 3)
      match old.find? fun x => x.1.entry.elim false (!·.dirty) with
      | some x => (x.2, aged)
      | none => ((old.head?.map (·.2)).getD 0, aged)

/-- Put an entry into the cache (R263, R265). -/
def State.ltcInsert (s : State) (c : Fin 16) (e : LtcEntry) : State :=
  let (i, aged) := ltcVictim (s.ch c).map e.ext
  let s1 := s.modMap c fun m => { m with ltc := aged }
  let slot := aged.getD i ⟨none, none⟩
  let s2 := match slot.entry with
    | some v => if v.dirty then s1.evict c v else s1
    | none => s1
  let s3 := s2.modMap c fun m => { m with ltc := m.ltc.set i { slot with entry := some e } }
  match slot.lock with
  | some k => s3.cw c F.LTC_LOCK_STS_LOCKINV (s3.cr c F.LTC_LOCK_STS_LOCKINV &&& (15 - 2 ^ k % 16))
  | none => s3

/-! Resolving (R246, R262, R266). -/

/-- The cache or eviction buffer entry that covers an LBA: the cache first, then the newest in the buffer. -/
def MapState.cached (m : MapState) (lba : Nat) : Option LtcEntry :=
  match (m.ltc.filterMap (·.entry)).find? fun e => e.ext.has lba with
  | some e => some e
  | none => m.evb.reverse.find? fun e => e.ext.has lba

/-- The record in force for an LBA: cache, eviction buffer, then map. -/
def MapState.view (m : MapState) (lba : Nat) : Option Extent :=
  match m.cached lba with
  | some e => if e.hole then none else some e.ext
  | none => recAt m.recs lba

/-- Whether an LBA lies under a poisoned map record (R373). -/
def MapState.isBad (m : MapState) (lba : Nat) : Bool := m.bad.any fun r => r.1 ≤ lba && lba < r.1 + r.2

/-- What a record says of an LBA it covers. -/
def Extent.target (e : Extent) (lba : Nat) : Target :=
  if e.lost then .failed false else .media e.pcn (e.idx + (lba - e.start))

/-- The largest run of LBAs around `lba`, within `[lo, hi)`, that no cached entry covers: a fill is kept disjoint (R262). -/
def MapState.clear (m : MapState) (lba lo hi : Nat) : Nat × Nat :=
  let es := m.ltc.filterMap (·.entry) ++ m.evb
  let a := es.foldl (fun a e => if e.ext.start + e.ext.len ≤ lba then max a (e.ext.start + e.ext.len) else a) lo
  let b := es.foldl (fun b e => if lba < e.ext.start then min b e.ext.start else b) hi
  (a, b)

/-- What a walk of the map finds for an LBA: its record or the hole around it, cut to what the cache does not hold. -/
def MapState.walk (m : MapState) (lba : Nat) : LtcEntry :=
  let g := lba / 256 * 256
  match recAt m.recs lba with
  | some e =>
    let (a, b) := m.clear lba e.start (e.start + e.len)
    ⟨(e.cut a (b - a)).getD e, false, 0, false⟩
  | none =>
    let lo := m.recs.foldl (fun a e => if e.2.start + e.2.len ≤ lba then max a (e.2.start + e.2.len) else a) g
    let hi := m.recs.foldl (fun b e => if lba < e.2.start then min b e.2.start else b) (g + 256)
    let (a, b) := m.clear lba lo hi
    ⟨⟨a, b - a, 0, 0, 0, false⟩, true, 0, false⟩

/-- What a cache entry answers for an LBA. -/
def LtcEntry.target (e : LtcEntry) (lba : Nat) : Target := if e.hole then .zero else e.ext.target lba

/-- A hit: the entry's age becomes 0 (R263), and the hit is counted. -/
def State.ltcHit (s : State) (c : Fin 16) (lba : Nat) : State :=
  (s.modMap c fun m => { m with ltc := m.ltc.map fun x =>
    { x with entry := x.entry.map fun e => if e.ext.has lba then { e with age := 0 } else e } }).cnt c 9

/-- A lookup (R246 steps 2 and 3): its answer, or none while it waits on a miss register (R266). With `LTC.CTL.EN` 0 every lookup
walks the map (Table 8-4). -/
def State.lookup (s : State) (c : Fin 16) (l : Lookup) : Option Target × State :=
  let m := (s.ch c).map
  if m.isBad l.lba then (some (.failed false), s)
  else match if s.cr c F.LTC_CTL_EN = 0 then none else m.cached l.lba with
    | some e => (some (e.target l.lba), s.ltcHit c l.lba)
    | none =>
      let g := l.lba / 256
      match m.miss.find? fun x => x.granule == g with
      | some x =>
        if x.waiting.length ≥ 8 then (none, s.modMap c fun m => { m with blocked := m.blocked ++ [l] })
        else (none, ((s.modMap c fun m => { m with miss := m.miss.map fun y =>
          if y.granule == g then { y with waiting := y.waiting ++ [l] } else y }).incSat (chRg c) F.LTC_MERGED).cnt c 10)
      | none =>
        if m.miss.length ≥ 8 then (none, s.modMap c fun m => { m with blocked := m.blocked ++ [l] })
        else (none, (s.modMap c fun m => { m with miss := m.miss ++ [⟨g, false, [l]⟩] }).cnt c 10)

/-- Install a walk's answer as a fill (R264, R266), unless `LTC.CTL.EN` is 0. -/
def State.fill (s : State) (c : Fin 16) (lba : Nat) (stream : Bool) : State :=
  let m := (s.ch c).map
  if (m.cached lba).isSome || s.cr c F.LTC_CTL_EN == 0 then s
  else
    let e := m.walk lba
    s.ltcInsert c { e with age := if stream then 3 else 0 }

/-! Updates (R250, R252, R265). -/

/-- Whether an update of generation `g` at cluster `pcn` changes an LBA (R250). -/
def MapState.older (m : MapState) (lba pcn g : Nat) : Bool :=
  match m.view lba with
  | none => true
  | some e => e.gen < g || (e.gen == g && e.pcn < pcn)

/-- The extents of an update: its run split around LBAs it does not change, and at granule boundaries. -/
def updateExtents (m : MapState) (e : Extent) : List Extent :=
  (List.range e.len).foldl (fun acc i =>
    let lba := e.start + i
    if !m.older lba e.pcn e.gen then acc
    else
      let one : Extent := { e with start := lba, len := 1, idx := e.idx + i }
      match acc.getLast? with
      | some p => if mergeable p one then acc.dropLast ++ [{ p with len := p.len + 1 }] else acc ++ [one]
      | none => acc ++ [one]) []

/-- A map update: an install into the cache (R250, R265). -/
def State.mapUpdate (s : State) (c : Fin 16) (e : Extent) : State :=
  let news := updateExtents (s.ch c).map e
  let s1 := (s.saveDirty c e.start e.len).ltcRangeInv c e.start e.len
  news.foldl (fun s x => s.ltcInsert c ⟨x, false, 0, true⟩) s1

/-- Set LOST in the record of an LBA (R252). -/
def State.setLost (s : State) (c : Fin 16) (lba : Nat) : State :=
  match (s.ch c).map.view lba with
  | none => s
  | some e =>
    let s1 := ((s.saveDirty c lba 1).ltcRangeInv c lba 1).evictAll c
    s1.modMap c fun m => { m with recs := recPut m.recs { e with start := lba, len := 1, idx := e.idx + (lba - e.start), lost := true } }

/-- Write every dirty entry back; entries stay valid and clean (R255 step 3). -/
def State.writeBackAll (s : State) (c : Fin 16) : State :=
  let dirty := ((s.ch c).map.ltc.filterMap (·.entry)).filter (·.dirty)
  let s1 := s.evictAll c
  s1.modMap c fun m => { m with
    recs := dirty.foldl (fun r e => recPut r e.ext) m.recs
    miss := dirty.foldl (fun x e => staleMiss x e.ext.start e.ext.len) m.miss
    ltc := m.ltc.map fun x => { x with entry := x.entry.map fun e => { e with dirty := false } } }

/-- Clear the cache, with its locks (R271). -/
def State.ltcClear (s : State) (c : Fin 16) : State :=
  (s.modMap c fun m => { m with ltc := emptyLtc, evb := [], miss := [], blocked := [], locks := [] }).cw c
    F.LTC_LOCK_STS_LOCKINV 0

/-- The nanoseconds at 3,000 rpm of the cluster positions from `a` up to `b` (R256). -/
def spanNs (a b : Nat) : Nat :=
  (List.range 32).foldl (fun t l =>
    (List.range 48).foldl (fun t z =>
      let lo := pcnOf ⟨l, z, 0⟩
      let hi := lo + zoneClusters z
      t + (min hi b - max lo a) * clusterNs z) t) 0

/-- `MAP.REPLAY_EST` in ms (R256): from the latest anchored checkpoint's first MAP cluster to the write pointer; from the first
user-area position where the disc has no checkpoint yet. -/
def State.replayMs (s : State) (c : Fin 16) : Nat :=
  match (s.ch c).disc with
  | none => 0
  | some d =>
    if d.direct then 0
    else spanNs (if d.ckptPcn = 0 then anchorEnd else d.ckptPcn) (s.cr c F.WRC_WPTR) / 1000000

/-! The commands of the cache. -/

/-- `LTC.INV_CTL.GO` with a nonzero length (R268): dirty entries are saved to the map first, because an invalidation through `INV_*`
never affects the map (R273 note). -/
def invGo (c : Fin 16) (range : Bool) (s : State) : State :=
  let a := s.cr c F.LTC_INV_LBA
  let n := s.cr c F.LTC_INV_LEN
  if (n != 0) != range then s
  else
    let s1 := if range then (s.saveDirty c a n).ltcRangeInv c a n else (s.saveDirty c a 1).ltcAddrInv c a
    s1.cw c F.LTC_INV_CTL_ACK 1

end Sys2Proof.Machine
end

