-- ==== Sys2Proof/Machine/WriteOps.lean ====
section
/-! DEFINITION. The write chain: assembling, committing and beginning clusters, verify verdicts, stops, and the records written to the
anchor zone (R42 to R56, R106 to R141, R283 to R288). -/

namespace Sys2Proof.Machine
open Sys2Proof

/-- Change what is known of the mounted disc. -/
def State.modDisc (s : State) (c : Fin 16) (f : Disc → Disc) : State := s.modCh c fun x => { x with disc := x.disc.map f }

/-- Whether anything may be written to the disc: mounted, not sealed, not read-only (R52, R331). -/
def Disc.writable (d : Disc) : Bool := !d.sealed_ && !d.roMount && !d.roDisc

/-! Descriptors (R42). -/

/-- The bytes of a block entry (Table 2-8). -/
def Entry.bytes (e : Entry) : List Byte :=
  leBytes 4 e.lba ++ leBytes 2 e.ofs ++ leBytes 2 (e.len + 2 ^ 13 * e.method) ++ leBytes 4 e.check

/-- The 4,096 bytes of a descriptor (Table 2-7). -/
def descriptorBytes (k : Content) (pcn seq gid contSeq time : Nat) : List Byte :=
  let body := layout 0xFFC [(0x000, [0x46, 0x33, 0x32, 0x44]), (0x004, leBytes 2 1), (0x006, leBytes 1 k.kind.code),
    (0x007, leBytes 1 k.pos), (0x008, leBytes 8 seq), (0x010, leBytes 8 gid), (0x018, leBytes 8 k.supersedes),
    (0x020, leBytes 8 contSeq), (0x028, leBytes 8 time), (0x030, leBytes 4 pcn),
    (0x034, leBytes 4 (if k.enc then k.keyId else 0)), (0x038, leBytes 2 k.lead), (0x03A, leBytes 1 k.entries.length),
    (0x03B, leBytes 1 (b2n k.enc + 2 * b2n k.direct)), (0x03C, leBytes 4 k.payload.length), (0x040, padTo 32 0 k.spec),
    (0x060, k.entries.flatMap Entry.bytes)]
  body ++ leBytes 4 (crc32c body)

/-- The frames of a placed cluster. -/
def Placed.frames (p : Placed) (gid : Nat) : List (List Bool) :=
  encodeCluster p.pcn p.link (padTo 65536 0 p.content.payload)
    (descriptorBytes p.content p.pcn p.seq gid p.content.contSeq p.time)

/-- A content of the anchor zone or a PAD cluster: no entries, its own group. -/
def plainContent (kind : ClusterKind) (payload spec : List Byte) (direct : Bool) : Content :=
  { kind := kind, pos := 0, group := 0, entries := [], payload := payload, lead := 0, cont := false, contSeq := 0, spec := spec,
    keyId := 0, enc := false, direct := direct, supersedes := 0, repl := 0, blocks := [], owners := [] }

/-! The laser driver (R119, R124, R128). -/

/-- A transaction word to the driver with its CRC-8 (Table 4-5). -/
def laserWord (rd : Bool) (addr data : Nat) : Nat :=
  let v := b2n rd * 2 ^ 23 + addr % 128 * 2 ^ 16 + data % 65536
  v * 2 ^ 8 + crc8 (msbBits 24 v)

/-- Change a channel's laser driver link. -/
def State.modLdi (s : State) (c : Fin 16) (f : Ldi → Ldi) : State := s.modWr c fun w => { w with ldi := f w.ldi }

/-- Put the next transaction on the link, while it is enabled and free. -/
def State.laserPump (s : State) (c : Fin 16) : State :=
  let l := (s.ch c).wr.ldi
  if l.busy || s.cr c F.LDI_CTL_LINK_EN == 0 || !s.running (chRg c) 0x32 then s
  else match l.queue with
    | [] => s
    | t :: _ => (s.answer (.laser c.val (laserWord t.rd t.addr t.data))).modLdi c fun l => { l with busy := true }

/-- Queue a transaction: those of `LDI.CMD` wait behind the others (R128). -/
def State.laserQueue (s : State) (c : Fin 16) (t : LaserTxn) : State :=
  (s.modLdi c fun l =>
    let run := if l.busy then l.queue.take 1 else []
    let rest := if l.busy then l.queue.drop 1 else l.queue
    { l with queue := if t.host.isSome then l.queue ++ [t]
        else run ++ rest.filter (·.host.isNone) ++ [t] ++ rest.filter (·.host.isSome) }).laserPump c

/-- Send a transaction of the hardware's own. -/
def State.laser (s : State) (c : Fin 16) (rd : Bool) (addr data : Nat) : State := s.laserQueue c ⟨rd, addr, data, none, 0⟩

/-- The read levels that wait for the end of a session (Table 4-10). -/
def State.sendReadLevels (s : State) (c : Fin 16) : State :=
  let bs := (s.ch c).wr.ldi.due
  if bs.isEmpty then s
  else (bs.foldl (fun s b => s.laser c false (0x10 + b) (s.cr c (F.LDI_READ b)))
    (s.modLdi c fun l => { l with due := [] })).laser c false 0x19 1

/-- Stage peak and bias levels ahead: the shadows are written, their COMMIT waits (R128). -/
def State.stageLevels (s : State) (c : Fin 16) (ls : List Nat) : State :=
  (ls.zipIdx.foldl (fun (s : State) (x : Nat × Nat) => s.laser c false x.2 x.1) s).modLdi c fun l => { l with levels := ls, owed := true }

/-- Send the COMMIT that the staged levels wait for. -/
def State.commitLevels (s : State) (c : Fin 16) : State :=
  if (s.ch c).wr.ldi.owed then (s.modLdi c fun l => { l with owed := false }).laser c false 0x19 1 else s

/-- Stage the levels of a cluster at a position, where they are not those the driver's shadows hold. -/
def State.levelsFor (s : State) (c : Fin 16) (pcn : Nat) : State :=
  let ls := s.tpyLevels c (posOf pcn).layer (posOf pcn).zone
  if (s.ch c).wr.ldi.levels == ls then s else s.stageLevels c ls

/-- The powers of the session have been committed to the driver: no COMMIT waits, and no write of the hardware's own is on its way. -/
def State.powersSet (s : State) (c : Fin 16) : Bool :=
  let l := (s.ch c).wr.ldi
  !l.owed && !l.queue.any fun t => t.host.isNone && !t.rd

/-! Gates (R115 to R118). -/

/-- The shapes of a beam. -/
def State.shape (s : State) (c : Fin 16) (b : Nat) (cl : Nat) : Shape :=
  ⟨s.cr c (F.TPY_STRAT_FPS b cl), s.cr c (F.TPY_STRAT_FPE b cl), s.cr c (F.TPY_STRAT_MPP b cl),
    s.cr c (F.TPY_STRAT_LPE b cl), s.cr c (F.TPY_STRAT_GAP b cl)⟩

/-- Emit the gate pulses of a cluster, each beam's delayed by its WALIGN (R115). -/
def State.emitGates (s : State) (c : Fin 16) (pcn : Nat) (frames : List (List Bool)) : State :=
  let minPw := s.cr c F.TPY_CTL_MIN_PW
  let rs := (List.range 8).map fun b =>
    let bits := ((List.range 10).map fun i => frames.getD (8 * i + b) []).flatten
    beamPulses (s.shape c b) minPw ((s.ch c).wr.trail.getD b Trail.fresh) bits
  let out := rs.zipIdx.map fun (x : (List (Int × Int) × Trail) × Nat) => delayed (s.cr c (F.WRC_WALIGN x.2)) x.1.1
  (s.answer (.gates c.val pcn out)).modWr c fun w => { w with trail := rs.map (·.2) }

/-- The marks and pulses left over at a session's end (R118). -/
def State.endGates (s : State) (c : Fin 16) (pcn : Nat) : State :=
  let minPw := s.cr c F.TPY_CTL_MIN_PW
  let ps := (List.range 8).map fun b =>
    delayed (s.cr c (F.WRC_WALIGN b)) (endPulses (s.shape c b) minPw ((s.ch c).wr.trail.getD b Trail.fresh))
  (s.answer (.gates c.val pcn ps)).modWr c fun w => { w with trail := List.replicate 8 Trail.fresh }

/-! The session, and contents that return to the queue (R112, R288). -/

/-- A content that goes back to the queue, to be committed afresh: its Supersedes follows R112. -/
def Placed.back (p : Placed) : Content :=
  { p.content with supersedes := if p.content.supersedes = 0 then p.seq else p.content.supersedes }

/-- Whether a content holds the tail of a block. -/
def Content.tailOf (b : Nat) (k : Content) : Bool := k.lead != 0 && k.blocks.head? == some b

/-- A reservation made at a commitment is discarded (R112): its number is never used again, and the tail, committed afresh, names it in its
Supersedes, so that its head finds it under R44. -/
def WriteChain.dropReserved (w : WriteChain) : WriteChain :=
  match w.tail with
  | none => w
  | some (n, b) => { w with
      tail := none, seq := max w.seq (n + 1)
      ready := w.ready.map fun k => if k.tailOf b && k.supersedes == 0 then { k with supersedes := n } else k }

/-- Return the contents committed to positions never begun to the queue; their numbers are discarded (R112). The next position is
the first of theirs. A content superseded on a Direct disc does not return: its copy is queued already (R134). -/
def State.returnUnbegun (s : State) (c : Fin 16) : State :=
  let s1 := s.modWr c WriteChain.dropReserved
  let un := (s1.ch c).wr.placed.filter fun p => !p.begun
  match un with
  | [] => s1
  | p :: _ =>
    (s1.modWr c fun w => { w with
      placed := w.placed.filter (·.begun), ready := (un.filter (!·.dead)).map Placed.back ++ w.ready }).cw c F.WRC_WPTR p.pcn

/-- The session's state in `WRC.STS` (Table 4-8). -/
def Session.code : Session → Nat
  | .idle => 0 | .armed => 1 | .writing => 2 | .stopping => 3 | .ending => 2

/-- Change the session state. -/
def State.setSession (s : State) (c : Fin 16) (x : Session) : State :=
  let s1 := (s.modWr c fun w => { w with session := x }).cw c F.WRC_STS_STATE x.code
  if x = .idle then s1.sendReadLevels c else s1

/-- The session ends after the cluster being written (R288, R337): nothing more is committed, and no scar is left. -/
def State.endAtBoundary (s : State) (c : Fin 16) : State :=
  let w := (s.ch c).wr
  if w.session = .writing ∨ w.session = .armed then
    let s1 := s.returnUnbegun c
    if (s1.ch c).wr.placed.any (·.begun) && w.session == .writing then s1.setSession c .ending
    else s1.setSession c .idle
  else s

/-! When the disc may be written (R106, R116, R141). -/

/-- The mode of a slot: 0 OFF, 1 OPEN, 2 ACQUIRE, 3 CLOSED, 4 HOLD (Table 5-11). -/
def State.mode (s : State) (c : Fin 16) (q : Nat) : Nat := s.cr c (F.SLT_STATE_MODE q)

/-- FOC and TRK are CLOSED. -/
def State.onTrack (s : State) (c : Fin 16) : Bool := s.mode c 0 == 3 && s.mode c 1 == 3

/-- The spindle speed is within `tol` sixteenths of a revolution per minute of 3,000 rpm. -/
def State.near3000 (s : State) (c : Fin 16) (tol : Nat) : Bool :=
  let v := toSigned 20 (s.cr c F.SPN_SPEED)
  decide ((v - 48000).natAbs ≤ tol)

/-- The conditions of R116 but for the powers, the events of Table 4-7 that last (R141), and that no test-area run holds the pickup. -/
def State.mayWrite (s : State) (c : Fin 16) : Bool :=
  s.onTrack c && s.cr c F.WOB_STS_PLL_LOCK == 1 && s.cr c F.WOB_STS_ADIP_VALID == 1 && (s.ch c).wr.clockLock
    && s.near3000 c 48 && s.cr c F.LDI_STS_KILL_PIN == 0 && s.cr c F.LDI_STS_KILL_LATCH == 0 && !(s.ch c).wr.ldi.fault
    && s.cr c F.WRC_CTL_EN == 1 && !s.plat.pfw && !s.front.flr && (s.ch c).wr.gone.all (fun q => s.mode c q == 3)
    && !((s.ch c).wr.testRun.elim false (·.begun))
    && !decide (toSigned 16 (s.cr c F.CAL_TEMP_NOW) > 16 * (s.cr c F.WRC_STOP_CTL_PU_TMAX : Int))

/-! The areas of the anchor zone (R50 to R53). -/

/-- Write consecutive clusters in an area of the anchor zone, from `pcn` on: each takes a sequence number as it is begun (R45), the
first has LINK set. -/
def State.writeArea (s : State) (c : Fin 16) (pcn : Nat) : List Content → Bool → State
  | [], _ => s
  | k :: ks, link =>
    let seq := (s.ch c).wr.seq
    let p : Placed := ⟨pcn, seq, s.plat.time, link, k, true, false⟩
    let s1 := (s.answer (.cluster c.val pcn (p.frames seq)))
    State.writeArea ((s1.modWr c fun w => { w with seq := seq + 1 }).cnt c 4) c (pcn + 1) ks false

/-- A cluster of the anchor zone is begun after every cluster begun before it, and before every cluster begun later (R45): a session in the
user area ends at its cluster boundary first, and what it had committed is numbered afresh after it (DEDUCED, log 176). -/
def State.writeRecords (s : State) (c : Fin 16) (pcn : Nat) (ks : List Content) : State := (s.endAtBoundary c).writeArea c pcn ks true

/-- Anchor-area clusters left (R53). -/
def Disc.anchorsLeft (d : Disc) : Nat := anchorEnd - d.anchNext

/-- The bytes of an anchor record (Table 2-12). -/
def anchorBytes (d : Disc) (reason wptr high : Nat) (slips : List Nat) (ckNum ckSeq ckPcn ckParts start : Nat) : List Byte :=
  let head := layout 0xFC [(0x000, ascii "F32A"), (0x004, leBytes 4 (d.anchorNum + 1)), (0x008, leBytes 1 reason),
    (0x009, leBytes 1 (b2n (reason == 3) + 2 * b2n d.direct)), (0x00C, leBytes 4 ckNum), (0x010, leBytes 8 ckSeq),
    (0x018, leBytes 4 ckPcn), (0x01C, leBytes 4 ckParts), (0x020, leBytes 8 start), (0x028, leBytes 4 wptr),
    (0x02C, leBytes 4 d.ckptPcn), (0x030, leBytes 8 d.ckptSeq), (0x038, leBytes 8 high), (0x040, leBytes 4 slips.length)]
  let list := slips.flatMap (leBytes 4)
  head ++ leBytes 4 (crc32c (head ++ list)) ++ list

/-- The pending slips one anchor can carry (R55). -/
def slipMax : Nat := 16320

/-- Write an anchor, two copies (R52): of checkpoint `k` on a Mapped disc, with the pending slips on a Direct one. Only Seal's anchor
is written when fewer than 4 clusters remain (R53). The write pointer is read after the session has ended. -/
def State.putAnchor (s : State) (c : Fin 16) (reason : Nat) (k : Option Ckpt) : State :=
  match (s.ch c).disc with
  | none => s
  | some d =>
    if !d.writable || d.anchorsLeft < (if reason = 3 then 2 else 4) then s
    else
      let s0 := s.endAtBoundary c
      let wr := (s0.ch c).wr
      let slips := if d.direct then (d.newSlips.take slipMax).mergeSort else []
      let (n, q, p, parts, st) := match k with
        | some k => (k.num, k.seq, k.pcn, k.parts, k.start)
        | none => (0, 0, 0, 0, 0)
      let rec_ := anchorBytes d reason (s0.cr c F.WRC_WPTR) (wr.seq - 1) slips n q p parts st
      let copy := fun i => plainContent .anchor rec_ (leBytes 1 1 ++ leBytes 1 i) d.direct
      let s1 := s0.writeRecords c d.anchNext [copy 0, copy 1]
      s1.modDisc c fun d => { d with
        anchNext := d.anchNext + 2, anchorNum := d.anchorNum + 1, newSlips := d.newSlips.drop slipMax, blank := false
        sealed_ := d.sealed_ || reason == 3
        ckptNum := if k.isSome then n else d.ckptNum
        ckptSeq := if k.isSome then q else d.ckptSeq
        ckptPcn := if k.isSome then p else d.ckptPcn
        ckptParts := if k.isSome then parts else d.ckptParts
        replayStart := if k.isSome then st else d.replayStart }

/-- An anchor with reason 5, where more slips are pending than one anchor carries and it can be written (R55). -/
def State.slipAnchor (s : State) (c : Fin 16) : State :=
  match (s.ch c).disc with
  | none => s
  | some d => if d.direct && d.newSlips.length > slipMax && s.mayWrite c then s.putAnchor c 5 none else s

/-- Anchors with reason 5 until one anchor carries what is pending (R55). -/
def State.slipAnchors (s : State) (c : Fin 16) : State :=
  let n := ((s.ch c).disc.elim 0 fun d => d.newSlips.length) / slipMax
  (List.range n).foldl (fun (s : State) _ => s.slipAnchor c) s

/-- Write an anchor, with those of reason 5 that must come first (R52, R55). -/
def State.writeAnchor (s : State) (c : Fin 16) (reason : Nat) (k : Option Ckpt) : State := (s.slipAnchors c).putAnchor c reason k

/-- Show the disc's latest checkpoint and status in the MAP page (Table 8-3). -/
def State.showDisc (s : State) (c : Fin 16) : State :=
  match (s.ch c).disc with
  | none => s.wrs (chRg c) [(F.MAP_STS_STATE, 0), (F.MAP_STS_DIRECT, 0), (F.MAP_STS_SEALED, 0), (F.MAP_STS_CKPT_ACTIVE, 0),
      (F.MAP_STS_READ_ONLY, 0), (F.XTS_STS_DISC_ENC, 0), (F.CMP_STS_MOUNT_COMP, 0)]
  | some d => s.wrs (chRg c) [(F.MAP_STS_DIRECT, b2n d.direct), (F.MAP_STS_SEALED, b2n d.sealed_),
      (F.MAP_STS_CKPT_ACTIVE, b2n (s.ch c).wr.ckpt.isSome), (F.MAP_STS_READ_ONLY, b2n d.roDisc),
      (F.MAP_CKPT_NUM, d.ckptNum), (F.MAP_CKPT_PCN, d.ckptPcn), (F.MAP_REPLAY_START_LO, d.replayStart),
      (F.MAP_REPLAY_START_HI, d.replayStart / 2 ^ 32), (F.XTS_STS_DISC_ENC, b2n d.keyed),
      (F.CMP_STS_MOUNT_COMP, b2n (d.compress && !d.direct))]

/-- Add slips of a Direct disc (R54, R55). One more than an anchor carries calls for an anchor with reason 5, written as soon as the disc may
be written, and before anything else is. -/
def State.addSlips (s : State) (c : Fin 16) (ps : List Nat) : State :=
  match (s.ch c).disc with
  | none => s
  | some d =>
    if !d.direct then s
    else
      let new := (ps.filter fun p => inUser p && !d.slips.contains p).eraseDups
      (s.modDisc c fun d => { d with slips := d.slips ++ new, newSlips := d.newSlips ++ new }).slipAnchors c

/-- The bytes of an identity record (Table 2-11). -/
def identBytes (s : State) (d : Disc) (rev : Nat) : List Byte :=
  let body := layout 0x1FC [(0x000, ascii "F32I"), (0x004, [1, 0]), (0x006, leBytes 1 (b2n d.direct)), (0x007, leBytes 1 (b2n d.keyed)),
    (0x008, padTo 16 0 d.discId), (0x018, leBytes 1 rev), (0x01C, leBytes 4 d.keyId),
    (0x020, leBytes 8 d.archiveId), (0x028, padTo 72 0 d.wrapped), (0x070, leBytes 8 s.plat.time),
    (0x078, leBytes 4 (s.rd 0 F.FEC_VER_LO) ++ leBytes 4 (s.rd 0 F.FEC_VER_HI)), (0x080, leBytes 8 Config.dsn.toNat)]
  body ++ leBytes 4 (crc32c body)

/-- Whether the identity area has room for a further revision (R50, R51). -/
def Disc.identRoom (d : Disc) : Bool := d.revision < 128 && d.identNext + 4 ≤ identityEnd

/-- Write an identity revision, four copies (R51). At revision 1 the disc identifier is drawn. -/
def State.writeIdentity (s : State) (c : Fin 16) : State :=
  match (s.ch c).disc with
  | none => s
  | some d =>
    if !d.identRoom then s
    else
      let (s0, d) := if d.revision = 0 then
          let (b, s1) := s.drawRandom 16
          (s1, { d with discId := b })
        else (s, d)
      let r := d.revision + 1
      let bytes := identBytes s0 d r
      let copy := fun i => plainContent .identity bytes (leBytes 1 r ++ leBytes 1 i) d.direct
      let s1 := s0.writeRecords c d.identNext [copy 0, copy 1, copy 2, copy 3]
      let s2 := s1.modDisc c fun x => { x with discId := d.discId, revision := r, identNext := d.identNext + 4, blank := false }
      -- revision 1 gives the namespace its NGUID (Table 11-15)
      if d.revision = 0 then s2.nsChanged c else s2

/-- Write the calibration records that wait, while their area has room (R53, R236). -/
def State.putRecords (s : State) (c : Fin 16) : State :=
  match (s.ch c).disc with
  | none => s
  | some d =>
    if (s.ch c).wr.records.isEmpty || !d.writable || !s.mayWrite c then s
    else
      let rs := (s.ch c).wr.records.take (calibrationEnd - d.calNext)
      let ks := rs.map fun r => plainContent .anchor r (leBytes 1 2) d.direct
      ((s.modWr c fun w => { w with records := [] }).writeRecords c d.calNext ks).modDisc c fun d =>
        { d with calNext := d.calNext + rs.length, blank := d.blank && rs.isEmpty }

/-- Draw a key pair whose halves differ, and a disc key identifier that is not 0 (R426). The first argument bounds the redraws. -/
def drawKey : Nat → State → List Byte × Nat × State
  | 0, s => ([], 0, s)
  | n + 1, s =>
    let (b, s1) := s.drawRandom 68
    let pair := b.take 64
    let id := leNat (b.drop 64)
    if pair.take 32 = pair.drop 32 ∨ id = 0 then drawKey n s1 else (pair, id, s1)

/-- Whether the disc still owes the data key its Mount requested (R283). -/
def Disc.owesKey (d : Disc) : Bool := d.wantKey.isSome && !d.keyed

/-- Generate the disc's first data key, wrap it under the archive key named at Mount, and write a new identity revision (R51, R283,
R426), once the disc may be written. A redraw bound of 8 stands for R426's repetition. -/
def State.makeKey (s : State) (c : Fin 16) : State :=
  match (s.ch c).disc with
  | none => s
  | some d =>
    match d.wantKey with
    | none => s
    | some aid =>
      if d.keyed || !d.identRoom || !s.mayWrite c then s
      else match s.archiveKey aid with
        | none => s
        | some ak =>
          let (pair, id, s1) := drawKey 8 s
          let wrapped := ofNats (keyWrap (toNats ak) (toNats pair))
          let s2 := s1.modDisc c fun d => { d with keyed := true, keyId := id, archiveId := aid, wrapped := wrapped }
          let s3 := (s2.modCh c fun x => { x with xtsKey := some pair }).wrs (chRg c)
            [(F.XTS_STS_KEY_VALID, 1), (F.XTS_KEY_ID, id)]
          (s3.writeIdentity c).showDisc c

/-! Assembly (R107 to R111, R274, R288). -/

/-- The coder settings in force for a mount. -/
def State.coder (s : State) (c : Fin 16) (on : Bool) : CoderSet :=
  ⟨on, s.cb c F.CMP_CTL_HS_EN, s.cb c F.CMP_CTL_DEFL_EN, s.cb c F.CMP_CTL_CHECK_EN,
    s.cr c F.CMP_CTL_LAZY + 2 * s.cr c F.CMP_CTL_DEFL_MODE + 8 * s.cr c F.CMP_CTL_CHAIN⟩

/-- An empty cluster of the open group. -/
def freshContent (g : Nat) (d : Disc) : Content :=
  { kind := .data, pos := 0, group := g, entries := [], payload := [], lead := 0, cont := false, contSeq := 0, spec := [],
    keyId := d.keyId, enc := d.keyed, direct := d.direct, supersedes := 0, repl := 0, blocks := [], owners := [] }

/-- Close the cluster being filled (R108): `later` says a command has blocks in a later cluster. -/
def WriteChain.close (w : WriteChain) (later cont : Bool) : WriteChain :=
  match w.cur, w.openGroup with
  | some k, some g =>
    let earlier := g.n > 0
    let pos := if earlier then (if later then 2 else 3) else (if later then 1 else 0)
    { w with
      ready := w.ready ++ [{ k with pos := pos, cont := cont }]
      cur := none
      openGroup := if later then some { g with n := g.n + 1 } else none }
  | _, _ => w

/-- The cluster to fill: the open one, or a fresh one of the open group or of a new group. -/
def WriteChain.filling (w : WriteChain) (d : Disc) : Content × OpenGroup × WriteChain :=
  match w.cur, w.openGroup with
  | some k, some g => (k, g, w)
  | none, some g => (freshContent g.num d, g, w)
  | _, none => (freshContent w.nextGroup d, ⟨w.nextGroup, 0, []⟩, { w with nextGroup := w.nextGroup + 1 })

/-- The last block of the cluster being filled ends its command's piece. -/
def WriteChain.atEnd (w : WriteChain) (k : Content) : Bool :=
  match k.blocks.getLast?.bind fun i => w.blocks.find? (·.id == i) with
  | some b => b.ends
  | none => true

/-- A cluster whose 255th entry's block would not fit closes before it: that block is not split (R107). -/
def WriteChain.roomForLast (w : WriteChain) (d : Disc) (n : Nat) : WriteChain :=
  match w.cur with
  | some k => if k.entries.length = 254 ∧ k.payload.length + n > 65536 then w.close (!w.atEnd k && !d.direct) false else w
  | none => w

/-- Append a stored block to the cluster being filled, splitting it when it does not fit (R44, R107). -/
def WriteChain.append (w : WriteChain) (d : Disc) (b : Block) (stored : List Byte) (method : Nat) : WriteChain :=
  let (k, g, w) := (w.roomForLast d stored.length).filling d
  let space := 65536 - k.payload.length
  let e : Entry := ⟨b.lba, k.payload.length, stored.length, method, b.crc⟩
  let k1 := { k with
    entries := k.entries ++ [e], payload := k.payload ++ stored.take space, blocks := k.blocks ++ [b.id], owners := k.owners ++ [b.id] }
  let w1 : WriteChain := { w with
    cur := some k1, openGroup := some { g with lbas := b.lba :: g.lbas }
    blocks := w.blocks.map fun x => if x.id == b.id then { x with taken := true } else x }
  if stored.length > space then
    let w2 := w1.close true true
    match w2.openGroup with
    | some g2 =>
      let rest := stored.drop space
      { w2 with cur := some { freshContent g2.num d with payload := rest, lead := rest.length, blocks := [b.id] } }
    | none => w2
  else if k1.payload.length = 65536 ∨ k1.entries.length = 255 then w1.close (!b.ends && !d.direct) false
  else w1

/-- Whether the piece that block `b` begins must start a new group: the open one holds one of its LBAs (R249). -/
def WriteChain.breaksGroup (w : WriteChain) (b : Block) : Bool :=
  match w.cur, w.openGroup with
  | some _, some g =>
    let lbas := (w.blocks.filter fun x => x.piece == b.piece).map (·.lba)
    lbas.any g.lbas.contains
  | _, _ => false

/-- At the first command boundary in a group that spans 16 clusters, the current cluster ends and is the group's last (R109, R110). -/
def WriteChain.closeLong (w : WriteChain) (b : Block) : WriteChain :=
  match w.cur, w.openGroup with
  | some _, some g => if b.ends && g.n ≥ 16 then w.close false false else w
  | _, _ => w

/-- Whether a block is the first of its piece still to be taken, and none of the piece has been taken. -/
def WriteChain.startsPiece (w : WriteChain) (b : Block) : Bool :=
  !w.blocks.any fun x => x.piece == b.piece && x.taken

/-- `n` bytes nothing constrains. -/
def State.freeBytes (s : State) (n : Nat) : List Byte × State :=
  ((List.range n).map fun i => BitVec.ofNat 8 (Config.freeValue (s.free + i)), { s with free := s.free + n })

/-- Take a staged block whose buffer copy is poisoned (Table 12-4): it is logged and not written, but travels with its cluster, which
carries the generation of its LOST record. A Direct disc has a place for it, written with bytes the spec leaves open. -/
def State.takePoisoned (s : State) (c : Fin 16) (d : Disc) (b : Block) : State :=
  let s1 := (s.logLost c 0 (some b.lba) 3).cirq c 0x49 2
  if d.direct then
    let r := s1.freeBytes 4096
    r.2.modWr c fun w => w.append d b r.1 3
  else s1.modWr c fun w =>
    let (k, g, w) := w.filling d
    { w with
      cur := some { k with blocks := k.blocks ++ [b.id] }, openGroup := some { g with lbas := b.lba :: g.lbas }
      blocks := w.blocks.map fun x => if x.id == b.id then { x with taken := true, lost := true } else x }

/-- Code a staged block and append it (R107, R274 to R284). -/
def State.codeStaged (s : State) (c : Fin 16) (d : Disc) (b : Block) : State :=
  let key := if d.keyed then (s.ch c).xtsKey else none
  let s1 := if key.isSome then s.incSat (chRg c) F.XTS_BLK_ENC else s
  if d.direct then s1.modWr c fun w => w.append d b (directBlock key b.lba b.data) 3
  else
    let k := codeBlock (s.coder c d.compress) b.data
    let s2 := if k.failed then (s1.incSat (chRg c) F.CMP_CHECK_FAIL).cirq c 0x38 2 else s1
    let s3 := s2.incSat (chRg c) (if k.method = 1 then F.CMP_BLK_HS else if k.method = 2 then F.CMP_BLK_DEFL else F.CMP_BLK_RAW)
    s3.modWr c fun w => w.append d b (storedBlock key b.lba b.crc k) k.method

/-- Take the next staged block (R107, R109). -/
def State.takeBlock (s : State) (c : Fin 16) (d : Disc) (b : Block) : State :=
  let s0 := if (s.ch c).wr.startsPiece b && (s.ch c).wr.breaksGroup b then s.modWr c fun w => w.close false false else s
  (if b.bad then s0.takePoisoned c d b else s0.codeStaged c d b).modWr c fun w => w.closeLong b

/-- The next staged block assembly has not taken. -/
def WriteChain.nextUntaken (w : WriteChain) : Option Block := w.blocks.find? fun b => !b.taken

/-- Whether the partly filled cluster must reach the media (R110). -/
def WriteChain.mustClose (w : WriteChain) : Bool :=
  match w.cur with
  | some k => k.blocks.any (· < w.forceTo)
  | none => false

/-- Assemble until a cluster closes or staged blocks run out; a partly filled cluster closes only under R110. On a Direct disc a
forced-out cluster raises the write pointer to the next multiple of 16 (R56). R56 names Flush, Unmount, Seal and host-lost shutdown; that
the idle timeout of R110 raises it as well is a DESIGN CHOICE (log 177): the cluster it forces out is as short. The first argument bounds
the blocks taken. -/
def assembleLoop (c : Fin 16) (d : Disc) (had : Nat) : Nat → State → State
  | 0, s => s
  | n + 1, s =>
    let w := (s.ch c).wr
    if w.ready.length > had then s
    else match w.nextUntaken with
      | some b => assembleLoop c d had n (s.takeBlock c d b)
      | none =>
        if w.mustClose then
          let s1 := s.modWr c fun w => w.close false false
          if d.direct && d.nextLba % 16 != 0 then
            let up := (d.nextLba + 15) / 16 * 16
            s1.modDisc c fun x => { x with nextLba := up, holes := x.holes ++ [(d.nextLba, up - d.nextLba)] }
          else s1
        else s

/-- Assembly may run: a writable disc is mounted and the channel has its keys (R286, R428). -/
def State.mayAssemble (s : State) (c : Fin 16) : Bool :=
  match (s.ch c).disc with
  | none => false
  | some d => d.writable && !(s.ch c).keysLost && (s.ch c).fence == 0 && (!d.keyed || (s.ch c).xtsKey.isSome)

/-- CLUSTER_ASSEMBLY (R107): the next cluster is assembled. A disc that requested a key gets it first, and waits for it (R283). -/
def assemble (c : Fin 16) (s : State) : State :=
  if !s.mayAssemble c then s
  else
    let s1 := if (s.ch c).wr.nextUntaken.isSome then s.makeKey c else s
    match (s1.ch c).disc with
    | none => s1
    | some d => if d.owesKey then s1 else assembleLoop c d (s1.ch c).wr.ready.length ((s1.ch c).wr.blocks.length + 2) s1

/-! Commitment (R112). -/

/-- Whether a content may be committed now: while a checkpoint runs, only clusters of a begun DATA group, replacements, and the
checkpoint's own MAP clusters (R111, R255). -/
def WriteChain.allowed (w : WriteChain) (k : Content) : Bool :=
  match w.ckpt with
  | none => true
  | some _ => k.kind == .map || k.kind == .pad || (SMap.find? w.groupIds k.group).isSome || k.supersedes != 0

/-- The continuation sequence a content fixes at its commitment (R112): the number its tail will carry, behind the contents, replacements
among them, that stand before the tail in the queue. `none` where the tail has not been assembled: such a content is not committed yet
(DEDUCED, log 178). A replacement keeps its own. -/
def WriteChain.contAt (w : WriteChain) (k : Content) : Option Nat :=
  if !k.cont then some k.contSeq
  else k.blocks.getLast?.bind fun b =>
    (((w.ready.erase k).filter fun x => w.allowed x || x.tailOf b).findIdx? (Content.tailOf b)).map (w.seq + 1 + ·)

/-- The next content to commit, with its continuation sequence: the tail whose number is reserved and due, else the first that R255 allows
and that takes no reservation (R112). -/
def WriteChain.next? (w : WriteChain) : Option (Content × Nat) :=
  (match w.tail with
   | some (n, b) =>
     if n = w.seq then w.ready.find? (Content.tailOf b) else w.ready.find? fun k => w.allowed k && !k.tailOf b && !k.cont
   | none => w.ready.find? w.allowed).bind fun k => (w.contAt k).map fun n => (k, n)

/-- Commit the next content to the next position: numbered, timed, its continuation fixed and reserved, and encoded (R112). The levels of
its position are staged ahead (R128). -/
def State.commitNext (s : State) (c : Fin 16) (link : Bool) : Option State :=
  let w := (s.ch c).wr
  if w.weakCal.isSome || (s.ch c).keysLost then none
  else match w.next? with
    | none => none
    | some (k, n) =>
      let pcn := s.cr c F.WRC_WPTR
      let p : Placed := ⟨pcn, w.seq, s.plat.time, link, { k with contSeq := n }, false, false⟩
      let s1 := (s.modWr c fun w => { w with
        ready := w.ready.erase k, placed := w.placed ++ [p], seq := w.seq + 1
        tail := if k.cont then k.blocks.getLast?.map fun b => (n, b) else if w.tail.elim false (·.1 == p.seq) then none else w.tail }).cw c
        F.WRC_WPTR (userFrom (pcn + 1))
      let s2 := s1.modWr c fun w => { w with ckpt := w.ckpt.map fun q =>
        if (k.kind == .map && leNat (k.spec.drop 4 |>.take 4) == 0 && k.supersedes == 0)
        then { q with seq := p.seq, pcn := pcn, start := p.seq - 1 } else q }
      some (s2.levelsFor c pcn)

/-- The group identifier of a content: fixed when a cluster of its group is first begun (R108). -/
def WriteChain.gid (w : WriteChain) (k : Content) (seq : Nat) : Nat :=
  if k.kind == .data || k.kind == .map then (SMap.find? w.groupIds k.group).getD seq else seq

/-- A committed cluster is begun: its number is the one R45 assigns to it, its group's identifier is fixed (R108), its levels are committed to
the driver (R128), and its frames and pulses go out. -/
def State.begin_ (s : State) (c : Fin 16) (p : Placed) : State :=
  let gid := (s.ch c).wr.gid p.content p.seq
  let grouped := p.content.kind == .data || p.content.kind == .map
  let s0 := (s.levelsFor c p.pcn).commitLevels c
  let frames := p.frames gid
  let s1 := (s0.answer (.cluster c.val p.pcn frames)).emitGates c p.pcn frames
  let s2 := s1.modWr c fun w => { w with
    placed := w.placed.map fun q => if q.seq == p.seq then { q with begun := true } else q
    groupIds := if grouped then SMap.insert w.groupIds p.content.group gid else w.groupIds
    since := if p.content.kind == .data then w.since + 65536 else w.since }
  let s3 := s2.modCh c fun x => { x with rd := { x.rd with writeAged := false } }
  s3.modDisc c fun d => { d with lastPcn := p.pcn, blank := false }

/-- The next content is committed behind the cluster that begins; with none ready the session ends after this cluster, an underrun where
staged blocks still wait for assembly (R288). -/
def State.commitBehind (s : State) (c : Fin 16) : State :=
  match s.commitNext c false with
  | some s1 => s1
  | none =>
    let w := (s.ch c).wr
    let more := w.nextUntaken.isSome && w.ckpt.isNone && w.weakCal.isNone
    let s1 := if more then (s.incSat (chRg c) F.CMP_UNDERRUN).cirq c 0x38 3 else s
    (s1.modWr c WriteChain.dropReserved).setSession c .ending

/-- Whether the cluster that is about to begin adds a slip that no anchor of the pending ones could carry (R55): a PAD cluster, or one
superseded already (R134). -/
def State.slipFirst (s : State) (c : Fin 16) (p : Placed) : Bool :=
  match (s.ch c).disc with
  | none => false
  | some d => d.direct && (p.dead || p.content.kind == .pad) && d.newSlips.length ≥ slipMax && d.anchorsLeft ≥ 4 && s.mayWrite c

/-! Stopping (R137 to R140). -/

/-- Assert the kill line for a hardware cause (R129). -/
def State.assertKill (s : State) (c : Fin 16) (why : Nat) : State :=
  let s1 := s.modWr c fun w => { w with killWhy := if w.killWhy.contains why then w.killWhy else w.killWhy ++ [why] }
  let s2 := s1.wrs (chRg c) [(F.LDI_STS_KILL_LATCH, 1)]
  if s2.cr c F.LDI_STS_KILL_PIN = 1 then s2
  else ((s2.answer (.kill c.val true)).cw c F.LDI_STS_KILL_PIN 1).cirq c 0x32 2

/-- The kill line follows `LDI.CTL.KILL` and the latch (R129). -/
def State.showKill (s : State) (c : Fin 16) : State :=
  let v := if s.cr c F.LDI_CTL_KILL = 1 ∨ s.cr c F.LDI_STS_KILL_LATCH = 1 ∨ (s.ch c).wr.ldi.held ∨ (s.ch c).st = .bivouac
    ∨ !(s.ch c).powered then 1 else 0
  if s.cr c F.LDI_STS_KILL_PIN = v then s
  else
    let s1 := (s.answer (.kill c.val (v == 1))).cw c F.LDI_STS_KILL_PIN v
    if v = 1 then s1.cirq c 0x32 2 else s1

/-- One of the Media Quality log's counts since mount. -/
def State.quality (s : State) (c : Fin 16) (i : Nat) : State :=
  s.modCh c fun x => { x with rd := { x.rd with quality := x.rd.quality.set i (x.rd.quality.getD i 0 + 1) } }

/-- A session ends in row `row` of the cluster being written (R138 to R140): at a cluster boundary without a scar, else the cluster is
cut, its content is committed afresh at the position R48 allows, and the contents behind it return to the queue. -/
def State.finishStop (s : State) (c : Fin 16) (row code : Nat) (safety : Bool) : State :=
  let s1 := ((s.returnUnbegun c).cw c F.WRC_STS_LAST_STOP code).modWr c fun w => { w with stopping := none }
  let s2 := s1.setSession c .idle
  -- an armed session has begun no cluster of its own (R116)
  match if (s.ch c).wr.session = .armed then none else (s2.ch c).wr.placed.reverse.find? (·.begun) with
  | none => s2
  | some p =>
    if row ≥ 9 ∧ !safety then s2.endGates c p.pcn
    else
      let next := userFrom (afterCut p.pcn row)
      let s3 := (s2.answer (.cut c.val p.pcn row safety)).modWr c fun w => { w with
        placed := w.placed.filter (fun q => q.seq != p.seq), ready := if p.dead then w.ready else p.back :: w.ready
        trail := List.replicate 8 Trail.fresh }
      let s4 := (s3.cw c F.WRC_WPTR next).cw c F.WRC_LAST_SCAR p.pcn
      let s5 := if row ≤ 8 then (s4.cnt c 6).quality c 16 else s4
      (s5.cirq c 0x30 0).addSlips c (p.pcn :: userBetween 4096 (p.pcn + 1) next)

/-- The code a stop reports (R137): that of the event that stops the session; of events in one cycle the lowest. -/
def WriteChain.stopCode (w : WriteChain) (code now : Nat) : Nat :=
  match w.stopping with
  | some x => if w.stopAt = now then min x code else x
  | none => code

/-- An orderly stop event (R137): the session stops at the next frame boundary. -/
def State.orderlyStop (s : State) (c : Fin 16) (code : Nat) : State :=
  let w := (s.ch c).wr
  if w.session = .idle then s
  else if w.session = .armed then s.finishStop c 0 code false
  else (s.modWr c fun w => { w with
    stopping := some (w.stopCode code s.plat.time), stopAt := if w.stopping.isSome then w.stopAt else s.plat.time }).setSession c .stopping

/-- A safety stop (R139): gates low, the kill line asserted and latched, the frame in progress cut short. -/
def State.safetyStop (s : State) (c : Fin 16) (row code : Nat) : State :=
  if (s.ch c).wr.session = .idle then s
  else (((s.assertKill c code).cirq c 0x30 1).finishStop c row code true)

/-- A cluster begins at its boundary: a strategy entry that is due is fetched first (R121), and the next content is committed behind it. A
fetch that fails leaves the previous values and stops the session in order, code 9: before the first frame on a new layer, else in the
cluster that begins. A cluster that adds a slip lets the anchor that R55 calls for come first. -/
def State.boundary (s : State) (c : Fin 16) (p : Placed) : State :=
  let layer := (posOf p.pcn).layer
  if s.slipFirst c p then s.putAnchor c 5 none
  else if s.tpyNeeds c layer && s.tpyBad c layer then
    let s1 := s.tpyFetch c layer
    if (s1.ch c).wr.tpyLayer != some layer then s1.finishStop c 9 9 false
    else ((s1.begin_ c p).setSession c .writing).orderlyStop c 9
  else
    let s1 := if s.tpyNeeds c layer then s.tpyFetch c layer else s
    let s2 := ((s1.begin_ c p).setSession c .writing).commitBehind c
    if p.dead || p.content.kind == .pad then s2.addSlips c [p.pcn] else s2

/-- CLUSTER_COMMITMENT (R112): the committed position begins, and the next content is committed behind it. The session's first cluster
begins only while R116 still holds, its powers committed to the driver: else the session does not start. -/
def commitment (c : Fin 16) (s : State) : State :=
  let w := (s.ch c).wr
  if !(w.session == .armed || w.session == .writing) then s
  else match w.placed.find? fun p => !p.begun with
    | none => s
    | some p =>
      if w.session == .armed && !(s.mayWrite c && s.powersSet c) then (s.returnUnbegun c).setSession c .idle
      else s.boundary c p

/-! Session start (R116, R141, R288). -/

/-- Enough clusters are ready (R288): four, or fewer when they hold every staged block that must reach the media, the rest of a
checkpoint or of a Seal, or a replacement. -/
def WriteChain.enough (w : WriteChain) : Bool :=
  let r := w.ready.filter w.allowed
  !r.isEmpty && (r.length ≥ 4 || r.any (fun k => k.supersedes != 0 || k.kind == .map || k.kind == .pad)
    || (r.any (fun k => k.blocks.any (· < w.forceTo)) && !w.blocks.any fun b => !b.taken && b.id < w.forceTo))

/-- Channels that write, and channels that read or write (feature 0x02). -/
def State.writersNow (s : State) : Nat := (allChans.filter fun i => (s.ch i).wr.session != .idle).length
def State.busyNow (s : State) : Nat :=
  (allChans.filter fun i => (s.ch i).wr.session != .idle || (s.ch i).rd.running.isSome).length

/-- The stricter of the Power Management feature and the thermal level (R402): 0 no limit, 1 at most 8 channels writing, 2 at most 4
channels reading or writing. -/
def State.limit (s : State) : Nat := max (s.feat 0x02 % 32) (s.pr F.TMP_STS_LEVEL - 1)

/-- Whether the limit lets one more channel write. -/
def State.mayAddWriter (s : State) (c : Fin 16) : Bool :=
  match s.limit with
  | 0 => true
  | 1 => (s.ch c).wr.session != .idle || s.writersNow < 8
  | _ => (s.ch c).wr.session != .idle || (s.ch c).rd.running.isSome || s.busyNow < 4

/-- Whether the limit lets one more channel read. -/
def State.mayAddReader (s : State) (c : Fin 16) : Bool :=
  s.limit < 2 || (s.ch c).wr.session != .idle || (s.ch c).rd.running.isSome || s.busyNow < 4

/-- Device time of a channel's oldest staged block. -/
def State.oldestStaged (s : State) (c : Fin 16) : Nat := ((s.ch c).wr.blocks.head?.map (·.time)).getD s.plat.time

/-- Writers beyond the limit end their sessions at a cluster boundary (R402); those whose oldest staged block is oldest keep the
permission to write. -/
def State.shed (s : State) : State :=
  let ws := (allChans.filter fun i => (s.ch i).wr.session == .armed || (s.ch i).wr.session == .writing).mergeSort fun a b =>
    s.oldestStaged a ≤ s.oldestStaged b
  let readers := (allChans.filter fun i => (s.ch i).wr.session == .idle && (s.ch i).rd.running.isSome).length
  let room := match s.limit with
    | 0 => 16
    | 1 => 8
    | _ => 4 - readers
  (ws.drop room).foldl (fun s i => s.endAtBoundary i) s

/-- WRITE_SESSION_START (R116): what must be written before is written first, identity revision 1 before a disc's first user-area cluster
(R51) and an anchor for slips that overflow (R55); the layer's strategy entry is fetched, its levels are sent, and the first position is
committed. -/
def sessionStart (c : Fin 16) (s : State) : State :=
  let w := (s.ch c).wr
  match (s.ch c).disc with
  | none => s
  | some d =>
    let idle := w.session == .idle || w.session == .ending
    if !idle || !d.writable || !s.mayWrite c || !w.enough || (s.ch c).fence != 0 || !s.mayAddWriter c
        || (s.ch c).rd.running.isSome || (s.ch c).st == .mechStopped || s.switching c then s
    else
      let s1 := (if d.revision = 0 then s.writeIdentity c else s).slipAnchors c
      let p := posOf (s1.cr c F.WRC_WPTR)
      if s1.tpyNeeds c p.layer && s1.tpyBad c p.layer then s1.tpyFetch c p.layer
      else
        let s2 := if s1.tpyNeeds c p.layer then s1.tpyFetch c p.layer else s1
        let s3 := ((s2.stageLevels c (s2.tpyLevels c p.layer p.zone)).commitLevels c).modWr c fun w => { w with
          trail := List.replicate 8 Trail.fresh, gone := [] }
        let s3 := if (s.ch c).rd.writeAged then s3.incSat (chRg c) F.SCH_AGED else s3
        match s3.commitNext c true with
        | some s4 => s4.setSession c .armed
        | none => s3

/-! Verify (R131 to R136). -/

/-- Whether some content not yet passed still holds a staged block. -/
def WriteChain.holds (w : WriteChain) (id : Nat) : Bool :=
  (w.cur.elim false fun k => k.blocks.contains id) || w.ready.any (fun k => k.blocks.contains id)
    || w.placed.any fun p => p.content.blocks.contains id

/-- Runs of consecutive LBAs with consecutive entries of one cluster. -/
def blockRuns : List (Nat × Nat × Nat × Nat) → List Extent
  | [] => []
  | (lba, pcn, idx, gen) :: rest =>
    let e : Extent := ⟨lba, 1, pcn, idx, gen, false⟩
    match blockRuns rest with
    | x :: xs => if mergeable e x then { x with start := lba, len := x.len + 1, idx := idx } :: xs else e :: x :: xs
    | [] => [e]

/-- Commit to the media the staged blocks of a list that no unpassed content holds any more (R136, R251): the map is updated, their
space and their pieces' reservations are freed. A poisoned block gets a LOST record, whose cluster and entry the spec leaves open (R373). -/
def State.commitBlocks (s : State) (c : Fin 16) (ids : List Nat) : State :=
  let w := (s.ch c).wr
  let done := w.blocks.filter fun b => ids.contains b.id && b.taken && !w.holds b.id
  let rs := blockRuns ((done.filter fun b => !b.lost).filterMap fun b => b.home.map fun h => (b.lba, h.1, h.2.1, h.2.2))
  let direct := ((s.ch c).disc.map (·.direct)).getD false
  let s0 := if direct then s else rs.foldl (fun s e => s.mapUpdate c e) s
  let bad := done.filter fun b => b.lost
  let s1 := if direct then s0 else bad.foldl (fun (s : State) (b : Block) => match b.home with
    | some h =>
      let p := s.draw 32
      let i := p.2.draw 8
      i.2.mapUpdate c ⟨b.lba, 1, p.1, i.1, h.2.2, true⟩
    | none => s) s0
  let s2 := s1.modWr c fun w => { w with blocks := w.blocks.filter fun b => !(done.any fun x => x.id == b.id) }
  let s3 := s2.modWr c fun w => { w with pieces := w.pieces.filter fun p => w.blocks.any fun b => b.piece == p.1 }
  (s3.cnt c 2 done.length).modSmart (some c) fun m => { m with blocksWritten := m.blocksWritten + done.length }

/-- A cluster has passed verify or stands: its entries give their blocks a home, and its blocks are committed where nothing else holds
them. -/
def State.clusterStands (s : State) (c : Fin 16) (p : Placed) : State :=
  let gen := (s.ch c).wr.gid p.content p.seq % 2 ^ 32
  let homes := p.content.owners.zipIdx
  let s1 := s.modWr c fun w => { w with
    blocks := w.blocks.map fun b => match homes.find? (fun h => h.1 == b.id) with
      | some h => { b with home := some (p.pcn, h.2, gen) }
      | none => if b.lost && p.content.blocks.contains b.id then { b with home := some (p.pcn, 0, gen) } else b
    ckpt := w.ckpt.map fun q => if p.content.kind == .map && leNat (p.content.spec.drop 4 |>.take 4) == 0
      then { q with seq := p.seq, pcn := p.pcn } else q }
  s1.commitBlocks c p.content.blocks

/-- The replacement of a failing cluster's content (R133): it supersedes it, its continuation is the one already fixed, and one more
replacement counts for `bump`. -/
def Placed.replacement (p : Placed) (bump : Bool) : Content :=
  { p.content with cont := false, supersedes := p.seq, repl := if bump then p.content.repl + 1 else p.content.repl }

/-- Queue replacements for the first positions neither committed nor reserved (R133): behind a tail whose position its head has
reserved. -/
def WriteChain.queueReplacement (w : WriteChain) (ks : List Content) : WriteChain :=
  match w.tail.bind fun t => w.ready.findIdx? (Content.tailOf t.2) with
  | some i => { w with ready := w.ready.take (i + 1) ++ ks ++ w.ready.drop (i + 1) }
  | none => { w with ready := ks ++ w.ready }

/-- E of the frames of a cluster (R131), by cluster position, from the verify signal of each. -/
def State.clusterErrors (s : State) (c : Fin 16) (p : Placed) (signals : List (List Nat)) : List Nat :=
  if signals.isEmpty then []
  else ((p.frames ((s.ch c).wr.gid p.content p.seq)).zip signals).zipIdx.map fun (x : (List Bool × List Nat) × Nat) =>
    frameErrors (s.cr c (F.VFY_SLICE (x.2 % 8))) (s.cr c (F.VFY_DELAY (x.2 % 8))) x.1.1 x.1.2

/-- What the verify spot reports of a cluster (R132, Table 4-11): whether it failed, its frames' marks in `VFY.LAST`. -/
def State.showVerdict (s : State) (c : Fin 16) (p : Placed) (mqs : List Nat) : Bool × State :=
  let below := (mqs.filter (· < s.cr c F.VFY_CTL_THR)).length
  let failed := decide (below > s.cr c F.VFY_CTL_LIMIT)
  (failed, (mqs.foldl (fun s q => s.sample (chRg c) 0x11 q) s).wrs (chRg c) [(F.VFY_LAST_MIN_MQ, mqs.foldl min 255),
    (F.VFY_LAST_MEAN_MQ, mqs.sum / max 1 mqs.length), (F.VFY_LAST_BELOW, below), (F.VFY_LAST_FAILED, b2n failed),
    (F.VFY_LAST_PCN, p.pcn)])

/-- A cluster fails verify and is replaced (R133); on a Direct disc every cluster committed behind it is superseded with it, and joins the
slip list, those not yet begun as they begin (R134). -/
def State.replace (s : State) (c : Fin 16) (p : Placed) (rest : List Placed) : State :=
  let s1 := ((s.cirq c 0x33 0).cnt c 5).quality c 15
  if ((s.ch c).disc.map (·.direct)).getD false then
    let behind := rest.filter fun q => !q.dead
    let s2 := s1.modWr c fun w => { w with placed := rest.map fun q => { q with dead := true } }
    (s2.modWr c fun w => w.queueReplacement (p.replacement true :: behind.map (·.replacement false))).addSlips c
      (p.pcn :: (behind.filter (·.begun)).map (·.pcn))
  else s1.modWr c fun w => w.queueReplacement [p.replacement true]

/-- A copy stands although it fails (R135): WEAK, and a power calibration on its layer comes before the next commitment. -/
def State.standWeak (s : State) (c : Fin 16) (p : Placed) (low : Nat) : State :=
  let pos := posOf p.pcn
  (((s.modWr c fun w => { w with
    weak := w.weak ++ [⟨p.pcn, low, p.content.repl, pos.layer, pos.zone⟩]
    weakCal := if SMap.get w.testNext pos.layer 0 < 16 then some pos.layer else w.weakCal }).cirq c 0x33 1).event 7
    4 0xC1).clusterStands c p

/-- VERIFY_VERDICT (R131 to R136): the oldest begun cluster without a verdict is judged by the verify signal of its frames. -/
def verdict (c : Fin 16) (signals : List (List Nat)) (s : State) : State :=
  match (s.ch c).wr.placed with
  | [] => s
  | p :: rest =>
    if !p.begun then s
    else
      let en := s.cr c F.VFY_CTL_EN = 1
      let mqs := if en then (s.clusterErrors c p signals).map (markQuality (s.cr c F.VFY_EMAX)) else []
      let s1 := (s.modWr c fun w => { w with placed := rest }).cnt c 4
      let r := if en then s1.showVerdict c p mqs else (false, s1)
      let s3 := if rest.isEmpty && (r.2.ch c).wr.session == .ending then (r.2.setSession c .idle).endGates c p.pcn else r.2
      if p.dead then s3
      else if !r.1 || s.cr c F.VFY_CTL_REPL_EN = 0 then s3.clusterStands c p
      else if p.content.repl ≥ s.cr c F.VFY_CTL_MAX_REPL then s3.standWeak c p (mqs.foldl min 255)
      else s3.replace c p rest

/-! Checkpoints (R254, R255). -/

/-- The MAP contents of the records (R255 step 5, Table 2-9). -/
def mapContents (recs : List Extent) (num group : Nat) (direct : Bool) : List Content :=
  let parts := max 1 ((recs.length + 4095) / 4096)
  (List.range parts).map fun i =>
    let rs := (recs.drop (4096 * i)).take 4096
    let payload := rs.flatMap fun e =>
      leBytes 4 e.start ++ leBytes 2 e.len ++ leBytes 4 e.pcn ++ leBytes 1 e.idx ++ leBytes 1 1 ++ leBytes 4 e.gen
    { plainContent .map payload (leBytes 4 num ++ leBytes 4 i ++ leBytes 4 parts ++ leBytes 4 rs.length) direct with
      group := group
      pos := if parts = 1 then 0 else if i = 0 then 1 else if i + 1 = parts then 3 else 2 }

/-- A checkpoint begins for an anchor reason (R254, R255); on a Direct disc the anchor is written, once the disc may be written. Nothing is
written to a disc that may not be (R52), nor without room for its anchor (R53), nor over a poisoned map record (R373). -/
def State.startCheckpoint (s : State) (c : Fin 16) (reason : Nat) : State :=
  match (s.ch c).disc with
  | none => s
  | some d =>
    -- a blank disc stays blank through Unmount, shutdown and host-lost mode (R241, R51)
    if !d.writable || (s.ch c).keysLost || (s.ch c).st == .mechStopped || (d.revision == 0 && (reason == 2 || reason == 4))
        || (d.anchorsLeft < 4 && reason != 3) then s
    else if d.direct then
      if !s.mayWrite c then s.modWr c fun w => { w with ckptDue := some reason }
      else
        let s1 := if d.revision = 0 then s.writeIdentity c else s
        (s1.writeAnchor c reason none).showDisc c
    else if d.mapPoison then s
    else match (s.ch c).wr.ckpt, s.running (chRg c) 0x40 with
      | some _, _ | _, false => s.modWr c fun w => { w with ckptDue := some reason }
      | none, true => (s.modWr c fun w => { w with
          ckpt := some ⟨reason, d.ckptNum + 1, .settling, 0, 0, 0, 0⟩, ckptDue := none, since := 0 }).showDisc c

/-- Whether the DATA group of a begun cluster is still open, or a begun cluster holds uncommitted blocks (R255 steps 1 and 2). -/
def WriteChain.settled (w : WriteChain) : Bool :=
  w.placed.isEmpty && !w.ready.any (fun k => (SMap.find? w.groupIds k.group).isSome || k.supersedes != 0)
    && !(match w.openGroup with
      | some g => (SMap.find? w.groupIds g.num).isSome
      | none => false)

/-- Move a settling checkpoint on (R255 steps 3 to 5): write back the cache, snapshot the map, and queue its MAP clusters. -/
def State.ckptAdvance (s : State) (c : Fin 16) : State :=
  match (s.ch c).wr.ckpt with
  | some k =>
    if k.stage = .settling ∧ (s.ch c).wr.settled then
      let s1 := s.writeBackAll c
      let recs := (s1.ch c).map.recs.map (·.2)
      s1.modWr c fun w =>
        let ms := mapContents recs k.num w.nextGroup false
        { w with ready := ms ++ w.ready, nextGroup := w.nextGroup + 1,
                 ckpt := some { k with stage := .writing, parts := ms.length } }
    else s
  | none => s

/-- Whether every MAP cluster of a checkpoint has been committed. -/
def WriteChain.mapDone (w : WriteChain) : Bool :=
  !w.ready.any (fun k => k.kind == .map) && !w.placed.any fun p => p.content.kind == .map

/-- CHECKPOINT_DONE (R255 step 6): the anchor is written, where the disc may be written, and DATA writing resumes. -/
def checkpointDone (c : Fin 16) (s : State) : State :=
  match (s.ch c).wr.ckpt with
  | some k =>
    if k.stage = .writing ∧ (s.ch c).wr.mapDone ∧ s.mayWrite c then
      let s1 := s.writeAnchor c k.reason (some k)
      ((s1.modWr c fun w => { w with ckpt := none }).showDisc c).cirq c 0x40 0
    else s
  | none => s

end Sys2Proof.Machine
end

