-- ==== Sys2Proof/Machine/ReadOps.lean ====
section
/-! DEFINITION. Reads at a channel: resolving blocks, serving them, media operations, frame sync, first-pass decoding, the retry
ladder and its outcomes (R19, R54, R73 to R96, R246, R266, R286, R289, R290, R333, R336, R348). -/

namespace Sys2Proof.Machine
open Sys2Proof

/-! Placement on a Direct disc (R54). -/

/-- User-area cluster number `n`, from 0. -/
def userAt (n : Nat) : Nat :=
  let first := layerClusters - anchorEnd
  if n < first then anchorEnd + n
  else
    let per := layerClusters - 768
    let l := 1 + (n - first) / per
    l * layerClusters + (if l % 2 = 0 then 768 else 0) + (n - first) % per

/-- Countable cluster `m`: the user-area cluster that leaves out the slips before it. The third argument bounds the search. -/
def countable (slips : List Nat) (m : Nat) : Nat → Nat → Nat
  | 0, p => p
  | n + 1, p =>
    let q := userAt (m + (slips.filter (· ≤ p)).length)
    if q = p then p else countable slips m n q

/-- Where a Direct disc holds an LBA (R54, R56). -/
def Disc.directTarget (d : Disc) (lba : Nat) : Target :=
  if lba ≥ d.nextLba || d.holes.any (fun h => h.1 ≤ lba && lba < h.1 + h.2) then .zero
  else .media (countable d.slips (lba / 16) (d.slips.length + 1) (userAt (lba / 16))) (lba % 16)

/-! Commands that read. -/

/-- The read command in slot `k`. -/
def State.readCmd? (s : State) (c : Fin 16) (k : Nat) : Option ReadCmd := (s.ch c).rd.cmds.find? (·.slot == k)

/-- Change the read command in slot `k`. -/
def State.modCmd (s : State) (c : Fin 16) (k : Nat) (f : ReadCmd → ReadCmd) : State :=
  s.modRd c fun r => { r with cmds := r.cmds.map fun q => if q.slot == k then f q else q }

/-- The newest staged block of an LBA (R246 step 1). -/
def WriteChain.staged (w : WriteChain) (lba : Nat) : Option Block := (w.blocks.filter (·.lba == lba)).getLast?

/-- Whether a fill for this read is a streaming one (R264). -/
def State.streaming (s : State) (c : Fin 16) (q : ReadCmd) : Bool :=
  q.n ≥ s.cr c F.LTC_CTL_STREAM_MIN || (s.cb c F.LTC_CTL_STREAM_EN && q.slba == (s.ch c).map.readEnd)

/-- What a record says of an LBA to this command: a probe looks at the cluster even of a LOST block. -/
def State.probed (s : State) (c : Fin 16) (q : ReadCmd) (lba : Nat) (t : Target) : Target :=
  match q.kind, t with
  | .probe, .failed _ => match (s.ch c).map.view lba with
    | some e => .media e.pcn (e.idx + (lba - e.start))
    | none => t
  | _, t => t

/-- Resolve one LBA of a command (R246); `fresh` leaves the write buffer out, as a FUA read does (R333). -/
def State.resolve (s : State) (c : Fin 16) (q : ReadCmd) (stream fresh : Bool) (lba : Nat) : Target × State :=
  match if fresh then none else (s.ch c).wr.staged lba with
  | some b => (.buffer b.id, s)
  | none => match (s.ch c).disc with
    | none => (.failed false, s)
    | some d =>
      if d.direct then (d.directTarget lba, s)
      else match s.lookup c ⟨q.slot, lba, stream⟩ with
        | (some t, s1) => (s1.probed c q lba t, s1)
        | (none, s1) => (.looking, s1)

/-- Resolve all of a command's LBAs. -/
def State.resolveAll (s : State) (c : Fin 16) (q : ReadCmd) (fresh : Bool) : State :=
  let stream := s.streaming c q
  let r := (List.range q.n).foldl (fun (acc : List Target × State) i =>
    let (t, s1) := acc.2.resolve c q stream fresh (q.slba + i)
    (acc.1 ++ [t], s1)) ([], s)
  r.2.modCmd c q.slot fun x => { x with targets := r.1 }

/-! Serving. -/

/-- Set the target of an LBA of a command. -/
def State.setTarget (s : State) (c : Fin 16) (k lba : Nat) (t : Target) : State :=
  s.modCmd c k fun q => { q with targets := q.targets.zipIdx.map fun e => if q.slba + e.2 == lba then t else e.1 }

/-- A block of a command is there: a Read sends it, a Verify only counts it as good (R333, R334). -/
def State.deliver (s : State) (c : Fin 16) (q : ReadCmd) (lba : Nat) (data : List Byte) : State :=
  let s1 := match q.kind, s.slot? q.slot with
    | .read, some cmd =>
      ((s.sendData cmd (4096 * (lba - q.slba)) data).cnt c 1).modSmart (some c) fun m => { m with blocksRead := m.blocksRead + 1 }
    | _, _ => s
  s1.setTarget c q.slot lba .done

/-- Serve what a command needs no media for: staged blocks and zeros. A staged block is checked by its CRC-32C for a Verify (R334). -/
def State.serveNow (s : State) (c : Fin 16) (k : Nat) : State :=
  match s.readCmd? c k with
  | none => s
  | some q => q.targets.zipIdx.foldl (fun s e =>
    let lba := q.slba + e.2
    match e.1 with
    | .zero => s.deliver c q lba (zeros 4096)
    | .buffer id =>
      (match (s.ch c).wr.blocks.find? (·.id == id) with
       | none => s.deliver c q lba (zeros 4096)
       | some b =>
         if q.kind == .probe then s.setTarget c k lba .done
         else if b.bad || (q.kind == .verify && crc32c b.data != b.crc) then
           (s.logLost c 0 (some lba) (if b.bad then 3 else 2)).setTarget c k lba (.failed false)
         else s.deliver c q lba b.data)
    | _ => s) s

/-- Clusters a command needs, in order, without repeats. -/
def ReadCmd.clusters (q : ReadCmd) : List Nat :=
  if q.kind == .probe then q.probe.mergeSort.eraseDups
  else (q.targets.filterMap fun t => match t with
    | .media p _ => some p
    | _ => none).mergeSort.eraseDups

/-- Runs of consecutive numbers of an increasing list: first and count. -/
def pcnRuns : List Nat → List (Nat × Nat)
  | [] => []
  | p :: ps => match pcnRuns ps with
    | (q, n) :: rest => if p + 1 = q then (p, n + 1) :: rest else (p, 1) :: (q, n) :: rest
    | [] => [(p, 1)]

/-- Whether the channel's write operation is queued: it has staged blocks not yet in a begun cluster (R336). -/
def WriteChain.hasOp (w : WriteChain) : Bool :=
  let begun := (w.placed.filter (·.begun)).flatMap (·.content.blocks)
  w.blocks.any fun b => !begun.contains b.id

/-- Media operations queued on a channel: the reads and its one write operation. -/
def State.opCount (s : State) (c : Fin 16) : Nat := (s.ch c).rd.ops.length + b2n (s.ch c).wr.hasOp

/-- Put a media operation at the end of the queue. -/
def State.pushOp (s : State) (c : Fin 16) (k first count : Nat) : State :=
  s.modRd c fun r => { r with
    ops := r.ops ++ [⟨r.nextOp, k, first, count, s.plat.time, false⟩], nextOp := r.nextOp + 1 }

/-- The operations queued, and that of a write whose data is being read (R324). -/
def State.opsTaken (s : State) (c : Fin 16) : Nat :=
  (s.ch c).rd.ops.length + b2n ((s.ch c).wr.hasOp || (s.ch c).wr.intake.any (·.granted))

/-- A command becomes a media operation while fewer than 4,096 are queued (R324). -/
def State.queueOp (s : State) (c : Fin 16) (k first count : Nat) : State :=
  if s.opsTaken c ≥ 4096 then s else s.pushOp c k first count

/-- Whether an operation covers a cluster. -/
def MediaOp.covers (o : MediaOp) (pcn : Nat) : Bool := o.first ≤ pcn && pcn < o.first + o.count

/-- Queue the media operations of a command: one for each run of consecutive clusters it needs and has no operation for. -/
def State.issueOps (s : State) (c : Fin 16) (k : Nat) : State :=
  match s.readCmd? c k with
  | none => s
  | some q =>
    if q.targets.any (· == .looking) then s
    else
      let mine := (s.ch c).rd.ops.filter (·.slot == k)
      let tails := (s.ch c).rd.tails.filter fun t => q.targets.contains (.tail t.pcn t.idx)
      (pcnRuns ((q.clusters ++ tails.map (·.at_)).filter fun p => !mine.any (·.covers p))).foldl (fun s r => s.queueOp c k r.1 r.2) s

/-- Whether some command or tail needs a cluster. -/
def ReadPath.needs (r : ReadPath) (pcn : Nat) : Bool :=
  r.cmds.any (fun q => q.clusters.contains pcn) || r.tails.any (·.at_ == pcn)

/-! Frame sync begins (R73, R75). -/

/-- The address of a cluster's first frame for a lane, at a strand shift of the pickup (R78, R90): past the edge of the swath the lane
is on the strand beside it, in the next swath inward or outward. -/
def laneTarget (pcn l : Nat) (shift : Int) : FrameAddr :=
  let a := addrOf pcn l
  let n : Int := l + shift
  let out : Int := if a.layer % 2 = 0 then 1 else -1
  let sw : Int := if n < 0 then a.swath - out else if n > 7 then a.swath + out else a.swath
  { a with strand := (n % 8).toNat, swath := (clampInt 0 439 sw).toNat }

/-- Where ADIP expects the start of a frame in a lane's aligned stream (R73): the next frame pair begins where the last word ended, and
frames follow each other at 9,936 bits. Without a valid ADIP address it is the end of the stream (DESIGN CHOICE, log 156). -/
def State.expectP (s : State) (c : Fin 16) (l : Fin 8) (target : FrameAddr) : Int :=
  match (if s.cr c F.WOB_STS_ADIP_VALID = 0 then none else (s.ch c).rd.adipPrev) with
  | some w =>
    let e := (frameAddr w).next.next
    let f := framesIn target.zone
    (((s.ch c).rd.lane l).adipPos + 9936 * ((target.frame + f - e.frame % f) % f) : Nat)
  | none => ((s.ch c).rd.loops[l].end_ : Nat)

/-- A lane enters HUNT for a frame (R75). -/
def State.huntLane (s : State) (c : Fin 16) (l : Fin 8) (target : FrameAddr) : State :=
  let p := s.expectP c l target
  (((s.laneSts c l 0 0).modLane c l fun x => { x with next := target.bits, pos := p, mismatch := none, choice := none, last := none }).cw c
    (F.BRC_LANE_STS_STRAND l) target.strand).zoneDue c l

/-- Every lane enters HUNT at a cluster (R75). -/
def State.hunt (s : State) (c : Fin 16) (pcn : Nat) : State :=
  let s1 := (List.finRange 8).foldl (fun (s : State) (l : Fin 8) => s.huntLane c l (laneTarget pcn l (s.ch c).rd.shift)) s
  s1.cirq c 0x29 0

/-- Every lane enters HUNT where it is: after a jump, a change of the track offset or of the spindle's speed (R75). The frame expected
is the next one by ADIP, or without it the one predicted before. -/
def State.rehunt (s : State) (c : Fin 16) : State :=
  let s1 := (List.finRange 8).foldl (fun (s : State) (l : Fin 8) =>
    let strand := s.cr c (F.BRC_LANE_STS_STRAND l)
    let a : FrameAddr := match (if s.cr c F.WOB_STS_ADIP_VALID = 0 then none else (s.ch c).rd.adipPrev) with
      | some w => (frameAddr w).next.next
      | none => frameAddr ((s.ch c).rd.lane l).next
    s.huntLane c l { a with strand := strand }) s
  s1.cirq c 0x29 0

/-! Where a ladder puts the pickup (Table 3-8). -/

/-- Nanometres as an error of a slot, by its `UNIT` (R159). -/
def State.nmError (s : State) (c : Fin 16) (q nm : Nat) : Int :=
  (nm * 2 ^ 21 / max 1 (s.cr c (F.SLT_UNIT q)) : Nat)

/-- The pickup leaves a ladder's offsets (Table 3-8 steps 7 to 9 and 11), and its lanes hunt (R75). -/
def State.ladderRest (s : State) (c : Fin 16) : State :=
  let r := (s.ch c).rd
  if r.tgtBase.isNone && r.focBase.isNone && r.sacBase.isNone && r.shift == 0 then s
  else
    let put := fun (s : State) (f : Fld) (v : Option Nat) => v.elim s (s.cw c f)
    let s1 := put (put (put s (F.SLT_TGT 1) r.tgtBase) (F.SLT_TGT 0) r.focBase) (F.SLT_MANUAL 5) r.sacBase
    let s2 := (List.range 8).foldl (fun (s : State) l => s.cw c (F.BRC_LANE_STS_STRAND l) l) s1
    (s2.modRd c fun r => { r with tgtBase := none, focBase := none, sacBase := none, shift := 0 }).rehunt c

/-- A new commanded speed, to which the lanes hunt anew (R75). -/
def State.speedCmd (s : State) (c : Fin 16) (rpm : Nat) : State :=
  if s.cr c F.SPN_SPEED_CMD = rpm then s else (s.cw c F.SPN_SPEED_CMD rpm).rehunt c

/-- The commanded speed that step 10 lowered is raised again (R94, R208). -/
def State.fullSpeed (s : State) (c : Fin 16) : State :=
  if (s.ch c).rd.slow then (s.modRd c fun r => { r with slow := false }).speedCmd c 3000 else s

/-- What a read of a step sets while it holds the pickup (Table 3-8, R159, R182, R208): the tracking or focus target in nanometres by
`UNIT`, the aberration code, the speed, or a shift by a strand. `left` counts the step's reads still to make, this one included. -/
def State.ladderMech (s : State) (c : Fin 16) (i left : Nat) (shift : Int) : State :=
  let s1 := s.ladderRest c
  let move := fun (s : State) (q nm : Nat) (up : Bool) =>
    let t := s.cr c (F.SLT_TGT q)
    let o := s.nmError c q nm
    s.cw c (F.SLT_TGT q) (ofSigned 24 (toSigned 24 t + (if up then o else -o)))
  let s2 : State :=
    if i = 7 ∨ i = 8 then
      (move s1 1 (s1.cr c F.RTY_OFFSETS_TRK_OFS) (i == 7)).modRd c fun r => { r with tgtBase := some (s1.cr c (F.SLT_TGT 1)) }
    else if i = 9 then
      (if s1.cr c (F.SLT_STATE_MODE 5) ≠ 1 ∨ left > 2 then
        -- focus, outward of the aberration reads; without SAC in OPEN only these two are made (R182)
        (move s1 0 (s1.cr c F.RTY_OFFSETS_FOC_OFS) (left % 2 == 0)).modRd c fun r => { r with focBase := some (s1.cr c (F.SLT_TGT 0)) }
      else
        let m := s1.cr c (F.SLT_MANUAL 5)
        let d : Int := (s1.cr c F.RTY_OFFSETS_SA_OFS : Int) * toSigned 16 (s1.cr c F.CLE_SA_CTL) * 64
        (s1.cw c (F.SLT_MANUAL 5) (ofSigned 24 (satQ (toSigned 24 m + (if left == 2 then d else -d))))).modRd c fun r =>
          { r with sacBase := some m })
    else if i = 11 then s1.modRd c fun r => { r with shift := shift }
    else s1
  if i = 10 then (s2.modRd c fun r => { r with slow := true }).speedCmd c 1500
  else if i > 10 then s2.fullSpeed c
  else s2

/-- Whether a cluster's ladder is inside a step: re-decoding stored rows, or reading or decoding while it holds the pickup (R94). -/
def ClusterRead.inStep (x : ClusterRead) (holder : Option Nat) : Bool :=
  x.step != 0 && ((x.captured && x.step ≤ 3) || holder == some x.pcn)

/-- Remove operations nothing needs and clusters nothing reads; a ladder ends at the next boundary of its steps, without a verdict
(R94). -/
def State.trimOps (s : State) (c : Fin 16) : State :=
  s.modRd c fun r =>
    let ops := r.ops.filter fun o => (List.range o.count).any fun i => r.needs (o.first + i)
    let keep := fun (x : ClusterRead) => r.needs x.pcn || x.inStep r.holder
    let live := r.clusters.filter keep
    { r.withdraw fun j => j.kind == JobKind.first && !live.any (·.pcn == j.pcn) with
      ops := ops, clusters := live
      running := r.running.bind fun o => if ops.any (·.id == o) then some o else none }

/-- A command whose every block is settled completes: Access Denied before Unrecovered Read Error (R286, R290, R96). -/
def State.finishRead (s : State) (c : Fin 16) (k : Nat) : State :=
  match s.readCmd? c k with
  | none => s
  | some q =>
    let open_ := q.fua.isSome || !q.probe.isEmpty || (q.kind != .probe && q.targets.any fun t => match t with
      | .done | .failed _ => false
      | _ => true) || (q.kind == .probe && q.targets.any (· == .looking))
    if open_ then s
    else
      let denied := q.kind != .probe && q.targets.contains (.failed true)
      let lost := q.kind != .probe && q.targets.contains (.failed false)
      let s1 := s.modRd c fun r => { r with cmds := r.cmds.filter (·.slot != k) }
      let s2 := if denied then ((s1.incSat (chRg c) F.XTS_DENIED).cirq c 0x39 0) else s1
      let s3 := if q.kind == .read && !denied && !lost then
          s2.modSmart (some c) fun m => { m with reads := m.reads + 1 }
        else s2
      let s4 := match q.kind, s3.slot? k with
        | .probe, some cmd => s3.sendData cmd 0 q.records.flatten
        | _, _ => s3
      s4.finish k (if denied then stAccessDenied else if lost then stUnrecovered else stSuccess)
        (if q.kind == .probe then q.records.length else 0)

/-- A command's lookups are answered: serve, queue its operations, complete it if nothing is left. A probe by LBA takes the clusters
its targets name. -/
def State.moveRead (s : State) (c : Fin 16) (k : Nat) : State :=
  let s1 : State := s.serveNow c k
  let s2 : State := match s1.readCmd? c k with
    | some (q : ReadCmd) =>
      if q.kind == ReadKind.probe && !q.byPcn && !q.targets.any (· == .looking) then
        let ps := (q.targets.filterMap fun t => match t with
          | .media p _ => some p
          | _ => none).mergeSort.eraseDups
        s1.modCmd c k fun x => { x with probe := ps, targets := [] }
      else s1
    | none => s1
  (s2.issueOps c k).finishRead c k

/-- A read command arrives (R246, R333): a FUA read waits while its range has staged blocks. -/
def State.startRead (s : State) (c : Fin 16) (q : ReadCmd) (fua : Bool) : State :=
  let w := (s.ch c).wr
  let held := fua && w.blocks.any fun b => q.slba ≤ b.lba && b.lba < q.slba + q.n
  let q1 := { q with fua := if held then some w.nextBlock else none }
  let s1 := s.modRd c fun r => { r with cmds := r.cmds ++ [q1] }
  let s2 := if held then s1 else (s1.resolveAll c q1 fua).moveRead c q.slot
  if q.kind == .probe then s2 else s2.modMap c fun m => { m with readEnd := q.slba + q.n }

/-- FUA reads whose staged blocks have been committed go on, from the media (R333). -/
def State.fuaReads (s : State) (c : Fin 16) : State :=
  (s.ch c).rd.cmds.foldl (fun s q =>
    match q.fua with
    | some hi =>
      if (s.ch c).wr.blocks.any fun b => b.id < hi && q.slba ≤ b.lba && b.lba < q.slba + q.n then s
      else (((s.modCmd c q.slot fun x => { x with fua := none }).resolveAll c q true).moveRead c q.slot)
    | none => s) s

/-! Lookups that return (R266, R269). -/

/-- A lookup is answered: the command it belongs to takes the target. -/
def State.answerLookup (s : State) (c : Fin 16) (l : Lookup) (t : Target) : State :=
  match s.readCmd? c l.slot with
  | some q => (s.setTarget c l.slot l.lba (s.probed c q l.lba t)).moveRead c l.slot
  | none => s

/-- Retry a lookup from step 2 of R246. -/
def State.retryLookup (s : State) (c : Fin 16) (l : Lookup) : State :=
  match s.lookup c l with
  | (some t, s1) => s1.answerLookup c l t
  | (none, s1) => s1

/-- MISS_WALK_RETURN: each waiting lookup receives the record or hole covering its LBA, and each distinct extent is installed; a stale
register's fill is not installed, and its lookups are replayed. Lookups that found no register then try again. -/
def missReturn (c : Fin 16) (g : Nat) (s : State) : State :=
  match (s.ch c).map.miss.find? (·.granule == g) with
  | none => s
  | some x =>
    let s1 := s.modMap c fun m => { m with miss := m.miss.filter (·.granule != g) }
    let s2 := if x.stale then
        x.waiting.foldl (fun s l => s.retryLookup c l) ((s1.incSat (chRg c) F.LTC_STALE).cirq c 0x41 1)
      else
        x.waiting.foldl (fun s l =>
          let t := (((s.ch c).map.cached l.lba).getD ((s.ch c).map.walk l.lba)).target l.lba
          (s.fill c l.lba l.stream).answerLookup c l t) s1
    let again := (s2.ch c).map.blocked
    again.foldl (fun s l => s.retryLookup c l) (s2.modMap c fun m => { m with blocked := [] })

/-! Selecting operations (R336, R94). -/

/-- A cluster not yet read. -/
def freshRead (pcn : Nat) : ClusterRead :=
  { pcn := pcn, frames := [], step := 0, since := 0, excluded := 0, broken := none, repeated := false, expired := false, rows := []
    store := [], captured := false, seen := [], reads := [], alt := false, firstFailed := 0, snr := [], jitter := [] }

/-! Settling a cluster. -/

/-- Commands, LBAs and entries that wait for blocks of a cluster: LBA and entry index. -/
def ReadPath.wanted (r : ReadPath) (pcn : Nat) : List (Nat × Nat) :=
  (r.cmds.flatMap fun q => if q.kind == .probe then [] else q.targets.zipIdx.filterMap fun e => match e.1 with
    | .media p i => if p == pcn then some (q.slba + e.2, i) else none
    | _ => none).eraseDups

/-- Give every command that waits for an LBA in a cluster its outcome. -/
def State.giveBlock (s : State) (c : Fin 16) (pcn lba : Nat) (t : Option (List Byte)) (fail : Target) : State :=
  (s.ch c).rd.cmds.foldl (fun s q =>
    let waits := q.kind != .probe && q.targets.zipIdx.any fun e => q.slba + e.2 == lba && (match e.1 with
      | .media p _ => p == pcn
      | .tail p _ => p == pcn
      | _ => false)
    if !waits then s
    else match t with
      | some data => s.deliver c q lba data
      | none => s.setTarget c q.slot lba fail) s

/-- The channel's key, unless it is not the one the block was encrypted under. -/
def State.readKey (s : State) (c : Fin 16) (enc : Bool) (keyId : Nat) : Option (List Byte) :=
  if enc && keyId != s.cr c F.XTS_KEY_ID then none else (s.ch c).xtsKey

/-- What the checks of R289 make of a stored block sought as an LBA. -/
def State.readBlock (s : State) (c : Fin 16) (lba : Nat) (e : Entry) (enc : Bool) (keyId : Nat) (stored : List Byte) : BlockRead :=
  let use := s.readKey c enc keyId
  if enc && use.isNone then .denied
  else if e.method = 3 then readDirect enc use stored e.lba lba e.check
  else if e.lba != lba then .header
  else readStored use stored e.lba e.method e.check

/-- A stored block, served, failed and logged, or denied (R286, R290). -/
def State.blockOutcome (s : State) (c : Fin 16) (pcn lba : Nat) (e : Entry) (enc : Bool) (keyId : Nat) (stored : List Byte) : State :=
  let s0 := if enc && (s.ch c).xtsKey.isSome && keyId != s.cr c F.XTS_KEY_ID then s.cirq c 0x39 1 else s
  match s.readBlock c lba e enc keyId stored with
  | .ok data => (if enc then s0.incSat (chRg c) F.XTS_BLK_DEC else s0).giveBlock c pcn lba (some data) .done
  | .denied => s0.giveBlock c pcn lba none (.failed true)
  | .header =>
    ((((s0.incSat (chRg c) F.CMP_RD_FAIL_HDR).cw c F.CMP_RD_FAIL_LBA lba).cirq c 0x38 1).logLost c pcn (some lba) 2).giveBlock
      c pcn lba none (.failed false)
  | .crc =>
    ((((s0.incSat (chRg c) F.CMP_RD_FAIL_CRC).cw c F.CMP_RD_FAIL_LBA lba).cirq c 0x38 0).logLost c pcn (some lba) 2).giveBlock
      c pcn lba none (.failed false)

/-- A block is lost (R96): logged with reason 1, its record LOST where the map still names this cluster (R252). -/
def State.loseBlock (s : State) (c : Fin 16) (pcn lba : Nat) : State :=
  let s1 := s.logLost c pcn (some lba) 1
  let s2 := match (s1.ch c).map.view lba with
    | some e => if e.pcn = pcn then s1.setLost c lba else s1
    | none => s1
  s2.giveBlock c pcn lba none (.failed false)

/-- Serve the wanted entries of a cluster whose payload is known; `fs` is given for a salvage, which trusts only some bytes. -/
def State.serveEntries (s : State) (c : Fin 16) (pcn : Nat) (d : Desc) (o : Outer) (fs : Option (List FrameRes)) : State :=
  let payload := o.payload
  ((s.ch c).rd.wanted pcn).foldl (fun s w =>
    match d.entries[w.2]? with
    | none =>
      -- LBAs a forced-out cluster of a Direct disc passed over read as zeros (R56)
      if d.direct then s.giveBlock c pcn w.1 (some (zeros 4096)) .done
      else s.blockOutcome c pcn w.1 ⟨2 ^ 32, 0, 0, 0, 0⟩ false 0 []
    | some e =>
      let here := min e.len (65536 - e.ofs)
      let ok := fs.elim true fun l => trusted l o e.ofs here
      if !ok then s.loseBlock c pcn w.1
      else if here < e.len then
        let t : Tail := ⟨pcn, w.2, w.1, (payload.drop e.ofs).take here, e, d.enc, d.keyId, [d.contSeq], userFrom (pcn + 1)⟩
        let slot := ((s.ch c).rd.cmds.find? fun q => q.targets.contains (.media pcn w.2)).elim 0 (·.slot)
        let s1 := s.modRd c fun r => { r with
          tails := if r.tails.any (fun x => x.pcn == pcn && x.idx == w.2) then r.tails else r.tails ++ [t]
          cmds := r.cmds.map fun q => { q with targets := q.targets.map fun x =>
            if x == (Target.media pcn w.2) then .tail pcn w.2 else x } }
        s1.queueOp c slot t.at_ 1
      else s.blockOutcome c pcn w.1 e d.enc d.keyId ((payload.drop e.ofs).take e.len)) s

/-- Whether a cluster is one that may hold a tail (R44): one of the numbers names it, or it supersedes one they name. -/
def Desc.holdsTail (d : Desc) (seqs : List Nat) : Bool := seqs.contains d.seq || (d.supersedes != 0 && seqs.contains d.supersedes)

/-- Tails sought at a position: the block is completed where its tail is found. A cluster of theirs that does not give it is followed to
those that supersede it; the search ends in loss at the end of the recorded extent. -/
def State.serveTails (s : State) (c : Fin 16) (pcn : Nat) (got : Option (Desc × Outer × Option (List FrameRes))) : State :=
  ((s.ch c).rd.tails.filter (·.at_ == pcn)).foldl (fun s t =>
    let drop := fun (s : State) => s.modRd c fun r => { r with tails := r.tails.filter fun x => !(x.pcn == t.pcn && x.idx == t.idx) }
    let onward := fun (s : State) (seqs : List Nat) =>
      let next := userFrom (pcn + 1)
      if next ≥ s.cr c F.WRC_WPTR then (drop s).loseBlock c t.pcn t.lba
      else
        let slot := ((s.ch c).rd.cmds.find? fun q => q.targets.contains (.tail t.pcn t.idx)).elim 0 (·.slot)
        (s.modRd c fun r => { r with tails := r.tails.map fun x =>
          if x.pcn == t.pcn && x.idx == t.idx then { x with at_ := next, seqs := seqs } else x }).queueOp c slot next 1
    match got with
    | none => onward s t.seqs
    | some (d, o, fs) =>
      let rest := t.entry.len - t.head.length
      if !d.holdsTail t.seqs then onward s t.seqs
      else if d.lead ≥ rest && fs.elim true (fun l => trusted l o 0 rest) then
        (drop s).blockOutcome c t.pcn t.lba t.entry t.enc t.keyId (t.head ++ o.payload.take rest)
      else onward s (d.seq :: t.seqs)) s

/-- The map's LBAs in a cluster: what its records, cached ones included, name there. -/
def MapState.named (m : MapState) (pcn : Nat) : List Nat :=
  ((m.recs.map (·.2) ++ (m.ltc.filterMap (·.entry)).map (·.ext) ++ m.evb.map (·.ext)).flatMap fun e =>
    if e.pcn == pcn && e.len != 0 then (List.range e.len).map (e.start + ·) else []).eraseDups

/-- A ladder's elapsed time in ms, from the first-pass verdict, without the time of servo recovery (R93). -/
def State.ladderMs (s : State) (x : ClusterRead) : Nat :=
  if x.step = 0 then 0
  else (x.broken.getD s.plat.time - x.since - x.excluded) / 1000000

/-- The 32 bytes of a Media Probe record (Table 11-11), with the metrics of Table 3-9. -/
def probeRecord (s : State) (x : ClusterRead) (result : Nat) (d : Option Desc) (o : Outer) : List Byte :=
  let fs := x.frameList
  layout 32 [(0, leBytes 4 x.pcn), (4, leBytes 1 result), (5, leBytes 1 (d.elim 0 (·.kind))), (6, leBytes 1 o.erased),
    (7, leBytes 1 o.errors), (8, leBytes 1 x.firstFailed),
    (9, leBytes 1 (if x.snr.isEmpty then 0 else (x.snr.map (·.2)).foldl min 255)),
    (10, leBytes 1 ((x.jitter.map (·.2)).foldl max 0)),
    (11, leBytes 1 (fs.foldl (fun a f => max a f.iters) 0)), (12, leBytes 2 (fs.foldl (fun a f => max a f.flagged) 0)),
    (14, leBytes 2 (min 4095 (s.ladderMs x))), (16, leBytes 8 (d.elim 0 (·.seq))),
    (24, leBytes 1 (fs.foldl (fun a f => max a f.sync) 0)), (25, leBytes 1 (d.elim 0 fun d => d.entries.length))]

/-- Report a settled cluster to the probes that ask for it. -/
def State.reportProbes (s : State) (c : Fin 16) (x : ClusterRead) (result : Nat) (d : Option Desc) (o : Outer) : State :=
  let b := probeRecord s x result d o
  s.modRd c fun r => { r with cmds := r.cmds.map fun q =>
    if q.kind == .probe && q.probe.contains x.pcn then { q with probe := q.probe.erase x.pcn, records := q.records ++ [b] } else q }

/-- A cluster is no longer being read; commands it completed end, operations it ended go. -/
def State.closeRead (s : State) (c : Fin 16) (pcn : Nat) : State :=
  let s1 := s.modRd c fun r => { r.withdraw fun j => j.pcn == pcn && (j.kind matches .first | .retry _) with
    clusters := r.clusters.filter (·.pcn != pcn) }
  let s2 := ((s1.ch c).rd.cmds.map (·.slot)).foldl (fun s k => s.finishRead c k) s1
  s2.trimOps c

/-- A ladder's result in the registers (Table 3-17). -/
def State.ladderEnd (s : State) (c : Fin 16) (x : ClusterRead) (step : Nat) : State :=
  if x.step = 0 then s
  else s.wrs (chRg c) [(F.RTY_LAST_RESULT_STEP, step), (F.RTY_LAST_RESULT_TIME, min (s.ladderMs x) 4095)]

/-- Only probes need this cluster: nothing is logged for them, and no record is LOST (R348). -/
def ReadPath.quiet (r : ReadPath) (pcn : Nat) : Bool := (r.wanted pcn).isEmpty && !r.tails.any (·.at_ == pcn)

/-- What a decode found, in the OCD registers (Table 3-14): 0 decoded, 1 on the second pass, 2 failed. -/
def State.showOuter (s : State) (c : Fin 16) (pcn : Nat) (o : Outer) (ok : Bool) : State :=
  s.wrs (chRg c) [(F.OCD_LAST_RES_ERASURES, o.erased), (F.OCD_LAST_RES_ERRORS, o.errors), (F.OCD_LAST_RES_FAILED_CW, o.bad),
    (F.OCD_LAST_RES_RESULT, if !ok then 2 else if o.second then 1 else 0), (F.OCD_LAST_PCN, pcn)]

/-- A cluster is decoded, on its first pass or at a ladder step: its blocks are served. -/
def State.serveResolved (s : State) (c : Fin 16) (x : ClusterRead) (o : Outer) (d : Desc) : State :=
  let s1 := (((s.cnt c 3).quality c 0).quality c (1 + x.step)).ladderEnd c x x.step
  let s2 := s1.serveEntries c x.pcn d o none
  let s3 := s2.serveTails c x.pcn (some (d, o, none))
  (s3.reportProbes c x x.step (some d) o).closeRead c x.pcn

/-- A cluster is not a cluster: blank or a scar. A scar's result shows with the position; the counts beside it stay those of the
cluster before (DESIGN CHOICE, log 158). -/
def State.notCluster (s : State) (c : Fin 16) (x : ClusterRead) (scar : Bool) : State :=
  let s1 := if scar then s.wrs (chRg c) [(F.OCD_LAST_RES_RESULT, 3), (F.OCD_LAST_PCN, x.pcn)] else s
  ((s1.serveTails c x.pcn none).reportProbes c x (if scar then 14 else 13) none ⟨[], [], false, 0, 0⟩).closeRead c x.pcn

/-- Whether a block no command waits for is returned by a salvage: its bytes are trusted, and what stands here of it passes its checks
(R89). A block whose key is absent, or whose tail stands elsewhere, is judged by its bytes alone. -/
def State.salvaged (s : State) (c : Fin 16) (d : Desc) (o : Outer) (fs : List FrameRes) (e : Entry) : Bool :=
  let here := min e.len (65536 - e.ofs)
  trusted fs o e.ofs here && (here < e.len || (match s.readBlock c e.lba e d.enc d.keyId ((o.payload.drop e.ofs).take e.len) with
    | .ok _ | .denied => true
    | .header | .crc => false))

/-- A cluster is lost (R89, R96): salvaged block by block where its descriptor is valid and SALVAGE is set, else all its blocks are
lost: those its descriptor names, where it is valid, and those a command or the map names. -/
def State.loseCluster (s : State) (c : Fin 16) (x : ClusterRead) : State :=
  let fs := x.frameList
  let o := outerDecode fs (s.cb c F.OCD_CTL_SUSPECT_ERASE)
  let d := readDesc o.descriptor x.pcn
  let quiet := (s.ch c).rd.quiet x.pcn
  let s1 := (((((s.cnt c 3).quality c 0).quality c 14).ladderEnd c x 15).cirq c 0x2E 0).showOuter c x.pcn o false
  let salvage := if s.cb c F.OCD_CTL_SALVAGE then d else none
  let s2 : State := match salvage with
    | some (d : Desc) =>
      let s3 := s1.serveEntries c x.pcn d o (some fs)
      if quiet then s3
      else
        let want := (s.ch c).rd.wanted x.pcn
        (d.entries.zipIdx.filter fun e => !want.any (·.2 == e.2) && !s.salvaged c d o fs e.1).foldl
          (fun s e => s.loseBlock c x.pcn e.1.lba) s3
    | none =>
      if quiet then s1
      else
        let own := d.elim [] fun d => d.entries.map (·.lba)
        let ls := (((s1.ch c).rd.wanted x.pcn).map (·.1) ++ own ++ (s1.ch c).map.named x.pcn).eraseDups
        if ls.isEmpty then s1.logLost c x.pcn none 1 else ls.foldl (fun s l => s.loseBlock c x.pcn l) s1
  let s4 := s2.serveTails c x.pcn (salvage.map fun d => (d, o, some fs))
  (s4.reportProbes c x 15 d o).closeRead c x.pcn

/-! The ladder (R90 to R95). -/

/-- Only commands that limit retries need the cluster (R333, R348). -/
def ReadPath.limitedAt (r : ReadPath) (pcn : Nat) : Bool :=
  let ks := r.cmds.filter fun q => q.clusters.contains pcn
  !ks.isEmpty && ks.all (·.limited) && !r.tails.any (·.at_ == pcn)

/-- The class of a cluster's codewords (R86): 0 for host commands, 1 where only probes need it. -/
def ReadPath.classAt (r : ReadPath) (pcn : Nat) : Nat :=
  if r.tails.any (·.at_ == pcn) || r.cmds.any (fun q => q.kind != .probe && q.clusters.contains pcn) then 0 else 1

/-- Put a cluster that is being read. -/
def State.putRead (s : State) (c : Fin 16) (x : ClusterRead) : State :=
  s.modRd c fun r => { r with clusters := r.clusters.map fun y => if y.pcn == x.pcn then x else y }

/-- The cluster at a position, while it is being read. -/
def State.reading? (s : State) (c : Fin 16) (pcn : Nat) : Option ClusterRead := (s.ch c).rd.clusters.find? (·.pcn == pcn)

/-- The ladder the registers show: the one that holds the pickup, else the oldest (Table 3-17). -/
def ReadPath.ladder? (r : ReadPath) : Option ClusterRead :=
  (r.clusters.find? fun x => r.holder == some x.pcn).or (r.clusters.find? (·.step != 0))

/-- Records a cluster takes of the retry store, one being captured included (R91). -/
def ClusterRead.records (x : ClusterRead) : Nat := if x.captured || !x.reads.isEmpty then x.rows.length else 0

/-- Records used in the retry store (R91). -/
def ReadPath.storeUsed (r : ReadPath) : Nat := (r.clusters.map (·.records)).sum

/-- The strand shifts of step 11's reads (Table 3-8): those that serve a failed strand. -/
def ClusterRead.shifts (x : ClusterRead) : List Int :=
  let strands := (failedPos x.frameList).map (· % 8)
  (if strands.any (· ≤ 6) then [-1] else []) ++ (if strands.any (1 ≤ ·) then [1] else [])

/-- The reads of a step, by their strand shifts (Table 3-8, R182). -/
def State.stepReads (s : State) (c : Fin 16) (x : ClusterRead) : List Int :=
  if x.step = 9 then List.replicate (if s.cr c (F.SLT_STATE_MODE 5) = 1 then 4 else 2) 0
  else if x.step = 11 then x.shifts
  else [0]

/-- The ladder step after step `n` for a cluster: enabled, and for a step that holds the pickup within the budget (R93). A cluster whose
commands limit retries takes steps 1 to 3 only on rows already captured, and no step that holds the pickup (R333). -/
def State.nextStep (s : State) (c : Fin 16) (x : ClusterRead) (n : Nat) : Option Nat :=
  let limited := (s.ch c).rd.limitedAt x.pcn
  ((List.range 13).filter fun i => n < i).find? fun i =>
    bitAt (s.cr c F.RTY_CTL_STEP_EN) (i - 1) &&
      (if i ≤ 3 then x.captured || !(limited || x.expired)
       else if i ≤ 11 then !limited && !x.expired && s.ladderMs x < s.cr c F.RTY_CTL_BUDGET
       else true)

/-- Stored frames go to the decoder pool for a step: all of them once a read has been combined, else those still FAILED. -/
def State.decodeStored (s : State) (c : Fin 16) (x : ClusterRead) : State :=
  s.modRd c fun r => (x.store.map (·.1)).foldl (fun (r : ReadPath) p =>
    if x.step ≤ 3 && (SMap.get x.frames p noFrame).ok then r
    else r.enqueue ⟨r.classAt x.pcn, x.pcn, p, .retry x.step⟩) r

/-- The reads of a step, or of the capture, begin: the cluster takes the pickup, which is put as the step asks. -/
def State.beginReads (s : State) (c : Fin 16) (x : ClusterRead) (reads : List Int) : State :=
  let x1 := { x with reads := reads, seen := [] }
  let s1 := (s.putRead c x1).modRd c fun r => { r with holder := some x.pcn }
  match reads with
  | [] => s1.decodeStored c x1
  | sh :: _ => (s1.ladderMech c (if x.captured then x.step else 0) reads.length sh).hunt c x.pcn

/-- A step begins (R90, R91, R94): the stored rows are decoded again, or the pickup is taken where no other ladder holds it. Without its
rows in the store the ladder waits for the capture read. -/
def State.beginStep (s : State) (c : Fin 16) (x : ClusterRead) : State :=
  if x.step = 12 || (!x.captured && !(s.ch c).rd.limitedAt x.pcn) then s
  else if x.step ≤ 3 then s.decodeStored c x
  else if (s.ch c).rd.holder.elim true (· == x.pcn) then s.beginReads c x (s.stepReads c x)
  else s

/-- The pickup is released; a ladder that waits for it takes it (R94). -/
def State.releasePickup (s : State) (c : Fin 16) : State :=
  let s1 := (s.ladderRest c).modRd c fun r => { r with holder := none }
  match (s1.ch c).rd.clusters.find? fun x => 4 ≤ x.step && x.step ≤ 11 && x.captured with
  | some x => s1.beginStep c x
  | none => s1

/-- The pickup is released if this cluster's ladder holds it. -/
def State.releaseFrom (s : State) (c : Fin 16) (pcn : Nat) : State :=
  if (s.ch c).rd.holder = some pcn then s.releasePickup c else s

/-- A cluster is settled as lost, and its ladder gives up the pickup. -/
def State.clusterLost (s : State) (c : Fin 16) (x : ClusterRead) : State := (s.loseCluster c x).releaseFrom c x.pcn

/-- A cluster is settled as decoded, and its ladder gives up the pickup. -/
def State.resolved (s : State) (c : Fin 16) (x : ClusterRead) (o : Outer) (d : Desc) : State :=
  (s.serveResolved c x o d).releaseFrom c x.pcn

/-- The cluster goes on to its next step, or is lost when there is none. One that nothing needs any more ends here without a verdict
(R94). -/
def State.toStep (s : State) (c : Fin 16) (x : ClusterRead) (n : Nat) : State :=
  if !(s.ch c).rd.needs x.pcn then (s.closeRead c x.pcn).releaseFrom c x.pcn
  else match s.nextStep c x n with
  | none => s.clusterLost c x
  | some i =>
    let x1 := { x with step := i, seen := [], reads := [], repeated := false, broken := none }
    let s1 := (s.putRead c x1).cw c F.RTY_PCN x.pcn
    (if i ≤ 3 || i = 12 then s1.releaseFrom c x.pcn else s1).beginStep c x1

/-- Decode a cluster as its frames now stand (R88); `some` when it is decoded. -/
def State.tryDecode (s : State) (c : Fin 16) (x : ClusterRead) : Option (Outer × Desc) × State :=
  let fs := x.frameList
  let o := outerDecode fs (s.cb c F.OCD_CTL_SUSPECT_ERASE)
  let d := readDesc o.descriptor x.pcn
  match d with
  | some d => if o.all then (some (o, d), s.showOuter c x.pcn o true) else (none, s.showOuter c x.pcn o false)
  | none => (none, s.showOuter c x.pcn o false)

/-- The records of a cluster's rows from the lanes' sample memories, where these still hold every frame of them (R91). -/
def State.captureRows (s : State) (c : Fin 16) (x : ClusterRead) (rows : List Nat) : Option (SMap Stored) :=
  let r := (s.ch c).rd
  let lane := fun p => r.loops[p % 8]'(Nat.mod_lt _ (by decide))
  if rows.all fun p => (lane p).holds (SMap.get x.frames p noFrame).at_ then
    some (rows.map fun p =>
      let f := SMap.get x.frames p noFrame
      (p, (⟨(lane p).samples f.at_, f.llr⟩ : Stored)))
  else none

/-- The first pass ends: decoded, not a cluster, or into the ladder (R81, R88, R90). A probe without LADDER stops here (R348). -/
def State.firstPass (s : State) (c : Fin 16) (x : ClusterRead) : State :=
  let fs := x.frameList
  let named := !((s.ch c).rd.wanted x.pcn).isEmpty
  let pat := if named then Pattern.recorded else pattern fs
  match pat with
  | .blank => s.notCluster c x false
  | .scar => s.notCluster c x true
  | .recorded =>
    match s.tryDecode c x with
    | (some (o, d), s1) => s1.resolved c x o d
    | (none, s1) =>
      let rows := failedRows fs
      let got := if (s.ch c).rd.storeUsed + rows.length ≤ 160 then s.captureRows c x rows else none
      let x1 := { x with firstFailed := (failedPos fs).length, since := s.plat.time, rows := rows, store := got.getD []
                         captured := got.isSome }
      let ks := (s.ch c).rd.cmds.filter fun q => q.clusters.contains x.pcn
      if ks.all (fun q => q.kind == .probe && q.limited) && !(s.ch c).rd.tails.any (·.at_ == x.pcn) then
        ((((s1.cnt c 3).quality c 0).reportProbes c x1 16 none (outerDecode fs (s.cb c F.OCD_CTL_SUSPECT_ERASE)))).closeRead c x.pcn
      else ((s1.cnt c 7).putRead c x1).toStep c x1 0

/-- A frame decoded: its hard decisions, descrambled with the address it is taken at (R79, R85). -/
def decodeBits (f : FrameRes) (d : Decoded) : FrameRes :=
  { f with decided := true, ok := d.weight == 0, weight := d.weight, iters := d.iters, initial := d.initial,
           info := scramble (frameAddr f.addr) (bitsBytes 1024 (d.bits.take 8192)) }

/-- The first pass ends once all 80 frames are blank or decided. -/
def State.checkFirst (s : State) (c : Fin 16) (pcn : Nat) : State :=
  match (s.ch c).rd.clusters.find? (fun x => x.pcn == pcn && x.step == 0) with
  | some x => if x.frames.length == 80 && x.frames.all (·.2.decided) then s.firstPass c x else s
  | none => s

/-! Re-reads (R90 to R93). -/

/-- The stored positions a read at a strand shift passes: a strand n is read by lane n less the shift. -/
def ClusterRead.served (x : ClusterRead) : List Nat :=
  let sh := x.reads.headD 0
  x.rows.filter fun p => 0 ≤ (p % 8 : Nat) - sh && (p % 8 : Nat) - sh ≤ 7

/-- A read has passed every stored position it serves: it is captured, or added into the accumulators (R91, R92); the next read of the
step follows, or the stored frames go to the decoder. -/
def State.readOver (s : State) (c : Fin 16) (x : ClusterRead) : State :=
  if !x.captured then
    let x1 := { x with store := x.seen.map fun e => (e.1, (⟨e.2.samples, e.2.llr⟩ : Stored)), captured := true, seen := [], reads := [] }
    let s1 := (s.putRead c x1).modRd c fun r => { r with holder := none }
    if x.step ≤ 3 then (s1.releasePickup c).beginStep c x1 else s1.beginStep c x1
  else
    let x1 := { x with
      store := x.store.map fun e => match SMap.find? x.seen e.1 with
        | some r => (e.1, { e.2 with acc := List.zipWith combine e.2.acc r.llr })
        | none => e
      seen := [] }
    match x.reads.drop 1 with
    | [] =>
      let x2 := { x1 with reads := [] }
      (s.putRead c x2).decodeStored c x2
    | rest => s.beginReads c x1 rest

/-- Whether the read in progress is over. -/
def State.checkRead (s : State) (c : Fin 16) (pcn : Nat) : State :=
  match s.reading? c pcn with
  | some x => if !x.reads.isEmpty && x.served.all fun p => (SMap.find? x.seen p).isSome then s.readOver c x else s
  | none => s

/-- A frame of a ladder's read: its soft values wait for the end of the read, the recovery from an IMPLAUSIBLE is over, and a VERIFIED
header settles the address of a frame that is decoded anew (R79). -/
def ClusterRead.reread (x : ClusterRead) (now p : Nat) (f : FrameRes) (verified suspect : Bool) (r : Reread) : ClusterRead :=
  let g := SMap.get x.frames p noFrame
  let stored := x.rows.contains p
  let g1 := if !verified || (!stored && g.addr != f.addr) then g
    else { g with addr := f.addr, suspect := suspect, blank := g.blank && f.blank }
  { x with
    frames := SMap.insert x.frames p g1
    seen := if stored && (SMap.find? x.seen p).isNone then SMap.insert x.seen p r else x.seen
    excluded := x.excluded + x.broken.elim 0 fun t => now - t
    broken := none }

/-- An IMPLAUSIBLE during a ladder's read (R93): the read is discarded, and repeated once after the recovery. -/
def State.ladderBroken (s : State) (c : Fin 16) : State :=
  match (s.ch c).rd.holder.bind (s.reading? c) with
  | none => s
  | some x =>
    if x.reads.isEmpty then s
    else if x.repeated && x.captured then
      let x1 := { x with seen := [], reads := [], excluded := x.excluded + x.broken.elim 0 fun t => s.plat.time - t, broken := none }
      (s.putRead c x1).decodeStored c x1
    else s.putRead c { x with seen := [], repeated := true, broken := some (x.broken.getD s.plat.time) }

/-! Frame sync (R74 to R80). -/

/-- The ADIP address for a lane's frame (R73): frames follow the last word's pair at 9,936 bits, and the frame at P is the one whose
start ADIP expects nearest. -/
def State.adipNow (s : State) (c : Fin 16) (l : Fin 8) : Option Nat :=
  if s.cr c F.WOB_STS_ADIP_VALID = 0 ∨ s.cr c F.FSY_CTL_ADIP_CHECK = 0 then none
  else (s.ch c).rd.adipPrev.bind fun w =>
    let x := (s.ch c).rd.lane l
    let d : Int := (x.pos - x.adipPos + 4968) / 9936 + 2
    if d < 0 then none
    else some { (Nat.repeat FrameAddr.next d.toNat (frameAddr w)) with strand := s.cr c (F.BRC_LANE_STS_STRAND l) }.bits

/-- The verdict on a header address (Table 3-7): whether it is VERIFIED, and the state with its events. -/
def State.judge (s : State) (c : Fin 16) (l : Fin 8) (x : Lane) (ah : Nat) : Bool × State :=
  let aw := s.adipNow c l
  if ah = x.next then
    (true, if aw.elim false (· != ah) then s.cirq c 0x29 2 else s)
  else if aw = some ah then (true, s)
  else
    let again := x.mismatch.elim false fun a => (frameAddr a).next.bits == ah
    (again, s.cirq c 0x29 1)

/-- The suspect rule of R83 for flagged bits. -/
def State.flaggedSuspect (s : State) (c : Fin 16) (n : Nat) : Bool := n ≥ 4 * s.cr c F.BRM_CTL_SUSPECT_LEN && n != 0

/-- Record what a frame was, where the cluster it belongs to is being read: on its first pass, where its codeword joins the decoder's
queue unless it is blank, or in a read of its ladder. -/
def State.recordFrame (s : State) (c : Fin 16) (addr : Nat) (f : FrameRes) (verified : Bool) (samples : List Int) : State :=
  let (pcn, p) := (frameAddr addr).place
  match s.reading? c pcn with
  | none => s
  | some x =>
    if x.step = 0 then
      (if (SMap.find? x.frames p).isSome then s
       else
        let s1 := s.putRead c { x with frames := SMap.insert x.frames p f }
        if f.blank then s1 else s1.modRd c fun r => r.enqueue ⟨r.classAt pcn, pcn, p, .first⟩)
    else if (s.ch c).rd.holder = some pcn && !x.reads.isEmpty then
      s.putRead c (x.reread s.plat.time p f verified (s.flaggedSuspect c f.flagged) ⟨samples, f.llr⟩)
    else s

/-- The lane's SNR and jitter over the cluster that ends: in `QUAL` and with the cluster; the sums begin anew (Table 3-9). -/
def State.clusterQuality (s : State) (c : Fin 16) (l : Fin 8) (pcn : Nat) : State :=
  let x := (s.ch c).rd.loops[l]
  let snr := snrOf (s.cr c (F.BRC_ADAPT_CTL_GAIN_TGT l)) x.errSq x.errN
  let jit := jitterOf x.jitSq x.jitN
  let s1 := (s.wrs (chRg c) [(F.BRC_QUAL_SNR l, snr), (F.BRC_QUAL_JITTER l, jit)]).modLoops c l fun x =>
    { x with errSq := 0, errN := 0, jitSq := 0, jitN := 0 }
  match s1.reading? c pcn with
  | some y => s1.putRead c { y with snr := SMap.insert y.snr l snr, jitter := SMap.insert y.jitter l jit }
  | none => s1

/-- What frame sync makes of a frame. -/
structure Verdict where
  /-- the position it is processed at, as an offset from P -/
  ofs      : Int
  addr     : Nat
  verified : Bool
  /-- a sync was found (Δ counts for the other lanes where the header is VERIFIED, R77) -/
  found    : Bool
  /-- sync outcome (Table 3-9), state, k and a MISMATCH address for the next frame -/
  sync     : Nat
  st       : Nat
  k        : Nat
  mism     : Option Nat
  deriving DecidableEq, Repr

/-- A lane's frame processed: the record, the lane's state, P and the predicted address moved on (R76), and the boundary to the next
frame. Coming from LOCK or FLY into HUNT raises HUNT_ENTRY. -/
def State.frameDone (s : State) (c : Fin 16) (l : Fin 8) (v : Verdict) : State :=
  let x := (s.ch c).rd.lane l
  let lp := (s.ch c).rd.loops[l]
  let q := x.pos + v.ofs
  let blank := s.isBlank c l q
  let flagged := ((lp.frameBits q).filter (·.flag)).length
  let place := (frameAddr v.addr).place
  let f : FrameRes := { blank := blank, decided := blank, ok := false, info := [], weight := 1024, iters := 0, initial := 1024
                        suspect := !v.verified || s.flaggedSuspect c flagged, flagged := flagged
                        sync := if blank then 5 else v.sync, addr := v.addr, at_ := q.toNat, llr := lp.codeword q }
  let s1 := ((s.recordFrame c v.addr f v.verified (lp.samples q)).laneSts c l v.st v.k).cw c (F.BRC_LANE_STS_BLANK l) (b2n blank)
  let s2 := if v.verified then s1.wrs (chRg c) [(F.FSY_ADDR_LO l, v.addr), (F.FSY_ADDR_HI l, v.addr / 2 ^ 32)] else s1
  let s3 := if place.2 / 8 = 9 then s2.clusterQuality c l place.1 else s2
  let s4 := s3.modLane c l fun x => { x with
    next := (frameAddr v.addr).next.bits, pos := q + 9936, mismatch := v.mism, choice := none
    last := some (v.addr, v.ofs, v.found && v.verified) }
  let s5 := if s.cr c (F.BRC_LANE_STS_SYNC l) ≠ 0 ∧ v.st = 0 then s4.cirq c 0x29 0 else s4
  ((s5.frameBoundary c l).checkFirst c place.1).checkRead c place.1

/-- One frame more without a sync found: FLY, and HUNT at the third (Table 3-6). -/
def missed (k : Nat) : Nat × Nat := if k + 1 ≤ 2 then (2, k + 1) else (0, (k + 1) % 4)

/-! The alignment choice (R77). -/

/-- The median of a list, the lower middle one for an even count. -/
def median (l : List Int) : Int := (l.mergeSort (· ≤ ·)).getD ((l.length - 1) / 2) 0

/-- Whether the other lanes have decided the frame a lane is at: processed it, or wait with a choice of their own. -/
def State.othersDecided (s : State) (c : Fin 16) (l : Fin 8) : Bool :=
  let r := (s.ch c).rd
  let f := (frameAddr (r.lane l).next).frame
  (List.finRange 8).all fun m =>
    m == l || ((r.lane m).choice.isSome && (frameAddr (r.lane m).next).frame == f)
      || (r.lane m).last.elim false fun a => (frameAddr a.1).frame == f

/-- Alignment C: the median Δ of the other strands' frames with the same number found and VERIFIED, where there are two or more and it
coincides with neither A nor B. -/
def State.alignC (s : State) (c : Fin 16) (l : Fin 8) (found : Int) : Option Int :=
  let r := (s.ch c).rd
  let f := (frameAddr (r.lane l).next).frame
  let ds := (List.finRange 8).filterMap fun m =>
    if m == l then none
    else (r.lane m).last.bind fun a => if (frameAddr a.1).frame == f && a.2.2 then some a.2.1 else none
  let m := median ds
  if s.cr c F.FSY_CTL_NBR_CAND_EN = 1 ∧ ds.length ≥ 2 ∧ m ≠ found ∧ m ≠ 0 then some m else none

/-- The weight after one LDPC iteration at an alignment. -/
def State.trialWeight (s : State) (c : Fin 16) (l : Fin 8) (ofs : Int) : Nat :=
  (ldpcRun (s.cr c F.DEC_CTL_NORM) 1 true ((s.ch c).rd.loops[l].codeword (((s.ch c).rd.lane l).pos + ofs))).weight

/-- The frame of a lane whose choice is made: at alignment `cand`, with its header if one passed there. A choice made by a header that is
VERIFIED shows as outcome 0 (DESIGN CHOICE, log 159). -/
def State.chosen (s : State) (c : Fin 16) (l : Fin 8) (ofs : Int) (hdr : Option Nat) (found : Bool) : State :=
  let x := (s.ch c).rd.lane l
  let (ok, s1) := match hdr with
    | some ah => s.judge c l x ah
    | none => (false, s)
  let addr := match hdr with
    | some ah => if ok then ah else x.next
    | none => x.next
  let mism := match hdr with
    | some ah => if ok then none else some ah
    | none => x.mismatch
  let k := s.cr c (F.BRC_LANE_STS_FLYCNT l)
  let (st, k') := if s.cr c (F.BRC_LANE_STS_SYNC l) = 0 then (0, 0) else if found then (1, 0) else missed k
  s1.frameDone c l ⟨ofs, addr, ok, found, if ok then 0 else 2, st, k', mism⟩

/-- All trials have their weights: the lowest is chosen, A before B before C (R77 step 2). -/
def State.settleChoice (s : State) (c : Fin 16) (l : Fin 8) (ch : Choice) : State :=
  let ws := ch.cands.map fun e => (e.2, SMap.get ch.weights e.1 0)
  match ws with
  | [] => s
  | w :: rest =>
    let best := rest.foldl (fun (a : Int × Nat) e => if e.2 < a.2 then e else a) w
    s.chosen c l best.1 none (best.2 ≤ s.cr c F.FSY_CTL_ALIGN_ACCEPT)

/-- ALIGNMENT_CHOICE (R77): once the other lanes have decided the frame, a header that passes at B or C decides; otherwise every
alignment goes to the decoder pool for one iteration, in its class (R86). -/
def alignmentChoice (c : Fin 16) (l : Fin 8) (s : State) : State :=
  let x := (s.ch c).rd.lane l
  match x.choice with
  | none => s
  | some ch =>
    if !ch.cands.isEmpty || !s.othersDecided c l then s
    else
      let m := s.alignC c l ch.found
      let at_ := fun (ofs : Int) => (headerDecode ((s.ch c).rd.loops[l].header (x.pos + ofs))).map (·.1)
      match at_ 0, m.bind at_ with
      | some ah, _ => s.chosen c l 0 (some ah) true
      | none, some ah => s.chosen c l (m.getD 0) (some ah) true
      | none, none =>
        let cands := [(0, ch.found), (1, 0)] ++ m.elim [] fun d => [(2, d)]
        (s.modLane c l fun x => { x with choice := some { ch with cands := cands } }).modRd c fun r =>
          cands.foldl (fun (r : ReadPath) (e : Nat × Int) => r.enqueue ⟨2, 0, 0, .trial l e.1⟩) r

/-- The choice is due at the latest 256 bits after the window, so before the lane's next frame: trials not yet run are run. -/
def State.forceChoice (s : State) (c : Fin 16) (l : Fin 8) : State :=
  match ((s.ch c).rd.lane l).choice with
  | none => s
  | some ch =>
    let m := s.alignC c l ch.found
    let cands := if ch.cands.isEmpty then [(0, ch.found), (1, 0)] ++ m.elim [] fun d => [(2, d)] else ch.cands
    let ws := cands.map fun e => (e.1, (SMap.find? ch.weights e.1).getD (s.trialWeight c l e.2))
    s.settleChoice c l { ch with cands := cands, weights := ws }

/-- FRAME_SYNC (R74, R75, Table 3-6), once the lane's stream holds the frame: a lane in HUNT searches P ± 256 bits, else P ± 8. While it
stays in HUNT k is kept at 0 (DESIGN CHOICE, log 160). -/
def frameSync (c : Fin 16) (l : Fin 8) (s0 : State) : State :=
  let s := s0.forceChoice c l
  let x := (s.ch c).rd.lane l
  let lp := (s.ch c).rd.loops[l]
  let hunt := s.cr c (F.BRC_LANE_STS_SYNC l) = 0
  let k := s.cr c (F.BRC_LANE_STS_FLYCNT l)
  let align := s.cr c F.FSY_CTL_ALIGN_EN = 1
  let win := if hunt then 256 else 8
  let choose := fun (s : State) (d : Int) (m : Option Nat) =>
    s.modLane c l fun x => { x with choice := some ⟨d, [], []⟩, mismatch := m }
  let lose := fun (s : State) (d : Int) (out : Nat) => s.frameDone c l ⟨d, x.next, false, false, out, (missed k).1, (missed k).2, none⟩
  match candidate (s.cr c (F.FSY_SYNC_THR l)) win (lp.marks x.pos win) with
  | none => if hunt then s.frameDone c l ⟨0, x.next, false, false, 4, 0, 0, none⟩ else lose s 0 3
  | some d =>
    match (headerDecode (lp.header (x.pos + d))).map (·.1) with
    | some ah =>
      let (ok, s1) := s.judge c l x ah
      if ok then s1.frameDone c l ⟨d, ah, true, true, 0, 1, 0, none⟩
      else if hunt then
        (if align then choose s1 d (some ah) else s1.frameDone c l ⟨d, x.next, false, true, 1, 0, 0, some ah⟩)
      else s1.frameDone c l ⟨d, x.next, false, true, 1, 1, 0, some ah⟩
    | none =>
      if hunt then (if align then choose s d none else s.frameDone c l ⟨d, x.next, false, true, 1, 0, 0, none⟩)
      else if 0 ≤ d then s.frameDone c l ⟨d, x.next, false, true, 1, 1, 0, none⟩
      else if align then choose s d none
      else lose s d 1

/-! Decoding and the ladder's steps. -/

/-- The equaliser's output over a stored frame, from its own row of the store, with a set of coefficients (Table 3-8 step 3); samples
beyond the record count as 0. -/
def State.storedZ (s : State) (c : Fin 16) (x : ClusterRead) (p set : Nat) : List Int :=
  let row := fun (q : Nat) (ok : Bool) => if ok then ((SMap.find? x.store q).map (·.samples)).getD [] else []
  zRun (s.coefs c (p % 8) set) 9936 (List.replicate 7 0 ++ row p true) (List.replicate 2 0 ++ row (p - 1) (p % 8 != 0))
    (List.replicate 2 0 ++ row (p + 1) (p % 8 != 7))

/-- The detector over a stored frame with a-priori codeword LLRs: the codeword LLRs it gives (R71, R72, R87). -/
def State.storedDetect (s : State) (c : Fin 16) (p : Nat) (z : List Int) (ext : List Int) : List Int :=
  let run := fun la => detect (s.prCur c (p % 8)) (s.cr c F.DEC_LLR_SCALE) true 60 0 (z.zip (fitTo 9936 0 la))
  let plain := run []
  if ext.isEmpty then codewordLlr plain
  else codewordLlr (run (List.replicate 144 0 ++ softEncode 576 ext (plain.drop 144)))

/-- The codeword LLRs step `step` decodes a stored frame from: the accumulators scaled by COMB_GAIN (R92), or at step 3 those of the row
equalised again with the alternate set. -/
def State.retryLlr (s : State) (c : Fin 16) (x : ClusterRead) (step p : Nat) : List Int :=
  if step = 3 then s.storedDetect c p (s.storedZ c x p 1) []
  else match SMap.find? x.store p with
    | some r => r.acc.map (taken (s.cr c F.RTY_CTL_COMB_GAIN))
    | none => []

/-- A stored frame decoded at a ladder step (R85, R87): up to ITER_RETRY iterations; at steps 2 and 3 turbo iterations follow. -/
def State.retryDecode (s : State) (c : Fin 16) (x : ClusterRead) (step p : Nat) : Decoded :=
  let norm := s.cr c F.DEC_CTL_NORM
  let early := s.cb c F.DEC_CTL_EARLY_STOP
  let llr := s.retryLlr c x step p
  let d := ldpcRun norm (s.cr c F.DEC_CTL_ITER_RETRY) early llr
  if step = 2 ∨ step = 3 then
    turbo (s.storedDetect c p (s.storedZ c x p (if step = 3 then 1 else b2n x.alt))) norm (s.cr c F.DEC_CTL_ITER_NORM) early
      (s.cr c F.DEC_CTL_TURBO_MAX) llr d
  else d

/-- A core has finished a codeword. -/
def State.finishJob (s : State) (c : Fin 16) (j : Job) : State :=
  match j.kind with
  | .trial l k =>
    match (List.finRange 8).find? (·.val == l) with
    | none => s
    | some l =>
      match ((s.ch c).rd.lane l).choice with
      | none => s
      | some ch =>
        match ch.cands.find? (·.1 == k) with
        | none => s
        | some e =>
          let ch1 := { ch with weights := SMap.insert ch.weights k (s.trialWeight c l e.2) }
          let s1 := s.modLane c l fun x => { x with choice := some ch1 }
          if ch1.weights.length = ch1.cands.length then s1.settleChoice c l ch1 else s1
  | .first =>
    match s.reading? c j.pcn with
    | none => s
    | some x =>
      match SMap.find? x.frames j.p with
      | none => s
      | some f =>
        if f.decided || x.step != 0 then s
        else
          let d := ldpcRun (s.cr c F.DEC_CTL_NORM) (s.cr c F.DEC_CTL_ITER_NORM) (s.cb c F.DEC_CTL_EARLY_STOP) f.llr
          let s1 := s.putRead c { x with frames := SMap.insert x.frames j.p (decodeBits f d) }
          (s1.sample (chRg c) 0x10 d.iters).checkFirst c j.pcn
  | .retry step =>
    match s.reading? c j.pcn with
    | none => s
    | some x =>
      if x.step != step || (SMap.find? x.store j.p).isNone then s
      else
        let f := SMap.get x.frames j.p noFrame
        let f1 := if f.blank then { f with blank := false, addr := (addrOf x.pcn j.p).bits } else f
        let g := decodeBits f1 (s.retryDecode c x step j.p)
        -- a frame that converged keeps its result unless a combined read converges too
        let keep := f.ok && !g.ok
        (if keep then s else s.putRead c { x with frames := SMap.insert x.frames j.p g }).sample (chRg c) 0x10 g.iters

/-- LDPC_DECODE (R84 to R86): the codeword in a core is finished, and the core takes the next one of the lowest class. -/
def ldpcDecode (c : Fin 16) (core : Fin 8) (s : State) : State :=
  match (s.ch c).rd.cores.getD core none with
  | none => s
  | some j =>
    (s.modRd c fun r => ReadPath.feed 8 { r with cores := r.cores.set core none }).finishJob c j

/-- The first-iteration syndrome weights of a cluster's stored frames with the primary and with the alternate set (Table 3-8 step 3). -/
def State.setWeights (s : State) (c : Fin 16) (x : ClusterRead) : Nat × Nat :=
  let w := fun step => ((x.store.map (·.1)).map fun p => (ldpcRun (s.cr c F.DEC_CTL_NORM) 1 true (s.retryLlr c x step p)).weight).sum
  (w 1, w 3)

/-- What step 3 leaves: the set with the lower total stays in use, on a tie the primary one (DESIGN CHOICE, log 161); with the alternate
set the accumulators hold the row's new soft values. -/
def State.keepSet (s : State) (c : Fin 16) (x : ClusterRead) : ClusterRead :=
  let w := s.setWeights c x
  if w.2 < w.1 then
    { x with alt := true, store := x.store.map fun e => (e.1, { e.2 with acc := s.retryLlr c x 3 e.1 }) }
  else x

/-- Step 12 (R95). -/
def State.forced (s : State) (c : Fin 16) (x : ClusterRead) : State :=
  match forcedDecode x.frameList x.pcn with
  | some f => match readDesc f.descriptor x.pcn with
    | some d => (s.showOuter c x.pcn f true).resolved c x f d
    | none => s.clusterLost c x
  | none => s.clusterLost c x

/-- Whether a cluster's ladder is still inside its step: rows to be captured, the pickup held by another ladder, a read under way, or
codewords in the decoder pool (R91, R94). -/
def State.stepOpen (s : State) (c : Fin 16) (x : ClusterRead) : Bool :=
  let r := (s.ch c).rd
  x.step != 12 && ((!x.captured && !r.limitedAt x.pcn) || (4 ≤ x.step && r.holder != some x.pcn) || !x.reads.isEmpty
    || r.pending fun j => j.pcn == x.pcn && j.kind == .retry x.step)

/-- RETRY_STEP (R90): the cluster's running step ends, and the cluster is decoded again. A step not yet over goes on. -/
def retryStep (c : Fin 16) (pcn : Nat) (s : State) : State :=
  match (s.ch c).rd.clusters.find? (fun x => x.pcn == pcn && x.step != 0) with
  | none => s
  | some x =>
    if s.stepOpen c x then s
    else if !(s.ch c).rd.needs pcn then s.toStep c x x.step
    else if x.step = 12 then s.forced c x
    else
      let x1 := if x.step = 3 then s.keepSet c x else x
      match (s.putRead c x1).tryDecode c x1 with
      | (some (f, d), s2) => s2.resolved c x1 f d
      | (none, s2) => s2.toStep c x1 x.step

/-- RETRY_BUDGET_EXPIRED (R93): no further pickup step begins, and step 12 runs next; a ladder that waits for the pickup or for its
capture goes to it now, one inside a step once that ends. -/
def budgetExpired (c : Fin 16) (pcn : Nat) (s : State) : State :=
  match (s.ch c).rd.clusters.find? (fun x => x.pcn == pcn && x.step != 0 && x.step != 12) with
  | none => s
  | some x =>
    let x1 := { x with expired := true }
    let s1 := s.putRead c x1
    if x.inStep (s.ch c).rd.holder then s1 else s1.toStep c x1 11

/-- CAPTURE_READ (R91): once the store has room for a waiting cluster's failed rows, and no ladder holds the pickup, they are read into
it. -/
def captureRead (c : Fin 16) (pcn : Nat) (s : State) : State :=
  match (s.ch c).rd.clusters.find? (fun x => x.pcn == pcn && x.step != 0 && !x.captured && x.reads.isEmpty) with
  | none => s
  | some x =>
    if (s.ch c).rd.storeUsed + x.rows.length > 160 || (s.ch c).rd.limitedAt pcn || (s.ch c).rd.holder.isSome || x.step == 12 then s
    else s.beginReads c x [0]

/-- Start an operation: its clusters are read from the first frame on, its lanes hunt. -/
def State.startOp (s : State) (c : Fin 16) (o : MediaOp) : State :=
  let s1 := s.modRd c fun r =>
    let ps := ((List.range o.count).map (o.first + ·)).filter fun p => r.needs p && !r.clusters.any (·.pcn == p)
    { r with running := some o.id, clusters := r.clusters ++ ps.map freshRead }
  let s2 := if o.aged then s1.incSat (chRg c) F.SCH_AGED else s1
  (s2.fullSpeed c).hunt c o.first

/-! ADIP words (R28, R73). -/

/-- A wobble period as WOB hears it: the eight servo inputs mixed by the weights in 1/64, inverted where the sum is negative. -/
def State.wobblePeriod (s : State) (c : Fin 16) (inputs : List Int) : Bool :=
  decide (((List.range 8).map fun i => toSigned 8 (s.cr c (F.WOB_MIX i)) * inputs.getD i 0).sum < 0)

/-- ADIP_WORD: the word its wobble periods spell is accepted when its CRC-12 passes and it is the address predicted from the word before,
or when it follows a word that passed too. It ends where the next frame pair begins, in each lane after its alignment delay (R73). -/
def adipWord (c : Fin 16) (periods : List (List Int)) (s : State) : State :=
  let r := (s.ch c).rd
  let step := fun a => (frameAddr a).next.next.bits
  let w := adipWordIn (periods.map (s.wobblePeriod c))
  let a := (w.bind adipAddr).map (·.bits)
  let pred := r.adipPrev.map step
  let ok := match a with
    | some a => pred == some a || (r.adipLast.map step) == some a
    | none => false
  let s1 := s.modRd c fun r => { r with
    adipPrev := if ok then a else pred, adipLast := a
    lanes := r.lanes.zipIdx.map fun e => match (List.finRange 8).find? (·.val == e.2) with
      | some l => { e.1 with adipPos := r.loops[l].end_ + r.loops[l].line.length }
      | none => e.1 }
  match w with
  | some w =>
    if ok then s1.wrs (chRg c) [(F.WOB_STS_ADIP_VALID, 1), (F.WOB_STS_ADIP_FAILS, 0), (F.WOB_ADIP_LO, w), (F.WOB_ADIP_HI, w / 2 ^ 32)]
    else s1.incSat (chRg c) F.WOB_STS_ADIP_FAILS
  | none => s1.incSat (chRg c) F.WOB_STS_ADIP_FAILS

end Sys2Proof.Machine
end

