-- ==== Sys2Proof/Machine/Lanes.lean ====
section
/-! DEFINITION. The commands of the lanes: start tables, adaptive loops, equaliser writes, frame sync, decoding, the retry ladder, and
the wobble (R58 to R96, R114). -/

namespace Sys2Proof.Machine
open Sys2Proof

/-! Freezing (R65, Table 3-5). -/

/-- The gates of the channel write (Table 3-5). -/
def Session.gates : Session → Bool
  | .writing | .stopping | .ending => true
  | .idle | .armed => false

/-- A condition that freezes every loop of a lane, but for the envelope of the current window. -/
def State.laneFrozen (s : State) (c : Fin 16) (l : Nat) : Bool :=
  s.brm c l || (s.ch c).wr.session.gates || s.cr c (F.HDR_BLK_CTL_FREEZE (0x20 + l)) == 1

/-- Whether the envelope of a lane's current 64-bit window lies below the blank threshold (Table 3-5). -/
def State.laneLow (s : State) (c : Fin 16) (l : Fin 8) : Bool := s.lowNow c l ((s.ch c).rd.loops[l].recent 64).reverse

/-- Whether the lane's decision-directed loops lack a sync in LOCK. -/
def State.unlocked (s : State) (c : Fin 16) (l : Nat) : Bool := s.cr c (F.BRC_LANE_STS_SYNC l) != 1

/-- Why each loop stands still, but for the envelope. -/
def State.ofsFrozen (s : State) (c : Fin 16) (l : Nat) : Bool := s.laneFrozen c l || s.cr c (F.BRC_ADAPT_CTL_EN_OFS l) == 0
def State.gainFrozen (s : State) (c : Fin 16) (l : Nat) : Bool := s.laneFrozen c l || s.cr c (F.BRC_ADAPT_CTL_EN_GAIN l) == 0
def State.asymFrozen (s : State) (c : Fin 16) (l : Nat) : Bool :=
  s.laneFrozen c l || s.unlocked c l || s.cr c (F.BRC_ADAPT_CTL_EN_ASYM l) == 0
def State.trFrozen (s : State) (c : Fin 16) (l : Nat) : Bool := s.laneFrozen c l || s.cr c (F.BRC_ADAPT_CTL_EN_TR l) == 0
def State.eqFrozen (s : State) (c : Fin 16) (l : Nat) : Bool :=
  s.laneFrozen c l || s.unlocked c l || s.cr c (F.BRC_ADAPT_CTL_EN_EQ l) == 0 || (s.ch c).rd.altSet
    || s.cr c (F.HDR_BLK_CTL_FREEZE 0x28) == 1

/-- The taps a flagged neighbour holds still (Table 3-5): the outer taps of the lane below it, the inner taps of the lane above. -/
def State.tapHeld (s : State) (c : Fin 16) (l t : Nat) : Bool :=
  (20 ≤ t && s.brm c (l + 1)) || (15 ≤ t && t < 20 && l != 0 && s.brm c (l - 1))

/-- `LANE_STS.FROZEN`: some loop of the lane, or some tap of its equaliser, is frozen. -/
def State.someFrozen (s : State) (c : Fin 16) (l : Fin 8) : Bool :=
  s.laneLow c l || s.ofsFrozen c l || s.gainFrozen c l || s.asymFrozen c l || s.trFrozen c l || s.eqFrozen c l
    || s.tapHeld c l 15 || s.tapHeld c l 20

/-! The zone start table (R62 to R64). -/

/-- ZONE_TABLE_FETCH (R63): the entry of a layer and zone is fetched, to take effect at each lane's first frame there. A fetch that meets
a poisoned word leaves every value, raises ZT_ERR and records the entry's index. The low bits of a ZT_BASE that is no multiple of 1,024
are part of the address (DESIGN CHOICE, log 162). -/
def zoneFetch (c : Fin 16) (layer zone : Nat) (s : State) : State :=
  if layer ≥ 32 ∨ zone ≥ 48 then s
  else
    let e := layer * 48 + zone
    let a := s.cr c F.XTC_ZT_BASE + e * 1024
    if s.anyPoison c a 1024 then (s.err (chRg c) 0x28 0x10C 7 e).cirq c 0x28 0
    else (List.finRange 8).foldl (fun (s : State) (l : Fin 8) =>
      s.modLoops c l fun x => { x with due := some ⟨layer, zone, s.dramBytes c (a + l.val * 128) 128⟩ }) s

def execZoneTableFetch (c : Fin 16) (layer zone : Nat) (s : State) : HRes := .next (s.whileRunning (chRg c) 0x28 fun s => zoneFetch c layer zone s)

/-! Adaptation (R60, R61, R67, R70). -/

/-- `x · 2^-(mu + 4)`. -/
def muStep (mu : Nat) (x : Int) : Int := x / 2 ^ (mu + 4)

/-- The mean of some integers in 1/256; 0 where there are none. -/
def mean256 (l : List Int) : Int := if l.isEmpty then 0 else l.sum * 256 / l.length

/-- The offset and gain loops at the end of a block of 256 corrected samples. -/
def State.adaptBlockLoops (s : State) (c : Fin 16) (l : Fin 8) (ys : List Int) : State :=
  let low := s.laneLow c l
  let s1 := if low || s.ofsFrozen c l then s
    else
      let d := muStep (s.cr c (F.BRC_ADAPT_CTL_MU_OFS l)) (mean256 ys * 2 ^ 16)
      s.modLoops c l fun x => { x with ofs := clampInt (-32 * 2 ^ 24) (127 * 2 ^ 22) (x.ofs + d) }
  if low || s.gainFrozen c l then s1
  else
    let e := mean256 (ys.map fun y => (y.natAbs : Int)) - 256 * (s.cr c (F.BRC_ADAPT_CTL_GAIN_TGT l) : Int)
    let d := muStep (s.cr c (F.BRC_ADAPT_CTL_MU_GAIN l)) (e * 2 ^ 16)
    s1.modLoops c l fun x => { x with gain := clampInt 0 (65535 * 2 ^ 10) (x.gain - d) }

/-! Timing recovery and the delay line (R67, R68). -/

/-- ADC samples in a channel bit, in 2^-16 sample: 800 MS/s against the wobble frequency times 96, off by the loop's frequency. -/
def State.bitStep (s : State) (c : Fin 16) (freq : Int) : Int :=
  800000000 * 2 ^ 48 / max 1 (96 * s.cr c F.WOB_FREQ * (2 ^ 32 + freq))

/-- Channel bits resampled from corrected samples at steps of `t`: the bits with the range of the samples since the bit before, the
samples still needed and the next instant. The list's first sample stands one before that at or before the last bit. The first argument
bounds the bits. -/
def resample (flag : Bool) (t : Int) : Nat → List Int → Int → List BitRec × List Int × Int
  | 0, y, p => ([], y, p)
  | n + 1, y, p =>
    let i := (p / 65536).toNat
    let w := (y.drop (i - 1)).take 4
    if w.length < 4 then ([], y, p)
    else
      let since := if i ≤ 1 then (y.drop 1).take 1 else (y.drop 2).take (i - 1)
      let y0 := since.headD 0
      let b : BitRec := ⟨sat8 (Config.interpolate w (p % 65536).toNat), since.foldl min y0, since.foldl max y0, flag⟩
      let r := resample flag t n (y.drop (i - 1)) (p - (i - 1 : Nat) * 65536 + t)
      (b :: r.1, r.2)

/-- Bits the sample memory keeps: 8 frames (R91). -/
def memoryBits : Nat := 8 * 9936

/-- Bits leave the delay line for the aligned stream; the memory keeps the last 8 frames. -/
def LaneLoops.push (x : LaneLoops) (new : List BitRec) : LaneLoops :=
  let line := x.line ++ new
  let n := line.length - x.align
  let bits := x.bits ++ line.take n
  let cut := min (bits.length - memoryBits) x.llr.length
  { x with
    line := line.drop n, base := x.base + cut, bits := bits.drop cut, z := x.z.drop cut, llr := x.llr.drop cut
    asymAt := max x.asymAt (x.base + cut) }

/-- A lane without a wobble frequency resamples nothing: there is no reference for its oscillator. -/
def State.resampleLane (s : State) (c : Fin 16) (l : Fin 8) (ys : List Int) : State :=
  if s.cr c F.WOB_FREQ = 0 then s
  else s.modLoops c l fun x =>
    let r := resample (s.brm c l) (max 1 (s.bitStep c x.freq)) (2 * (x.y.length + ys.length) + 2) (x.y ++ ys) x.at_
    ({ x with y := r.2.1, at_ := r.2.2 } : LaneLoops).push r.1

/-! The equaliser and the detector (R69 to R71). -/

/-- The samples of a lane's aligned stream from bit `k` on. -/
def LaneLoops.from_ (x : LaneLoops) (k : Int) : List Int :=
  List.replicate (x.base - k).toNat 0 ++ (x.bits.drop (k - x.base).toNat).map (·.x)

/-- The neighbour of a lane, if it has one. -/
def laneAt (n : Nat) : Option (Fin 8) := if h : n < 8 then some ⟨n, h⟩ else none

/-- The lanes beside a lane: inner and outer. -/
def State.beside (s : State) (c : Fin 16) (l : Fin 8) : Option LaneLoops × Option LaneLoops :=
  let r := (s.ch c).rd
  ((if l.val = 0 then none else laneAt (l.val - 1)).map (r.loops[·]), (laneAt (l.val + 1)).map (r.loops[·]))

/-- The timing loop at a bit (R67): the proportional part moves the next instant, the integral part the frequency. Beyond 0.5 % from
the wobble's frequency the loop is reset to it, and the reset counted. A frozen loop holds its frequency and lets its phase run on. -/
def State.timingBit (s : State) (c : Fin 16) (l : Fin 8) (z was : Int) : State :=
  let e := Config.timingError z was
  if s.trFrozen c l || s.laneLow c l then s
  else
    let x := (s.ch c).rd.loops[l]
    let f := x.freq + e / 2 ^ s.cr c (F.BRC_TR_CTL_KI l)
    let far := f.natAbs * 200 > 2 ^ 32
    let at_ := x.at_ + (e / 2 ^ s.cr c (F.BRC_TR_CTL_KP l)) * s.bitStep c x.freq / 2 ^ 32
    let s1 := s.modLoops c l fun x => { x with
      freq := if far then 0 else f, at_ := max 65536 at_, near := x.near && decide (f.natAbs * 2000 ≤ 2 ^ 32)
      jitSq := x.jitSq + (e / 2 ^ 24).natAbs ^ 2, jitN := x.jitN + 1 }
    if far then s1.incSat (chRg c) (F.BRC_TR_STS_RESETS l) else s1

/-- The equaliser's output for every bit whose samples have come (R69), and the timing loop on each (R67). -/
def State.equalise (s : State) (c : Fin 16) (l : Fin 8) : State :=
  let x := (s.ch c).rd.loops[l]
  let k := x.base + x.z.length
  let (inn, out) := s.beside c l
  let upTo := fun (o : Option LaneLoops) => o.elim (x.end_ - 7) fun y => y.end_ - 2
  let n := min (x.end_ - 7) (min (upTo inn) (upTo out)) - k
  let side := fun (o : Option LaneLoops) => o.elim [] fun y => y.from_ ((k : Int) - 2)
  let zs := zRun (s.coefs c l (b2n (s.ch c).rd.altSet)) n (x.from_ ((k : Int) - 7)) (side inn) (side out)
  let s1 := s.modLoops c l fun x => { x with z := x.z ++ zs }
  let s2 := ((x.z.getLastD 0 :: zs).zip zs).foldl (fun (s : State) (e : Int × Int) => s.timingBit c l e.2 e.1) s1
  s2.cw c (F.BRC_TR_STS_FERR l) (ofSigned 16 ((s2.ch c).rd.loops[l].freq * 1000000 / 2 ^ 32))

/-- The detector over the windows that have come (R71); the LLRs of flagged bits are 0 while ZERO_LLR is 1 (R83). -/
def State.detectLane (s : State) (c : Fin 16) (l : Fin 8) : State :=
  let x := (s.ch c).rd.loops[l]
  let done := x.llr.length
  let from_ := done - 32
  let ls := detect (s.prCur c l) (s.cr c F.DEC_LLR_SCALE) false 400 (done - from_) ((x.z.drop from_).map fun z => (z, 0))
  let zero := s.cb c F.BRM_CTL_ZERO_LLR
  let out := List.zipWith (fun v (b : BitRec) => if zero && b.flag then 0 else v) ls (x.bits.drop done)
  s.modLoops c l fun x => { x with llr := x.llr ++ out }

/-- The error of R70 at a bit: the output less the target of the last four decisions, latest first. -/
def eqError (h : List Int) (z : Int) (a : List Bool) : Int :=
  z - ((h.zip a).foldl (fun v e => v + e.1 * plusMinus e.2) 0)

/-- One LMS step of a lane's coefficients (R70): each tap moves by −e times its sample times 2^−(MU_EQ + 4), and saturates. A tap held for
a flagged neighbour stays. -/
def State.lmsStep (s : State) (c : Fin 16) (l : Fin 8) (e : Int) (samples coefs : List Int) : List Int :=
  (coefs.zip samples).zipIdx.map fun t =>
    if s.tapHeld c l t.2 || !hasTap l t.2 then t.1.1
    else clampInt (-32768) 32767 (t.1.1 - muStep (s.cr c (F.BRC_ADAPT_CTL_MU_EQ l)) (e * t.1.2))

/-- The equaliser loop over the bits `[k, k + n)`, whose decisions have come; the primary set adapts (R70), and e² counts for the lane's
SNR (Table 3-9). -/
def State.adaptEq (s : State) (c : Fin 16) (l : Fin 8) (k n : Nat) : State :=
  let x := (s.ch c).rd.loops[l]
  let h := s.prCur c l
  let (inn, out) := s.beside c l
  let as_ := x.llr.map hard
  let side := fun (o : Option LaneLoops) => o.elim [] fun y => y.from_ ((k : Int) - 2)
  let own := x.from_ ((k : Int) - 7)
  let r := (List.range n).foldl (fun (a : List Int × Nat) i =>
    let o := k - x.base + i
    let e := eqError h (x.z.getD o 0) ((as_.drop (o - 3)).take (min 4 (o + 1))).reverse
    let w := (fitTo 15 0 ((own.drop i).take 15)).reverse ++ (fitTo 5 0 (((side inn).drop i).take 5)).reverse
      ++ (fitTo 5 0 (((side out).drop i).take 5)).reverse
    let still := s.eqFrozen c l || s.lowNow c l (((x.bits.take (o + 1)).drop (o - 63)).reverse)
    (if still then a.1 else s.lmsStep c l e w a.1, a.2 + e.natAbs ^ 2))
    ((List.range 25).map (fun t => toSigned 16 (s.tget .eqCoef (chRg c) (eqIndex l 0 t))), 0)
  let s1 := s.modLoops c l fun x => { x with errSq := x.errSq + r.2, errN := x.errN + n }
  if s.eqFrozen c l then s1
  else r.1.zipIdx.foldl (fun (s : State) (e : Int × Nat) => s.putCoef c l 0 e.2 (ofSigned 16 e.1)) s1

/-- Runs of equal decisions with their samples: the decision, its length and its greatest magnitude of the decided sign. -/
def decisionRuns : List (Bool × Int) → List (Bool × Nat × Int)
  | [] => []
  | (b, v) :: l =>
    let m := if b then v else -v
    match decisionRuns l with
    | (b', n, w) :: rest => if b = b' then (b, n + 1, max m w) :: rest else (b, 1, m) :: (b', n, w) :: rest
    | [] => [(b, 1, m)]

/-- The asymmetry loop over 256 channel bits (Table 3-3): the mean peak of the runs of three or more 1s less that of the runs of 0s. With
no run of one kind there is no error. -/
def State.adaptAsym (s : State) (c : Fin 16) (l : Fin 8) : State :=
  let x := (s.ch c).rd.loops[l]
  let o := x.asymAt - x.base
  if x.llr.length < o + 256 then s
  else
    let rs := (decisionRuns ((((x.llr.drop o).take 256).map hard).zip (((x.bits.drop o).take 256).map (·.x)))).filter fun r => 3 ≤ r.2.1
    let pos := (rs.filter (·.1)).map (·.2.2)
    let neg := (rs.filter (!·.1)).map (·.2.2)
    let low := s.lowNow c l ((((x.bits.drop o).take 256).reverse))
    let d := if s.asymFrozen c l || low || pos.isEmpty || neg.isEmpty then 0
      else muStep (s.cr c (F.BRC_ADAPT_CTL_MU_ASYM l)) ((mean256 pos - mean256 neg) * 2 ^ 16)
    s.modLoops c l fun x => { x with asymAt := x.asymAt + 256, asym := clampInt (-(2 ^ 24)) (127 * 2 ^ 17) (x.asym - d) }

/-- A lane as far as its samples and its neighbours' reach: the equaliser, the detector, and the loops their output drives. -/
def State.advanceLane (s : State) (c : Fin 16) (l : Fin 8) : State :=
  let s1 := s.equalise c l
  let done := (s1.ch c).rd.loops[l].llr.length
  let s2 := s1.detectLane c l
  let x := (s2.ch c).rd.loops[l]
  ((s2.adaptEq c l (x.base + done) (x.llr.length - done)).adaptAsym c l).showCorr c l

/-- ADAPTIVE_BLOCK_UPDATE (R57, R61): a block of 256 samples of a lane's converter. They are corrected (R60), the block's loops move, the
lane resamples them (R67), and every lane goes on as far as it now can. -/
def adaptBlock (c : Fin 16) (l : Fin 8) (samples : List (BitVec 7)) (s : State) : State :=
  let ofs := toSigned 8 (s.cr c (F.BRC_CORR_CUR_OFS l))
  let gain : Int := s.cr c (F.BRC_CORR_CUR_GAIN l)
  let asym := toSigned 8 (s.cr c (F.BRC_CORR_CUR_ASYM l))
  let ys := samples.map fun x => correct ofs gain asym x.toInt
  let s1 := ((s.adaptBlockLoops c l ys).resampleLane c l ys).showCorr c l
  (List.finRange 8).foldl (fun (s : State) (m : Fin 8) => s.advanceLane c m) s1

def execAdaptiveBlockUpdate (c : Fin 16) (lane : Fin 8) (samples : List (BitVec 7)) (s : State) : HRes :=
  .next (s.whileRunning (chRg c) (0x20 + lane.val) fun s => adaptBlock c lane samples s)

/-- EQ_DATA_WRITE (R99): the selected coefficient is due at its lane's next frame boundary; TAP advances with AUTOINC. At tap 24, the
last, it stays (DESIGN CHOICE, log 163). -/
def eqDataWrite (c : Fin 16) (v : Nat) (s : State) : State :=
  let i := eqIndex (s.cr c F.XTC_EQ_SEL_LANE) (s.cr c F.XTC_EQ_SEL_SET) (s.cr c F.XTC_EQ_SEL_TAP)
  let s1 := s.modRd c fun r => { r with eqDue := r.eqDue ++ [(i, v % 2 ^ 16)] }
  if s.cb c F.XTC_EQ_SEL_AUTOINC then s1.wrLegal (chRg c) F.XTC_EQ_SEL_TAP (s.cr c F.XTC_EQ_SEL_TAP + 1) else s1

def execEqDataWrite (src : Src) (c : Fin 16) (value : Word) (s : State) : HRes :=
  .next (s.gated src (chRg c) 0x28 0x114 value.toNat (eqDataWrite c value.toNat))

/-! Frames. -/

def execFrameSync (c : Fin 16) (lane : Fin 8) (s : State) : HRes := .next (s.whileRunning (chRg c) 0x29 fun s => frameSync c lane s)
def execAlignmentChoice (c : Fin 16) (lane : Fin 8) (s : State) : HRes := .next (s.whileRunning (chRg c) 0x29 fun s => alignmentChoice c lane s)
def execLdpcDecode (c : Fin 16) (core : Fin 8) (s : State) : HRes := .next (s.whileRunning (chRg c) 0x2A fun s => ldpcDecode c core s)
def execCaptureRead (c : Fin 16) (pcn : Nat) (s : State) : HRes := .next (s.whileRunning (chRg c) 0x2E fun s => captureRead c pcn s)
def execRetryStep (c : Fin 16) (pcn : Nat) (s : State) : HRes := .next (s.whileRunning (chRg c) 0x2E fun s => retryStep c pcn s)
def execRetryBudgetExpired (c : Fin 16) (pcn : Nat) (s : State) : HRes := .next (budgetExpired c pcn s)

/-! The wobble (R73, R114). -/

def execAdipWord (c : Fin 16) (periods : List (List Int)) (s : State) : HRes :=
  .next (s.whileRunning (chRg c) 0x2D fun s => adipWord c periods s)

/-- ADIP_LOSS (R73): after eight failures in succession ADIP_VALID clears, which during a session is a safety stop (code 20). -/
def adipLoss (c : Fin 16) (row : Nat) (s : State) : State :=
  if s.cr c F.WOB_STS_ADIP_VALID = 0 ∨ s.cr c F.WOB_STS_ADIP_FAILS < 8 then s
  else ((s.cw c F.WOB_STS_ADIP_VALID 0).cirq c 0x2D 1).safetyStop c row 20

def execAdipLoss (c : Fin 16) (row : Nat) (s : State) : HRes := .next (adipLoss c row s)

/-- WOBBLE_PLL_LOCK: the PLL locks to the wobble of the reference strand, or follows its frequency. While a Bramble flag is active on the
reference lane it holds its frequency (R73). -/
def wobbleLock (c : Fin 16) (hz : Nat) (s : State) : State :=
  if s.cr c F.WOB_CTL_EN = 0 || s.brm c (s.cr c F.WOB_CTL_REF_STRAND) then s
  else s.wrs (chRg c) [(F.WOB_STS_PLL_LOCK, 1), (F.WOB_FREQ, hz)]

def execWobblePllLock (c : Fin 16) (hz : Nat) (s : State) : HRes := .next (wobbleLock c hz s)

/-- WOBBLE_PLL_UNLOCK: the write clock goes with it; during a session a safety stop (code 19). `FREQ` keeps the last frequency, and
clearing `CTL.EN` alone leaves PLL_LOCK to this event (DESIGN CHOICE, log 164). -/
def wobbleUnlock (c : Fin 16) (row : Nat) (s : State) : State :=
  if s.cr c F.WOB_STS_PLL_LOCK = 0 then s
  else (((s.cw c F.WOB_STS_PLL_LOCK 0).cirq c 0x2D 0).modWr c fun w => { w with clockLock := false }).safetyStop c row 19

def execWobblePllUnlock (c : Fin 16) (row : Nat) (s : State) : HRes := .next (wobbleUnlock c row s)

/-- WRITE_CLOCK_LOCK (R114): the write clock follows the wobble PLL. -/
def writeClockLock (c : Fin 16) (s : State) : State :=
  if s.cr c F.WOB_STS_PLL_LOCK = 0 then s else s.modWr c fun w => { w with clockLock := true }

def execWriteClockLock (c : Fin 16) (s : State) : HRes := .next (writeClockLock c s)

end Sys2Proof.Machine
end

