-- ==== Sys2Proof/Machine/DiscRead.lean ====
section
/-! DEFINITION. What a mount reads from a disc: identity, anchors and calibration records with their checks, the recorded extents, the highest
sequence number, and where writing begins again (R43, R45, R49 to R52, R146, R236, R237, R261). -/

namespace Sys2Proof
open Sys2Proof.Machine

/-! What the anchor zone says (R45, R50 to R53, R236). -/

/-- The valid identity record (Table 2-11). -/
structure IdentRec where
  major     : Nat
  direct    : Bool
  keyed     : Bool
  revision  : Nat
  keyId     : Nat
  archiveId : Nat
  wrapped   : List Byte
  discId    : List Byte
  deriving DecidableEq, Repr

/-- An intact anchor record (Table 2-12). -/
structure AnchorRec where
  num     : Nat
  reason  : Nat
  sealed_ : Bool
  ckptNum : Nat
  seq     : Nat
  pcn     : Nat
  parts   : Nat
  start   : Nat
  wptr    : Nat
  high    : Nat
  slips   : List Nat
  deriving DecidableEq, Repr

/-- The little-endian number of `n` bytes at an offset. -/
def fieldAt (b : List Byte) (ofs n : Nat) : Nat := leNat ((b.drop ofs).take n)

/-- The descriptor of a position, if it is valid (R43). -/
def AreaRead.desc (r : AreaRead) : Option Desc := r.data.bind fun x => readDesc x.2 r.pcn

/-- The payload of a position whose descriptor is valid and of a cluster type. -/
def AreaRead.payload (r : AreaRead) (kind : Nat) : Option (List Byte) :=
  match r.desc, r.data with
  | some d, some x => if d.kind = kind then some x.1 else none
  | _, _ => none

/-- An intact copy of an identity record (R51): its cluster's descriptor is valid, its magic and CRC are correct. -/
def AreaRead.ident (r : AreaRead) : Option IdentRec :=
  (r.payload 4).bind fun b =>
    let f := fieldAt b
    if b.take 4 ≠ ascii "F32I" ∨ f 0x1FC 4 ≠ crc32c (b.take 0x1FC) then none
    else some ⟨f 4 1, f 6 1 == 1, f 7 1 == 1, f 0x18 1, f 0x1C 4, f 0x20 8, (b.drop 0x28).take 72, (b.drop 8).take 16⟩

/-- The valid identity: the highest revision of which a copy is read intact (R51). -/
def DiscScan.identity (scan : DiscScan) : Option IdentRec :=
  (scan.ident.filterMap AreaRead.ident).foldl (fun (b : Option IdentRec) (x : IdentRec) => match b with
    | some y => if y.revision < x.revision then some x else some y
    | none => some x) none

/-- An intact copy of an anchor (R52): the CRC covers the header and the slip list together. -/
def AreaRead.anchor (r : AreaRead) : Option AnchorRec :=
  (r.payload 3).bind fun b =>
    let f := fieldAt b
    let n := f 0x40 4
    if b.take 4 ≠ ascii "F32A" ∨ n > 16320 ∨ f 0xFC 4 ≠ crc32c (b.take 0xFC ++ (b.drop 0x100).take (4 * n)) then none
    else some ⟨f 4 4, f 8 1, bitAt (f 9 1) 0, f 0xC 4, f 0x10 8, f 0x18 4, f 0x1C 4, f 0x20 8, f 0x28 4, f 0x38 8,
      (List.range n).map fun i => f (0x100 + 4 * i) 4⟩

/-- The intact anchors, highest number first, one of each number (R52). The end that the binary search of R52 finds is that of the recorded
extent, so the anchors are those of the whole area. -/
def DiscScan.anchors (scan : DiscScan) : List AnchorRec :=
  let l := (scan.anch.filterMap AreaRead.anchor).mergeSort fun a b => b.num ≤ a.num
  l.foldr (fun (a : AnchorRec) (r : List AnchorRec) => match r with
    | x :: xs => if x.num = a.num then a :: xs else a :: x :: xs
    | [] => [a]) []

/-- An intact calibration record (Table 7-3): its layer, test slot and the corrections of its beams. -/
def AreaRead.calRecord (r : AreaRead) : Option (Nat × Nat × List Nat) :=
  (r.payload 3).bind fun b =>
    let f := fieldAt b
    if b.take 4 ≠ ascii "F32C" ∨ f 8 4 ≠ 64 ∨ f 0x3C 4 ≠ crc32c (b.take 0x3C) then none
    else some (f 4 4, f 0xE 1, (List.range 8).map fun i => f (0x10 + 2 * i) 2)

/-- Nothing has been recorded on the disc but test-area frames: it is blank (R51). -/
def DiscScan.blank (scan : DiscScan) : Bool :=
  scan.ident.isEmpty && scan.cal.isEmpty && scan.anch.isEmpty && scan.user.isEmpty

/-! The recorded extents (R49). -/

/-- The end of the recorded extent of an area of the anchor zone, and its last recorded position. -/
def areaExtent (start : Nat) (rs : List AreaRead) : Nat × Option (Nat × Nat) :=
  extentEnd id start none (rs.map fun r => (r.pcn, r.row))

/-- The end of the recorded extent of the user area, and its last recorded position. -/
def DiscScan.extent (scan : DiscScan) : Nat × Option (Nat × Nat) :=
  extentEnd userFrom anchorEnd none (scan.user.map fun r => (r.pcn, r.row))

/-- The latest anchor has reason Unmount or Seal, and its write pointer is the end of the recorded extent: nothing can have been written
since (R49). -/
def DiscScan.clean (scan : DiscScan) : Bool :=
  scan.anchors.head?.elim false fun r => (r.reason == 2 || r.reason == 3) && r.wptr == scan.extent.1

/-- Where writing in an area may begin again (R49): at the end of its recorded extent after a clean end, else at the first position R48 allows
after the last frame read as recorded, or at the area's first. -/
def resumeAt (clean : Bool) (start : Nat) (e : Nat × Option (Nat × Nat)) : Nat :=
  if clean then e.1
  else match e.2 with
    | some (q, row) => afterCut q row
    | none => start

/-- The positions of the user area from `p` to the end of the recorded extent, those that read blank among them. -/
def spanFrom (end_ : Nat) : Nat → List UserRead → List (Nat × PosRead)
  | p, [] => (userBetween 4096 p end_).map fun q => (q, PosRead.blank)
  | p, r :: rs =>
    if r.pcn < p then spanFrom end_ p rs
    else if end_ ≤ r.pcn then (userBetween 4096 p end_).map fun q => (q, PosRead.blank)
    else (userBetween 4096 p r.pcn).map (fun q => (q, PosRead.blank)) ++ (r.pcn, r.read) :: spanFrom end_ (r.pcn + 1) rs

/-- The span a replay reads, from a position to the end of the recorded extent (R259). -/
def DiscScan.span (scan : DiscScan) (start : Nat) : List (Nat × PosRead) := spanFrom scan.extent.1 start scan.user

/-- The sequence number of a position with a valid descriptor, and the number its Supersedes names. -/
def posSeq : PosRead → Option Nat
  | .map seq _ _ _ _ => some seq
  | .data seq _ _ _ _ _ => some seq
  | .pad seq => some seq
  | .blank | .scar | .unreadable => none

def posSupersedes : PosRead → Nat
  | .data _ _ _ n _ _ => n
  | .map _ _ _ _ _ | .pad _ | .blank | .scar | .unreadable => 0

/-- The write pointer after a mount (R49, R261). -/
def mountPointer (scan : DiscScan) : Nat := userFrom (resumeAt scan.clean anchorEnd scan.extent)

/-- The highest sequence number read in any cluster, 0 where none was. -/
def DiscScan.highSeq (scan : DiscScan) : Nat :=
  let area := fun (l : List AreaRead) => l.filterMap fun (r : AreaRead) => r.desc.map (·.seq)
  (area scan.ident ++ area scan.cal ++ area scan.anch ++ scan.user.filterMap fun (r : UserRead) => posSeq r.read).foldl max 0

/-- The next sequence number after a mount: the highest number found on the disc plus 256 (R45, R261). -/
def mountSeq (scan : DiscScan) : Nat := max scan.highSeq (scan.anchors.head?.elim 0 (·.high)) + 1 + 255

/-- The test-area slot two above the highest recorded of each layer (R146), and the corrections of each layer's latest intact record
(R237). -/
def DiscScan.testNext (scan : DiscScan) : SMap Nat :=
  (scan.cal.filterMap AreaRead.calRecord).foldl (fun (m : SMap Nat) (x : Nat × Nat × List Nat) =>
    SMap.insert m x.1 (max (x.2.1 + 2) (SMap.get m x.1 0))) []

end Sys2Proof
end

