-- ==== Sys2Proof/Machine/ChanOps.lean ====
section
/-! DEFINITION. Ending the commands a channel holds (R12, R178, R351, R449). -/

namespace Sys2Proof.Machine
open Sys2Proof

/-- Forget what the channel holds for the commands of some slots: their lookups, reads, intake and commit waits, and their reads of
host memory. Staged blocks stay (R351). -/
def State.dropCmds (s : State) (c : Fin 16) (ks : List Nat) : State :=
  let s1 := s.modCh c fun x => { x with
    rd := { x.rd with
      cmds := x.rd.cmds.filter fun q => !ks.contains q.slot
      tails := x.rd.tails.filter fun t => x.rd.cmds.any fun q =>
        !ks.contains q.slot && decide (q.slba ≤ t.lba) && decide (t.lba < q.slba + q.n) }
    wr := { x.wr with
      intake := x.wr.intake.filter fun i => !ks.contains i.slot
      waits := x.wr.waits.filter fun w => !ks.contains w.slot }
    map := { x.map with
      miss := x.map.miss.map fun m => { m with waiting := m.waiting.filter fun l => !ks.contains l.slot }
      blocked := x.map.blocked.filter fun l => !ks.contains l.slot } }
  (ks.foldl (fun s k => s.dropReads k) s1).trimOps c

/-- The slots whose commands wait on a channel's media: reads, writes at intake, and waits for a commit. -/
def State.mediaSlots (s : State) (c : Fin 16) : List Nat :=
  let x := s.ch c
  (x.rd.cmds.map (·.slot) ++ x.wr.intake.map (·.slot) ++ x.wr.waits.map (·.slot)).eraseDups

/-- The slots whose commands a channel holds. -/
def State.heldSlots (s : State) (c : Fin 16) : List Nat :=
  (s.front.slots.filter fun e => e.2.chan == some c.val && e.2.phase == .routed).map (·.1)

/-- End commands of a channel with a status. -/
def State.endCmds (s : State) (c : Fin 16) (ks : List Nat) (st : Status) : State :=
  ks.foldl (fun s k => s.finish k st) (s.dropCmds c ks)

/-- Whether the disc may be removed (R473). -/
def State.safe (s : State) (c : Fin 16) : Bool :=
  let x := s.ch c
  let st := s.cr c F.SPN_STS_STATE
  s.cr c F.CHN_SAFE_CTL_EN == 1 && !x.active && x.st != .mounting && x.wr.session == .idle && !s.plat.porst
    && (s.cr c F.LDI_STS_KILL_PIN == 1 || !x.powered) && (st == 0 || st == 8) && x.spin.rest

/-- Cnn_SAFE follows its conditions; a change is an event (R472, R473). -/
def State.showSafe (s : State) (c : Fin 16) : State :=
  let v := b2n (s.safe c)
  if s.cr c F.CHN_STS_SAFE = v then s else (s.cw c F.CHN_STS_SAFE v).cirq c 0x00 2

/-! Forgetting a disc. -/

/-- The channel's key pair is cleared (R285). -/
def State.clearKey (s : State) (c : Fin 16) : State :=
  (s.modCh c fun x => { x with xtsKey := none }).wrs (chRg c) [(F.XTS_STS_KEY_VALID, 0), (F.XTS_KEY_ID, 0)]

/-- Channel firmware clears EN and sets KILL (R502). -/
def State.forbidWrites (s : State) (c : Fin 16) : State :=
  ((s.wrs (chRg c) [(F.WRC_CTL_EN, 0), (F.LDI_CTL_KILL, 1)]).modLdi c fun l => { l with ask := false }).showKill c

/-- A write chain without a disc. -/
def WriteChain.cleared (w : WriteChain) : WriteChain :=
  { w with
    blocks := [], pieces := [], intake := [], waits := [], cur := none, openGroup := none, groupIds := [], ready := [], placed := []
    tail := none, records := [], gone := [], session := .idle, stopping := none, forceTo := 0, since := 0, ckpt := none, ckptDue := none, weakCal := none, testNext := []
    trail := [], weak := [] }

/-- The channel forgets its disc: the map and cache are empty (R271), nothing is staged or read. -/
def State.forgetDisc (s : State) (c : Fin 16) : State :=
  let s1 := ((s.ladderRest c).ltcClear c).modMap c fun m => { m with recs := [], bad := [], readEnd := 0 }
  let s2 := s1.modCh c fun x => { x with
    disc := none, wr := x.wr.cleared
    rd := { x.rd with cmds := [], ops := [], running := none, clusters := [], tails := [], holder := none, writeAged := false } }
  (s2.cw c F.WRC_STS_STATE 0).showDisc c

/-- A Mount in progress fails and leaves the disc unmounted. -/
def State.mountFails (s : State) (c : Fin 16) (st : Status) : State :=
  match (s.ch c).mounting with
  | none => s
  | some k =>
    let s1 := ((s.clearKey c).forgetDisc c).forbidWrites c
    let s2 := s1.modCh c fun x => { x with mounting := none }
    ((s2.setSt c (if (s2.ch c).keysLost then .keysLost else .notMounted)).finish k st).showSafe c

/-- R178: the mechanism is used no more, and media operations waiting on it complete with Servo Implausible, a Mount in
progress among them. -/
def State.mechStop (s : State) (c : Fin 16) : State :=
  if (s.ch c).st = .mechStopped then s
  else if (s.ch c).mounting.isSome then s.mountFails c stServo
  else
    let run := (s.ch c).wr.testRun.bind (·.cmd)
    let s1 := ((s.setSt c .mechStopped).endCmds c (s.mediaSlots c) stServo).modWr c fun w => { w with testRun := none }
    match run with
    | some k => s1.finish k stServo
    | none => s1

/-- On a Direct disc a write admitted at LBAs that a forced-out cluster has passed over can never be written: it ends unstaged, and with it
every later one (R56). Its status is a DESIGN CHOICE (log 179): LBA Out of Range, as for every write that an end of another leaves off
the admission pointer. -/
def State.failPassed (s : State) (c : Fin 16) : State :=
  match (s.ch c).disc, (s.ch c).wr.intake with
  | some d, i :: is => if d.direct && i.slba < d.nextLba then s.endCmds c (i.slot :: is.map (·.slot)) stLbaRange else s
  | _, _ => s

end Sys2Proof.Machine
end

