-- ==== Sys2Proof/Machine/Servo.lean ====
section
/-! DEFINITION. The control law engine: the slot datapath, slot states, acquisition, Guyline, sweeps and jumps (R151 to R187). -/

namespace Sys2Proof.Machine
open Sys2Proof

/-- Change a channel's engine. -/
def State.modServo (s : State) (c : Fin 16) (f : Servo → Servo) : State := s.modCh c fun x => { x with servo := f x.servo }

/-- A slot. -/
def State.slt (s : State) (c : Fin 16) (q : Fin 7) : SlotSt := (s.ch c).servo.slots[q]

/-- Change a slot. -/
def State.modSlt (s : State) (c : Fin 16) (q : Fin 7) (f : SlotSt → SlotSt) : State :=
  s.modServo c fun v => { v with slots := v.slots.set q (f v.slots[q]) }

/-- The slots with runout feed-forward (Table 5-1). -/
def hasFf (q : Nat) : Bool := q == 0 || q == 1 || q == 3 || q == 4

/-- The page of a slot. -/
def sltPage (q : Nat) : Nat := 9 + q

/-- Whether channel hardware of `c` runs at all. -/
def State.alive (s : State) (c : Fin 16) : Bool := (s.ch c).powered && !s.plat.porst && !s.plat.tripped

/-- Whether a write session is on: armed, writing or stopping. -/
def State.sessionOn (s : State) (c : Fin 16) : Bool := (s.ch c).wr.session != .idle

/-- Whether `WRC.STS.STATE` is ARMED or WRITING: sweeps and jumps are refused (R179). -/
def State.jumpsBarred (s : State) (c : Fin 16) : Bool :=
  match (s.ch c).wr.session with
  | .idle | .stopping => false
  | .armed | .writing | .ending => true

/-- The layer the pickup is on: of the last ADIP address, else where the last jump ended. -/
def State.layerNow (s : State) (c : Fin 16) : Nat :=
  match (s.ch c).rd.adipPrev with
  | some a => (frameAddr a).layer
  | none => s.cr c F.CLE_JUMP_STS_LAYER

/-- A seek or a layer jump: every lane hunts (R75), and the ADIP prediction no longer holds. -/
def State.huntAll (s : State) (c : Fin 16) : State :=
  let s1 := (List.range 8).foldl (fun s l => s.laneSts c l 0 0) s
  (s1.modRd c fun r => { r with adipPrev := none, adipLast := none }).cirq c 0x29 0

/-! Leaving CLOSED during a session (Table 4-7). -/

/-- A slot leaves CLOSED: a write session stops, at once for FOC and TRK (code 18), in order for the others (code 8). -/
def State.leaveClosed (s : State) (c : Fin 16) (q row : Nat) : State :=
  if q ≤ 1 then s.safetyStop c row 18
  else
    let s1 := if s.sessionOn c then s.modWr c fun w => { w with gone := if w.gone.contains q then w.gone else w.gone ++ [q] } else s
    s1.orderlyStop c 8

/-- The row a session is in, where a command does not say it: a free value. -/
def State.drawRow (s : State) : Nat × State :=
  let r := s.draw 8
  (r.1 % 10, r.2)

/-! Sequences that end (R179 to R183). -/

/-- A sweep ends: M returns to its value before it (R179). `st`: 2 done, 3 ended early. -/
def State.sweepEnd (s : State) (c : Fin 16) (st : Nat) : State :=
  match (s.ch c).servo.sweep with
  | none => s
  | some w =>
    let s1 := (s.modServo c fun v => { v with sweep := none }).putQ c (F.SLT_MANUAL w.slot) w.m0
    let s2 := s1.wrs (chRg c) [(F.SLT_STATE_SWEEP w.slot, 0), (F.CLE_SWEEP_STS_STATE, st)]
    let s3 := match w.cmd with
      | some (k, _) => s2.finish k stSuccess (s2.cr c F.CLE_SWEEP_STS_POINTS)
      | none => s2
    if st = 2 then s3.cirq c 0x08 4 else s3

/-- Show or release the sequencer's hold on slots. -/
def State.seqHold (s : State) (c : Fin 16) (qs : List Nat) (v : Nat) : State :=
  qs.foldl (fun s q => s.cw c (F.SLT_STATE_SEQ q) v) s

/-- A layer jump fails (R181): 2 a timeout, 3 FOC preempted, or a slot the jump holds commanded to OFF (R168). M returns to M0. -/
def State.jumpFail (s : State) (c : Fin 16) (why : Nat) : State :=
  match (s.ch c).servo.jump with
  | none => s
  | some j =>
    let s1 := (s.modServo c fun v => { v with jump := none }).seqHold c [0, 1, 3, 4] 0
    let s2 := s1.putQ c (F.SLT_MANUAL 0) j.m0
    (s2.wrs (chRg c) [(F.CLE_JUMP_STS_STATE, 3), (F.CLE_JUMP_STS_FAIL, why)]).cirq c 0x08 1

/-- A strand jump fails (R183). -/
def State.tjumpFail (s : State) (c : Fin 16) (why : Nat) : State :=
  match (s.ch c).servo.tjump with
  | none => s
  | some j =>
    let s1 := (s.modServo c fun v => { v with tjump := none }).seqHold c [1] 0
    let s2 := s1.putQ c (F.SLT_MANUAL 1) j.m0
    (s2.wrs (chRg c) [(F.CLE_TJUMP_STS_STATE, 3), (F.CLE_TJUMP_STS_FAIL, why)]).cirq c 0x08 3

/-- Whether a sweep runs on a slot. -/
def State.swept (s : State) (c : Fin 16) (q : Nat) : Bool := (s.ch c).servo.sweep.any (·.slot == q)

/-- What a transition outside a sequence ends: the sweep of a slot that leaves OPEN, and a jump whose slot leaves its sequenced
state (R179, R181). -/
def State.seqBreak (s : State) (c : Fin 16) (q : Nat) : State :=
  let s1 := if s.swept c q then s.sweepEnd c 3 else s
  let s2 := if q = 0 then s1.jumpFail c 3 else s1
  if q = 1 then s2.tjumpFail c 3 else s2

/-! Entering a state (R165 to R167, Tables 5-3 and 5-4). -/

/-- The integrator preset of R167 at accumulator width, and whether it was clamped. -/
def State.preset (s : State) (c : Fin 16) (q : Fin 7) (target : Int) (played : Bool) : Int × Bool :=
  let x := s.slt c q
  let ef := s.q21 c (F.SLT_FERR q)
  let d := if s.cr c (F.SLT_PID_CTL_D_EN q) = 1 then mulQ (s.q21 c (F.SLT_KD q)) (ef - x.efPrev) else 0
  let base := if played then target else target - x.ff
  let i := roundDiv (wide base) (2 ^ s.cr c (F.SLT_PID_CTL_GEXP q)) - mulQ (s.q21 c (F.SLT_KP q)) ef - d
  let j := limitQ s.free (wide (s.q21 c (F.SLT_ILIM_LO q))) (wide (s.q21 c (F.SLT_ILIM_HI q))) i
  (j, j != i)

/-- Enter OFF: filter and integrator cleared (Table 5-3). -/
def State.enterOff (s : State) (c : Fin 16) (q : Fin 7) : State :=
  (s.modSlt c q fun x => { x with integ := 0, bq := List.replicate 8 (0, 0), closedN := 0, lossN := 0, offN := 0 }).wrs
    (chRg c) [(F.SLT_INTEG q, 0), (F.SLT_GL_STS_COUNT q, 0)]

/-- Enter CLOSED: the integrator is preset, and the observer starts (R167, R175). H is what a defect hold in force outputs beside FF from
this sample on: the first CLOSED output is the same (R174). -/
def State.enterClosed (s : State) (c : Fin 16) (q : Fin 7) (from_ : Nat) : State :=
  let x := s.slt c q
  let m := s.q21 c (F.SLT_MANUAL q)
  let p := if from_ = 4 then s.preset c q x.hold true else s.preset c q m false
  let s1 := s.modSlt c q fun x => { x with
    hold := if from_ = 4 then x.hold else m - x.ff, integ := p.1, phat := 0, vhat := 0, dhat := s.q21 c (F.SLT_ERR q), closedN := 0, lossN := 0, offN := 0, held := 0 }
  let s2 := (s1.cw c (F.SLT_GL_STS_COUNT q) 0).putQ c (F.SLT_INTEG q) (stage p.1)
  if p.2 then { s2.cirq c (sltPage q) 8 with free := s.free + 1 } else s2

/-- A slot enters a state, with what Table 5-4 presets. A failed acquisition returns M to its value at entry (R172). -/
def State.enter (s : State) (c : Fin 16) (q : Fin 7) (dest cause : Nat) : State :=
  let from_ := s.mode c q
  let x := s.slt c q
  let out := s.q21 c (F.SLT_OUT q)
  let s1 : State := match dest with
    | 0 => s.enterOff c q
    | 1 => s.putQ c (F.SLT_MANUAL q) (if cause = 2 then x.acqM else out)
    | 2 =>
      let m := if from_ = 4 then out else s.q21 c (F.SLT_MANUAL q)
      (s.putQ c (F.SLT_MANUAL q) m).modSlt c q fun x => { x with
        acqRev := 0, acqHits := 0, acqN := 0, acqM := m, acqDown := s.cr c (F.SLT_ACQ_CTL_DIR q) == 1 }
    | 3 => s.enterClosed c q from_
    | _ => s.modSlt c q fun x => { x with hold := if from_ = 3 then out - x.ffOut else out }
  let held := dest = 3 ∧ (s.ch c).servo.defect.isSome ∧ bitAt (s.cr c F.CLE_DEF_CTL_MASK) q = true
  s1.wrs (chRg c) [(F.SLT_STATE_MODE q, dest), (F.SLT_STATE_CAUSE q, cause), (F.SLT_STATE_ARMED q, 0), (F.SLT_STATE_DEFECT q, b2n held)]

/-- The commanded transitions of Table 5-4. -/
def commanded (from_ dest : Nat) : Bool :=
  match from_, dest with
  | 0, 1 | 1, 2 | 1, 3 | 2, 1 | 3, 1 | 3, 4 | 4, 3 | 4, 1 | 4, 2 => true
  | _, 0 => from_ != 0
  | _, _ => false

/-- A transition that ends a session where it leaves CLOSED. -/
def State.transit (s : State) (c : Fin 16) (q : Fin 7) (dest cause row : Nat) : State :=
  let s1 := s.enter c q dest cause
  if s.mode c q = 3 ∧ dest ≠ 3 then s1.leaveClosed c q row else s1

/-- A sweep has recorded its last point; channel firmware returns the slot of a Calibrate sweep to the state it was in (R343): to HOLD by way
of CLOSED. -/
def State.sweepOver (s : State) (c : Fin 16) : State :=
  let s1 := s.sweepEnd c 2
  match (s.ch c).servo.sweep with
  | some ⟨q, some (_, m), _, _, _, _, _, _⟩ =>
    if h : q < 7 then
      let r := ⟨q, h⟩
      match m with
      | 0 | 2 | 3 => s1.enter c r m 0
      | 4 => (s1.enter c r 3 0).enter c r 4 0
      | _ => s1
    else s1
  | _ => s1

/-- A transition the sequencer makes (cause 5): none where Table 5-4 does not list it. -/
def State.seqTo (s : State) (c : Fin 16) (q : Fin 7) (dest : Nat) : State :=
  if s.mode c q = dest then s
  else if commanded (s.mode c q) dest then s.transit c q dest 5 0
  else s.cirq c (sltPage q) 5

/-- A command to OFF ends the sequence or the sweep that holds the slot, whichever slot of the sequence it names (R168). -/
def State.endHold (s : State) (c : Fin 16) (q : Nat) : State :=
  let s1 := s.seqBreak c q
  if s.cr c (F.SLT_STATE_SEQ q) = 0 then s1
  else if q = 6 then s1.cw c (F.SLT_STATE_SEQ q) 0
  else s1.jumpFail c 3

/-- A command to a slot is decided (R166, R168). -/
def State.slotCommand (s : State) (c : Fin 16) (q : Fin 7) (dest : Nat) : State :=
  let m := s.mode c q
  let held := s.cr c (F.SLT_STATE_SEQ q) == 1 || s.swept c q
  if m = dest then s
  else if !commanded m dest || (held && dest != 0) || s.cr c F.CLE_CTL == 0 then s.cirq c (sltPage q) 5
  else
    let r := if s.sessionOn c then s.drawRow else (0, s)
    let s1 := if dest = 0 then r.2.endHold c q else r.2.seqBreak c q
    s1.transit c q dest 0 r.1

/-! Events of a slot (R172 to R178). -/

/-- A slot enters HOLD or CLOSED by itself: the command waiting is dropped (R168). -/
def State.overtake (s : State) (c : Fin 16) (q : Fin 7) : State :=
  match (s.slt c q).cmd with
  | some _ => (s.modSlt c q fun x => { x with cmd := none }).cirq c (sltPage q) 6
  | none => s

/-- Count an IMPLAUSIBLE; the third of one slot within 10 s stops the use of the mechanism (R178). -/
def State.countImplausible (s : State) (c : Fin 16) (q : Nat) : State :=
  let now := s.plat.time
  let l := ((s.ch c).implTimes.filter fun e => now < e.2 + 10000000000) ++ [(q, now)]
  let s1 := (s.modCh c fun x => { x with implTimes := l, implCount := x.implCount + 1 }).cnt c 12
  if (l.filter (·.1 == q)).length ≥ 3 then s1.mechStop c else s1

/-- The strand search begins with a command to TRK (Table 5-9); without focus, focus acquisition comes first (Table 5-7). -/
def State.pullIn (s : State) (c : Fin 16) (layer : Nat) : State :=
  if s.mode c 0 ≠ 3 then s.modServo c fun v => { v with regain := .focus 0 layer }
  else (s.modSlt c 1 fun x => { x with cmd := some 2 }).modServo c fun v => { v with regain := .pull layer }

/-- What channel firmware sets in motion after IMPLAUSIBLE (Table 5-5, R209): a command after a time in HOLD, counted in samples of the
slot, or at once. `again` is a second trip within 100 ms. The re-centring move of the sled comes as a command (log 165). -/
def State.recover (s : State) (c : Fin 16) (q : Fin 7) (again : Bool) : State :=
  let later := fun (s : State) (n dest : Nat) => s.modServo c fun v => { v with due := v.due.filter (·.slot != q.val) ++ [⟨q, n, dest⟩] }
  match q.val with
  | 0 => if again then (later s 1 1).modServo c fun v => { v with regain := .focus 0 (s.layerNow c) } else later s 384 3
  | 1 => if again then s.pullIn c (s.layerNow c) else (later s 77 2).modServo c fun v => { v with regain := .pull (s.layerNow c) }
  | 2 => later s (if again then 1 else 60) (if again then 1 else 3)
  | 3 | 4 => later s (if again then 1 else 24) (if again then 1 else 3)
  | 5 => later s 1 1
  | _ => s.modServo c fun v => { v with respin := true }

/-- IMPLAUSIBLE (R176, R177). -/
def slotImplausible (c : Fin 16) (q : Fin 7) (row : Nat) (s : State) : State :=
  if s.mode c q ≠ 3 then s
  else
    let s1 := ((s.overtake c q).seqBreak c q).enter c q 4 3
    let s2 := (s1.cirq c (sltPage q) 0).incSat (chRg c) (F.SLT_GL_STS_TRIPS q)
    let now := s.plat.time
    let again := (s.ch c).servo.trips.any fun e => e.1 == q.val && now ≤ e.2 + 100000000
    let s3 := (s2.recover c q again).modServo c fun v => { v with trips := v.trips.filter (·.1 != q.val) ++ [(q.val, now)] }
    ((s3.leaveClosed c q row).ladderBroken c).countImplausible c q

/-- LOSS (R173). -/
def slotLoss (c : Fin 16) (q : Fin 7) (s : State) : State :=
  if s.mode c q ≠ 3 then s
  else
    let r := if s.sessionOn c then s.drawRow else (0, s)
    ((((r.2.overtake c q).seqBreak c q).enter c q 4 4).cirq c (sltPage q) 1).leaveClosed c q r.1

/-- ACQUISITION_CAPTURE (R172). -/
def capture (c : Fin 16) (q : Fin 7) (s : State) : State :=
  if s.mode c q ≠ 2 then s else (s.enter c q 3 1).cirq c (sltPage q) 2

/-- ACQUISITION_FAILURE (R172): M returns to its value at entry. -/
def acqFail (c : Fin 16) (q : Fin 7) (s : State) : State :=
  if s.mode c q ≠ 2 then s else (s.enter c q 1 2).cirq c (sltPage q) 3

/-- GUYLINE_ARM (R176). -/
def guylineArm (c : Fin 16) (q : Fin 7) (s : State) : State :=
  if s.mode c q ≠ 3 then s else s.cw c (F.SLT_STATE_ARMED q) 1

/-! Defect hold (R174). -/

/-- The number of lanes flagged by Bramble. -/
def State.flagged (s : State) (c : Fin 16) : Nat := ((List.range 8).filter fun l => bitAt (s.ch c).rd.flags l).length

/-- Whether a defect hold is active on the channel. -/
def State.defectOn (s : State) (c : Fin 16) : Bool := (s.ch c).servo.defect.isSome

/-- Whether a defect hold acts on a slot: it is CLOSED and selected. -/
def State.inDefect (s : State) (c : Fin 16) (q : Nat) : Bool :=
  s.defectOn c && s.mode c q == 3 && bitAt (s.cr c F.CLE_DEF_CTL_MASK) q

/-- Fix H of every slot the hold acts on that does not yet show it; the consecutive count is reset. -/
def State.defectEnter (s : State) (c : Fin 16) : State :=
  (List.finRange 7).foldl (fun s (q : Fin 7) =>
    if s.inDefect c q && s.cr c (F.SLT_STATE_DEFECT q) == 0 then
      (s.modSlt c q fun x => { x with hold := s.q21 c (F.SLT_OUT q) - x.ffOut, binOk := false }).wrs (chRg c)
        [(F.SLT_STATE_DEFECT q, 1), (F.SLT_GL_STS_COUNT q, 0)]
    else s) s

/-- End the defect hold. -/
def State.defectEnd (s : State) (c : Fin 16) : State :=
  (List.range 7).foldl (fun s q => s.cw c (F.SLT_STATE_DEFECT q) 0) (s.modServo c fun v => { v with defect := none })

/-- The flagged lanes have changed. -/
def State.defectUpdate (s : State) (c : Fin 16) : State :=
  let n := s.flagged c
  if n < s.cr c F.CLE_DEF_CTL_MIN_LANES then (s.defectEnd c).modServo c fun v => { v with defOver := false }
  else if (s.ch c).servo.defect.isSome || (s.ch c).servo.defOver then s
  else (s.modServo c fun v => { v with defect := some 0 }).defectEnter c

/-- DEF_LONG (R174): DEF_MAX ends the hold; each slot it held reports. -/
def defLong (c : Fin 16) (s : State) : State :=
  if (s.ch c).servo.defect.isNone then s
  else
    let s1 := (List.range 7).foldl (fun s q => if s.inDefect c q then s.cirq c (sltPage q) 9 else s) s
    (s1.defectEnd c).modServo c fun v => { v with defOver := true }

/-! Mixing, error, filters (R157 to R160). -/

/-- The output of FOC or TRK of the previous 384 kHz sample (Table 5-2): where the slot has already been computed in the present period,
its output before that. A period begins with the first of FOC and TRK that is computed anew (log 56). -/
def State.outBefore (s : State) (c : Fin 16) (other : Fin 7) : Int :=
  let v := (s.ch c).servo
  if if other = 0 then v.focDone else v.trkDone then (s.slt c other).outPrev else s.q21 c (F.SLT_OUT other)

/-- FOC or TRK is computed: a slot computed once in the present period begins the next (R151). -/
def State.beginPeriod (s : State) (c : Fin 16) (q : Fin 7) : State :=
  if q.val > 1 then s
  else s.modServo c fun v =>
    let new := if q = 0 then v.focDone else v.trkDone
    { v with focDone := if new then false else v.focDone, trkDone := if new then false else v.trkDone }

/-- FOC or TRK has been computed. -/
def State.endPeriod (s : State) (c : Fin 16) (q : Fin 7) : State :=
  if q.val > 1 then s
  else s.modServo c fun v => { v with focDone := v.focDone || q == 0, trkDone := v.trkDone || q == 1 }

/-- The decimated inputs of a sample: signed with full scale ±1.0 (R152). -/
def scaled (sd : List Int) : List Int := (List.range 8).map fun i => clampInt (-2097152) 2097152 (sd.getD i 0)

/-- FOC's inputs are those of a 384 kHz period: every slow slot takes its mean over its own period from them (R152). -/
def State.collect (s : State) (c : Fin 16) (sd : List Int) : State :=
  [2, 3, 4, 5, 6].foldl (fun (s : State) (q : Fin 7) =>
    s.modSlt c q fun x => { x with inSum := List.zipWith (· + ·) x.inSum sd, inN := x.inN + 1 }) s

/-- The inputs of a slot's sample: the mean of the decimated samples over its period, where any were seen (R152). -/
def State.inputs (s : State) (c : Fin 16) (q : Fin 7) (sd : List Int) : List Int :=
  let x := s.slt c q
  if q.val ≤ 1 ∨ x.inN = 0 then scaled sd else x.inSum.map fun v => roundDiv v x.inN

/-- The spindle speed error, C minus S, in Q2.21 of 3,000 rpm (R197). -/
def State.speedError (s : State) (c : Fin 16) : Int :=
  satQ (roundDiv (((s.ch c).spin.cmd - 6000 * toSigned 20 (s.cr c F.SPN_SPEED)) * 2097152) 288000000)

/-- The twelve mixing sources (Table 5-2). -/
def State.sources (s : State) (c : Fin 16) (q : Fin 7) (sd : List Int) : List Int :=
  s.inputs c q sd ++ [s.outBefore c 1, s.outBefore c 0, s.speedError c, 2097152]

/-- A weighted sum of the sources (R157): row 0 ERR, 1 NRM, 2 SUM. -/
def State.mixRow (s : State) (c : Fin 16) (q r : Nat) (src : List Int) : Int :=
  acc (s.free + 40 + r) ((src.zipIdx.map fun e => mulQ (s.q21 c (F.SLT_MIX q r e.2)) e.1).sum)

/-- The mixed measurement m (R157). -/
def State.mixed (s : State) (c : Fin 16) (q : Fin 7) (src : List Int) : Int :=
  let err := s.mixRow c q 0 src
  if s.cr c (F.SLT_MIX_CTL q) = 0 then stage err
  else
    let nrm := s.mixRow c q 1 src
    if nrm.natAbs < 2 ^ 22 then (s.slt c q).m
    else satQ (roundDiv (if nrm < 0 then -(err * 2097152) else err * 2097152) nrm.natAbs)

/-- One tap toward a target (R158). -/
def stepTo (x target : Int) : Int := if x < target then x + 1 else if x > target then x - 1 else x

/-- The trims in force and the target offset in force move on (R158). -/
def State.trimStep (s : State) (c : Fin 16) (q : Fin 7) : State :=
  let o := stepTo (toSigned 16 (s.cr c (F.SLT_TRIM_CUR_OFS q))) (toSigned 16 (s.cr c (F.SLT_TRIM_OFS q)))
  let g := stepTo (toSigned 12 (s.cr c (F.SLT_TRIM_CUR_GAIN q))) (toSigned 12 (s.cr c (F.SLT_TRIM_GAIN q)))
  let t := s.q21 c (F.SLT_TGT q)
  let rate := s.cr c (F.SLT_TGT_SLEW q)
  let x := (s.slt c q).tgt
  let t' := if rate = 0 then t else clampInt (x - rate) (x + rate) t
  (s.wrs (chRg c) [(F.SLT_TRIM_CUR_OFS q, ofSigned 16 o), (F.SLT_TRIM_CUR_GAIN q, ofSigned 12 g)]).modSlt c q
    fun x => { x with tgt := t' }

/-- The error e of R158 for a measurement: G × (1 + g_t) × (m − (O + o_t)) − t. -/
def State.errorOf (s : State) (c : Fin 16) (q : Fin 7) (m : Int) : Int :=
  let g := 4096 + toSigned 12 (s.cr c (F.SLT_TRIM_CUR_GAIN q))
  let o := s.q21 c (F.SLT_OFS q) + 64 * toSigned 16 (s.cr c (F.SLT_TRIM_CUR_OFS q))
  stage (roundDiv (s.q21 c (F.SLT_GAIN q) * g * (m - o)) 4194304 - wide (s.slt c q).tgt)

/-- One biquad section (R160): its output and its new states. -/
def State.section_ (s : State) (c : Fin 16) (q k : Nat) (x : Int) (st : Int × Int) : Int × (Int × Int) :=
  let b := fun m => s.q21 c (F.SLT_BQ q k m)
  let f := s.free + 4 * k
  let y := acc f (mulQ (b 0) x + st.1)
  let s1 := acc (f + 1) (mulQ (b 1) x - mulW (b 3) y + st.2)
  let s2 := acc (f + 2) (mulQ (b 2) x - mulW (b 4) y)
  (stage (y * 2 ^ s.cr c (F.SLT_BQ_SH q k)), (s1, s2))

/-- The sections in order: e_f and the new states; sections beyond NSEC are bypassed and keep theirs. -/
def State.filter (s : State) (c : Fin 16) (q nsec : Nat) : Nat → List (Int × Int) → Int → Int × List (Int × Int)
  | _, [], x => (x, [])
  | k, st :: rest, x =>
    if k < nsec then
      let y := s.section_ c q k x st
      let r := s.filter c q nsec (k + 1) rest y.1
      (r.1, y.2 :: r.2)
    else (x, st :: rest)

/-! Runout feed-forward (R162, R163). -/

/-- The mechanical angle. -/
def State.mech (s : State) (c : Fin 16) : Nat := s.cr c F.SPN_ANGLE_MECH

/-- The weight moves by the part of a revolution turned since the last sample; FF follows. -/
def State.ffStep (s : State) (c : Fin 16) (q : Fin 7) : State :=
  if !hasFf q then s
  else
    let x := s.slt c q
    let a := s.mech c
    let turned := (a + 65536 - x.angle) % 65536
    let on := s.cr c (F.SLT_FF_CTL_EN q) == 1 && s.cr c F.SPN_STS_IN_05 == 1
    let w := if on then min 65536 (x.w + turned) else x.w - turned
    let t := fun i => toSigned 24 (s.tget .ff (chRg c) (q.val * 256 + i % 256))
    let i := a / 256 + s.cr c (F.SLT_FF_CTL_ADV q)
    let v := 256 * t i + (t (i + 1) - t i) * ((a % 256 : Nat) : Int)
    let ff := stage (roundDiv (v * (w : Int)) 8192)
    (s.modSlt c q fun x => { x with w := w, ff := ff, angle := a }).cw c (F.SLT_STATE_FF_ACT q) (b2n (w != 0))

/-- Whether the slot learns now (R163). -/
def State.learning (s : State) (c : Fin 16) (q : Fin 7) : Bool :=
  hasFf q && s.cr c (F.SLT_FF_CTL_LEARN q) == 1 && s.mode c q == 3 && (s.slt c q).w == 65536 && !s.defectOn c

/-- FF_BIN_END (R163): the entry learns the mean of v over the bin, unless a condition changed in it; a new bin begins. -/
def ffBinEnd (c : Fin 16) (q : Fin 7) (s : State) : State :=
  if !hasFf q then s
  else
    let x := s.slt c q
    let i := x.angle / 256
    let key := q.val * 256 + i
    let t := toSigned 24 (s.tget .ff (chRg c) key)
    let leak := s.cr c (F.SLT_FF_CTL_LEAK q)
    let kept := if leak = 0 then wide t else roundDiv (wide t * (2 ^ (leak + 8) - 1 : Nat)) (2 ^ (leak + 8))
    let s1 := if x.binOk ∧ x.binN ≠ 0 then
        s.tput .ff (chRg c) key (ofSigned 24
          (stage (kept + roundDiv (wide x.binSum) (x.binN * 2 ^ s.cr c (F.SLT_FF_CTL_MU q)))))
      else s
    s1.modSlt c q fun x => { x with binSum := 0, binN := 0, binOk := true }

/-- Account one sample to the bin: a changed condition spoils it. -/
def State.binSample (s : State) (c : Fin 16) (q : Fin 7) (v : Int) : State :=
  if s.learning c q then s.modSlt c q fun x => { x with binSum := x.binSum + v, binN := x.binN + 1 }
  else s.modSlt c q fun x => { x with binOk := false }

/-! Control law and output (R161, R164). -/

/-- The feedback output v (R161). -/
def State.pid (s : State) (c : Fin 16) (q : Fin 7) : Int :=
  let x := s.slt c q
  let ef := s.q21 c (F.SLT_FERR q)
  let d := if s.cr c (F.SLT_PID_CTL_D_EN q) = 1 then mulQ (s.q21 c (F.SLT_KD q)) (ef - x.efPrev) else 0
  stage (2 ^ s.cr c (F.SLT_PID_CTL_GEXP q) * (mulQ (s.q21 c (F.SLT_KP q)) ef + x.integ + d))

/-- The direction in which the slot's output is held (R161); SPD's is held while the spindle's vector is limited (R192). -/
def State.heldDir (s : State) (c : Fin 16) (q : Fin 7) : Int :=
  if q = 6 ∧ s.cr c F.SPN_STS_VLIM = 1 then (s.q21 c (F.SLT_OUT q)).sign else (s.slt c q).held

/-- Integrate, where it is allowed (R161). -/
def State.integrate (s : State) (c : Fin 16) (q : Fin 7) : State :=
  let x := s.slt c q
  let d := mulQ (s.q21 c (F.SLT_KI q)) (s.q21 c (F.SLT_FERR q))
  let h := s.heldDir c q
  if h ≠ 0 ∧ d.sign = h then s
  else
    let i := limitQ (s.free + 44) (wide (s.q21 c (F.SLT_ILIM_LO q))) (wide (s.q21 c (F.SLT_ILIM_HI q))) (x.integ + d)
    s.modSlt c q fun x => { x with integ := i }

/-- The output before limits, and the FF in it (Table 5-3, R174). -/
def State.rawOut (s : State) (c : Fin 16) (q : Fin 7) : Int × Int :=
  let x := s.slt c q
  match s.mode c q with
  | 0 => (0, 0)
  | 1 | 2 => (s.q21 c (F.SLT_MANUAL q), 0)
  | 3 => if s.inDefect c q then (satQ (x.hold + x.ff), x.ff) else (satQ (x.v + x.ff), x.ff)
  | _ => (satQ (x.hold + x.ff), x.ff)

/-- Limit and slew the output, and drive it (R164, R154). -/
def State.drive (s : State) (c : Fin 16) (q : Fin 7) : State :=
  let r := s.rawOut c q
  let prev := s.q21 c (F.SLT_OUT q)
  let a := limitQ (s.free + 45) (s.q21 c (F.SLT_OLIM_LO q)) (s.q21 c (F.SLT_OLIM_HI q)) r.1
  let slew : Int := s.cr c (F.SLT_SLEW q)
  let out := if slew = 0 then a else clampInt (prev - slew) (prev + slew) a
  let code := outCode out
  let s1 := (s.modSlt c q fun x => { x with
    outPrev := prev, since := 0, act := if q.val ≤ 1 then code else x.act, ffOut := r.2, held := if out = r.1 then 0 else (r.1 - out).sign })
  let s2 := ((s1.putQ c (F.SLT_OUT q) out).cw c (F.SLT_OUT_CODE q) (ofSigned 16 code)).sample (chRg c) (0x15 + q) code.natAbs
  if out = r.1 then s2 else s2.cirq c (sltPage q) 10

/-- The code at the actuator output `k` 384 kHz periods after a slow slot's sample: linear from its previous output to its new one over
the slot's divider (R154). -/
def State.actuator (s : State) (c : Fin 16) (q : Fin 7) (k : Nat) : Int :=
  let div := [1, 1, 64, 16, 16, 64, 64].getD q 1
  let a := (s.slt c q).outPrev
  let b := s.q21 c (F.SLT_OUT q)
  outCode (a + roundDiv ((b - a) * (min k div : Nat)) div)

/-- A 384 kHz period: the outputs of the slow slots move on (R154). -/
def State.actuators (s : State) (c : Fin 16) : State :=
  [2, 3, 4, 5, 6].foldl (fun (s : State) (q : Fin 7) =>
    let k := (s.slt c q).since + 1
    let code := s.actuator c q k
    s.modSlt c q fun x => { x with since := k, act := code }) s

/-! Guyline (R175, R176). -/

/-- The residual of this sample. -/
def State.residual (s : State) (c : Fin 16) (q : Fin 7) : Int :=
  let x := s.slt c q
  satQ (s.q21 c (F.SLT_ERR q) - satQ (x.dhat - x.phat))

/-- The observer moves on with the output of this sample. -/
def State.observe (s : State) (c : Fin 16) (q : Fin 7) (r : Int) : State :=
  let x := s.slt c q
  let l := fun j => s.q21 c (F.SLT_GL_L q j)
  let k := fun j => s.q21 c (F.SLT_GL_C q j)
  let u := s.q21 c (F.SLT_OUT q)
  let p := stage (wide x.phat + mulQ (l 1) r)
  let v := stage (wide x.vhat + mulQ (l 2) r)
  let d := stage (wide x.dhat + mulQ (l 3) r)
  let p' := stage (wide p + mulQ (k 1) v + mulQ (k 2) u)
  let v' := stage (mulQ (k 3) p + mulQ (k 4) v + mulQ (k 5) u)
  s.modSlt c q fun x => { x with phat := p', vhat := v', dhat := d }

/-- Whether the Guyline trips in this sample; the count it would show (R176). -/
def State.glCount (s : State) (c : Fin 16) (q : Fin 7) (r : Int) : Nat :=
  if s.cr c (F.SLT_STATE_ARMED q) = 1 ∧ s.cr c (F.SLT_GL_CTL_EN q) = 1 ∧ s.defectOn c = false
      ∧ (r.natAbs : Int) > s.q21 c (F.SLT_GL_THR q) then s.cr c (F.SLT_GL_STS_COUNT q) + 1
  else 0

/-! Acquisition (R172). -/

/-- Whether a crossing between two samples qualifies. -/
def State.qualifies (s : State) (c : Fin 16) (q : Fin 7) (e0 e1 sum0 sum1 : Int) : Bool :=
  let rising := decide (e0 < 0) && decide (e1 ≥ 0)
  let falling := decide (e0 ≥ 0) && decide (e1 < 0)
  let pol := s.cr c (F.SLT_ACQ_CTL_POL q)
  let thr := s.q21 c (F.SLT_SUM_THR q)
  ((rising && pol != 1) || (falling && pol != 0)) && decide (sum0 ≥ thr) && decide (sum1 ≥ thr)
    && decide (((e1 - e0).natAbs : Int) ≤ s.q21 c (F.SLT_CAP_SLOPE q))

/-- M moves, and the crossing of this sample is counted. -/
def State.acqStep (s : State) (c : Fin 16) (q : Fin 7) (hit : Bool) : State :=
  let x := s.slt c q
  let m := s.q21 c (F.SLT_MANUAL q)
  let rate : Int := s.cr c (F.SLT_ACQ_RATE q)
  let hi := s.q21 c (F.SLT_ACQ_HI q)
  let lo := s.q21 c (F.SLT_ACQ_LO q)
  let moves := s.cr c (F.SLT_ACQ_CTL_SWEEP_EN q) = 1
  let goal := if x.acqDown then lo else hi
  let m' := if !moves then m else clampInt (m - rate) (m + rate) goal
  let turn := decide moves && m' == goal
  let hits := if hit then x.acqHits + 1 else x.acqHits
  (s.putQ c (F.SLT_MANUAL q) m').modSlt c q fun x => { x with
    acqN := x.acqN + 1, acqRev := if turn then x.acqRev + 1 else x.acqRev
    acqHits := if turn && !decide (hits ≥ s.cr c (F.SLT_ACQ_CTL_COUNT q)) then 0 else hits
    acqDown := if turn then !x.acqDown else x.acqDown }

/-- The acquisition's end in this sample, if it comes. -/
def State.acqDecide (s : State) (c : Fin 16) (q : Fin 7) : State :=
  let x := s.slt c q
  if x.acqHits ≥ s.cr c (F.SLT_ACQ_CTL_COUNT q) then capture c q s
  else if (x.acqRev ≥ s.cr c (F.SLT_ACQ_CTL_SWEEPS q) ∧ s.cr c (F.SLT_ACQ_CTL_SWEEP_EN q) = 1)
      ∨ x.acqN ≥ 64 * s.cr c (F.SLT_ACQ_CTL_TMO q) then acqFail c q s
  else s

/-! Sweeps (R179). -/

/-- Record a point's three words. -/
def State.sweepRecord (s : State) (c : Fin 16) (p : Nat) (m e sum : Int) : State :=
  ((((s.tput .capture (chRg c) (3 * p) (ofSigned 24 m)).tput .capture (chRg c) (3 * p + 1) (ofSigned 24 e)).tput .capture (chRg c)
    (3 * p + 2) (ofSigned 24 sum))).cw c F.CLE_SWEEP_STS_POINTS p

/-- M at a point of the sweep. -/
def State.sweepM (s : State) (c : Fin 16) (p : Nat) : Int :=
  satQ (s.q21 c F.CLE_SWEEP_START + p * s.q21 c F.CLE_SWEEP_STEP)

/-- One sample of the swept slot: the second half of each dwell is averaged; after the last point the sweep is done. -/
def State.sweepStep (s : State) (c : Fin 16) (q : Nat) (e sum : Int) : State :=
  match (s.ch c).servo.sweep with
  | none => s
  | some w =>
    if w.slot ≠ q then s
    else
      let dwell := s.cr c F.CLE_SWEEP_CTL_DWELL
      let late := 2 * w.k + 1 ≥ dwell
      let w1 := { w with
        k := w.k + 1, sumE := if late then w.sumE + e else w.sumE, sumS := if late then w.sumS + sum else w.sumS
        cnt := if late then w.cnt + 1 else w.cnt }
      if w1.k < dwell then s.modServo c fun v => { v with sweep := some w1 }
      else
        let s1 := s.sweepRecord c w.point (s.sweepM c w.point) (roundDiv w1.sumE w1.cnt) (roundDiv w1.sumS w1.cnt)
        if w.point ≥ s.cr c F.CLE_SWEEP_CTL_COUNT then s1.sweepOver c
        else
          let w2 := { w1 with point := w.point + 1, k := 0, sumE := 0, sumS := 0, cnt := 0 }
          (s1.modServo c fun v => { v with sweep := some w2 }).putQ c (F.SLT_MANUAL q) (s.sweepM c w2.point)

/-! Jumps (R180 to R183). -/

/-- The next segment at or after `g`, below `hi`, that is used. -/
def State.nextSeg (s : State) (c : Fin 16) (t hi : Nat) (g : Nat) : Option Nat :=
  (List.range hi).find? fun k => g ≤ k && s.cr c (F.CLE_KB_DUR t k) != 0

/-- The level of a segment, or of the final offset, as an M relative to M0. -/
def codeM (v : Nat) : Int := 64 * toSigned 16 v

/-- What a jump does in one sample of its slot, before the slot's output: the jump as it goes on, the M of this sample, and whether the
slot is to close. `none` for the jump is a timeout. -/
def State.jumpMove (s : State) (c : Fin 16) (j : Jump) (brake zero : Bool) : Option Jump × Int × Bool :=
  let seg := fun (j : Jump) => satQ (j.m0 + codeM (s.cr c (F.CLE_KB_LEVEL j.t j.seg)))
  let toCoast := fun (j : Jump) => (some { j with stage := .coast, coast := 0, zeros := 0 }, j.m0, false)
  let final := satQ (j.m0 + codeM (s.cr c (F.CLE_KB_DC j.t)))
  match j.stage with
  | .kick =>
    let g := if j.ran < s.cr c (F.CLE_KB_DUR j.t j.seg) then some j.seg else s.nextSeg c j.t 8 (j.seg + 1)
    match g with
    | some g =>
      let j1 := { j with seg := g, ran := if g = j.seg then j.ran + 1 else 1 }
      (some j1, seg j1, false)
    | none => toCoast j
  | .coast =>
    let j1 := { j with coast := j.coast + 1, zeros := if zero then j.zeros + 1 else j.zeros }
    let go := if j.t < 2 then brake else decide (j1.zeros + 1 ≥ 2 * j.target)
    if go then
      match s.nextSeg c j.t 16 8 with
      | some g =>
        let j2 := { j1 with stage := .brake, seg := g, ran := 1 }
        (some j2, seg j2, false)
      | none => (some { j1 with stage := .brake, seg := 15, ran := s.cr c (F.CLE_KB_DUR j.t 15) }, final, true)
    else if j1.coast ≥ s.cr c (F.CLE_KB_TMO j.t) then (none, j.m0, false)
    else (some j1, j.m0, false)
  | .brake =>
    let g := if j.ran < s.cr c (F.CLE_KB_DUR j.t j.seg) then some j.seg else s.nextSeg c j.t 16 (j.seg + 1)
    match g with
    | some g =>
      let j1 := { j with seg := g, ran := if g = j.seg then j.ran + 1 else 1 }
      (some j1, seg j1, false)
    | none => (some j, final, true)
  | .settle => (some j, j.m0, false)

/-- Begin a single jump: M0 is the present output, and the kick starts with its first used segment. -/
def State.jumpStart (s : State) (c : Fin 16) (t target here : Nat) (out : Int) : Jump :=
  { t := t, target := target, here := here, stage := .kick, seg := (s.nextSeg c t 8 0).getD 7, ran := 0, m0 := out, coast := 0, zeros := 0 }

/-- SAC's M takes the code of a layer, where SAC is OPEN (R180, R182). -/
def State.setLayerCode (s : State) (c : Fin 16) (layer : Nat) : State :=
  if s.mode c 5 ≠ 1 then s
  else
    let k := layer / 2
    let code := if layer % 2 = 0 then s.cr c (F.CLE_SA_LAYER_CODE_EVEN k) else s.cr c (F.CLE_SA_LAYER_CODE_ODD k)
    s.putQ c (F.SLT_MANUAL 5) (codeM code)

/-- LAYER_JUMP_DONE (R180): TLR and TLT close, TRK stays in HOLD. -/
def layerJumpDone (c : Fin 16) (s : State) : State :=
  match (s.ch c).servo.jump with
  | none => s
  | some j =>
    let s1 := ((s.seqTo c 0 3).modServo c fun v => { v with jump := none }).seqHold c [0, 1, 3, 4] 0
    let s2 := (guylineArm c 0 s1).wrs (chRg c)
      [(F.CLE_JUMP_STS_STATE, 2), (F.CLE_JUMP_STS_LAYER, j.target), (F.CLE_JUMP_STS_FAIL, 0)]
    ((((s2.seqTo c 3 3).seqTo c 4 3).cirq c 0x08 0).rehunt c)

/-- STRAND_JUMP_DONE (R183): the brake has ended with TRK closed. -/
def strandJumpDone (c : Fin 16) (s : State) : State :=
  match (s.ch c).servo.tjump with
  | none => s
  | some _ =>
    let s1 := ((s.seqTo c 1 3).modServo c fun v => { v with tjump := none }).seqHold c [1] 0
    (s1.wrs (chRg c) [(F.CLE_TJUMP_STS_STATE, 2), (F.CLE_TJUMP_STS_FAIL, 0)]).cirq c 0x08 2 |>.rehunt c

/-- One FOC sample of a layer jump: M, a timeout, or the slot's closing. -/
def State.layerStep (s : State) (c : Fin 16) (e0 e1 sum : Int) : State :=
  match (s.ch c).servo.jump with
  | none => s
  | some j =>
    if j.stage = .settle then
      let sac := s.mode c 5 ≠ 1 ∨ s.q21 c (F.SLT_OUT 5) = s.q21 c (F.SLT_MANUAL 5)
      if s.cr c (F.SLT_STATE_ARMED 0) = 1 ∧ sac then layerJumpDone c s else s
    else
      let b := s.q21 c (F.CLE_KB_BRK j.t)
      let pass := if j.t = 0 then decide (e0 < b) && decide (e1 ≥ b) else decide (e0 > b) && decide (e1 ≤ b)
      let r := s.jumpMove c j (pass && decide (sum ≥ s.q21 c (F.SLT_SUM_THR 0))) false
      match r.1 with
      | none => s.jumpFail c 2
      | some j1 =>
        let s1 := (s.modServo c fun v => { v with jump := some j1 }).putQ c (F.SLT_MANUAL 0) r.2.1
        if !r.2.2 then s1
        else
          let reached := if j.t = 0 then j.here + 1 else j.here - 1
          let s2 := (s1.seqTo c 0 3).cw c F.CLE_JUMP_STS_LAYER reached
          s2.modServo c fun v => { v with jump := some { j1 with stage := .settle, here := reached } }

/-- The next single jump begins once the one before has closed FOC (R180). -/
def State.layerNext (s : State) (c : Fin 16) : State :=
  match (s.ch c).servo.jump with
  | some j =>
    if j.stage = .settle ∧ j.here ≠ j.target then
      let s1 := s.seqTo c 0 1
      s1.modServo c fun v => { v with jump := some (s.jumpStart c j.t j.target j.here (s.q21 c (F.SLT_OUT 0))) }
    else s
  | none => s

/-- One TRK sample of a strand jump. -/
def State.strandStep (s : State) (c : Fin 16) (e0 e1 : Int) : State :=
  match (s.ch c).servo.tjump with
  | none => s
  | some j =>
    let zero := (decide (e0 < 0) && decide (e1 ≥ 0)) || (decide (e0 ≥ 0) && decide (e1 < 0))
    let r := s.jumpMove c j false zero
    match r.1 with
    | none => s.tjumpFail c 2
    | some j1 =>
      let s1 := (s.modServo c fun v => { v with tjump := some j1 }).putQ c (F.SLT_MANUAL 1) r.2.1
      if r.2.2 then strandJumpDone c s1 else s1

/-! The sample (R151 to R176). -/

/-- Whether the boundary of a pending swap has come that a slot's sample is to evaluate: reached before, at once, or that sample itself
(R170, Table 16-5). -/
def State.swapDue (s : State) (c : Fin 16) (page : Nat) : Bool :=
  let w := s.rd (chRg c) (F.HDR_SET_STS_WHEN page)
  (s.ch c).servo.reached.contains page || w == 4 || s.boundaryNow (chRg c) w

/-- A Flysheet swap that waits for the slot's sample is evaluated first (R170). -/
def State.slotSwap (s : State) (c : Fin 16) (q : Nat) : State :=
  let rg := chRg c
  let p := sltPage q
  let s1 := if s.rd rg (F.HDR_SET_STS_PENDING p) = 1 ∧ s.swapDue c p = true then s.evalSwap rg p else s
  if (SMap.get s1.groups rg []).contains p ∧ s1.swapDue c 0 = true then s1.evalGroup rg else s1

/-- A command that channel firmware gives the slot after a number of its samples: decided in this sample where the slot still stands in
HOLD and no other command waits (Table 5-5). -/
def State.dueStep (s : State) (c : Fin 16) (q : Fin 7) : State :=
  match (s.ch c).servo.due.find? (·.slot == q.val) with
  | none => s
  | some d =>
    let rest := (s.ch c).servo.due.filter (·.slot != q.val)
    if d.left > 1 then s.modServo c fun v => { v with due := { d with left := d.left - 1 } :: rest }
    else
      let s1 := s.modServo c fun v => { v with due := rest }
      if s.mode c q = 4 ∧ (s.slt c q).cmd.isNone then s1.modSlt c q fun x => { x with cmd := some d.dest } else s1

/-- Once per SPD period C ramps toward its goal, 300 rpm while STOPPING, and the speed flags are evaluated (R197, R203); a speed more
than 1 % from 3,000 rpm stops a session in order, code 7; AT_SPEED follows 60 periods, 10 ms, within 0.1 % of C. -/
def State.speedStep (s : State) (c : Fin 16) : State :=
  let st := s.cr c F.SPN_STS_STATE
  let v := toSigned 20 (s.cr c F.SPN_SPEED)
  let goal : Int := 96000 * (if st = 7 then 300 else (s.cr c F.SPN_SPEED_CMD : Int))
  let step : Int := 16 * s.cr c F.SPN_RAMP
  let x := (s.ch c).spin.cmd
  let cmd := if st = 6 ∨ st = 7 then clampInt (x - step) (x + step) goal else x
  let flag := fun tol => b2n (decide ((v - 48000).natAbs ≤ tol))
  let s1 := (s.modCh c fun y => { y with spin := { y.spin with cmd := cmd } }).wrs (chRg c)
    [(F.SPN_STS_IN_01, flag 48), (F.SPN_STS_IN_05, flag 240), (F.SPN_STS_IN_1, flag 480)]
  let s2 := s1.sample (chRg c) 0x14 (Int.fdiv ((cmd - 6000 * v) * 100000) 288000000)
  let s3 := if (v - 48000).natAbs > 480 then s2.orderlyStop c 7 else s2
  let near := 1000 * (cmd - 6000 * v).natAbs ≤ cmd.natAbs
  let put := fun (n : Option Nat) (s : State) => s.modCh c fun y => { y with spin := { y.spin with atN := n } }
  if st ≠ 6 then s3
  else if cmd ≠ goal then put (some 0) s3
  else match (s3.ch c).spin.atN with
    | none => s3
    | some n =>
      if !near then put (some 0) s3
      else if n + 1 ≥ 60 then (put none s3).cirq c 0x10 0
      else put (some (n + 1)) s3

/-- The mean square of the tracking and focus errors over a revolution, sampled at its end (Table 15-10). -/
def State.rmsStep (s : State) (c : Fin 16) (q : Fin 7) (e : Int) (wrapped : Bool) : State :=
  if q.val > 1 then s
  else
    let x := s.slt c q
    let s1 := s.modSlt c q fun x => if wrapped then { x with sqSum := e.natAbs * e.natAbs, sqN := 1 }
      else { x with sqSum := x.sqSum + e.natAbs * e.natAbs, sqN := x.sqN + 1 }
    if wrapped ∧ x.sqN ≠ 0 then
      s1.sample (chRg c) (if q = 0 then 0x13 else 0x12) (isqrt (x.sqSum / x.sqN) * s.cr c (F.SLT_UNIT q) * 10 / 2097152 : Nat)
    else s1

/-- The offset test of Table 4-7: the second sample in succession beyond the limit is a safety stop, code 16 or 17. -/
def State.offsetStep (s : State) (c : Fin 16) (q : Fin 7) (e : Int) : State :=
  if q.val > 1 then s
  else
    let lim := if q = 0 then s.cr c F.WRC_STOP_CTL_DEFOC else s.cr c F.WRC_STOP_CTL_OFFTRK
    let beyond := e.natAbs * s.cr c (F.SLT_UNIT q) > lim * 2097152
    let n := if beyond then (s.slt c q).offN + 1 else 0
    let s1 := s.modSlt c q fun x => { x with offN := n }
    if n ≥ 2 ∧ s.mode c q = 3 ∧ (s.ch c).wr.session ≠ .idle then
      let r := s1.drawRow
      r.2.safetyStop c r.1 (if q = 0 then 17 else 16)
    else s1

/-- The measured part of a sample: mixing, trims, error and filters, then FF (R157 to R162). In OFF nothing is mixed or filtered; in a
defect hold the filter states stand. -/
def State.measure (s : State) (c : Fin 16) (q : Fin 7) (sd : List Int) : State :=
  if s.mode c q = 0 then s
  else
    let src := s.sources c q sd
    let m := s.mixed c q src
    let sum := stage (s.mixRow c q 2 src)
    let e := s.errorOf c q m
    let x := s.slt c q
    let hold := s.inDefect c q
    let f := if hold then (s.q21 c (F.SLT_FERR q), x.bq) else s.filter c q (s.cr c (F.SLT_BQ_CTL q)) 0 x.bq e
    let s1 := s.modSlt c q fun x => { x with m := m, bq := f.2, efPrev := s.q21 c (F.SLT_FERR q) }
    ((s1.putQ c (F.SLT_ERR q) e).putQ c (F.SLT_FERR q) f.1).putQ c (F.SLT_SUMV q) sum

/-- A slot enters OFF with the engine: its sequence and its sweep end with it (R165). Cause 0 is a command, 6 a fault or reset. -/
def State.turnOff (s : State) (c : Fin 16) (q : Fin 7) (cause : Nat) : State :=
  if s.mode c q = 0 then s
  else
    let r := if s.sessionOn c then s.drawRow else (0, s)
    (r.2.endHold c q).transit c q 0 cause r.1

/-- The transitions of a sample in the order of R168: the engine disabled, IMPLAUSIBLE and LOSS, a command, capture or failure. A refused
command is no transition, and leaves an acquisition to be decided. -/
def State.decide_ (s : State) (c : Fin 16) (q : Fin 7) (count : Nat) : State :=
  let x := s.slt c q
  let m := s.mode c q
  if s.cr c F.CLE_CTL = 0 ∧ m ≠ 0 then s.turnOff c q 0
  else if m = 3 ∧ count ≥ s.cr c (F.SLT_GL_CTL_N q) ∧ count ≠ 0 then
    let r := if s.sessionOn c then s.drawRow else (0, s)
    slotImplausible c q r.1 r.2
  else if m = 3 ∧ s.cr c (F.SLT_LOSS_THR q) ≠ 0 ∧ x.lossN ≥ s.cr c (F.SLT_LOSS_N q) then slotLoss c q s
  else
    let s1 := match x.cmd with
      | some dest => (s.modSlt c q fun x => { x with cmd := none }).slotCommand c q dest
      | none => s
    if s1.mode c q = 2 ∧ m = 2 then s1.acqDecide c q else s1

/-- What a sample does before its slot is computed: a 384 kHz period begins (R151), its inputs are gathered (R152), the outputs between
slow samples move on (R154), the flagged lanes are counted (R174). RUN follows EN, which a Flysheet swap may have changed. -/
def State.samplePre (s : State) (c : Fin 16) (q : Fin 7) (sd : List Int) : State :=
  let s1 := s.beginPeriod c q
  let s2 := if q = 0 then (((s1.collect c (scaled sd)).actuators c).defectUpdate c).cw c F.CLE_STS_RUN (s.cr c F.CLE_CTL) else s1
  let s3 := if q = 6 then s2.speedStep c else s2
  (((s3.slotSwap c q).trimStep c q).dueStep c q).defectEnter c

/-- One sample of a slot (R151 to R176). -/
def slotSample (c : Fin 16) (q : Fin 7) (sd : List Int) (s : State) : State :=
  if !s.alive c || s.cr c F.CLE_STS_FAULT == 1 then s
  else
    let s1 := s.samplePre c q sd
    let was := s1.mode c q
    let e0 := s1.q21 c (F.SLT_ERR q)
    let sum0 := s1.q21 c (F.SLT_SUMV q)
    let s2 := s1.measure c q sd
    let e := s2.q21 c (F.SLT_ERR q)
    let sum := s2.q21 c (F.SLT_SUMV q)
    let old := s2.slt c q
    let newBin := decide (s2.mech c / 256 ≠ old.angle / 256)
    let wrapped := decide (s2.mech c < old.angle)
    let s3 := if newBin then ffBinEnd c q s2 else s2
    let s4 := s3.ffStep c q
    -- Guyline, loss and acquisition counts of this sample
    let r := s4.residual c q
    let count := if was = 3 then s4.glCount c q r else 0
    let s5 : State := if was = 3 then
        let n := old.closedN + 1
        let lost := if sum < s4.q21 c (F.SLT_LOSS_THR q) then old.lossN + 1 else 0
        let t := (s4.modSlt c q fun x => { x with closedN := n, lossN := lost }).putQ c (F.SLT_RESID q) r
        let t1 := if s4.inDefect c q then t.cw c (F.SLT_GL_STS_COUNT q) 0 else t.cw c (F.SLT_GL_STS_COUNT q) count
        if n ≥ s4.cr c (F.SLT_GL_CTL_ARM q) then guylineArm c q t1 else t1
      else if was = 2 then s4.acqStep c q (s4.qualifies c q e0 e sum0 sum)
      else s4
    -- sequencers move M before the slot's output
    let s6 := if q = 0 then (s5.layerNext c).layerStep c e0 e sum else if q = 1 then s5.strandStep c e0 e else s5
    let s7 := s6.decide_ c q count
    -- control law: integration is skipped in the sample that closes the slot
    let closed := s7.mode c q = 3
    let frozen := s7.inDefect c q
    let s8 := if closed ∧ was = 3 ∧ !frozen then s7.integrate c q else s7
    let s9 : State := if closed ∧ !frozen then
        let v := s8.pid c q
        ((s8.modSlt c q fun x => { x with v := v }).putQ c (F.SLT_INTEG q) (stage (s8.slt c q).integ)).binSample c q v
      else s8.modSlt c q fun x => { x with binOk := false }
    let s10 := s9.drive c q
    let s11 := if closed ∧ was = 3 then s10.observe c q r else s10
    let s12 := ((s11.offsetStep c q e).rmsStep c q e wrapped).sweepStep c q e sum
    let s13 := { (s12.endPeriod c q).modSlt c q fun x => { x with n := x.n + 1, inSum := List.replicate 8 0, inN := 0 } with
      free := s12.free + 48 }
    -- the defect hold is timed in 384 kHz samples, those of FOC
    if q ≠ 0 then s13
    else match (s13.ch c).servo.defect with
      | some n =>
        if n + 1 > s13.cr c F.CLE_DEF_CTL_DEF_MAX then defLong c s13
        else s13.modServo c fun v => { v with defect := some (n + 1) }
      | none => s13

/-! Commands and register writes of a slot. -/

/-- A write of `CMD`: the command is decided at the slot's next sample (R168). -/
def slotCmdWrite (c : Fin 16) (q : Fin 7) (dest : Nat) (s : State) : State :=
  if !s.alive c then s else s.modSlt c q fun x => { x with cmd := some dest }

def execSlotCommandOff (src : Src) (c : Fin 16) (slot : Fin 7) (s : State) : HRes :=
  .next (s.gated src (chRg c) (sltPage slot) 0x104 0 (slotCmdWrite c slot 0))
def execSlotCommandOpen (src : Src) (c : Fin 16) (slot : Fin 7) (s : State) : HRes :=
  .next (s.gated src (chRg c) (sltPage slot) 0x104 1 (slotCmdWrite c slot 1))
def execSlotCommandAcquire (src : Src) (c : Fin 16) (slot : Fin 7) (s : State) : HRes :=
  .next (s.gated src (chRg c) (sltPage slot) 0x104 2 (slotCmdWrite c slot 2))
def execSlotCommandClosed (src : Src) (c : Fin 16) (slot : Fin 7) (s : State) : HRes :=
  .next (s.gated src (chRg c) (sltPage slot) 0x104 3 (slotCmdWrite c slot 3))
def execSlotCommandHold (src : Src) (c : Fin 16) (slot : Fin 7) (s : State) : HRes :=
  .next (s.gated src (chRg c) (sltPage slot) 0x104 4 (slotCmdWrite c slot 4))

/-- COEFFICIENT_WRITE (R169): accepted in OPEN and HOLD, else refused and recorded; FF fields exist in four slots only (R187). -/
def coefWrite (c : Fin 16) (q : Fin 7) (off value : Nat) (s : State) : State :=
  let rg := chRg c
  let p := sltPage q
  let m := s.mode c q
  if !hasFf q && (off == 0x140 || off == 0x418) then s
  else if !((0x200 ≤ off && off < 0x500) || off == 0x140) || (off != 0x140 && (regFields rg p off).isEmpty) then s
  else if m ≠ 1 ∧ m ≠ 4 then (s.errOpen rg p off 1).cirq c p 4
  else if off = 0x140 then
    let i := s.cr c (F.SLT_FF_IDX_IDX q)
    let s1 := s.tput .ff rg (q.val * 256 + i) (value % 2 ^ 24)
    if s.cr c (F.SLT_FF_IDX_AUTOINC q) = 1 then s1.cw c (F.SLT_FF_IDX_IDX q) (i + 1) else s1
  else s.writeFields rg (regFields rg p off) false value

def execCoefficientWrite (src : Src) (c : Fin 16) (slot : Fin 7) (off : Nat) (value : Word) (s : State) : HRes :=
  .next (s.gated src (chRg c) (sltPage slot) off value.toNat (coefWrite c slot off value.toNat))

/-- TRIM_WRITE: the trim targets (R158). -/
def execTrimWrite (src : Src) (c : Fin 16) (slot : Fin 7) (value : Word) (s : State) : HRes :=
  .next (s.gated src (chRg c) (sltPage slot) 0x114 value.toNat fun s =>
    s.wrs (chRg c) [(F.SLT_TRIM_OFS slot, bitsAt value.toNat 0 16), (F.SLT_TRIM_GAIN slot, bitsAt value.toNat 16 12)])

/-- A write of `TGT`: the target offset (R158). For TRK it changes the track offset, to which the lanes hunt anew (R75). -/
def tgtWrite (c : Fin 16) (q : Fin 7) (value : Nat) (s : State) : State :=
  let s1 := s.cw c (F.SLT_TGT q) value
  if q = 1 ∧ s1.cr c (F.SLT_TGT q) ≠ s.cr c (F.SLT_TGT q) then s1.rehunt c else s1

/-- TGT_WRITE: the target offset (R158). -/
def execTgtWrite (src : Src) (c : Fin 16) (slot : Fin 7) (value : Word) (s : State) : HRes :=
  .next (s.gated src (chRg c) (sltPage slot) 0x10C value.toNat (tgtWrite c slot value.toNat))

def execAcquisitionCapture (c : Fin 16) (slot : Fin 7) (s : State) : HRes := .next (capture c slot s)
def execAcquisitionFailure (c : Fin 16) (slot : Fin 7) (s : State) : HRes := .next (acqFail c slot s)
def execLoss (c : Fin 16) (slot : Fin 7) (s : State) : HRes := .next (slotLoss c slot s)
def execGuylineArm (c : Fin 16) (slot : Fin 7) (s : State) : HRes := .next (guylineArm c slot s)
def execImplausible (c : Fin 16) (slot : Fin 7) (row : Nat) (s : State) : HRes := .next (slotImplausible c slot row s)
def execFfBinEnd (c : Fin 16) (slot : Fin 7) (s : State) : HRes := .next (ffBinEnd c slot s)
def execDefLong (c : Fin 16) (s : State) : HRes := .next (defLong c s)

/-- CLE_ENABLE (R165): EN starts the microcode, or turns every slot OFF. -/
def cleEnable (c : Fin 16) (en : Bool) (s : State) : State :=
  let s1 := s.wrs (chRg c) [(F.CLE_CTL, b2n en), (F.CLE_STS_RUN, b2n (en && s.cr c F.CLE_STS_FAULT == 0))]
  if en then s1 else (List.finRange 7).foldl (fun s (q : Fin 7) => s.turnOff c q 0) s1

def execCleEnable (src : Src) (c : Fin 16) (en : Bool) (s : State) : HRes :=
  .next (s.gated src (chRg c) 0x08 0x100 (b2n en) (cleEnable c en))

/-! Starting sequences. -/

/-- A refused jump: reported where none runs. -/
def State.jumpRefused (s : State) (c : Fin 16) (strand : Bool) : State :=
  if strand then
    (if (s.ch c).servo.tjump.isSome then s else s.wrs (chRg c) [(F.CLE_TJUMP_STS_STATE, 3), (F.CLE_TJUMP_STS_FAIL, 1)]).cirq c 0x08 3
  else
    (if (s.ch c).servo.jump.isSome then s else s.wrs (chRg c) [(F.CLE_JUMP_STS_STATE, 3), (F.CLE_JUMP_STS_FAIL, 1)]).cirq c 0x08 1

/-- LAYER_JUMP (R180): TRK, TLR and TLT go to HOLD, SAC moves, FOC opens. -/
def layerJump (c : Fin 16) (layer : Nat) (s : State) : State :=
  let here := s.layerNow c
  if (s.ch c).servo.jump.isSome || s.mode c 0 != 3 || here == layer || s.jumpsBarred c then s.jumpRefused c false
  else
    let t := if layer > here then 0 else 1
    let s1 := [1, 3, 4].foldl (fun s q => if s.mode c q = 3 then s.seqTo c (if q = 1 then 1 else if q = 3 then 3 else 4) 4 else s) s
    let s2 := (s1.setLayerCode c layer).seqTo c 0 1
    let s3 := (s2.modServo c fun v => { v with jump := some (s.jumpStart c t layer here (s.q21 c (F.SLT_OUT 0))) }).seqHold c [0, 1, 3, 4] 1
    (s3.wrs (chRg c) [(F.CLE_JUMP_STS_STATE, 1), (F.CLE_JUMP_STS_FAIL, 0)]).huntAll c

def execLayerJump (src : Src) (c : Fin 16) (layer : Nat) (s : State) : HRes :=
  .next (s.gated src (chRg c) 0x08 0x110 (layer % 32 + 2 ^ 31) (layerJump c (layer % 32)))

def execLayerJumpTimeout (c : Fin 16) (s : State) : HRes := .next (s.jumpFail c 2)
def execLayerJumpDone (c : Fin 16) (s : State) : HRes := .next (layerJumpDone c s)

/-- STRAND_JUMP (R183). Strand counts 0 and −64 are reserved: such a write starts nothing (R6). -/
def strandJump (c : Fin 16) (strands : BitVec 7) (s : State) : State :=
  let n := strands.toInt
  if n = 0 ∨ n = -64 then s
  else if (s.ch c).servo.tjump.isSome || s.mode c 1 != 3 || s.jumpsBarred c then s.jumpRefused c true
  else
    let j := s.jumpStart c (if n > 0 then 2 else 3) n.natAbs 0 (s.q21 c (F.SLT_OUT 1))
    let s1 := ((s.seqTo c 1 1).modServo c fun v => { v with tjump := some j }).seqHold c [1] 1
    (s1.wrs (chRg c) [(F.CLE_TJUMP_STS_STATE, 1), (F.CLE_TJUMP_STS_FAIL, 0)]).huntAll c

def execStrandJump (src : Src) (c : Fin 16) (strands : BitVec 7) (s : State) : HRes :=
  .next (s.gated src (chRg c) 0x08 0x118 (strands.toNat + 2 ^ 31) (strandJump c strands))

def execStrandJumpTimeout (c : Fin 16) (s : State) : HRes := .next (s.tjumpFail c 2)
def execStrandJumpDone (c : Fin 16) (s : State) : HRes := .next (strandJumpDone c s)

/-- Whether a sweep may start on a slot (R179). -/
def State.sweepOk (s : State) (c : Fin 16) (q : Nat) : Bool :=
  q < 7 && s.mode c q == 1 && !s.jumpsBarred c && (s.ch c).servo.sweep.isNone && s.cr c (F.SLT_STATE_SEQ q) == 0

/-- A sweep begins on the slot `SWEEP_CTL` names: for a Calibrate command `cmd`, if there is one. -/
def State.sweepRun (s : State) (c : Fin 16) (cmd : Option (Nat × Nat)) : State :=
  let q := s.cr c F.CLE_SWEEP_CTL_SLOT
  if !s.sweepOk c q then s.cirq c 0x08 5
  else
    let s1 := s.modServo c fun v => { v with sweep := some ⟨q, cmd, s.q21 c (F.SLT_MANUAL q), 0, 0, 0, 0, 0⟩ }
    (s1.putQ c (F.SLT_MANUAL q) (s.sweepM c 0)).wrs (chRg c)
      [(F.SLT_STATE_SWEEP q, 1), (F.CLE_SWEEP_STS_STATE, 1), (F.CLE_SWEEP_STS_POINTS, 0)]

/-- CALIBRATION_SWEEP (R179): `SWEEP_CTL.GO`. -/
def sweepStart (c : Fin 16) (s : State) : State := s.sweepRun c none

def execCalibrationSweep (src : Src) (c : Fin 16) (s : State) : HRes :=
  .next (s.gated src (chRg c) 0x08 0x120 (2 ^ 31 + s.cr c F.CLE_SWEEP_CTL_SLOT + 2 ^ 4 * s.cr c F.CLE_SWEEP_CTL_DWELL
    + 2 ^ 16 * s.cr c F.CLE_SWEEP_CTL_COUNT) (sweepStart c))

/-- Record the points still to come: their means are not known to the model and are free values. -/
def sweepRest (c : Fin 16) : Nat → Nat → State → State
  | 0, _, s => s
  | n + 1, p, s =>
    let a := s.draw 24
    let b := a.2.draw 24
    sweepRest c n (p + 1) (b.2.sweepRecord c p (s.sweepM c p) a.1 b.1)

/-- SWEEP_DONE (R179): the last point is recorded; points of which no sample was seen have free means. -/
def sweepDone (c : Fin 16) (s : State) : State :=
  match (s.ch c).servo.sweep with
  | none => s
  | some w => (sweepRest c (s.cr c F.CLE_SWEEP_CTL_COUNT + 1 - w.point) w.point s).sweepOver c

def execSweepDone (c : Fin 16) (s : State) : HRes := .next (sweepDone c s)

/-! Channel firmware's way back onto the strands (Tables 5-5, 5-7 and 5-9). -/

/-- Give a slot that stands in OPEN or HOLD a command. -/
def State.giveCmd (s : State) (c : Fin 16) (q : Fin 7) (dest : Nat) : State :=
  if s.mode c q = 1 ∨ s.mode c q = 4 then s.modSlt c q fun x => { x with cmd := some dest } else s

/-- SAC's M for focus acquisition: the mid-stack value, which the spec does not give (a free value, log 165). -/
def State.sacMid (s : State) (c : Fin 16) : State :=
  let r := s.draw 16
  if s.mode c 5 = 1 then r.2.putQ c (F.SLT_MANUAL 5) (codeM r.1) else s

/-- After a sample of FOC: focus acquisition goes on; three failures are a mechanism that is faulty (Table 5-7). -/
def State.focusStep (s : State) (c : Fin 16) (tries layer : Nat) : State :=
  if (s.slt c 0).cmd.isSome then s
  else if s.mode c 0 = 3 then
    if s.cr c (F.SLT_STATE_ARMED 0) = 0 then s
    else (((s.giveCmd c 3 3).giveCmd c 4 3).setLayerCode c (s.layerNow c)).pullIn c layer
  else if s.mode c 0 ≠ 1 then s
  else if tries ≥ 3 then (s.modServo c fun v => { v with regain := .idle }).mechStop c
  else ((s.sacMid c).giveCmd c 0 2).modServo c fun v => { v with regain := .focus (tries + 1) layer }

/-- After a sample of TRK: the strand search goes on (Table 5-9), with a layer jump where the layer is not the one wanted. -/
def State.strandSearch (s : State) (c : Fin 16) : State :=
  let put := fun (s : State) (g : Regain) => s.modServo c fun v => { v with regain := g }
  match (s.ch c).servo.regain with
  | .pull layer =>
    if (s.slt c 1).cmd.isSome then s
    else if s.mode c 1 = 3 ∧ s.cr c (F.SLT_STATE_ARMED 1) = 1 then put (s.giveCmd c 2 3) (.adip layer)
    else if s.mode c 1 = 1 ∨ s.mode c 1 = 0 then put s .idle
    else s
  | .adip layer =>
    match (if s.cr c F.WOB_STS_ADIP_VALID = 0 then none else (s.ch c).rd.adipPrev) with
    | none => s
    | some w =>
      let a := frameAddr w
      if a.layer ≠ layer then put (layerJump c layer s) (.jump layer)
      else if a.strand ≠ 3 then put (strandJump c (BitVec.ofInt 7 (3 - (a.strand : Int))) s) (.jump layer)
      else put s .idle
  | .jump layer =>
    if (s.ch c).servo.jump.isSome ∨ (s.ch c).servo.tjump.isSome then s
    else if s.mode c 1 = 4 then s.pullIn c layer
    else if s.mode c 1 = 3 then put s (.adip layer)
    else put s .idle
  | .idle | .focus _ _ => s

/-- What channel firmware does after a sample. -/
def State.regainStep (s : State) (c : Fin 16) (q : Fin 7) : State :=
  match (s.ch c).servo.regain with
  | .idle => s
  | .focus tries layer => if q = 0 then s.focusStep c tries layer else s
  | .pull _ | .adip _ | .jump _ => if q = 1 then s.strandSearch c else s

/-- SERVO_SAMPLE: one sample of a slot (R151 to R176), and channel firmware's sequence after it. -/
def servoSample (c : Fin 16) (q : Fin 7) (sd : List Int) (s : State) : State :=
  (slotSample c q sd s).regainStep c q

def execServoSample (c : Fin 16) (slot : Fin 7) (sd : List Int) (s : State) : HRes := .next (s.whileRunning (chRg c) 0x08 fun s => s.whileRunning (chRg c) (sltPage slot) fun s => servoSample c slot sd s)

/-! Bramble flags (R82, R83, R174). -/

/-- BRAMBLE_FLAG_START and BRAMBLE_FLAG_END: the envelope has left the thresholds for MIN_LEN bits, or been back inside them for HOLD; the
flag reaches the loops and the engine. None starts on a frame judged blank, or with EN at 0. -/
def brambleFlag (c : Fin 16) (lane : Fin 8) (on : Bool) (s : State) : State :=
  let f := (s.ch c).rd.flags
  let f' := if on then f ||| 2 ^ lane.val else f - (f &&& 2 ^ lane.val)
  let comes := if on then s.cr c F.BRM_CTL_EN = 1 ∧ s.cr c (F.BRC_LANE_STS_BLANK lane) = 0 ∧ s.brambleOut c lane = true
    else s.cr c F.BRM_CTL_EN = 0 ∨ s.brambleIn c lane = true
  if comes then (s.modRd c fun r => { r with flags := f' }).defectUpdate c else s

def execBrambleFlagStart (c : Fin 16) (lane : Fin 8) (s : State) : HRes := .next (brambleFlag c lane true s)
def execBrambleFlagEnd (c : Fin 16) (lane : Fin 8) (s : State) : HRes := .next (brambleFlag c lane false s)

end Sys2Proof.Machine
end

