-- ==== Sys2Proof/Machine/Spindle.lean ====
section
/-! DEFINITION. The spindle: states, starting, stopping, the current loop, the chopper and the protections (R188 to R209). -/

namespace Sys2Proof.Machine
open Sys2Proof

/-- Change a channel's spindle. -/
def State.modSpin (s : State) (c : Fin 16) (f : Spin → Spin) : State := s.modCh c fun x => { x with spin := f x.spin }

/-- The spindle state (Table 6-2). -/
def State.spinSt (s : State) (c : Fin 16) : Nat := s.cr c F.SPN_STS_STATE

/-- The Iq reference `SIXSTEP.SS_I` stands for, in mA. -/
def State.ssCurrent (s : State) (c : Fin 16) : Int := (s.cr c F.SPN_SIXSTEP_SS_I * s.cr c F.SPN_I_FS / 256 : Nat)

/-- SPD is commanded OPEN with a manual value (R202, R203). -/
def State.spdOpen (s : State) (c : Fin 16) (m : Int) : State :=
  ((s.cw c (F.SLT_STATE_SEQ 6) 1).seqTo c 6 1).putQ c (F.SLT_MANUAL 6) m

/-- Every gate low: no vector, no duty. -/
def Spin.coast (x : Spin) : Spin :=
  { x with vd := 0, vq := 0, integD := 0, integQ := 0, iref := 0, duty := [0, 0, 0], edges := [], vectors := none, noSample := 0, vlimN := 0, atN := none }

/-- Enter OFF or FAULT: gates low, SPD no longer held; `rest`: after STOPPED (R473). -/
def State.spinRest (s : State) (c : Fin 16) (st : Nat) (rest : Bool) : State :=
  let s1 := s.modSpin c fun x => { x.coast with failing := false, toAlign := false, slow := false, rest := rest }
  (s1.wrs (chRg c) [(F.SPN_STS_STATE, st), (F.SPN_STS_VLIM, 0), (F.SLT_STATE_SEQ 6, 0)]).showSafe c

/-- Enter SHORT_BRAKE (R203). -/
def State.shortBrake (s : State) (c : Fin 16) (failing toAlign : Bool) : State :=
  (s.modSpin c fun x => { x.coast with failing := failing, toAlign := toAlign, slow := false }).wrs (chRg c)
    [(F.SPN_STS_STATE, 2), (F.SPN_STS_VLIM, 0)]

/-- Enter ALIGN: the pole-pair count restarts, the epoch advances, and channel firmware discards the runout tables (R196, R201). -/
def State.spinAlign (s : State) (c : Fin 16) : State :=
  let s1 := (s.modSpin c fun x => { x with pole := 0, iref := s.ssCurrent c, toAlign := false }).wrs (chRg c)
    [(F.SPN_STS_STATE, 3), (F.SPN_ANGLE_ELEC, 0), (F.SPN_ANGLE_MECH, 0)]
  (s1.incWrap (chRg c) F.SPN_STS_ANG_EPOCH).tclear .ff (chRg c)

/-- Enter SIXSTEP at a rate in rpm. -/
def State.spinSixStep (s : State) (c : Fin 16) (rpm : Nat) : State :=
  (s.modSpin c fun x => { x with rate := rpm * 48000, lockTurn := 0, topN := 0, iref := s.ssCurrent c }).cw c F.SPN_STS_STATE 4

/-- Enter HANDOVER at an Iq reference: SPD's manual value is that reference over full scale, in Q2.21 (R202). -/
def State.spinHandover (s : State) (c : Fin 16) (iref : Int) : State :=
  let m := satQ (roundDiv (iref * 2097152) (s.cr c F.SPN_I_FS))
  ((s.modSpin c fun x => { x with iref := iref }).cw c F.SPN_STS_STATE 5).spdOpen c m

/-- The back-EMF at a speed, in 2^-32 of VBUS: KE is µV per rpm line to line (R200, R204, R222). -/
def State.backEmf (s : State) (c : Fin 16) (rpm : Nat) : Int :=
  roundDiv ((s.cr c F.SPN_KE * rpm * 4294967296 * 56756 : Nat) : Int) (983040000 * max 1 (s.cr c F.SPN_VBUS))

/-- The revolutions per minute from which SIXSTEP holds its rate, as a rate (R201). -/
def topRate : Nat := 300 * 48000

/-- A refused operation (R199). -/
def State.spinRefuse (s : State) (c : Fin 16) : State := (s.errOpen (chRg c) 0x10 0x100 2).cirq c 0x10 7

/-- VBUS lies within the undervoltage and overvoltage limits. -/
def State.vbusOk (s : State) (c : Fin 16) : Bool :=
  10 * s.cr c F.SPN_VBUS_UV ≤ s.cr c F.SPN_VBUS && s.cr c F.SPN_VBUS ≤ 10 * s.cr c F.SPN_VBUS_THR_OV

/-- SPINDLE_START (R199, R200). -/
def spinStart (c : Fin 16) (s : State) : State :=
  if !s.alive c then s
  else if s.spinSt c != 0 || s.cr c F.CLE_CTL == 0 || s.cr c F.SPN_I_FS == 0 || s.cr c F.SPN_KE == 0 || s.cr c F.SPN_MOTOR_R_PH == 0
      || !s.vbusOk c then s.spinRefuse c
  else ((s.modSpin c fun x => { x with
    rest := false, cmps := 0, catchN := 0, crossN := 0, cross0 := 0, cross1 := 0, crossP := none, crossF := 0 }).cw c
      F.SPN_STS_STATE 1).showSafe c

/-- SPINDLE_STOP (R199, R203). -/
def spinStop (c : Fin 16) (s : State) : State :=
  if !s.alive c then s
  else match s.spinSt c with
    | 1 | 3 | 4 => s.shortBrake c false false
    | 5 => (s.putQ c (F.SLT_MANUAL 6) 0).shortBrake c false false
    | 6 => s.cw c F.SPN_STS_STATE 7
    | _ => s.spinRefuse c

/-- SPINDLE_COAST (R199). -/
def spinCoast (c : Fin 16) (s : State) : State :=
  if !s.alive c then s
  else match s.spinSt c with
    | 0 => s
    | 8 => s.modSpin c Spin.coast
    | _ => s.spinRest c 0 false

/-- Whether the cause of FAULT has gone (R199). -/
def State.spinCauseGone (s : State) (c : Fin 16) : Bool :=
  match s.cr c F.SPN_STS_CAUSE with
  | 1 => s.cr c F.SPN_VBUS ≤ 10 * s.cr c F.SPN_VBUS_THR_OV
  | 2 => 10 * s.cr c F.SPN_VBUS_UV ≤ s.cr c F.SPN_VBUS
  | 3 => (s.ch c).spin.shunt.natAbs ≤ s.cr c F.SPN_OC_THR
  | 4 => !(s.ch c).spin.psfLow
  | _ => true

/-- SPINDLE_CLEAR_FAULT (R199). COAST_WAIT keeps running from the fault. -/
def spinClearFault (c : Fin 16) (s : State) : State :=
  if !s.alive c then s
  else if s.spinSt c ≠ 8 || !s.spinCauseGone c then s.spinRefuse c
  else (s.wrs (chRg c) [(F.SPN_STS_CAUSE, 0), (F.SPN_STS_CHOP_FAULT, 0)]).spinRest c 0 (s.ch c).spin.rest

def execSpindleStart (src : Src) (c : Fin 16) (s : State) : HRes := .next (s.gated src (chRg c) 0x10 0x100 1 (spinStart c))
def execSpindleStop (src : Src) (c : Fin 16) (s : State) : HRes := .next (s.gated src (chRg c) 0x10 0x100 2 (spinStop c))
def execSpindleCoast (src : Src) (c : Fin 16) (s : State) : HRes := .next (s.gated src (chRg c) 0x10 0x100 3 (spinCoast c))
def execSpindleClearFault (src : Src) (c : Fin 16) (s : State) : HRes :=
  .next (s.gated src (chRg c) 0x10 0x100 4 (spinClearFault c))

/-- COMMUTATION_TABLE_WRITE (R190): accepted in OFF and FAULT. -/
def tblWrite (c : Fin 16) (value : Nat) (s : State) : State :=
  if s.spinSt c ≠ 0 ∧ s.spinSt c ≠ 8 then s.errOpen (chRg c) 0x10 0x168 1
  else
    let i := s.cr c F.SPN_TBL_IDX_IDX
    let s1 := s.tput .commutation (chRg c) i value
    if s.cr c F.SPN_TBL_IDX_AUTOINC = 1 then s1.cw c F.SPN_TBL_IDX_IDX (i + 1) else s1

def execCommutationTableWrite (src : Src) (c : Fin 16) (value : BitVec 16) (s : State) : HRes :=
  .next (s.gated src (chRg c) 0x10 0x168 value.toNat (tblWrite c value.toNat))

/-! Events of the start and the stop (R200 to R204). -/

/-- One comparator: its level changes once the phase voltage lies beyond the virtual neutral by the hysteresis, in mV; voltages here are
three times themselves (R200). -/
def comparator (hyst : Nat) (above : Bool) (v : Int) : Bool :=
  if v > 3 * (hyst : Int) then true else if v < -(3 * (hyst : Int)) then false else above

/-- The crossings of one period of CATCH (R200). Forward rotation makes the phases cross in the order U, V, W, with DIR_SWAP the other
way round. -/
def State.catchStep (s : State) (c : Fin 16) (emf : Int × Int × Int) : State :=
  let sum := emf.1 + emf.2.1 + emf.2.2
  let h := s.cr c F.SPN_CATCH_HYST
  let next := if s.cr c F.SPN_CFG_DIR_SWAP = 1 then 2 else 1
  s.modSpin c fun x =>
    let y := [emf.1, emf.2.1, emf.2.2].zipIdx.foldl (fun (y : Spin) (e : Int × Nat) =>
      let was := bitAt y.cmps e.2
      let is := comparator h was (3 * e.1 - sum)
      if is == was then y
      else if x.catchN = 0 then { y with cmps := y.cmps + 2 ^ e.2 }
      else { y with
        cmps := if is then y.cmps + 2 ^ e.2 else y.cmps - 2 ^ e.2, crossN := y.crossN + 1
        cross0 := if y.crossN = 0 then x.catchN else y.cross0, cross1 := x.catchN, crossP := some e.2
        crossF := if y.crossP.any fun p => (p + next) % 3 == e.2 then y.crossF + 1 else y.crossF }) x
    { y with catchN := x.catchN + 1 }

/-- The speed the crossings show, in rpm: 6 crossings per electrical revolution (R200). -/
def State.catchRpm (s : State) (c : Fin 16) : Nat :=
  let x := (s.ch c).spin
  480000 * (x.crossN - 1) / (max 1 (s.cr c F.SPN_CFG_POLE_PAIRS) * max 1 (x.cross1 - x.cross0))

/-- Whether most crossings came in backward order. -/
def Spin.backward (x : Spin) : Bool := 2 * x.crossF < x.crossN - 1

/-- CATCH_WINDOW_END (R200): the crossings of the window decide. Into HANDOVER the vector starts equal to the back-EMF. -/
def catchEnd (c : Fin 16) (s : State) : State :=
  let rpm := s.catchRpm c
  if s.spinSt c ≠ 1 then s
  else if (s.ch c).spin.crossN < 4 ∨ rpm < 60 then s.spinAlign c
  else
    let s1 := s.cw c F.SPN_STS_REVERSE (b2n (s.ch c).spin.backward)
    if (s.ch c).spin.backward then s1.shortBrake c false true
    else if rpm ≥ 300 then
      let e := s.backEmf c rpm
      (s1.spinHandover c 0).modSpin c fun x => { x with vd := 0, vq := e, integD := 0, integQ := e }
    else s1.spinSixStep c rpm

def execCatchWindowEnd (c : Fin 16) (s : State) : HRes := .next (catchEnd c s)

/-- ALIGN_END (R201). -/
def execAlignEnd (c : Fin 16) (s : State) : HRes :=
  .next (if s.spinSt c = 3 then s.spinSixStep c (s.cr c F.SPN_SS_RAMP_START) else s)

/-- OBSERVER_LOCK (R201, R202): the observer counts as locked once both conditions of R195 have held for 2 electrical revolutions; the
handover waits for 300 rpm. -/
def observerLock (c : Fin 16) (s : State) : State :=
  let x := (s.ch c).spin
  if s.spinSt c = 4 ∧ x.rate ≥ topRate ∧ x.lockTurn ≥ 131072 then s.spinHandover c x.iref else s

def execObserverLock (c : Fin 16) (s : State) : HRes := .next (observerLock c s)

/-- START_FAIL (R201): SS_TMO has passed at 300 rpm without a lock; as for STOP. -/
def startFail (c : Fin 16) (s : State) : State :=
  let x := (s.ch c).spin
  if s.spinSt c = 4 ∧ x.rate ≥ topRate ∧ x.lockTurn < 131072 then (s.cirq c 0x10 5).shortBrake c false false else s

def execStartFail (c : Fin 16) (s : State) : HRes := .next (startFail c s)

/-- HANDOVER_END (R202): C is the measured speed, and SPD closes. -/
def handoverEnd (c : Fin 16) (s : State) : State :=
  if s.spinSt c ≠ 5 then s
  else
    let s1 := s.modSpin c fun x => { x with cmd := 6000 * toSigned 20 (s.cr c F.SPN_SPEED), atN := some 0 }
    (s1.cw c F.SPN_STS_STATE 6).seqTo c 6 3

def execHandoverEnd (c : Fin 16) (s : State) : HRes := .next (handoverEnd c s)

/-- AT_SPEED (R197). -/
def execAtSpeed (c : Fin 16) (s : State) : HRes :=
  .next (if s.spinSt c = 6 ∧ (s.ch c).spin.atN.isSome then (s.modSpin c fun x => { x with atN := none }).cirq c 0x10 0 else s)

/-- VLIM (R192): 100 ms with VLIM at 1. -/
def execVlim (c : Fin 16) (s : State) : HRes :=
  .next (if s.cr c F.SPN_STS_VLIM = 1 then s.cirq c 0x10 2 else s)

/-- STOPPING_LOW_SPEED (R203). -/
def execStoppingLowSpeed (c : Fin 16) (s : State) : HRes :=
  .next (if s.spinSt c = 7 then (s.spdOpen c 0).shortBrake c false false else s)

/-- STOPPED (R203, R206): HOLD has passed with the speed below 60 rpm. -/
def spinStopped (c : Fin 16) (s : State) : State :=
  if s.spinSt c ≠ 2 ∨ (s.ch c).spin.slow = false then s
  else if (s.ch c).spin.failing then
    ((((s.cirq c 0x10 1).cw c F.SPN_STS_CAUSE 5).cw c F.SPN_STS_CHOP_ON 0).cirq c 0x10 4).spinRest c 8 false
  else (s.cirq c 0x10 1).spinRest c 0 true

/-- The speed in a gap, in 1/16 rpm (R204): √3 times the Clarke vector of the phase voltages, which are in mV, over KE, averaged over the
gap's samples. With KE at 0 the spec states no result: a free value. -/
def State.gapSpeed (s : State) (c : Fin 16) (emf : List (Int × Int × Int)) : Nat :=
  let size := fun (e : Int × Int × Int) =>
    let sq := e.1 * e.1 + e.2.1 * e.2.1 + e.2.2 * e.2.2 - e.1 * e.2.1 - e.2.1 * e.2.2 - e.2.2 * e.1
    isqrt (4 * sq.toNat * 256000000 / 3)
  if s.cr c F.SPN_KE = 0 then Config.freeValue s.free % 2 ^ 16
  else (emf.map size).sum / max 1 emf.length / s.cr c F.SPN_KE

/-- SPEED_GAP (R204): skipped while the chopper is faulty and VBUS above CHOP_OFF; a backward disc slowed below 60 rpm goes to ALIGN. -/
def speedGap (c : Fin 16) (emf : List (Int × Int × Int)) (s : State) : State :=
  let rpm := s.gapSpeed c emf / 16
  if s.spinSt c ≠ 2 || (s.cr c F.SPN_STS_CHOP_FAULT == 1 && s.cr c F.SPN_VBUS > 10 * s.cr c F.SPN_VBUS_THR_CHOP_OFF) then s
  else
    let v : Int := if s.cr c F.SPN_STS_REVERSE = 1 then -(s.gapSpeed c emf : Nat) else (s.gapSpeed c emf : Nat)
    let s1 := (s.cw c F.SPN_SPEED (ofSigned 20 v)).modSpin c fun x => { x with slow := decide (rpm < 60) }
    if rpm < 60 ∧ (s1.ch c).spin.toAlign then s1.spinAlign c else s1

def execSpeedGap (c : Fin 16) (emf : List (Int × Int × Int)) (s : State) : HRes := .next (speedGap c emf s)

/-! Chopper and protections (R205 to R207). -/

/-- The chopper is declared faulty (R206): short braking from the next period on, toward FAULT with cause 5. -/
def chopFault (c : Fin 16) (s : State) : State :=
  if s.cr c F.SPN_STS_CHOP_ON = 0 then s
  else
    let s1 := ((s.wrs (chRg c) [(F.SPN_STS_CHOP_ON, 0), (F.SPN_STS_CHOP_FAULT, 1)]).cirq c 0x10 3).modSpin c
      fun x => { x with lowN := 0 }
    if s.spinSt c = 8 then s1
    else
      let s2 := if s.spinSt c = 5 ∨ s.spinSt c = 6 ∨ s.spinSt c = 7 then s1.spdOpen c 0 else s1
      (s2.modSpin c fun x => { x with rest := false }).shortBrake c true false

def execChopFault (c : Fin 16) (s : State) : HRes := .next (chopFault c s)

/-- A protection of Table 6-4: every gate low, Cnn_BRK included, and FAULT with its cause. -/
def State.spinFault (s : State) (c : Fin 16) (cause : Nat) : State :=
  if !s.alive c then s
  else ((s.wrs (chRg c) [(F.SPN_STS_CAUSE, cause), (F.SPN_STS_CHOP_ON, 0)]).cirq c 0x10 4).spinRest c 8 false

def execOvervoltage (c : Fin 16) (s : State) : HRes := .next (s.spinFault c 1)
def execUndervoltage (c : Fin 16) (s : State) : HRes := .next (s.spinFault c 2)
def execOvercurrent (c : Fin 16) (s : State) : HRes := .next (s.spinFault c 3)

/-- POWER_STAGE_FAULT: Cnn_PSF_N is low until a later period shows it high. -/
def execPowerStageFault (c : Fin 16) (s : State) : HRes :=
  .next ((s.spinFault c 4).modSpin c fun x => { x with psfLow := true })

/-- SAMPLE_LOSS (R194): 48 periods without a sample set the event, 480 enter FAULT. -/
def sampleLoss (c : Fin 16) (periods : Nat) (s : State) : State :=
  let s1 := if periods ≥ 48 then s.cirq c 0x10 6 else s
  if periods ≥ 480 then s1.spinFault c 6 else s1

def execSampleLoss (c : Fin 16) (periods : Nat) (s : State) : HRes := .next (sampleLoss c periods s)

/-! The PWM period (R189 to R196, R205). -/

/-- Entry of the commutation table at a 16-bit angle, interpolated between its 1,024 entries (R190), in 1/32,767. -/
def State.comm (s : State) (c : Fin 16) (a : Nat) : Int :=
  let t := fun i => toSigned 16 (s.tget .commutation (chRg c) (i % 1024))
  let i := a % 65536 / 64
  roundDiv (t i * 64 + (t (i + 1) - t i) * ((a % 64 : Nat) : Int)) 64

/-- The phase offsets of U, V and W. -/
def phaseOffsets : List Nat := [0, 21845, 43691]

/-- The on-times of U, V and W for a vector in 2^-32 of VBUS (R190); DIR_SWAP exchanges V and W. -/
def State.duties (s : State) (c : Fin 16) (theta : Nat) (vd vq : Int) : List Int :=
  let vs := phaseOffsets.map fun d => roundDiv (vq * s.comm c (theta + d + 16384) + vd * s.comm c (theta + d)) 32767
  let hi := vs.foldl max (-4611686018427387904)
  let lo := vs.foldl min 4611686018427387904
  let ds := vs.map fun v => 2147483648 + v - roundDiv (hi + lo) 2
  if s.cr c F.SPN_CFG_DIR_SWAP = 1 then [ds.getD 0 0, ds.getD 2 0, ds.getD 1 0] else ds

/-- Nanoseconds in whole ticks of the 192 MHz timer, rounded up (R189, R193). -/
def pwmTicks (ns : Nat) : Nat := (ns * 192 + 999) / 1000

/-- The compare value of an on-time: a phase's high side is on while the count is above it, around the middle of the period (R189;
DESIGN CHOICE, log 166). -/
def compareOf (duty : Int) : Int := clampInt 0 2000 (2000 - roundDiv (duty * 2000) 4294967296)

/-- The order in which the phases switch on: 0 for the one on longest. -/
def dutyRank (duty : List Int) (i : Nat) : Nat :=
  ((List.range 3).filter fun j => decide (duty.getD j 0 > duty.getD i 0) || (decide (duty.getD j 0 = duty.getD i 0) && decide (j < i))).length

/-- The edges of a period (R193): the counts at which each phase switches in the two halves, and where the two active vectors of the
first half start. A vector shorter than `win` ticks is widened: its outer edge moves away from the middle phase's, and as far the other
way in the second half. No vectors where an edge would leave its half: then nothing is widened, and no sample is taken. -/
def pwmEdges (win : Int) (duty : List Int) : List (Int × Int) × Option (Int × Int) :=
  let cs := duty.map compareOf
  let at_ := fun r => ((List.range 3).find? fun i => dutyRank duty i == r).elim 0 fun i => cs.getD i 0
  let a := max 0 (win - (at_ 1 - at_ 0))
  let b := max 0 (win - (at_ 2 - at_ 1))
  let inside := fun (v : Int) => decide (0 ≤ v) && decide (v ≤ 2000)
  if inside (at_ 0 - a) && inside (at_ 0 + a) && inside (at_ 2 + b) && inside (at_ 2 - b) then
    ((List.range 3).map fun i => match dutyRank duty i with
      | 0 => (at_ 0 - a, at_ 0 + a)
      | 1 => (at_ 1, at_ 1)
      | _ => (at_ 2 + b, at_ 2 - b), some (at_ 0 - a, at_ 1))
  else (cs.map fun v => (v, v), none)

/-- The three phase currents of a period (R193): the phase on longest carries the first sample, the phase on shortest the second one
negated, and the third balances them. -/
def phaseCurrents (duty : List Int) (a b : Int) : List Int :=
  (List.range 3).map fun i => match dutyRank duty i with
    | 0 => a
    | 2 => -b
    | _ => b - a

/-- One PI controller in 2^-32 of VBUS per full scale current (R191): its demand, and its integrator one period on. -/
def State.axisPi (s : State) (c : Fin 16) (err integ : Int) : Int × Int :=
  let e := roundDiv (err * 4294967296) (s.cr c F.SPN_I_FS)
  (roundDiv (s.cr c F.SPN_ILOOP_KP * e) 4096 + integ, integ + roundDiv (s.cr c F.SPN_ILOOP_KI * e) 4096)

/-- The largest magnitude of the vector, 0.96 over √3, squared and scaled by 2^64 (R192). -/
def vectorLimitSq : Nat := 5666839779443574256

/-- The current loop of one period (R191, R192): the vector for the next one. -/
def State.currentLoop (s : State) (c : Fin 16) (theta : Nat) (is : List Int) (iref : Int) : State :=
  let x := (s.ch c).spin
  -- DIR_SWAP exchanges V and W in what the transform sees as in what it drives
  let js := if s.cr c F.SPN_CFG_DIR_SWAP = 1 then [is.getD 0 0, is.getD 2 0, is.getD 1 0] else is
  let park := fun q => roundDiv (2 * ((js.zip phaseOffsets).map fun e => e.1 * s.comm c (theta + e.2 + q)).sum) (3 * 32767)
  let id := park 0
  let iq := park 16384
  let d := s.axisPi c (-id) x.integD
  let q := s.axisPi c (iref - iq) x.integQ
  let sq := d.1.natAbs * d.1.natAbs + q.1.natAbs * q.1.natAbs
  let past := sq > vectorLimitSq
  let lim : Int := isqrt vectorLimitSq
  let cut := fun v => if past then roundDiv (v * lim) (isqrt sq) else v
  let keep := fun (r : Int × Int) (old : Int) => if past ∧ (r.2 - old).sign = r.1.sign then old else r.2
  let n := if past then x.vlimN + 1 else 0
  let s1 := s.modSpin c fun x => { x with
    vd := cut d.1, vq := cut q.1, integD := keep d x.integD, integQ := keep q x.integQ, vlimN := n
    iu := is.getD 0 0, iv := is.getD 1 0, iw := is.getD 2 0 }
  let s2 := s1.wrs (chRg c) [(F.SPN_STS_VLIM, b2n past), (F.SPN_IDQ_ID, ofSigned 16 id), (F.SPN_IDQ_IQ, ofSigned 16 iq)]
  if n = 4800 then s2.cirq c 0x10 2 else s2

/-- The DC-link loop of SIXSTEP (Table 6-2): the shunt's current follows SS_I. -/
def State.linkLoop (s : State) (c : Fin 16) (shunt : Int) : State :=
  let x := (s.ch c).spin
  let q := s.axisPi c (x.iref - shunt) x.integQ
  let lim : Int := isqrt vectorLimitSq
  s.modSpin c fun x => { x with vd := 0, vq := clampInt (-lim) lim q.1, integQ := if q.1.natAbs > lim.natAbs ∧ (q.2 - x.integQ).sign = q.1.sign then x.integQ else q.2 }

/-- How far the observer's lock has come (R195): both conditions hold, and the angle turns on. In SIXSTEP the speed is held against the
step rate, in RUN against the measured speed. -/
def State.lockStep (s : State) (c : Fin 16) (o : PwmObs) : State :=
  let pp : Int := s.cr c F.SPN_CFG_POLE_PAIRS
  let x := (s.ch c).spin
  let want : Int := if s.spinSt c = 4 then Int.fdiv (16 * pp * x.rate) 48000 else pp * toSigned 20 (s.cr c F.SPN_SPEED)
  let ok := 10 * (o.speed - want).natAbs ≤ want.natAbs ∧ o.pllErr.natAbs ≤ 1820
  let turned := (o.theta % 65536 + 65536 - s.cr c F.SPN_ANGLE_ELEC) % 65536
  s.modSpin c fun x => { x with lockTurn := if ok then min 131072 (x.lockTurn + turned) else 0 }

/-- The reference angle, the pole-pair count and the measured speed (R196). -/
def State.spinAngle (s : State) (c : Fin 16) (o : PwmObs) : State :=
  let st := s.spinSt c
  if st < 4 ∨ st > 7 then s
  else
    let pp := s.cr c F.SPN_CFG_POLE_PAIRS
    let wrap := o.theta % 65536 < s.cr c F.SPN_ANGLE_ELEC
    let s1 := if wrap then s.modSpin c fun x => { x with pole := (x.pole + 1) % max 1 pp } else s
    let s2 := s1.wrs (chRg c) [(F.SPN_ANGLE_ELEC, o.theta), (F.SPN_ANGLE_MECH, ((s1.ch c).spin.pole * 65536 + o.theta % 65536) / max 1 pp)]
    -- the speed is the observer's, averaged over the eight periods of an SPD period
    let x := (s2.ch c).spin
    let sum := x.spSum + o.speed
    if x.spN + 1 < 8 then s2.modSpin c fun x => { x with spSum := sum, spN := x.spN + 1 }
    else
      let s3 := s2.modSpin c fun x => { x with spSum := 0, spN := 0 }
      if st = 4 then s3 else s3.cw c F.SPN_SPEED (ofSigned 20 (Int.fdiv sum (8 * max 1 pp)))

/-- The chopper's hysteresis and check at the start of a period (R205, R206). -/
def State.chopper (s : State) (c : Fin 16) (o : PwmObs) : State :=
  if s.spinSt c = 8 ∧ s.cr c F.SPN_STS_CAUSE = 5 then s
  else
    let on := s.cr c F.SPN_STS_CHOP_ON = 1
    let n := if on ∧ o.mid < s.cr c F.SPN_CHOP_CHK then (s.ch c).spin.lowN + 1 else 0
    let s1 := s.modSpin c fun x => { x with lowN := n }
    if on ∧ (o.vbus ≥ 10 * s.cr c F.SPN_VBUS_THR_CHOP_FAIL ∨ n ≥ 4) then chopFault c s1
    else if o.vbus ≥ 10 * s.cr c F.SPN_VBUS_THR_CHOP_ON then s1.cw c F.SPN_STS_CHOP_ON 1
    else if o.vbus ≤ 10 * s.cr c F.SPN_VBUS_THR_CHOP_OFF then s1.cw c F.SPN_STS_CHOP_ON 0
    else s1

/-- The Iq reference of the present state (Table 6-2). -/
def State.iqRef (s : State) (c : Fin 16) : Int :=
  match s.spinSt c with
  | 6 | 7 => roundDiv (toSigned 16 (s.cr c (F.SLT_OUT_CODE 6)) * (s.cr c F.SPN_I_FS : Int)) 32768
  | _ => (s.ch c).spin.iref

/-- PWM_PERIOD (R191 to R196, R205, R207). -/
def pwmPeriod (c : Fin 16) (o : PwmObs) (s : State) : State :=
  if !s.alive c || (s.ch c).st == .bivouac then s
  else
    let low := o.vbus < 10 * s.cr c F.SPN_VBUS_UV
    let uv := if low then (s.ch c).spin.uvN + 1 else 0
    let s1 := (s.cw c F.SPN_VBUS o.vbus).modSpin c fun x => { x with psfLow := o.psfLow, uvN := uv }
    let s2 := ((s1.chopper c o).lockStep c o).spinAngle c o
    if uv = 48 then s2.spinFault c 2
    else
      let st := s2.spinSt c
      if st = 1 then s2.catchStep c o.emf
      else if st < 3 ∨ st > 7 then s2
      else
        let x := (s2.ch c).spin
        let theta := if st = 3 then 0 else o.theta
        let six := st = 4
        -- the vector of the period before takes effect; the spec gives the duties of a six-step period no law
        let f := s2.free
        let duty := if six then (List.range 3).map fun i => ((Config.freeValue (f + i) % 2 ^ 32 : Nat) : Int)
          else s2.duties c theta x.vd x.vq
        let rate := if six then min topRate (x.rate + s2.cr c F.SPN_SS_RAMP_ACC) else x.rate
        let e := pwmEdges (pwmTicks (s2.cr c F.SPN_SHUNT_WIN)) duty
        let s3 := { s2.modSpin c fun x => { x with
          duty := duty, edges := e.1, vectors := e.2, rate := rate, topN := if six ∧ x.rate ≥ topRate then x.topN + 1 else x.topN } with
          free := if six then f + 3 else f }
        if e.2.isSome ∨ six then
          let s4 := s3.modSpin c fun x => { x with noSample := 0, shunt := o.shunt.1 }
          if six then s4.linkLoop c o.shunt.1 else s4.currentLoop c theta (phaseCurrents duty o.shunt.1 o.shunt.2) (s4.iqRef c)
        else
          let n := x.noSample + 1
          let s4 := (s3.modSpin c fun x => { x with noSample := n }).incSat (chRg c) F.SPN_SHUNT_STS
          let s5 := s4.currentLoop c theta [x.iu, x.iv, x.iw] (s4.iqRef c)
          if n = 48 then s5.cirq c 0x10 6 else if n = 480 then s5.spinFault c 6 else s5

/-- SPD has raised IMPLAUSIBLE: channel firmware commands COAST, then START (R209). -/
def State.spinAgain (s : State) (c : Fin 16) : State :=
  if (s.ch c).servo.respin then spinStart c (spinCoast c (s.modServo c fun v => { v with respin := false })) else s

def execPwmPeriod (c : Fin 16) (o : PwmObs) (s : State) : HRes :=
  .next (s.whileRunning (chRg c) 0x10 fun s => pwmPeriod c o (s.spinAgain c))

/-- The six gate outputs, phases U, V and W (R188, R189, Table 6-2): none at PORST#, where they are high-impedance. A dead time
separates a phase's two sides at each edge. -/
def State.gates (s : State) (c : Fin 16) : Option (List Gate) :=
  if s.plat.porst then none
  else
    let st := s.spinSt c
    if !s.alive c || (s.ch c).st == .bivouac || st < 2 || st > 7 then some [.low, .low, .low]
    else if st = 2 then some [.lowSide, .lowSide, .lowSide]
    else some ((s.ch c).spin.edges.map fun e => .switched e.1 e.2 (pwmTicks (s.cr c F.SPN_PWM)))

/-- The instants at which a period's two samples are taken: the count at which the vector starts, and TSAMP in ns after it (R193). -/
def State.shuntSamples (s : State) (c : Fin 16) : List (Int × Nat) :=
  (s.ch c).spin.vectors.elim [] fun v => [(v.1, s.cr c F.SPN_SHUNT_TSAMP), (v.2, s.cr c F.SPN_SHUNT_TSAMP)]

/-- Cnn_BRK: none at PORST# (R188, R205). -/
def State.chopperGate (s : State) (c : Fin 16) : Option Bool :=
  if s.plat.porst then none else some (s.alive c && (s.ch c).st != .bivouac && s.cr c F.SPN_STS_CHOP_ON == 1)

/-- COAST_WAIT_EXPIRY (R473): a spindle OFF or in FAULT for COAST_WAIT counts as at rest. -/
def execCoastWaitExpiry (c : Fin 16) (s : State) : HRes :=
  .next (if s.spinSt c = 0 ∨ s.spinSt c = 8 then (s.modSpin c fun x => { x with rest := true }).showSafe c else s)

end Sys2Proof.Machine
end

