-- ==== Sys2Proof/Machine/Sled.lean ====
section
/-! DEFINITION. The sled: moves, follow, homing and the resolution ladder (R210 to R221, R223). -/

namespace Sys2Proof.Machine
open Sys2Proof

/-- Change a channel's sled. -/
def State.modSled (s : State) (c : Fin 16) (f : Sled → Sled) : State := s.modCh c fun x => { x with sled := f x.sled }

/-- The sled state (Table 6-8): 0 OFF, 1 IDLE, 2 MOVE, 3 STOPPING, 4 HOMING, 5 FOLLOW, 6 FAULT. -/
def State.sledSt (s : State) (c : Fin 16) : Nat := s.cr c F.SLD_STS_STATE

/-- One position unit, and one unit per tick, in the scales of `Sled.pos` and `Sled.vel`. -/
def unitPos : Int := 72000000
def unitVel : Int := 36000000

/-- A soft limit as a sled position. -/
def State.limLo (s : State) (c : Fin 16) : Int := toSigned 32 (s.cr c F.SLD_LIM_LO) * unitPos
def State.limHi (s : State) (c : Fin 16) : Int := toSigned 32 (s.cr c F.SLD_LIM_HI) * unitPos

/-- The velocity lost per tick at DECEL: its unit of 32 full steps per second squared is 128 of the velocity scale. -/
def State.decel (s : State) (c : Fin 16) : Int := 128 * s.cr c F.SLD_DECEL

/-- A velocity in full steps per second. -/
def stepsVel (v : Nat) : Int := 192000 * v

/-- A refused operation (R213, R216 to R222). -/
def State.sledRefuse (s : State) (c : Fin 16) (code : Nat) : State := (s.errOpen (chRg c) 0x11 0x100 code).cirq c 0x11 4

/-- Show position and velocity (Table 6-8). -/
def State.showSled (s : State) (c : Fin 16) : State :=
  let x := (s.ch c).sled
  s.wrs (chRg c) [(F.SLD_POS, ofSigned 32 (Int.fdiv x.pos unitPos)), (F.SLD_VEL, ofSigned 32 (Int.fdiv x.vel 140625)),
    (F.SLD_SCALE_CUR, x.scale / 16), (F.SLD_STS_SUCC, b2n x.succ.isSome)]

/-- Begin a move in the next tick, from the sled's present state (R212). -/
def State.beginMove (s : State) (c : Fin 16) (first last : Nat) : State :=
  ((s.modSled c fun x => { x with first := first, last := last, t := 0, p0 := x.pos, v0 := Int.fdiv (x.vel * 16384) (max 1 x.scale), succ := none, still := 0 }).wrs (chRg c)
    [(F.SLD_STS_STATE, 2), (F.SLD_STS_SEG, first)]).showSled c

/-- The sled decelerates at DECEL. -/
def State.sledBrake (s : State) (c : Fin 16) (why : StopKind) : State :=
  (s.modSled c fun x => { x with stop := why }).cw c F.SLD_STS_STATE 3

/-- Standing still with nothing pending: FOLLOW while SLF is CLOSED, else IDLE (R217, R220). -/
def State.sledIdle (s : State) (c : Fin 16) : State :=
  (s.cw c F.SLD_STS_STATE (if s.mode c 2 = 3 then 5 else 1)).showSled c

/-- A motion has ended: its successor begins, or the sled idles (R215). -/
def State.sledNext (s : State) (c : Fin 16) : State :=
  match (s.ch c).sled.succ with
  | some (a, b) => s.beginMove c a b
  | none => s.sledIdle c

/-- MOVE_DONE: the move has reached the end of its last segment (R212, R217). An end velocity without a successor decelerates. -/
def moveDone (c : Fin 16) (s : State) : State :=
  if s.sledSt c ≠ 2 then s
  else
    let x := (s.ch c).sled
    let v1 := toSigned 16 (s.cr c (F.SLD_SEG_A_END_VEL x.last)) * 140625
    let s1 := s.modSled c fun x => { x with
      pos := toSigned 32 (s.cr c (F.SLD_SEG_B x.last)) * unitPos, vel := Int.fdiv (v1 * x.scale) 16384 }
    let s2 := (s1.cirq c 0x11 0).showSled c
    if x.succ.isNone ∧ v1 ≠ 0 then (s2.cirq c 0x11 5).sledBrake c .idle else s2.sledNext c

/-- Where a deceleration ends: it covers v² ÷ 2a. -/
def State.restPos (s : State) (c : Fin 16) : Int :=
  let x := (s.ch c).sled
  x.pos + Int.tdiv (x.vel * x.vel.natAbs) (max 1 (s.decel c))

/-- The velocity has reached 0: STOP reports, homing goes on or ends (R216, R217, R221). -/
def stopEnd (c : Fin 16) (s : State) : State :=
  if s.sledSt c ≠ 3 then s
  else
    let s1 := (s.modSled c fun x => { x with pos := s.restPos c, vel := 0, still := 0 }).showSled c
    match (s.ch c).sled.stop with
    | .stop => (s1.cirq c 0x11 1).sledNext c
    | .idle | .homeFail => s1.sledNext c
    | .home =>
      match (s.ch c).sled.home with
      | .turn => (s1.modSled c fun x => { x with home := .back }).cw c F.SLD_STS_STATE 4
      | _ => ((s1.cw c F.SLD_STS_HOMED 1).cirq c 0x11 2).sledIdle c

/-- Why a MOVE is refused (R213): its place in the list, 0 for none. -/
def State.moveBar (s : State) (c : Fin 16) (first last : Nat) : Nat :=
  let segs := (List.range (last + 1)).filter (first ≤ ·)
  let lo := toSigned 32 (s.cr c F.SLD_LIM_LO)
  let hi := toSigned 32 (s.cr c F.SLD_LIM_HI)
  let p1 := fun k => toSigned 32 (s.cr c (F.SLD_SEG_B k))
  let st := s.sledSt c
  if first > last then 1
  else if segs.any fun k => s.cr c (F.SLD_SEG_A_DUR k) == 0 then 2
  else if segs.any fun k => decide (p1 k < lo) || decide (p1 k > hi) then 3
  else if segs.any fun k => (toSigned 16 (s.cr c (F.SLD_SEG_A_END_VEL k))).natAbs > 27307 then 4
  else if s.cr c F.SLD_STS_HOMED = 0 then 5
  else if st = 0 ∨ st = 4 ∨ st = 6 then 6
  else if st = 5 ∧ s.mode c 2 = 3 then 7
  else 0

/-- SLED_MOVE (R213, R215). -/
def sledMove (c : Fin 16) (first last : Nat) (s : State) : State :=
  if !s.alive c then s
  else
    let bar := s.moveBar c first last
    let st := s.sledSt c
    if bar ≠ 0 then s.sledRefuse c 1
    else if st = 2 ∨ st = 3 then
      let s1 := if (s.ch c).sled.succ.isSome then s.cirq c 0x11 6 else s
      (s1.modSled c fun x => { x with succ := some (first, last) }).showSled c
    else s.beginMove c first last

def execSledMove (src : Src) (c : Fin 16) (first last : Nat) (s : State) : HRes :=
  .next (s.gated src (chRg c) 0x11 0x100 (1 + 2 ^ 8 * (first % 64) + 2 ^ 16 * (last % 64)) (sledMove c (first % 64) (last % 64)))

/-- SLED_STOP (R216). A standing sled has stopped already. -/
def sledStop (c : Fin 16) (s : State) : State :=
  if !s.alive c then s
  else match s.sledSt c with
    | 0 | 6 => s.sledRefuse c 2
    | 1 => s.cirq c 0x11 1
    | _ => ((s.modSled c fun x => { x with succ := none }).sledBrake c .stop).showSled c

def execSledStop (src : Src) (c : Fin 16) (s : State) : HRes := .next (s.gated src (chRg c) 0x11 0x100 2 (sledStop c))

/-- SLED_HOME (R221), from standing still. -/
def sledHome (c : Fin 16) (s : State) : State :=
  if !s.alive c then s
  else
    let st := s.sledSt c
    if st = 1 ∨ (st = 5 ∧ s.mode c 2 ≠ 3) then
      (s.modSled c fun x => { x with
        home := if s.cr c F.SLD_STS_HOME_SW = 1 then .leave else .seek, homeN := 0, still := 0 }).wrs (chRg c)
        [(F.SLD_STS_STATE, 4), (F.SLD_STS_HOMED, 0)]
    else s.sledRefuse c 2

def execSledHome (src : Src) (c : Fin 16) (s : State) : HRes := .next (s.gated src (chRg c) 0x11 0x100 3 (sledHome c))

/-- SLED_ENERGISE (R223): IDLE at the hold current. -/
def sledEnergise (c : Fin 16) (s : State) : State :=
  if !s.alive c then s
  else if s.sledSt c ≠ 0 then s.sledRefuse c 2
  else (s.modSled c fun x => { x with vel := 0, still := 48 * s.cr c F.SLD_HOLD_DELAY }).cw c F.SLD_STS_STATE 1

def execSledEnergise (src : Src) (c : Fin 16) (s : State) : HRes := .next (s.gated src (chRg c) 0x11 0x100 4 (sledEnergise c))

/-- The sled's outputs go low: OFF or FAULT, HOMED cleared (R210, R221, R223). -/
def State.sledOff (s : State) (c : Fin 16) (st : Nat) : State :=
  ((s.modSled c fun x => { x with vel := 0, succ := none, refA := 0, refB := 0, driveA := 0, driveB := 0, integA := 0, integB := 0, steps := 0, slots := [] }).wrs (chRg c)
    [(F.SLD_STS_STATE, st), (F.SLD_STS_HOMED, 0)]).showSled c

/-- SLED_RELEASE (R223). -/
def sledRelease (c : Fin 16) (s : State) : State :=
  if !s.alive c then s
  else if s.sledSt c = 0 ∨ s.sledSt c = 6 then s.sledRefuse c 2
  else s.sledOff c 0

def execSledRelease (src : Src) (c : Fin 16) (s : State) : HRes := .next (s.gated src (chRg c) 0x11 0x100 5 (sledRelease c))

/-- SLED_CLEAR_FAULT (R223). -/
def sledClearFault (c : Fin 16) (s : State) : State :=
  let i := fun f => (toSigned 16 (s.cr c f)).natAbs
  if !s.alive c then s
  else if s.sledSt c ≠ 6 ∨ i F.SLD_I_MEAS_IA ≥ s.cr c F.SLD_OC_THR ∨ i F.SLD_I_MEAS_IB ≥ s.cr c F.SLD_OC_THR then s.sledRefuse c 2
  else s.sledOff c 0

def execSledClearFault (src : Src) (c : Fin 16) (s : State) : HRes := .next (s.gated src (chRg c) 0x11 0x100 6 (sledClearFault c))

/-! Events (R210 to R221). -/

def execMoveDone (c : Fin 16) (s : State) : HRes := .next (moveDone c s)
def execStopDone (c : Fin 16) (s : State) : HRes := .next (stopEnd c s)

/-- HOME_SWITCH_EDGE (R221). -/
def homeEdge (c : Fin 16) (level : Bool) (s : State) : State :=
  let s1 := s.cw c F.SLD_STS_HOME_SW (b2n level)
  if s.sledSt c ≠ 4 then s1
  else match (s.ch c).sled.home, level with
    | .leave, false => s1.modSled c fun x => { x with home := .seek }
    | .seek, true => (s1.modSled c fun x => { x with home := .turn }).sledBrake c .home
    | .back, false => ((s1.modSled c fun x => { x with pos := 0, home := .settle }).sledBrake c .home).showSled c
    | _, _ => s1

def execHomeSwitchEdge (c : Fin 16) (level : Bool) (s : State) : HRes := .next (homeEdge c level s)

/-- HOME_FAIL (R221): the sled stops at DECEL, HOMED stays 0. -/
def homeFail (c : Fin 16) (s : State) : State :=
  if s.sledSt c = 4 ∨ (s.sledSt c = 3 ∧ (s.ch c).sled.stop = .home) then (s.sledBrake c .homeFail).cirq c 0x11 3 else s

def execHomeFail (c : Fin 16) (s : State) : HRes := .next (homeFail c s)

/-- SLED_OVERCURRENT (R210). -/
def execSledOvercurrent (c : Fin 16) (s : State) : HRes :=
  .next (if s.alive c then (s.sledOff c 6).cirq c 0x11 8 else s)

/-- HOLD_CURRENT (R211): the sled has stood still for HOLD_DELAY. -/
def execHoldCurrent (c : Fin 16) (s : State) : HRes :=
  .next (if s.sledSt c = 1 then s.modSled c fun x => { x with still := max x.still (48 * s.cr c F.SLD_HOLD_DELAY) } else s)

/-- FOLLOW_ENTRY (R220). -/
def execFollowEntry (c : Fin 16) (s : State) : HRes :=
  .next (if s.sledSt c = 1 ∧ s.mode c 2 = 3 then s.cw c F.SLD_STS_STATE 5 else s)

/-! The 48 kHz tick (R212 to R220). -/

/-- The cubic of R212 at profile time `t` of 1/16,384 tick in a segment of `d` ticks: position, and velocity per unscaled tick, both
in the sled's scales. -/
def profile (d t : Nat) (p0 v0 p1 v1 : Int) : Int × Int :=
  let n : Int := t
  let w : Int := d * 16384
  let dv := fun (v : Int) => 2 * d * v
  let p := (2 * n * n * n - 3 * n * n * w + w * w * w) * p0 + (n * n * n - 2 * n * n * w + n * w * w) * dv v0
    + (3 * n * n * w - 2 * n * n * n) * p1 + (n * n * n - n * n * w) * dv v1
  let v := 6 * (n * n - n * w) * (p0 - p1) + (3 * n * n - 4 * n * w + w * w) * dv v0 + (3 * n * n - 2 * n * w) * dv v1
  (Int.fdiv p (w * w * w), Int.fdiv v (2 * d * w * w))

/-- The largest velocity, 20,000 full steps per second. -/
def maxVel : Int := stepsVel 20000

/-- s moves toward SPEED by at most ACC (R214). -/
def State.scaleStep (s : State) (c : Fin 16) : Nat :=
  let x : Int := (s.ch c).sled.scale
  let a : Int := s.cr c F.SLD_SCALE_ACC
  (clampInt (x - a) (x + a) (1024 * s.cr c F.SLD_SCALE_SPEED)).toNat

/-- Advance in the running move by a profile time, through the ends of its segments; `none` when its last has ended. The first
argument bounds the segments passed. -/
def segmentsOn (s : State) (c : Fin 16) (last : Nat) : Nat → Nat → Nat → Int → Int → Option (Nat × Nat × Int × Int)
  | 0, _, _, _, _ => none
  | n + 1, seg, t, p0, v0 =>
    let d := s.cr c (F.SLD_SEG_A_DUR seg) * 16384
    if t < d then some (seg, t, p0, v0)
    else if seg ≥ last then none
    else segmentsOn s c last n (seg + 1) (t - d) (toSigned 32 (s.cr c (F.SLD_SEG_B seg)) * unitPos)
      (toSigned 16 (s.cr c (F.SLD_SEG_A_END_VEL seg)) * 140625)

/-- A soft limit is passed (R213): the sled stops there at once. -/
def State.softLimit (s : State) (c : Fin 16) (at_ : Int) : State :=
  let s1 := s.modSled c fun x => { x with pos := at_, vel := 0, succ := none, still := 0 }
  ((s1.cw c F.SLD_STS_HOMED 0).cirq c 0x11 7).sledIdle c

/-- One tick of a move (R212 to R214). -/
def State.moveTick (s : State) (c : Fin 16) : State :=
  let x := (s.ch c).sled
  let seg := s.cr c F.SLD_STS_SEG
  let p1 := fun k => toSigned 32 (s.cr c (F.SLD_SEG_B k)) * unitPos
  let v1 := fun k => toSigned 16 (s.cr c (F.SLD_SEG_A_END_VEL k)) * 140625
  let at_ := fun (k t : Nat) (p0 v0 : Int) => profile (max 1 (s.cr c (F.SLD_SEG_A_DUR k))) t p0 v0 (p1 k) (v1 k)
  let goal := s.scaleStep c
  let here := (at_ seg x.t x.p0 x.v0).2.natAbs
  let sc := if here * goal > 16384 * maxVel.natAbs then 16384 * maxVel.natAbs / max 1 here else goal
  let s1 := s.modSled c fun x => { x with scale := sc }
  match segmentsOn s c x.last 65 seg (x.t + sc) x.p0 x.v0 with
  | none => moveDone c s1
  | some (k, t, p0, v0) =>
    let r := at_ k t p0 v0
    if r.1 < s.limLo c then s1.softLimit c (s.limLo c)
    else if r.1 > s.limHi c then s1.softLimit c (s.limHi c)
    else (s1.modSled c fun x => { x with t := t, p0 := p0, v0 := v0, pos := r.1, vel := Int.fdiv (r.2 * sc) 16384 }).cw c F.SLD_STS_SEG k

/-- One tick of a deceleration (R216): the last part-tick ends at rest. -/
def State.brakeTick (s : State) (c : Fin 16) : State :=
  let x := (s.ch c).sled
  let a := s.decel c
  if (x.vel.natAbs : Int) ≤ a then stopEnd c s
  else
    let v := x.vel - x.vel.sign * a
    s.modSled c fun y => { y with pos := x.pos + x.vel + v, vel := v }

/-- Move with a velocity approaching a target by at most `a` per tick. -/
def State.velTick (s : State) (c : Fin 16) (target a : Int) : State :=
  s.modSled c fun x =>
    let v := clampInt (x.vel - a) (x.vel + a) target
    { x with pos := x.pos + x.vel + v, vel := v }

/-- One tick of FOLLOW (R220). -/
def State.followTick (s : State) (c : Fin 16) : State :=
  if s.mode c 2 ≠ 3 then s.sledBrake c .idle
  else
    let target := Int.fdiv (toSigned 16 (s.cr c (F.SLT_OUT_CODE 2)) * (s.cr c F.SLD_FOLLOW_VMAX : Int) * 375) 64
    let s1 := s.velTick c target (128 * s.cr c F.SLD_FOLLOW_ACC)
    let x := (s1.ch c).sled
    let stop := fun p => (s1.modSled c fun x => { x with pos := p, vel := 0 }).cirq c 0x11 7
    if x.pos < s.limLo c ∧ x.vel < 0 then stop (s.limLo c)
    else if x.pos > s.limHi c ∧ x.vel > 0 then stop (s.limHi c)
    else s1

/-- One tick of homing (R221): outward is toward greater positions. -/
def State.homeTick (s : State) (c : Fin 16) : State :=
  let x := (s.ch c).sled
  let back := stepsVel (s.cr c F.SLD_HOME_BACKOFF)
  let s1 := match x.home with
    | .leave | .back => s.velTick c back (s.decel c)
    | .seek => s.velTick c (-stepsVel (s.cr c F.SLD_HOME_VEL)) (s.decel c)
    | _ => s
  if x.homeN + 1 > 48 * s.cr c F.SLD_HOME_TMO then homeFail c s1
  else s1.modSled c fun y => { y with homeN := y.homeN + 1 }

/-- Microsteps per full step at a resolution code (Table 6-8). -/
def resOf (r : Nat) : Nat := [256, 64, 16, 4, 1].getD r 1

/-- The resolution follows the speed in full steps per second, at a position both resolutions share (R218, Table 6-6). -/
def State.ladderRes (s : State) (c : Fin 16) : Nat :=
  let r := s.cr c F.SLD_STS_RES
  let v := (s.ch c).sled.vel.natAbs
  let speed := fun n => 192000 * n
  let up := r < 4 && v > speed ([500, 2000, 8000, 15000].getD r 0)
  let down := r > 0 && v < speed ([475, 1900, 7600, 14250].getD (r - 1) 0)
  let r' := if up then r + 1 else if down then r - 1 else r
  let p := Int.fdiv (s.ch c).sled.pos unitPos
  if r' ≠ r ∧ p % (256 / resOf (max r r') : Nat) = 0 then r' else r

/-- The current level (R211): I_RUN while moving or following, I_HOLD after HOLD_DELAY of standing still. -/
def State.sledCurrent (s : State) (c : Fin 16) : Nat :=
  let st := s.sledSt c
  if st = 0 ∨ st = 6 then 0
  else if st = 1 ∧ (s.ch c).sled.still ≥ 48 * s.cr c F.SLD_HOLD_DELAY then s.cr c F.SLD_CUR_I_HOLD
  else s.cr c F.SLD_CUR_I_RUN

/-- The phase current references (R211) at a resolution. -/
def State.phaseRefs (s : State) (c : Fin 16) (r : Nat) : Int × Int :=
  let k := Int.fdiv (Int.fdiv (s.ch c).sled.pos unitPos * (r : Int)) 256
  let ang := (((2 * k + 1) * (256 / r : Nat)) % 2048 * 32).toNat
  let i : Int := s.sledCurrent c
  (roundDiv (i * sin16 (ang + 16384)) 32767, roundDiv (i * sin16 ang) 32767)

/-- One phase's PI controller: its integrator one tick on, and what the bridge applies (R210). -/
def State.phasePi (s : State) (c : Fin 16) (err integ : Int) : Int × Int :=
  let i := integ + s.cr c F.SLD_ILOOP_KI * err
  (i, Config.sledBridge (s.cr c F.SLD_ILOOP_KP * err + i))

/-- The slots of a tick in which `n` steps are issued: spread evenly over the 32 (R219). -/
def stepSlots (n : Nat) : List Nat := (List.range n).map fun j => 32 * j / n

/-- The bridge inputs of phases A and B (R188, R210): for a positive drive P is pulse-width modulated and N low, for a negative one the
roles swap. None at PORST#, where the outputs are high-impedance. -/
def State.bridges (s : State) (c : Fin 16) : Option (Bridge × Bridge) :=
  let x := (s.ch c).sled
  let pin := fun (d : Int) => if d = 0 then none else some (decide (d > 0), (d.natAbs : Int))
  if s.plat.porst then none
  else if !s.alive c || (s.ch c).st == .bivouac || s.sledSt c == 0 || s.sledSt c == 6 then some (none, none)
  else some (pin x.driveA, pin x.driveB)

/-- SLED_TICK: one 48 kHz tick: the state's motion, the limits on homing and holding, the resolution, the steps issued, at most 32 of
them, and the phase references (R210 to R221). -/
def sledTick (c : Fin 16) (ia ib : Int) (s : State) : State :=
  if !s.alive c || (s.ch c).st == .bivouac then s
  else if (ia.natAbs > s.cr c F.SLD_OC_THR ∨ ib.natAbs > s.cr c F.SLD_OC_THR) ∧ s.sledSt c ≠ 6 then
    ((s.wrs (chRg c) [(F.SLD_I_MEAS_IA, ofSigned 16 ia), (F.SLD_I_MEAS_IB, ofSigned 16 ib)]).sledOff c 6).cirq c 0x11 8
  else
    let s1 := s.wrs (chRg c) [(F.SLD_I_MEAS_IA, ofSigned 16 ia), (F.SLD_I_MEAS_IB, ofSigned 16 ib)]
    let old := Int.fdiv (s.ch c).sled.pos unitPos
    let s2 := match s1.sledSt c with
      | 1 => if s1.mode c 2 = 3 then s1.cw c F.SLD_STS_STATE 5 else s1.modSled c fun x => { x with still := x.still + 1 }
      | 2 => s1.moveTick c
      | 3 => if (s1.ch c).sled.stop = .home ∧ (s1.ch c).sled.homeN + 1 > 48 * s1.cr c F.SLD_HOME_TMO then homeFail c s1
             else (s1.modSled c fun x => { x with homeN := x.homeN + 1 }).brakeTick c
      | 4 => s1.homeTick c
      | 5 => s1.followTick c
      | _ => s1
    if s2.sledSt c = 0 ∨ s2.sledSt c = 6 then s2
    else
      let s3 := s2.cw c F.SLD_STS_RES (s2.ladderRes c)
      let r := resOf (s3.cr c F.SLD_STS_RES)
      let new := Int.fdiv (s3.ch c).sled.pos unitPos
      let due := Int.fdiv (new * r) 256 - Int.fdiv (old * r) 256 + (s3.ch c).sled.steps
      let refs := s3.phaseRefs c r
      let a := s3.phasePi c (refs.1 - ia) (s3.ch c).sled.integA
      let b := s3.phasePi c (refs.2 - ib) (s3.ch c).sled.integB
      (s3.modSled c fun x => { x with
        steps := due - clampInt (-32) 32 due, slots := stepSlots (min 32 due.natAbs), refA := refs.1, refB := refs.2
        driveA := a.2, driveB := b.2, integA := a.1, integB := b.1 }).showSled c

def execSledTick (c : Fin 16) (ia ib : Int) (s : State) : HRes := .next (s.whileRunning (chRg c) 0x11 fun s => sledTick c ia ib s)

end Sys2Proof.Machine
end

