-- ==== Sys2Proof/Machine/Cal.lean ====
section
/-! DEFINITION. Calibration: temperature sets, interpolation, generations and their application (R224 to R240). -/

namespace Sys2Proof.Machine
open Sys2Proof

/-- Change a channel's CAL block. -/
def State.modCal (s : State) (c : Fin 16) (f : Cal → Cal) : State := s.modCh c fun x => { x with cal := f x.cal }

/-- T_k of the five sets, in 1/16 °C (R225). -/
def setTemps : List Nat := [160, 400, 640, 880, 1120]

/-- The sets to interpolate between at a temperature (R228): the two sets and the numerator and denominator of the fraction. -/
def State.calPair (s : State) (c : Fin 16) (t : Int) : Option (Nat × Nat × Int × Nat) :=
  let valid := (List.range 5).filter fun k => bitAt (s.cr c F.CAL_SET_VALID) k
  let tk := fun k => setTemps.getD k 0
  let below := (valid.filter fun k => decide ((tk k : Int) ≤ t)).getLast?
  let above := valid.find? fun k => decide ((tk k : Int) > t)
  match below, above with
  | some a, some b => some (a, b, t - tk a, tk b - tk a)
  | some a, none => some (a, a, 0, 1)
  | none, some b => some (b, b, 0, 1)
  | none, none => none

/-- The interpolated value of a field (R228), halves away from zero. -/
def lerp (va vb num : Int) (den : Nat) : Int := va + roundDiv ((vb - va) * num) den

/-- A field of an image: byte offset, first bit in the little-endian word there, width, whether it is signed, and its largest value. -/
structure CalField where
  ofs    : Nat
  lsb    : Nat
  width  : Nat
  signed : Bool
  top    : Nat
  deriving DecidableEq, Repr

/-- Read a field from bytes. -/
def CalField.get (f : CalField) (bs : List Byte) : Int :=
  let w := bitsAt (leNat ((bs.drop f.ofs).take 4)) f.lsb f.width
  if f.signed then toSigned f.width w else w

/-- A field's value held to its range. -/
def CalField.held (f : CalField) (v : Int) : Int := if f.signed then v else clampInt 0 f.top v

/-- An unsigned byte, a signed byte, and a signed 16-bit field. -/
def u8 (o top : Nat) : CalField := ⟨o, 0, 8, false, top⟩
def s8 (o : Nat) : CalField := ⟨o, 0, 8, true, 0⟩
def s16 (o : Nat) : CalField := ⟨o, 0, 16, true, 0⟩

/-- The fields of a lane's zone start entry (Table 3-4). -/
def zoneFields : List CalField :=
  [u8 0 30, u8 1 12, s8 2, s8 3, ⟨4, 0, 16, false, 65535⟩, s8 8, s8 9, s8 10, s8 11]
    ++ (List.range 25).map (fun i => s16 (12 + 2 * i)) ++ (List.range 25).map (fun i => s16 (62 + 2 * i))

/-- The fields of a beam's strategy entry (R120). PEAK comes first. -/
def stratFields : List CalField :=
  [⟨16, 0, 10, false, 1023⟩, ⟨16, 10, 10, false, 1023⟩, ⟨16, 20, 8, true, 0⟩]
    ++ (List.range 20).map fun i => ⟨4 * (i / 5), 6 * (i % 5), 6, false, 63⟩

/-- Put fields into an image of `n` bytes; reserved bits are 0. -/
def putFields (n : Nat) (l : List (CalField × Int)) : List Byte :=
  leBytes n ((l.map fun e => ofSigned e.1.width e.2 * 2 ^ (8 * e.1.ofs + e.1.lsb)).sum)

/-- One image interpolated field by field; `adj` corrects a value by its place in the list. -/
def lerpImage (fs : List CalField) (n : Nat) (a b : List Byte) (num : Int) (den : Nat) (adj : Nat → Int) : List Byte :=
  putFields n (fs.zipIdx.map fun e => (e.1, e.1.held (e.1.held (lerp (e.1.get a) (e.1.get b) num den) + adj e.2)))

/-- Base address of set `k`, and of the working buffer `b` (R226, R227). -/
def State.setBase (s : State) (c : Fin 16) (k : Nat) : Nat := s.cr c F.CAL_SRC_BASE + k * 0x200000
def State.workBase (s : State) (c : Fin 16) (b : Nat) : Nat := s.cr c F.CAL_WORK_BASE + b * 0x200000

/-- PDELTA of a layer and beam (R229). -/
def State.pdelta (s : State) (c : Fin 16) (layer beam : Nat) : Int := toSigned 16 (s.tget .pdelta (chRg c) (layer * 8 + beam))

/-- An event calls for a new generation (R230): formed while EN is 1, HOLD 0, a set valid and the thermistor in range. -/
def State.calDue (s : State) (c : Fin 16) : State :=
  if s.cr c F.CAL_CTL_EN = 0 ∨ s.cr c F.CAL_CTL_HOLD = 1 ∨ s.cr c F.CAL_SET_VALID = 0 ∨ s.cr c F.CAL_STS_TEMP_BAD = 1
      ∨ s.alive c = false then s
  else (s.modCal c fun x => { x with due := true }).cw c F.CAL_STS_FORMING 1

/-- Reading the sets and writing the buffer meets a poisoned word (R231). -/
def State.calPoisoned (s : State) (c : Fin 16) (a b buf : Nat) : Bool :=
  let strat := s.cr c F.CAL_CTL_STRAT_EN = 1
  let zone := s.cr c F.CAL_CTL_ZONE_EN = 1
  let bad := fun base =>
    (decide zone && s.anyPoison c base 0x180000) || (decide strat && s.anyPoison c (base + 0x180000) 0x2000)
  let small := fun base => s.anyPoison c (base + 0x182000) 0x74
  bad (s.setBase c a) || bad (s.setBase c b) || bad (s.workBase c buf) || small (s.setBase c a) || small (s.setBase c b)

/-- Interpolate one image of a set into the buffer not in force, entry by entry of `n` bytes. -/
def State.calTable (s : State) (c : Fin 16) (fs : List CalField) (ofs n : Nat) (a b buf : Nat) (num : Int) (den : Nat)
    (adj : Nat → Nat → Int) : Nat → State
  | 0 => s
  | k + 1 =>
    let s1 := State.calTable s c fs ofs n a b buf num den adj k
    let ia := s.dramBytes c (s.setBase c a + ofs + n * k) n
    let ib := s.dramBytes c (s.setBase c b + ofs + n * k) n
    s1.dramWrite c (s.workBase c buf + ofs + n * k) ((lerpImage fs n ia ib num den (adj k)).map some)

/-- GENERATION_FORMED (R228 to R232): a generation is formed into the buffer not in force; one still waiting is replaced. -/
def generationForm (c : Fin 16) (s : State) : State :=
  let x := (s.ch c).cal
  let t := toSigned 16 (s.cr c F.CAL_TEMP_NOW)
  if !x.due then s
  else
    let s0 := (s.modCal c fun x => { x with due := false, formed := s.plat.time }).cw c F.CAL_STS_FORMING 0
    match s.calPair c t with
    | none => s0
    | some (a, b, num, den) =>
      let buf := 1 - s.cr c F.CAL_STS_BUF
      if s.calPoisoned c a b buf then (s0.errOpen (chRg c) 0x50 0 7).cirq c 0x50 0
      else
        let en := fun f => s.cr c f = 1
        let s1 := if en F.CAL_CTL_ZONE_EN then s0.calTable c zoneFields 0 128 a b buf num den (fun _ _ => 0) (1536 * 8) else s0
        let s2 := if en F.CAL_CTL_STRAT_EN then
            s1.calTable c stratFields 0x180000 32 a b buf num den (fun k i => if i = 0 then s.pdelta c (k / 8) (k % 8) else 0) 256
          else s1
        let small := fun (fs : List CalField) (ofs n : Nat) =>
          leNat (lerpImage fs n (s.dramBytes c (s.setBase c a + ofs) n) (s.dramBytes c (s.setBase c b + ofs) n) num den fun _ => 0)
        let bytes := fun (fs : List CalField) (ofs n : Nat) => (List.range (n / 4)).map fun i => bitsAt (small fs ofs n) (32 * i) 32
        let g : CalGen := {
          strat := en F.CAL_CTL_STRAT_EN, zone := en F.CAL_CTL_ZONE_EN
          adc := if en F.CAL_CTL_ADC_EN then some (bytes ((List.range 64).map s8) 0x182000 64) else none
          trims := if en F.CAL_CTL_SERVO_EN then
              some (bytes ((List.range 7).flatMap fun i => [s16 (4 * i), ⟨4 * i, 16, 12, true, 0⟩]) 0x182040 28)
            else none
          brm := if en F.CAL_CTL_BRM_EN then some (bytes ((List.range 16).map fun i => u8 i 255) 0x182060 16) else none
          fsy := if en F.CAL_CTL_FSY_EN then
              some (small ((List.range 8).map fun i => ⟨0, 4 * i, 4, false, 12⟩) 0x182070 4)
            else none }
        let s3 := if x.gen.isSome then s2.incSat (chRg c) F.CAL_CNT_DISCARD else s2
        (s3.modCal c fun x => { x with gen := some g }).wrs (chRg c) [(F.CAL_TEMP_USED, ofSigned 16 t), (F.CAL_STS_PENDING, 1)]

/-- Whether a generation may not be applied now (R234). -/
def State.calBarred (s : State) (c : Fin 16) : Bool :=
  let rg := chRg c
  ((s.ch c).wr.testRun.elim false (·.begun)) || (s.ch c).servo.sweep.isSome
    || calSwapPages.any fun p => s.rd rg (F.HDR_SET_STS_PENDING p) == 1 || (SMap.get s.groups rg []).contains p

/-- Write the Flysheet copies of a generation and swap the group of R233. -/
def State.calGroup (s : State) (c : Fin 16) (g : CalGen) : State :=
  let rg := chRg c
  if g.adc.isNone && g.brm.isNone && g.fsy.isNone then s
  else
    let s1 := match g.adc with
      | some ws => ws.zipIdx.foldl (fun (s : State) (e : Nat × Nat) => s.flyWrite rg (0x20 + e.2 / 2) (0x108 + 4 * (e.2 % 2)) e.1) s
      | none => s
    let s2 := match g.brm with
      | some ws => ws.zipIdx.foldl (fun (s : State) (e : Nat × Nat) => s.flyWrite rg 0x2C (0x104 + 4 * e.2) e.1) s1
      | none => s1
    let s3 := match g.fsy with
      | some w => s2.flyWrite rg 0x29 0x104 w
      | none => s2
    let s4 := calSwapPages.foldl (fun (s : State) p => s.wrs rg [(F.HDR_SET_STS_PENDING p, 1), (F.HDR_SET_STS_WHEN p, 2),
      (F.HDR_SET_STS_DONE p, 0), (F.HDR_SET_STS_REFUSED p, 0)]) (s3.modCh c fun x => { x with calSwap := true })
    s4.evalCal c

/-- The new generation is signalled to TPY (R233): a session fetches at its next cluster boundary, and without one the boundary at which the
generation is applied serves (DEDUCED, log 180). -/
def State.tpySignal (s : State) (c : Fin 16) : State :=
  let s1 := s.modWr c fun w => { w with tpyStale := true }
  if (s1.ch c).wr.session != .idle || s1.cr c F.TPY_CTL_HOLD_TABLE = 1 then s1
  else s1.tpyFetch c ((s1.ch c).wr.tpyLayer.getD (s1.layerNow c))

/-- GENERATION_APPLY (R233, R234): at a cluster boundary the generation waiting is applied whole, or the boundary is passed over. -/
def generationApply (c : Fin 16) (s : State) : State :=
  match (s.ch c).cal.gen with
  | none => s
  | some g =>
    if s.calBarred c then s.incSat (chRg c) F.CAL_CNT_DEFER
    else
      let buf := 1 - s.cr c F.CAL_STS_BUF
      let s1 := (s.modCal c fun x => { x with gen := none }).calGroup c g
      let s2 := match g.trims with
        | some ws => ws.zipIdx.foldl (fun (s : State) (e : Nat × Nat) =>
            s.wrs (chRg c) [(F.SLT_TRIM_OFS e.2, bitsAt e.1 0 16), (F.SLT_TRIM_GAIN e.2, bitsAt e.1 16 12)]) s1
        | none => s1
      let s3 := if g.zone then s2.cw c F.XTC_ZT_BASE (s.workBase c buf) else s2
      let s4 := if g.strat then (s3.cw c F.TPY_ST_BASE (s.workBase c buf + 0x180000)).tpySignal c else s3
      ((s4.wrs (chRg c) [(F.CAL_STS_BUF, buf), (F.CAL_STS_PENDING, 0)]).incWrap (chRg c) F.CAL_GEN).cirq c 0x50 2

/-- A formed generation is applied at once where ADIP is not valid (R233). -/
def generationFormed (c : Fin 16) (s : State) : State :=
  let s1 := generationForm c s
  if (s1.ch c).cal.gen.isSome && s1.cr c F.WOB_STS_ADIP_VALID == 0 && !s1.calBarred c then generationApply c s1 else s1

def execGenerationFormed (c : Fin 16) (s : State) : HRes := .next (s.whileRunning (chRg c) 0x50 fun s => generationFormed c s)
def execGenerationApply (c : Fin 16) (s : State) : HRes := .next (generationApply c s)

/-- Bits of a binary logarithm after those of `r`: a mantissa in units of 2^-40, squared once for each bit. -/
def logBits : Nat → Nat → Int → Int
  | 0, _, r => r
  | n + 1, m, r =>
    let q := m * m / 2 ^ 40
    if q ≥ 2 ^ 41 then logBits n (q / 2) (2 * r + 1) else logBits n q (2 * r)

/-- log2 (a / b) in units of 2^-30. -/
def log2Of (a b : Nat) : Int :=
  let m := a * 2 ^ 40 / b
  let e := Nat.log2 m
  logBits 30 (if e ≥ 40 then m / 2 ^ (e - 40) else m * 2 ^ (40 - e)) ((e : Int) - 40)

/-- The temperature of a pickup thermistor's converter code, to the nearest 1/16 °C (R487, R490): the code over 4096 less the code is the
thermistor's resistance over 10 kΩ, and B = 3,435 K from 25 °C gives its temperature: 744,261,118 is 2^30 ln 2, 12,370,629,433 is
2^30 × 3,435 / 298.15. -/
def thermistor (code : Nat) : Int :=
  if code = 0 then Config.thermistorShort
  else
    let d : Int := 12370629433 + log2Of code (4096 - code) * 744261118 / 2 ^ 30
    roundDiv (16 * 3435 * 2 ^ 30 * 10 - 43704 * d) (10 * d).toNat

/-- PICKUP_TEMPERATURE_SAMPLE (R228, R230, R232): the ten converter codes of 10 ms. One outside PU_LIMITS is an open or a short (DEDUCED,
log 170); else the temperature is their mean. Above PU_TMAX a session stops in order, code 6. -/
def pickupTemp (c : Fin 16) (codes : List Nat) (s : State) : State :=
  let t := roundDiv (codes.map thermistor).sum codes.length
  let mon := fun (s : State) (ws : List (Fld × Nat)) => if s.shadowed (chRg c) then s else s.wrs (chRg c) ws
  if !s.alive c || (s.ch c).st == .bivouac then s
  else if codes.any fun code => code < s.cr c F.MON_PU_LIMITS_LO_CODE || code > s.cr c F.MON_PU_LIMITS_HI_CODE then
    let s1 := mon (s.cw c F.CAL_STS_TEMP_BAD 1) [(F.MON_PU_TEMP_BAD, 1)]
    (s1.cirq c 0x58 0).cirq c 0x50 1
  else
    let s1 := (mon (s.wrs (chRg c) [(F.CAL_STS_TEMP_BAD, 0), (F.CAL_TEMP_NOW, ofSigned 16 t)])
      [(F.MON_PU_TEMP_T, ofSigned 16 t), (F.MON_PU_TEMP_BAD, 0)]).sample (chRg c) 0x21 t
    let s2 := if t > 16 * (s.cr c F.WRC_STOP_CTL_PU_TMAX : Int) then s1.orderlyStop c 6 else s1
    if (t - toSigned 16 (s2.cr c F.CAL_TEMP_USED)).natAbs ≥ s2.cr c F.CAL_PERIOD_DELTA then s2.calDue c else s2

def execPickupTemperatureSample (c : Fin 16) (codes : List Nat) (s : State) : HRes := .next (pickupTemp c codes s)

/-- RECOMP_TIMER (R230). -/
def execRecompTimer (c : Fin 16) (s : State) : HRes := .next (s.calDue c)

/-- CAL_FORCE (R230). -/
def execCalForce (src : Src) (c : Fin 16) (s : State) : HRes :=
  .next (s.gated src (chRg c) 0x50 0x100 4 fun s => s.calDue c)

/-- SET_VALID_WRITE (R230): a change forms a generation. -/
def setValid (c : Fin 16) (mask : Nat) (s : State) : State :=
  if s.cr c F.CAL_SET_VALID = mask % 32 then s else (s.cw c F.CAL_SET_VALID mask).calDue c

def execSetValidWrite (src : Src) (c : Fin 16) (mask : Nat) (s : State) : HRes :=
  .next (s.gated src (chRg c) 0x50 0x108 (mask % 32) (setValid c mask))

/-- PDELTA_WRITE (R229, R230). -/
def pdeltaWrite (c : Fin 16) (v : Nat) (s : State) : State :=
  let i := s.cr c F.CAL_PDELTA_IDX_IDX
  let s1 := s.tput .pdelta (chRg c) i v
  (if s.cr c F.CAL_PDELTA_IDX_AUTOINC = 1 then s1.cw c F.CAL_PDELTA_IDX_IDX (i + 1) else s1).calDue c

def execPdeltaWrite (src : Src) (c : Fin 16) (value : BitVec 16) (s : State) : HRes :=
  .next (s.gated src (chRg c) 0x50 0x128 value.toNat (pdeltaWrite c value.toNat))

end Sys2Proof.Machine
end

