-- ==== Sys2Proof/Machine/Laser.lean ====
section
/-! DEFINITION. The commands of the write chain's own units: assembly, commitment, sessions and stops, the laser driver link and the
kill line, and test-area runs (R107 to R146, R236, R237). -/

namespace Sys2Proof.Machine
open Sys2Proof

/-! Assembly and commitment. -/

/-- CLUSTER_ASSEMBLY, and what a forced-out cluster of a Direct disc does to writes already admitted (R56). -/
def clusterAssembly (c : Fin 16) (s : State) : State := (assemble c s).failPassed c

def execClusterAssembly (c : Fin 16) (s : State) : HRes := .next (s.whileRunning (chRg c) 0x38 fun s => clusterAssembly c s)

/-- ASSEMBLY_IDLE_TIMEOUT (R110): no block has been staged for IDLE, so what is staged must reach the media. -/
def assemblyIdle (c : Fin 16) (s : State) : State :=
  clusterAssembly c (s.modWr c fun w => { w with forceTo := w.nextBlock })

def execAssemblyIdleTimeout (c : Fin 16) (s : State) : HRes := .next (assemblyIdle c s)
def execClusterCommitment (c : Fin 16) (s : State) : HRes := .next (commitment c s)
def execWriteSessionStart (c : Fin 16) (s : State) : HRes := .next (s.whileRunning (chRg c) 0x30 fun s => s.whileRunning (chRg c) 0x31 fun s => sessionStart c s)

/-! Stops (R137 to R141). -/

/-- WRITE_STOP: `WRC.CTL.STOP` written, an orderly stop of code 1. -/
def execWriteStop (src : Src) (c : Fin 16) (s : State) : HRes :=
  .next (s.gated src (chRg c) 0x30 0x100 (2 + s.cr c F.WRC_CTL_EN) fun s => s.orderlyStop c 1)

/-- ORDERLY_STOP (R138): the frame boundary at which the stop falls ends row `row`. An armed session ends where it stands, its first
position never begun. -/
def orderlyEnd (c : Fin 16) (row : Nat) (s : State) : State :=
  match (s.ch c).wr.stopping with
  | some code => if (s.ch c).wr.session = .stopping then s.finishStop c row code false else s
  | none => s

def execOrderlyStop (c : Fin 16) (row : Nat) (s : State) : HRes := .next (orderlyEnd c row s)

/-- OFF_TRACK and DEFOCUS: codes 16 and 17. -/
def execOffTrack (c : Fin 16) (row : Nat) (s : State) : HRes := .next (s.safetyStop c row 16)
def execDefocus (c : Fin 16) (row : Nat) (s : State) : HRes := .next (s.safetyStop c row 17)

/-! The laser driver link (R124 to R128). -/

/-- Whether a response passes its CRC-8 (Table 4-5). -/
def laserOk (rx : Nat) : Bool := crc8 (msbBits 24 (rx / 256)) == rx % 256

/-- The result of a transaction queued through `LDI.CMD` (Table 4-10). -/
def State.hostRsp (s : State) (c : Fin 16) (data status : Nat) (crcErr : Bool) : State :=
  s.wrs (chRg c) [(F.LDI_RSP_DATA, data), (F.LDI_RSP_STATUS, status), (F.LDI_RSP_CRC_ERR, b2n crcErr), (F.LDI_RSP_DONE, 1),
    (F.LDI_RSP_BUSY, b2n ((s.ch c).wr.ldi.queue.any (·.host.isSome)))]

/-- A transaction has failed once more: repeated ahead of `rest`, or given up after the third time (R126). -/
def State.laserFail (s : State) (c : Fin 16) (t : LaserTxn) (rest : List LaserTxn) (status : Nat) : State :=
  let s1 := s.incSat (chRg c) F.LDI_STS_CRC_ERRS
  if t.fails ≥ 2 then
    let rest1 := if t.host = some 1 then rest.drop 1 else rest
    let s2 := s1.modLdi c fun l => { l with queue := rest1, down := true }
    if t.host.isSome then s2.hostRsp c 0 status true else s2
  else s1.modLdi c fun l => { l with queue := { t with fails := t.fails + 1 } :: rest }

/-- The driver has answered on the link: channel firmware, waiting to allow writing, clears KILL and sets EN (R502). -/
def State.driverAnswers (s : State) (c : Fin 16) : State :=
  if !(s.ch c).wr.ldi.ask then s
  else (((s.modLdi c fun l => { l with ask := false }).wrs (chRg c) [(F.LDI_CTL_KILL, 0), (F.WRC_CTL_EN, 1)]).showKill c).showSafe c

/-- Whether a status byte reports a fault: FAULT, OVERTEMP, or a KILLED the K3216 did not cause (R127). -/
def State.statusFault (s : State) (c : Fin 16) (status : Nat) : Bool :=
  bitAt status 0 || bitAt status 1 || (bitAt status 2 && s.cr c F.LDI_STS_KILL_PIN == 0)

/-- LASER_TRANSACTION: the transaction on the link ends with the driver's word `rx` (Table 4-5). A status byte with LAST_REJECTED
brings the transaction before it back; a response that fails its CRC brings back its own. -/
def laserAnswer (c : Fin 16) (rx : Nat) (s : State) : State :=
  let l := (s.ch c).wr.ldi
  match l.queue with
  | [] => s
  | t :: rest =>
    if !l.busy then s
    else
      let status := bitsAt rx 24 8
      let s0 := s.modLdi c fun l => { l with busy := false, last := some t, good := 0, queue := rest }
      let s1 : State :=
        if !laserOk rx then s0.laserFail c t rest status
        else
          let back := if bitAt status 3 then l.last else none
          let s2 := s0.modLdi c fun x => { x with
            good := if back.isSome then 0 else l.good + 1
            fault := s.statusFault c status
            fclr := l.fclr || (!t.rd && t.addr == 0x1B && bitAt t.data 0)
            clean := (l.clean && !(bitAt status 0 || bitAt status 1)) ||
              (l.fclr && t.rd && t.addr == 0x1A && !bitAt status 0 && !bitAt status 1) }
          let s2 := s2.driverAnswers c
          match back with
          | some p =>
            if p.host = some 1 then
              -- the second half of a read needs its first half again
              s2.laserFail c p (t :: rest) status
            else
              let s3 := if t.host = some 0 ∨ t.host = some 2 then s2.hostRsp c (if t.rd then bitsAt rx 8 16 else 0) status false else s2
              let s4 := s3.laserFail c p rest status
              if p.host.isSome && p.fails < 2 then s4.wrs (chRg c) [(F.LDI_RSP_DONE, 0), (F.LDI_RSP_BUSY, 1)] else s4
          | none =>
            if t.host = some 0 ∨ t.host = some 2 then s2.hostRsp c (if t.rd then bitsAt rx 8 16 else 0) status false else s2
      s1.laserPump c

def execLaserTransaction (c : Fin 16) (rx : Word) (s : State) : HRes := .next (laserAnswer c rx.toNat s)

/-- LASER_LINK_ERROR (R126): a third failure in succession sets LINK_ERR, asserts the kill line, and stops a session (code 22). -/
def laserLinkError (c : Fin 16) (row : Nat) (s : State) : State :=
  if !(s.ch c).wr.ldi.down then s
  else (((s.modLdi c fun l => { l with down := false, good := 0 }).cirq c 0x32 1).safetyStop c row 22).assertKill c 22

def execLaserLinkError (c : Fin 16) (row : Nat) (s : State) : HRes := .next (laserLinkError c row s)

/-- STATUS_POLL (R127): with nothing else to send during a session, the LDI reads the driver's STATUS. -/
def statusPoll (c : Fin 16) (s : State) : State :=
  if (s.ch c).wr.session = .idle ∨ !(s.ch c).wr.ldi.queue.isEmpty then s else s.laser c true 0x1A 0

def execStatusPoll (c : Fin 16) (s : State) : HRes := .next (s.whileRunning (chRg c) 0x32 fun s => statusPoll c s)

/-- LASER_DRIVER_FAULT (R127): a status byte with FAULT, OVERTEMP, or a KILLED the K3216 did not cause (code 21). -/
def driverFault (c : Fin 16) (status row : Nat) (s : State) : State :=
  if !s.statusFault c status then s
  else ((s.modLdi c fun l => { l with fclr := false, clean := false, fault := true }).cirq c 0x32 0).safetyStop c row 21

def execLaserDriverFault (c : Fin 16) (status : Byte) (row : Nat) (s : State) : HRes := .next (driverFault c status.toNat row s)

/-- KILL_LINE_EXTERNAL: Cnn_LKILL_N is held asserted from outside; during a session a safety stop (code 23). -/
def killExternal (c : Fin 16) (row : Nat) (s : State) : State :=
  let s1 := s.modLdi c fun l => { l with held := true }
  let s2 := if s.cr c F.LDI_STS_KILL_PIN = 1 then s1 else (s1.cw c F.LDI_STS_KILL_PIN 1).cirq c 0x32 2
  (s2.safetyStop c row 23).showSafe c

def execKillLineExternal (c : Fin 16) (row : Nat) (s : State) : HRes := .next (killExternal c row s)

/-- HOST_LASER_TRANSACTION (R128): a transaction through `LDI.CMD`. A read is sent as two transactions of the same word. During a
session a write to a level register is refused. -/
def hostLaser (c : Fin 16) (rd : Bool) (addr data : Nat) (s : State) : State :=
  let a := addr % 128
  if (s.ch c).wr.session != .idle && !rd && a ≤ 0x19 then
    s.wrs (chRg c) [(F.LDI_RSP_REFUSED, 1), (F.LDI_RSP_CRC_ERR, 0), (F.LDI_RSP_DONE, 1)]
  else
    let s1 := s.wrs (chRg c) [(F.LDI_RSP_REFUSED, 0), (F.LDI_RSP_CRC_ERR, 0), (F.LDI_RSP_DONE, 0), (F.LDI_RSP_BUSY, 1)]
    if rd then (s1.laserQueue c ⟨true, a, 0, some 1, 0⟩).laserQueue c ⟨true, a, 0, some 2, 0⟩
    else s1.laserQueue c ⟨false, a, data % 65536, some 0, 0⟩

def execHostLaserTransaction (src : Src) (c : Fin 16) (rd : Bool) (addr data : Nat) (s : State) : HRes :=
  .next (s.gated src (chRg c) 0x32 0x104 (data % 65536 + 2 ^ 16 * (addr % 128) + 2 ^ 23 * b2n rd + 2 ^ 31) (hostLaser c rd addr data))

/-- READ_LEVEL_WRITE (Table 4-10): sent and committed outside write sessions; a write during one is sent when it ends. -/
def readLevel (c : Fin 16) (b : Fin 8) (level : Nat) (s : State) : State :=
  let s1 := s.cw c (F.LDI_READ b) level
  let s2 := s1.modLdi c fun l => { l with due := if l.due.contains b.val then l.due else l.due ++ [b.val] }
  if (s.ch c).wr.session = .idle then s2.sendReadLevels c else s2

def execReadLevelWrite (src : Src) (c : Fin 16) (beam : Fin 8) (level : Nat) (s : State) : HRes :=
  .next (s.gated src (chRg c) 0x32 (0x110 + 4 * beam.val) (level % 2 ^ 10) (readLevel c beam level))

/-! The kill line (R129). -/

/-- LDI_KILL: `LDI.CTL.KILL` written. Asserted during a session it makes a safety stop (code 23), in a row the write does not name. -/
def ldiKill (c : Fin 16) (kill : Bool) (s : State) : State :=
  let s1 := s.cw c F.LDI_CTL_KILL (b2n kill)
  let s2 := if kill && s.sessionOn c then
      let r := s1.drawRow
      r.2.safetyStop c r.1 23
    else s1
  (s2.showKill c).showSafe c

def execLdiKill (src : Src) (c : Fin 16) (kill : Bool) (s : State) : HRes :=
  .next (s.gated src (chRg c) 0x32 0x100 (s.cr c F.LDI_CTL_LINK_EN + 2 * b2n kill) (ldiKill c kill))

/-- Whether the cause of a hardware kill has gone (R129). Code 23 ends with the command that clears it. -/
def State.killGone (s : State) (c : Fin 16) (why : Nat) : Bool :=
  if 16 ≤ why && why ≤ 20 then
    s.onTrack c && s.cb c (F.SLT_STATE_ARMED 0) && s.cb c (F.SLT_STATE_ARMED 1) && s.cr c F.WOB_STS_PLL_LOCK == 1
      && s.cr c F.WOB_STS_ADIP_VALID == 1
  else if why == 21 then (s.ch c).wr.ldi.clean
  else if why == 22 then (s.ch c).wr.ldi.good ≥ 3
  else if why == 23 then true
  else if why == 33 then (s.ch c).fence == 0
  else if why == 34 then (s.ch c).powered && !s.plat.porst && s.cr c F.STW_STS_RUN == 1
  else false

/-- KILL_LATCH_CLEAR: channel firmware clears `KILL_LATCH` once every cause has gone. -/
def killLatchClear (c : Fin 16) (s : State) : State :=
  let s1 := s.modWr c fun w => { w with
    killWhy := w.killWhy.filter fun y => !s.killGone c y, ldi := { w.ldi with held := false } }
  let s2 := if (s1.ch c).wr.killWhy.isEmpty then s1.cw c F.LDI_STS_KILL_LATCH 0 else s1
  (s2.showKill c).showSafe c

def execKillLatchClear (c : Fin 16) (s : State) : HRes := .next (killLatchClear c s)

/-! Test-area runs (R142 to R146). -/

/-- The peak level of step `k` for a beam (R143). -/
def State.stepLevel (s : State) (c : Fin 16) (k b : Nat) : Nat :=
  (clampInt 0 1023 ((s.cr c (F.TPY_POWER_PEAK b) : Int) + ((k : Int) - 7) * s.cr c F.WRC_TEST_CTL_P_STEP)).toNat

/-- The levels of step `k`: the layer entry's bias, and the step's peaks (R143). -/
def State.stepLevels (s : State) (c : Fin 16) (k : Nat) : List Nat :=
  (List.range 8).map (s.stepLevel c k) ++ (List.range 8).map fun b => s.cr c (F.TPY_POWER_BIAS b)

/-- The gate of a strand's frames of a run, whose last mark ends before the blank frames (R118, R142). -/
def State.testPulses (s : State) (c : Fin 16) (b : Nat) (frames : List (List Bool)) : List (Int × Int) :=
  let bits := frames.flatten
  let minPw := s.cr c F.TPY_CTL_MIN_PW
  let r := beamPulses (s.shape c b) minPw Trail.fresh bits
  let d := 64 * (bits.length : Int)
  delayed (s.cr c (F.WRC_WALIGN b)) (r.1 ++ (endPulses (s.shape c b) minPw r.2).map fun q => (q.1 + d, q.2 + d))

/-- A run is asked for: until its first frame is written its seek and rotational wait yield to host operations (R145). -/
def State.testStart (s : State) (c : Fin 16) (r : TestRun) : State :=
  (s.wrs (chRg c) [(F.WRC_TEST_STS_DONE, 0), (F.WRC_TEST_STS_FAIL, 0)]).modWr c fun w => { w with testRun := some r }

/-- A run's first frame is written, where writing is possible (R106, R116, R123): the layer's entry is fetched where it is not in force, the
levels of each step are staged and committed (R128, R143), and the slot's frames go out (R142). -/
def State.testBegin (s : State) (c : Fin 16) : State :=
  match (s.ch c).wr.testRun with
  | none => s
  | some r =>
    if r.begun || !s.mayWrite c || !((s.ch c).disc.elim true (·.writable)) then s
    else if s.tpyNeeds c r.layer && s.tpyBad c r.layer then s.tpyFetch c r.layer
    else
      let s1 := if s.tpyNeeds c r.layer then s.tpyFetch c r.layer else s
      let s2 := (List.range 15).foldl (fun (s : State) (k : Nat) => (s.stageLevels c (s1.stepLevels c k)).commitLevels c) s1
      let frames := (List.range 8).map fun b => testFrames r.layer r.slot b
      (s2.answer (.testArea c.val r.layer r.slot frames (frames.zipIdx.map fun (x : List (List Bool) × Nat) => s1.testPulses c x.2 x.1))).modWr c
        fun w => { w with testRun := some { r with begun := true }
                          testNext := SMap.put w.testNext r.layer 0 (max (r.slot + 1) (SMap.get w.testNext r.layer 0)) }

/-- Whether a run may be asked for: no session, no other run, and nothing forbids writing the disc (R52, R53). -/
def State.mayTest (s : State) (c : Fin 16) : Bool :=
  (s.ch c).wr.session == .idle && (s.ch c).wr.testRun.isNone && ((s.ch c).disc.elim true (·.writable))

/-- TEST_AREA_RUN: `WRC.TEST_CTL.RUN` written. -/
def testAreaRun (c : Fin 16) (s : State) : State :=
  if !s.mayTest c then s.errOpen (chRg c) 0x30 0x128 2
  else s.testStart c ⟨s.cr c F.WRC_TEST_CTL_LAYER, s.cr c F.WRC_TEST_CTL_SLOT, none, false⟩

def execTestAreaRun (src : Src) (c : Fin 16) (s : State) : HRes :=
  .next (s.gated src (chRg c) 0x30 0x128 (s.cr c F.WRC_TEST_CTL_SLOT + 2 ^ 4 * s.cr c F.WRC_TEST_CTL_LAYER
    + 2 ^ 10 * s.cr c F.WRC_TEST_CTL_P_STEP + 2 ^ 16 * s.cr c F.WRC_TEST_CTL_MQ_TARGET + 2 ^ 24 * s.cr c F.WRC_TEST_CTL_MARGIN
    + 2 ^ 31) (testAreaRun c))

/-- The mean MQ of each step on a strand, its first frame left out (R131, R143), from the verify signal of frames 0 to 449. Without MQ
measurement there is none. The mean is rounded down (DESIGN CHOICE, log 182). -/
def State.stepMeans (s : State) (c : Fin 16) (r : TestRun) (b : Nat) (signals : List (List Nat)) : List Nat :=
  if signals.isEmpty || s.cr c F.VFY_CTL_EN = 0 then []
  else
    let mqs := ((testFrames r.layer r.slot b).zip signals).map fun (x : List Bool × List Nat) =>
      markQuality (s.cr c F.VFY_EMAX) (frameErrors (s.cr c (F.VFY_SLICE b)) (s.cr c (F.VFY_DELAY b)) x.1 x.2)
    (List.range 15).map fun k =>
      let ms := (mqs.drop (30 * k + 1)).take 29
      ms.sum / max 1 ms.length

/-- The step a beam's means choose, and whether the beam failed (R144). -/
def chooseStep (target margin : Nat) (ms : List Nat) : Nat × Bool :=
  match (List.range 15).find? fun k => ms.getD k 0 ≥ target with
  | some k => (min 14 (k + margin), false)
  | none =>
    let top := ms.foldl max 0
    (((List.range 15).find? fun k => ms.getD k 0 == top).getD 0, true)

/-- The PEAK of a layer and beam interpolated at the present temperature, before the disc's correction (R237). Without a valid set it is
the level in force less the correction. -/
def State.peakBase (s : State) (c : Fin 16) (layer b : Nat) : Int :=
  match s.calPair c (toSigned 16 (s.cr c F.CAL_TEMP_NOW)) with
  | some (x, y, num, den) =>
    let img := fun k => s.dramBytes c (s.setBase c k + 0x180000 + 32 * (layer * 8 + b)) 32
    match stratFields.head? with
    | some f => f.held (lerp (f.get (img x)) (f.get (img y)) num den)
    | none => 0
  | none => (s.cr c (F.TPY_POWER_PEAK b) : Int) - s.pdelta c layer b

/-- The record of a run (Table 7-3). -/
def testRecord (s : State) (c : Fin 16) (layer slot fail : Nat) (delta best : List Nat) : List Byte :=
  let body := layout 0x3C [(0, ascii "F32C"), (4, leBytes 4 layer), (8, leBytes 4 64), (0xC, leBytes 2 (s.cr c F.CAL_TEMP_NOW)),
    (0xE, leBytes 1 slot), (0xF, leBytes 1 fail), (0x10, delta.flatMap (leBytes 2)), (0x20, best.flatMap (leBytes 1)),
    (0x28, leBytes 8 s.plat.time)]
  body ++ leBytes 4 (crc32c body)

/-- TEST_RUN_DONE: the run's slot has passed. `signals` is the verify signal of its frames, by strand. The results, the record, and the new
corrections, which call for a new generation (R143, R144, R236, R237). -/
def testRunDone (c : Fin 16) (signals : List (List (List Nat))) (s : State) : State :=
  match (s.ch c).wr.testRun with
  | none => s
  | some r =>
    if !r.begun then s else
    let means := (List.range 8).map fun b => s.stepMeans c r b (signals.getD b [])
    let at_ := fun k b => (means.getD b []).getD k 0
    let chosen := (List.range 8).map fun b =>
      chooseStep (s.cr c F.WRC_TEST_CTL_MQ_TARGET) (s.cr c F.WRC_TEST_CTL_MARGIN) ((List.range 15).map fun k => at_ k b)
    let opt := chosen.zipIdx.map fun e => s.stepLevel c e.1.1 e.2
    let best := (List.range 8).map fun b => (List.range 15).foldl (fun a k => max a (at_ k b)) 0
    let fail := (chosen.zipIdx.filter (·.1.2)).foldl (fun a e => a + 2 ^ e.2) 0
    let delta := (List.range 8).map fun b =>
      if bitAt fail b then 0 else ofSigned 16 ((opt.getD b 0 : Int) - s.peakBase c r.layer b)
    let s1 := s.wrs (chRg c) ([(F.WRC_TEST_STS_DONE, 1), (F.WRC_TEST_STS_FAIL, fail)]
      ++ (List.range 8).flatMap (fun b => [(F.WRC_TEST_RES_P_OPT b, opt.getD b 0), (F.WRC_TEST_RES_BEST_MQ b, best.getD b 0)])
      ++ (List.range 15).flatMap fun k => (List.range 8).map fun b => (F.VFY_STEP_MQ k b, at_ k b))
    let s2 := (s1.cirq c 0x30 2).modWr c fun w => { w with
      testRun := none, lastRun := some (r.layer, r.slot, s.cr c F.CAL_TEMP_NOW), weakCal := if w.weakCal = some r.layer then none else w.weakCal }
    let s3 := (s2.modWr c fun w => { w with records := w.records ++ [testRecord s2 c r.layer r.slot fail delta best] }).putRecords c
    let s4 := (List.range 8).foldl (fun s b => s.tput .pdelta (chRg c) (r.layer * 8 + b) (delta.getD b 0)) s3
    let s5 := s4.calDue c
    match r.cmd with
    | some k => s5.finish k stSuccess (fail + 2 ^ 8 * r.slot)
    | none => s5

def execTestRunDone (c : Fin 16) (signals : List (List (List Nat))) (s : State) : HRes := .next (testRunDone c signals s)

end Sys2Proof.Machine
end

