-- ==== Sys2Proof/Machine/Pcie.lean ====
section
/-! DEFINITION. The PCI Express function: configuration space, link, Bus Master Enable and the staging window
(R296 to R321). The offsets of the capability structures are PRESUMED (log 5); their contents are Table 10-1's. -/

namespace Sys2Proof.Machine
open Sys2Proof

/-- A dword of configuration space: value after reset, bits software may write, bits cleared by writing 1. -/
structure CfgDw where
  reset : Nat
  mask  : Nat
  w1c   : Nat
  deriving DecidableEq, Repr

/-- The Subsystem Vendor ID and Subsystem ID of a board record: magic "KBRD" and a CRC-32C over its first 60 bytes
(R412) are checked where it is read; an empty record gives 0x1E9A and 0x3216 (R298). The pair is held by the boot step in
configuration dword 0x2C. -/
def subsystemDefault : Nat := 0x32161E9A

/-- Configuration space, by dword offset (Tables 10-1, 10-2). -/
def cfgDw (off : Nat) : CfgDw :=
  match off with
  | 0x00 => ⟨0x32161E9A, 0, 0⟩
  | 0x04 => ⟨0x00100000, 0x0546, 0xF9000000⟩
  | 0x08 => ⟨0x01080201, 0, 0⟩
  | 0x0C => ⟨0, 0xFF, 0⟩
  | 0x10 => ⟨0x4, 0xFFFF0000, 0⟩
  | 0x14 => ⟨0, 0xFFFFFFFF, 0⟩
  | 0x18 => ⟨0x4, 0xFE000000, 0⟩
  | 0x1C => ⟨0, 0xFFFFFFFF, 0⟩
  | 0x20 => ⟨0xC, 0, 0⟩
  | 0x24 => ⟨0, 0xFFFFFFFF, 0⟩
  | 0x2C => ⟨subsystemDefault, 0, 0⟩
  | 0x34 => ⟨0x40, 0, 0⟩
  | 0x3C => ⟨0, 0xFF, 0⟩
  | 0x40 => ⟨0xC0035001, 0, 0⟩
  | 0x44 => ⟨0x8, 0x103, 0x8000⟩
  | 0x50 => ⟨0x005F7011, 0xC0000000, 0⟩
  | 0x54 => ⟨0x4000, 0, 0⟩
  | 0x58 => ⟨0x5000, 0, 0⟩
  | 0x70 => ⟨0x00020010, 0, 0⟩
  | 0x74 => ⟨0x10008022, 0, 0⟩
  | 0x78 => ⟨0x2100, 0x71EF, 0xF0000⟩
  | 0x7C => ⟨0x00000905, 0, 0⟩
  | 0x80 => ⟨0, 0x14B, 0⟩
  | 0x94 => ⟨0x0003081F, 0, 0⟩
  | 0x98 => ⟨0, 0x141F, 0⟩
  | 0x9C => ⟨0x3E, 0, 0⟩
  | 0xA0 => ⟨5, 0xF, 0⟩
  | 0x100 => ⟨0x15020001, 0, 0⟩
  | 0x104 => ⟨0, 0, 0xFFFFFFFF⟩
  | 0x108 => ⟨0, 0x003FF030, 0⟩
  | 0x10C => ⟨0x00462030, 0x003FF030, 0⟩
  | 0x110 => ⟨0, 0, 0xFFFFFFFF⟩
  | 0x114 => ⟨0x2000, 0xF1C1, 0⟩
  | 0x118 => ⟨0xA0, 0x140, 0⟩
  | 0x150 => ⟨0x16010003, 0, 0⟩
  | 0x154 => ⟨Config.dsn.toNat % 2 ^ 32, 0, 0⟩
  | 0x158 => ⟨Config.dsn.toNat / 2 ^ 32, 0, 0⟩
  | 0x160 => ⟨0x19010019, 0, 0⟩
  | 0x190 => ⟨0x1B010026, 0, 0⟩
  | 0x1B0 => ⟨0x1E010027, 0, 0⟩
  | 0x1E0 => ⟨0x2101002A, 0, 0⟩
  | 0x210 => ⟨0x22010025, 0, 0⟩
  | 0x220 => ⟨0x2301001E, 0, 0⟩
  | 0x224 => ⟨0x0028321F, 0, 0⟩
  | 0x228 => ⟨0, 0xFFFFFF0F, 0⟩
  | 0x22C => ⟨0, 0xFB, 0⟩
  | 0x230 => ⟨0x00010018, 0, 0⟩
  | 0x234 => ⟨0, 0x1FFF1FFF, 0⟩
  | _ => ⟨0, 0, 0⟩

/-- A configuration dword as it reads. Link Status carries the negotiated speed and width. -/
def State.cfgRead (s : State) (off : Nat) : Nat :=
  let v := s.cfgRaw off (cfgDw off).reset
  if off = 0x80 then v % 2 ^ 16 + 2 ^ 16 * (s.pr F.PCI_LINK_STS_SPEED + 16 * s.pr F.PCI_LINK_STS_WIDTH)
  else v

/-- Put a configuration dword. -/
def State.cfgPut (s : State) (off v : Nat) : State :=
  s.modFront fun f => { f with cfg := SMap.put f.cfg off (cfgDw off).reset (v % 2 ^ 32) }

/-- Set bits of a configuration dword, as hardware logs an error. -/
def State.cfgSet (s : State) (off bits : Nat) : State := s.cfgPut off (s.cfgRaw off (cfgDw off).reset ||| bits)

/-- A software write of a configuration dword, of the bytes of the mask `bytes`. -/
def State.cfgWrite (s : State) (off v : Nat) (bytes : Nat := 0xFFFFFFFF) : State :=
  let d := cfgDw off
  let old := s.cfgRaw off d.reset
  let mask := d.mask &&& bytes
  let kept := old - (old &&& mask)
  let cleared := (kept + (v &&& mask)) &&& (0xFFFFFFFF - (v &&& d.w1c &&& bytes))
  -- D1 and D2 are not supported: the power state keeps its value (Table 10-1)
  if off = 0x44 ∧ bytes % 2 = 1 ∧ (v % 4 = 1 ∨ v % 4 = 2) then s.cfgPut off (cleared - cleared % 4 + old % 4)
  else s.cfgPut off cleared

/-- The completion timeout in microseconds, 0 when disabled (Table 10-4). -/
def State.ctoUs (s : State) : Nat :=
  let v := s.cfgRaw 0x98 0
  if bitAt v 4 then 0
  else match v % 16 with
    | 1 => 100
    | 2 => 10000
    | 5 => 55000
    | 6 => 210000
    | 9 => 900000
    | 10 => 3500000
    | 13 => 13000000
    | 14 => 64000000
    | _ => 50000

/-! Bus Master Enable (R309, R310). -/

/-- BUS_MASTER_ENABLE_CLEAR: nothing new is issued; reads outstanding are discarded as they complete and will be issued
afresh; their commands stall (R309). -/
def bmeClear (s : State) : State :=
  if !s.bme then s
  else
    let live := s.front.reads.filter fun e => !e.2.dead
    let s1 := s.cfgPut 0x04 (s.cfgRaw 0x04 0x00100000 - 4)
    let s2 := s1.modFront fun f => { f with
      bmeStall := true, bmeOver := false, bmeSince := s.plat.time
      reads := f.reads.map fun e => (e.1, { e.2 with dead := true })
      readQ := (live.map fun e => { e.2 with got := [] }) ++ f.readQ }
    (s2.pw F.DMA_STS_STALLED 1).irq 0 0x0B 4

def execBusMasterEnableClear (s : State) : Res := .next (bmeClear s)

/-- BUS_MASTER_ENABLE_SET: within 100 ms what was held follows in its original order and discarded reads are issued
afresh (R310); after the stall has expired the stalled commands wait for a controller reset. -/
def bmeSet (s : State) : State :=
  if s.bme then s
  else
    let s1 := (s.cfgPut 0x04 (s.cfgRaw 0x04 0x00100000 + 4)).modFront fun f => { f with bmeStall := false }
    if s1.front.bmeOver then s1
    else
      let held := s1.front.held
      ({ (s1.modFront fun f => { f with held := [] }) with out := s1.out ++ held }.pw F.DMA_STS_STALLED 0).issueReads

def execBusMasterEnableSet (s : State) : Res := .next (bmeSet s)

/-- BME_EXPIRED: 100 ms without Bus Master Enable: CSTS.CFS and the interrupt (R310). -/
def execBmeExpired (s : State) : Res :=
  .next (if s.front.bmeStall then ((s.modFront fun f => { f with bmeOver := true }).irq 0 0x0B 5).setCfs else s)

/-! The link (R296, R313). -/

/-- The widest width of a list both partners support and the working lanes allow. -/
def bestOf (l : List Nat) (cap : Nat) : Nat := (l.filter (· ≤ cap)).foldl max 0

/-- LINK_TRAINING: the widest width and highest rate both partners support, within `LINK_CAP` and the lanes that work (R296,
R319). `partnerRates` are the codes 1 to 5. A width below what the partner and `LINK_CAP` allow is degraded; a rate other
than before is a speed change. -/
def linkTraining (partnerWidths partnerRates : List Nat) (workingLanes : Nat) (reversed : Bool) (s : State) : State :=
  if s.plat.porst ∨ s.plat.tripped ∨ s.plat.perstLow ∨ s.pr F.CLK_PLL_STS_PCIE = 0 then s
  else
    let ours := partnerWidths.filter fun w => [1, 2, 4, 8, 16].contains w
    let cap := s.pr F.PCI_LINK_CAP_MAX_WIDTH
    let want := bestOf ours cap
    let w := bestOf ours (min cap workingLanes)
    let v := bestOf (partnerRates.filter fun r => 1 ≤ r && r ≤ 5) (s.pr F.PCI_LINK_CAP_MAX_SPEED)
    if w = 0 ∨ v = 0 then s
    else
      let s1 := (s.modFront fun f => { f with inReset := false }).wrs 0 [(F.PCI_LINK_STS_SPEED, v), (F.PCI_LINK_STS_WIDTH, w), (F.PCI_LINK_STS_DL_UP, 1),
        (F.PCI_LINK_STS_REVERSED, b2n reversed), (F.PCI_LINK_STS_L1_STATE, 0)]
      let s2 := if s.pr F.PCI_LINK_STS_SPEED ≠ v then s1.irq 0 0x0B 1 else s1
      if w < want then s2.irq 0 0x0B 2 else s2

def execLinkTraining (partnerWidths partnerRates : List Nat) (workingLanes : Nat) (reversed : Bool) (s : State) : Res :=
  .next (linkTraining partnerWidths partnerRates workingLanes reversed s)

/-- L1_2_EXIT: the link leaves L1.2; the 50 MHz oscillator restarts (R396). -/
def execL12Exit (s : State) : Res := .next ((s.pw F.PCI_LINK_STS_L1_STATE 0).xoStart)

/-- MSIX_VECTOR_UNMASK: the vector's mask bit is cleared; a pending event's message is sent (R301). -/
def msixUnmask (v : Nat) (s : State) : State :=
  if v ≥ 96 then s
  else
    let m := s.tget .msix 0 (4 * v + 3)
    let s1 := s.tput .msix 0 (4 * v + 3) (m - m % 2)
    if SMap.get s1.front.pba v false && s1.msixOn then
      (s1.modFront fun f => { f with pba := SMap.erase f.pba v }).msix v
    else s1

def execMsixVectorUnmask (v : Nat) (s : State) : Res := .next (msixUnmask v s)

/-! The staging window (R299, R314 to R317). -/

/-- An access that cannot reach a frame: offset, kind and count, and the kind's interrupt (R317, Table 10-7). -/
def State.winErr (s : State) (ofs kind : Nat) (write : Bool) : State :=
  ((s.wrs 0 [(F.WIN_ERR_OFS, ofs), (F.WIN_ERR_KIND_KIND, kind), (F.WIN_ERR_KIND_WRITE, b2n write)]).incSat 0
    F.WIN_ERR_COUNT).irq 0 0x0C (kind - 1)

/-- A write to the frame of a window page, at DRAM address `a`. -/
def winStore (c : Fin 16) (ofs a : Nat) (data : List (Option Byte)) (s : State) : State :=
  let s1 := s.dramWrite c a data
  if s1.anyPoison c a data.length then s1.winErr ofs 4 true else s1

/-- The channel of an entry, where an access through it has to wait for the channel's wake (Table 10-7). A channel not yet powered up is met
as a fenced one (log 21). -/
def State.winWaits (s : State) (e : WinEntry) (write : Bool) : Option (Fin 16) :=
  (chan? e.chan).bind fun c =>
    if e.valid && !(write && e.wp) && (s.ch c).fence == 0 && (s.ch c).powered && (s.ch c).st == .bivouac then some c else none

/-- A write through an entry, once nothing keeps it waiting (Table 10-7). -/
def windowStore (ofs : Nat) (e : WinEntry) (data : List (Option Byte)) (s : State) : State :=
  if !e.valid then s.winErr ofs 1 true
  else if e.wp then s.winErr ofs 2 true
  else match chan? e.chan with
    | none => s
    | some c =>
      if (s.ch c).fence != 0 || !(s.ch c).powered then s.winErr ofs 3 true
      else winStore c ofs (winAddr e ofs) data s

/-- A read of the frame of a window page; poisoned data is completed with EP set. -/
def winLoad (c : Fin 16) (ofs a len : Nat) (s : State) : State :=
  let bad := s.anyPoison c a len
  let s1 := s.answer (.windowData (s.dramBytes c a len) bad)
  if bad then s1.winErr ofs 4 false else s1

/-- A read through an entry, once nothing keeps it waiting (Table 10-7). -/
def windowLoad (ofs : Nat) (e : WinEntry) (len : Nat) (s : State) : State :=
  let ones := List.replicate len (0xFF : Byte)
  if !e.valid then (s.answer (.windowData ones false)).winErr ofs 1 false
  else match chan? e.chan with
    | none => s
    | some c =>
      if (s.ch c).fence != 0 || !(s.ch c).powered then (s.answer (.windowData ones false)).winErr ofs 3 false
      else winLoad c ofs (winAddr e ofs) len s

/-- The entry a waiting access holds, and whether it is a write. -/
def WinAccess.entry : WinAccess → WinEntry × Bool
  | .read _ e _ => (winEntry e, false)
  | .write _ e _ => (winEntry e, true)

/-- Execute an access that waited. -/
def WinAccess.serve (a : WinAccess) (s : State) : State :=
  match a with
  | .read ofs e len => windowLoad ofs (winEntry e) len s
  | .write ofs e data => windowStore ofs (winEntry e) data s

/-- Execute the accesses that wait, in the order their headers arrived, up to one whose channel is still to wake (R307). -/
def State.pumpWindow (s : State) : List WinAccess → State
  | [] => s
  | a :: rest => match s.winWaits a.entry.1 a.entry.2 with
    | some c => (s.modFront fun f => { f with q4 := a :: rest }).startWake c 2
    | none => State.pumpWindow (a.serve s) rest

/-- An access to the window takes its place behind those that wait, if any do, or is executed (R307). -/
def State.windowAccess (s : State) (a : WinAccess) : State :=
  let behind := (s.front.q4.isEmpty == false) || (s.winWaits a.entry.1 a.entry.2).isSome
  if behind then
    let s1 := s.modFront fun f => { f with q4 := f.q4 ++ [a] }
    match s.winWaits a.entry.1 a.entry.2 with
    | some c => s1.startWake c 2
    | none => s1
  else a.serve s

/-- Whether a request of the host reaches the function at all. -/
def State.linkUp (s : State) : Bool :=
  !s.plat.porst && !s.plat.tripped && !s.front.inReset && s.pr F.CLK_PLL_STS_PCIE == 1

/-- WINDOW_WRITE (Table 10-7). A payload of more than 512 bytes is malformed (R302); one that no BAR claims is logged as Unsupported
Request. -/
def windowWrite (ofs : Nat) (data : List (Option Byte)) (s : State) : State :=
  if !s.linkUp then s
  else if data.length > 512 then s.cfgSet 0x104 0x40000
  else if !s.mse || s.front.flr then s.cfgSet 0x104 0x100000
  else s.windowAccess (.write ofs (s.tget .winActive 0 (ofs / 0x200000)) data)

def execWindowWrite (ofs : Nat) (data : List (Option Byte)) (s : State) : Res := .next (windowWrite ofs data s)

/-- WINDOW_READ (Table 10-7). One that no BAR claims completes as Unsupported Request. -/
def windowRead (ofs len : Nat) (s : State) : State :=
  if !s.linkUp then s
  else if !s.mse || s.front.flr then s.answer .unsupported
  else s.windowAccess (.read ofs (s.tget .winActive 0 (ofs / 0x200000)) len)

def execWindowRead (ofs len : Nat) (s : State) : Res := .next (windowRead ofs len s)

end Sys2Proof.Machine
end

