-- ==== Sys2Proof/Machine/Side.lean ====
section
/-! DEFINITION. The SMBus health readout and the GPIO pins (R477 to R480). -/

namespace Sys2Proof.Machine
open Sys2Proof

/-- The SMBus Packet Error Code: CRC-8 with polynomial 0x07 (SMBus specification, R478). -/
def crc8Step (crc : Nat) (b : Byte) : Nat :=
  (List.range 8).foldl (fun r _ => if r ≥ 128 then (r * 2) % 256 ^^^ 0x07 else r * 2) (crc ^^^ b.toNat)

/-- The PEC of a read of a command code: over both address bytes, the code and the data. -/
def smbPec (code : Byte) (data : List Byte) : Byte :=
  BitVec.ofNat 8 ((([0xD4, code, 0xD5] : List Byte) ++ data).foldl crc8Step 0)

/-- Whether the slave answers: always but during PORST# and while `SMB.CTL.EN` is 0 (R478, R480). -/
def State.smbOn (s : State) : Bool := !s.plat.porst && s.pr F.SMB_CTL == 1

/-- A read of a command code: the bytes, and `SMB.STS.READS` advances. -/
def State.smbRead (s : State) (code : Byte) (data : List Byte) : State :=
  if s.smbOn then (s.answer (.smbus data (smbPec code data))).incWrap 0 F.SMB_STS_READS else s

/-- The hottest of the three dies, signed 1/16 °C (R401). -/
def State.composite (s : State) : Int :=
  max (toSigned 16 (s.pr F.TMP_TEMP_PORT)) (max (toSigned 16 (s.pr F.TMP_TEMP_A)) (toSigned 16 (s.pr F.TMP_TEMP_B)))

/-- Fences closed with causes 2 to 8, one bit per channel (R475). -/
def State.fenceFaults (s : State) : Nat := s.chMask fun x => 2 ≤ x.fence

/-- STATUS of code 0x03 (Table 16-13). -/
def State.smbStatus (s : State) : Nat :=
  b2n (s.pr F.TMP_STS_LEVEL != 0) + 2 * b2n s.plat.alertPfw + 4 * s.pr F.TMP_STS_TRIPPED
    + 8 * b2n (s.fenceFaults != 0) + 16 * b2n s.front.cfs + 32 * s.pr F.BOOT_STS_HALT
    + 64 * s.pr F.GMON_FE_STS_STANDBY_RETIRED

/-- ALERT_N is asserted while any of STATUS [2:0] is 1 (R479). -/
def State.alert (s : State) : Bool := s.smbStatus % 8 != 0

def execSmbVendorId (s : State) : Res := .next (s.smbRead 0x00 (leBytes 2 0x1E9A))
def execSmbDeviceId (s : State) : Res := .next (s.smbRead 0x01 (leBytes 2 0x3216))
def execSmbSiliconRevision (s : State) : Res := .next (s.smbRead 0x02 (leBytes 1 (s.pr F.GBL_REV_SILICON)))
/-- A read of code 0x03 clears bit 1's latch (R479). -/
def execSmbStatus (s : State) : Res :=
  .next (if s.smbOn then
    let s1 := s.smbRead 0x03 (leBytes 1 s.smbStatus)
    { s1 with plat := { s1.plat with alertPfw := false } }
  else s)
def execSmbCompositeTemperature (s : State) : Res := .next (s.smbRead 0x04 (leBytes 2 (ofSigned 16 s.composite)))
def execSmbThermalLevel (s : State) : Res := .next (s.smbRead 0x05 (leBytes 1 (s.pr F.TMP_STS_LEVEL)))
def execSmbFencesClosed (s : State) : Res := .next (s.smbRead 0x06 (leBytes 2 (s.chMask fun x => x.fence != 0)))
def execSmbChannelsInBivouac (s : State) : Res :=
  .next (s.smbRead 0x07 (leBytes 2 (s.chMask fun x => x.st == .bivouac)))
/-- Channels with a disc mounted: those whose disc stays mounted, in host-lost mode and KEYS LOST too. -/
def execSmbChannelsMounted (s : State) : Res :=
  .next (s.smbRead 0x08 (leBytes 2 (s.chMask fun x => x.active)))
def execSmbDiscPresent (s : State) : Res :=
  .next (s.smbRead 0x09 (leBytes 2 (allChans.foldl (fun a c => a + 2 ^ c.val * s.cr c F.CHN_STS_DISC_PRESENT) 0)))
def execSmbBoot (s : State) : Res :=
  .next (s.smbRead 0x0A (leBytes 1 (s.pr F.BOOT_STS_SLOT + 8 * s.pr F.BOOT_STS_FALLBACK + 16 * s.pr F.BOOT_STS_HALT)))
/-- `RST.CAUSE` [6:0] (Table 13-11). -/
def State.rstCause (s : State) : Nat :=
  s.pr F.RST_CAUSE_PIN + 2 * s.pr F.RST_CAUSE_BROWNOUT + 4 * s.pr F.RST_CAUSE_RAIL + 32 * s.pr F.RST_CAUSE_PLL
    + 64 * s.pr F.RST_CAUSE_XO
def execSmbResetCause (s : State) : Res := .next (s.smbRead 0x0B (leBytes 1 s.rstCause))
def execSmbFrontEnd (s : State) : Res :=
  .next (s.smbRead 0x0C (leBytes 2 (b2n s.front.rdy + 2 * b2n s.front.cfs + 4 * b2n s.front.pp)))
/-- Block reads carry their byte count first (SMBus Block Read). -/
def execSmbBundleVersion (s : State) : Res :=
  .next (s.smbRead 0x10 (8 :: (leBytes 4 (s.pr F.FEC_VER_LO) ++ leBytes 4 (s.pr F.FEC_VER_HI))))
def execSmbSerialNumber (s : State) : Res := .next (s.smbRead 0x11 (8 :: leBytes 8 Config.dsn.toNat))
/-- Any other code returns 0xFF for each byte read (R478). -/
def execSmbUnknownCode (code : Byte) (len : Nat) (s : State) : Res :=
  .next (s.smbRead code (List.replicate len 0xFF))
/-- The address and the command byte of a write are acknowledged; every data byte is left unacknowledged, without effect. -/
def execSmbWrite (_code : Byte) (data : List Byte) (s : State) : Res :=
  .next (if s.smbOn then data.foldl (fun s _ => s.answer .smbusNack) s else s)
/-- The bus is released after 25 ms of clock low: TIMEOUTS and the interrupt (R478, R480). -/
def execSmbClockLowTimeout (s : State) : Res :=
  .next (if s.smbOn then (s.incSat 0 F.SMB_STS_TIMEOUTS).irq 0 0x1B 0 else s)

/-! GPIO (R477). -/

/-- Whether a pin drives: OUT_EN, unless it is the early-warning input in use. -/
def State.gpioDrives (s : State) (n : Nat) : Bool :=
  !s.plat.porst && bitAt (s.pr F.GPIO_DIR) n &&
    !(s.pr F.PWR_PFW_CTL_EN == 1 && s.pr F.PWR_PFW_CTL_GPIO == n)

/-- The filtered level of a pin, outputs included. -/
def State.gpioLevel (s : State) (n : Nat) : Bool :=
  if s.gpioDrives n then bitAt (s.pr F.GPIO_OUT) n else bitAt s.plat.gpioIn n

/-- `GPIO.IN`. -/
def State.gpioIn (s : State) : Nat := (List.range 16).foldl (fun a n => a + 2 ^ n * b2n (s.gpioLevel n)) 0

/-- The enabled edges between two readings of the pins raise their `IRQ_RAW` bits. -/
def State.gpioEdges (s : State) (before : Nat) : State :=
  (List.range 16).foldl (fun t n =>
    let was := bitAt before n
    let now := s.gpioLevel n
    if (!was && now && bitAt (s.pr F.GPIO_EDGE_RISE) n) || (was && !now && bitAt (s.pr F.GPIO_EDGE_FALL) n) then
      t.irq 0 0x1A n
    else t) s

/-- GPIO_EDGE: the level outside a pin changes, past the 1 µs filter (R493). -/
def gpioEdge (pin : Fin 16) (level : Bool) (s : State) : State :=
  let before := s.gpioIn
  let g := s.plat.gpioIn
  let g' := if bitAt g pin.val = level then g else if level then g + 2 ^ pin.val else g - 2 ^ pin.val
  let s1 := { s with plat := { s.plat with gpioIn := g' } }
  if s.plat.porst then s1 else s1.gpioEdges before

def execGpioEdge (pin : Fin 16) (level : Bool) (s : State) : Res := .next (gpioEdge pin level s)

end Sys2Proof.Machine
end

