-- ==== Sys2Proof/Machine/Channel.lean ====
section
/-! DEFINITION. A channel's firmware sequences over time (Unmount, Seal, shutdown, host-lost mode), its fence, parking, resets, KEYS
LOST, and what closes them (R11 to R15, R178 to R185, R312, R340, R341, R354, R398, R427 to R429, R441 to R444). -/

namespace Sys2Proof.Machine
open Sys2Proof

/-! Commands that wait for commits (R332, R335, R428). -/

/-- A command waits for commits on no channel any more: it completes. A Write that completes is counted. -/
def State.settleWait (s : State) (k : Nat) : State :=
  if allChans.any fun c => (s.ch c).wr.waits.any fun w => w.slot == k then s
  else
    let write := (s.slot? k).elim false fun c => c.opcode == 0x01 && c.live
    (if write then s.modSmart ((s.slot? k).bind fun c => c.chan.bind chan?) fun m => { m with writes := m.writes + 1 } else s).finish k stSuccess

/-- Whether a wait has ended: none of its blocks is staged. A Flush waits on while the channel is in KEYS LOST (R428). -/
def State.waitOver (s : State) (c : Fin 16) (x : CommitWait) : Bool :=
  !((s.ch c).wr.blocks.any fun b => x.lo ≤ b.id && b.id < x.hi)
    && !((s.ch c).keysLost && (s.slot? x.slot).elim false fun k => k.opcode == 0x00)

/-- Complete the commands whose blocks have all been committed. -/
def State.settleWaits (s : State) (c : Fin 16) : State :=
  let done := (s.ch c).wr.waits.filter (s.waitOver c)
  let s1 := s.modWr c fun w => { w with waits := w.waits.filter fun x => !done.contains x }
  done.foldl (fun (s : State) (x : CommitWait) => s.settleWait x.slot) s1

/-! The sequences. -/

/-- The spindle is given STOP where it turns. -/
def State.stopSpindle (s : State) (c : Fin 16) : State :=
  if [1, 3, 4, 5, 6].contains (s.spinSt c) then spinStop c s else s

/-- The spindle has come to rest. -/
def State.spindleDown (s : State) (c : Fin 16) : Bool := s.spinSt c == 0 || s.spinSt c == 8

/-- The namespace becomes inactive (R340 step 5). -/
def State.inactive (s : State) (c : Fin 16) : State :=
  if !(s.ch c).active then s else (s.modCh c fun x => { x with active := false }).nsChanged c

/-- R429: what remains staged is discarded and logged with reason 5. -/
def State.loseStaged (s : State) (c : Fin 16) : State :=
  let lbas := (s.ch c).wr.blocks.map (·.lba)
  let s1 := lbas.foldl (fun (s : State) (l : Nat) => s.logLost c 0 (some l) 5) s
  s1.modWr c fun w => w.cleared

/-- Change the first sequence. -/
def State.modProc (s : State) (c : Fin 16) (f : Proc → Proc) : State :=
  s.modCh c fun x => { x with procs := match x.procs with
    | p :: ps => f p :: ps
    | [] => [] }

/-- The first sequence is over. -/
def State.dropProc (s : State) (c : Fin 16) : State := s.modCh c fun x => { x with procs := x.procs.drop 1 }

/-- The command a sequence runs for completes. -/
def State.procFinish (s : State) (c : Fin 16) (p : Proc) (st : Status) : State :=
  (match p.slot with
   | some k => s.finish k st
   | none => s).dropProc c

/-- The anchor reason of a sequence (Table 2-12). -/
def ProcKind.reason : ProcKind → Nat
  | .unmount _ _ => 2
  | .seal _ => 3
  | .shutdown => 2
  | .hostLost => 4

/-- Whether all that must reach the media has: nothing staged, and nothing of commands already at the channel outstanding. In KEYS LOST
the clusters already committed are written (R428). -/
def State.drained (s : State) (c : Fin 16) (p : Proc) : Bool :=
  let w := (s.ch c).wr
  let calm := w.session == .idle && !(w.placed.any (·.begun))
  let staged := if (s.ch c).keysLost || (s.ch c).st == .mechStopped then calm else w.blocks.isEmpty && calm
  match p.kind with
  | .unmount _ _ => staged && (w.intake.isEmpty || (s.ch c).keysLost || (s.ch c).st == .mechStopped) && (s.ch c).rd.cmds.isEmpty
  | .hostLost => staged
  | _ => staged && w.intake.isEmpty

/-- The PAD clusters of a Seal (R341, Table 2-9): from the position at which the recorded extent ends to the end of the swath that holds
the last recorded cluster. -/
def State.padCount (s : State) (c : Fin 16) (d : Disc) : Nat :=
  if d.lastPcn = 0 || atSwathEnd d.lastPcn then 0 else swathEnd d.lastPcn + 1 - s.cr c F.WRC_WPTR

/-- Queue the PAD clusters. -/
def State.queuePads (s : State) (c : Fin 16) (n : Nat) (direct : Bool) : State :=
  s.modWr c fun w => { w with ready := w.ready ++ (List.replicate n (plainContent .pad [] [] direct)) }

/-- A sequence reaches its checkpoint: one already under way ends first. A checkpoint that cannot be written is passed over. -/
def State.procCkpt (s : State) (c : Fin 16) (p : Proc) : State :=
  let r := p.kind.reason
  let s1 := if (s.ch c).wr.ckpt.isSome then s.modWr c fun w => { w with ckptDue := some r } else s.startCheckpoint c r
  s1.modProc c fun p => { p with stage := .ckpt }

/-- The controller is enabled, and not shut down: what ends host-lost mode (R313, R354). -/
def State.hostBack (s : State) : Bool := s.front.rdy && s.front.shst != 2

/-- Host-lost mode is over: the disc stays mounted (R313). -/
def State.endHostLost (s : State) (c : Fin 16) : State :=
  let s1 := s.dropProc c
  if (s1.ch c).st = .hostLost then s1.setSt c .mounted else s1

/-- A drained sequence goes on. -/
def State.procDrained (s : State) (c : Fin 16) (p : Proc) : State :=
  match p.kind, (s.ch c).disc with
  | .hostLost, _ => if s.hostBack then s.endHostLost c else s.procCkpt c p
  | .seal _, some d =>
    let n := s.padCount c d
    if n = 0 then s.procCkpt c p else (s.queuePads c n d.direct).modProc c fun p => { p with stage := .pad }
  | .unmount _ _, _ =>
    if (s.ch c).keysLost then (s.loseStaged c).modProc c fun p => { p with stage := .ckpt } else s.procCkpt c p
  | _, _ => s.procCkpt c p

/-! The fence (R11 to R15, R441 to R443). -/

/-- The commands a channel holds end with Channel Quarantined; an Abort of one ends with DW0 bit 0 = 1 (R12, R351). -/
def State.endHeld (s : State) (c : Fin 16) (st : Status) : State :=
  let ks := s.heldSlots c
  let s1 := s.endCmds c ks st
  ks.foldl (fun (s : State) (k : Nat) => match s.slot? k with
    | some x => if x.cancel.isSome then cancelAnswer k (s.putSlot k { x with answer := some false }) else s
    | none => s) s1

/-- Every pending swap of a channel ends with CAUSE 6 (Table 16-5). -/
def State.endSwaps (s : State) (c : Fin 16) : State :=
  (regionPages (chRg c)).foldl (fun (s : State) (p : Nat) => s.endSwap (chRg c) p 6) (s.modCh c fun x => { x with calSwap := false })

/-- A write session ends as the fence closes: an orderly stop, code 4, at the next frame boundary. An event that had stopped it already, or
one of a lower code in the same cycle, keeps its code (R137). -/
def State.cutSession (s : State) (c : Fin 16) : State :=
  if (s.ch c).wr.session = .idle then s
  else
    let r := s.drawRow
    r.2.finishStop c r.1 ((s.ch c).wr.stopCode 4 s.plat.time) false

/-- Parking (R442): while the engine runs, the six actuator slots are commanded OPEN and ramp to code 0, the sled is released, and the
spindle is given STOP. -/
def State.park (s : State) (c : Fin 16) : State :=
  if s.cr c F.CLE_CTL = 0 ∨ s.cr c F.CLE_STS_FAULT = 1 ∨ !s.alive c then s
  else
    let s1 := ([0, 1, 2, 3, 4, 5] : List (Fin 7)).foldl (fun (s : State) (q : Fin 7) =>
      let s := ((s.seqBreak c q).cw c (F.SLT_STATE_SEQ q) 0)
      (if s.mode c q = 1 then s else s.enter c q 1 0).putQ c (F.SLT_MANUAL q) 0) s
    let s2 := if s1.sledSt c = 0 then s1 else s1.sledOff c 0
    s2.stopSpindle c

/-- A Channel Service operation ends, its DW0 the state code (R342). -/
def State.svcEnd (s : State) (c : Fin 16) (st : Status) : State :=
  match (s.ch c).svc with
  | none => s
  | some (k, _) => (s.modCh c fun x => { x with svc := none }).finish k st (s.ch c).st.code

/-! CSTS.RDY (R313, R322, R353, R386). -/

/-- Host-lost mode ends at a channel that idles in it or waits for its spindle (R313). -/
def State.leaveHostLost (s : State) (c : Fin 16) : State :=
  if (s.ch c).st ≠ .hostLost then s
  else match (s.ch c).procs with
    | [] => s.setSt c .mounted
    | p :: _ => if p.kind = .hostLost ∧ p.stage = .spinDown then s.endHostLost c else s

/-- CSTS.RDY is set once CC.EN is 1, the front end runs and no activation is under way: the admin queue pair is that of AQA, ASQ and ACQ,
namespaces that changed meanwhile are reported, and host-lost mode ends. -/
def State.becomeReady (s : State) : State :=
  if s.front.rdy || !bitAt s.cc 0 || !s.plat.feUp || s.front.inReset || s.front.flr || s.plat.porst || s.plat.tripped
      || s.front.cfs || s.sec.activating.isSome then s
  else
    let reg := fun o => SMap.get s.front.nvme o 0
    let was := s.front.wasActive
    let s1 := s.modFront fun f => { f with
      rdy := true, arb := 0, burst := 0
      sqs := SMap.insert f.sqs 0 ⟨reg 0x28 / 4096 * 4096, bitsAt (reg 0x24) 0 12 + 1, 0, 0, 0⟩
      cqs := SMap.insert f.cqs 0 ⟨reg 0x30 / 4096 * 4096, bitsAt (reg 0x24) 16 12 + 1, 0, 0, true, 0, true⟩ }
    let s2 := allChans.foldl (fun (s : State) (c : Fin 16) => if (s.ch c).active != bitAt was c.val then s.nsChanged c else s) s1.trialCleared
    allChans.foldl (fun (s : State) (c : Fin 16) => s.leaveHostLost c) s2

/-! Activation without PORST# (R355, R420). -/

/-- Every channel has switched: the standby pair takes over with the new image, and the Commit completes. -/
def State.actEnd (s : State) (k i : Nat) : State :=
  let s1 := match s.bundleAt (slotBase i) with
    | some b => s.runBundle i b
    | none => s
  let s2 := if s.pr F.GMON_FE_STS_STANDBY_READY = 1 then s1.pw F.GMON_FE_STS_ACTIVE_PAIR (1 - s.pr F.GMON_FE_STS_ACTIVE_PAIR) else s1
  let s3 := s2.modSec fun x => { x with activating := none, actBad := false }
  let s4 := if s3.front.rdy then s3.trialCleared else s3.becomeReady
  if k < 65536 then s4.commitDone k (if s.sec.actBad then stInternal else stSuccess) else s4

/-- The turn passes to the first channel from `n` on that is powered and not fenced, which ends its write session at a cluster boundary. -/
def State.actTurn (s : State) (n : Nat) : State :=
  match s.sec.activating with
  | none => s
  | some (k, i, _) =>
    match allChans.find? (fun c => n ≤ c.val && (s.ch c).fence == 0 && (s.ch c).powered) with
    | some c => (s.modSec fun x => { x with activating := some (k, i, c.val) }).endAtBoundary c
    | none => s.actEnd k i

/-- Activate slot `i` for the Commit in slot `k`: the event, the slot table (R418), then channel after channel. -/
def State.activate (s : State) (k i : Nat) : State :=
  let t := s.table.1
  let s1 := (s.event 2 1 0x03).putTable
    ⟨t.seq, i, if t.active = i then t.previous else t.active, 0, 0⟩
  (s1.modSec fun x => { x with activating := some (k, i, 0), actBad := false, actDue := none }).actTurn 0

/-- A channel faults during or after its switch: the Commit will end with Internal Error, and the turn passes on. -/
def State.actFault (s : State) (c : Fin 16) (cause : Nat) : State :=
  match s.sec.activating with
  | none => s
  | some (_, _, n) =>
    let s1 := if c.val ≤ n ∧ cause ≥ 2 then s.modSec fun x => { x with actBad := true } else s
    if c.val = n then s1.actTurn (n + 1) else s1

/-- Data of a channel's commands that has not been issued as a TLP yet is discarded (R12). -/
def State.dropHeld (s : State) (c : Fin 16) : State :=
  s.modFront fun f => { f with held := f.held.filter fun o => match o with
    | .memWrite _ _ (some n) => n != c.val
    | _ => true }

/-- The fence closes with a cause (Table 11-17 byte 2): the quarantine sequence up to parking. A fence already closed stays as it is,
but for a fault during RESTORE or RELOAD, which records the new cause (R444). -/
def State.closeFence (s : State) (c : Fin 16) (cause : Nat) : State :=
  if (s.ch c).fence != 0 then
    (match (s.ch c).svc with
     | some (_, op) => if op ≥ 3 then ((s.modCh c fun x => { x with fence := cause }).setSt c .isolated).svcEnd c stInternal else s
     | none => s)
  else
    let s1 := s.cutSession c
    let s2 := s1.modCh c fun x => { x with
      fence := cause, isolating := false, procs := [], waking := false, xf := none
      stagedAtFence := x.wr.blocks.length }
    let flushes := ((s2.ch c).wr.waits.map (·.slot)).eraseDups.filter fun k => !(s2.heldSlots c).contains k
    let s4 := (flushes.foldl (fun (s : State) (k : Nat) => (s.dropWaits k).finish k stQuarantined)
      (((s2.dropHeld c).setSt c .isolated).endHeld c stQuarantined)).endSwaps c
    let s5 := (s4.cirq c 0x00 3).inactive c
    let s6 := if cause ≥ 2 then
        (((((s5.irq 0 0x00 0).irq 0 0x18 3).incSat 0 F.GMON_QUAR).event 1 0 0x02).event 7 0 0xC0).wakeHost
      else s5
    let s7 := ((s6.park c).clearKey c).modWr c fun w => { w with ckpt := none, ckptDue := none, intake := [], waits := [], testRun := none, records := [] }
    let s8 := (s7.svcEnd c stSuccess).showKill c
    (s8.showSafe c).actFault c cause

/-- The steward core faults (R377, R400): the fence closes with cause 3 or 4. -/
def State.stewardFault (s : State) (c : Fin 16) (cause : Nat) : State :=
  (((s.wrs (chRg c) [(F.STW_STS_RUN, 0), (F.STW_STS_LAST_FAULT, cause)]).cirq c 0x01 0).closeFence c cause)

/-- PARKING_DONE (R442): the kill line is asserted. -/
def parkingDone (c : Fin 16) (s : State) : State :=
  if (s.ch c).fence = 0 then s else (s.assertKill c 33).showSafe c

def execParkingDone (c : Fin 16) (s : State) : HRes := .next (parkingDone c s)

/-- STEWARD_FENCE_REQUEST: the steward core asks for the fence, cause 2. -/
def execStewardFenceRequest (c : Fin 16) (s : State) : HRes :=
  .next (if s.alive c then s.closeFence c 2 else s)

/-- A CLE fault ends the engine's sequences: a sweep ends early, a jump has lost its slot (R168, R179, R181, R183). A Calibrate command the
sweep runs for is left to what the fault does to commands. -/
def State.endMotion (s : State) (c : Fin 16) : State :=
  ((((s.modServo c fun v => { v with sweep := v.sweep.map fun w => { w with cmd := none } }).sweepEnd c 3).jumpFail c 3).tjumpFail c 3)

/-- A CLE fault (R184): every slot OFF with cause 6, waiting commands dropped (R168), outputs to code 0, the spindle OFF and coasting, the sled without a request; the fence closes
with a cause. -/
def State.cleFaultAs (s : State) (c : Fin 16) (cause : Nat) : State :=
  if !s.alive c then s
  else
    let s0 := s.endMotion c
    let s1 := (List.finRange 7).foldl (fun (s : State) (q : Fin 7) =>
      ((s.overtake c q).enter c q 0 6).wrs (chRg c)
        [(F.SLT_OUT q, 0), (F.SLT_OUT_CODE q, 0), (F.SLT_STATE_SEQ q, 0), (F.SLT_STATE_FF_ACT q, 0)]) s0
    let s2 := ((s1.modServo c fun v => { Servo.off with reached := v.reached }).wrs (chRg c) [(F.CLE_STS_FAULT, 1), (F.CLE_STS_RUN, 0)]).cirq c 0x08 6
    let s3 := (s2.modSpin c fun x => { x with cmd := 0 }).spinRest c 0 false
    s3.closeFence c cause

/-- CLE_FAULT: cause 7. -/
def cleFault (c : Fin 16) (s : State) : State := s.cleFaultAs c 7

def execCleFault (c : Fin 16) (s : State) : HRes := .next (cleFault c s)

/-! The last stages. -/

/-- Unmount past its checkpoint (R340 steps 3 and 4, R502). -/
def State.procRelease (s : State) (c : Fin 16) (spin : Bool) : State :=
  let s1 := (s.forbidWrites c).clearKey c
  (if spin then s1 else s1.stopSpindle c).modProc c fun p => { p with stage := .spinDown }

/-- Unmount's last step: the namespace is inactive; an isolate then closes the fence (Table 11-8). -/
def State.procUnmounted (s : State) (c : Fin 16) (p : Proc) (isolate : Bool) : State :=
  let s1 := (((s.forgetDisc c).inactive c).procFinish c p stSuccess)
  let s2 := (s1.setSt c (if (s1.ch c).keysLost then .keysLost else .notMounted)).showSafe c
  if isolate then s2.closeFence c 1 else s2

/-- A sequence past its checkpoint goes on. -/
def State.procCkptDone (s : State) (c : Fin 16) (p : Proc) : State :=
  match p.kind with
  | .unmount spin _ => s.procRelease c spin
  | .shutdown => s.dropProc c
  | .hostLost => if s.hostBack then s.endHostLost c else (s.stopSpindle c).modProc c fun p => { p with stage := .spinDown }
  | .seal unmount =>
    if !((s.ch c).disc.elim false (·.sealed_)) then s.procFinish c p stInternal
    else
      let s1 := ((s.forbidWrites c).showDisc c).nsChanged c
      if unmount then (s1.setSt c .unmounting).modProc c fun p => { p with kind := .unmount false false, stage := .drain }
      else s1.procFinish c p stSuccess

/-- One stage of the first sequence, where it is over. -/
def State.procStep (s : State) (c : Fin 16) : State :=
  match (s.ch c).procs with
  | [] => s
  | p :: _ =>
    match p.stage with
    | .drain =>
      let s1 := s.modWr c fun w => { w with forceTo := w.nextBlock }
      if s1.drained c p then s1.procDrained c p else s1
    | .pad =>
      let w := (s.ch c).wr
      if w.ready.any (fun k => k.kind == .pad) || w.placed.any (fun q => q.content.kind == .pad) then s else s.procCkpt c p
    | .ckpt => if (s.ch c).wr.ckpt.isNone && (s.ch c).wr.ckptDue.isNone then s.procCkptDone c p else s
    | .spinDown =>
      if !s.spindleDown c && (match p.kind with
        | .unmount spin _ => !spin
        | _ => true) then s
      else match p.kind with
        | .unmount _ isolate => s.procUnmounted c p isolate
        | .hostLost => if s.hostBack then s.endHostLost c else s.dropProc c
        | _ => s.dropProc c

/-- A normal shutdown is complete once every command in a slot has completed and every channel has done its part (R354). -/
def State.checkShutdown (s : State) : State :=
  if !s.front.shutting || s.front.slots.any (fun e => e.2.live && !(e.2.isAdmin && e.2.opcode == 0x0C))
      || allChans.any (fun c => (s.ch c).procs.any fun p => p.kind == .shutdown) then s
  else s.modFront fun f => { f with shutting := false, shst := 2 }

/-- Move a channel's firmware sequences on as far as they go. -/
def State.progress (s : State) (c : Fin 16) : State :=
  if (s.ch c).fence != 0 || !s.alive c then s
  else
    let s1 := ((((s.settleWaits c).fuaReads c).failPassed c).putRecords c).ckptAdvance c
    let s2 := match (s1.ch c).wr.ckpt, (s1.ch c).wr.ckptDue with
      | none, some r => if !s1.running (chRg c) 0x40 then s1 else (s1.modWr c fun w => { w with ckptDue := none }).startCheckpoint c r
      | _, _ => s1
    (((List.replicate 6 ()).foldl (fun (s : State) _ => s.procStep c) s2)).checkShutdown

/-- A sequence is queued for a channel. -/
def State.startProc (s : State) (c : Fin 16) (k : ProcKind) (slot : Option Nat) : State :=
  (s.modCh c fun x => { x with procs := x.procs ++ [⟨k, slot, .drain⟩] }).progress c

/-! Commands after which a sequence may move on. -/

/-- VERIFY_VERDICT (R132 to R136): blocks of the cluster may now be committed. -/
def execVerifyVerdict (c : Fin 16) (signals : List (List Nat)) (s : State) : HRes := .next (s.whileRunning (chRg c) 0x33 fun s => (verdict c signals s).progress c)

def execCheckpointDone (c : Fin 16) (s : State) : HRes := .next ((checkpointDone c s).progress c)

def execStopped (c : Fin 16) (s : State) : HRes := .next ((spinStopped c s).progress c)

/-- CHECKPOINT_DUE (R254): the interval or the replay estimate is reached. Neither applies to a Direct disc. -/
def checkpointDue (c : Fin 16) (s : State) : State :=
  match (s.ch c).disc with
  | none => s
  | some d =>
    let due := (s.ch c).wr.since ≥ s.cr c F.MAP_CKPT_CTL_INTERVAL * 2 ^ 30 || s.replayMs c ≥ 1000 * s.cr c F.MAP_CKPT_CTL_EST_LIMIT
    if d.direct || !due || !(s.ch c).active || (s.ch c).wr.ckpt.isSome then s else (s.startCheckpoint c 1).progress c

def execCheckpointDue (c : Fin 16) (s : State) : HRes := .next (checkpointDue c s)

/-- CHECKPOINT_NOW: `MAP.CTL.CKPT_NOW` (R254). -/
def checkpointNow (c : Fin 16) (s : State) : State :=
  if !(s.ch c).active then s else (s.startCheckpoint c 1).progress c

def execCheckpointNow (src : Src) (c : Fin 16) (s : State) : HRes :=
  .next (s.gated src (chRg c) 0x40 0x100 2 (checkpointNow c))

/-! Channel reset (R398, R185). -/

/-- What a channel reset leaves in registers (R398): the named header registers, the CHN page's always-on fields (R14), what `DRC.STS` says
of the DRAM, and with `telemetry` what R454 keeps. -/
def resetKeeps (telemetry : Bool) (page off : Nat) : Bool :=
  [0x020, 0x024, 0x028, 0x030, 0x038].contains off
    || (page == 0x00 && [0x010, 0x014, 0x100, 0x104].contains off) || (page == 0x48 && off == 0x100)
    || (telemetry && (page == 0x58 || page == 0x59 || (page == 0x49 && off == 0x104)))

/-- A channel reset: every slot OFF, the spindle OFF, the kill line asserted, the pages at their reset values, pending swaps ended with
CAUSE 6, staged blocks discarded. -/
def State.channelReset (s : State) (c : Fin 16) (telemetry : Bool) : State :=
  let rg := chRg c
  let s0 := (s.endSwaps c).resetFields rg fun p o => !resetKeeps telemetry p o
  let s1 : State := { s0 with flyHeld := s0.flyHeld.filter fun h => h.1 != rg, groups := SMap.erase s0.groups rg }
  let s2 := (regionPages rg).foldl (fun (s : State) (p : Nat) => s.wr rg (F.HDR_SET_STS_SYNCING p) 0) s1
  let s3 := ([Tbl.ff, .commutation, .eqCoef, .pdelta, .capture] ++ (if telemetry then [] else [Tbl.counter, Tbl.hist, Tbl.snap])).foldl
    (fun (s : State) (t : Tbl) => s.tclear t rg) s2
  let fence := (s.ch c).fence
  let s4 := s3.modCh c fun x => { x with
    disc := none, mounting := none, xtsKey := none, calSwap := false, implTimes := [], implCount := 0, keysLost := false, waking := false
    isolating := false, procs := [], xf := none
    wr := { WriteChain.off with killWhy := if fence != 0 then [33, 34] else [34] }
    map := MapState.off, rd := ReadPath.off, servo := Servo.off, spin := Spin.off, sled := Sled.off, cal := Cal.off }
  (s4.wrs rg [(F.LDI_STS_KILL_LATCH, 1), (F.LDI_STS_KILL_PIN, 1)]).showSafe c

/-- The channel's steward core runs the verified image of the active slot (Table 13-3 step 7, R420). -/
def State.stewardRuns (s : State) (c : Fin 16) (b : Bundle) : State :=
  let v := b.compVersion 2
  -- the low 16 bits are those of the version's bytes 0 and 1 (R413; DEDUCED, log 17)
  (s.modCh c fun x => { x with cleVer := b.compVersion 3 }).wrs (chRg c) [(F.STW_STS_RUN, 1), (F.STW_STS_STOPPED, 0),
    (F.STW_FW_VER_LO, leNat (v.take 4)), (F.STW_FW_VER_HI, leNat (v.drop 4)), (F.CLE_STS_UCODE, leNat ((b.compVersion 3).take 2))]

/-! KEYS LOST and zeroization (R427, R428). -/

/-- Whether zeroization takes a channel into KEYS LOST (R428). The disc of a quarantined channel is no longer mounted (R441). -/
def Chan.losesKeys (x : Chan) : Bool :=
  match x.disc with
  | some d => x.fence == 0 && (d.keyed || d.wantKey.isSome)
  | none => false

/-- Zeroization for a cause (Table 14-6): every channel's key pair, then the archive keys; affected channels enter KEYS LOST. -/
def State.zeroize (s : State) (cause : Nat) : State :=
  let hit := allChans.filter fun c => (s.ch c).losesKeys
  let s1 := allChans.foldl (fun (s : State) (c : Fin 16) => s.clearKey c) s
  let s2 := (s1.modSec fun x => { x with keys := [] }).showKeys
  let s3 := ((s2.pw F.SEC_STS_CAUSE cause).incSat 0 F.SEC_ZERO_COUNT).irq 0 0x10 0
  let s4 := hit.foldl (fun (s : State) (c : Fin 16) =>
    let s1 := s.modCh c fun x => { x with keysLost := true }
    let s2 := if (s1.ch c).mounting.isSome then s1.mountFails c stKeyRequired else s1
    s2.setSt c .keysLost) s3
  if hit.isEmpty then s4 else s4.event 7 3 0xC0

end Sys2Proof.Machine
end

