-- ==== Sys2Proof/Machine/Io.lean ====
section
/-! DEFINITION. Read, Verify, Media Probe, Write and Flush at a channel, the media scheduler, cancel requests and command time limits
(R19 to R22, R178, R247, R330 to R338, R348, R351, R449). -/

namespace Sys2Proof.Machine
open Sys2Proof

/-- Whether a channel works on the commands it holds: powered, its fence open, awake, and not in host-lost mode (R313). -/
def State.servable (s : State) (c : Fin 16) : Bool :=
  s.alive c && !s.switching c && (s.ch c).fence == 0 && !(s.ch c).waking && match (s.ch c).st with
    | .bivouac | .hostLost | .isolated | .poweredDown | .restoring => false
    | .notMounted | .mounting | .mounted | .unmounting | .keysLost | .mechStopped => true

/-- The I/O command of that opcode in slot `k`, routed to a channel that works on commands and has not taken it up yet. -/
def State.ioCmd? (s : State) (k op : Nat) : Option (CmdSlot × Fin 16) :=
  match s.cmd? k false op with
  | none => none
  | some x => match x.chan.bind chan? with
    | none => none
    | some c => if s.servable c && !(s.mediaSlots c).contains k then some (x, c) else none

/-- The blocks of a namespace (R242; Table 2-10 for a Direct disc). -/
def State.nsze (s : State) (c : Fin 16) : Nat :=
  match (s.ch c).disc with
  | some d => if d.direct then 873740672 else 2147483648
  | none => 2147483648

/-- SLBA and the block count of Read, Write and Verify (R330). -/
def CmdSlot.slba (x : CmdSlot) : Nat := x.dw 10 + 2 ^ 32 * x.dw 11
def CmdSlot.blocks (x : CmdSlot) : Nat := bitsAt (x.dw 12) 0 16 + 1

/-- The status of R330 and R178 a Read, Write or Verify fails with, if any. -/
def State.ioRefused (s : State) (x : CmdSlot) (c : Fin 16) : Option Status :=
  if (s.ch c).st = .mechStopped then some stServo
  else if x.slba + x.blocks > s.nsze c then some stLbaRange
  else if x.blocks > 1024 ∨ bitsAt (x.dw 12) 26 4 ≠ 0 ∨ bitsAt (x.dw 12) 20 4 ≠ 0 then some stInvalidField
  else none

/-! Reads. -/

/-- A Read or Verify is taken up (R333, R334). -/
def readCommand (s : State) (k : Nat) (x : CmdSlot) (c : Fin 16) (kind : ReadKind) : State :=
  match s.ioRefused x c with
  | some st => s.finish k st
  | none =>
    if kind == .read && !s.pointersOk x true then s.refusePointer k x
    else
      let q : ReadCmd := ⟨k, kind, x.slba, x.blocks, bitAt (x.dw 12) 31, none, [], false, [], []⟩
      s.startRead c q (bitAt (x.dw 12) 30)

def execRead (k : Nat) (s : State) : Res :=
  .next (match s.ioCmd? k 0x02 with
    | some (x, c) => readCommand s k x c .read
    | none => s)

def execVerify (k : Nat) (s : State) : Res :=
  .next (match s.ioCmd? k 0x0C with
    | some (x, c) => readCommand s k x c .verify
    | none => s)

/-- A Media Probe is taken up (R348). A first PCN whose run passes the disc's last cluster is an Invalid Field. -/
def probeCommand (s : State) (k : Nat) (x : CmdSlot) (c : Fin 16) : State :=
  let byPcn := bitAt (x.dw 10) 0
  let n := bitsAt (x.dw 12) 0 10 + 1
  if (s.ch c).st = .mechStopped then s.finish k stServo
  else if byPcn && x.dw 11 + n > discClusters then s.finish k stInvalidField
  else if !byPcn && x.dw 11 + n > s.nsze c then s.finish k stLbaRange
  else if !s.pointersOk x true then s.refusePointer k x
  else
    let q : ReadCmd := ⟨k, .probe, if byPcn then 0 else x.dw 11, if byPcn then 0 else n, !bitAt (x.dw 10) 1, none, [], byPcn,
      if byPcn then (List.range n).map (x.dw 11 + ·) else [], []⟩
    s.startRead c q false

def execMediaProbe (k : Nat) (s : State) : Res :=
  .next (match s.ioCmd? k 0x84 with
    | some (x, c) => probeCommand s k x c
    | none => s)

/-- MISS_WALK_RETURN (R266). -/
def execMissWalkReturn (c : Fin 16) (granule : Nat) (s : State) : Res :=
  .next (s.whileRunning (chRg c) 0x41 fun s => if s.servable c then missReturn c granule s else s)

/-! Writes (R20, R21, R247, R331). -/

/-- A command's blocks as pieces of at most 256 (R107). -/
def pieceSizes (n : Nat) : List Nat := List.replicate (n / 256) 256 ++ (if n % 256 = 0 then [] else [n % 256])

/-- The records a piece of `n` blocks reserves (R247). -/
def pieceRecords (n : Nat) : Nat := (n + 14) / 15 + 4

/-- The records a command reserves. -/
def commandRecords (n : Nat) : Nat := ((pieceSizes n).map pieceRecords).sum

/-- Records reserved: by pieces with a staged block, and by writes admitted and not yet staged (`MAP.REC_RSVD`). -/
def State.recReserved (s : State) (c : Fin 16) : Nat :=
  ((s.ch c).wr.pieces.map (·.2)).sum + ((s.ch c).wr.intake.map fun i => commandRecords i.n).sum

/-- The admission pointer of a Direct disc (R56). -/
def State.admission (s : State) (c : Fin 16) (d : Disc) : Nat := d.nextLba + ((s.ch c).wr.intake.map (·.n)).sum

/-- User-area clusters that blocks take stored raw: 15 to a cluster, or 16 on a Direct disc. -/
def rawClusters (direct : Bool) (n : Nat) : Nat := if direct then (n + 15) / 16 else (n + 14) / 15

/-- Whether the capacity test of Table 11-6 lets `n` more blocks in. -/
def State.roomFor (s : State) (c : Fin 16) (d : Disc) (n : Nat) : Bool :=
  let used := (s.ch c).map.recs.length
  let need := rawClusters d.direct n + 2 * ((used + 4095) / 4096) + 1024
  need + rawClusters d.direct (s.ch c).wr.blocks.length ≤ userBeyond (s.cr c F.WRC_WPTR)

/-- The status of Table 11-6 a write of `n` blocks from `slba` on fails with: the first that applies. -/
def State.writeRefused (s : State) (c : Fin 16) (d : Disc) (slba n : Nat) : Option Status :=
  if d.sealed_ then some stSealed
  else if d.roMount || d.roDisc then some stWriteProtected
  else if d.direct ∧ slba < s.admission c d then some stDirectRewrite
  else if d.direct ∧ slba > s.admission c d then some stLbaRange
  else if !d.direct ∧ recTotal - (s.ch c).map.recs.length < s.recReserved c + commandRecords n then some stMapCapacity
  else if !s.roomFor c d n then some stCapacity
  else if d.anchorsLeft ≤ 64 then some stCapacity
  else if (d.revision = 0 ∨ d.owesKey) ∧ !d.identRoom then some stCapacity
  else if d.keyed ∧ (s.ch c).xtsKey.isNone then some stAccessDenied
  else none

/-- Blocks of write buffer in use or reserved. -/
def State.wbUsed (s : State) (c : Fin 16) : Nat :=
  (s.ch c).wr.blocks.length + (((s.ch c).wr.intake.filter (·.granted)).map (·.n)).sum

/-- Whether the channel's write operation is queued or can be (R324). -/
def State.opRoom (s : State) (c : Fin 16) : Bool := 
  decide ((s.ch c).rd.ops.length < 4096) || decide ((s.ch c).rd.ops.length < s.opsTaken c)

/-- Whether the buffer has space for `n` more blocks within `SCH.WB.WB_MAX` (R338). -/
def State.wbRoom (s : State) (c : Fin 16) (n : Nat) : Bool :=
  decide (s.wbUsed c + n ≤ 256 * s.cr c F.SCH_WB_WB_MAX) && s.opRoom c

/-- Data arrives for a command at a byte offset of its transfer. -/
def State.addData (s : State) (k ofs : Nat) (data : List Byte) : State :=
  match s.slot? k with
  | some x => s.putSlot k { x with data := x.data ++ [(ofs, data)] }
  | none => s

/-- Start the reads of a command's data: pieces in the device's own window at once, and without a tag (R306), the others as requests
split at MRRS and 4 KiB (R303). The answer says whether a poisoned word of the window was met. -/
def State.fetchData (s : State) (k : Nat) (x : CmdSlot) (c : Fin 16) : Bool × State :=
  let cut := min s.mrrs 4096
  let r := x.pieces.foldl (fun (acc : Nat × Bool × State) (p : Nat × Nat) =>
    let (ofs, bad, s) := acc
    if inBar4 x.bar4 p.1 then
      let a := winAddr (s.winPage ((p.1 - x.bar4) / 0x200000)) ((p.1 - x.bar4) % 0x200000)
      if s.anyPoison c a p.2 then (ofs + p.2, true, s)
      else (ofs + p.2, bad, (s.addData k ofs (s.dramBytes c a p.2)).incSat 0 F.DMA_INTERNAL)
    else
      let rs := (splitAt cut (p.2 / cut + 2) p.1 p.2).map fun (q : Nat × Nat) =>
        (⟨k, c.val, q.1, ofs + (q.1 - p.1), q.2, [], s.plat.time, false⟩ : ReadReq)
      (ofs + p.2, bad, s.modFront fun f => { f with readQ := f.readQ ++ rs })) (0, false, s)
  (r.2.1, r.2.2.issueReads)

/-- A write admitted and not yet staged ends: on a Direct disc every later one that is not yet staged fails (R56). -/
def State.dropIntake (s : State) (c : Fin 16) (k : Nat) (st : Option Status) : State :=
  let direct := ((s.ch c).disc.map (·.direct)).getD false
  let later := if direct then (((s.ch c).wr.intake.dropWhile (·.slot != k)).drop 1).map (·.slot) else []
  let s1 := s.dropCmds c [k]
  let s2 := match st with
    | some st => s1.finish k st
    | none => s1
  s2.endCmds c later stLbaRange

/-- A write's data could not be moved in: none of its blocks is staged (R305, Table 12-4). -/
def State.intakeFails (s : State) (c : Fin 16) (k cause addr : Nat) : State :=
  (s.xferErr k c.val cause addr).dropIntake c k (some stDataTransfer)

/-- Space is granted to a write: its data is read. -/
def State.grant (s : State) (c : Fin 16) (k : Nat) : State :=
  match s.slot? k with
  | none => s
  | some x =>
    let s1 := s.modWr c fun w => { w with intake := w.intake.map fun i => if i.slot == k then { i with granted := true } else i }
    let r := s1.fetchData k x c
    if r.1 then r.2.intakeFails c k 3 ((x.pieces.find? fun p => inBar4 x.bar4 p.1).elim 0 (·.1)) else r.2

/-- A Write is taken up: admitted, and given buffer space in the order of arrival; without space it waits (R21, R331). -/
def writeCommand (s : State) (k : Nat) (x : CmdSlot) (c : Fin 16) : State :=
  match s.ioRefused x c, (s.ch c).disc with
  | some st, _ => s.finish k st
  | none, none => s.finish k stNotMounted
  | none, some d =>
    if !s.pointersOk x false then s.refusePointer k x
    else match s.writeRefused c d x.slba x.blocks with
      | some st =>
        let s1 := if st = stMapCapacity then s.cirq c 0x40 2
          else if st = stAccessDenied then (s.incSat (chRg c) F.XTS_DENIED).cirq c 0x39 0 else s
        s1.finish k st
      | none =>
        let room := s.wbRoom c x.blocks && !(s.ch c).wr.intake.any (!·.granted)
        let i : Intake := ⟨k, x.slba, x.blocks, bitAt (x.dw 12) 30, false⟩
        let s1 := s.modWr c fun w => { w with intake := w.intake ++ [i] }
        if room then s1.grant c k else s1.cirq c 0x60 1

def execWrite (k : Nat) (s : State) : Res :=
  .next (match s.ioCmd? k 0x01 with
    | some (x, c) => writeCommand s k x c
    | none => s)

/-- WRITE_BUFFER_WAIT_END: the first write waiting for space gets it (R21). -/
def bufferWaitEnd (k : Nat) (s : State) : State :=
  match (s.slot? k).bind fun x => x.chan.bind chan? with
  | none => s
  | some c =>
    match (s.ch c).wr.intake.find? (!·.granted) with
    | some i => if i.slot == k && s.servable c && s.wbRoom c i.n then s.grant c k else s
    | none => s

def execWriteBufferWaitEnd (k : Nat) (s : State) : Res := .next (bufferWaitEnd k s)

/-- The data that has arrived for a command, in order. -/
def CmdSlot.bytes (x : CmdSlot) : List Byte := ((x.data.mergeSort fun a b => a.1 ≤ b.1).map (·.2)).flatten

/-- Volatile Write Cache is enabled (feature 0x06). -/
def State.vwc (s : State) : Bool := s.feat 0x06 % 2 == 1

/-- A write's blocks as they are staged: numbered, timed, with their CRC-32C (R20). -/
def stagedBlocks (w : WriteChain) (i : Intake) (bytes : List Byte) (now : Nat) : List Block :=
  (List.range i.n).map fun j =>
    let data := (bytes.drop (4096 * j)).take 4096
    { id := w.nextBlock + j, lba := i.slba + j, piece := w.nextPiece + j / 256, ends := j % 256 == 255 || j + 1 == i.n
      data := data, crc := crc32c data, taken := false, time := now, bad := false, lost := false, home := none }

/-- Stage an admitted write whose data is in the write buffer (R20): it completes, or waits for its commitment (R332). -/
def State.stage (s : State) (c : Fin 16) (k : Nat) (x : CmdSlot) (i : Intake) : State :=
  let w := (s.ch c).wr
  let ps := (pieceSizes i.n).zipIdx.map fun (e : Nat × Nat) => (w.nextPiece + e.2, pieceRecords e.1)
  let s1 := s.modWr c fun w => { w with
    blocks := w.blocks ++ stagedBlocks w i x.bytes s.plat.time
    nextBlock := w.nextBlock + i.n
    nextPiece := w.nextPiece + ps.length
    pieces := ps.foldl (fun m e => SMap.insert m e.1 e.2) w.pieces
    intake := w.intake.filter (·.slot != k) }
  let s2 := (s1.modDisc c fun d => if d.direct then { d with nextLba := d.nextLba + i.n } else d).putSlot k { x with data := [] }
  let s3 := if i.fua || !s.vwc then
      s2.modWr c fun v => { v with waits := v.waits ++ [⟨k, w.nextBlock, w.nextBlock + i.n⟩] }
    else s2.settleWait k
  s3.progress c

/-- WRITE_STAGED: all of a write's data has arrived. On a Direct disc writes are staged in the order of their admission (R56). -/
def writeStaged (k : Nat) (s : State) : State :=
  match s.slot? k with
  | none => s
  | some x => match x.chan.bind chan? with
    | none => s
    | some c =>
      match (s.ch c).wr.intake.find? (·.slot == k) with
      | none => s
      | some i =>
        let direct := ((s.ch c).disc.map (·.direct)).getD false
        let turn := !direct || (s.ch c).wr.intake.head?.elim false (·.slot == k)
        if i.granted && turn && x.bytes.length == 4096 * i.n && x.live && s.servable c then s.stage c k x i else s

def execWriteStaged (k : Nat) (s : State) : Res := .next (writeStaged k s)

/-! Flush (R335). -/

/-- A channel's part of a Flush: its blocks staged by the time the Flush was fetched must reach the media. In KEYS LOST a Flush waits in
any case (R428). -/
def State.flushAt (s : State) (c : Fin 16) (k fetched : Nat) : State :=
  let mine := (s.ch c).wr.blocks.filter fun b => b.time ≤ fetched
  match mine.getLast? with
  | some b => (s.modWr c fun w => { w with waits := w.waits ++ [⟨k, 0, b.id + 1⟩], forceTo := max w.forceTo (b.id + 1) })
  | none => if (s.ch c).keysLost then s.modWr c fun w => { w with waits := w.waits ++ [⟨k, 0, 0⟩] } else s

/-- Flush of one namespace, or of every namespace (R335). -/
def flushCommand (s : State) (k : Nat) (x : CmdSlot) (cs : List (Fin 16)) : State :=
  if !s.vwc then s.finish k stSuccess
  else (cs.foldl (fun (s : State) (c : Fin 16) => s.flushAt c k x.fetched) s).settleWait k

def execFlush (k : Nat) (s : State) : Res :=
  .next (match s.ioCmd? k 0x00 with
    | some (x, c) => if (s.ch c).st = .mechStopped then s.finish k stServo else flushCommand s k x [c]
    | none => match s.cmd? k false 0x00 with
      | some x =>
        if x.chan.isNone && x.phase == .fetched then
          -- a disc whose mechanism is no longer used cannot be flushed (R178)
          if allChans.any fun c => (s.ch c).fence == 0 && (s.ch c).st == .mechStopped then s.finish k stServo
          else flushCommand (s.executing k) k x (allChans.filter fun c => (s.ch c).fence == 0)
        else s
      | none => s)

/-! The media scheduler (R324, R336, R337). -/

/-- MEDIA_OPERATION_ADMIT: a command's media operations are queued once fewer than 4,096 are (R324). -/
def operationAdmit (k : Nat) (s : State) : State :=
  match (s.slot? k).bind fun x => x.chan.bind chan? with
  | none => s
  | some c => if s.servable c then s.issueOps c k else s

def execMediaOperationAdmit (k : Nat) (s : State) : Res := .next (operationAdmit k s)

/-- An operation of the patrol class: a Media Probe's (R86). -/
def ReadPath.isProbe (r : ReadPath) (o : MediaOp) : Bool := r.cmds.any fun q => q.slot == o.slot && q.kind == .probe

/-- The pickup can be given to another operation: it serves none, or a probe's while a host operation waits (R337), and no session or
test run holds it. -/
def State.pickupFree (s : State) (c : Fin 16) : Bool :=
  let r := (s.ch c).rd
  (s.ch c).wr.session == .idle && !((s.ch c).wr.testRun.elim false (·.begun)) && (match r.running with
    | none => true
    | some i => (r.ops.find? (·.id == i)).elim true fun o => r.isProbe o && r.ops.any fun o => !r.isProbe o)

/-- The operation to serve: the oldest aged one, the write operation among them by its oldest staged block; else host operations before
probes, by least estimated access time (R336). `none` stands for the write operation. -/
def State.choose (s : State) (c : Fin 16) (least : Nat) : Option (Option MediaOp) :=
  let r := (s.ch c).rd
  let aged := (r.ops.filter (·.aged)).foldl (fun (a : Option MediaOp) (o : MediaOp) => match a with
    | some b => if o.since < b.since then some o else a
    | none => some o) none
  let write := r.writeAged && (s.ch c).wr.enough
  match aged, write with
  | some o, true => if s.oldestStaged c < o.since then some none else some (some o)
  | some o, false => some (some o)
  | none, true => some none
  | none, false =>
    if least = 0 then some none
    else match r.ops.find? (·.id == least) with
      | some o => if r.isProbe o && r.ops.any (fun o => !r.isProbe o) then none else some (some o)
      | none => none

/-- Whether an operation of the host waits for the pickup: a read, or the write operation with clusters to write (R145). -/
def State.hostWaits (s : State) (c : Fin 16) : Bool :=
  let r := (s.ch c).rd
  r.ops.any (fun o => !r.isProbe o) || ((s.ch c).wr.enough && (s.ch c).wr.weakCal.isNone && !(s.ch c).keysLost)

/-- MEDIA_OPERATION_SELECT: a stopped spindle is started first (R313), and a lowered speed raised (R208); with focus and tracking closed
the operation is served. A test-area run takes the pickup once no operation of the host waits (R145). `least` names the operation of the least estimated access time, 0 the write operation. -/
def operationSelect (c : Fin 16) (least : Nat) (s : State) : State :=
  let usable := s.alive c && !s.switching c && (s.ch c).fence == 0 && !(s.ch c).waking && (s.ch c).st != .mechStopped
    && (s.ch c).st != .mounting
  if !usable || !s.pickupFree c then s
  else if (s.ch c).wr.testRun.isSome && !s.hostWaits c then (if s.spinSt c = 0 then spinStart c s else s.testBegin c)
  else if (s.ch c).disc.isNone then s
  else match s.choose c least with
    | none => s
    | some o =>
      if s.spinSt c = 0 then spinStart c s
      else if s.spinSt c ≠ 6 ∨ !s.onTrack c then s
      else match o with
        | none => sessionStart c ((s.modRd c fun r => { r with running := none }).fullSpeed c)
        | some o => if s.mayAddReader c then s.startOp c o else s

def execMediaOperationSelect (c : Fin 16) (least : Nat) (s : State) : Res := .next (s.whileRunning (chRg c) 0x60 fun s => operationSelect c least s)

/-- OPERATION_AGED: an operation has waited AGE_LIMIT; 0 names the write operation. A session ends for an aged read (R337). -/
def operationAged (c : Fin 16) (op : Nat) (s : State) : State :=
  let r := (s.ch c).rd
  if op = 0 then
    if (s.ch c).wr.blocks.isEmpty || r.writeAged then s
    else (s.modRd c fun r => { r with writeAged := true }).cirq c 0x60 0
  else if r.ops.any (fun o => o.id == op && !o.aged && r.running != some op) then
    let s1 := s.modRd c fun r => { r with ops := r.ops.map fun o => if o.id == op then { o with aged := true } else o }
    (s1.cirq c 0x60 0).endAtBoundary c
  else s

def execOperationAged (c : Fin 16) (op : Nat) (s : State) : Res := .next (operationAged c op s)

/-- READ_PREEMPT: a host read operation has waited READ_PREEMPT; the session ends at a cluster boundary unless the staged blocks exceed
WB_HIGH percent of WB_MAX (R337). -/
def readPreempt (c : Fin 16) (op : Nat) (s : State) : State :=
  let r := (s.ch c).rd
  let x := (s.ch c).wr.session
  let past := 100 * (s.ch c).wr.blocks.length > s.cr c F.SCH_WB_WB_HIGH * (256 * s.cr c F.SCH_WB_WB_MAX)
  if (x == .armed || x == .writing) && !past && r.ops.any (fun o => o.id == op && !r.isProbe o) then
    (s.endAtBoundary c).incSat (chRg c) F.SCH_PREEMPTS
  else s

def execReadPreempt (c : Fin 16) (op : Nat) (s : State) : Res := .next (readPreempt c op s)

/-! Cancel requests and time limits (R351, R449). -/

/-- What a channel answers to a cancel request and does for it (Table 11-12). -/
def State.cancelAt (s : State) (c : Fin 16) (k : Nat) (x : CmdSlot) : Bool × State :=
  if !x.live then (false, s)
  else if x.isAdmin then
    if x.opcode = 0xC0 ∧ (s.ch c).mounting ≠ some k then (true, s) else (false, s)
  else match x.opcode with
    | 0x01 => if (s.ch c).wr.waits.any (·.slot == k) then (false, s) else (true, s.dropIntake c k none)
    | 0x81 => (true, s.modCh c fun y => { y with xf := none })
    | _ => (true, s.dropCmds c [k])

/-- CANCEL_REQUEST: the request for slot `k` reaches its channel, which answers. -/
def cancelRequest (k : Nat) (s : State) : State :=
  match s.slot? k with
  | none => s
  | some x => match x.chan.bind chan? with
    | none => s
    | some c =>
      if x.cancel.isNone || x.answer.isSome || (s.ch c).fence != 0 then s
      else
        let r := s.cancelAt c k x
        let s1 := r.2.incSat (chRg c) (if r.1 then F.SCH_CANCELS_CANCELLED else F.SCH_CANCELS_COMPLETING)
        match s1.slot? k with
        | some y => s1.putSlot k { y with answer := some r.1 }
        | none => s1

def execCancelRequest (k : Nat) (s : State) : Res := .next (cancelRequest k s)

/-- The channel a command's limit belongs to (R448): Channel Service names it in Dword 10. -/
def CmdSlot.limitChan (x : CmdSlot) : Option (Fin 16) :=
  if x.isAdmin && x.opcode == 0xC4 then chan? (bitsAt (x.dw 10) 0 4) else x.chan.bind chan?

/-- COMMAND_TIME_LIMIT: the command in slot `k` reaches its limit (R449). Asynchronous Event Requests stay outstanding. -/
def commandTimeLimit (k : Nat) (s : State) : State :=
  match s.slot? k with
  | none => s
  | some x =>
    if !x.live || (x.isAdmin && x.opcode == 0x0C) then s
    else match x.limitChan with
      | some c =>
        let s1 := ((if x.chan.isSome then s.requestCancel k .timeLimit else s).cirq c 0x60 2).incSat 0 F.GMON_TIME_LIMIT
        s1
      | none => ((s.dropWaits k).finish k stTimeLimit).incSat 0 F.GMON_TIME_LIMIT

def execCommandTimeLimit (k : Nat) (s : State) : Res := .next (commandTimeLimit k s)

/-! The map and the cache: what registers start (R267 to R270, R272, R273). -/

/-- The four words of an extent record (Table 8-1). -/
def Extent.words (e : Extent) : List Nat :=
  let b := leBytes 4 e.start ++ leBytes 2 e.len ++ leBytes 4 e.pcn ++ leBytes 1 e.idx ++ leBytes 1 (1 + 2 * b2n e.lost) ++ leBytes 4 e.gen
  (List.range 4).map fun w => leNat ((b.drop (4 * w)).take 4)

/-- MAP_PROBE: `MAP.PROBE_LBA.GO` resolves an LBA under R246 and shows its source and record. -/
def mapProbe (c : Fin 16) (lba : Nat) (s : State) : State :=
  let m := (s.ch c).map
  let (src, e) := if ((s.ch c).wr.staged lba).isSome then (1, none)
    else match m.cached lba with
      | some e => if e.hole then (0, none) else (2, some e.ext)
      | none => match recAt m.recs lba with
        | some e => (3, some e)
        | none => (0, none)
  let ws := (e.map Extent.words).getD [0, 0, 0, 0]
  s.wrs (chRg c) ([(F.MAP_PROBE_LBA_LBA, lba), (F.MAP_PROBE_STS_DONE, 1), (F.MAP_PROBE_STS_SOURCE, src)]
    ++ ws.zipIdx.map fun (x : Nat × Nat) => (F.MAP_PROBE_REC x.2, x.1))

def execMapProbe (src : Src) (c : Fin 16) (lba : Nat) (s : State) : Res :=
  .next (s.gated src (chRg c) 0x40 0x140 (2 ^ 31 + lba % 2 ^ 31) (mapProbe c (lba % 2 ^ 31)))

/-- EVICTION_WRITEBACK: the oldest entry of the eviction buffer is written back (R265). -/
def execEvictionWriteback (c : Fin 16) (s : State) : Res := .next (s.whileRunning (chRg c) 0x41 fun s => if s.servable c then s.evictOne c else s)

def execLtcRangeInvalidation (src : Src) (c : Fin 16) (s : State) : Res :=
  .next (s.gated src (chRg c) 0x41 0x128 1 (invGo c true))

def execLtcAddressInvalidation (src : Src) (c : Fin 16) (s : State) : Res :=
  .next (s.gated src (chRg c) 0x41 0x128 1 (invGo c false))

/-! Pin Range (R267, R347). -/

/-- The lock a pin holds whose entry covers an LBA, or whose invalidated slot is reserved for it: lock index and slot. -/
def MapState.lockAt (m : MapState) (lba : Nat) : Option (Nat × LtcSlot) :=
  m.ltc.findSome? fun x => match x.lock with
    | none => none
    | some i =>
      let here := match x.entry with
        | some e => e.ext.has lba
        | none => SMap.find? m.locks i == some lba
      if here then some (i, x) else none

/-- The locks in use, in the registers (Table 8-4). -/
def State.showLocks (s : State) (c : Fin 16) : State :=
  let m := (s.ch c).map
  (List.range 4).foldl (fun (s : State) (i : Nat) =>
    s.cw c (F.LTC_LOCK_ANCHOR i) ((SMap.find? m.locks i).getD 0)) s

/-- A Pin Range ends with its lock: index, HOLE and extent length in DW0, extent start in DW1. -/
def State.pinAnswer (s : State) (k i : Nat) (e : Option LtcEntry) : State :=
  match e with
  | some e => s.finish k stSuccess (i + 4 * b2n e.hole + 2 ^ 16 * e.ext.len) e.ext.start
  | none => s.finish k stSuccess i

/-- PIN: the entry covering the anchor LBA is locked, filled first if the cache has none. -/
def pinCommand (s : State) (c : Fin 16) (k lba : Nat) : State :=
  let m := (s.ch c).map
  let reserved := (m.lockAt lba).map fun x => (x.1, x.2.entry.isNone)
  let filled : State := match reserved with
    | some (_, false) => s
    | _ => if m.ltc.any (fun x => x.entry.elim false fun e => e.ext.has lba) then s
      else match m.evb.reverse.find? (fun (e : LtcEntry) => e.ext.has lba) with
        | some e => ((s.evictAll c).ltcInsert c { e with dirty := false })
        | none => s.ltcInsert c (m.walk lba)
  let m1 := (filled.ch c).map
  match m1.lockAt lba with
  | some (i, x) => filled.pinAnswer k i x.entry
  | none =>
    match (List.range 4).find? fun i => (SMap.find? m1.locks i).isNone with
    | none => s.finish k stPinLimit
    | some i =>
      let s1 := filled.modMap c fun m => { m with
        locks := SMap.insert m.locks i lba
        ltc := m.ltc.map fun (x : LtcSlot) => if x.entry.elim false (fun (e : LtcEntry) => e.ext.has lba) then { x with lock := some i } else x }
      let e := (m1.ltc.filterMap (·.entry)).find? fun e => e.ext.has lba
      (s1.showLocks c).pinAnswer k i e

/-- UNPIN: the lock covering the LBA is released; a slot it kept reserved is free again. -/
def unpinCommand (s : State) (c : Fin 16) (k lba : Nat) : State :=
  match (s.ch c).map.lockAt lba with
  | none => s.finish k stInvalidField
  | some (i, x) =>
    let s1 := s.modMap c fun m => { m with
      locks := SMap.erase m.locks i, ltc := m.ltc.map fun y => if y.lock == some i then { y with lock := none } else y }
    let s2 := s1.cw c F.LTC_LOCK_STS_LOCKINV (s1.cr c F.LTC_LOCK_STS_LOCKINV &&& (15 - 2 ^ i % 16))
    (s2.showLocks c).pinAnswer k i x.entry

/-- A Pin Range of either operation: the LBA must lie in the namespace, and a Direct disc has no cache (R243). `pin` is the row's
operation; PIN with INVALIDATE first invalidates its range (R347). -/
def pinRange (k : Nat) (pin : Bool) (s : State) : State :=
  match s.ioCmd? k 0x82 with
  | none => s
  | some (x, c) =>
    let lba := x.slba
    if bitAt (x.dw 12) 0 == pin then s
    else if (s.ch c).st = .mechStopped then s.finish k stServo
    else if lba ≥ s.nsze c then s.finish k stLbaRange
    else if ((s.ch c).disc.map (·.direct)).getD false then s.finish k stSuccess
    else if !pin then unpinCommand s c k lba
    else
      let n := bitsAt (x.dw 12) 16 16 + 1
      let s1 := if bitAt (x.dw 12) 1 then (s.saveDirty c lba n).ltcRangeInv c lba n else s
      pinCommand s1 c k lba

def execPinRangePin (k : Nat) (s : State) : Res := .next (pinRange k true s)
def execPinRangeUnpin (k : Nat) (s : State) : Res := .next (pinRange k false s)

end Sys2Proof.Machine
end

