-- ==== Sys2Proof/Machine/Mount.lean ====
section
/-! DEFINITION. Mount, Unmount and Seal Disc (R45, R49 to R55, R241, R248, R257 to R261, R339 to R341, R425, R433, R502). -/

namespace Sys2Proof.Machine
open Sys2Proof

/-! Loading a checkpoint (R258). -/

/-- The records of a MAP cluster, each as start, length, PCN, entry index, flags and generation: `none` where one has a fault of R258. The
first argument is the start before. -/
def mapRecords : Option Nat → List (List Nat) → Option (List Extent)
  | _, [] => some []
  | prev, [st, len, pcn, idx, fl, gen] :: rest =>
    if fl = 1 && 1 ≤ len && len ≤ 256 && st < 2147483648 && prev.elim true (· < st) then
      (mapRecords (some st) rest).map (⟨st, len, pcn, idx, gen, false⟩ :: ·)
    else none
  | _, _ => none

/-- Part `i` of a checkpoint: the highest-sequence intact copy of it, if all its records are sound. -/
def loadPart (span : List UserRead) (a : AnchorRec) (i : Nat) : Option (List Extent) :=
  let copies := span.filterMap fun (x : UserRead) => match x.read with
    | .map seq num part count recs =>
      if a.pcn ≤ x.pcn ∧ num = a.ckptNum ∧ part = i ∧ count = a.parts then some (seq, recs) else none
    | _ => none
  let best := copies.foldl (fun (b : Option (Nat × List (List Nat))) (x : Nat × List (List Nat)) => match b with
    | some y => if y.1 < x.1 then some x else some y
    | none => some x) none
  best.bind fun (x : Nat × List (List Nat)) => mapRecords none x.2

/-- The records of an anchor's checkpoint; `none` where a part cannot be read. -/
def loadMap (span : List UserRead) (a : AnchorRec) : Option (SMap Extent) :=
  (List.range a.parts).foldl (fun (m : Option (SMap Extent)) (i : Nat) =>
    match m, loadPart span a i with
    | some recs, some es => some (es.foldl (fun r e => SMap.insert r e.start e) recs)
    | _, _ => none) (some [])

/-- The anchor whose checkpoint loads, taken from the highest down, with its records and whether it is a lower one (R258). -/
def loadAnchor (span : List UserRead) : List AnchorRec → Bool → Option (AnchorRec × SMap Extent × Bool)
  | [], _ => none
  | a :: rest, fallback => match loadMap span a with
    | some recs => some (a, recs, fallback)
    | none => loadAnchor span rest true

/-! Replay (R259, R260). -/

/-- A DATA cluster held for its group: the LBAs of its entries, and those that are lost. -/
structure HeldData where
  pcn  : Nat
  gid  : Nat
  lbas : List Nat
  lost : List Nat
  deriving DecidableEq, Repr

/-- Where a replay stands. -/
structure Replay where
  recs    : SMap Extent
  held    : List HeldData
  done    : List Nat
  applied : Nat
  read    : Nat
  /-- clusters entered in the Lost Data log with the LBAs the map names in them, and lost blocks of clusters read in part -/
  lost    : List (Nat × List Nat)
  blocks  : List (Nat × Nat)
  /-- an update needed more records than were free (R261) -/
  full    : Bool
  deriving DecidableEq, Repr

/-- Apply a cluster's entries as updates under R250. -/
def applyData (recs : SMap Extent) (h : HeldData) : SMap Extent :=
  h.lbas.zipIdx.foldl (fun (r : SMap Extent) (x : Nat × Nat) =>
    let e : Extent := ⟨x.1, 1, h.pcn, x.2, h.gid % 2 ^ 32, h.lost.contains x.2⟩
    if ({ MapState.off with recs := r } : MapState).older e.start e.pcn e.gen then recPut r e else r) recs

/-- Apply clusters while the pool has room. -/
def Replay.apply (r : Replay) (hs : List HeldData) : Replay :=
  hs.foldl (fun (r : Replay) (h : HeldData) =>
    let recs := applyData r.recs h
    if recs.length > recTotal then { r with full := true } else { r with recs := recs }) r

/-- One position of the replayed span. -/
def Replay.step (r : Replay) (x : Nat × PosRead) : Replay :=
  let r := { r with read := r.read + 1 }
  match x.2 with
  | .blank | .scar | .map _ _ _ _ _ | .pad _ => r
  | .unreadable =>
    let named := ((r.recs.map (·.2)).flatMap fun (e : Extent) =>
      if e.pcn = x.1 then (List.range e.len).map (e.start + ·) else []).eraseDups
    { r with
      recs := r.recs.map fun e => if e.2.pcn = x.1 then (e.1, { e.2 with lost := true }) else e
      lost := r.lost ++ [(x.1, named)] }
  | .data _ gid pos _ lbas lost =>
    let h : HeldData := ⟨x.1, gid, lbas, lost⟩
    let r1 := { r with blocks := r.blocks ++ lost.filterMap fun i => (lbas[i]?).map fun l => (x.1, l) }
    if r1.done.contains gid then r1.apply [h]
    else if pos = 0 ∨ pos = 3 then
      let mine := (r1.held.filter fun y => y.gid == gid) ++ [h]
      { (r1.apply mine) with held := r1.held.filter (fun y => y.gid != gid), done := r1.done ++ [gid], applied := r1.applied + 1 }
    else { r1 with held := r1.held ++ [h] }

/-- Replay a span from a loaded map. -/
def replay (recs : SMap Extent) (span : List (Nat × PosRead)) : Replay :=
  span.foldl Replay.step ⟨recs, [], [], 0, 0, [], [], false⟩

/-- Enter what a replay lost in the Lost Data log; discarded groups' LBAs too where a cluster was lost (R96, R260). -/
def State.logReplay (s : State) (c : Fin 16) (r : Replay) : State :=
  let s1 := r.lost.foldl (fun (s : State) (x : Nat × List Nat) =>
    if x.2.isEmpty then s.logLost c x.1 none 1 else x.2.foldl (fun (s : State) (l : Nat) => s.logLost c x.1 (some l) 1) s) s
  let s2 := r.blocks.foldl (fun (s : State) (x : Nat × Nat) => s.logLost c x.1 (some x.2) 1) s1
  if r.lost.isEmpty || r.held.isEmpty then s2
  else (r.held.foldl (fun (s : State) (h : HeldData) => h.lbas.foldl (fun (s : State) (l : Nat) => s.logLost c h.pcn (some l) 4) s)
    s2).cirq c 0x40 3

/-! The slip list of a Direct disc (R54, R55). -/

/-- The slips of a span: `a` is the sequence number of the nearest valid cluster before, `run` the clusters without a valid descriptor
since. The answer says whether every run could be settled. Two cases R55 leaves open are settled here (DESIGN CHOICE, log 183): a run at the
end of the span, with no valid cluster after it, has s = 0, so its clusters are counted; and with s above u, more numbers superseded
than the run has clusters, the run is slipped as with s = u. -/
def directSlips : List (Nat × PosRead) → Nat → List Nat → List Nat × Bool
  | [], _, _ => ([], true)
  | (p, x) :: rest, a, run =>
    let later := (x :: rest.map (·.2)).map posSupersedes
    match posSeq x with
    | none =>
      if x == PosRead.unreadable then directSlips rest a (run ++ [p])
      else let r := directSlips rest a run; (p :: r.1, r.2)
    | some b =>
      let n := (later.filter fun v => a < v && v < b).eraseDups.length
      let slipped := if run.isEmpty || n = 0 || n < run.length then [] else run
      let settled := n = 0 || n ≥ run.length
      let own := match x with
        | .pad _ => [p]
        | _ => if later.contains b then [p] else []
      let r := directSlips rest b []
      (slipped ++ own ++ r.1, settled && r.2)

/-! Mount (R339). -/

/-- The clusters of the user area before a PCN. -/
def userIndex (pcn : Nat) : Nat := userBeyond 0 - userBeyond pcn

/-- The key pair of an encrypted disc, unwrapped under the archive key its identity names (R424, R425): `none` where the key is not held
or the unwrap fails, which alone raises UNWRAP_FAIL. -/
def State.unwrap (s : State) (id : Nat) (wrapped : List Byte) : Option (List Byte) × State :=
  match s.archiveKey id with
  | none => (none, s)
  | some ak => match keyUnwrap (toNats ak) (toNats wrapped) with
    | some p => (some (ofNats p), s)
    | none => (none, s.irq 0 0x10 3)

/-- The disc as a mount finds it. -/
def mountedDisc (x : CmdSlot) (scan : DiscScan) (direct : Bool) (i : Option IdentRec) (a : Option AnchorRec) : Disc :=
  let b := x.dw 10
  let last := scan.anchors.head?
  let clean := scan.clean
  { direct := direct, blank := i.isNone, sealed_ := last.elim false (·.sealed_), roMount := bitAt b 3, roDisc := false
    compress := bitAt b 1
    wantKey := if bitAt b 2 && !(i.elim false (·.keyed)) then some (x.dw 11 + 2 ^ 32 * x.dw 12) else none
    keyed := i.elim false (·.keyed), keyId := i.elim 0 (·.keyId), archiveId := i.elim 0 (·.archiveId)
    wrapped := i.elim [] (·.wrapped), discId := i.elim [] (·.discId), revision := i.elim 0 (·.revision)
    identNext := resumeAt clean identityStart (areaExtent identityStart scan.ident)
    calNext := resumeAt clean identityEnd (areaExtent identityEnd scan.cal)
    anchNext := resumeAt clean calibrationEnd (areaExtent calibrationEnd scan.anch)
    anchorNum := last.elim 0 (·.num), ckptNum := last.elim 0 (·.ckptNum)
    ckptPcn := a.elim 0 (·.pcn), ckptSeq := a.elim 0 (·.seq), ckptParts := a.elim 0 (·.parts), replayStart := a.elim 0 (·.start)
    nextLba := 0, slips := [], newSlips := [], slipsAtMount := 0, holes := [], mapPoison := false
    lastPcn := (scan.extent.2.map (·.1)).getD 0, mountMs := 0, fallback := false }

/-- What a mount knows before its namespace becomes active: the disc, the next number and position, test slots and corrections. -/
def State.putDisc (s : State) (c : Fin 16) (scan : DiscScan) (d : Disc) (recs : SMap Extent) : State :=
  let seq := mountSeq scan
  let d1 := { d with roDisc := d.roDisc || decide (seq > 0xFFF00000) }
  let s1 := s.modCh c fun x => { x with
    disc := some d1, implCount := 0
    wr := { x.wr.cleared with seq := seq, testNext := scan.testNext }
    map := { MapState.off with recs := recs }
    rd := { x.rd with quality := List.replicate 17 0 } }
  let s2 := s1.tclear .pdelta (chRg c)
  let s3 := (scan.cal.filterMap AreaRead.calRecord).foldl (fun (s : State) (x : Nat × Nat × List Nat) =>
    x.2.2.zipIdx.foldl (fun (s : State) (e : Nat × Nat) => s.tput .pdelta (chRg c) (x.1 % 32 * 8 + e.2) e.1) s) s2
  ((s3.cw c F.WRC_WPTR (mountPointer scan)).cw c F.ECC_STS 0).calDue c

/-- Steps 4 and 5 of a Mapped disc: its checkpoint and its replay. -/
def State.mountMapped (s : State) (c : Fin 16) (x : CmdSlot) (scan : DiscScan) (i : IdentRec) : State :=
  let loaded := loadAnchor scan.user scan.anchors false
  let start := loaded.elim anchorEnd fun l => if l.1.parts = 0 then anchorEnd else l.1.pcn
  let r := replay (loaded.elim [] fun l => l.2.1) (scan.span start)
  let fallback := loaded.elim (!scan.anchors.isEmpty) fun l => l.2.2
  let s1 := s.logReplay c r
  if r.full then s1.mountFails c stMapCapacity
  else
    let d := { mountedDisc x scan false (some i) (loaded.map (·.1)) with fallback := fallback }
    (s1.putDisc c scan d r.recs).wrs (chRg c) [(F.MAP_GROUPS_APPLIED, r.applied), (F.MAP_GROUPS_DISCARDED,
      ((r.held.map (·.gid)).eraseDups).length), (F.MAP_CLUSTERS_REPLAYED, r.read), (F.MAP_STS_FALLBACK, b2n fallback)]

/-- Step 4 of a Direct disc: the slip list is rebuilt (R55), and the write pointer LBA counted (R56). -/
def State.mountDirect (s : State) (c : Fin 16) (x : CmdSlot) (scan : DiscScan) (i : IdentRec) : State :=
  let last := scan.anchors.head?
  let from_ := last.elim anchorEnd (·.wptr)
  let old := (scan.anchors.reverse.flatMap (·.slips)).eraseDups
  let r := directSlips (scan.span from_) (last.elim 0 (·.high)) []
  -- positions the next session passes over become blank positions (R49)
  let wptr := mountPointer scan
  let end_ := scan.extent.1
  let passed := userBetween 4096 end_ wptr
  let found := (r.1.filter fun p => inUser p && !old.contains p).eraseDups
  let slips := old ++ found
  let inside := (slips.filter (· < end_)).length
  let d := { mountedDisc x scan true (some i) last with
    slips := slips ++ passed, newSlips := found ++ passed, slipsAtMount := slips.length + passed.length
    roDisc := !r.2, nextLba := 16 * (userIndex end_ - inside) }
  s.putDisc c scan d []

/-- A Mount goes on to its last step with what it read. -/
def State.mountDisc (s : State) (c : Fin 16) (x : CmdSlot) (scan : DiscScan) : State :=
  if scan.blank then s.putDisc c scan (mountedDisc x scan (bitAt (x.dw 10) 0) none none) []
  else match scan.identity with
    | none => s.mountFails c stUnrecognised
    | some i =>
      if i.major ≠ 1 then s.mountFails c stUnrecognised
      else if i.keyed && s.debugOpen then s.mountFails c stKeyRequired
      else
        let r := if i.keyed then s.unwrap i.archiveId i.wrapped else (none, s)
        if i.keyed && r.1.isNone then r.2.mountFails c stKeyRequired
        else
          let s1 := if i.direct then r.2.mountDirect c x scan i else r.2.mountMapped c x scan i
          if (s1.ch c).mounting.isNone then s1 else s1.modCh c fun y => { y with xtsKey := r.1 }

/-- A Mount is taken up (R339): the checks that need no disc read come first. The spindle is started where it stands (Table 8-2). -/
def mountCommand (s : State) (k : Nat) (x : CmdSlot) (c : Fin 16) (scan : DiscScan) : State :=
  let id := x.dw 11 + 2 ^ 32 * x.dw 12
  if s.cr c F.CHN_STS_DISC_PRESENT = 0 then s.finish k stNoDisc
  else if (s.ch c).active then s.finish k stSequence
  else if bitAt (x.dw 10) 2 && (id = 0 || (s.archiveKey id).isNone || s.debugOpen) then s.finish k stKeyRequired
  else
    let s1 := (s.modCh c fun y => { y with mounting := some k }).setSt c .mounting
    let s2 := (if s1.spinSt c = 0 then spinStart c s1 else s1).wrs (chRg c) [(F.MAP_STS_STATE, 2), (F.MAP_STS_FALLBACK, 0),
      (F.MAP_GROUPS_APPLIED, 0), (F.MAP_GROUPS_DISCARDED, 0), (F.MAP_CLUSTERS_REPLAYED, 0)]
    (s2.showSafe c).mountDisc c x scan

def execMount (k : Nat) (scan : DiscScan) (s : State) : Res :=
  .next (match s.cmd? k true 0xC0 with
    | none => s
    | some x => match x.chan.bind chan? with
      | none => s
      | some c => if s.servable c && (s.ch c).mounting.isNone && (s.ch c).procs.isEmpty then mountCommand s k x c scan else s)

/-- The flags of a Mount completion (Table 11-7 DW0). -/
def Disc.flags (d : Disc) : Nat :=
  b2n d.direct + 2 * b2n d.keyed + 4 * b2n d.sealed_ + 8 * b2n d.blank + 16 * b2n d.fallback + 32 * b2n (d.roMount || d.roDisc)

/-- Channel firmware means to allow writing: it enables the link and reads the driver's STATUS; once the driver answers, KILL is cleared and
EN set (R502; that the link is enabled to ask is DEDUCED, log 181). -/
def State.allowWrites (s : State) (c : Fin 16) : State :=
  ((s.cw c F.LDI_CTL_LINK_EN 1).modLdi c fun l => { l with ask := true }).laser c true 0x1A 0

/-- Channel firmware keeps SAC in OPEN while a disc is mounted, at the code of the layer FOC is on (R182). -/
def State.sacOpen (s : State) (c : Fin 16) : State :=
  (if s.mode c 5 = 1 ∨ s.cr c F.CLE_CTL = 0 then s else (s.endHold c 5).enter c 5 1 0).setLayerCode c (s.layerNow c)

/-- MOUNT_COMPLETE (Table 8-2 step 6): the namespace becomes active. -/
def mountComplete (c : Fin 16) (ms : Nat) (s : State) : State :=
  match (s.ch c).mounting, (s.ch c).disc with
  | some k, some d =>
    if (s.ch c).fence != 0 then s
    else
      let s1 := (s.ltcClear c).modCh c fun x => { x with
        mounting := none, active := true, keysLost := false, disc := some { d with mountMs := ms } }
      let s2 := (s1.setSt c .mounted).wrs (chRg c) [(F.MAP_STS_STATE, 3), (F.MAP_MOUNT_TIME, ms),
        (F.XTS_STS_KEY_VALID, b2n (s.ch c).xtsKey.isSome), (F.XTS_KEY_ID, if (s.ch c).xtsKey.isSome then d.keyId else 0)]
      let s3 := (s2.showDisc c).sacOpen c
      let s4 := if d.writable then s3.allowWrites c else s3.forbidWrites c
      (((s4.cirq c 0x40 1).nsChanged c).finish k stSuccess d.flags ms).showSafe c
  | _, _ => s

def execMountComplete (c : Fin 16) (ms : Nat) (s : State) : Res := .next (mountComplete c ms s)

/-! Unmount and Seal Disc (R340, R341). -/

/-- An admin command of that opcode routed to a channel that works on commands and has not taken it up. -/
def State.chanCmd? (s : State) (k op : Nat) : Option (CmdSlot × Fin 16) :=
  match s.cmd? k true op with
  | none => none
  | some x => match x.chan.bind chan? with
    | none => none
    | some c => if s.servable c && !(s.ch c).procs.any (fun p => p.slot == some k) && (s.ch c).mounting.isNone then some (x, c) else none

/-- Unmount is taken up (R340). From its acceptance the namespace takes no further command; a channel in MECH_STOPPED stays so. -/
def unmountCommand (s : State) (k : Nat) (x : CmdSlot) (c : Fin 16) : State :=
  if !(s.ch c).active || (s.ch c).procs.any (fun p => p.kind.unmounts) then s.finish k stNotMounted
  else
    let s1 := if (s.ch c).st = .mechStopped then s else s.setSt c .unmounting
    s1.startProc c (.unmount (bitAt (x.dw 10) 0) false) (some k)

def execUnmount (k : Nat) (s : State) : Res :=
  .next (match s.chanCmd? k 0xC1 with
    | some (x, c) => unmountCommand s k x c
    | none => s)

/-- Seal Disc is taken up (R341). -/
def sealCommand (s : State) (k : Nat) (x : CmdSlot) (c : Fin 16) : State :=
  match (s.ch c).disc with
  | none => s.finish k stNotMounted
  | some d =>
    if d.sealed_ then s.finish k stSealed
    else if d.roMount || d.roDisc then s.finish k stWriteProtected
    else if (s.ch c).st = .mechStopped then s.finish k stServo
    else s.startProc c (.seal (bitAt (x.dw 10) 0)) (some k)

def execSealDisc (k : Nat) (s : State) : Res :=
  .next (match s.chanCmd? k 0xC2 with
    | some (x, c) => sealCommand s k x c
    | none => s)

end Sys2Proof.Machine
end

