-- ==== Sys2Proof/Machine/Transform.lean ====
section
/-! DEFINITION. Transform (R287, R291, R345, R346) and the XTS self-test (R295). -/

namespace Sys2Proof.Machine
open Sys2Proof

/-- The data a command's pointer describes: bytes from host memory come with the command, pieces in the device's own window from the
channel's frame (R306). -/
def State.gather (s : State) (x : CmdSlot) (c : Fin 16) (data : List Byte) : List Byte :=
  (x.pieces.foldl (fun (acc : Nat × List Byte) (p : Nat × Nat) =>
    let piece := if inBar4 x.bar4 p.1 then
        s.dramBytes c (winAddr (s.winPage ((p.1 - x.bar4) / 0x200000)) ((p.1 - x.bar4) % 0x200000)) p.2
      else padTo p.2 0 ((data.drop acc.1).take p.2)
    (acc.1 + p.2, acc.2 ++ piece)) (0, [])).2

/-- Whether the window pieces of a command hold a poisoned word. -/
def State.gatherBad (s : State) (x : CmdSlot) (c : Fin 16) : Bool :=
  x.pieces.any fun p => inBar4 x.bar4 p.1 &&
    s.anyPoison c (winAddr (s.winPage ((p.1 - x.bar4) / 0x200000)) ((p.1 - x.bar4) % 0x200000)) p.2

/-- Code blocks of the input until it is used up or the output reaches the window: the output, and the blocks taken (R291). The first
argument bounds the blocks. -/
def compressRun (set : CoderSet) (base window : Nat) : Nat → Nat → List Byte → List Byte → List Byte × Nat
  | 0, idx, _, out => (out, idx)
  | n + 1, idx, input, out =>
    if out.length ≥ window ∨ input.length < 4096 then (out, idx)
    else
      let b := input.take 4096
      compressRun set base window n (idx + 1) (input.drop 4096) (out ++ storedBlock none (base + idx) (crc32c b) (codeBlock set b))

/-- The length of the stored block at the front of an input, by its header: `none` while the header is incomplete, 0 for one that cannot
be a stored block of Table 9-1. -/
def storedLength (input : List Byte) : Option Nat :=
  if input.length < 16 then none
  else
    let len := leNat ((input.drop 2).take 2)
    let pad := if bitAt (leNat ((input.drop 1).take 1)) 1 then 16 - len else 0
    some (if 16 + len + pad > 4112 then 0 else 16 + len + pad)

/-- A stored block of a Transform input, checked against its own header and decoded; `none` for an encrypted or malformed one. -/
def transformBlock (stored : List Byte) : Option (List Byte) :=
  let f := fun o n => leNat ((stored.drop o).take n)
  if bitAt (f 1 1) 0 then none
  else match readStored none stored (f 4 2) (f 0 1) (f 8 4) with
    | .ok d => some d
    | .header | .crc | .denied => none

/-- Decode stored blocks until the input ends in the middle of one or the output reaches the window: the output, the bytes of whole
blocks taken, and whether a block failed. The first argument bounds the blocks. -/
def decompressRun (window : Nat) : Nat → List Byte → List Byte → Nat → List Byte × Nat × Bool
  | 0, _, out, used => (out, used, false)
  | n + 1, input, out, used =>
    if out.length ≥ window then (out, used, false)
    else match storedLength input with
      | none => (out, used, false)
      | some 0 => (out, used, true)
      | some len =>
        if input.length < len then (out, used, false)
        else match transformBlock (input.take len) with
          | some d => decompressRun window n (input.drop len) (out ++ d) (used + len)
          | none => (out, used, true)

/-- The output buffer of a Transform, as pieces that do not cross a window page. -/
def CmdSlot.outPieces (x : CmdSlot) : List (Nat × Nat) :=
  let n := bitsAt (x.dw 14) 0 23
  splitAt 0x200000 (n / 0x200000 + 2) (x.dw 12 + 2 ^ 32 * x.dw 13) n

/-- End a Transform: its output is moved, its counts shown, and its context kept where it stopped (R287, Table 11-10). -/
def State.endTransform (s : State) (c : Fin 16) (k : Nat) (x : CmdSlot) (st : Status) (consumed : Nat) (out : List Byte)
    (job : Option Transform) : State :=
  let open_ := job.elim false fun j => !j.out.isEmpty || !j.input.isEmpty
  let s1 := (s.modCh c fun y => { y with xf := job }).sendData { x with pieces := x.outPieces } 0 out
  ((s1.incWrap (chRg c) F.CMP_XF_IN consumed).incWrap (chRg c) F.CMP_XF_OUT out.length).finish k st
    (consumed + 2 ^ 24 * b2n open_) out.length

/-- Run a job over a command's buffers. -/
def State.runTransform (s : State) (c : Fin 16) (k : Nat) (x : CmdSlot) (j : Transform) (input : List Byte) : State :=
  let window := bitsAt (x.dw 14) 0 23
  if j.compress then
    let set := s.coder c true
    let r := compressRun set j.base window (input.length / 4096) j.blocks input j.out
    let taken := r.2 - j.blocks
    let coded := (List.range taken).map fun i => codeBlock set ((input.drop (4096 * i)).take 4096)
    let s1 := coded.foldl (fun (s : State) (b : Coded) =>
      let s1 := if b.failed then (s.incSat (chRg c) F.CMP_CHECK_FAIL).cirq c 0x38 2 else s
      s1.incSat (chRg c) (if b.method = 1 then F.CMP_BLK_HS else if b.method = 2 then F.CMP_BLK_DEFL else F.CMP_BLK_RAW)) s
    let rest := r.1.drop window
    let more := !rest.isEmpty || 4096 * taken < input.length
    s1.endTransform c k x stSuccess (4096 * taken) (r.1.take window)
      (if more then some { j with blocks := r.2, out := rest } else none)
  else
    let all := j.input ++ input
    let r := decompressRun window (all.length / 16 + 1) all j.out 0
    if r.2.2 then s.endTransform c k x stTransformInput (r.2.1 - j.input.length) (r.1.take window) none
    else
      let rest := r.1.drop window
      let tail := all.drop r.2.1
      let full := decide (r.1.length ≥ window)
      -- a stop inside a block takes what there is of it; a full window leaves the blocks behind it untaken
      let kept := if full then j.input.drop r.2.1 else tail
      let consumed := if full then r.2.1 - j.input.length else input.length
      let more := !rest.isEmpty || !tail.isEmpty
      s.endTransform c k x stSuccess consumed (r.1.take window) (if more then some { j with out := rest, input := kept } else none)

/-- A Transform is taken up: `resume` and `compress` name the row's form (R345, R346). -/
def transformCommand (k : Nat) (resume compress : Bool) (data : List Byte) (s : State) : State :=
  match s.ioCmd? k 0x81 with
  | none => s
  | some (x, c) =>
    if !s.running (chRg c) 0x38 || bitAt (x.dw 10) 1 != resume || (!resume && bitAt (x.dw 10) 0 == compress) then s
    else
      let n := bitsAt (x.dw 15) 0 23
      let job : Option Transform := if resume then (s.ch c).xf
        else some ⟨compress, bitsAt (x.dw 11) 0 31, 0, [], []⟩
      match job with
      | none => s.finish k stSequence
      | some j =>
        if n > 4194304 ∨ bitsAt (x.dw 14) 0 23 > 4194304 ∨ x.dw 12 % 4 ≠ 0 then s.finish k stInvalidField
        else if j.compress ∧ n % 4096 ≠ 0 then s.finish k stInvalidField
        else if !s.pointersOk x false then s.refusePointer k x
        else if !s.pointersOk { x with pieces := x.outPieces } true then s.refusePointer k { x with pieces := x.outPieces }
        else if s.gatherBad x c then
          (s.xferErr k c.val 3 ((x.pieces.find? fun p => inBar4 x.bar4 p.1).elim 0 (·.1))).finish k stDataTransfer
        else
          let s1 := if resume then s else s.wrs (chRg c) [(F.CMP_XF_IN, 0), (F.CMP_XF_OUT, 0)]
          s1.runTransform c k x j (s.gather x c data)

def execTransformCompress (k : Nat) (data : List Byte) (s : State) : Res := .next (transformCommand k false true data s)
def execTransformDecompress (k : Nat) (data : List Byte) (s : State) : Res := .next (transformCommand k false false data s)
def execTransformResume (k : Nat) (data : List Byte) (s : State) : Res := .next (transformCommand k true false data s)

/-- XTS_SELFTEST (R295): refused while a key pair is loaded; the known answer comes out of a working engine. -/
def xtsSelftest (c : Fin 16) (s : State) : State :=
  if s.cr c F.XTS_STS_KEY_VALID = 1 then s.errOpen (chRg c) 0x39 0x114 2
  else s.wrs (chRg c) [(F.XTS_SELFTEST_DONE, 1), (F.XTS_SELFTEST_PASS, 1)]

def execXtsSelftest (src : Src) (c : Fin 16) (s : State) : Res := .next (s.gated src (chRg c) 0x39 0x114 1 (xtsSelftest c))

end Sys2Proof.Machine
end

