-- ==== Sys2Proof/Machine/Service.lean ====
section
/-! DEFINITION. Channel Service, Calibrate and the rewrapping of a disc's key (R342 to R344, R370, R371, R386, R420, R426, R444). -/

namespace Sys2Proof.Machine
open Sys2Proof

/-! Channel Service (R342, Table 11-8). -/

/-- The Channel Service command in slot `k`, if its operation is `op`, and the channel it names. -/
def State.service? (s : State) (k op : Nat) : Option (CmdSlot × Fin 16) :=
  match s.cmd? k true 0xC4 with
  | none => none
  | some x => if bitsAt (x.dw 10) 8 3 ≠ op then none else (chan? (bitsAt (x.dw 10) 0 4)).map fun c => (x, c)

/-- An operation is under way for the command in slot `k`. -/
def State.svcBegin (s : State) (c : Fin 16) (k op : Nat) : State :=
  (s.executing k).modCh c fun x => { x with svc := some (k, op) }

/-- ISOLATE: after draining as Unmount, or at once, the fence closes with cause 1; channel firmware forbids writing (R502). At once, a session stops for the ISOLATE, code 2 (R137). -/
def isolate (s : State) (k : Nat) (x : CmdSlot) (c : Fin 16) : State :=
  if (s.ch c).svc.isSome then s.finish k stSequence (s.ch c).st.code
  else if (s.ch c).fence != 0 then
    let s1 := if s.cr c F.STW_STS_RUN = 1 then (s.forbidWrites c).showSafe c else s
    s1.finish k stSuccess (s.ch c).st.code
  else if bitAt (x.dw 10) 16 && (s.ch c).active then
    let s1 := (s.svcBegin c k 1).modCh c fun y => { y with isolating := true }
    (if (s1.ch c).st = .mechStopped then s1 else s1.setSt c .unmounting).startProc c (.unmount false true) none
  else ((((s.orderlyStop c 2).svcBegin c k 1).closeFence c 1).forbidWrites c).showSafe c

def execServiceIsolate (k : Nat) (s : State) : Res :=
  .next (match s.service? k 1 with
    | some (x, c) => isolate s k x c
    | none => s)

/-- A fenced channel is switched off: outputs low and the actuators at code 0 (R185, R188), its DRAM in self-refresh, and its registers
lost, the header's among them (R398). What is staged stays in its DRAM (R443). -/
def powerDown (s : State) (c : Fin 16) : State :=
  let x := s.ch c
  let s1 := ((s.assertKill c 34).channelReset c true).resetFields (chRg c) fun p o =>
    [0x020, 0x024, 0x028, 0x030, 0x038].contains o || (p == 0x48 && o == 0x100)
  let s2 := s1.modCh c fun y => { y with
    powered := false, implTimes := x.implTimes, implCount := x.implCount, keysLost := x.keysLost
    wr := { y.wr with blocks := x.wr.blocks, nextBlock := x.wr.nextBlock }
    spin := { y.spin with rest := x.spin.rest && s.spindleDown c } }
  (((s2.cw c F.DRC_STS_SELF_REFRESH 1).setSt c .poweredDown).showKill c).showSafe c

/-- POWER_DOWN: accepted while the fence is closed. -/
def serviceDown (s : State) (k : Nat) (c : Fin 16) : State :=
  if (s.ch c).svc.isSome || (s.ch c).fence == 0 then s.finish k stSequence (s.ch c).st.code
  else
    let s1 := if (s.ch c).powered then powerDown s c else s
    s1.finish k stSuccess (s1.ch c).st.code

def execServicePowerDown (k : Nat) (s : State) : Res :=
  .next (match s.service? k 2 with
    | some (_, c) => serviceDown s k c
    | none => s)

/-- The bundle of the ACTIVE slot, its components' hashes checked again (R420). -/
def State.activeBundle (s : State) : Option Bundle := s.bundleAt (slotBase s.table.1.active)

/-- RESTORE: accepted while the fence is closed. A channel that is off is switched on and its DRAM filled; firmware is then loaded. -/
def serviceRestore (s : State) (k : Nat) (c : Fin 16) : State :=
  if (s.ch c).svc.isSome || (s.ch c).fence == 0 then s.finish k stSequence (s.ch c).st.code
  else
    let off := !(s.ch c).powered
    let s1 := (((if off then s else s.assertKill c 34).channelReset c false).modCh c fun x => { x with powered := true }).lockCore c
    let s2 := if off then s1.wrs (chRg c) [(F.DRC_STS_SELF_REFRESH, 0), (F.DRC_STS_FILL_BUSY, 1)] else s1
    (s2.setSt c .restoring).svcBegin c k 3

def execServiceRestore (k : Nat) (s : State) : Res :=
  .next (match s.service? k 3 with
    | some (_, c) => serviceRestore s k c
    | none => s)

/-- RELOAD: accepted while the fence is closed and the channel powered. -/
def serviceReload (s : State) (k : Nat) (c : Fin 16) : State :=
  if (s.ch c).svc.isSome || (s.ch c).fence == 0 || !(s.ch c).powered then s.finish k stSequence (s.ch c).st.code
  else (((s.assertKill c 34).channelReset c true)).svcBegin c k 4

def execServiceReload (k : Nat) (s : State) : Res :=
  .next (match s.service? k 4 with
    | some (_, c) => serviceReload s k c
    | none => s)

/-- The images of a RESTORE or RELOAD are in the channel: RESTORE reopens the fence, the channel idle without a disc and its calibration
sets invalid (R238). Images that do not match their header leave it fenced (R420). -/
def State.svcLoaded (s : State) (c : Fin 16) (op : Nat) : State :=
  match s.activeBundle with
  | none => s.closeFence c 8
  | some b =>
    let s1 := s.stewardRuns c b
    if op = 3 then
      let s2 := (s1.modCh c fun x => { x with fence := 0 }).setSt c .notMounted
      (s2.svcEnd c stSuccess).showSafe c
    else s1.svcEnd c stSuccess

/-! Power-up and training (R370, R371, R386). -/

/-- A channel whose DRAM is filled runs its steward core once the images are verified (R386, Table 13-3 step 7). -/
def State.release (s : State) (c : Fin 16) : State :=
  if !s.plat.imagesUp || (s.ch c).fence != 0 || !s.alive c || s.cr c F.DRC_STS_TRAINED = 0 || s.cr c F.DRC_STS_FILL_BUSY = 1
      || s.cr c F.STW_STS_RUN = 1 || s.cr c F.STW_STS_STOPPED = 1 then s
  else match s.activeBundle with
    | none => s.closeFence c 8
    | some b => s.stewardRuns c b

/-- POWER_ON_FILL_DONE (R370): the DRAM holds zeros and the steward core is released; it ends a RESTORE from power-down. -/
def fillDone (c : Fin 16) (ms : Nat) (s : State) : State :=
  if !s.alive c || s.cr c F.DRC_STS_FILL_BUSY = 0 then s
  else
    let s1 := (s.dramFill c).wrs (chRg c) [(F.DRC_STS_TRAINED, 1), (F.DRC_STS_FILL_BUSY, 0), (F.DRC_FILL_TIME, ms)]
    match (s.ch c).svc with
    | some (_, 3) => s1.svcLoaded c 3
    | _ => s1.release c

def execPowerOnFillDone (c : Fin 16) (ms : Nat) (s : State) : Res := .next (fillDone c ms s)

/-- CHANNEL_POWER_UP (R386): the channel is powered in its turn, its DRAM out of reset. -/
def channelPowerUp (c : Fin 16) (s : State) : State :=
  if s.plat.porst || s.plat.tripped || (s.ch c).powered || (s.ch c).fence != 0
      || allChans.any (fun d => d.val < c.val && !(s.ch d).powered && (s.ch d).fence == 0) then s
  else (((s.modCh c fun x => { x with powered := true }).lockCore c).cw c F.DRC_STS_FILL_BUSY 1).showKill c

def execChannelPowerUp (c : Fin 16) (s : State) : Res := .next (channelPowerUp c s)

/-- TRAINING_FAILURE (R371): the channel is not released; its fence closes with cause 8. -/
def trainingFailure (c : Fin 16) (s : State) : State :=
  if !s.alive c || s.cr c F.DRC_STS_FILL_BUSY = 0 then s
  else ((s.cw c F.DRC_STS_FILL_BUSY 0).cirq c 0x48 0).closeFence c 8

def execTrainingFailure (c : Fin 16) (s : State) : Res := .next (trainingFailure c s)

/-- BOOT_VERIFY (R414 to R416): the front end runs, and the verified images release the channels whose DRAM is filled. -/
def bootAndRelease (s : State) : State :=
  let s1 := bootVerify s
  if !s1.plat.feUp || s.plat.feUp then s1
  else
    let s2 : State := { s1 with plat := { s1.plat with imagesUp := true } }
    (allChans.foldl (fun (s : State) (c : Fin 16) => s.release c) s2).becomeReady

def execBootVerify (s : State) : Res := .next (bootAndRelease s)

/-! Calibrate (R343, Tables 7-4 and 11-9). -/

/-- The Calibrate command in slot `k`, if its procedure is `proc` and its channel has not taken it up. -/
def State.calibrate? (s : State) (k proc : Nat) : Option (CmdSlot × Fin 16) :=
  match s.chanCmd? k 0xC5 with
  | none => none
  | some (x, c) =>
    let taken := ((s.ch c).wr.testRun.bind (·.cmd)) == some k || ((s.ch c).servo.sweep.bind (·.cmd)).elim false (·.1 == k)
    if bitsAt (x.dw 10) 0 3 ≠ proc || taken then none else some (x, c)

/-- SET of a Calibrate command. -/
def CmdSlot.calSet (x : CmdSlot) : Nat := bitsAt (x.dw 10) 8 3

/-- Load set SET: its image is copied into channel DRAM and its valid bit set, which forms a generation (R226, R230). -/
def loadSet (s : State) (k : Nat) (x : CmdSlot) (c : Fin 16) (data : List Byte) : State :=
  let n := x.calSet
  if n > 4 then s.finish k stInvalidField
  else if !s.pointersOk x false then s.refusePointer k x
  else if s.gatherBad x c then (s.xferErr k c.val 3 ((x.pieces.head?.map (·.1)).getD 0)).finish k stDataTransfer
  else
    let s1 := s.dramWrite c (s.setBase c n) ((s.gather x c data).map some)
    let s2 := s1.cw c F.CAL_SET_VALID (s1.cr c F.CAL_SET_VALID ||| 2 ^ n)
    (s2.calDue c).finish k stSuccess

def execCalLoadSet (k : Nat) (data : List Byte) (s : State) : Res :=
  .next (match s.calibrate? k 0 with
    | some (x, c) => loadSet s k x c data
    | none => s)

/-- Clear set SET: its valid bit is cleared; a generation is formed if any set remains valid. -/
def clearSet (s : State) (k : Nat) (x : CmdSlot) (c : Fin 16) : State :=
  let n := x.calSet
  if n > 4 then s.finish k stInvalidField
  else (setValid c (s.cr c F.CAL_SET_VALID &&& (31 - 2 ^ n)) s).finish k stSuccess

def execCalClearSet (k : Nat) (s : State) : Res :=
  .next (match s.calibrate? k 1 with
    | some (x, c) => clearSet s k x c
    | none => s)

/-- Power run on LAYER: a test-area run at the layer's next free slot (R142 to R146), with a record after it (R236). -/
def powerRun (s : State) (k : Nat) (x : CmdSlot) (c : Fin 16) : State :=
  let layer := bitsAt (x.dw 10) 16 5
  let slot := SMap.get (s.ch c).wr.testNext layer 0
  match (s.ch c).disc with
  | none => s.finish k stNotMounted
  | some d =>
    if !(s.ch c).active then s.finish k stNotMounted
    else if d.sealed_ then s.finish k stSealed
    else if !d.writable then s.finish k stWriteProtected
    else if (s.ch c).st = .mechStopped then s.finish k stServo
    else if slot > 15 || d.calNext ≥ calibrationEnd then s.finish k stCapacity
    else if !s.mayTest c then s
    else s.testStart c ⟨layer, slot, some k, false⟩

def execCalPowerRun (k : Nat) (s : State) : Res :=
  .next (match s.calibrate? k 2 with
    | some (x, c) => powerRun s k x c
    | none => s)

/-- Servo sweep on SLOT: channel firmware places the slot in OPEN and starts the sweep of R179. -/
def servoSweep (s : State) (k : Nat) (x : CmdSlot) (c : Fin 16) : State :=
  let q := bitsAt (x.dw 10) 24 3
  let dwell := bitsAt (x.dw 13) 0 12
  if !(s.ch c).active then s.finish k stNotMounted
  else if (s.ch c).st = .mechStopped then s.finish k stServo
  else if h : q < 7 then
    if s.sessionOn c || (s.ch c).servo.sweep.isSome || s.cr c (F.SLT_STATE_SEQ q) = 1 || s.cr c F.CLE_CTL = 0 then s.finish k stSequence
    else
      let from_ := s.mode c q
      let s1 := s.wrs (chRg c) [(F.CLE_SWEEP_CTL_SLOT, q), (F.CLE_SWEEP_CTL_DWELL, dwell), (F.CLE_SWEEP_CTL_COUNT, bitsAt (x.dw 13) 16 10),
        (F.CLE_SWEEP_START, x.dw 11), (F.CLE_SWEEP_STEP, x.dw 12)]
      let s2 := if from_ = 1 then s1 else s1.enter c ⟨q, h⟩ 1 0
      s2.sweepRun c (some (k, from_))
  else s.finish k stInvalidField

def execCalServoSweep (k : Nat) (s : State) : Res :=
  .next (match s.calibrate? k 3 with
    | some (x, c) => servoSweep s k x c
    | none => s)

/-- Read back SET, or 7 for the working buffer in force. -/
def readBack (s : State) (k : Nat) (x : CmdSlot) (c : Fin 16) : State :=
  let n := x.calSet
  if n > 4 && n != 7 then s.finish k stInvalidField
  else if !s.pointersOk x true then s.refusePointer k x
  else
    let base := if n = 7 then s.workBase c (s.cr c F.CAL_STS_BUF) else s.setBase c n
    if s.anyPoison c base 0x200000 then (s.xferErr k c.val 3 base).finish k stDataTransfer
    else (s.sendData x 0 (s.dramBytes c base 0x200000)).finish k stSuccess

def execCalReadBack (k : Nat) (s : State) : Res :=
  .next (match s.calibrate? k 4 with
    | some (x, c) => readBack s k x c
    | none => s)

/-! Key Management REWRAP (R344, R426). -/

/-- REWRAP: the disc's key pair wrapped under the new archive key, in a new identity revision (R51). -/
def keyRewrap (s : State) (k : Nat) (x : CmdSlot) (c : Fin 16) : State :=
  let id := x.dw 13 + 2 ^ 32 * x.dw 14
  match (s.ch c).disc, (s.ch c).xtsKey with
  | none, _ => s.finish k stNotMounted
  | some d, pair =>
    if d.sealed_ then s.finish k stSealed
    else if !d.writable then s.finish k stWriteProtected
    else match pair, s.archiveKey id with
      | none, _ => s.finish k stAccessDenied
      | some _, none => s.finish k stKeyRequired
      | some p, some ak =>
        if !d.identRoom then s.finish k stCapacity
        else if (s.ch c).st = .mechStopped then s.finish k stServo
        -- it waits until the disc may be written (R106)
        else if !s.mayWrite c then s
        else
          let s1 := s.modDisc c fun d => { d with archiveId := id, wrapped := ofNats (keyWrap (toNats ak) (toNats p)) }
          (s1.writeIdentity c).finish k stSuccess

def execKeyRewrap (k : Nat) (s : State) : Res :=
  .next (match s.chanCmd? k 0xC6 with
    | some (x, c) => if bitsAt (x.dw 10) 0 4 = 3 then keyRewrap s k x c else s
    | none => s)

end Sys2Proof.Machine
end

