-- ==== Sys2Proof/Machine/Telemetry.lean ====
section
/-! DEFINITION. Counters, histograms and snapshots (R454 to R461, Table 11-21). -/

namespace Sys2Proof.Machine
open Sys2Proof

/-- The offset of the register MON has at `off` (0x108 to 0x128), as GMON has it at 0x140 to 0x160 (R461). -/
def monOff (rg off : Nat) : Nat := if rg = 0 then off + 0x38 else off

def fSnapDone (rg : Nat) : Fld := if rg = 0 then F.GMON_SNAP_CTL_DONE else F.MON_SNAP_CTL_DONE
def fSnapSrc (rg : Nat) : Fld := if rg = 0 then F.GMON_SNAP_CTL_SRC else F.MON_SNAP_CTL_SRC

/-- The 64 words of a Histogram Snapshot of a source now (Table 11-21). -/
def State.snapWords (s : State) (rg src : Nat) : List Nat :=
  let g := fun i => s.tget .hist rg (src * 64 + i)
  let lo := fun v => v % 2 ^ 32
  let hi := fun v => v / 2 ^ 32 % 2 ^ 32
  [src + 2 ^ 16 * g 33 + 2 ^ 24 * (g 36 + 2 * g 32), g 34, (if g 33 = 1 then 0 else g 35), 0,
   lo s.plat.time, hi s.plat.time, g 37, 0, lo (g 38), hi (g 38), g 39, 0, lo (g 40), hi (g 40), 0, 0]
  ++ (List.range 32).map g ++ List.replicate 16 0

/-- A snapshot replaces the copy held: DONE, SRC and SNAP_DONE (R457, R459). -/
def snapshotOp (rg src : Nat) (s : State) : State :=
  if !histSource rg src then s
  else
    let s1 := ((List.range 64).zip (s.snapWords rg src)).foldl (fun s e => s.tput .snap rg e.1 e.2) s
    ((s1.wr rg (fSnapDone rg) 1).wr rg (fSnapSrc rg) src).irq rg (monPage rg) (if rg = 0 then 5 else 2)

/-- SNAPSHOT: `SNAP_CTL.GO` takes the selected source. -/
def execSnapshot (src : Src) (rg : Nat) (s : State) : HRes :=
  .next (s.gated src rg (monPage rg) (monOff rg 0x118) 1 fun s => snapshotOp rg (s.rd rg (fHistIdx rg)) s)

/-- MM_CLEAR: the source's minimum and maximum (R454). -/
def execMmClear (src : Src) (rg source : Nat) (s : State) : HRes :=
  .next (s.gated src rg (monPage rg) (monOff rg 0x124) (source % 256 + 2 ^ 31) fun s =>
    if histSource rg (source % 256) then s.histClearMM rg (source % 256) else s)

/-- HISTOGRAM_CLEAR: the source's bins and OVF (R454). -/
def execHistogramClear (src : Src) (rg source : Nat) (s : State) : HRes :=
  .next (s.gated src rg (monPage rg) (monOff rg 0x128) (source % 256 + 2 ^ 31) fun s =>
    if histSource rg (source % 256) then s.histClearBins rg (source % 256) else s)

/-- A write of `HIST_CFG`, `HIST_LOW` or `HIST_WIDTH` of the selected source: the value, then its bins and OVF cleared
(R459). A WIDTH of 0 is reserved: the field keeps its value (R6). -/
def histConfigWrite (rg off value : Nat) (s : State) : State :=
  let src := s.rd rg (fHistIdx rg)
  if !histSource rg src then s
  else
    let base := off + (if rg = 0 then 0 else 0x38)
    let s1 := if base = 0x144 then
        (s.tput .hist rg (src * 64 + 32) (value % 2)).tput .hist rg (src * 64 + 33) (value / 2 % 2)
      else if base = 0x148 then s.tput .hist rg (src * 64 + 34) (value % 2 ^ 32)
      else if base = 0x14C then (if value % 2 ^ 32 = 0 then s else s.tput .hist rg (src * 64 + 35) (value % 2 ^ 32))
      else s
    if base = 0x144 ∨ base = 0x148 ∨ base = 0x14C then s1.histClearBins rg src else s

/-- HISTOGRAM_CONFIG_WRITE. -/
def execHistogramConfigWrite (src : Src) (rg off : Nat) (value : Word) (s : State) : HRes :=
  .next (s.gated src rg (monPage rg) off value.toNat (histConfigWrite rg off value.toNat))

/-- Clear each counter of a mask and its SAT bit (Table 15-12). -/
def counterClear (c : Fin 16) (mask : Nat) (s : State) : State :=
  let s1 := (List.range 16).foldl (fun s i => if bitAt mask i then s.tput .counter (chRg c) i 0 else s) s
  let sat := s.cr c F.CNT_SAT
  s1.cw c F.CNT_SAT (sat - (sat &&& mask))

/-- COUNTER_CLEAR: `CNT.CLEAR` (R454, R460). -/
def execCounterClear (src : Src) (c : Fin 16) (mask : Nat) (s : State) : HRes :=
  .next (s.gated src (chRg c) 0x59 0x110 mask (counterClear c mask))

/-- SAT_CLEAR: clearing a SAT bit leaves the count (R455, R460). -/
def execSatClear (src : Src) (c : Fin 16) (mask : Nat) (s : State) : HRes :=
  .next (s.gated src (chRg c) 0x59 0x10C mask fun s =>
    let sat := s.cr c F.CNT_SAT
    s.cw c F.CNT_SAT (sat - (sat &&& mask)))

/-- COUNTER_SATURATE: a channel event counter has reached 2^48 − 1 and stays there; SAT and its interrupt, once (R455). -/
def execCounterSaturate (c : Fin 16) (idx : Fin 16) (s : State) : HRes :=
  .next (if s.tget .counter (chRg c) idx.val = 2 ^ 48 - 1 ∧ s.shadowed (chRg c) = false then s.cntSaturated c idx.val else s)

end Sys2Proof.Machine
end

