-- ==== Sys2Proof/Machine/Views.lean ====
section
/-! DEFINITION. What a register read finds: fields that show live state, and whole registers as they read (R4, R5, R462 to R466, R471). -/

namespace Sys2Proof.Machine
open Sys2Proof

/-! Block status (R464, R465). -/

/-- Whether a channel block has a unit of its work in progress. -/
def State.chUnit (s : State) (c : Fin 16) (page : Nat) : Bool :=
  let x := s.ch c
  match page with
  | 0x08 => x.servo.jump.isSome || x.servo.tjump.isSome || x.servo.sweep.isSome
  | 0x11 => s.cr c F.SLD_STS_STATE == 2 || s.cr c F.SLD_STS_STATE == 3
  | 0x20 | 0x21 | 0x22 | 0x23 | 0x24 | 0x25 | 0x26 | 0x27 | 0x28 | 0x29 | 0x2A | 0x2B | 0x2C => x.rd.running.isSome
  | 0x2E => x.rd.clusters.any fun q => q.step != 0
  | 0x30 | 0x31 => x.wr.session != .idle || x.wr.testRun.isSome
  | 0x32 => x.wr.ldi.busy
  | 0x33 => x.wr.placed.any (·.begun)
  | 0x40 => x.wr.ckpt.isSome || x.mounting.isSome
  | 0x41 => !x.map.miss.isEmpty
  | 0x48 => s.cr c F.DRC_STS_FILL_BUSY == 1
  | 0x4A => s.cr c F.SCB_STS_BUSY == 1
  | 0x50 => x.cal.due || x.cal.gen.isSome
  | 0x60 => x.rd.running.isSome
  | _ => false

/-- Whether a port die block has a unit of its work in progress. -/
def State.portUnit (s : State) (page : Nat) : Bool :=
  match page with
  | 0x08 => s.front.pp
  | 0x0A => s.front.reads.any fun e => !e.2.dead
  | 0x0C => s.pr F.WIN_STS_SYNCING == 1
  | _ => false

/-- Whether a block has a unit of its work in progress. -/
def State.unitOf (s : State) (rg page : Nat) : Bool :=
  if rg = 0 then s.portUnit page else (chan? (rg - 1)).elim false fun c => s.chUnit c page

/-- `BLK_STS.QUIESCED` (R465). -/
def State.quiesced (s : State) (rg page : Nat) : Bool := !s.running rg page && (page == 0x4A || !s.unitOf rg page)

/-- `BLK_STS.READY`: the block is initialised and in service. A channel's blocks are so once its DRAM holds the fill. -/
def State.ready (s : State) (rg : Nat) : Bool :=
  !s.plat.porst && (rg == 0 || (chan? (rg - 1)).elim false fun c =>
    (s.ch c).powered && s.cr c F.DRC_STS_TRAINED == 1 && s.cr c F.DRC_STS_FILL_BUSY == 0)

/-- Fields of the common header that show live state. -/
def State.headerView (s : State) (rg : Nat) (f : Fld) : Nat :=
  match f.off, f.lsb with
  | 0x000, 0 => if rg = 0 then 0xFF else rg - 1
  | 0x000, 8 => if rg = 0 then 0 else if slotPage f.page then f.page - 9 else if f.page / 8 = 4 then f.page - 0x20 else 0
  | 0x000, 16 => if rg = 0 then 0x80 + f.page else if slotPage f.page then 9 else if f.page / 8 = 4 then 0x20 else f.page
  | 0x000, 24 =>
    if rg = 0 then
      (if f.page = 0 then 7 else if [0x01, 0x02, 0x03, 0x04, 0x18, 0x19].contains f.page then 6 else 3)
    else if f.page = 0 then 5 else if f.page / 8 = 4 && f.page < 0x28 then 4 else 3
  | 0x00C, 0 => b2n (s.ready rg)
  | 0x00C, 1 => b2n (s.unitOf rg f.page)
  | 0x00C, 2 => b2n (s.quiesced rg f.page)
  | 0x018, 0 => s.irqSts rg f.page
  | 0x01C, 0 => s.rd rg (F.HDR_IRQ_RAW f.page)
  | _, _ => s.rd rg f

/-! Channels. -/

/-- When the queued media operations were queued: the reads, and the channel's one write operation while it has blocks to write
(R336). -/
def State.opTimes (s : State) (c : Fin 16) : List Nat :=
  let w := (s.ch c).wr
  let begun := (w.placed.filter (·.begun)).flatMap (·.content.blocks)
  (s.ch c).rd.ops.map (·.since) ++ ((w.blocks.filter fun b => !begun.contains b.id).head?.map (·.time)).toList

/-- Age of the oldest media operation in ms. -/
def State.oldestMs (s : State) (c : Fin 16) : Nat :=
  ((s.opTimes c).map fun t => (s.plat.time - t) / 1000000).foldl max 0

/-- Fields of a channel's pages that show live state. -/
def State.chanView (s : State) (c : Fin 16) (f : Fld) : Nat :=
  let x := s.ch c
  let lane := fun (b : Bool) => b2n b
  if f.page / 8 = 4 && f.page < 0x28 && f.off == 0x128 then
    let l := f.page - 0x20
    (if f.lsb = 4 then lane ((laneAt l).elim false (s.someFrozen c))
     else if f.lsb = 5 then lane (bitAt x.rd.flags l)
     else s.cr c f)
  else if slotPage f.page && (f.off == 0x13C || f.off == 0x140 || f.off == 0x418) then
    -- fields marked FF read 0 in the slots without feed-forward (R187)
    (if !hasFf (f.page - 9) then 0
     else if f.off = 0x140 then s.tget .ff (chRg c) ((f.page - 9) * 256 + s.cr c (F.SLT_FF_IDX_IDX (f.page - 9)))
     else s.cr c f)
  else match f.page, f.off, f.lsb with
  | 0x00, 0x100, 0 => x.st.code
  | 0x00, 0x100, 8 => x.fence
  | 0x00, 0x100, 19 => b2n x.powered
  | 0x2C, 0x114, 0 => x.rd.flags
  | 0x28, 0x100, 8 => b2n x.rd.altSet
  | 0x2A, 0x108, 0 => x.rd.cores.zipIdx.foldl (fun a e => if e.1.isSome then a + 2 ^ e.2 else a) 0
  | 0x2A, 0x108, 16 => min 255 x.rd.queue.length
  | 0x2E, 0x108, 0 => x.rd.ladder?.elim 0 (·.step)
  | 0x2E, 0x108, 31 => b2n x.rd.holder.isSome
  | 0x2E, 0x10C, 0 => x.rd.ladder?.elim (s.cr c f) (·.pcn)
  | 0x2E, 0x114, 0 => x.rd.storeUsed
  | 0x30, 0x118, 0 => x.wr.seq % 2 ^ 32
  | 0x30, 0x11C, 0 => x.wr.seq / 2 ^ 32
  | 0x40, 0x10C, 0 => x.map.recs.length
  | 0x40, 0x110, 0 => s.recReserved c
  | 0x40, 0x120, 0 => x.wr.since
  | 0x40, 0x124, 0 => s.replayMs c
  | 0x41, 0x104, 0 => (x.map.ltc.filter (·.entry.isSome)).length
  | 0x41, 0x104, 8 => x.map.evb.length
  | 0x41, 0x104, 16 => x.map.miss.length
  | 0x41, 0x104, 24 => x.map.locks.length
  | 0x41, 0x108, 8 => x.map.locks.foldl (fun a e => a + 2 ^ e.1) 0
  | 0x38, 0x104, 8 => min 255 (x.wr.ready.length + (x.wr.placed.filter fun p => !p.begun).length)
  | 0x60, 0x10C, 0 => s.opCount c
  | 0x60, 0x110, 0 => s.oldestMs c
  | 0x60, 0x114, 0 => 4 * x.wr.blocks.length
  | 0x08, 0x134, 0 => s.tget .capture (chRg c) (s.cr c F.CLE_CAP_IDX_IDX)
  | 0x10, 0x168, 0 => s.tget .commutation (chRg c) (s.cr c F.SPN_TBL_IDX_IDX)
  | 0x50, 0x128, 0 => s.tget .pdelta (chRg c) (s.cr c F.CAL_PDELTA_IDX_IDX)
  | 0x59, 0x104, 0 => s.tget .counter (chRg c) (s.cr c F.CNT_CNT_IDX_IDX) % 2 ^ 32
  | 0x59, 0x108, 0 => s.tget .counter (chRg c) (s.cr c F.CNT_CNT_IDX_IDX) / 2 ^ 32
  | 0x28, 0x114, 0 => s.tget .eqCoef (chRg c) (eqIndex (s.cr c F.XTC_EQ_SEL_LANE) (s.cr c F.XTC_EQ_SEL_SET) (s.cr c F.XTC_EQ_SEL_TAP))
  | _, _, _ => s.cr c f

/-! The port die. -/

/-- `TMP.FAN_DUTY` (R404); a fraction of a step is dropped. -/
def State.fanDuty (s : State) : Nat :=
  if s.plat.porst || s.pr F.TMP_STS_LEVEL ≥ 2 then 255
  else
    let t := s.composite
    let lo : Int := 16 * (s.pr F.TMP_FAN_T_LO : Int)
    let hi : Int := 16 * (s.pr F.TMP_FAN_T_HI : Int)
    let a : Int := s.pr F.TMP_FAN_DUTY_MIN
    let b : Int := s.pr F.TMP_FAN_DUTY_MAX
    (if t ≤ lo then a else if t ≥ hi then b else a + (b - a) * (t - lo) / (hi - lo)).toNat

/-- Queues created, the admin pair included while the controller is enabled. -/
def State.queueCounts (s : State) : Nat × Nat := (s.front.sqs.length, s.front.cqs.length)

/-- Channels with a transfer in progress: reads of host memory outstanding or waiting for a tag. -/
def State.dmaActive (s : State) : Nat :=
  allChans.foldl (fun a c => a + 2 ^ c.val * b2n (s.front.reads.any (fun e => e.2.chan == c.val && !e.2.dead)
    || s.front.readQ.any fun r => r.chan == c.val)) 0

/-- Fields of port die pages that show live state. -/
def State.portView (s : State) (f : Fld) : Nat :=
  match f.page, f.off, f.lsb with
  | 0x00, 0x104, 0 => Config.dsn.toNat % 2 ^ 32
  | 0x00, 0x108, 0 => Config.dsn.toNat / 2 ^ 32
  | 0x00, 0x10C, 0 => s.fenceFaults
  | 0x00, 0x10C, 16 => b2n s.front.cfs
  | 0x00, 0x10C, 17 => s.pr F.GMON_FE_STS_STANDBY_RETIRED
  | 0x00, 0x10C, 18 => b2n (s.pr F.TMP_STS_LEVEL != 0)
  | 0x00, 0x10C, 19 => s.pr F.BOOT_STS_FALLBACK
  | 0x00, 0x110, 0 => allChans.foldl (fun a c => a + 2 ^ c.val * b2n (s.regionPending (chRg c))) 0
  | 0x01, 0x110, 0 => s.chMask fun x => x.st == .bivouac
  | 0x01, 0x118, 0 => s.chMask fun x => x.powered
  | 0x04, 0x100, 0 => s.plat.time % 2 ^ 32
  | 0x04, 0x104, 0 => s.plat.time / 2 ^ 32
  | 0x04, 0x10C, 0 => s.chMask fun x => x.fence != 0
  | 0x04, 0x110, 0 => allChans.foldl (fun a c => a + 2 ^ c.val * s.cr c F.CHN_STS_DISC_PRESENT) 0
  | 0x04, 0x110, 16 => allChans.foldl (fun a c => a + 2 ^ c.val * s.cr c F.CHN_STS_LDRQ) 0
  | 0x08, 0x100, 0 => s.pr F.GMON_FE_STS_ACTIVE_PAIR
  | 0x08, 0x100, 1 => b2n s.front.pp
  | 0x09, 0x100, 0 => s.front.slots.length
  | 0x09, 0x108, 0 => s.queueCounts.1
  | 0x09, 0x108, 16 => s.queueCounts.2
  | 0x09, 0x10C, 0 => (s.front.slots.filter fun e => e.2.isAdmin && e.2.opcode == 0x08 && e.2.live).length
  | 0x0A, 0x100, 0 => s.dmaActive
  | 0x0B, 0x108, 0 => (s.front.reads.filter fun e => !e.2.dead).length
  | 0x0B, 0x108, 16 => s.tagTotal
  | 0x0B, 0x114, 0 => b2n s.front.bmeStall
  | 0x0B, 0x114, 16 => if s.front.bmeStall then min 65535 ((s.plat.time - s.front.bmeSince) / 1000000) else s.pr f
  | 0x0B, 0x118, 0 => s.ctoUs
  | 0x0C, 0x104, _ => bitsAt (s.tget .winActive 0 (s.pr F.WIN_TBL_IDX_IDX)) f.lsb f.width
  | 0x0C, 0x108, 16 => ((List.range 2048).filter fun p => (s.winPage p).valid).length
  | 0x10, 0x100, 16 => s.sec.keys.length
  | 0x10, 0x108, 0 => s.chMask fun x => x.keysLost
  | 0x19, 0x110, 3 => b2n s.alert
  | 0x19, 0x118, 0 => s.fanDuty
  | 0x1A, 0x108, 0 => s.gpioIn
  | _, _, _ => s.pr f

/-! The telemetry pages' windows (R456 to R460). -/

/-- Fields of a histogram window: the selected source's configuration, and the snapshot word. `GMON.HIST_IDX` resets to 0 as MON's does,
which names no source of the port die: until a source is selected the window reads as source 0x00 stands at reset, and writes of it are
ignored (DESIGN CHOICE, log 168). -/
def State.histView (s : State) (rg : Nat) (f : Fld) : Option Nat :=
  let base := if rg = 0 then 0x140 else 0x108
  let src := s.rd rg (fHistIdx rg)
  if f.page ≠ monPage rg || f.off < base then none
  else if (histWord rg f).isSome then some (s.rdAct rg f)
  else match f.off - base, f.lsb with
    | 0x04, 8 => some (s.tget .hist rg (src * 64 + 36))
    | 0x18, 0 => some (s.tget .snap rg (s.rd rg (if rg = 0 then F.GMON_SNAP_IDX_WORD else F.MON_SNAP_IDX_WORD)))
    | _, _ => none

/-- The value of a field as it reads; write-only fields read 0 (Table 0-4). -/
def State.view (s : State) (rg : Nat) (f : Fld) : Nat :=
  if f.acc == .wo then 0
  else if f.off < 0x100 then s.headerView rg f
  else match s.histView rg f with
    | some v => v
    | none => if rg = 0 then s.portView f else match chan? (rg - 1) with
      | some c => s.chanView c f
      | none => 0

/-- A register as it reads, `PEND_k` included. -/
def State.readReg (s : State) (rg page off : Nat) : Nat :=
  if 0x040 ≤ off && off < 0x060 then (if page = 0 then s.pend rg ((off - 0x040) / 4) else 0)
  else ((regFields rg page off).map fun f => s.view rg f % 2 ^ f.width * 2 ^ f.lsb).sum

/-- The Flysheet copy of a register as it reads: fields without one read 0 (R463), but for the window entry (R321). -/
def State.readFly (s : State) (rg page off : Nat) : Nat :=
  if rg = 0 ∧ page = 0x0C ∧ off = 0x104 then s.tget .winFly 0 (s.pr F.WIN_TBL_IDX_IDX)
  else if rg = 0 ∧ page = 0x0C ∧ off = 0x100 then s.readReg 0 0x0C 0x100
  else if rg ≠ 0 && slotPage page && !hasFf (page - 9) && (off == 0x13C || off == 0x140 || off == 0x418) then 0
  else (((regFields rg page off).filter fun f => f.acc == .rw || f.acc == .rwf).map fun f => s.rdFly rg f * 2 ^ f.lsb).sum

end Sys2Proof.Machine
end

