-- ==== Sys2Proof/Machine/Logs.lean ====
section
/-! DEFINITION. Identify and Get Log Page (R327 to R329, R358 to R360, Tables 11-2 to 11-5, 11-16 to 11-18, 11-21). -/

namespace Sys2Proof.Machine
open Sys2Proof

/-! Identify (R328). -/

/-- An uppercase hexadecimal digit as an ASCII byte. -/
def hexDigit (d : Nat) : Byte := BitVec.ofNat 8 (if d % 16 < 10 then 48 + d % 16 else 55 + d % 16)

/-- The Device Serial Number in 16 hexadecimal digits, most significant first. -/
def serialDigits : List Byte := (List.range 16).map fun i => hexDigit (Config.dsn.toNat / 16 ^ (15 - i))

/-- One power state descriptor of Table 11-2. -/
def powerState (i mp : Nat) : List Byte :=
  layout 32 [(0, leBytes 2 mp), (12, List.replicate 4 (BitVec.ofNat 8 i))]

/-- The Identify Controller data (Table 11-2). -/
def State.identifyController (s : State) : List Byte :=
  layout 4096 [(0, leBytes 2 0x1E9A), (2, leBytes 2 (s.cfgRaw 0x2C 0x32161E9A % 65536)),
    (4, serialDigits ++ List.replicate 4 0x20), (24, padTo 40 0x20 (ascii "Ezsal K3216")),
    (64, leBytes 4 (s.pr F.FEC_VER_LO) ++ leBytes 4 (s.pr F.FEC_VER_HI)), (72, leBytes 1 6), (77, leBytes 1 10), (78, leBytes 2 1),
    (80, leBytes 4 0x20000), (84, leBytes 4 1000000), (88, leBytes 4 8000000), (92, leBytes 4 0x300), (111, leBytes 1 1),
    (256, leBytes 2 4), (258, leBytes 1 15), (259, leBytes 1 7), (260, leBytes 1 0x19), (261, leBytes 1 7), (262, leBytes 1 63),
    (263, leBytes 1 2), (266, leBytes 2 368), (268, leBytes 2 378), (270, leBytes 2 5), (512, leBytes 1 0x66), (513, leBytes 1 0x44),
    (516, leBytes 4 16), (520, leBytes 2 0x80), (525, leBytes 1 7), (526, leBytes 2 255), (528, leBytes 2 255), (536, leBytes 4 1),
    (768, ascii "nqn.2019-11.com.rilwick:k3216:" ++ serialDigits),
    (2048, powerState 0 6800), (2080, powerState 1 4500), (2112, powerState 2 2500)]

/-- The disc identifier as NGUID: zeros until identity revision 1 is on the disc (Table 11-3). -/
def Disc.nguid (d : Disc) : List Byte := if d.revision = 0 then zeros 16 else padTo 16 0 d.discId

/-- NSZE and NCAP (Table 11-3). -/
def Disc.nsze (d : Disc) : Nat := if d.direct then 873740672 else 2147483648
def Disc.ncap (d : Disc) : Nat := if d.direct then 16 * (userBeyond 0 - d.slipsAtMount) else 2147483648

/-- NUSE: blocks under valid records, or the write pointer LBA. -/
def State.nuse (s : State) (c : Fin 16) (d : Disc) : Nat :=
  if d.direct then d.nextLba else ((s.ch c).map.recs.map (·.2.len)).sum

/-- The Identify Namespace data of an active namespace (Tables 11-3, 11-4). -/
def State.identifyNamespace (s : State) (c : Fin 16) (d : Disc) : List Byte :=
  layout 4096 [(0, leBytes 8 d.nsze), (8, leBytes 8 d.ncap), (16, leBytes 8 (s.nuse c d)), (24, leBytes 1 2),
    (34, leBytes 2 (if d.direct then 0 else 255)), (36, leBytes 2 (if d.direct then 0 else 255)),
    (99, leBytes 1 (b2n (!d.writable))), (104, d.nguid), (128, leBytes 4 (12 * 65536)),
    (3072, leBytes 1 (b2n d.direct)),
    (3073, leBytes 1 (b2n d.blank + 2 * b2n d.sealed_ + 4 * b2n d.keyed + 8 * b2n (d.roMount || d.roDisc) + 16 * b2n d.compress)),
    (3076, leBytes 4 (if d.keyed then d.keyId else 0)), (3080, leBytes 4 (s.cr c F.WRC_WPTR)),
    (3084, leBytes 4 (userBeyond (s.cr c F.WRC_WPTR))), (3088, leBytes 8 (s.ch c).wr.seq), (3096, leBytes 4 d.ckptNum)]

/-- The Identify data of a CNS value for a namespace, or the status it fails with (R327, R328). -/
def State.identifyData (s : State) (x : CmdSlot) : Status ⊕ List Byte :=
  let one := if x.nsid = 0 then none else chan? (x.nsid - 1)
  let inNs := fun (f : Fin 16 → Disc → List Byte) => match one with
    | none => .inl stInvalidNs
    | some c => match (s.ch c).disc with
      | some d => .inr (if (s.ch c).active then f c d else zeros 4096)
      | none => .inr (zeros 4096)
  match bitsAt (x.dw 10) 0 8 with
  | 0x00 => inNs fun c d => s.identifyNamespace c d
  | 0x01 => .inr s.identifyController
  | 0x02 =>
    if x.nsid ≥ 0xFFFFFFFE then .inl stInvalidNs
    else .inr (padTo 4096 0 ((allChans.filter fun c => (s.ch c).active && c.val + 1 > x.nsid).flatMap fun c => leBytes 4 (c.val + 1)))
  | 0x03 => match one with
    | none => .inl stInvalidNs
    | some c => match (s.ch c).disc with
      | some d => if (s.ch c).active then .inr (layout 4096 [(0, [2, 16]), (4, d.nguid)]) else .inl stInvalidNs
      | none => .inl stInvalidNs
  | 0x05 => if bitsAt (x.dw 11) 24 8 ≠ 0 then .inl stInvalidField else inNs fun _ _ => zeros 4096
  | 0x06 => if bitsAt (x.dw 11) 24 8 ≠ 0 then .inl stInvalidField else .inr (zeros 4096)
  | 0x08 => inNs fun _ d => layout 4096 [(8, leBytes 1 (b2n (!d.writable))), (14, leBytes 1 1)]
  | 0x1C => .inr (layout 4096 [(0, leBytes 8 1)])
  | _ => .inl stInvalidField

/-- IDENTIFY. -/
def identify (s : State) (k : Nat) (x : CmdSlot) : State :=
  match s.identifyData x with
  | .inl st => s.finish k st
  | .inr data => s.finishData k x data

def execIdentify (k : Nat) (s : State) : Res :=
  .next (match s.cmd? k true 0x06 with
    | some x => identify s k x
    | none => s)

/-! The standard logs. -/

/-- A temperature in 1/16 °C as whole kelvin. -/
def kelvin (t : Int) : Nat := (t / 16 + 273).toNat

/-- The hottest pickup thermistor (R359). -/
def State.pickupMax (s : State) : Int :=
  allChans.foldl (fun a c => max a (toSigned 16 (s.cr c F.MON_PU_TEMP_T))) (toSigned 16 (s.cr 0 F.MON_PU_TEMP_T))

/-- Temperatures in kelvin: composite, sensor 1 and sensor 2 (R359). -/
def State.temperatures (s : State) : List Nat := [kelvin s.composite, kelvin s.composite, kelvin s.pickupMax]

/-- Whether a threshold of feature 0x04 is reached. -/
def State.tempBeyond (s : State) : Bool :=
  s.temperatures.zipIdx.any fun e => e.1 ≥ s.feat (0x400 + e.2) || e.1 ≤ s.feat (0x410 + e.2)

/-- Available Spare of a channel's disc: the per cent of user-area clusters beyond the write pointer. -/
def State.spare (s : State) (c : Fin 16) : Nat := 100 * userBeyond (s.cr c F.WRC_WPTR) / userBeyond 0

/-- The SMART / Health log of the namespaces given, with the Available Spare (R359). -/
def State.smartLog (s : State) (cs : List (Fin 16)) (spare : Nat) : List Byte :=
  let sum := fun (f : Smart → Nat) => (cs.map fun c => f s.front.smart[c]).sum
  let ro := cs.any fun c => (s.ch c).disc.elim false fun d => d.sealed_ || d.roDisc
  let units := fun n => (n * 8 + 999) / 1000
  let t := s.temperatures
  layout 512 [(0, leBytes 1 (2 * b2n (s.pr F.TMP_STS_LEVEL != 0 || s.tempBeyond) + 4 * b2n (s.fenceFaults != 0) + 8 * b2n ro)),
    (1, leBytes 2 (t.getD 0 0)), (3, leBytes 1 spare), (4, leBytes 1 2), (5, leBytes 1 (100 - spare)),
    (32, leBytes 16 (units (sum (·.blocksRead)))), (48, leBytes 16 (units (sum (·.blocksWritten)))),
    (64, leBytes 16 (sum (·.reads))), (80, leBytes 16 (sum (·.writes))), (160, leBytes 16 (sum (·.mediaErrors))),
    (176, leBytes 16 s.front.errCount), (200, leBytes 2 (t.getD 1 0)), (202, leBytes 2 (t.getD 2 0))]

/-- An entry of the Error Information log. -/
def ErrEntry.bytes (e : ErrEntry) : List Byte :=
  layout 64 [(0, leBytes 8 e.count), (8, leBytes 2 e.sqid), (10, leBytes 2 e.cid), (12, leBytes 2 (2 * e.status)),
    (14, leBytes 2 0xFFFF), (16, leBytes 8 e.lba), (24, leBytes 4 e.nsid)]

/-- The Firmware Slot log: active slot, slot at the next reset, and the revision of each valid slot. -/
def State.firmwareLog (s : State) : List Byte :=
  layout 512 ((0, leBytes 1 (s.table.1.active + 16 * s.table.1.next)) :: ([1, 2, 3, 4] : List Nat).map fun i =>
    (8 * i, ((s.bundleAt (slotBase i)).map (·.version)).getD (zeros 8)))

/-- The effects Table 11-5 reports, in the standard's bits. -/
def effects (admin : Bool) (op : Nat) : Nat :=
  if !knownOpcode admin op then 0
  else if admin then
    1 + (match op with
      | 0x10 => 16
      | 0xC0 => 4 + 8 + 2
      | 0xC1 => 4 + 8
      | 0xC2 => 4 + 2
      | 0xC4 => 4 + 8
      | 0xC6 => 2
      | _ => 0)
  else 1 + (if op = 0x01 then 2 else 0)

/-- The Commands Supported and Effects log (R329). -/
def effectsLog : List Byte :=
  (List.range 256).flatMap (fun op => leBytes 4 (effects true op)) ++ (List.range 256).flatMap (fun op => leBytes 4 (effects false op))
    ++ zeros 2048

/-! The vendor logs. -/

/-- A channel's record of the Channel Status log (Table 11-17). -/
def State.channelRecord (s : State) (c : Fin 16) : List Byte :=
  let x := s.ch c
  let disc := fun (f : Disc → Bool) => b2n (x.disc.elim false f)
  let flags := s.cr c F.CHN_STS_DISC_PRESENT + 2 * s.cr c F.CHN_STS_LDRQ + 4 * s.cr c F.CHN_STS_SAFE + 8 * b2n x.active
    + 16 * disc (·.direct) + 32 * disc (·.sealed_) + 64 * disc (·.keyed) + 128 * b2n x.xtsKey.isSome
  let always := [(0, leBytes 1 x.st.code), (1, leBytes 1 flags), (2, leBytes 1 x.fence), (3, leBytes 1 (s.cr c F.SPN_STS_STATE)),
    (4, leBytes 4 x.wr.blocks.length), (8, leBytes 4 x.stagedAtFence),
    (32, leBytes 4 (s.cr c F.STW_FW_VER_LO) ++ leBytes 4 (s.cr c F.STW_FW_VER_HI)), (40, padTo 8 0 x.cleVer),
    (48, leBytes 2 (s.cr c F.MON_PU_TEMP_T)), (50, leBytes 2 (min 65535 x.implCount)), (52, leBytes 4 (s.cr c F.SCH_CMD_LIMIT)),
    (56, leBytes 8 x.stTime)]
  layout 256 (always ++ (if x.fence != 0 then [] else [(12, leBytes 4 (s.opTimes c).length), (16, leBytes 4 (s.oldestMs c)),
    (20, leBytes 4 (s.cr c F.WRC_WPTR)), (24, leBytes 8 x.wr.seq)]))

/-- The Media Quality log of a channel. -/
def State.qualityLog (s : State) (c : Fin 16) : List Byte :=
  let q := fun i => leBytes 8 ((s.ch c).rd.quality.getD i 0)
  let weak := (s.ch c).wr.weak.take 1024
  layout 256 ((List.range 17).map (fun i => (8 * i, q i)) ++ [(136, leBytes 4 weak.length)])
    ++ padTo 8192 0 (weak.flatMap fun e => leBytes 4 e.pcn ++ leBytes 1 e.mq ++ leBytes 1 e.repl ++ leBytes 1 e.layer ++ leBytes 1 e.zone)

/-- An entry of the Lost Data log. -/
def LostEntry.bytes (e : LostEntry) : List Byte :=
  leBytes 8 e.num ++ leBytes 8 e.time ++ leBytes 4 e.pcn ++ leBytes 4 e.lba ++ leBytes 1 e.nsid ++ leBytes 1 e.reason ++ zeros 6

/-- The Lost Data log. -/
def State.lostLog (s : State) : List Byte :=
  let l := s.front.lost
  leBytes 4 l.length ++ leBytes 4 s.front.lostDrop ++ leBytes 8 ((l.head?.map (·.num)).getD 0)
    ++ leBytes 8 ((l.getLast?.map (·.num)).getD 0) ++ zeros 8 ++ padTo (32 * 8192) 0 (l.flatMap LostEntry.bytes)

/-- The Calibration Readout log by LSP (R360). The widths of its packed fields are a DESIGN CHOICE (log 19). -/
def State.calibrationLog (s : State) (c : Fin 16) (lsp : Nat) : List Byte :=
  let word := fun i => leBytes 4 (ofSigned 32 (toSigned 24 (s.tget .capture (chRg c) i)))
  padTo 4096 0 (match lsp with
    | 0 =>
      let r := (s.ch c).wr.lastRun.getD (0, 0, 0)
      leBytes 1 r.1 ++ leBytes 1 r.2.1 ++ leBytes 2 r.2.2 ++ leBytes 1 (s.cr c F.WRC_TEST_STS_FAIL) ++ zeros 3
        ++ (List.range 8).flatMap (fun b => leBytes 2 (s.cr c (F.WRC_TEST_RES_P_OPT b)))
        ++ (List.range 8).flatMap (fun b => leBytes 1 (s.cr c (F.WRC_TEST_RES_BEST_MQ b)))
        ++ (List.range 15).flatMap fun k => (List.range 8).flatMap fun b => leBytes 1 (s.cr c (F.VFY_STEP_MQ k b))
    | 1 =>
      let n := s.cr c F.CLE_SWEEP_STS_POINTS
      leBytes 2 (s.cr c F.CLE_SWEEP_CTL_SLOT) ++ leBytes 2 (n + 1) ++ (List.range (3 * (n + 1))).flatMap word
    | _ => (List.range 256).flatMap fun i => leBytes 2 (s.tget .pdelta (chRg c) i))

/-- An entry of the Event Trace log: its layout in 32 bytes is a DESIGN CHOICE (log 19). -/
def TraceEntry.bytes (e : TraceEntry) : List Byte :=
  leBytes 8 e.num ++ leBytes 8 e.time ++ leBytes 1 e.chan ++ leBytes 1 e.page ++ leBytes 1 e.bit ++ zeros 1 ++ leBytes 4 e.err
    ++ leBytes 4 e.info ++ zeros 4

/-! GET_LOG_PAGE (R358). -/

/-- What a log page holds, or the status the command fails with. The Available Spare where no disc is mounted is `free`. -/
def State.logData (s : State) (x : CmdSlot) (free : Nat) : Status ⊕ List Byte :=
  let lsp := bitsAt (x.dw 10) 8 7
  let perNs := fun (gate : Fin 16 → Route) (f : Fin 16 → Status ⊕ List Byte) =>
    match if x.nsid = 0 then none else chan? (x.nsid - 1) with
    | none => Sum.inl stInvalidNs
    | some c => match gate c with
      | .fail st => .inl st
      | _ => f c
  match bitsAt (x.dw 10) 0 8 with
  | 0x01 => .inr (padTo 4096 0 (s.front.errLog.flatMap ErrEntry.bytes))
  | 0x02 =>
    if x.nsid = 0xFFFFFFFF then
      let ds := allChans.filter fun c => (s.ch c).disc.isSome && (s.ch c).active
      let low := (ds.map s.spare).foldl (fun a v => if a ≤ v then a else v) 100
      .inr (s.smartLog allChans (if ds.isEmpty then free % 101 else low))
    else perNs s.gate fun c => .inr (s.smartLog [c] (s.spare c))
  | 0x03 => .inr s.firmwareLog
  | 0x04 => .inr (padTo 4096 0 (((List.range 17).filter s.front.changed.contains).flatMap fun n => leBytes 4 n))
  | 0x05 => .inr effectsLog
  | 0xC0 => .inr (allChans.flatMap s.channelRecord)
  | 0xC1 => perNs s.gate fun c => .inr (s.qualityLog c)
  | 0xC2 =>
    let snap := fun rg src => if histSource rg src then .inr ((s.snapWords rg src).flatMap (leBytes 4)) else .inl stInvalidField
    if x.nsid = 0xFFFFFFFF then snap 0 (0x80 + lsp % 128) else perNs s.gate fun c => snap (chRg c) lsp
  | 0xC3 => .inr s.lostLog
  | 0xC4 => perNs s.gateOpen fun c => if lsp > 2 then .inl stInvalidField else .inr (s.calibrationLog c lsp)
  | 0xC5 => .inr (padTo (32 * 4096) 0 (s.front.trace.flatMap TraceEntry.bytes))
  | _ => .inl stInvalidLogPage

/-- `n` free bytes: a log says nothing of what lies past its end. -/
def State.drawBytes (s : State) : Nat → List Byte × State
  | 0 => ([], s)
  | n + 1 =>
    let d := s.draw 8
    let r := d.2.drawBytes n
    (BitVec.ofNat 8 d.1 :: r.1, r.2)

/-- What reading a log does to it: RAE = 0 unmasks the events that name it (R357), the Changed Namespace List starts anew, and LSP bit 0
of the Lost Data log removes the entries returned whole. -/
def State.logRead (s : State) (x : CmdSlot) (ofs n : Nat) : State :=
  let lid := bitsAt (x.dw 10) 0 8
  let s1 := if lid = 0x04 then s.modFront fun f => { f with changed := [] } else s
  let s2 := if lid = 0xC3 ∧ bitAt (x.dw 10) 8 then
      s1.modFront fun f => { f with lost := (f.lost.zipIdx.filter fun e => !(ofs ≤ 32 + 32 * e.2 && 64 + 32 * e.2 ≤ ofs + n)).map (·.1) }
    else s1
  if bitAt (x.dw 10) 15 then s2
  else (s2.modFront fun f => { f with masked := f.masked.filter fun m => m.2 != lid }).pumpEvents 8

/-- GET_LOG_PAGE. -/
def getLogPage (s : State) (k : Nat) (x : CmdSlot) : State :=
  let n := xferLen true 0x02 x
  let ofs := x.dw 12 + 2 ^ 32 * x.dw 13
  let f := s.draw 7
  let s0 := if bitsAt (x.dw 10) 0 8 = 0x02 ∧ x.nsid = 0xFFFFFFFF then f.2 else s
  match s.logData x f.1 with
  | .inl st => s.finish k st
  | .inr data =>
    if ofs % 4 ≠ 0 ∨ ofs > data.length then s.finish k stInvalidField
    else if !s.pointersOk x true then s.refusePointer k x
    else
      let part := (data.drop ofs).take n
      let r := s0.drawBytes (n - part.length)
      ((r.2.sendData x 0 (part ++ r.1)).finish k stSuccess).logRead x ofs n

def execGetLogPage (k : Nat) (s : State) : Res :=
  .next (match s.cmd? k true 0x02 with
    | some x => getLogPage s k x
    | none => s)

end Sys2Proof.Machine
end

