-- ==== Sys2Proof/Machine/Resets.lean ====
section
/-! DEFINITION. Controller enable, reset and shutdown, FLR, PERST#, configuration requests (R311 to R313, R353, R354, R386, R398). -/

namespace Sys2Proof.Machine
open Sys2Proof

/-! What every reset of the host interface does. -/

/-- Drop the commands in slots (R311, R353): those at a channel are cancelled, work they started elsewhere goes on silently, the rest is
gone. Outstanding reads become discarded. -/
def State.dropCommands (s : State) : State :=
  let busy := fun (k : Nat) => s.sec.activating.elim false (·.1 == k) || allChans.any fun c => (s.ch c).svc.elim false (·.1 == k)
  let keep := fun (e : Nat × CmdSlot) =>
    if e.2.phase = .posted then some (e.1, { e.2 with cancel := some .silent })
    else if !e.2.live then none
    else if e.2.chan.isSome then some (e.1, { e.2 with cancel := some .silent, silent := true })
    else if busy e.1 then some (e.1, { e.2 with silent := true })
    else none
  let gone := (s.front.slots.filter fun e => (keep e).isNone).map (·.1)
  let s1 := s.modFront fun f => { f with
    slots := f.slots.filterMap keep, readQ := []
    reads := f.reads.map fun e => (e.1, { e.2 with dead := true }) }
  gone.foldl (fun (s : State) (k : Nat) => s.dropWaits k) s1

/-- Queues, outstanding requests and CSTS go; the namespaces active are remembered for the next enable (R353). CSTS.CFS stays while no
front-end firmware runs (R416). -/
def State.dropController (s : State) : State :=
  let s1 := s.dropCommands
  ((s1.modFront fun f => { f with
    rdy := false, cfs := f.cfs && !s.plat.feUp, shst := 0, shutting := false, sqs := [], cqs := [], aers := [], coalesced := []
    bmeStall := false, bmeOver := false
    wasActive := if s.front.rdy then s.chMask (·.active) else f.wasActive }).pw F.DMA_STS_STALLED 0).modSec fun x =>
      { x with eraseDue := true }

/-- A slot set for the next reset is activated before CSTS.RDY is set (R355). -/
def State.startDue (s : State) : State :=
  match s.sec.actDue with
  | some i => if s.sec.activating.isSome || !s.plat.feUp then s else s.activate 65536 i
  | none => s

/-- Host-lost mode (R312): a channel with a mounted disc writes what is staged and a checkpoint, and stops its spindle. -/
def State.enterHostLost (s : State) (c : Fin 16) : State :=
  if !(s.ch c).active || (s.ch c).st ≠ .mounted then s else (s.setSt c .hostLost).startProc c .hostLost none

/-- Every channel enters host-lost mode. -/
def State.loseHost (s : State) : State := allChans.foldl (fun (s : State) (c : Fin 16) => s.enterHostLost c) s

/-! The controller (R353, R354). -/

/-- CONTROLLER_ENABLE: CC.EN goes from 0 to 1. -/
def controllerEnable (s : State) : State :=
  if bitAt s.cc 0 || s.front.inReset || s.front.flr || s.plat.porst then s else (s.putNvme 0x14 (s.cc + 1)).becomeReady

def execControllerEnable (s : State) : Res := .next (controllerEnable s)

/-- CONTROLLER_RESET: CC.EN goes from 1 to 0. Of what Bus Master Enable holds back only register-page messages remain. -/
def controllerReset (s : State) : State :=
  if !bitAt s.cc 0 then s
  else
    let s1 := (s.putNvme 0x14 (s.cc - 1)).dropController
    ((s1.modFront fun f => { f with held := f.held.filter fun o => match o with
        | .msix v _ _ => v ≥ 64
        | _ => false }).incSat 0 F.RST_COUNTS_CTRL).startDue

def execControllerReset (s : State) : Res := .next (controllerReset s)

/-- Put CC.SHN. -/
def State.putShn (s : State) (n : Nat) : State := s.putNvme 0x14 (s.cc - bitsAt s.cc 14 2 * 2 ^ 14 + n * 2 ^ 14)

/-- NORMAL_SHUTDOWN: CC.SHN = 0b01. -/
def normalShutdown (s : State) : State :=
  if !s.front.rdy || s.front.shutting || s.front.shst != 0 then s
  else
    let s1 := (s.putShn 1).modFront fun f => { f with shutting := true, shst := 1 }
    let s2 := allChans.foldl (fun (s : State) (c : Fin 16) =>
      if (s.ch c).active && (s.ch c).fence == 0 then s.startProc c .shutdown none else s) s1
    s2.checkShutdown

def execNormalShutdown (s : State) : Res := .next (normalShutdown s)

/-- SHUTDOWN_DEADLINE: 8 s after the request. -/
def shutdownDeadline (s : State) : State :=
  if !s.front.shutting then s else s.modFront fun f => { f with shutting := false, shst := 2 }

def execShutdownDeadline (s : State) : Res := .next (shutdownDeadline s)

/-- ABRUPT_SHUTDOWN: CC.SHN = 0b10. -/
def abruptShutdown (s : State) : State :=
  if !s.front.rdy then s else ((s.putShn 2).modFront fun f => { f with shutting := false, shst := 2 }).loseHost

def execAbruptShutdown (s : State) : Res := .next (abruptShutdown s)

/-! Function Level Reset (R311). -/

/-- What configuration space keeps through any reset but PORST#: the board record's Subsystem dword (R412). -/
def State.resetConfig (s : State) : State :=
  ((s.modFront fun f => { f with cfg := f.cfg.filter (·.1 == 0x2C), nvme := [], pba := [], held := [], q2 := [], q4 := [], ltr := 0 }).tclear .msix 0).tclear .winActive 0
    |>.tclear .winFly 0

/-- FUNCTION_LEVEL_RESET: Initiate Function Level Reset is written. -/
def functionLevelReset (s : State) : State :=
  if s.front.inReset || s.front.flr || s.plat.porst then s
  else
    let s1 := allChans.foldl (fun (s : State) (c : Fin 16) => s.orderlyStop c 3) s
    let s2 := (s1.dropController.resetConfig).incSat 0 F.RST_COUNTS_FLR
    (((s2.modFront fun f => { f with flr := true }).irq 0 0x0B 6)).startDue

def execFunctionLevelReset (s : State) : Res := .next (functionLevelReset s)

/-- FLR_COMPLETE: step 5 of Table 10-6. -/
def execFlrComplete (s : State) : Res := .next (s.modFront fun f => { f with flr := false })

/-! PERST#, hot reset, link down (R312, R313, R398). -/

/-- Whether the reset leaves a port die register as it is: all but the PCI, QMG, DMA, FEC and WIN blocks, `LINK_CAP` (R319), the version
of the image the front end is reloaded from, and `QMG.PEAK`, which counts since PORST#. -/
def perstResets (page off : Nat) : Bool :=
  [0x08, 0x09, 0x0A, 0x0B, 0x0C].contains page && !(page == 0x0B && (off == 0x104 || off == 0x904))
    && !(page == 0x08 && (off == 0x104 || off == 0x108)) && !(page == 0x09 && off == 0x104)

/-- PERST. The link is down until the next training; front-end firmware starts afresh, with default features and no events. A link that goes
down while the function is in D3hot has gone to L2 (PRESUMED, log 185). -/
def perst (cause : LinkReset) (s : State) : State :=
  let s0 : State := if cause = .perst then { s with plat := { s.plat with perstLow := true } } else s
  if s.plat.porst || s.front.inReset then s0
  else
    let s1 := (s0.dropController.resetConfig).resetFields 0 perstResets
    let s2 := s1.modFront fun f => { f with
      inReset := true, flr := false, l2 := cause == .linkDown && s0.cfgRaw 0x44 8 % 4 == 3, pp := false, feats := [], events := [], masked := [], reads := [], deadTags := [] }
    let s3 : State := { s2 with flyHeld := s2.flyHeld.filter fun h => !(h.1 == 0 && perstResets h.2.1 h.2.2.1) }
    (((s3.irq 0 0x0B 0).incSat 0 F.RST_COUNTS_PERST).loseHost).startDue

def execPerst (cause : LinkReset) (s : State) : Res := .next (perst cause s)

/-- PERST_DEASSERT: the link may train, and WAKE# is released (R298). -/
def perstDeassert (s : State) : State :=
  let s1 := s.modFront fun f => { f with l2 := false, wakePin := false }
  { s1 with plat := { s1.plat with perstLow := false } }

def execPerstDeassert (s : State) : Res := .next (perstDeassert s)

/-! Configuration requests (R297, R298, R311, R386). -/

/-- The mask of the bytes that byte enables select. -/
def byteMask (be : Nat) : Nat := (List.range 4).foldl (fun a i => a + (if bitAt be i then 255 * 2 ^ (8 * i) else 0)) 0

/-- Messages of pending vectors, once MSI-X is enabled and they are not masked (R301). -/
def State.pumpMsix (s : State) : State :=
  if !s.msixOn then s
  else (s.front.pba.filter fun e => e.2 && s.tget .msix 0 (4 * e.1 + 3) % 2 == 0).foldl (fun (s : State) (e : Nat × Bool) =>
    (s.modFront fun f => { f with pba := SMap.erase f.pba e.1 }).msix e.1) s

/-- A write of a configuration dword: Bus Master Enable and Initiate Function Level Reset act (R309 to R311). -/
def State.configWrite (s : State) (off be v : Nat) : State :=
  let m := byteMask be
  if off = 0x04 then
    let s1 := s.cfgWrite 0x04 (v - v / 4 % 2 * 4 + 4 * b2n s.bme) m
    if bitAt be 0 && bitAt v 2 && !s.bme then bmeSet s1
    else if bitAt be 0 && !bitAt v 2 && s.bme then bmeClear s1 else s1
  else if off = 0x78 ∧ bitAt be 1 ∧ bitAt v 15 then functionLevelReset (s.cfgWrite off v m)
  else (s.cfgWrite off v m).pumpMsix

/-- CONFIGURATION_REQUEST: `wr` is the dword of a write, `be` its byte enables; no value is a read. -/
def configurationRequest (off be : Nat) (wr : Option Word) (s : State) : State :=
  if s.plat.porst || s.plat.tripped || s.front.inReset || s.pr F.CLK_PLL_STS_PCIE == 0 then s
  else if s.front.flr then s.answer .retryStatus
  else match wr with
    | none => s.answer (.readData (leBytes 4 (s.cfgRead (off / 4 * 4))))
    | some v => s.configWrite (off / 4 * 4) be v.toNat

def execConfigurationRequest (off : Nat) (be : BitVec 4) (wr : Option Word) (s : State) : Res :=
  .next (configurationRequest off be.toNat wr s)

end Sys2Proof.Machine
end

