-- ==== Sys2Proof/Machine/Transfer.lean ====
section
/-! DEFINITION. Completions of the reads the K3216 issues, firmware activation without reset, and poisoned DRAM words (R303 to R305,
R309, R311, R355, R372 to R374, R418, R420). -/

namespace Sys2Proof.Machine
open Sys2Proof

/-! Reads of host memory (R303 to R305, Table 10-4). -/

/-- A read is over: its tag is free. -/
def State.dropTag (s : State) (tag : Nat) : State := s.modFront fun f => { f with reads := SMap.erase f.reads tag }

/-- A completion discarded without error (R305, R309, R311, R12): `PCI.LATE_CPL` counts it. -/
def State.lateCompletion (s : State) : State := s.incSat 0 F.PCI_LATE_CPL

/-- The AER bit a failed read records (PCI Express Base 5.0, Uncorrectable Error Status). -/
def cplAer : CplStatus → Nat
  | .success => 0
  | .unsupportedRequest => 0x100000
  | .completerAbort => 0x8000
  | .poisoned => 0x1000

/-- The cause a failed transfer records (Table 10-9). -/
def cplCause : CplStatus → Nat
  | .poisoned => 3
  | _ => 2

/-- A read fails (R305): its command, where it still waits for the data, ends with Data Transfer Error and stages nothing. -/
def State.readFails (s : State) (r : ReadReq) (cause : Nat) : State :=
  match chan? r.chan with
  | some c => (s.intakeFails c r.slot cause r.addr).issueReads
  | none => s

/-- The read of a tag is done when its last byte has arrived (R304); its latency is sampled. -/
def State.readDone (s : State) (tag : Nat) (r : ReadReq) : State :=
  ((((s.dropTag tag).sample 0 0x83 ((s.plat.time : Int) - (r.since : Int))).addData r.slot r.ofs (r.got.take r.len))).issueReads

/-- READ_COMPLETION. A completion of more than 512 bytes is malformed (R302). -/
def readCompletion (tag : Nat) (status : CplStatus) (data : List Byte) (s : State) : State :=
  if s.front.inReset || s.plat.porst || s.plat.tripped then s
  else if data.length > 512 then s.cfgSet 0x104 0x40000
  else match SMap.find? s.front.reads tag with
    | none => if s.front.deadTags.any (fun d => d.1 == tag && s.plat.time < d.2) then s.lateCompletion else s
    | some r =>
      let r1 := { r with got := r.got ++ data }
      let past := decide (r.len ≤ r1.got.length)
      let kept := s.modFront fun f => { f with reads := SMap.insert f.reads tag r1 }
      if r.dead then ((if past || status ≠ .success then s.dropTag tag else kept).lateCompletion).issueReads
      else if status = .success then (if past then s.readDone tag r1 else kept)
      else
        let s1 := ((s.dropTag tag).incSat 0 F.PCI_CPL_ERR_BAD_STATUS).cfgSet 0x104 (cplAer status)
        s1.readFails r (cplCause status)

def execReadCompletion (tag : Nat) (status : CplStatus) (data : List Byte) (s : State) : Res :=
  .next (readCompletion tag status data s)

/-- COMPLETION_TIMEOUT: the tag is not used again for one more timeout (R305). Of a read already discarded no error is logged (R309). -/
def completionTimeout (tag : Nat) (s : State) : State :=
  match SMap.find? s.front.reads tag with
  | none => s
  | some r =>
    if s.ctoUs = 0 then s
    else
      let s1 := (s.dropTag tag).modFront fun f => { f with
        deadTags := (f.deadTags.filter fun d => s.plat.time < d.2) ++ [(tag, s.plat.time + 1000 * s.ctoUs)] }
      if r.dead then s1.issueReads
      else (((s1.incSat 0 F.PCI_CPL_ERR_TIMEOUTS).cfgSet 0x104 0x4000).irq 0 0x0B 3).readFails r 1

def execCompletionTimeout (tag : Nat) (s : State) : Res := .next (completionTimeout tag s)

/-! Activation without reset (R355, R418, R420). -/

/-- FIRMWARE_COMMIT_ACTIVATE_NOW: verify the slot and begin its activation. -/
def commitNow (s : State) (k : Nat) (c : CmdSlot) : State :=
  let i := s.commitSlot c
  if s.commitBarred then s.commitDone k stFwProhibited
  else if i > 4 then s.commitDone k stInvalidFwSlot
  else if s.sec.activating.isSome then s.commitDone k stSequence
  else
    let v := s.verifySlot i
    match v.1 with
    | none => v.2.commitDone k stInvalidFwImage
    | some _ => (v.2.executing k).activate k i

def execFirmwareCommitNow (k : Nat) (s : State) : Res :=
  .next (match s.commit? k 3 with
    | some c => commitNow s k c
    | none => s)

/-- Whether a channel at its turn is ready for its images: its write session has ended and nothing of it is on its way (R355). -/
def State.switchable (s : State) (c : Fin 16) : Bool :=
  (s.ch c).wr.session == .idle && (s.ch c).wr.testRun.isNone && (s.ch c).rd.running.isNone

/-- The images of an activation are in the channel at its turn. A channel in Bivouac keeps its core stopped (R390). -/
def State.imageSwitched (s : State) (c : Fin 16) : State :=
  match s.activeBundle with
  | none => s.closeFence c 8
  | some b =>
    let s1 := s.stewardRuns c b
    let s2 := if (s.ch c).st = .bivouac then s1.wrs (chRg c) [(F.STW_STS_RUN, 0), (F.STW_STS_STOPPED, 1)] else s1
    s2.actTurn (c.val + 1)

/-- CHANNEL_IMAGE_LOADED: it ends a RESTORE of a powered channel, a RELOAD, or the switch of the channel at its turn. `ok` is the outcome
of the SHA-384 check of R420. -/
def channelImageLoaded (c : Fin 16) (ok : Bool) (s : State) : State :=
  if !s.alive c then s
  else match (s.ch c).svc with
    | some (_, op) =>
      if op = 4 ∨ (op = 3 ∧ s.cr c F.DRC_STS_FILL_BUSY = 0) then (if ok then s.svcLoaded c op else s.closeFence c 8) else s
    | none =>
      if s.switching c && s.switchable c then (if ok then s.imageSwitched c else s.closeFence c 8) else s

def execChannelImageLoaded (c : Fin 16) (ok : Bool) (s : State) : Res := .next (channelImageLoaded c ok s)

/-! Poisoned words (R372 to R374, Table 12-4). -/

/-- Whether a command of a channel waits for a block of a cluster. -/
def State.waitsFor (s : State) (c : Fin 16) (lba pcn : Nat) : Bool :=
  (s.ch c).rd.cmds.any fun q => q.kind != .probe && q.targets.zipIdx.any fun e => q.slba + e.2 == lba && (match e.1 with
    | .media p _ => p == pcn
    | .tail p _ => p == pcn
    | _ => false)

/-- A block in the read path is lost to a poisoned word: its commands fail, it is logged with reason 3, and its record is not LOST. -/
def State.poisonedRead (s : State) (c : Fin 16) (lba pcn : Nat) : State :=
  if !s.waitsFor c lba pcn then s
  else
    let ks := (s.ch c).rd.cmds.map (·.slot)
    let s1 := (s.logLost c pcn (some lba) 3).giveBlock c pcn lba none (.failed false)
    ks.foldl (fun (s : State) (k : Nat) => s.finishRead c k) s1

/-- The write buffer's copy of a staged block is poisoned: a host Read of it fails and assembly leaves it out. -/
def State.poisonedBlock (s : State) (c : Fin 16) (id : Nat) : State :=
  s.modWr c fun w => { w with blocks := w.blocks.map fun b => if b.id == id then { b with bad := true } else b }

/-- A map record is poisoned: its LBAs read as Unrecovered Read Error, and no further checkpoint is written in this mount. -/
def State.poisonedRecord (s : State) (c : Fin 16) (start : Nat) : State :=
  match SMap.find? (s.ch c).map.recs start with
  | none => s
  | some e =>
    ((s.modMap c fun m => { m with bad := m.bad ++ [(e.start, e.len)] }).modDisc c fun d => { d with mapPoison := true }).cw c
      F.ECC_STS 1

/-- ECC_POISON: the word fails correction, and what read it bears the consequence. -/
def eccPoison (c : Fin 16) (word : Nat) (use : PoisonUse) (s : State) : State :=
  let s1 := s.poisonWord c word
  match use with
  | .other => s1
  | .readBlock _ lba pcn => s1.poisonedRead c lba pcn
  | .stagedRead _ id => s1.poisonedBlock c id
  | .assembly id => s1.poisonedBlock c id
  | .mapRecord start => s1.poisonedRecord c start
  | .firmware => s1.stewardFault c 3

/-- A word beyond R366's limit is none that the controller corrects for a requester. -/
def execEccPoison (c : Fin 16) (word : Nat) (use : PoisonUse) (s : State) : HRes :=
  if word < 0x38000000 then .next (if s.alive c then eccPoison c word use s else s) else .fault .dramAddress

end Sys2Proof.Machine
end

