-- ==== Sys2Proof/Machine/Power.lean ====
section
/-! DEFINITION. Rails, PORST#, clocks, Bivouac, the always-on monitors and the thermal levels (R381 to R409). -/

namespace Sys2Proof.Machine
open Sys2Proof

/-! PORST# and what acts as it (R383 to R388, R397, R407). -/

/-- What leaves a channel as PORST# takes its outputs: the frame being recorded is cut short, and the kill line is asserted (R129). -/
def State.porstOuts (s : State) (c : Fin 16) : State :=
  let s1 := if (s.ch c).wr.session = .idle then s
    else
      let r := s.drawRow
      r.2.finishStop c r.1 0 true
  if s.cr c F.LDI_STS_KILL_PIN = 0 then s1.answer (.kill c.val true) else s1

/-- The sticky record (R388). -/
structure Sticky where
  pin      : Nat
  brownout : Nat
  rail     : Nat
  pll      : Nat
  xo       : Nat
  tripped  : Nat
  deriving DecidableEq, Repr

/-- The sticky record held now. -/
def State.sticky (s : State) : Sticky :=
  ⟨s.pr F.RST_CAUSE_PIN, s.pr F.RST_CAUSE_BROWNOUT, s.pr F.RST_CAUSE_RAIL, s.pr F.RST_CAUSE_PLL, s.pr F.RST_CAUSE_XO,
    s.pr F.TMP_STS_TRIPPED⟩

/-- A PORST#-level reset that leaves `k` in the sticky record. Flash, fuses, pin levels, and what has already left the device stay. -/
def State.porstLevel (s : State) (k : Sticky) : State :=
  let o := allChans.foldl State.porstOuts s
  let r := State.reset
  ({ r with
    out := o.out, free := o.free, pending := s.pending
    sec := { r.sec with flash := s.sec.flash, svn := s.sec.svn, draws := s.sec.draws, tamperLow := s.sec.tamperLow, bypass := s.sec.bypass }
    plat := { r.plat with gpioIn := s.plat.gpioIn, perstLow := s.plat.perstLow } } : State).wrs 0
    [(F.RST_CAUSE_PIN, k.pin), (F.RST_CAUSE_BROWNOUT, k.brownout), (F.RST_CAUSE_RAIL, k.rail), (F.RST_CAUSE_PLL, k.pll),
      (F.RST_CAUSE_XO, k.xo), (F.TMP_STS_TRIPPED, k.tripped), (F.SEC_STS_DBGEN, s.pr F.SEC_STS_DBGEN)]

/-- PORST_ASSERT: the ball falls. -/
def porstAssert (s : State) : State := if s.plat.porst then s else s.porstLevel { s.sticky with pin := 1 }

def execPorstAssert (s : State) : Res := .next (porstAssert s)

/-- BROWNOUT of a rail, in the order CORE, AON, ANA, PHY, IO, DQ. Loss of VDD_AON clears the record, whose cause then reads PIN (R385). -/
def brownout (rail : Nat) (s : State) : State :=
  if rail = 1 then s.porstLevel ⟨1, 0, 0, 0, 0, 0⟩
  else if s.plat.porst then s
  else s.porstLevel { s.sticky with brownout := 1, rail := rail }

def execBrownout (rail : Fin 6) (s : State) : Res := .next (brownout rail.val s)

/-- PORT_PLL_LOSS (R397). -/
def portPllLoss (s : State) : State := if s.plat.porst then s else s.porstLevel { s.sticky with pll := 1 }

def execPortPllLoss (s : State) : Res := .next (portPllLoss s)

/-- REFERENCE_LOSS: the 50 MHz reference is absent while it should run (R397). -/
def referenceLoss (s : State) : State :=
  if s.plat.porst || s.pr F.CLK_XO_STS_XO50_RUN == 0 then s else s.porstLevel { s.sticky with xo := 1 }

def execReferenceLoss (s : State) : Res := .next (referenceLoss s)

/-- PORST_DEASSERT (Table 13-3 steps 1 to 3, R409, R494): the always-on domain runs, device time starts at 0, the first filtered levels of
the disc inputs are taken without an event, and the port die's PLLs lock. -/
def porstDeassert (discp ldrq : Nat) (s : State) : State :=
  if !s.plat.porst then s
  else
    let s1 : State := { s with plat := { s.plat with porst := false, time := 0, slow := 0 } }
    let s2 := allChans.foldl (fun (s : State) (c : Fin 16) =>
      s.wrs (chRg c) [(F.CHN_STS_DISC_PRESENT, b2n (bitAt discp c.val)), (F.CHN_STS_LDRQ, b2n (bitAt ldrq c.val))]) s1
    let s3 := s2.wrs 0 [(F.CLK_PLL_STS_PORT, 1), (F.CLK_PLL_STS_PCIE, 1), (F.CLK_PLL_STS_LINK_A, 1), (F.CLK_PLL_STS_LINK_B, 1),
      (F.CLK_XO_STS_XO50_RUN, 1), (F.CLK_XO_STS_XO32K_RUN, 1), (F.PWR_RAIL_STS_GOOD, 63)]
    if s3.pr F.TMP_STS_TRIPPED = 1 then s3.irq 0 0x19 1 else s3

def execPorstDeassert (discp ldrq : Nat) (s : State) : Res := .next (porstDeassert discp ldrq s)

/-- CHANNEL_PLL_LOSS: the fence closes with cause 6 (R397). The PLLs of a channel in Bivouac are stopped. -/
def channelPllLoss (c : Fin 16) (s : State) : State :=
  if !s.alive c || ((s.ch c).st == .bivouac && !(s.ch c).waking) then s else s.closeFence c 6

def execChannelPllLoss (c : Fin 16) (s : State) : HRes := .next (channelPllLoss c s)

/-! Early warning (R384). -/

/-- The early warning itself: every channel stops in order, and no session begins until it has been absent for 100 ms. -/
def State.earlyWarning (s : State) : State :=
  let s1 : State := { s with plat := { s.plat with pfw := true, alertPfw := true } }
  let s2 := allChans.foldl (fun (s : State) (c : Fin 16) => s.orderlyStop c 5) s1
  (s2.incSat 0 F.PWR_PFW_COUNT).irq 0 0x01 0

/-- POWER_EARLY_WARNING: a rail below its warning level, or (no rail) the GPIO named in `PFW_CTL` at its active level. A rail below its
warning level is outside its operating range (Table 13-1). VDD_AON's warning only shows. -/
def powerEarlyWarning (rail : Option (Fin 6)) (s : State) : State :=
  if s.plat.porst then s
  else match rail with
    | some r =>
      let bit := 2 ^ r.val
      let s1 := (s.wrs 0 [(F.PWR_RAIL_STS_WARN, s.pr F.PWR_RAIL_STS_WARN ||| bit),
        (F.PWR_RAIL_STS_GOOD, s.pr F.PWR_RAIL_STS_GOOD &&& (63 - bit))]).irq 0 0x01 1
      if r.val = 1 then s1 else s1.earlyWarning
    | none =>
      if s.pr F.PWR_PFW_CTL_EN == 1 && bitAt s.plat.gpioIn (s.pr F.PWR_PFW_CTL_GPIO) == (s.pr F.PWR_PFW_CTL_POL == 1) then s.earlyWarning
      else s

def execPowerEarlyWarning (rail : Option (Fin 6)) (s : State) : Res := .next (powerEarlyWarning rail s)

/-- EARLY_WARNING_END: absent for 100 ms. -/
def earlyWarningEnd (s : State) : State :=
  if s.plat.porst then s
  else
    let s1 : State := { s with plat := { s.plat with pfw := false } }
    s1.wrs 0 [(F.PWR_RAIL_STS_WARN, 0), (F.PWR_RAIL_STS_GOOD, 63)]

def execEarlyWarningEnd (s : State) : Res := .next (earlyWarningEnd s)

/-! Bivouac (R390 to R393). -/

/-- The conditions of R390 that registers and state show; that they have held for BIV_DELAY is the event's own word. -/
def State.idleChannel (s : State) (c : Fin 16) : Bool :=
  let x := s.ch c
  s.alive c && bitAt (s.pr F.PWR_BIV_CTL) c.val && x.fence == 0 && !x.active && x.mounting.isNone && x.st != .bivouac
    && s.cr c F.STW_STS_RUN == 1 && s.spinSt c == 0 && (s.sledSt c == 0 || s.sledSt c == 1)
    && s.cr c F.SCB_STS_BUSY == 0 && x.xf.isNone && !x.cal.due && x.cal.gen.isNone && x.servo.sweep.isNone && x.wr.testRun.isNone
    && x.svc.isNone && x.procs.isEmpty && (s.heldSlots c).isEmpty && !s.switching c

/-- BIVOUAC_ENTRY: the sled is released, the steward core stops, the DRAM enters self-refresh, and the kill line is asserted (R391). -/
def bivouacEntry (c : Fin 16) (s : State) : State :=
  if !s.idleChannel c then s
  else
    let s1 := s.cnt c 13
    let s2 := if s1.sledSt c = 0 then s1 else s1.sledOff c 0
    let s3 := s2.wrs (chRg c) [(F.STW_STS_RUN, 0), (F.STW_STS_STOPPED, 1), (F.DRC_STS_SELF_REFRESH, 1)]
    ((s3.cw c F.SPN_STS_CHOP_ON 0).setSt c .bivouac).showKill c

def execBivouacEntry (c : Fin 16) (s : State) : HRes := .next (bivouacEntry c s)

/-- PWR_WAKE: each bit of `PWR.WAKE` wakes its channel (R392). -/
def pwrWake (mask : Nat) (s : State) : State :=
  allChans.foldl (fun (s : State) (c : Fin 16) => if bitAt mask c.val then s.startWake c 6 else s) s

def execPwrWake (mask : Nat) (s : State) : Res := .next (pwrWake mask s)

/-- XO_STOP (R396): every channel in Bivouac and the link, which allows L1.2, in L1.2. -/
def xoStop (s : State) : State :=
  let l12 := s.pr F.PCI_LINK_STS_DL_UP == 1 && !s.front.inReset && (bitAt (s.cfgRaw 0x228 0) 0 || bitAt (s.cfgRaw 0x228 0) 2)
  if s.plat.porst || s.plat.tripped || !l12 || s.pr F.CLK_XO_CTL == 0 || s.pr F.CLK_XO_STS_XO32K_RUN == 0
      || s.pr F.CLK_XO_STS_XO50_RUN == 0 || allChans.any (fun c => (s.ch c).st != .bivouac || (s.ch c).waking) then s
  else
    let s1 := s.wrs 0 [(F.PCI_LINK_STS_L1_STATE, 3), (F.CLK_XO_STS_XO50_RUN, 0), (F.AON_TIME_SRC, 1)]
    (s1.incSat 0 F.CLK_XO_STS_STOPS).irq 0 0x02 0

def execXoStop (s : State) : Res := .next (xoStop s)

/-! The library's signals (R391, Table 11-15). -/

/-- DISC_PRESENT_CHANGE: a filtered change of Cnn_DISCP. -/
def discPresentChange (c : Fin 16) (level : Bool) (s : State) : State :=
  if s.plat.porst || s.cr c F.CHN_STS_DISC_PRESENT == b2n level then s
  else
    let s1 := (((s.cw c F.CHN_STS_DISC_PRESENT (b2n level)).irq 0 0x04 0).cirq c 0x00 0).event 7 5 0xC0
    s1.startWake c 4

def execDiscPresentChange (c : Fin 16) (level : Bool) (s : State) : Res := .next (discPresentChange c level s)

/-- LOAD_REQUEST_CHANGE: a filtered change of Cnn_LDRQ; its assertion is an event. -/
def loadRequestChange (c : Fin 16) (level : Bool) (s : State) : State :=
  if s.plat.porst || s.cr c F.CHN_STS_LDRQ == b2n level then s
  else
    let s1 := s.cw c F.CHN_STS_LDRQ (b2n level)
    let s2 := if level then (((s1.irq 0 0x04 1).cirq c 0x00 1).event 7 2 0xC0).wakeHost else s1
    s2.startWake c 5

def execLoadRequestChange (c : Fin 16) (level : Bool) (s : State) : Res := .next (loadRequestChange c level s)

/-! Temperature (R401 to R403). -/

/-- The thermal level for the hottest die `t`, in 1/16 °C, from level `cur` (Table 13-8): it rises at a threshold and falls once HYST below
it. -/
def State.thermalLevel (s : State) (t : Int) (cur : Nat) : Nat :=
  let thr : List Int := [s.pr F.TMP_THR_WARN, s.pr F.TMP_THR_THR1, s.pr F.TMP_THR_THR2]
  let at_ := fun (d : Int) => (([1, 2, 3] : List Nat).zip thr).foldl (fun a e => if 16 * (e.2 - d) ≤ t then e.1 else a) 0
  let up := at_ 0
  let down := at_ (s.pr F.TMP_THR_HYST)
  if up > cur then up else min cur down

/-- One 10 ms sample of the die temperature histograms. -/
def State.sampleDies (s : State) (a b p : Int) : State :=
  ((s.sample 0 0x80 p).sample 0 0x81 a).sample 0 0x82 b

/-- THERMAL_SAMPLE: the hottest sensor of each die, in 1/16 °C. -/
def thermalSample (tPort tA tB : Int) (s : State) : State :=
  if s.plat.porst then s
  else
    let before := s.tempBeyond
    let cur := s.pr F.TMP_STS_LEVEL
    let s1 := s.wrs 0 [(F.TMP_TEMP_PORT, ofSigned 16 tPort), (F.TMP_TEMP_A, ofSigned 16 tA), (F.TMP_TEMP_B, ofSigned 16 tB)]
    let s2 := if s1.plat.samples = 0 then s1.sampleDies tA tB tPort else s1
    let s3 : State := { s2 with plat := { s2.plat with samples := (s2.plat.samples + 1) % 100 } }
    let lv := s3.thermalLevel s3.composite cur
    let s4 := if lv = cur then s3 else (((s3.pw F.TMP_STS_LEVEL lv).irq 0 0x19 0).shed).wakeHost
    if (!before && s4.tempBeyond) || (cur == 0 && lv != 0) then s4.event 1 1 0x02 else s4

def execThermalSample (tPort tA tB : Int) (s : State) : Res := .next (thermalSample tPort tA tB s)

/-- One channel's part of a thermal trip (R403 steps 1 to 3). -/
def State.tripChannel (s : State) (c : Fin 16) : State :=
  if !s.alive c then s
  else
    let s1 := if (s.ch c).wr.session = .idle then s.assertKill c 24
      else
        let r := s.drawRow
        r.2.safetyStop c r.1 24
    let s2 := (List.finRange 7).foldl (fun (s : State) (q : Fin 7) => s.wrs (chRg c) [(F.SLT_OUT q, 0), (F.SLT_OUT_CODE q, 0)]) (spinCoast c s1)
    (s2.wrs (chRg c) [(F.DRC_STS_SELF_REFRESH, 1), (F.STW_STS_RUN, 0)]).modWr c fun w => w.cleared

/-- THERMAL_TRIP: nothing runs until PORST# but the always-on domain. The link goes down (R312). -/
def thermalTrip (s : State) : State :=
  if s.plat.porst || s.plat.tripped then s
  else
    let s1 := allChans.foldl State.tripChannel s
    let s2 := ((s1.dropController.resetConfig).resetFields 0 perstResets).modFront fun f => { f with inReset := true, flr := false }
    let s2 := if s.front.inReset then s2 else (s2.irq 0 0x0B 0).incSat 0 F.RST_COUNTS_PERST
    let s3 : State := { s2 with plat := { s2.plat with tripped := true, feUp := false } }
    (s3.wrs 0 [(F.CLK_PLL_STS_PORT, 0), (F.CLK_PLL_STS_PCIE, 0), (F.CLK_PLL_STS_LINK_A, 0), (F.CLK_PLL_STS_LINK_B, 0),
      (F.TMP_STS_TRIPPED, 1)]).irq 0 0x19 1

def execThermalTrip (s : State) : Res := .next (thermalTrip s)

end Sys2Proof.Machine
end

