-- ==== Sys2Proof/Machine/Platform.lean ====
section
/-! DEFINITION. Watchdogs, front-end failover, SRAM and register file errors, the interposer links, tampering and the debug response
(R8, R9, R377, R400, R427, R431 to R435, R440, R445 to R447). -/

namespace Sys2Proof.Machine
open Sys2Proof

/-! Failover (R445 to R447, Tables 15-4 and 15-5). -/

/-- Admin commands the failing pair was executing end with Command Abort Requested; Aborts and Asynchronous Event Requests stand. -/
def State.abortExecuting (s : State) : State :=
  let ks := (s.front.slots.filter fun e => e.2.isAdmin && e.2.phase == .executing && e.2.chan.isNone && e.2.opcode != 0x08
    && e.2.opcode != 0x0C).map (·.1)
  ks.foldl (fun (s : State) (k : Nat) => s.finish k stAbortRequested) s

/-- A failover for a cause: 1 mismatch, 2 SRAM, 3 watchdog. The takeover lasts until device time next advances (`CSTS.PP`). Without a ready
standby the controller fails for good. -/
def State.failover (s : State) (cause : Nat) : State :=
  if !s.plat.feUp then s
  else
    let s1 := ((s.incSat 0 F.GMON_FE_STS_FAILOVERS).wrs 0 [(F.GMON_FE_STS_LAST_CAUSE, cause), (F.GMON_FE_LAST_LO, s.plat.time),
      (F.GMON_FE_LAST_HI, s.plat.time / 2 ^ 32)]).irq 0 0x18 0
    if s.pr F.GMON_FE_STS_STANDBY_READY = 1 then
      let s2 := s1.wrs 0 [(F.GMON_FE_STS_ACTIVE_PAIR, 1 - s.pr F.GMON_FE_STS_ACTIVE_PAIR), (F.GMON_FE_STS_STANDBY_READY, 0)]
      let s3 : State := { s2 with plat := { s2.plat with standby := true } }
      ((s3.modFront fun f => { f with pp := true }).abortExecuting).event 0 3 0x01
    else
      let s2 : State := { s1 with plat := { s1.plat with feUp := false } }
      s2.setCfs.loseHost

def execLockstepMismatch (s : State) : Res := .next (s.failover 1)

/-- STANDBY_READY: the failed pair is back, or its self-test retires it (R447). -/
def standbyReady (pass : Bool) (s : State) : State :=
  if !s.plat.standby then s
  else
    let s1 : State := { s with plat := { s.plat with standby := false } }
    if pass then s1.pw F.GMON_FE_STS_STANDBY_READY 1 else (s1.pw F.GMON_FE_STS_STANDBY_RETIRED 1).irq 0 0x18 1

def execStandbyReady (pass : Bool) (s : State) : Res := .next (standbyReady pass s)

/-! Watchdogs (Table 13-7). -/

/-- A watchdog expires: `RST.WDT_LAST` and the WDT event (R407). -/
def State.watchdog (s : State) (kind chan : Nat) : State :=
  (s.wrs 0 [(F.RST_WDT_LAST_KIND, kind), (F.RST_WDT_LAST_CHANNEL, chan)]).irq 0 0x03 0

/-- STEWARD_WATCHDOG: the steward core did not service its watchdog. One that does not run has none. -/
def stewardWatchdog (c : Fin 16) (s : State) : State :=
  if s.alive c && s.cr c F.STW_STS_RUN == 1 then (s.watchdog 1 c.val).stewardFault c 4 else s

def execStewardWatchdog (c : Fin 16) (s : State) : HRes := .next (stewardWatchdog c s)

/-- FRONT_END_WATCHDOG: failover, as for a mismatch. -/
def execFrontEndWatchdog (s : State) : Res := .next (if s.plat.feUp then (s.watchdog 2 0).failover 3 else s)

/-- SECURITY_CORE_WATCHDOG: the key store is zeroized, and the restarted core derives the KEK afresh (R427). -/
def execSecurityCoreWatchdog (s : State) : HRes :=
  .next (if s.pr F.SEC_STS_STORE_READY = 1 then (s.watchdog 3 0).zeroize 3 else s)

/-! SRAM and register files (R377, Table 12-5). -/

/-- An SRAM error in a block: `ERR_FIRST`, whose offset and detail the spec leaves open, and, when uncorrectable, FAULT. -/
def State.sramError (s : State) (rg page : Nat) (fatal : Bool) : State :=
  let o := s.draw 12
  let s1 := o.2.errOpen rg page o.1 (if fatal then 5 else 6)
  if fatal then s1.wr rg (F.HDR_BLK_STS_FAULT page) 1 else s1

/-- A queue manager slot is lost: its command ends with Internal Error, wherever it is, and the slot is retired. -/
def State.retireSlot (s : State) (k : Nat) : State :=
  if k ≥ 65536 || s.front.retired.contains k then s
  else
    let s1 := match s.slot? k with
      | none => s
      | some x =>
        let s1 := (s.dropWaits k).modFront fun f => { f with aers := f.aers.filter (· != k) }
        let s2 := match x.chan.bind chan? with
          | some c => s1.dropCmds c [k]
          | none => s1
        let s3 := s2.finish k stInternal
        match s3.slot? k with
        | some y => if x.cancel.isSome && x.answer.isNone then cancelAnswer k (s3.putSlot k { y with answer := some false }) else s3
        | none => s3
    let s2 := s1.modFront fun f => { f with retired := k :: f.retired }
    s2.incSat 0 F.GMON_QMG_RETIRED

/-- SRAM_UNCORRECTABLE. An error in the pair that is not in service costs the standby until it is reloaded. -/
def sramUncorrectable (loc : SramSite) (s : State) : State :=
  if s.plat.porst then s
  else match loc with
    | .steward c => if s.alive c then (s.sramError (chRg c) 0x01 true).stewardFault c 3 else s
    | .cle c => if s.alive c then (s.sramError (chRg c) 0x08 true).cleFaultAs c 3 else s
    | .fabric c => if s.alive c then s.closeFence c 5 else s
    | .channelBlock c page => if s.alive c then (s.sramError (chRg c) page true).closeFence c 3 else s
    | .qmgSlot k => (s.sramError 0 0x09 true).retireSlot k
    | .frontEnd pair =>
      let s1 := s.sramError 0 0x08 true
      if pair = s.pr F.GMON_FE_STS_ACTIVE_PAIR then s1.failover 2
      else if s.pr F.GMON_FE_STS_STANDBY_READY = 1 then
        let s2 : State := { s1 with plat := { s1.plat with standby := true } }
        s2.pw F.GMON_FE_STS_STANDBY_READY 0
      else s1
    | .securityCore => (s.sramError 0 0x10 true).zeroize 4
    | .portBlock page => s.sramError 0 page true

def execSramUncorrectable (loc : SramSite) (s : State) : HRes := .next (sramUncorrectable loc s)

/-- SRAM_CORRECTABLE: corrected in place and counted in the block's `ERR_COUNT`. -/
def sramCorrectable (rg page : Nat) (s : State) : State :=
  if (pageFields rg page).isNone || s.plat.porst then s else s.sramError rg page false

def execSramCorrectable (rg page : Nat) (s : State) : HRes := .next (sramCorrectable rg page s)

/-- REGISTER_FILE_PARITY: FAULT and `ERR_FIRST`; the register reads 0 (log 22: until it is written). -/
def registerFileParity (rg page off : Nat) (fly : Bool) (s : State) : State :=
  if (pageFields rg page).isNone || (regFields rg page off).isEmpty || s.plat.porst then s
  else
    let s1 := (s.errOpen rg page off 4).wr rg (F.HDR_BLK_STS_FAULT page) 1
    { s1 with parity := SMap.put s1.parity (parityKey rg page off fly) false true }

def execRegisterFileParity (rg page off : Nat) (fly : Bool) (s : State) : HRes := .next (registerFileParity rg page off fly s)

/-! The interposer links (R8, R9, R440). -/

/-- `LINK_A_STS` or `LINK_B_STS`, by die. -/
def fReplays (die : Fin 2) : Fld := if die = 0 then F.GMON_LINK_A_STS_REPLAYS else F.GMON_LINK_B_STS_REPLAYS
def fRetrains (die : Fin 2) : Fld := if die = 0 then F.GMON_LINK_A_STS_RETRAINS else F.GMON_LINK_B_STS_RETRAINS
def fSpares (die : Fin 2) : Fld := if die = 0 then F.GMON_LINK_A_STS_SPARES_USED else F.GMON_LINK_B_STS_SPARES_USED
def fDegraded (die : Fin 2) : Fld := if die = 0 then F.GMON_LINK_A_STS_DEGRADED else F.GMON_LINK_B_STS_DEGRADED

/-- FLIT_REPLAY: a flit fails its CRC and is replayed; `ok` says whether the replay succeeds. Traffic is not lost. -/
def flitReplay (die : Fin 2) (ok : Bool) (s : State) : State :=
  if s.plat.porst then s
  else
    let n := SMap.get s.plat.replays die.val 0
    let s1 := s.incSat 0 (fReplays die)
    { s1 with plat := { s1.plat with replays := SMap.put s1.plat.replays die.val 0 (if ok then 0 else min 4 (n + 1)) } }

def execFlitReplay (die : Fin 2) (ok : Bool) (s : State) : Res := .next (flitReplay die ok s)

/-- LINK_RETRAIN: after four replays that failed in succession, or a retrain that failed. -/
def linkRetrain (die : Fin 2) (s : State) : State :=
  let due := SMap.get s.plat.replays die.val 0 ≥ 4 || (let f := SMap.get s.plat.retrains die.val 0; f ≥ 1 && f < 3)
  if s.plat.porst || !due || s.plat.training.contains die.val then s
  else
    let s1 := s.incSat 0 (fRetrains die)
    { s1 with plat := { s1.plat with
        replays := SMap.put s1.plat.replays die.val 0 0, training := die.val :: s1.plat.training } }

def execLinkRetrain (die : Fin 2) (s : State) : Res := .next (linkRetrain die s)

/-- LINK_RETRAIN_DONE: after three that failed in succession every channel on the die is quarantined with cause 5. -/
def linkRetrainDone (die : Fin 2) (ok : Bool) (s : State) : State :=
  if !s.plat.training.contains die.val then s
  else
    let n := if ok then 0 else SMap.get s.plat.retrains die.val 0 + 1
    let s1 : State := { s with plat := { s.plat with
      training := s.plat.training.filter (· != die.val), retrains := SMap.put s.plat.retrains die.val 0 n } }
    if n < 3 then s1
    else (allChans.filter fun c => c.val / 8 == die.val).foldl (fun (s : State) (c : Fin 16) =>
      if s.alive c then s.closeFence c 5 else s) s1

def execLinkRetrainDone (die : Fin 2) (ok : Bool) (s : State) : HRes := .next (linkRetrainDone die ok s)

/-- LANE_REPAIR: a lane of a direction goes over to a spare; with all four in use the link runs at 60 lanes. -/
def laneRepair (die dir : Fin 2) (s : State) : State :=
  if s.plat.porst then s
  else
    let key := fun (d : Nat) => die.val * 2 + d
    let n := SMap.get s.plat.spares (key dir.val) 0
    if n ≥ 4 then (s.pw (fDegraded die) 1).irq 0 0x18 2
    else
      let s1 : State := { s with plat := { s.plat with spares := SMap.put s.plat.spares (key dir.val) 0 (n + 1) } }
      s1.pw (fSpares die) (max (SMap.get s1.plat.spares (key 0) 0) (SMap.get s1.plat.spares (key 1) 0))

def execLaneRepair (die dir : Fin 2) (s : State) : Res := .next (laneRepair die dir s)

/-! Tampering and the debug response (R431 to R435). -/

/-- TAMPER_ASSERT: a filtered assertion of TAMPER_N. -/
def tamperAssert (s : State) : State :=
  let s1 := s.modSec fun x => { x with tamperLow := true }
  if s.plat.porst || s.sec.tamperLow then s1 else ((s1.pw F.SEC_STS_TAMPER 1).irq 0 0x10 1).zeroize 2

def execTamperAssert (s : State) : HRes := .next (tamperAssert s)

/-- Whether a response answers the valid challenge, under the debug authority key whose hash is fused. -/
def State.responseValid (s : State) (response : List Byte) : Bool :=
  match s.sec.challenge with
  | none => false
  | some b => s.pr F.SEC_STS_DBGEN == 1 && response.length == 96 && beNat (sha384 Config.debugKey) == Config.debugKeyHash
      && ecdsaVerify Config.debugKey response b

/-- RESP: a challenge serves one response. While TAMPER_N is low responses are rejected without counting; an open or locked port takes
none. -/
def debugResponse (response : List Byte) (s : State) : State :=
  let st := s.pr F.SEC_DBG_STS_STATE
  if s.plat.porst || s.sec.tamperLow || st == 2 || st == 3 then s
  else
    let s1 := dropChallenge s
    if s.responseValid response then
      ((s1.zeroize 1).wrs 0 [(F.SEC_DBG_STS_STATE, 2), (F.SEC_STS_DEBUG_OPEN, 1)]).irq 0 0x10 2
    else
      let n := s.pr F.SEC_DBG_STS_FAILS + 1
      ((s1.wrs 0 [(F.SEC_DBG_STS_FAILS, n), (F.SEC_DBG_STS_STATE, if n ≥ 3 then 3 else 0)])).irq 0 0x10 4

def execResp (response : List Byte) (s : State) : HRes := .next (debugResponse response s)

end Sys2Proof.Machine
end

