-- ==== Sys2Proof/Machine/Bus.lean ====
section
/-! DEFINITION. Register accesses as the bus delivers them: BAR0 and the register pages of BAR2, what writing and reading each register
starts, soft reset and resume of a block, and the end of a wake (R4 to R7, R14, R299, R300, R392, R399, R462 to R467). -/

namespace Sys2Proof.Machine
open Sys2Proof

/-! Latched high words and index windows (R5). -/

/-- The offsets of the low words of 64-bit values; the high word follows each (R5). -/
def lowWords (rg page : Nat) : List Nat :=
  if rg = 0 then
    match page with
    | 0x00 => [0x104]
    | 0x04 => [0x100]
    | 0x08 => [0x104]
    | 0x0A => [0x124]
    | 0x11 => [0x120, 0x128, 0x130, 0x138]
    | 0x18 => [0x104]
    | _ => []
  else
    match page with
    | 0x01 => [0x104]
    | 0x29 => [0x120, 0x128, 0x130, 0x138, 0x140, 0x148, 0x150, 0x158]
    | 0x2D => [0x114]
    | 0x30 => [0x118]
    | 0x40 => [0x128]
    | 0x59 => [0x104]
    | _ => []

/-- Advance an index field past an access of its data register, while its AUTOINC is 1. -/
def State.advance (s : State) (rg : Nat) (idx auto : Fld) : State :=
  if s.rd rg auto = 1 then s.wrLegal rg idx ((s.rd rg idx + 1) % 2 ^ idx.width) else s

/-- What a read of a data register does to its index window. -/
def State.readAdvance (s : State) (rg page off : Nat) : State :=
  if rg = 0 then
    match page, off with
    | 0x0C, 0x104 | 0x0C, 0x904 => s.advance 0 F.WIN_TBL_IDX_IDX F.WIN_TBL_IDX_AUTOINC
    | 0x18, 0x158 => s.advance 0 F.GMON_SNAP_IDX_WORD F.GMON_SNAP_IDX_AUTOINC
    | _, _ => s
  else if slotPage page && off == 0x140 && hasFf (page - 9) then
    s.advance rg (F.SLT_FF_IDX_IDX (page - 9)) (F.SLT_FF_IDX_AUTOINC (page - 9))
  else
    match page, off with
    | 0x08, 0x134 => s.advance rg F.CLE_CAP_IDX_IDX F.CLE_CAP_IDX_AUTOINC
    | 0x10, 0x168 => s.advance rg F.SPN_TBL_IDX_IDX F.SPN_TBL_IDX_AUTOINC
    | 0x28, 0x114 => s.advance rg F.XTC_EQ_SEL_TAP F.XTC_EQ_SEL_AUTOINC
    | 0x50, 0x128 => s.advance rg F.CAL_PDELTA_IDX_IDX F.CAL_PDELTA_IDX_AUTOINC
    | 0x58, 0x120 => s.advance rg F.MON_SNAP_IDX_WORD F.MON_SNAP_IDX_AUTOINC
    | 0x59, 0x108 => s.advance rg F.CNT_CNT_IDX_IDX F.CNT_CNT_IDX_AUTOINC
    | _, _ => s

/-! Reading a register. -/

/-- A register as its reader sees it: 0 while a parity error marks it (R377, log 22), else its value in the copy the offset names. -/
def State.seen (s : State) (rg page off : Nat) : Nat :=
  if off < 0x800 then (if SMap.get s.parity (parityKey rg page off false) false then 0 else s.readReg rg page off)
  else if off < 0x900 then 0
  else if SMap.get s.parity (parityKey rg page (off - 0x800) true) false then 0
  else s.readFly rg page (off - 0x800)

/-- A read that reaches a listed page: a high word comes from its latch once, a low word latches its high word (R5), and a data
register advances its index. -/
def State.regRead (s : State) (rg page off : Nat) : Nat × State :=
  if (pageFields rg page).isNone then (0, s)
  else
    let key := busAddr rg page off
    match SMap.find? s.latch key with
    | some v => (v, ({ s with latch := SMap.erase s.latch key } : State).readAdvance rg page off)
    | none =>
      let s1 : State := if (lowWords rg page).contains off then
          { s with latch := SMap.insert s.latch (key + 4) (s.seen rg page (off + 4)) }
        else s
      (s.seen rg page off, s1.readAdvance rg page off)

/-! Writing the common header. -/

/-- What waited for a block goes on (R465): a channel's sequences and its laser driver link, and reads of host memory. -/
def State.resumeWork (s : State) (rg : Nat) : State :=
  match if rg = 0 then none else chan? (rg - 1) with
  | some c => (s.laserPump c).progress c
  | none => if rg = 0 then s.issueReads else s

/-- Clear QUIESCE with EN at 1 (R465). -/
def blockResume (rg page : Nat) (s : State) : State :=
  if (pageFields rg page).isNone then s
  else (s.wrs rg [(F.HDR_BLK_CTL_EN page, 1), (F.HDR_BLK_CTL_QUIESCE page, 0)]).resumeWork rg

/-- BLOCK_RESUME: a write of `BLK_CTL` that leaves FREEZE as it is. -/
def execBlockResume (src : Src) (rg page : Nat) (s : State) : HRes :=
  .next (s.gated src rg page 0x008 (1 + 4 * s.rd rg (F.HDR_BLK_CTL_FREEZE page)) (blockResume rg page))

/-- Body registers that show the world outside the block (supplies, clocks, links, images, keys, temperatures, inputs, the DRAM, the
kill line, and the sticky record of R388), and so do not change with its soft reset (DEDUCED, log 23). -/
def softKeeps (rg page off : Nat) : Bool :=
  if rg = 0 then
    match page with
    | 0x00 => off == 0x100
    | 0x01 => off == 0x100
    | 0x02 => off == 0x100 || off == 0x10C
    | 0x03 => off == 0x100
    | 0x04 => off == 0x108
    | 0x08 => off == 0x104 || off == 0x108
    | 0x0A => off == 0x100
    | 0x0B => off == 0x100
    | 0x0C => off == 0x108
    | 0x10 => off == 0x100 || off == 0x110 || (0x120 ≤ off && off < 0x150)
    | 0x11 => true
    | 0x18 => off == 0x100
    | 0x19 => off ≤ 0x108 || off == 0x110
    | _ => false
  else
    match page with
    | 0x00 => off == 0x100
    | 0x01 => true
    | 0x08 => off == 0x104
    | 0x32 => off == 0x130
    | 0x38 => off == 0x104
    | 0x39 => off == 0x100 || off == 0x104
    | 0x40 => off == 0x104
    | 0x48 => off == 0x100
    | _ => false

/-- The tables behind a page's index windows, back at their reset contents. -/
def State.clearTables (s : State) (rg page : Nat) : State :=
  if rg = 0 then
    match page with
    | 0x0C => (s.tclear .winActive 0).tclear .winFly 0
    | 0x18 => (s.tclear .hist 0).tclear .snap 0
    | _ => s
  else if slotPage page then
    (List.range 256).foldl (fun (s : State) (i : Nat) => s.tput .ff rg ((page - 9) * 256 + i) 0) s
  else
    match page with
    | 0x08 => s.tclear .capture rg
    | 0x10 => s.tclear .commutation rg
    | 0x28 => s.tclear .eqCoef rg
    | 0x50 => s.tclear .pdelta rg
    | 0x58 => (s.tclear .hist rg).tclear .snap rg
    | 0x59 => s.tclear .counter rg
    | _ => s

/-- A soft reset of the engine ends its sequences (R399): their status is already at its reset value. A Calibrate command whose sweep is
gone ends with the points recorded. -/
def State.dropMotion (s : State) (c : Fin 16) : State :=
  let v := (s.ch c).servo
  let s1 := (s.modServo c fun v => { v with jump := none, tjump := none, sweep := none, defect := none, defOver := false, regain := .idle, due := [] }).seqHold
    c [0, 1, 3, 4] 0
  let s2 := (List.range 7).foldl (fun s q => s.wrs (chRg c) [(F.SLT_STATE_SWEEP q, 0), (F.SLT_STATE_DEFECT q, 0)]) s1
  match v.sweep with
  | some w => match w.cmd with
    | some (k, _) => s2.finish k stSuccess w.point
    | none => s2
  | none => s2

/-- The motion state behind a servo, spindle or sled page: with the page's status at its reset value nothing of it runs on. -/
def State.clearMotion (s : State) (rg page : Nat) : State :=
  match if rg = 0 then none else chan? (rg - 1) with
  | none => s
  | some c =>
    let s1 := if h : 9 ≤ page ∧ page < 16 then s.modSlt c ⟨page - 9, by omega⟩ fun _ => SlotSt.off
      else match page with
        | 0x10 => s.modCh c fun x => { x with spin := Spin.off }
        | 0x11 => s.modCh c fun x => { x with sled := Sled.off }
        | 0x08 => (List.finRange 7).foldl (fun s (q : Fin 7) => s.turnOff c q 6) ((s.dropMotion c).cw c F.CLE_STS_RUN 0)
        | 0x32 => s.showKill c
        | 0x50 => s.modCh c fun x => { x with cal := Cal.off }
        | _ => s
    s1.showSafe c

/-- A swap that a soft reset ends shows CAUSE 6; a group of which the page is a member ends whole (R399, R470). -/
def State.endForReset (s : State) (rg page : Nat) : State :=
  let s0 := match s.calPending rg page with
    | some c => s.modCh c fun x => { x with calSwap := false }
    | none => s
  let s1 := if page ≠ 0 ∧ (SMap.get s0.groups rg []).contains page then s0.endSwap rg 0 6 else s0
  s1.endSwap rg page 6

/-- BLOCK_SOFT_RESET (R399): a quiesced block's body, both copies and interrupt state return to their reset values; else refused. -/
def blockSoftReset (rg page : Nat) (s : State) : State :=
  if (pageFields rg page).isNone then s
  else if !s.quiesced rg page then s.errOpen rg page 0x008 3
  else
    let s1 := (s.endForReset rg page).resetFields rg fun p o =>
      p == page && (o == 0x010 || (0x100 ≤ o && (o ≥ 0x800 || !softKeeps rg page o)))
    let s2 : State := { s1 with flyHeld := s1.flyHeld.filter fun h => !(h.1 == rg && h.2.1 == page) }
    (s2.clearTables rg page).clearMotion rg page

def execBlockSoftReset (src : Src) (rg page : Nat) (s : State) : HRes :=
  .next (s.gated src rg page 0x008 (2 + s.rd rg (F.HDR_BLK_CTL_EN page) + 4 * s.rd rg (F.HDR_BLK_CTL_FREEZE page)
    + 8 * s.rd rg (F.HDR_BLK_CTL_QUIESCE page)) (blockSoftReset rg page))

/-- A write of `BLK_CTL`: SRST is judged as the write arrives, FREEZE is held only where Table 3-5 defines it. -/
def blkCtlWrite (rg page v : Nat) (s : State) : State :=
  let s1 := if bitAt v 1 then blockSoftReset rg page s else s
  let s2 := s1.wrs rg [(F.HDR_BLK_CTL_EN page, v % 2), (F.HDR_BLK_CTL_QUIESCE page, v / 8 % 2)]
  let s3 := if rg ≠ 0 ∧ 0x20 ≤ page ∧ page ≤ 0x28 then s2.wr rg (F.HDR_BLK_CTL_FREEZE page) (v / 4 % 2) else s2
  if bitAt v 0 && !bitAt v 3 then s3.resumeWork rg else s3

/-- A write of `IRQ_EN`: the region's message follows when its pending state rises (R467). -/
def irqEnWrite (rg page v : Nat) (s : State) : State :=
  let was := s.regionPending rg
  let s1 := s.wr rg (F.HDR_IRQ_EN page) v
  if s1.regionPending rg && !was then s1.msix (regionVector rg) else s1

/-- A write of `SET_CMD` (R468, R470). -/
def setCmdWrite (rg page v : Nat) (s : State) : State :=
  if bitAt v 31 then s.endSwap rg page 5
  else if bitAt v 8 then
    match if rg = 0 ∨ page ≠ 0 then none else chan? (rg - 1) with
    | some c => groupSwapRequest c (v % 8) s
    | none => s.swapRefused rg page 1
  else swapRequest rg page (v % 8) s

/-- A write of a common-header register (Table 16-2). -/
def headerWrite (rg page off v : Nat) (s : State) : State :=
  match off with
  | 0x008 => blkCtlWrite rg page v s
  | 0x014 => irqEnWrite rg page v s
  | 0x018 => irqStatusClear rg page v s
  | 0x01C => irqTest rg page v s
  | 0x034 => setCmdWrite rg page v s
  | _ => s.writeFields rg (regFields rg page off) false v

/-! Writing the body of a port die page. -/

/-- A write under the access codes alone (Table 0-4). -/
def State.plainWrite (s : State) (rg page off v : Nat) : State := s.writeFields rg (regFields rg page off) false v

/-- A write that may move pins the port die drives: their edges follow (R477). -/
def State.pinWrite (s : State) (page off v : Nat) : State := (s.plainWrite 0 page off v).gpioEdges s.gpioIn

/-- `TMP.THR`: each threshold within the bounds its row gives, which name the one before it; others are reserved. -/
def thermalThresholds (v : Nat) (s : State) : State :=
  let put := fun (s : State) (f : Fld) (lo hi : Nat) =>
    let n := bitsAt v f.lsb f.width
    if lo ≤ n ∧ n ≤ hi then s.pw f n else s
  let s1 := put s F.TMP_THR_WARN 60 110
  let s2 := put s1 F.TMP_THR_THR1 (s1.pr F.TMP_THR_WARN) 110
  put (put s2 F.TMP_THR_THR2 (s2.pr F.TMP_THR_THR1) 110) F.TMP_THR_HYST 1 15

/-- A write of the telemetry registers MON and GMON share, `o` in MON's numbering (R459, R461). -/
def monWrite (rg o v : Nat) (s : State) : State :=
  let off := monOff rg o
  match o with
  | 0x108 => if histSource rg (v % 256) then s.plainWrite rg (monPage rg) off v else s
  | 0x10C | 0x110 | 0x114 => histConfigWrite rg off v s
  | 0x118 => if bitAt v 0 then snapshotOp rg (s.rd rg (fHistIdx rg)) s else s
  | 0x124 => if bitAt v 31 && histSource rg (v % 256) then s.histClearMM rg (v % 256) else s
  | 0x128 => if bitAt v 31 && histSource rg (v % 256) then s.histClearBins rg (v % 256) else s
  | _ => s.plainWrite rg (monPage rg) off v

/-- A write of a body register of a port die page. -/
def portWrite (page off v : Nat) (s : State) : State :=
  match page, off with
  | 0x01, 0x104 | 0x1A, 0x100 | 0x1A, 0x104 | 0x1A, 0x10C | 0x1A, 0x110 => s.pinWrite page off v
  | 0x01, 0x114 => pwrWake v s
  | 0x0C, 0x104 => s.advance 0 F.WIN_TBL_IDX_IDX F.WIN_TBL_IDX_AUTOINC
  | 0x10, 0x10C => if bitAt v 0 then newChallenge s else s
  | 0x19, 0x10C => thermalThresholds v s
  | _, _ =>
    if page = 0x18 ∧ 0x140 ≤ off ∧ off ≤ 0x160 then monWrite 0 (off - 0x38) v s else s.plainWrite 0 page off v

/-! Writing the body of a channel page. -/

/-- Whether a CLE offset is one a running jump keeps from being written: `SA_CTL`, `SA_LAYER`, `KB_*` (R181). -/
def jumpHolds (off : Nat) : Bool := off == 0x10C || (0x180 ≤ off && off < 0x1C0) || (0x200 ≤ off && off < 0x340)

/-- A write of a CLE body register. -/
def cleWrite (c : Fin 16) (off v : Nat) (s : State) : State :=
  let rg := chRg c
  match off with
  | 0x100 => cleEnable c (bitAt v 0) s
  | 0x110 => if bitAt v 31 then layerJump c (v % 32) s else s
  | 0x118 => if bitAt v 31 then strandJump c (BitVec.ofNat 7 v) s else s
  | 0x120 =>
    let s1 := s.plainWrite rg 0x08 off v
    if bitAt v 31 then sweepStart c s1 else s1
  | _ =>
    if jumpHolds off && ((s.ch c).servo.jump.isSome || (s.ch c).servo.tjump.isSome) then s.errOpen rg 0x08 off 1
    else s.plainWrite rg 0x08 off v

/-- A write of a slot's body register (R168, R169, R179, R187). -/
def slotWrite (c : Fin 16) (q : Fin 7) (off v : Nat) (s : State) : State :=
  let rg := chRg c
  let p := sltPage q
  match off with
  | 0x104 => if v % 8 ≤ 4 then slotCmdWrite c q (v % 8) s else s
  | 0x108 => if s.cr c (F.SLT_STATE_SWEEP q) = 1 then s else s.plainWrite rg p off v
  | 0x10C => tgtWrite c q (v % 2 ^ 24) s
  | 0x13C => if hasFf q then s.plainWrite rg p off v else s
  | _ => if off = 0x140 ∨ (0x200 ≤ off ∧ off < 0x500) then coefWrite c q off v s else s.plainWrite rg p off v

/-- A write of a spindle body register. -/
def spindleWrite (c : Fin 16) (off v : Nat) (s : State) : State :=
  match off with
  | 0x100 => match v % 8 with
    | 1 => spinStart c s
    | 2 => spinStop c s
    | 3 => spinCoast c s
    | 4 => spinClearFault c s
    | _ => s
  | 0x168 => tblWrite c (v % 65536) s
  | _ =>
    let s1 := s.plainWrite (chRg c) 0x10 off v
    if s1.cr c F.SPN_SPEED_CMD = s.cr c F.SPN_SPEED_CMD then s1 else s1.rehunt c

/-- Whether a segment belongs to the running move or to a pending successor (R213). -/
def State.segmentHeld (s : State) (c : Fin 16) (k : Nat) : Bool :=
  let x := (s.ch c).sled
  (s.sledSt c == 2 && x.first ≤ k && k ≤ x.last) || x.succ.elim false fun r => r.1 ≤ k && k ≤ r.2

/-- A write of a sled body register. -/
def sledWrite (c : Fin 16) (off v : Nat) (s : State) : State :=
  match off with
  | 0x100 => match v % 8 with
    | 1 => sledMove c (bitsAt v 8 6) (bitsAt v 16 6) s
    | 2 => sledStop c s
    | 3 => sledHome c s
    | 4 => sledEnergise c s
    | 5 => sledRelease c s
    | 6 => sledClearFault c s
    | _ => s
  | _ =>
    if 0x400 ≤ off && off < 0x600 && s.segmentHeld c ((off - 0x400) / 8) then s.errOpen (chRg c) 0x11 off 1
    else s.plainWrite (chRg c) 0x11 off v

/-- A write of a WRC body register. -/
def wrcWrite (c : Fin 16) (off v : Nat) (s : State) : State :=
  let s1 := s.plainWrite (chRg c) 0x30 off v
  match off with
  | 0x100 => if bitAt v 1 then s1.orderlyStop c 1 else s1
  | 0x128 => if bitAt v 31 then testAreaRun c s1 else s1
  | _ => s1

/-- A write of a laser driver body register (R128, R129). -/
def ldiWrite (c : Fin 16) (off v : Nat) (s : State) : State :=
  if h : 0x110 ≤ off ∧ off < 0x130 ∧ off % 4 = 0 then readLevel c ⟨(off - 0x110) / 4, by omega⟩ (v % 1024) s
  else match off with
    | 0x100 => ldiKill c (bitAt v 1) ((s.cw c F.LDI_CTL_LINK_EN (v % 2)).laserPump c)
    | 0x104 => if bitAt v 31 then hostLaser c (bitAt v 23) (bitsAt v 16 7) (v % 65536) s else s
    | 0x130 => if bitAt v 0 then killLatchClear c s else s
    | _ => s.plainWrite (chRg c) 0x32 off v

/-- A write of a CAL body register (R230). -/
def calWrite (c : Fin 16) (off v : Nat) (s : State) : State :=
  match off with
  | 0x100 =>
    let s1 := s.plainWrite (chRg c) 0x50 off v
    if bitAt v 2 then s1.calDue c else s1
  | 0x108 => setValid c (v % 32) s
  | 0x128 => pdeltaWrite c (v % 65536) s
  | _ => s.plainWrite (chRg c) 0x50 off v

/-- A write of a MAP body register. -/
def mapWrite (c : Fin 16) (off v : Nat) (s : State) : State :=
  match off with
  | 0x100 => if bitAt v 1 then checkpointNow c s else s
  | 0x140 =>
    let s1 := s.plainWrite (chRg c) 0x40 off v
    if bitAt v 31 then mapProbe c (v % 2 ^ 31) s1 else s1
  | _ => s.plainWrite (chRg c) 0x40 off v

/-- A write of a scrubber body register (R375). -/
def scbWrite (c : Fin 16) (off v : Nat) (s : State) : State :=
  let s1 := s.plainWrite (chRg c) 0x4A off v
  if off ≠ 0x108 then s1
  else
    let s2 := if bitAt v 0 then scrubGo c s1 else s1
    if bitAt v 1 then scrubStop c s2 else s2

/-- A write of a body register of a channel page. -/
def chanWrite (c : Fin 16) (page off v : Nat) (s : State) : State :=
  if h : 9 ≤ page ∧ page < 16 then slotWrite c ⟨page - 9, by omega⟩ off v s
  else match page with
    | 0x00 => (s.plainWrite (chRg c) 0x00 off v).showSafe c
    | 0x08 => cleWrite c off v s
    | 0x10 => spindleWrite c off v s
    | 0x11 => sledWrite c off v s
    | 0x28 => if off = 0x114 then eqDataWrite c v s else s.plainWrite (chRg c) page off v
    | 0x30 => wrcWrite c off v s
    | 0x32 => ldiWrite c off v s
    | 0x39 => if off = 0x114 then (if bitAt v 0 then xtsSelftest c s else s) else s.plainWrite (chRg c) page off v
    | 0x40 => mapWrite c off v s
    | 0x41 =>
      if off = 0x128 then (if bitAt v 0 then invGo c (s.cr c F.LTC_INV_LEN != 0) s else s) else s.plainWrite (chRg c) page off v
    | 0x4A => scbWrite c off v s
    | 0x50 => calWrite c off v s
    | 0x58 => if 0x108 ≤ off ∧ off ≤ 0x128 then monWrite (chRg c) off v s else s.plainWrite (chRg c) page off v
    | 0x59 => if off = 0x110 then counterClear c (v % 65536) s else s.plainWrite (chRg c) page off v
    | _ => s.plainWrite (chRg c) page off v

/-! Writing the Flysheet copy (R316, R321, R463, R469). -/

/-- The bits of a window table entry. -/
def winMask : Nat := 0x01FF00F3

/-- A write of the Flysheet copy of the body register at `off`. -/
def flysheetWrite (rg page off v : Nat) (s : State) : State :=
  if rg = 0 ∧ page = 0x0C ∧ off = 0x100 then s.plainWrite 0 0x0C 0x100 v
  else if rg = 0 ∧ page = 0x0C ∧ off = 0x104 then
    let i := s.pr F.WIN_TBL_IDX_IDX
    let s1 : State := if s.pr F.WIN_STS_SYNCING = 1 then
        { s with flyHeld := s.flyHeld ++ [(0, 0x0C, 0x100000 + i, v &&& winMask)] }
      else s.tput .winFly 0 i (v &&& winMask)
    s1.advance 0 F.WIN_TBL_IDX_IDX F.WIN_TBL_IDX_AUTOINC
  else if rg ≠ 0 && slotPage page && !hasFf (page - 9) && (off == 0x13C || off == 0x140 || off == 0x418) then s
  else s.flyWrite rg page off v

/-! An access to a register page. -/

/-- A write that reaches a listed page; it also ends a parity error's mark (log 22). -/
def State.regWrite (s : State) (rg page off v : Nat) : State :=
  if (pageFields rg page).isNone then s
  else
    if off < 0x100 then headerWrite rg page off v (s.unmark rg page off false)
    else if off < 0x800 then
      match if rg = 0 then none else chan? (rg - 1) with
      | some c => chanWrite c page off v (s.unmark rg page off false)
      | none => if rg = 0 then portWrite page off v (s.unmark rg page off false) else s
    else if off < 0x900 then s
    else flysheetWrite rg page (off - 0x800) v (s.unmark rg page (off - 0x800) true)

/-- A write to a page served from shadows: only the fields R14 names are applied. -/
def State.shadowWrite (s : State) (rg page off v : Nat) : State :=
  if page = 0x00 ∧ (off = 0x014 ∨ off = 0x018 ∨ off = 0x01C ∨ off = 0x104) then s.regWrite rg page off v else s

/-- Whether an access is one BAR2 accepts (R4). -/
def aligned32 (addr size : Nat) : Bool := size == 4 && addr % 4 == 0

/-- A write of the register at a BAR2 address. One of another size or alignment has no effect but to wake a channel. -/
def State.busWrite (s : State) (src : Src) (addr size v : Nat) : State :=
  let rg := addr / 0x100000
  let page := addr / 0x1000 % 0x100
  let off := addr % 0x1000
  match s.reach src rg page with
  | .stall => s.stallAccess rg page (.write (if aligned32 addr size then addr else 0xFFFFFFFF) (BitVec.ofNat 32 v))
  | .open_ => if aligned32 addr size then s.regWrite rg page off (v % 2 ^ 32) else s
  | .shadow => if aligned32 addr size then s.shadowWrite rg page off (v % 2 ^ 32) else s
  | .closed => s

/-- Complete a read for the host; firmware's reads leave nothing. -/
def State.give (s : State) (src : Src) (b : List Byte) : State :=
  match src with
  | .host => s.answer (.readData b)
  | .firmware => s

/-- A read of the register at a BAR2 address. One of another size or alignment returns zeros. -/
def State.busRead (s : State) (src : Src) (addr size : Nat) : State :=
  let rg := addr / 0x100000
  let page := addr / 0x1000 % 0x100
  let go : State :=
    if aligned32 addr size then
      let r := s.regRead rg page (addr % 0x1000)
      r.2.give src (leBytes 4 r.1)
    else s.give src (zeros size)
  match s.reach src rg page with
  | .stall => s.stallAccess rg page (.read addr size)
  | .open_ | .shadow => go
  | .closed => s.give src (zeros size)

/-! BAR0: the NVMe controller registers, the doorbells, the MSI-X table and its pending bits (Table 10-3). -/

/-- CAP (Table 11-1). -/
def nvmeCap : Nat := 4095 + 2 ^ 16 + 20 * 2 ^ 24 + 0x41 * 2 ^ 37 + 4 * 2 ^ 52

/-- CSTS. -/
def State.csts (s : State) : Nat := b2n s.front.rdy + 2 * b2n s.front.cfs + 4 * s.front.shst + 32 * b2n s.front.pp

/-- A dword of BAR0 as it reads, where the spec gives it a value. -/
def State.bar0Dword (s : State) (a : Nat) : Nat :=
  let nv := fun (off : Nat) => SMap.get s.front.nvme off 0
  if 0x4000 ≤ a ∧ a < 0x4600 then s.tget .msix 0 ((a - 0x4000) / 4)
  else if 0x5000 ≤ a ∧ a < 0x500C then
    (List.range 32).foldl (fun n i => n + 2 ^ i * b2n (SMap.get s.front.pba ((a - 0x5000) * 8 + i) false)) 0
  else match a with
    | 0x00 => nvmeCap % 2 ^ 32
    | 0x04 => nvmeCap / 2 ^ 32
    | 0x08 => 0x20000
    | 0x14 => s.cc
    | 0x1C => s.csts
    | 0x24 => nv 0x24
    | 0x28 => nv 0x28 % 2 ^ 32
    | 0x2C => nv 0x28 / 2 ^ 32
    | 0x30 => nv 0x30 % 2 ^ 32
    | 0x34 => nv 0x30 / 2 ^ 32
    | _ => 0

/-- A read of a dword of BAR0. The value a doorbell reads as is the vendor's (NVMe 2.0): a free value. -/
def State.bar0Load (s : State) (a : Nat) : Nat × State := if 0x1000 ≤ a ∧ a < 0x1208 then s.draw 32 else (s.bar0Dword a, s)

/-- A write of CC: its settings, then what a change of EN and of SHN starts (R353, R354). -/
def ccWrite (v : Nat) (s : State) : State :=
  let old := s.cc
  let v1 := v &&& 0x00FFFFF1
  let s1 := s.putNvme 0x14 (v1 - v1 % 2 + old % 2 - bitsAt v1 14 2 * 2 ^ 14 + bitsAt old 14 2 * 2 ^ 14)
  let s2 := if bitAt v 0 && !bitAt old 0 then controllerEnable s1 else if !bitAt v 0 && bitAt old 0 then controllerReset s1 else s1
  let n := bitsAt v 14 2
  if n = bitsAt old 14 2 then s2
  else
    let s3 := if n = 1 then normalShutdown s2 else if n = 2 then abruptShutdown s2 else s2
    s3.putShn n

/-- A write of a dword of the MSI-X table: an unmasked vector sends what is pending (R301). -/
def msixWrite (i v : Nat) (s : State) : State :=
  match i % 4 with
  | 3 => if bitAt v 0 then s.tput .msix 0 i 1 else msixUnmask (i / 4) s
  | 0 => s.tput .msix 0 i (v / 4 * 4)
  | _ => s.tput .msix 0 i v

/-- A write of a dword of BAR0. -/
def bar0Store (a v : Nat) (s : State) : State :=
  let nv := fun (off : Nat) => SMap.get s.front.nvme off 0
  if 0x1000 ≤ a ∧ a < 0x1208 then
    let i := (a - 0x1000) / 4
    if i % 2 = 0 then sqDoorbell (i / 2) (v % 65536) s else cqDoorbell (i / 2) (v % 65536) s
  else if 0x4000 ≤ a ∧ a < 0x4600 then msixWrite ((a - 0x4000) / 4) v s
  else match a with
    | 0x14 => ccWrite v s
    | 0x24 => s.putNvme 0x24 (v &&& 0x0FFF0FFF)
    | 0x28 => s.putNvme 0x28 (nv 0x28 / 2 ^ 32 * 2 ^ 32 + v / 4096 * 4096)
    | 0x2C => s.putNvme 0x28 (nv 0x28 % 2 ^ 32 + v * 2 ^ 32)
    | 0x30 => s.putNvme 0x30 (nv 0x30 / 2 ^ 32 * 2 ^ 32 + v / 4096 * 4096)
    | 0x34 => s.putNvme 0x30 (nv 0x30 % 2 ^ 32 + v * 2 ^ 32)
    | _ => s

/-- Whether BAR0 accepts an access: aligned, of 32 or 64 bits (R300). -/
def bar0Accepts (addr size : Nat) : Bool := (size == 4 && addr % 4 == 0) || (size == 8 && addr % 8 == 0)

/-- A write to BAR0; 64 bits are two dwords, low first. -/
def bar0Write (addr size v : Nat) (s : State) : State :=
  if !bar0Accepts addr size then s
  else
    let s1 := bar0Store addr (v % 2 ^ 32) s
    if size = 8 then bar0Store (addr + 4) (v / 2 ^ 32 % 2 ^ 32) s1 else s1

/-- A read of BAR0. -/
def bar0Read (addr size : Nat) (s : State) : State :=
  if !bar0Accepts addr size then s.answer (.readData (zeros size))
  else
    let r := s.bar0Load addr
    if size = 8 then
      let q := r.2.bar0Load (addr + 4)
      q.2.answer (.readData (leBytes 4 r.1 ++ leBytes 4 q.1))
    else r.2.answer (.readData (leBytes 4 r.1))

/-! The two commands. -/

/-- Whether a BAR claims an offset, with memory space enabled (R299). -/
def State.claimed (s : State) (bar addr : Nat) : Bool :=
  s.mse && !s.front.flr && ((bar == 0 && addr < 0x10000) || (bar == 2 && addr < 0x2000000))

/-- REGISTER_WRITE. A request no BAR claims is logged as Unsupported Request. -/
def registerWrite (src : Src) (bar addr size : Nat) (value : BitVec 64) (s : State) : State :=
  match src with
  | .firmware => if s.plat.porst || s.plat.tripped || bar ≠ 2 then s else s.busWrite .firmware addr size value.toNat
  | .host =>
    if !s.linkUp then s
    else if !s.claimed bar addr then s.cfgSet 0x104 0x100000
    else if bar = 0 then bar0Write addr size value.toNat s
    else s.busWrite .host addr size value.toNat

def execRegisterWrite (src : Src) (bar addr size : Nat) (value : BitVec 64) (s : State) : HRes :=
  .next (registerWrite src bar addr size value s)

/-- REGISTER_READ. A request no BAR claims completes as Unsupported Request. -/
def registerRead (src : Src) (bar addr size : Nat) (s : State) : State :=
  match src with
  | .firmware => if s.plat.porst || s.plat.tripped || bar ≠ 2 then s else s.busRead .firmware addr size
  | .host =>
    if !s.linkUp then s
    else if !s.claimed bar addr then s.answer .unsupported
    else if bar = 0 then bar0Read addr size s
    else s.busRead .host addr size

def execRegisterRead (src : Src) (bar addr size : Nat) (s : State) : HRes := .next (registerRead src bar addr size s)

/-! The end of a wake (R392, R393). -/

/-- The BAR2 address of a waiting access. -/
def Access.addr : Access → Nat
  | .read a _ => a
  | .write a _ => a

/-- Execute an access that waited. -/
def Access.serve (a : Access) (s : State) : State :=
  match a with
  | .read addr size => s.busRead .host addr size
  | .write addr value => s.busWrite .host addr 4 value.toNat

/-- Execute the accesses that wait, in the order their headers arrived, up to one whose channel is still to wake (R307). -/
def State.pumpBus (s : State) : List Access → State
  | [] => s
  | a :: rest =>
    let rg := a.addr / 0x100000
    let page := a.addr / 0x1000 % 0x100
    match s.meets rg page with
    | .stall => (s.modFront fun f => { f with q2 := a :: rest }).wakeFor rg page
    | .open_ | .shadow | .closed => State.pumpBus (a.serve s) rest

/-- Execute the inbound accesses that wait and no longer have to (R307, R392). -/
def State.pumpInbound (s : State) : State :=
  let s1 := (s.modFront fun f => { f with q2 := [] }).pumpBus s.front.q2
  (s1.modFront fun f => { f with q4 := [] }).pumpWindow s1.front.q4

/-- WAKE_COMPLETE: the PLLs are locked, the DRAM is out of self-refresh, the steward core resumes, and what waited is served in order.
A channel that held keys lost shows so again. -/
def wakeComplete (c : Fin 16) (s : State) : State :=
  let x := s.ch c
  if !s.alive c || x.fence != 0 || x.st != .bivouac || !x.waking then s
  else
    let s1 := (s.setSt c (if x.keysLost then .keysLost else .notMounted)).modCh c fun x => { x with waking := false }
    let s2 := (s1.wrs (chRg c) [(F.DRC_STS_SELF_REFRESH, 0), (F.STW_STS_RUN, 1), (F.STW_STS_STOPPED, 0)]).cnt c 14
    ((s2.lockCore c).showKill c).pumpInbound

def execWakeComplete (c : Fin 16) (s : State) : HRes := .next (wakeComplete c s)

end Sys2Proof.Machine
end

