-- ==== Sys2Proof/Machine/Clock.lean ====
section
/-! DEFINITION. Device time and what happens at a tick of it (R389; DESIGN CHOICE, log 1). -/

namespace Sys2Proof.Machine
open Sys2Proof

/-- The nanoseconds of the next 32.768 kHz cycle: 30,518 in 37 cycles of every 64 and 30,517 in the other 27. The cycles
of 30,518 are taken first (DESIGN CHOICE, log 1): R389 fixes their number, not their order. -/
def slowStep (phase : Nat) : Nat := if phase % 64 < 37 then 30518 else 30517

/-- One cycle of the time base: 20 ns of the 50 MHz reference, or a 32.768 kHz cycle while it is stopped (R389). -/
def advanceTime (s : State) : State :=
  if s.pr F.CLK_XO_STS_XO50_RUN = 1 then { s with plat := { s.plat with time := s.plat.time + 20 } }
  else { s with plat := { s.plat with time := s.plat.time + slowStep s.plat.slow, slow := (s.plat.slow + 1) % 64 } }

/-- The firmware of a running channel advances its `HEARTBEAT` as each ms of device time ends, `n` of them. -/
def heartbeat (n : Nat) (s : State) (c : Fin 16) : State :=
  if n = 0 || s.cr c F.STW_STS_RUN == 0 then s else s.incWrap (chRg c) F.STW_HEARTBEAT n

/-- A Latency Tolerance Reporting message, when the mechanism is enabled and the tolerance is not the one last reported: 10 µs while any
channel is awake, 1 ms while all are in Bivouac (R297). The enable's place is PRESUMED (log 5). -/
def State.reportLatency (s : State) : State :=
  let us := if allChans.all fun c => (s.ch c).st == .bivouac then 1000 else 10
  if s.linkUp && bitAt (s.cfgRaw 0x98 0) 10 && s.front.ltr != us then (s.modFront fun f => { f with ltr := us }).post (.ltr us) else s

/-- A tick: device time advances by one cycle, heartbeats follow it, a takeover of the front end is over, and every channel's sequences
move on as far as they go, and inbound accesses that no longer have to wait are executed. During PORST# device time does not run. -/
def tick (s : State) : State :=
  if s.plat.porst then s
  else
    let s1 := advanceTime s
    let s2 := allChans.foldl (heartbeat (s1.plat.time / 1000000 - s.plat.time / 1000000)) s1
    ((allChans.foldl State.progress (s2.modFront fun f => { f with pp := false })).pumpInbound).reportLatency

end Sys2Proof.Machine
end

