-- ==== Sys2Proof/Machine/Features.lean ====
section
/-! DEFINITION. Set Features and Get Features (R361, Table 11-19). -/

namespace Sys2Proof.Machine
open Sys2Proof

/-- The channels a feature with an NSID field acts on: one, or all for 0xFFFF_FFFF (R327); `none` for another NSID. -/
def featChans (nsid : Nat) : Option (List (Fin 16)) :=
  if nsid = 0xFFFFFFFF then some allChans
  else if nsid = 0 then none
  else (chan? (nsid - 1)).map fun c => [c]

/-- Write fields of SCH for the channels a feature names; a fenced channel is not reached (R11). -/
def State.setSch (s : State) (cs : List (Fin 16)) (l : List (Fld × Nat)) : State :=
  cs.foldl (fun s c => if (s.ch c).fence != 0 then s else s.wrs (chRg c) l) s

/-- A feature value is set, and the command succeeds. -/
def featStore (s : State) (k key v : Nat) : State := (s.setFeat key v).finish k stSuccess

/-- A value within `lo` to `hi`. -/
def within (lo v hi : Nat) : Bool := lo ≤ v && v ≤ hi

/-- Set Features by identifier; values outside a range fail with Invalid Field in Command. -/
def setFeature (s : State) (k : Nat) (c : CmdSlot) (data : List Byte) : State :=
  let v := c.dw 11
  let bad := s.finish k stInvalidField
  if bitAt (c.dw 10) 31 then bad
  else match bitsAt (c.dw 10) 0 8 with
    | 0x01 => featStore s k 0x01 (v % 8)
    | 0x02 => if v % 32 ≤ 2 then featStore s k 0x02 (v % 32) else bad
    | 0x04 =>
      let sel := bitsAt v 16 4
      let th := bitsAt v 20 2
      if th > 1 ∨ (sel > 2 ∧ sel ≠ 15) then bad
      else
        let put := fun (s : State) i => s.setFeat (0x400 + 0x10 * th + i) (v % 65536)
        (if sel = 15 then put (put (put s 0) 1) 2 else put s sel).finish k stSuccess
    | 0x06 => featStore s k 0x06 (v % 2)
    | 0x07 =>
      let a := v % 65536
      let b := v / 65536
      if a = 65535 ∨ b = 65535 then bad
      else
        let r := min a 63 + 65536 * min b 63
        (s.setFeat 0x07 r).finish k stSuccess r
    | 0x08 => featStore s k 0x08 (v % 65536)
    | 0x09 => if v % 65536 > 63 then bad else featStore s k (0x900 + v % 65536) (bitsAt v 16 1 * 65536)
    | 0x0B => featStore s k 0x0B (v % 1024)
    | 0x0E =>
      if !s.pointersOk c false then s.refusePointer k c
      else (((s.setFeat 0xE00 (leNat (data.take 6))).setFeat 0xE01 (s.plat.time + 1)).finish k stSuccess)
    | 0xC0 =>
      match featChans c.nsid with
      | none => s.finish k stInvalidNs
      | some cs =>
        if within 1 (v % 1024) 600 then (s.setSch cs [(F.SCH_CMD_LIMIT, v % 1024)]).finish k stSuccess else bad
    | 0xC1 =>
      match featChans c.nsid with
      | none => s.finish k stInvalidNs
      | some cs =>
        let a := bitsAt v 0 14
        let r := bitsAt (c.dw 12) 0 10
        if within 100 a 10000 && within 1 r 1000 then
          (s.setSch cs [(F.SCH_CTL_AGE_LIMIT, a), (F.SCH_CTL_READ_PREEMPT, r)]).finish k stSuccess
        else bad
    | 0xC2 => featStore s k 0xC2 (v % 64)
    | 0xC3 =>
      match featChans c.nsid with
      | none => s.finish k stInvalidNs
      | some cs =>
        let m := bitsAt v 0 11
        let h := bitsAt v 16 8
        if within 64 m 1024 && within 10 h 100 then
          (s.setSch cs [(F.SCH_WB_WB_MAX, m), (F.SCH_WB_WB_HIGH, h)]).finish k stSuccess
        else bad
    | _ => bad

/-- SET_FEATURES. `data` is the data structure a Timestamp carries. -/
def execSetFeatures (k : Nat) (data : List Byte) (s : State) : Res :=
  match s.cmd? k true 0x09 with
  | some c => .next (setFeature s k c data).shed
  | none => .next s

/-- A feature's value as Get Features returns it in Dword 0, current (`sel` 0 or 2) or default (1); `none` for an identifier
Table 11-19 does not list. -/
def State.getFeatureValue (s : State) (c : CmdSlot) (dflt : Bool) : Option Nat :=
  let val := fun key => if dflt then featDefault key else s.feat key
  let ch := (featChans c.nsid).bind List.head?
  let sch := fun (f : Fld) => match ch with
    | some x => if dflt then f.reset else s.cr x f
    | none => f.reset
  let v := c.dw 11
  match bitsAt (c.dw 10) 0 8 with
  | 0x01 => some (val 0x01)
  | 0x02 => some (val 0x02)
  | 0x04 => some (val (0x400 + 0x10 * bitsAt v 20 1 + bitsAt v 16 4))
  | 0x06 => some (val 0x06)
  | 0x07 => some (val 0x07)
  | 0x08 => some (val 0x08)
  | 0x09 => some (v % 65536 + val (0x900 + v % 65536))
  | 0x0B => some (val 0x0B)
  | 0x0E => some 0
  | 0xC0 => some (sch F.SCH_CMD_LIMIT)
  | 0xC1 => some (sch F.SCH_CTL_AGE_LIMIT + 65536 * sch F.SCH_CTL_READ_PREEMPT)
  | 0xC2 => some (val 0xC2)
  | 0xC3 => some (sch F.SCH_WB_WB_MAX + 65536 * sch F.SCH_WB_WB_HIGH)
  | _ => none

/-- The Timestamp data structure: milliseconds since it was set, and its origin. -/
def State.timestamp (s : State) : List Byte :=
  let set := s.feat 0xE01
  if set = 0 then leBytes 6 (s.plat.time / 1000000) ++ [0, 0]
  else leBytes 6 (s.feat 0xE00 + (s.plat.time + 1 - set) / 1000000) ++ [2, 0]

/-- Get Features: SEL 0b010 returns the current value, 0b011 changeable and not saveable (R361). -/
def getFeature (s : State) (k : Nat) (c : CmdSlot) : State :=
  let sel := bitsAt (c.dw 10) 8 3
  let fid := bitsAt (c.dw 10) 0 8
  if sel > 3 then s.finish k stInvalidField
  else if (fid = 0xC0 ∨ fid = 0xC1 ∨ fid = 0xC3) ∧ (featChans c.nsid).isNone then s.finish k stInvalidNs
  else match s.getFeatureValue c (sel == 1) with
    | none => s.finish k stInvalidField
    | some v =>
      if sel = 3 then s.finish k stSuccess 4
      else if fid = 0x0E then s.finishData k c s.timestamp
      else s.finish k stSuccess v

/-- GET_FEATURES. -/
def execGetFeatures (k : Nat) (s : State) : Res :=
  match s.cmd? k true 0x0A with
  | some c => .next (getFeature s k c)
  | none => .next s

end Sys2Proof.Machine
end

