-- ==== Sys2Proof/Machine/Dispatch.lean ====
section
/-! DEFINITION. One arm per constructor of Instr: the meaning of the command, or its rejection by name. -/

namespace Sys2Proof.Machine
open Sys2Proof

def exec (i : Instr) (s : State) : Host.Outcome State Fault Refusal :=
  match i with
  | .createIoSq k => Sys2Proof.Machine.execCreateIoSq k s
  | .deleteIoSq k => Sys2Proof.Machine.execDeleteIoSq k s
  | .createIoCq k => Sys2Proof.Machine.execCreateIoCq k s
  | .deleteIoCq k => Sys2Proof.Machine.execDeleteIoCq k s
  | .getLogPage k => Sys2Proof.Machine.execGetLogPage k s
  | .identify k => Sys2Proof.Machine.execIdentify k s
  | .abort k => Sys2Proof.Machine.execAbort k s
  | .setFeatures k data => Sys2Proof.Machine.execSetFeatures k data s
  | .getFeatures k => Sys2Proof.Machine.execGetFeatures k s
  | .asyncEventRequest k => Sys2Proof.Machine.execAsyncEventRequest k s
  | .firmwareDownload k data => Sys2Proof.Machine.execFirmwareDownload k data s
  | .firmwareCommitReplace k => Sys2Proof.Machine.execFirmwareCommitReplace k s
  | .firmwareCommitReplaceActivate k => Sys2Proof.Machine.execFirmwareCommitReplaceActivate k s
  | .firmwareCommitAtReset k => Sys2Proof.Machine.execFirmwareCommitAtReset k s
  | .firmwareCommitNow k => Sys2Proof.Machine.execFirmwareCommitNow k s
  | .mount k scan => Sys2Proof.Machine.execMount k scan s
  | .mountComplete c ms => Sys2Proof.Machine.execMountComplete c ms s
  | .unmount k => Sys2Proof.Machine.execUnmount k s
  | .sealDisc k => Sys2Proof.Machine.execSealDisc k s
  | .serviceIsolate k => Sys2Proof.Machine.execServiceIsolate k s
  | .servicePowerDown k => Sys2Proof.Machine.execServicePowerDown k s
  | .serviceRestore k => Sys2Proof.Machine.execServiceRestore k s
  | .serviceReload k => Sys2Proof.Machine.execServiceReload k s
  | .calLoadSet k data => Sys2Proof.Machine.execCalLoadSet k data s
  | .calClearSet k => Sys2Proof.Machine.execCalClearSet k s
  | .calPowerRun k => Sys2Proof.Machine.execCalPowerRun k s
  | .calServoSweep k => Sys2Proof.Machine.execCalServoSweep k s
  | .calReadBack k => Sys2Proof.Machine.execCalReadBack k s
  | .keyLoad k data => Sys2Proof.Machine.execKeyLoad k data s
  | .keyDiscard k => Sys2Proof.Machine.execKeyDiscard k s
  | .keyRewrap k => Sys2Proof.Machine.execKeyRewrap k s
  | .keyList k => Sys2Proof.Machine.execKeyList k s
  | .flush k => Sys2Proof.Machine.execFlush k s
  | .write k => Sys2Proof.Machine.execWrite k s
  | .read k => Sys2Proof.Machine.execRead k s
  | .verify k => Sys2Proof.Machine.execVerify k s
  | .transformCompress k data => Sys2Proof.Machine.execTransformCompress k data s
  | .transformDecompress k data => Sys2Proof.Machine.execTransformDecompress k data s
  | .transformResume k data => Sys2Proof.Machine.execTransformResume k data s
  | .pinRangePin k => Sys2Proof.Machine.execPinRangePin k s
  | .pinRangeUnpin k => Sys2Proof.Machine.execPinRangeUnpin k s
  | .mediaProbe k => Sys2Proof.Machine.execMediaProbe k s
  | .sqDoorbell qid tail => Sys2Proof.Machine.execSqDoorbell qid tail s
  | .commandFetch qid k entry lists => Sys2Proof.Machine.execCommandFetch qid k entry lists s
  | .cqDoorbell qid head => Sys2Proof.Machine.execCqDoorbell qid head s
  | .completionRecord k => Sys2Proof.Machine.execCompletionRecord k s
  | .cancelRequest k => Sys2Proof.Machine.execCancelRequest k s
  | .cancelAnswer k => Sys2Proof.Machine.execCancelAnswer k s
  | .mediaOperationAdmit k => Sys2Proof.Machine.execMediaOperationAdmit k s
  | .mediaOperationSelect c least => Sys2Proof.Machine.execMediaOperationSelect c least s
  | .operationAged c op => Sys2Proof.Machine.execOperationAged c op s
  | .readPreempt c op => Sys2Proof.Machine.execReadPreempt c op s
  | .commandTimeLimit k => Sys2Proof.Machine.execCommandTimeLimit k s
  | .linkTraining partnerWidths partnerRates workingLanes reversed => Sys2Proof.Machine.execLinkTraining partnerWidths partnerRates workingLanes reversed s
  | .perst cause => Sys2Proof.Machine.execPerst cause s
  | .configurationRequest off be wr => Sys2Proof.Machine.execConfigurationRequest off be wr s
  | .readCompletion tag status data => Sys2Proof.Machine.execReadCompletion tag status data s
  | .completionTimeout tag => Sys2Proof.Machine.execCompletionTimeout tag s
  | .windowWrite ofs data => Sys2Proof.Machine.execWindowWrite ofs data s
  | .windowRead ofs len => Sys2Proof.Machine.execWindowRead ofs len s
  | .msixVectorUnmask v => Sys2Proof.Machine.execMsixVectorUnmask v s
  | .registerWrite src bar addr size value => Sys2Proof.Machine.execRegisterWrite src bar addr size value s
  | .swapRequest src rg page when_ => Sys2Proof.Machine.execSwapRequest src rg page when_ s
  | .groupSwapRequest src c when_ => Sys2Proof.Machine.execGroupSwapRequest src c when_ s
  | .swapCancel src rg page => Sys2Proof.Machine.execSwapCancel src rg page s
  | .flysheetSwap rg page => Sys2Proof.Machine.execFlysheetSwap rg page s
  | .flysheetReloadDone rg page => Sys2Proof.Machine.execFlysheetReloadDone rg page s
  | .blockSoftReset src rg page => Sys2Proof.Machine.execBlockSoftReset src rg page s
  | .blockQuiesce src rg page => Sys2Proof.Machine.execBlockQuiesce src rg page s
  | .blockDisable src rg page => Sys2Proof.Machine.execBlockDisable src rg page s
  | .blockResume src rg page => Sys2Proof.Machine.execBlockResume src rg page s
  | .irqStatusClear src rg page bits => Sys2Proof.Machine.execIrqStatusClear src rg page bits s
  | .irqTest src rg page bits => Sys2Proof.Machine.execIrqTest src rg page bits s
  | .pwrWake mask => Sys2Proof.Machine.execPwrWake mask s
  | .bivouacEntry c => Sys2Proof.Machine.execBivouacEntry c s
  | .wakeComplete c => Sys2Proof.Machine.execWakeComplete c s
  | .discPresentChange c level => Sys2Proof.Machine.execDiscPresentChange c level s
  | .loadRequestChange c level => Sys2Proof.Machine.execLoadRequestChange c level s
  | .powerEarlyWarning rail => Sys2Proof.Machine.execPowerEarlyWarning rail s
  | .brownout rail => Sys2Proof.Machine.execBrownout rail s
  | .porstDeassert discp ldrq => Sys2Proof.Machine.execPorstDeassert discp ldrq s
  | .channelPowerUp c => Sys2Proof.Machine.execChannelPowerUp c s
  | .powerOnFillDone c ms => Sys2Proof.Machine.execPowerOnFillDone c ms s
  | .trainingFailure c => Sys2Proof.Machine.execTrainingFailure c s
  | .channelPllLoss c => Sys2Proof.Machine.execChannelPllLoss c s
  | .thermalSample tPort tA tB => Sys2Proof.Machine.execThermalSample tPort tA tB s
  | .stewardWatchdog c => Sys2Proof.Machine.execStewardWatchdog c s
  | .standbyReady pass => Sys2Proof.Machine.execStandbyReady pass s
  | .sramUncorrectable loc => Sys2Proof.Machine.execSramUncorrectable loc s
  | .sramCorrectable rg page => Sys2Proof.Machine.execSramCorrectable rg page s
  | .registerFileParity rg page off fly => Sys2Proof.Machine.execRegisterFileParity rg page off fly s
  | .flitReplay die ok => Sys2Proof.Machine.execFlitReplay die ok s
  | .linkRetrain die => Sys2Proof.Machine.execLinkRetrain die s
  | .linkRetrainDone die ok => Sys2Proof.Machine.execLinkRetrainDone die ok s
  | .laneRepair die dir => Sys2Proof.Machine.execLaneRepair die dir s
  | .parkingDone c => Sys2Proof.Machine.execParkingDone c s
  | .coastWaitExpiry c => Sys2Proof.Machine.execCoastWaitExpiry c s
  | .debugChallenge src => Sys2Proof.Machine.execDebugChallenge src s
  | .resp response => Sys2Proof.Machine.execResp response s
  | .bypass code tdi => Sys2Proof.Machine.execBypass code tdi s
  | .smbUnknownCode code len => Sys2Proof.Machine.execSmbUnknownCode code len s
  | .smbWrite code data => Sys2Proof.Machine.execSmbWrite code data s
  | .eccCorrected c word rewritten => Sys2Proof.Machine.execEccCorrected c word rewritten s
  | .eccPoison c word use => Sys2Proof.Machine.execEccPoison c word use s
  | .bucketLeak c => Sys2Proof.Machine.execBucketLeak c s
  | .oscillatorCheck c drift => Sys2Proof.Machine.execOscillatorCheck c drift s
  | .dramRetrain src c => Sys2Proof.Machine.execDramRetrain src c s
  | .mr4Read c rate above4x => Sys2Proof.Machine.execMr4Read c rate above4x s
  | .zqCalibration c => Sys2Proof.Machine.execZqCalibration c s
  | .scrubGo src c => Sys2Proof.Machine.execScrubGo src c s
  | .scrubStop src c => Sys2Proof.Machine.execScrubStop src c s
  | .scrubPassEnd c corrected stoppedAt => Sys2Proof.Machine.execScrubPassEnd c corrected stoppedAt s
  | .checkpointDue c => Sys2Proof.Machine.execCheckpointDue c s
  | .checkpointNow src c => Sys2Proof.Machine.execCheckpointNow src c s
  | .checkpointDone c => Sys2Proof.Machine.execCheckpointDone c s
  | .mapProbe src c lba => Sys2Proof.Machine.execMapProbe src c lba s
  | .missWalkReturn c granule => Sys2Proof.Machine.execMissWalkReturn c granule s
  | .evictionWriteback c => Sys2Proof.Machine.execEvictionWriteback c s
  | .ltcRangeInvalidation src c => Sys2Proof.Machine.execLtcRangeInvalidation src c s
  | .ltcAddressInvalidation src c => Sys2Proof.Machine.execLtcAddressInvalidation src c s
  | .writeStaged k => Sys2Proof.Machine.execWriteStaged k s
  | .writeBufferWaitEnd k => Sys2Proof.Machine.execWriteBufferWaitEnd k s
  | .clusterAssembly c => Sys2Proof.Machine.execClusterAssembly c s
  | .assemblyIdleTimeout c => Sys2Proof.Machine.execAssemblyIdleTimeout c s
  | .clusterCommitment c => Sys2Proof.Machine.execClusterCommitment c s
  | .writeSessionStart c => Sys2Proof.Machine.execWriteSessionStart c s
  | .writeClockLock c => Sys2Proof.Machine.execWriteClockLock c s
  | .verifyVerdict c signals => Sys2Proof.Machine.execVerifyVerdict c signals s
  | .writeStop src c => Sys2Proof.Machine.execWriteStop src c s
  | .orderlyStop c row => Sys2Proof.Machine.execOrderlyStop c row s
  | .offTrack c row => Sys2Proof.Machine.execOffTrack c row s
  | .defocus c row => Sys2Proof.Machine.execDefocus c row s
  | .wobblePllUnlock c row => Sys2Proof.Machine.execWobblePllUnlock c row s
  | .adipWord c periods => Sys2Proof.Machine.execAdipWord c periods s
  | .adipLoss c row => Sys2Proof.Machine.execAdipLoss c row s
  | .laserTransaction c rx => Sys2Proof.Machine.execLaserTransaction c rx s
  | .laserLinkError c row => Sys2Proof.Machine.execLaserLinkError c row s
  | .statusPoll c => Sys2Proof.Machine.execStatusPoll c s
  | .laserDriverFault c status row => Sys2Proof.Machine.execLaserDriverFault c status row s
  | .killLineExternal c row => Sys2Proof.Machine.execKillLineExternal c row s
  | .hostLaserTransaction src c rd addr data => Sys2Proof.Machine.execHostLaserTransaction src c rd addr data s
  | .readLevelWrite src c beam level => Sys2Proof.Machine.execReadLevelWrite src c beam level s
  | .ldiKill src c kill => Sys2Proof.Machine.execLdiKill src c kill s
  | .killLatchClear c => Sys2Proof.Machine.execKillLatchClear c s
  | .testAreaRun src c => Sys2Proof.Machine.execTestAreaRun src c s
  | .testRunDone c signals => Sys2Proof.Machine.execTestRunDone c signals s
  | .zoneTableFetch c layer zone => Sys2Proof.Machine.execZoneTableFetch c layer zone s
  | .frameSync c lane => Sys2Proof.Machine.execFrameSync c lane s
  | .alignmentChoice c lane => Sys2Proof.Machine.execAlignmentChoice c lane s
  | .adaptiveBlockUpdate c lane samples => Sys2Proof.Machine.execAdaptiveBlockUpdate c lane samples s
  | .brambleFlagStart c lane => Sys2Proof.Machine.execBrambleFlagStart c lane s
  | .brambleFlagEnd c lane => Sys2Proof.Machine.execBrambleFlagEnd c lane s
  | .defLong c => Sys2Proof.Machine.execDefLong c s
  | .ldpcDecode c core => Sys2Proof.Machine.execLdpcDecode c core s
  | .captureRead c pcn => Sys2Proof.Machine.execCaptureRead c pcn s
  | .retryStep c pcn => Sys2Proof.Machine.execRetryStep c pcn s
  | .retryBudgetExpired c pcn => Sys2Proof.Machine.execRetryBudgetExpired c pcn s
  | .servoSample c slot sd => Sys2Proof.Machine.execServoSample c slot sd s
  | .slotCommandOff src c slot => Sys2Proof.Machine.execSlotCommandOff src c slot s
  | .slotCommandOpen src c slot => Sys2Proof.Machine.execSlotCommandOpen src c slot s
  | .slotCommandAcquire src c slot => Sys2Proof.Machine.execSlotCommandAcquire src c slot s
  | .slotCommandClosed src c slot => Sys2Proof.Machine.execSlotCommandClosed src c slot s
  | .slotCommandHold src c slot => Sys2Proof.Machine.execSlotCommandHold src c slot s
  | .coefficientWrite src c slot off value => Sys2Proof.Machine.execCoefficientWrite src c slot off value s
  | .trimWrite src c slot value => Sys2Proof.Machine.execTrimWrite src c slot value s
  | .tgtWrite src c slot value => Sys2Proof.Machine.execTgtWrite src c slot value s
  | .eqDataWrite src c value => Sys2Proof.Machine.execEqDataWrite src c value s
  | .acquisitionCapture c slot => Sys2Proof.Machine.execAcquisitionCapture c slot s
  | .acquisitionFailure c slot => Sys2Proof.Machine.execAcquisitionFailure c slot s
  | .loss c slot => Sys2Proof.Machine.execLoss c slot s
  | .guylineArm c slot => Sys2Proof.Machine.execGuylineArm c slot s
  | .implausible c slot row => Sys2Proof.Machine.execImplausible c slot row s
  | .ffBinEnd c slot => Sys2Proof.Machine.execFfBinEnd c slot s
  | .cleFault c => Sys2Proof.Machine.execCleFault c s
  | .cleEnable src c en => Sys2Proof.Machine.execCleEnable src c en s
  | .layerJump src c layer => Sys2Proof.Machine.execLayerJump src c layer s
  | .layerJumpTimeout c => Sys2Proof.Machine.execLayerJumpTimeout c s
  | .layerJumpDone c => Sys2Proof.Machine.execLayerJumpDone c s
  | .strandJump src c strands => Sys2Proof.Machine.execStrandJump src c strands s
  | .strandJumpTimeout c => Sys2Proof.Machine.execStrandJumpTimeout c s
  | .strandJumpDone c => Sys2Proof.Machine.execStrandJumpDone c s
  | .calibrationSweep src c => Sys2Proof.Machine.execCalibrationSweep src c s
  | .sweepDone c => Sys2Proof.Machine.execSweepDone c s
  | .spindleStart src c => Sys2Proof.Machine.execSpindleStart src c s
  | .spindleStop src c => Sys2Proof.Machine.execSpindleStop src c s
  | .spindleCoast src c => Sys2Proof.Machine.execSpindleCoast src c s
  | .spindleClearFault src c => Sys2Proof.Machine.execSpindleClearFault src c s
  | .commutationTableWrite src c value => Sys2Proof.Machine.execCommutationTableWrite src c value s
  | .pwmPeriod c o => Sys2Proof.Machine.execPwmPeriod c o s
  | .catchWindowEnd c => Sys2Proof.Machine.execCatchWindowEnd c s
  | .alignEnd c => Sys2Proof.Machine.execAlignEnd c s
  | .observerLock c => Sys2Proof.Machine.execObserverLock c s
  | .startFail c => Sys2Proof.Machine.execStartFail c s
  | .handoverEnd c => Sys2Proof.Machine.execHandoverEnd c s
  | .atSpeed c => Sys2Proof.Machine.execAtSpeed c s
  | .vlim c => Sys2Proof.Machine.execVlim c s
  | .stoppingLowSpeed c => Sys2Proof.Machine.execStoppingLowSpeed c s
  | .stopped c => Sys2Proof.Machine.execStopped c s
  | .speedGap c emf => Sys2Proof.Machine.execSpeedGap c emf s
  | .chopFault c => Sys2Proof.Machine.execChopFault c s
  | .overvoltage c => Sys2Proof.Machine.execOvervoltage c s
  | .undervoltage c => Sys2Proof.Machine.execUndervoltage c s
  | .overcurrent c => Sys2Proof.Machine.execOvercurrent c s
  | .powerStageFault c => Sys2Proof.Machine.execPowerStageFault c s
  | .sampleLoss c periods => Sys2Proof.Machine.execSampleLoss c periods s
  | .sledMove src c first last => Sys2Proof.Machine.execSledMove src c first last s
  | .sledStop src c => Sys2Proof.Machine.execSledStop src c s
  | .sledHome src c => Sys2Proof.Machine.execSledHome src c s
  | .sledEnergise src c => Sys2Proof.Machine.execSledEnergise src c s
  | .sledRelease src c => Sys2Proof.Machine.execSledRelease src c s
  | .sledClearFault src c => Sys2Proof.Machine.execSledClearFault src c s
  | .sledTick c ia ib => Sys2Proof.Machine.execSledTick c ia ib s
  | .moveDone c => Sys2Proof.Machine.execMoveDone c s
  | .stopDone c => Sys2Proof.Machine.execStopDone c s
  | .homeSwitchEdge c level => Sys2Proof.Machine.execHomeSwitchEdge c level s
  | .homeFail c => Sys2Proof.Machine.execHomeFail c s
  | .sledOvercurrent c => Sys2Proof.Machine.execSledOvercurrent c s
  | .holdCurrent c => Sys2Proof.Machine.execHoldCurrent c s
  | .followEntry c => Sys2Proof.Machine.execFollowEntry c s
  | .pickupTemperatureSample c codes => Sys2Proof.Machine.execPickupTemperatureSample c codes s
  | .recompTimer c => Sys2Proof.Machine.execRecompTimer c s
  | .calForce src c => Sys2Proof.Machine.execCalForce src c s
  | .setValidWrite src c mask => Sys2Proof.Machine.execSetValidWrite src c mask s
  | .pdeltaWrite src c value => Sys2Proof.Machine.execPdeltaWrite src c value s
  | .generationFormed c => Sys2Proof.Machine.execGenerationFormed c s
  | .generationApply c => Sys2Proof.Machine.execGenerationApply c s
  | .snapshot src rg => Sys2Proof.Machine.execSnapshot src rg s
  | .mmClear src rg source => Sys2Proof.Machine.execMmClear src rg source s
  | .histogramClear src rg source => Sys2Proof.Machine.execHistogramClear src rg source s
  | .histogramConfigWrite src rg off value => Sys2Proof.Machine.execHistogramConfigWrite src rg off value s
  | .counterClear src c mask => Sys2Proof.Machine.execCounterClear src c mask s
  | .satClear src c mask => Sys2Proof.Machine.execSatClear src c mask s
  | .counterSaturate c idx => Sys2Proof.Machine.execCounterSaturate c idx s
  | .xtsSelftest src c => Sys2Proof.Machine.execXtsSelftest src c s
  | .registerRead src bar addr size => Sys2Proof.Machine.execRegisterRead src bar addr size s
  | .stewardFenceRequest c => Sys2Proof.Machine.execStewardFenceRequest c s
  | .gpioEdge pin level => Sys2Proof.Machine.execGpioEdge pin level s
  | .wobblePllLock c hz => Sys2Proof.Machine.execWobblePllLock c hz s
  | .coalescingTimeExpiry v => Sys2Proof.Machine.execCoalescingTimeExpiry v s
  | .channelImageLoaded c ok => Sys2Proof.Machine.execChannelImageLoaded c ok s
  | .controllerEnable => Sys2Proof.Machine.execControllerEnable s
  | .controllerReset => Sys2Proof.Machine.execControllerReset s
  | .normalShutdown => Sys2Proof.Machine.execNormalShutdown s
  | .shutdownDeadline => Sys2Proof.Machine.execShutdownDeadline s
  | .abruptShutdown => Sys2Proof.Machine.execAbruptShutdown s
  | .perstDeassert => Sys2Proof.Machine.execPerstDeassert s
  | .functionLevelReset => Sys2Proof.Machine.execFunctionLevelReset s
  | .flrComplete => Sys2Proof.Machine.execFlrComplete s
  | .busMasterEnableClear => Sys2Proof.Machine.execBusMasterEnableClear s
  | .busMasterEnableSet => Sys2Proof.Machine.execBusMasterEnableSet s
  | .bmeExpired => Sys2Proof.Machine.execBmeExpired s
  | .earlyWarningEnd => Sys2Proof.Machine.execEarlyWarningEnd s
  | .porstAssert => Sys2Proof.Machine.execPorstAssert s
  | .bootVerify => Sys2Proof.Machine.execBootVerify s
  | .portPllLoss => Sys2Proof.Machine.execPortPllLoss s
  | .referenceLoss => Sys2Proof.Machine.execReferenceLoss s
  | .xoStop => Sys2Proof.Machine.execXoStop s
  | .thermalTrip => Sys2Proof.Machine.execThermalTrip s
  | .frontEndWatchdog => Sys2Proof.Machine.execFrontEndWatchdog s
  | .securityCoreWatchdog => Sys2Proof.Machine.execSecurityCoreWatchdog s
  | .lockstepMismatch => Sys2Proof.Machine.execLockstepMismatch s
  | .tamperAssert => Sys2Proof.Machine.execTamperAssert s
  | .challengeExpiry => Sys2Proof.Machine.execChallengeExpiry s
  | .dbgenFall => Sys2Proof.Machine.execDbgenFall s
  | .chal => Sys2Proof.Machine.execChal s
  | .state => Sys2Proof.Machine.execState s
  | .smbVendorId => Sys2Proof.Machine.execSmbVendorId s
  | .smbDeviceId => Sys2Proof.Machine.execSmbDeviceId s
  | .smbSiliconRevision => Sys2Proof.Machine.execSmbSiliconRevision s
  | .smbStatus => Sys2Proof.Machine.execSmbStatus s
  | .smbCompositeTemperature => Sys2Proof.Machine.execSmbCompositeTemperature s
  | .smbThermalLevel => Sys2Proof.Machine.execSmbThermalLevel s
  | .smbFencesClosed => Sys2Proof.Machine.execSmbFencesClosed s
  | .smbChannelsInBivouac => Sys2Proof.Machine.execSmbChannelsInBivouac s
  | .smbChannelsMounted => Sys2Proof.Machine.execSmbChannelsMounted s
  | .smbDiscPresent => Sys2Proof.Machine.execSmbDiscPresent s
  | .smbBoot => Sys2Proof.Machine.execSmbBoot s
  | .smbResetCause => Sys2Proof.Machine.execSmbResetCause s
  | .smbFrontEnd => Sys2Proof.Machine.execSmbFrontEnd s
  | .smbBundleVersion => Sys2Proof.Machine.execSmbBundleVersion s
  | .smbSerialNumber => Sys2Proof.Machine.execSmbSerialNumber s
  | .smbClockLowTimeout => Sys2Proof.Machine.execSmbClockLowTimeout s
  | .tamperRelease => Sys2Proof.Machine.execTamperRelease s
  | .dbgenRise => Sys2Proof.Machine.execDbgenRise s
  | .l12Exit => Sys2Proof.Machine.execL12Exit s

end Sys2Proof.Machine
end

