-- ==== Sys2Proof/Safety.lean ====
section
/-! DEFINITION. What counts as a safe run, and what every reachable state is held to: the predicates the claims use. -/

namespace Sys2Proof.Machine
open Sys2Proof

/-- A step is safe where it answers a next state: the block has no fault of its own, and the model stops only where it has no
meaning to give. -/
def Safe (o : Host.Outcome State Fault Refusal) : Prop := ∃ t, o = .next t

/-- The commands and states for which the spec gives no effect: an error at a channel DRAM word that no requester reaches (R366), and an
instruction of the open debug port (R496). -/
def Stops (i : Instr) (s : State) : Prop :=
  match i with
  | .eccCorrected _ word _ | .eccPoison _ word _ => 0x38000000 ≤ word
  | .bypass code _ => s.debugOpen = true ∧ code ≠ 0xF
  | _ => False

/-- What a table entry of `State.tbl` reads as where it is not listed. -/
def tblDefault (key : Nat) : Nat :=
  match key / 0x100000 / 32 with
  | 0 => Tbl.default .msix (key % 0x100000)
  | 4 => Tbl.default .commutation (key % 0x100000)
  | 9 => Tbl.default .hist (key % 0x100000)
  | _ => 0

/-- A field has a place in the register map: a page of its region, an offset below the Flysheet copies at + 0x800, a bit position
(R462, R463). -/
structure Fld.Placed (f : Fld) : Prop where
  page : f.page < 0x100
  off  : f.off < 0x800
  lsb  : f.lsb < 32

/-- Two rows name the same field: one page, one offset, one bit position. -/
def Fld.same (f g : Fld) : Bool := f.page == g.page && f.off == g.off && f.lsb == g.lsb

/-- Every register field that `W` does not select reads as before, in the active and in the Flysheet copy. -/
def FieldsKept (s t : State) (W : Nat → Fld → Prop) : Prop :=
  ∀ rg f, f.Placed → ¬ W rg f → t.rd rg f = s.rd rg f ∧ t.rdFly rg f = s.rdFly rg f

/-- The fields of a list, in one region. -/
def FieldsOf (rg : Nat) (fs : List Fld) : Nat → Fld → Prop := fun r f => r = rg ∧ ∃ g ∈ fs, f.same g = true

/-- Nothing changes but registers, their parity marks and the fields that `W` selects among them. -/
structure OnlyFields (s t : State) (W : Nat → Fld → Prop) : Prop where
  rest : t = { s with regs := t.regs }
  kept : FieldsKept s t W

/-- The sparse stores of the state are in their one canonical form, so that equal contents are equal data. -/
structure State.Canonical (s : State) : Prop where
  regs   : SMap.wf s.regs
  tbl    : SMap.wf s.tbl
  latch  : SMap.wf s.latch
  parity : SMap.wf s.parity
  groups : SMap.wf s.groups
  dram   : Memory.wf s.dram = true
  poison : SMap.wf s.poison
  marked : ∀ e ∈ s.poison, e.2 = true

end Sys2Proof.Machine
end

