-- ==== Sys2Proof/Certificates/Slice0/Obligations.lean ====
section
/-! DEFINITION. The statements for the provers: what each command does, what it leaves alone, and the rules every step keeps. -/

open Sys2Proof Sys2Proof.Machine

/-- A step runs the command at the front of the queue on the state with the queue's rest. -/
def Obligations.StepRunsFrontCommand : Prop :=
  ∀ (c : Instr) (rest : List Instr) (s : State), step { s with pending := c :: rest } = exec c { s with pending := rest }

/-- A step takes exactly the front command from the queue, and what has already left the device stays as it left, in order. The queue is
the model's own (log 1). -/
def Obligations.StepConsumesOneCommand : Prop :=
  ∀ s t : State, step s = .next t → t.pending = s.pending.tail ∧ s.out <+: t.out

/-- Every step keeps the stores in their one canonical form. -/
def Obligations.CanonicalStoresKept : Prop := ∀ s t : State, s.Canonical → step s = .next t → t.Canonical

/-- The stores are canonical after reset. -/
def Obligations.CanonicalStoresAtReset : Prop := State.reset.Canonical

/-- Every command answers a next state, but for an ECC event beyond the addressable words and an instruction of the open debug port. -/
def Obligations.CommandsStopOnlyWhereTheSpecGivesNoEffect : Prop :=
  (∀ (i : Instr) (s : State), ¬ Stops i s → ∃ t, exec i s = .next t) ∧
  (∀ (c : Fin 16) (word : Nat) (rw_ : Bool) (use : PoisonUse) (s : State), 0x38000000 ≤ word →
    exec (.eccCorrected c word rw_) s = .fault .dramAddress ∧ exec (.eccPoison c word use) s = .fault .dramAddress) ∧
  (∀ (code : BitVec 4) (tdi : Bool) (s : State), s.debugOpen = true → code ≠ 0xF → exec (.bypass code tdi) s = .refused .openDebugPort)

/-- A field reads back what was written to it; every other field, the other copy of it, and the rest of the state stay. -/
def Obligations.RegisterFieldsReadBack : Prop :=
  ∀ (s : State) (rg : Nat) (f : Fld) (v : Nat), f.Placed →
    ((s.wr rg f v).rd rg f = v % 2 ^ f.width ∧
      (∀ rg' g, g.Placed → (rg' ≠ rg ∨ g.same f = false) → (s.wr rg f v).rd rg' g = s.rd rg' g) ∧
      (∀ rg' g, g.Placed → (s.wr rg f v).rdFly rg' g = s.rdFly rg' g) ∧
      s.wr rg f v = { s with regs := (s.wr rg f v).regs }) ∧
    ((s.wrFly rg f v).rdFly rg f = v % 2 ^ f.width ∧
      (∀ rg' g, g.Placed → (rg' ≠ rg ∨ g.same f = false) → (s.wrFly rg f v).rdFly rg' g = s.rdFly rg' g) ∧
      (∀ rg' g, g.Placed → (s.wrFly rg f v).rd rg' g = s.rd rg' g) ∧
      s.wrFly rg f v = { s with regs := (s.wrFly rg f v).regs })

/-- A write of channel DRAM changes its enabled bytes and the poison marks of the words it covers whole, and nothing else. -/
def Obligations.ChannelDramReadsBack : Prop :=
  ∀ (s : State) (c : Fin 16) (a : Nat) (bs : List (Option Byte)), a + bs.length ≤ 2 ^ 33 →
    (∀ i b, bs[i]? = some (some b) → (s.dramWrite c a bs).dramByte c (a + i) = b) ∧
    (∀ d x, x < 2 ^ 33 → (∀ i b, bs[i]? = some (some b) → ¬ (d = c ∧ x = a + i)) →
      (s.dramWrite c a bs).dramByte d x = s.dramByte d x) ∧
    (∀ d w, w < 2 ^ 30 → (s.dramWrite c a bs).poisoned d w =
      if d = c ∧ a / 8 ≤ w ∧ w < (a + bs.length + 7) / 8 ∧ coversWord a bs w = true then false else s.poisoned d w) ∧
    s.dramWrite c a bs = { s with dram := (s.dramWrite c a bs).dram, poison := (s.dramWrite c a bs).poison }

/-- An event sets its `IRQ_RAW` bit, enabled or not, and changes no other register (R466); `IRQ_STS` is `IRQ_RAW` AND `IRQ_EN`, and a 1
written to it clears the raw bit even when its enable is 0. An event in the same cycle as a clear cannot be told from one before it: each
command is one step. -/
def Obligations.InterruptEventSetsItsBit : Prop :=
  ∀ (s : State) (rg page : Nat), page < 0x100 →
    s.irqSts rg page = s.rd rg (F.HDR_IRQ_RAW page) &&& s.rd rg (F.HDR_IRQ_EN page) ∧
    (∀ bit, (s.shadowed rg && shadowPage page && page != 0) = true → s.irq rg page bit = s) ∧
    (∀ bit, bit < 32 → s.rd rg (F.HDR_IRQ_RAW page) < 2 ^ 32 → (s.shadowed rg && shadowPage page && page != 0) = false →
      (s.irq rg page bit).rd rg (F.HDR_IRQ_RAW page) = s.rd rg (F.HDR_IRQ_RAW page) ||| 2 ^ bit ∧
      FieldsKept s (s.irq rg page bit) (FieldsOf rg [F.HDR_IRQ_RAW page]) ∧
      s.irq rg page bit = { s with
        regs := (s.irq rg page bit).regs, out := (s.irq rg page bit).out
        front := { s.front with
          trace := (s.irq rg page bit).front.trace, traceNext := if s.fenced rg = true ∧ page ≠ 0 then s.front.traceNext else s.front.traceNext + 1
          pba := (s.irq rg page bit).front.pba, held := (s.irq rg page bit).front.held } }) ∧
    (∀ bits, s.rd rg (F.HDR_IRQ_RAW page) < 2 ^ 32 → bits < 2 ^ 32 →
      (irqStatusClear rg page bits s).rd rg (F.HDR_IRQ_RAW page) =
        if (pageFields rg page).isSome then s.rd rg (F.HDR_IRQ_RAW page) - (s.rd rg (F.HDR_IRQ_RAW page) &&& bits)
        else s.rd rg (F.HDR_IRQ_RAW page))

/-- An SMBus read sends the bytes of its code and their PEC, advances `SMB.STS.READS`, and changes nothing else but, for code 0x03, the early
warning's latch; a slave that is off does nothing. Written data bytes are left unacknowledged without effect; a clock-low timeout is counted. -/
def Obligations.SmbusServesItsCommands : Prop :=
  ∀ (s : State),
    (∀ (other : Byte) (len : Nat), ∀ e ∈ ([
      (.smbVendorId, 0x00, [0x9A, 0x1E]), (.smbDeviceId, 0x01, [0x16, 0x32]),
      (.smbSiliconRevision, 0x02, leBytes 1 (s.pr F.GBL_REV_SILICON)), (.smbStatus, 0x03, leBytes 1 s.smbStatus),
      (.smbCompositeTemperature, 0x04, leBytes 2 (ofSigned 16 (max (toSigned 16 (s.pr F.TMP_TEMP_PORT))
        (max (toSigned 16 (s.pr F.TMP_TEMP_A)) (toSigned 16 (s.pr F.TMP_TEMP_B)))))),
      (.smbThermalLevel, 0x05, leBytes 1 (s.pr F.TMP_STS_LEVEL)),
      (.smbFencesClosed, 0x06, leBytes 2 (s.chMask fun x => x.fence != 0)),
      (.smbChannelsInBivouac, 0x07, leBytes 2 (s.chMask fun x => x.st == .bivouac)),
      (.smbChannelsMounted, 0x08, leBytes 2 (s.chMask fun x => x.active)),
      (.smbDiscPresent, 0x09, leBytes 2 (allChans.foldl (fun a c => a + 2 ^ c.val * s.cr c F.CHN_STS_DISC_PRESENT) 0)),
      (.smbBoot, 0x0A, leBytes 1 (s.pr F.BOOT_STS_SLOT + 8 * s.pr F.BOOT_STS_FALLBACK + 16 * s.pr F.BOOT_STS_HALT)),
      (.smbResetCause, 0x0B, leBytes 1 (s.pr F.RST_CAUSE_PIN + 2 * s.pr F.RST_CAUSE_BROWNOUT + 4 * s.pr F.RST_CAUSE_RAIL
        + 32 * s.pr F.RST_CAUSE_PLL + 64 * s.pr F.RST_CAUSE_XO)),
      (.smbFrontEnd, 0x0C, leBytes 2 (b2n s.front.rdy + 2 * b2n s.front.cfs + 4 * b2n s.front.pp)),
      (.smbBundleVersion, 0x10, 8 :: (leBytes 4 (s.pr F.FEC_VER_LO) ++ leBytes 4 (s.pr F.FEC_VER_HI))),
      (.smbSerialNumber, 0x11, 8 :: leBytes 8 Config.dsn.toNat),
      (.smbUnknownCode other len, other, List.replicate len 0xFF)] : List (Instr × Byte × List Byte)),
    (s.plat.porst = false → s.pr F.SMB_CTL = 1 →
      ∃ t, exec e.1 s = .next t ∧ t.out = s.out ++ [.smbus e.2.2 (smbPec e.2.1 e.2.2)] ∧
        t.pr F.SMB_STS_READS = (s.pr F.SMB_STS_READS + 1) % 256 ∧
        FieldsKept s t (FieldsOf 0 [F.SMB_STS_READS]) ∧
        t = { s with
          regs := t.regs, out := t.out
          plat := { s.plat with alertPfw := if e.1 = .smbStatus then false else s.plat.alertPfw } }) ∧
    (s.plat.porst = true ∨ s.pr F.SMB_CTL ≠ 1 → exec e.1 s = .next s)) ∧
    (s.plat.porst = false → s.pr F.SMB_CTL = 1 →
      (∀ code data, exec (.smbWrite code data) s = .next { s with out := s.out ++ List.replicate data.length .smbusNack }) ∧
      ∃ t, exec .smbClockLowTimeout s = .next t ∧ t = (s.incSat 0 F.SMB_STS_TIMEOUTS).irq 0 0x1B 0 ∧
        t.pr F.SMB_STS_TIMEOUTS = min (s.pr F.SMB_STS_TIMEOUTS + 1) 255 ∧
        FieldsKept s t (FieldsOf 0 [F.SMB_STS_TIMEOUTS, F.HDR_IRQ_RAW 0x1B]))

/-- CHAL_GO and CHAL issue a challenge: 32 fresh random bytes, the Device Serial Number, the challenge number. The byte order of the two numbers,
least significant first, is a DESIGN CHOICE (log 18). -/
def Obligations.DebugChallengeIsIssued : Prop :=
  ∀ (s : State), s.pr F.SEC_STS_DBGEN = 1 → s.sec.tamperLow = false → s.pr F.SEC_DBG_STS_STATE = 0 ∨ s.pr F.SEC_DBG_STS_STATE = 1 →
    let ch := (List.range 32).map (fun i => Config.random (s.sec.draws + i)) ++ leBytes 8 Config.dsn.toNat ++ leBytes 8 s.sec.chalNext
    (∀ src, ∃ t, exec (.debugChallenge src) s = .next t ∧ t.pr F.SEC_DBG_STS_STATE = 1 ∧ t.out = s.out ∧
      t = { s with regs := t.regs, sec := { s.sec with draws := s.sec.draws + 32, challenge := some ch, chalNext := s.sec.chalNext + 1 } }) ∧
    (s.sec.challenge = none → ∃ t, exec .chal s = .next t ∧ t.pr F.SEC_DBG_STS_STATE = 1 ∧ t.out = s.out ++ [.debug ch] ∧
      t.sec = { s.sec with draws := s.sec.draws + 32, challenge := some ch, chalNext := s.sec.chalNext + 1 }) ∧
    (∀ b, s.sec.challenge = some b → exec .chal s = .next { s with out := s.out ++ [.debug b] })

/-- STATE and BYPASS; the end of a challenge by expiry or the fall of DBGEN; the levels of DBGEN and TAMPER_N. -/
def Obligations.DebugPortStatusBypassAndEnable : Prop :=
  ∀ (s : State),
    exec .state s = .next { s with out := s.out ++ [.debug [BitVec.ofNat 8 (s.pr F.SEC_DBG_STS_STATE + 4 * s.pr F.SEC_DBG_STS_FAILS
      + 16 * s.pr F.SEC_STS_DBGEN + 32 * s.pr F.SEC_STS_TAMPER)]] } ∧
    (∀ (code : BitVec 4) (tdi : Bool), s.debugOpen = false ∨ code = 0xF → exec (.bypass code tdi) s = .next { s with
      out := s.out ++ [.debug [if s.sec.bypass then 1 else 0]], sec := { s.sec with bypass := tdi } }) ∧
    (s.sec.challenge.isSome → ∃ t, exec .challengeExpiry s = .next t ∧ t = { s with regs := t.regs, sec := { s.sec with challenge := none } } ∧
      t.pr F.SEC_DBG_STS_STATE = if s.pr F.SEC_DBG_STS_STATE = 1 then 0 else s.pr F.SEC_DBG_STS_STATE) ∧
    (∃ t, exec .dbgenFall s = .next t ∧ t = { s with regs := t.regs, sec := { s.sec with challenge := none } } ∧
      t.pr F.SEC_STS_DBGEN = 0 ∧ t.debugOpen = false ∧
      t.pr F.SEC_DBG_STS_STATE = if s.debugOpen ∨ s.pr F.SEC_DBG_STS_STATE = 1 then 0 else s.pr F.SEC_DBG_STS_STATE) ∧
    (s.plat.porst = false → ∃ t, exec .dbgenRise s = .next t ∧ t.pr F.SEC_STS_DBGEN = 1 ∧ OnlyFields s t (FieldsOf 0 [F.SEC_STS_DBGEN])) ∧
    exec .tamperRelease s = .next { s with sec := { s.sec with tamperLow := false } }

/-- What the watchdogs, a lockstep mismatch, the standby's return and a steward's fence request do, over the shared operations. -/
def Obligations.WatchdogsAndFailover : Prop :=
  ∀ (s : State) (c : Fin 16),
    (s.alive c = true → s.cr c F.STW_STS_RUN = 1 → exec (.stewardWatchdog c) s = .next
      ((((s.wrs 0 [(F.RST_WDT_LAST_KIND, 1), (F.RST_WDT_LAST_CHANNEL, c.val)]).irq 0 0x03 0).stewardFault c 4))) ∧
    (s.plat.feUp = true → exec .frontEndWatchdog s = .next
      (((s.wrs 0 [(F.RST_WDT_LAST_KIND, 2), (F.RST_WDT_LAST_CHANNEL, 0)]).irq 0 0x03 0).failover 3)) ∧
    exec .lockstepMismatch s = .next (s.failover 1) ∧
    (∀ cause, s.plat.feUp = true → s.pr F.GMON_FE_STS_STANDBY_READY = 1 →
      let s1 := ((s.incSat 0 F.GMON_FE_STS_FAILOVERS).wrs 0 [(F.GMON_FE_STS_LAST_CAUSE, cause), (F.GMON_FE_LAST_LO, s.plat.time),
        (F.GMON_FE_LAST_HI, s.plat.time / 2 ^ 32)]).irq 0 0x18 0
      let s2 := s1.wrs 0 [(F.GMON_FE_STS_ACTIVE_PAIR, 1 - s.pr F.GMON_FE_STS_ACTIVE_PAIR), (F.GMON_FE_STS_STANDBY_READY, 0)]
      s.failover cause = ((State.modFront { s2 with plat := { s2.plat with standby := true } } fun f => { f with pp := true }).abortExecuting).event
        0 3 0x01) ∧
    (s.pr F.SEC_STS_STORE_READY = 1 → exec .securityCoreWatchdog s = .next
      (((s.wrs 0 [(F.RST_WDT_LAST_KIND, 3), (F.RST_WDT_LAST_CHANNEL, 0)]).irq 0 0x03 0).zeroize 3)) ∧
    (s.plat.standby = true → ∃ t, exec (.standbyReady true) s = .next t ∧ t.pr F.GMON_FE_STS_STANDBY_READY = 1 ∧
      FieldsKept s t (FieldsOf 0 [F.GMON_FE_STS_STANDBY_READY]) ∧ t = { s with regs := t.regs, plat := { s.plat with standby := false } }) ∧
    (s.plat.standby = true → exec (.standbyReady false) s = .next
      ((State.pw { s with plat := { s.plat with standby := false } } F.GMON_FE_STS_STANDBY_RETIRED 1).irq 0 0x18 1)) ∧
    (s.alive c = true → exec (.stewardFenceRequest c) s = .next (s.closeFence c 2))

/-- SRAM errors, correctable or not, and register file parity errors, over the shared operations. -/
def Obligations.StorageErrorsOfTheDevice : Prop :=
  ∀ (s : State) (c : Fin 16), s.plat.porst = false →
    (s.alive c = true →
      exec (.sramUncorrectable (.steward c)) s = .next ((s.sramError (chRg c) 0x01 true).stewardFault c 3) ∧
      exec (.sramUncorrectable (.cle c)) s = .next ((s.sramError (chRg c) 0x08 true).cleFaultAs c 3) ∧
      exec (.sramUncorrectable (.fabric c)) s = .next (s.closeFence c 5) ∧
      ∀ page, exec (.sramUncorrectable (.channelBlock c page)) s = .next ((s.sramError (chRg c) page true).closeFence c 3)) ∧
    (∀ k, exec (.sramUncorrectable (.qmgSlot k)) s = .next ((s.sramError 0 0x09 true).retireSlot k)) ∧
    (exec (.sramUncorrectable (.frontEnd (s.pr F.GMON_FE_STS_ACTIVE_PAIR))) s = .next ((s.sramError 0 0x08 true).failover 2)) ∧
    (∀ pair, pair ≠ s.pr F.GMON_FE_STS_ACTIVE_PAIR → s.pr F.GMON_FE_STS_STANDBY_READY = 1 →
      ∃ t, exec (.sramUncorrectable (.frontEnd pair)) s = .next t ∧ t.pr F.GMON_FE_STS_STANDBY_READY = 0 ∧ t.plat.standby = true ∧
        t.pr (F.HDR_BLK_STS_FAULT 0x08) = 1) ∧
    exec (.sramUncorrectable .securityCore) s = .next ((s.sramError 0 0x10 true).zeroize 4) ∧
    (∀ page, exec (.sramUncorrectable (.portBlock page)) s = .next (s.sramError 0 page true)) ∧
    (∀ rg page, page < 0x100 → (s.sramError rg page true).rd rg (F.HDR_BLK_STS_FAULT page) = 1 ∧
      (s.sramError rg page true).front = s.front ∧ (s.sramError rg page true).chans = s.chans ∧ (s.sramError rg page true).dram = s.dram) ∧
    (∀ rg page, (pageFields rg page).isSome → ∃ t, exec (.sramCorrectable rg page) s = .next t ∧ t = s.sramError rg page false ∧
      t.rd rg (F.HDR_ERR_COUNT page) = min (s.rd rg (F.HDR_ERR_COUNT page) + 1) 65535 ∧
      t = { s with regs := t.regs, free := t.free }) ∧
    (∀ rg page off fly, (pageFields rg page).isSome → regFields rg page off ≠ [] →
      ∃ t, exec (.registerFileParity rg page off fly) s = .next t ∧ t.rd rg (F.HDR_BLK_STS_FAULT page) = 1 ∧
        SMap.get t.parity (parityKey rg page off fly) false = true ∧ t = { s with regs := t.regs, free := t.free, parity := t.parity })

/-- FLIT_REPLAY, LINK_RETRAIN, LINK_RETRAIN_DONE and LANE_REPAIR. -/
def Obligations.InterposerLinksAndLanes : Prop :=
  ∀ (s : State) (die dir : Fin 2), s.plat.porst = false →
    (∀ ok, ∃ t, exec (.flitReplay die ok) s = .next t ∧ t.pr (fReplays die) = min (s.pr (fReplays die) + 1) (2 ^ (fReplays die).width - 1) ∧
      SMap.get t.plat.replays die.val 0 = (if ok then 0 else min 4 (SMap.get s.plat.replays die.val 0 + 1)) ∧
      (∀ d, d ≠ die.val → SMap.get t.plat.replays d 0 = SMap.get s.plat.replays d 0) ∧
      FieldsKept s t (FieldsOf 0 [fReplays die]) ∧ t = { s with regs := t.regs, plat := { s.plat with replays := t.plat.replays } }) ∧
    (s.plat.training.contains die.val = false →
      (4 ≤ SMap.get s.plat.replays die.val 0 ∨ (1 ≤ SMap.get s.plat.retrains die.val 0 ∧ SMap.get s.plat.retrains die.val 0 < 3)) →
      ∃ t, exec (.linkRetrain die) s = .next t ∧ t.plat.training = die.val :: s.plat.training ∧ SMap.get t.plat.replays die.val 0 = 0 ∧
        t.pr (fRetrains die) = min (s.pr (fRetrains die) + 1) (2 ^ (fRetrains die).width - 1) ∧ FieldsKept s t (FieldsOf 0 [fRetrains die])) ∧
    (s.plat.training.contains die.val = true →
      let s1 : State := { s with plat := { s.plat with training := s.plat.training.filter (· != die.val) } }
      exec (.linkRetrainDone die true) s = .next { s1 with plat := { s1.plat with retrains := SMap.put s.plat.retrains die.val 0 0 } } ∧
      exec (.linkRetrainDone die false) s = .next
        (let s2 : State := { s1 with plat := { s1.plat with
          retrains := SMap.put s.plat.retrains die.val 0 (SMap.get s.plat.retrains die.val 0 + 1) } }
        if SMap.get s.plat.retrains die.val 0 + 1 < 3 then s2
        else (allChans.filter fun c => c.val / 8 == die.val).foldl (fun (s : State) (c : Fin 16) =>
          if s.alive c then s.closeFence c 5 else s) s2)) ∧
    (SMap.get s.plat.spares (die.val * 2 + dir.val) 0 < 4 → ∃ t, exec (.laneRepair die dir) s = .next t ∧
      SMap.get t.plat.spares (die.val * 2 + dir.val) 0 = SMap.get s.plat.spares (die.val * 2 + dir.val) 0 + 1 ∧
      FieldsKept s t (FieldsOf 0 [fSpares die]) ∧ t.dram = s.dram ∧ t.chans = s.chans ∧
      t.pr (fSpares die) = (max (SMap.get t.plat.spares (die.val * 2) 0) (SMap.get t.plat.spares (die.val * 2 + 1) 0)) % 2 ^ (fSpares die).width) ∧
    (4 ≤ SMap.get s.plat.spares (die.val * 2 + dir.val) 0 → exec (.laneRepair die dir) s = .next ((s.pw (fDegraded die) 1).irq 0 0x18 2))

/-- TAMPER_ASSERT and RESP, over the shared operations. -/
def Obligations.TamperAndDebugResponse : Prop :=
  ∀ (s : State), s.plat.porst = false →
    (s.sec.tamperLow = false → exec .tamperAssert s = .next
      ((({ s with sec := { s.sec with tamperLow := true } } : State).pw F.SEC_STS_TAMPER 1).irq 0 0x10 1 |>.zeroize 2)) ∧
    (s.sec.tamperLow = true → exec .tamperAssert s = .next s) ∧
    (∀ resp, s.sec.tamperLow = false → s.pr F.SEC_DBG_STS_STATE ≠ 2 → s.pr F.SEC_DBG_STS_STATE ≠ 3 →
      exec (.resp resp) s = .next (if s.responseValid resp then
        (((dropChallenge s).zeroize 1).wrs 0 [(F.SEC_DBG_STS_STATE, 2), (F.SEC_STS_DEBUG_OPEN, 1)]).irq 0 0x10 2
      else ((dropChallenge s).wrs 0 [(F.SEC_DBG_STS_FAILS, s.pr F.SEC_DBG_STS_FAILS + 1),
        (F.SEC_DBG_STS_STATE, if s.pr F.SEC_DBG_STS_FAILS + 1 ≥ 3 then 3 else 0)]).irq 0 0x10 4)) ∧
    (∀ resp, s.sec.tamperLow = true ∨ s.pr F.SEC_DBG_STS_STATE = 2 ∨ s.pr F.SEC_DBG_STS_STATE = 3 → exec (.resp resp) s = .next s)

/-- GPIO_EDGE: the pin's level, and its own enabled event only. -/
def Obligations.GpioEdgesRaiseTheirEvents : Prop :=
  ∀ (s : State) (pin : Fin 16) (level : Bool),
    let g := if bitAt s.plat.gpioIn pin.val = level then s.plat.gpioIn else
      if level then s.plat.gpioIn + 2 ^ pin.val else s.plat.gpioIn - 2 ^ pin.val
    (s.plat.porst = true → exec (.gpioEdge pin level) s = .next { s with plat := { s.plat with gpioIn := g } }) ∧
    (s.plat.porst = false → s.pr F.GPIO_DIR = 0 → s.plat.gpioIn < 65536 →
      exec (.gpioEdge pin level) s = .next
        (let s1 : State := { s with plat := { s.plat with gpioIn := g } }
        if bitAt s.plat.gpioIn pin.val ≠ level ∧
            bitAt (s.pr (if level then F.GPIO_EDGE_RISE else F.GPIO_EDGE_FALL)) pin.val = true
          then s1.irq 0 0x1A pin.val else s1) ∧
      ∀ n, n < 16 → bitAt g n = if n = pin.val then level else bitAt s.plat.gpioIn n)

/-- ECC_CORRECTED, ECC_POISON of a word no block needs, BUCKET_LEAK, MR4_READ, OSCILLATOR_CHECK and ZQ_CALIBRATION. -/
def Obligations.DramErrorsAreCountedAndLeak : Prop :=
  ∀ (s : State) (c : Fin 16) (word : Nat), word < 0x38000000 → s.cr c F.ECC_BUCKET_LEVEL < 256 → s.cr c F.ECC_BUCKET_THR < 256 →
    (∀ rw_, ∃ t, exec (.eccCorrected c word rw_) s = .next t ∧
      t.cr c F.ECC_BUCKET_LEVEL = min (s.cr c F.ECC_BUCKET_LEVEL + 1) 255 ∧
      t.cr c F.ECC_CE_COUNT = min (s.cr c F.ECC_CE_COUNT + 1) (2 ^ 32 - 1) ∧ t.cr c F.ECC_LAST_CE = word ∧
      FieldsKept s t (FieldsOf (chRg c) [F.ECC_BUCKET_LEVEL, F.ECC_CE_COUNT, F.ECC_LAST_CE, F.HDR_IRQ_RAW 0x49]) ∧
      (t.cr c (F.HDR_IRQ_RAW 0x49) = if s.cr c F.ECC_BUCKET_LEVEL + 1 = s.cr c F.ECC_BUCKET_THR
        then (s.cr c (F.HDR_IRQ_RAW 0x49) ||| 1) % 2 ^ 32 else s.cr c (F.HDR_IRQ_RAW 0x49)) ∧
      t.dram = s.dram ∧ t.poison = s.poison ∧ t.chans = s.chans) ∧
    (∃ t, exec (.bucketLeak c) s = .next t ∧ t.cr c F.ECC_BUCKET_LEVEL = s.cr c F.ECC_BUCKET_LEVEL - 1 ∧
      OnlyFields s t (FieldsOf (chRg c) [F.ECC_BUCKET_LEVEL])) ∧
    (s.alive c = true → s.poisoned c word = true → exec (.eccPoison c word .other) s = .next s) ∧
    (s.alive c = true → s.poisoned c word = false → ∃ t, exec (.eccPoison c word .other) s = .next t ∧ t.poisoned c word = true ∧
      (∀ d w, w < 2 ^ 30 → ¬ (d = c ∧ w = word) → t.poisoned d w = s.poisoned d w) ∧ t.dram = s.dram ∧ t.chans = s.chans ∧
      t.cr c F.ECC_UE_COUNT = min (s.cr c F.ECC_UE_COUNT + 1) (2 ^ 32 - 1) ∧
      (t.cr c F.ECC_FIRST_UE_WORD = if s.cr c F.ECC_FIRST_UE_VALID = 0 then word else s.cr c F.ECC_FIRST_UE_WORD) ∧
      t.cr c (F.HDR_IRQ_RAW 0x49) = (s.cr c (F.HDR_IRQ_RAW 0x49) ||| 2) % 2 ^ 32) ∧
    (∀ rate above4x, ∃ t, exec (.mr4Read c rate above4x) s = .next t ∧ t.cr c F.DRC_STS_MR4_RATE = rate % 16 ∧ t.dram = s.dram ∧
      (t.cr c (F.HDR_IRQ_RAW 0x48) = if above4x then (s.cr c (F.HDR_IRQ_RAW 0x48) ||| 2) % 2 ^ 32 else s.cr c (F.HDR_IRQ_RAW 0x48)) ∧
      FieldsKept s t (FieldsOf (chRg c) [F.DRC_STS_MR4_RATE, F.HDR_IRQ_RAW 0x48])) ∧
    (∀ drift, exec (.oscillatorCheck c drift) s = .next s) ∧ exec (.zqCalibration c) s = .next s

/-- SCRUB_GO, SCRUB_STOP, SCRUB_PASS_END and DRAM_RETRAIN where the host or firmware reaches them. -/
def Obligations.ScrubberPasses : Prop :=
  ∀ (s : State) (c : Fin 16) (src : Src),
    (s.reach src (chRg c) 0x4A = .open_ →
      (s.cr c F.SCB_START < s.cr c F.SCB_END → s.cr c F.SCB_END ≤ 0x38000000 → s.cr c F.SCB_STS_BUSY = 0 →
        ∃ t, exec (.scrubGo src c) s = .next t ∧ t.cr c F.SCB_STS_BUSY = 1 ∧ t.cr c F.SCB_STS_DONE = 0 ∧ t.cr c F.SCB_STS_STOPPED = 0 ∧
          t.cr c F.SCB_STS_REFUSED = 0 ∧ t.cr c F.SCB_WORDS_READ = 0 ∧ t.cr c F.SCB_CORRECTED = 0 ∧ t.cr c F.SCB_UNCORR = 0 ∧
          t.cr c F.SCB_FIRST_UE = 0 ∧ t.cr c F.SCB_LAST_UE = 0 ∧ t.cr c F.SCB_POSITION = s.cr c F.SCB_START ∧
          (t.ch c).scrubStop = false ∧ (∀ d, d ≠ c → t.ch d = s.ch d) ∧ t = { s with regs := t.regs, parity := t.parity, chans := t.chans }) ∧
      ((s.cr c F.SCB_END ≤ s.cr c F.SCB_START ∨ 0x38000000 < s.cr c F.SCB_END ∨ s.cr c F.SCB_STS_BUSY = 1) →
        ∃ t, exec (.scrubGo src c) s = .next t ∧ t.cr c F.SCB_STS_REFUSED = 1 ∧ t.cr c F.SCB_STS_BUSY = s.cr c F.SCB_STS_BUSY ∧
          t.cr c F.SCB_POSITION = s.cr c F.SCB_POSITION ∧ t = { s with regs := t.regs, parity := t.parity, free := t.free }) ∧
      (s.cr c F.SCB_STS_BUSY = 1 → ∃ t, exec (.scrubStop src c) s = .next t ∧ t.ch c = { s.ch c with scrubStop := true } ∧
        (∀ d, d ≠ c → t.ch d = s.ch d) ∧ t = { s with chans := t.chans, parity := t.parity }) ∧
      (s.cr c F.SCB_STS_BUSY = 0 → exec (.scrubStop src c) s = .next (s.unmark (chRg c) 0x4A 0x108 false))) ∧
    (s.reach src (chRg c) 0x48 = .open_ → exec (.dramRetrain src c) s = .next (s.unmark (chRg c) 0x48 0x104 false)) ∧
    (∀ corrected stoppedAt, s.running (chRg c) 0x4A = true → s.cr c F.SCB_STS_BUSY = 1 → s.cr c F.SCB_END ≤ 0x38000000 →
      s.cr c F.SCB_POSITION < 2 ^ 30 →
      let upto := max (s.cr c F.SCB_POSITION) (if (s.ch c).scrubStop then min stoppedAt (s.cr c F.SCB_END) else s.cr c F.SCB_END)
      ∃ t, exec (.scrubPassEnd c corrected stoppedAt) s = .next t ∧ t.cr c F.SCB_STS_BUSY = 0 ∧ t.cr c F.SCB_STS_DONE = 1 ∧
        t.cr c F.SCB_POSITION = upto ∧ t.cr c F.SCB_STS_STOPPED = b2n (upto < s.cr c F.SCB_END) ∧
        bitAt (t.cr c (F.HDR_IRQ_RAW 0x4A)) 0 = true ∧ t.dram = s.dram ∧ t.poison = s.poison ∧
        ∀ d, d ≠ c → t.ch d = s.ch d)

/-- Channel event counters: counting, saturation, CLEAR and the clearing of SAT. -/
def Obligations.CountersHoldTheirLimit : Prop :=
  ∀ (s : State) (c : Fin 16) (i : Fin 16) (n : Nat),
    (s.shadowed (chRg c) = true → s.cnt c i.val n = s ∧ (s.tget .counter (chRg c) i.val = 2 ^ 48 - 1 → exec (.counterSaturate c i) s = .next s)) ∧
    (s.shadowed (chRg c) = false → (s.cnt c i.val n).tget .counter (chRg c) i.val = min (s.tget .counter (chRg c) i.val + n) (2 ^ 48 - 1) ∧
      ∀ j, j < 0x100000 → j ≠ i.val → (s.cnt c i.val n).tget .counter (chRg c) j = s.tget .counter (chRg c) j) ∧
    (s.shadowed (chRg c) = false → s.tget .counter (chRg c) i.val = 2 ^ 48 - 1 →
      (bitAt (s.cr c F.CNT_SAT) i.val = true → exec (.counterSaturate c i) s = .next s) ∧
      (bitAt (s.cr c F.CNT_SAT) i.val = false → ∃ t, exec (.counterSaturate c i) s = .next t ∧
        t.cr c F.CNT_SAT = (s.cr c F.CNT_SAT ||| 2 ^ i.val) % 2 ^ 16 ∧ t.tbl = s.tbl ∧
        t.cr c (F.HDR_IRQ_RAW 0x59) = (s.cr c (F.HDR_IRQ_RAW 0x59) ||| 1) % 2 ^ 32 ∧
        FieldsKept s t (FieldsOf (chRg c) [F.CNT_SAT, F.HDR_IRQ_RAW 0x59]))) ∧
    (∀ src mask, s.reach src (chRg c) 0x59 = .open_ →
      (∃ t, exec (.counterClear src c mask) s = .next t ∧
        (∀ j : Fin 16, t.tget .counter (chRg c) j.val = if bitAt mask j.val then 0 else s.tget .counter (chRg c) j.val) ∧
        t.cr c F.CNT_SAT = (s.cr c F.CNT_SAT - (s.cr c F.CNT_SAT &&& mask)) % 2 ^ 16 ∧
        t = { s with regs := t.regs, parity := t.parity, tbl := t.tbl }) ∧
      ∃ t, exec (.satClear src c mask) s = .next t ∧ t.cr c F.CNT_SAT = (s.cr c F.CNT_SAT - (s.cr c F.CNT_SAT &&& mask)) % 2 ^ 16 ∧
        t.tbl = s.tbl ∧ t = { s with regs := t.regs, parity := t.parity })

/-- HISTOGRAM_CLEAR, MM_CLEAR, HISTOGRAM_CONFIG_WRITE and SNAPSHOT. -/
def Obligations.HistogramsSnapshotsAndTheirClears : Prop :=
  ∀ (s : State) (src : Src) (rg n : Nat), rg ≤ 16 → n < 256 → histSource rg n = true → s.reach src rg (monPage rg) = .open_ →
    (∃ t, exec (.histogramClear src rg n) s = .next t ∧
      (∀ i, i < 64 → t.tget .hist rg (n * 64 + i) = if i < 32 ∨ i = 36 then 0 else s.tget .hist rg (n * 64 + i)) ∧
      (∀ m i, m < 256 → i < 64 → m ≠ n → t.tget .hist rg (m * 64 + i) = s.tget .hist rg (m * 64 + i)) ∧
      t = { s with tbl := t.tbl, parity := t.parity }) ∧
    (∃ t, exec (.mmClear src rg n) s = .next t ∧
      (∀ i, i < 64 → t.tget .hist rg (n * 64 + i) =
        if 37 ≤ i ∧ i ≤ 41 then Tbl.default .hist (n * 64 + i) else s.tget .hist rg (n * 64 + i)) ∧
      (∀ m i, m < 256 → i < 64 → m ≠ n → t.tget .hist rg (m * 64 + i) = s.tget .hist rg (m * 64 + i)) ∧
      t = { s with tbl := t.tbl, parity := t.parity }) ∧
    (s.rd rg (if rg = 0 then F.GMON_HIST_IDX else F.MON_HIST_IDX) = n →
      (∀ v : Word, ∃ t, exec (.histogramConfigWrite src rg (if rg = 0 then 0x148 else 0x110) v) s = .next t ∧
        t.tget .hist rg (n * 64 + 34) = v.toNat ∧ (∀ i, i < 32 → t.tget .hist rg (n * 64 + i) = 0) ∧ t.tget .hist rg (n * 64 + 36) = 0 ∧
        t = { s with tbl := t.tbl, parity := t.parity }) ∧
      (∀ v : Word, ∃ t, exec (.histogramConfigWrite src rg (if rg = 0 then 0x14C else 0x114) v) s = .next t ∧
        t.tget .hist rg (n * 64 + 35) = (if v = 0 then s.tget .hist rg (n * 64 + 35) else v.toNat) ∧
        (∀ i, i < 32 → t.tget .hist rg (n * 64 + i) = 0)) ∧
      ∃ t, exec (.snapshot src rg) s = .next t ∧
        (∀ i w, (s.snapWords rg n)[i]? = some w → t.tget .snap rg i = w) ∧
        (∀ i, i < 0x100000 → t.tget .hist rg i = s.tget .hist rg i) ∧
        t.rd rg (if rg = 0 then F.GMON_SNAP_CTL_DONE else F.MON_SNAP_CTL_DONE) = 1 ∧
        t.rd rg (if rg = 0 then F.GMON_SNAP_CTL_SRC else F.MON_SNAP_CTL_SRC) = n ∧ t.dram = s.dram ∧ t.chans = s.chans)

/-- Behind a closed fence no host write starts anything in the channel, but through `IRQ_STS` and `IRQ_TEST` of CHN. A channel not powered up is met
as a fenced one (DESIGN CHOICE, log 21). -/
def Obligations.FencedChannelsIgnoreHostWrites : Prop :=
  ∀ (s : State) (c : Fin 16), s.front.q2 = [] → (s.ch c).fence ≠ 0 ∨ (s.ch c).powered = false →
    (∀ (page w n a : Nat) (v : Word) (h : BitVec 16) (q : Fin 7) (b : Fin 8) (p : Bool) (m : BitVec 7), ∀ i ∈ ([
        .swapRequest .host (chRg c) page w, .groupSwapRequest .host c w, .swapCancel .host (chRg c) page,
        .blockSoftReset .host (chRg c) page, .blockQuiesce .host (chRg c) page, .blockDisable .host (chRg c) page,
        .blockResume .host (chRg c) page, .dramRetrain .host c, .scrubGo .host c, .scrubStop .host c, .checkpointNow .host c,
        .mapProbe .host c n, .ltcRangeInvalidation .host c, .ltcAddressInvalidation .host c, .writeStop .host c,
        .hostLaserTransaction .host c p n a, .readLevelWrite .host c b n, .ldiKill .host c p, .testAreaRun .host c,
        .slotCommandOff .host c q, .slotCommandOpen .host c q, .slotCommandAcquire .host c q, .slotCommandClosed .host c q,
        .slotCommandHold .host c q, .coefficientWrite .host c q n v, .trimWrite .host c q v, .tgtWrite .host c q v,
        .eqDataWrite .host c v, .cleEnable .host c p, .layerJump .host c n, .strandJump .host c m, .calibrationSweep .host c,
        .spindleStart .host c, .spindleStop .host c, .spindleCoast .host c, .spindleClearFault .host c, .commutationTableWrite .host c h,
        .sledMove .host c n a, .sledStop .host c, .sledHome .host c, .sledEnergise .host c, .sledRelease .host c, .sledClearFault .host c,
        .calForce .host c, .setValidWrite .host c n, .pdeltaWrite .host c h, .snapshot .host (chRg c), .mmClear .host (chRg c) n,
        .histogramClear .host (chRg c) n, .histogramConfigWrite .host (chRg c) n v, .counterClear .host c n, .satClear .host c n,
        .xtsSelftest .host c] : List Instr), exec i s = .next s) ∧
    (∀ page bits, page ≠ 0 → exec (.irqStatusClear .host (chRg c) page bits) s = .next s ∧ exec (.irqTest .host (chRg c) page bits) s = .next s) ∧
    (∀ bits, exec (.irqStatusClear .host (chRg c) 0 bits) s = .next (irqStatusClear (chRg c) 0 bits.toNat (s.unmark (chRg c) 0 0x018 false)) ∧
      exec (.irqTest .host (chRg c) 0 bits) s = .next (irqTest (chRg c) 0 bits.toNat (s.unmark (chRg c) 0 0x01C false))) ∧
    ∀ addr size, addr / 0x100000 = chRg c → shadowPage (addr / 0x1000 % 0x100) = false →
      s.busRead .host addr size = s.answer (.readData (zeros size)) ∧ ∀ v, s.busWrite .host addr size v = s

/-- R4: registers are 32 bits wide and little-endian; only aligned 32-bit accesses reach them. Another access has no effect, and reads zeros. -/
def Obligations.OtherSizesDoNotReachRegisters : Prop :=
  ∀ (s : State) (addr size : Nat) (v : BitVec 64), s.linkUp = true → s.claimed 2 addr = true →
    s.reach .host (addr / 0x100000) (addr / 0x1000 % 0x100) = .open_ →
    (size = 4 → addr % 4 = 0 → ∃ t, exec (.registerRead .host 2 addr size) s = .next t ∧
      t.out = s.out ++ [.readData (leBytes 4 (s.regRead (addr / 0x100000) (addr / 0x1000 % 0x100) (addr % 0x1000)).1)]) ∧
    (size ≠ 4 ∨ addr % 4 ≠ 0 →
      exec (.registerRead .host 2 addr size) s = .next { s with out := s.out ++ [.readData (List.replicate size 0)] } ∧
      exec (.registerWrite .host 2 addr size v) s = .next s ∧ exec (.registerWrite .firmware 2 addr size v) s = .next s ∧
      exec (.registerRead .firmware 2 addr size) s = .next s)

/-- Where a register access goes. -/
def Obligations.RegisterAccessesReachTheirRegister : Prop :=
  ∀ (s : State) (addr : Nat) (v : BitVec 64), addr % 4 = 0 →
    let rg := addr / 0x100000
    let page := addr / 0x1000 % 0x100
    let off := addr % 0x1000
    (s.linkUp = false → (∀ bar size, exec (.registerRead .host bar addr size) s = .next s ∧ exec (.registerWrite .host bar addr size v) s = .next s)) ∧
    (s.linkUp = true → (∀ bar size, s.claimed bar addr = false →
      exec (.registerRead .host bar addr size) s = .next (s.answer .unsupported) ∧
      exec (.registerWrite .host bar addr size v) s = .next (s.cfgSet 0x104 0x100000))) ∧
    (s.linkUp = true → s.claimed 2 addr = true → s.reach .host rg page = .open_ →
      exec (.registerWrite .host 2 addr 4 v) s = .next (s.regWrite rg page off (v.toNat % 2 ^ 32)) ∧
      (pageFields rg page = none → exec (.registerWrite .host 2 addr 4 v) s = .next s ∧
        exec (.registerRead .host 2 addr 4) s = .next (s.answer (.readData [0, 0, 0, 0])))) ∧
    (s.plat.porst = false → s.plat.tripped = false →
      exec (.registerWrite .firmware 2 addr 4 v) s = .next (s.regWrite rg page off (v.toNat % 2 ^ 32))) ∧
    (∀ c : Fin 16, s.linkUp = true → s.claimed 2 addr = true → rg = chRg c → (s.ch c).fence = 0 → (s.ch c).powered = true →
      (s.ch c).st = .bivouac → shadowPage page = false →
      exec (.registerRead .host 2 addr 4) s = .next ((s.modFront fun f => { f with q2 := f.q2 ++ [.read addr 4] }).startWake c 1) ∧
      exec (.registerWrite .host 2 addr 4 v) s = .next
        ((s.modFront fun f => { f with q2 := f.q2 ++ [.write addr (BitVec.ofNat 32 v.toNat)] }).startWake c 1)) ∧
    (s.linkUp = true → s.claimed 2 addr = true → s.front.q2 ≠ [] → s.meets rg page ≠ .stall →
      exec (.registerRead .host 2 addr 4) s = .next (s.modFront fun f => { f with q2 := f.q2 ++ [.read addr 4] }) ∧
      exec (.registerWrite .host 2 addr 4 v) s = .next (s.modFront fun f => { f with q2 := f.q2 ++ [.write addr (BitVec.ofNat 32 v.toNat)] })) ∧
    (∀ size, s.linkUp = true → s.claimed 0 addr = true → exec (.registerWrite .host 0 addr size v) s = .next (bar0Write addr size v.toNat s) ∧
      exec (.registerRead .host 0 addr size) s = .next (bar0Read addr size s))

/-- SWAP_REQUEST with WHEN 0 where it is reached: both copies of every body field change places, and the header reports it. -/
def Obligations.SwapsExchangeBothCopies : Prop :=
  ∀ (s : State) (src : Src) (rg page w : Nat), rg ≤ 16 → page < 0x100 → s.reach src rg page = .open_ → (pageFields rg page).isSome →
    (rg = 0 → page ≠ 0x0C) → slotPage page = false →
    (s.rd rg (F.HDR_SET_STS_PENDING page) = 0 → s.inGroup rg page = false → ∃ t, exec (.swapRequest src rg page 0) s = .next t ∧
      (∀ f ∈ swapFields rg page, t.rd rg f = s.rdFly rg f % 2 ^ f.width ∧ t.rdFly rg f = s.rd rg f % 2 ^ f.width) ∧
      t.rd rg (F.HDR_SET_STS_PENDING page) = 0 ∧ t.rd rg (F.HDR_SET_STS_DONE page) = 1 ∧ t.rd rg (F.HDR_SET_STS_REFUSED page) = 0 ∧
      t.rd rg (F.HDR_SET_STS_SYNCING page) = 1 ∧ t.rd rg (F.HDR_SET_STS_BANK page) = (1 - s.rd rg (F.HDR_SET_STS_BANK page)) % 2 ∧
      t.rd rg (F.HDR_SET_SEQ_DONE_N page) = (s.rd rg (F.HDR_SET_SEQ_DONE_N page) + 1) % 2 ^ (F.HDR_SET_SEQ_DONE_N page).width ∧
      (∀ rg' f, f.Placed → (rg' ≠ rg ∨ f.page ≠ page) → t.rd rg' f = s.rd rg' f ∧ t.rdFly rg' f = s.rdFly rg' f) ∧
      t = { s with regs := t.regs, parity := t.parity }) ∧
    (s.rd rg (F.HDR_SET_STS_PENDING page) = 1 → w = 0 → exec (.swapRequest src rg page w) s = .next
      ((s.unmark rg page 0x034 false).swapRefused rg page 4)) ∧
    ((5 ≤ w ∧ w < 8) ∨ (rg = 0 ∧ 1 ≤ w ∧ w < 5) → exec (.swapRequest src rg page w) s = .next
      ((s.unmark rg page 0x034 false).swapRefused rg page 1)) ∧
    (∀ cause, cause < 8 → ∀ t, t = s.swapRefused rg page cause → t.rd rg (F.HDR_SET_STS_REFUSED page) = 1 ∧
      t.rd rg (F.HDR_SET_STS_DONE page) = 0 ∧ t.rd rg (F.HDR_SET_STS_CAUSE page) = cause ∧
      t.rd rg (F.HDR_SET_STS_PENDING page) = s.rd rg (F.HDR_SET_STS_PENDING page) ∧
      t.rd rg (F.HDR_SET_STS_WHEN page) = s.rd rg (F.HDR_SET_STS_WHEN page) ∧
      ∀ f ∈ swapFields rg page, t.rd rg f = s.rd rg f ∧ t.rdFly rg f = s.rdFly rg f)

/-- GROUP_SWAP_REQUEST, SWAP_CANCEL, FLYSHEET_SWAP and FLYSHEET_RELOAD_DONE. That a request refused at once is reported by CHN alone is the model's
reading (DEDUCED, log 14). -/
def Obligations.GroupSwapsCancelsAndBoundaries : Prop :=
  ∀ (s : State) (src : Src) (c : Fin 16) (rg page w : Nat),
    (s.reach src (chRg c) 0 = .open_ → w < 8 →
      let u := s.unmark (chRg c) 0 0x034 false
      (5 ≤ w → exec (.groupSwapRequest src c w) s = .next (u.swapRefused (chRg c) 0 1)) ∧
      (w = 0 → s.rd (chRg c) (F.HDR_SET_STS_PENDING 0) = 0 → (s.ch c).calSwap = false →
        (∀ p ∈ s.groupMask (chRg c), p ≠ 0 ∧ (channelFields p).isSome ∧ slotPage p = false) →
        ((∃ p ∈ s.groupMask (chRg c), s.rd (chRg c) (F.HDR_SET_STS_PENDING p) = 1) →
          exec (.groupSwapRequest src c w) s = .next (u.swapRefused (chRg c) 0 3)) ∧
        ((∀ p ∈ s.groupMask (chRg c), s.rd (chRg c) (F.HDR_SET_STS_PENDING p) = 0) → ∃ t v, exec (.groupSwapRequest src c w) s = .next t ∧
          t = (v.wrs (chRg c) [(F.HDR_SET_STS_PENDING 0, 0), (F.HDR_SET_STS_DONE 0, 1), (F.HDR_SET_STS_REFUSED 0, 0)]).incWrap (chRg c)
            (F.HDR_SET_SEQ_DONE_N 0) ∧
          v = (s.groupMask (chRg c)).foldl (fun (s : State) (p : Nat) => s.swapDone (chRg c) p)
            { u.wrs (chRg c) [(F.HDR_SET_STS_PENDING 0, 1), (F.HDR_SET_STS_WHEN 0, 0), (F.HDR_SET_STS_DONE 0, 0),
              (F.HDR_SET_STS_REFUSED 0, 0)] with groups := SMap.erase (SMap.put s.groups (chRg c) [] (s.groupMask (chRg c))) (chRg c) })) ∧
      (w < 5 → s.rd (chRg c) (F.HDR_SET_STS_PENDING 0) = 0 → (s.ch c).calSwap = false →
        (∀ p ∈ s.groupMask (chRg c), p ≠ 0 ∧ (channelFields p).isSome ∧ s.rd (chRg c) (F.HDR_SET_STS_PENDING p) = 0) →
        (∃ p ∈ s.groupMask (chRg c), slotPage p = true) → ∃ t, exec (.groupSwapRequest src c w) s = .next t ∧
          t.cr c (F.HDR_SET_STS_PENDING 0) = 1 ∧ t.cr c (F.HDR_SET_STS_WHEN 0) = w ∧ SMap.get t.groups (chRg c) [] = s.groupMask (chRg c) ∧
          ∀ p f, p ∈ s.groupMask (chRg c) → f ∈ swapFields (chRg c) p → t.cr c f = s.cr c f ∧ t.rdFly (chRg c) f = s.rdFly (chRg c) f)) ∧
    (s.reach src rg page = .open_ → 1 ≤ rg → rg ≤ 16 → slotPage page = true → w < 5 → s.rd rg (F.HDR_SET_STS_PENDING page) = 0 →
      s.inGroup rg page = false → ∃ t, exec (.swapRequest src rg page w) s = .next t ∧ t.rd rg (F.HDR_SET_STS_PENDING page) = 1 ∧
        t.rd rg (F.HDR_SET_STS_WHEN page) = w ∧ ∀ f ∈ swapFields rg page, t.rd rg f = s.rd rg f ∧ t.rdFly rg f = s.rdFly rg f) ∧
    (s.reach src rg page = .open_ → s.calPending rg page = none →
      (s.rd rg (F.HDR_SET_STS_PENDING page) = 0 → exec (.swapCancel src rg page) s = .next (s.unmark rg page 0x034 false)) ∧
      (s.rd rg (F.HDR_SET_STS_PENDING page) = 1 → page ≠ 0 → exec (.swapCancel src rg page) s = .next
        (((s.unmark rg page 0x034 false).wr rg (F.HDR_SET_STS_PENDING page) 0).swapRefused rg page 5))) ∧
    (s.calPending rg page = none → page ≠ 0 →
      (s.rd rg (F.HDR_SET_STS_PENDING page) = 0 → exec (.flysheetSwap rg page) s = .next s) ∧
      (s.rd rg (F.HDR_SET_STS_PENDING page) = 1 → rg ≠ 0 → slotPage page = true →
        exec (.flysheetSwap rg page) s = .next (s.setReached rg page true)) ∧
      (s.rd rg (F.HDR_SET_STS_PENDING page) = 1 → rg = 0 ∨ slotPage page = false →
        exec (.flysheetSwap rg page) s = .next ((s.fetchFirst rg page).swapDone rg page) ∧ (page ≠ 0x31 → s.fetchFirst rg page = s)) ∧
      (s.slotRefuses rg page = false → s.evalSwap rg page = s.swapDone rg page) ∧
      (s.slotRefuses rg page = true → s.evalSwap rg page =
        ((s.wr rg (F.HDR_SET_STS_PENDING page) 0).swapRefused rg page 2).irq rg page 7)) ∧
    (s.rd rg (F.HDR_SET_STS_SYNCING page) = 0 → exec (.flysheetReloadDone rg page) s = .next s) ∧
    (page < 0x100 → (rg = 0 → page ≠ 0x0C) → s.rd rg (F.HDR_SET_STS_SYNCING page) = 1 →
      (∀ h ∈ s.flyHeld, ¬ (h.1 = rg ∧ h.2.1 = page)) → ∃ t, exec (.flysheetReloadDone rg page) s = .next t ∧
      t.rd rg (F.HDR_SET_STS_SYNCING page) = 0 ∧ (∀ f ∈ swapFields rg page, t.rdFly rg f = s.rd rg f % 2 ^ f.width) ∧
      (∀ rg' f, f.Placed → f.same (F.HDR_SET_STS_SYNCING page) = false → t.rd rg' f = s.rd rg' f) ∧ t = { s with regs := t.regs })

/-- BLOCK_QUIESCE, BLOCK_DISABLE, BLOCK_RESUME and BLOCK_SOFT_RESET where the register is reached. Which fields a soft reset keeps is the model's
reading (DEDUCED, log 23). -/
def Obligations.QuiesceEnableAndSoftReset : Prop :=
  ∀ (s : State) (src : Src) (rg page : Nat), page < 0x100 → s.reach src rg page = .open_ → (pageFields rg page).isSome →
    (∃ t, exec (.blockQuiesce src rg page) s = .next t ∧ t.rd rg (F.HDR_BLK_CTL_QUIESCE page) = 1 ∧ t.running rg page = false ∧
      FieldsKept s t (FieldsOf rg [F.HDR_BLK_CTL_QUIESCE page]) ∧ t = { s with regs := t.regs, parity := t.parity }) ∧
    (∃ t, exec (.blockDisable src rg page) s = .next t ∧ t.rd rg (F.HDR_BLK_CTL_EN page) = 0 ∧ t.running rg page = false ∧
      FieldsKept s t (FieldsOf rg [F.HDR_BLK_CTL_EN page]) ∧ t = { s with regs := t.regs, parity := t.parity }) ∧
    (∃ u, exec (.blockResume src rg page) s = .next (u.resumeWork rg) ∧ u.running rg page = true ∧
      FieldsKept s u (FieldsOf rg [F.HDR_BLK_CTL_EN page, F.HDR_BLK_CTL_QUIESCE page]) ∧ u = { s with regs := u.regs, parity := u.parity }) ∧
    (s.quiesced rg page = false → ∃ t, exec (.blockSoftReset src rg page) s = .next t ∧
      t.rd rg (F.HDR_ERR_COUNT page) = min (s.rd rg (F.HDR_ERR_COUNT page) + 1) 65535 ∧
      (s.rd rg (F.HDR_ERR_FIRST_VALID page) ≠ 1 → t.rd rg (F.HDR_ERR_FIRST_CODE page) = 3 ∧ t.rd rg (F.HDR_ERR_FIRST_OFS page) = 0x008) ∧
      FieldsKept s t (FieldsOf rg [F.HDR_ERR_COUNT page, F.HDR_ERR_FIRST_OFS page, F.HDR_ERR_FIRST_FLYSHEET page, F.HDR_ERR_FIRST_CODE page,
        F.HDR_ERR_FIRST_VALID page, F.HDR_ERR_INFO page]) ∧
      t = { s with regs := t.regs, parity := t.parity, free := t.free }) ∧
    (s.quiesced rg page = true → rg ≤ 16 → ∃ t, exec (.blockSoftReset src rg page) s = .next t ∧
      t = blockSoftReset rg page (s.unmark rg page 0x008 false) ∧
      (rg = 0 ∨ (page ∉ [0x00, 0x08, 0x10, 0x11, 0x32, 0x50] ∧ slotPage page = false) → t.rd rg (F.HDR_IRQ_RAW page) = 0 ∧
        ∀ f ∈ (pageFields rg page).getD [], 0x100 ≤ f.off → f.off < 0x800 →
          (softKeeps rg page f.off = false → t.rd rg f = f.reset) ∧ t.rdFly rg f = f.reset))

/-- IRQ_STATUS_CLEAR and IRQ_TEST where the register is reached. -/
def Obligations.InterruptClearAndTest : Prop :=
  ∀ (s : State) (src : Src) (rg page : Nat) (bits : Word), page < 0x100 → s.reach src rg page = .open_ → (pageFields rg page).isSome →
    s.rd rg (F.HDR_IRQ_RAW page) < 2 ^ 32 →
    let raw := s.rd rg (F.HDR_IRQ_RAW page)
    (∃ t, exec (.irqStatusClear src rg page bits) s = .next t ∧ t.rd rg (F.HDR_IRQ_RAW page) = raw - (raw &&& bits.toNat) ∧
      FieldsKept s t (FieldsOf rg [F.HDR_IRQ_RAW page]) ∧
      (let u := (s.unmark rg page 0x018 false).wr rg (F.HDR_IRQ_RAW page) (raw - (raw &&& bits.toNat))
       t.out = (if u.regionPending rg then u.msix (regionVector rg) else u).out) ∧
      t.plat.alertPfw = (if rg = 0 ∧ page = 0x01 ∧ bitAt bits.toNat 0 = true then false else s.plat.alertPfw)) ∧
    (∃ t, exec (.irqTest src rg page bits) s = .next t ∧ t.rd rg (F.HDR_IRQ_RAW page) = raw ||| bits.toNat ∧
      FieldsKept s t (FieldsOf rg [F.HDR_IRQ_RAW page]) ∧
      (let u := (s.unmark rg page 0x01C false).wr rg (F.HDR_IRQ_RAW page) (raw ||| bits.toNat)
       t.out = (if u.regionPending rg ∧ s.regionPending rg = false then u.msix (regionVector rg) else u).out))

/-- A command's row changes nothing when its slot holds no waiting command of its opcode and queue type. -/
def Obligations.CommandsActOnlyFromTheirSlot : Prop :=
  ∀ (s : State) (k : Nat) (d : List Byte) (scan : DiscScan),
    (∀ op, (s.cmd? k true op).isSome → s.slot? k ≠ none) ∧
    (∀ admin op x, s.slot? k = some x → (x.isAdmin ≠ admin ∨ x.opcode ≠ op ∨ (x.phase ≠ .fetched ∧ x.phase ≠ .routed) ∨ x.answer = some true) →
      s.cmd? k admin op = none) ∧
    (∀ e ∈ ([(.createIoSq k, true, 0x01), (.deleteIoSq k, true, 0x00), (.createIoCq k, true, 0x05), (.deleteIoCq k, true, 0x04),
        (.getLogPage k, true, 0x02), (.identify k, true, 0x06), (.abort k, true, 0x08), (.setFeatures k d, true, 0x09),
        (.getFeatures k, true, 0x0A), (.asyncEventRequest k, true, 0x0C), (.firmwareDownload k d, true, 0x11),
        (.firmwareCommitReplace k, true, 0x10), (.firmwareCommitReplaceActivate k, true, 0x10), (.firmwareCommitAtReset k, true, 0x10),
        (.firmwareCommitNow k, true, 0x10), (.mount k scan, true, 0xC0), (.unmount k, true, 0xC1), (.sealDisc k, true, 0xC2),
        (.serviceIsolate k, true, 0xC4), (.servicePowerDown k, true, 0xC4), (.serviceRestore k, true, 0xC4), (.serviceReload k, true, 0xC4),
        (.calLoadSet k d, true, 0xC5), (.calClearSet k, true, 0xC5), (.calPowerRun k, true, 0xC5), (.calServoSweep k, true, 0xC5),
        (.calReadBack k, true, 0xC5), (.keyLoad k d, true, 0xC6), (.keyDiscard k, true, 0xC6), (.keyRewrap k, true, 0xC6),
        (.keyList k, true, 0xC6), (.flush k, false, 0x00), (.write k, false, 0x01), (.read k, false, 0x02), (.verify k, false, 0x0C),
        (.transformCompress k d, false, 0x81), (.transformDecompress k d, false, 0x81), (.transformResume k d, false, 0x81),
        (.pinRangePin k, false, 0x82), (.pinRangeUnpin k, false, 0x82), (.mediaProbe k, false, 0x84)] : List (Instr × Bool × Nat)),
      s.cmd? k e.2.1 e.2.2 = none → exec e.1 s = .next s)

/-- The end of a command: its record, and nothing for a command already ended. -/
def Obligations.CompletionRecordsAreMadeOnce : Prop :=
  ∀ (s : State) (k : Nat) (st : Status) (d0 d1 : Nat),
    (s.slot? k = none → s.finish k st d0 d1 = s) ∧
    ∀ x, s.slot? k = some x →
      (x.live = false → s.finish k st d0 d1 = s) ∧
      (x.live = true → x.silent = true → s.finish k st d0 d1 = s.freeSlot k) ∧
      (x.live = true → x.silent = false → ∀ t, t = s.finish k st d0 d1 →
        t.slot? k = some { x with phase := .completed st (BitVec.ofNat 32 d0) (BitVec.ofNat 32 d1) } ∧
        (∀ j, j ≠ k → t.slot? j = s.slot? j) ∧
        (st = stSuccess → t.front.errLog = s.front.errLog ∧ t.front.errCount = s.front.errCount) ∧
        (st ≠ stSuccess → t.front.errCount = s.front.errCount + 1 ∧
          t.front.errLog = (⟨s.front.errCount + 1, x.sqid, x.cid, st.field, x.dw 10 + 2 ^ 32 * x.dw 11, x.nsid⟩ :: s.front.errLog).take 64) ∧
        (x.chan = none → t.regs = s.regs ∧ t.out = s.out) ∧ t.chans = s.chans ∧ t.dram = s.dram ∧ t.sec = s.sec ∧ t.plat = s.plat)

/-- CREATE and DELETE of I/O queues. -/
def Obligations.QueuesAreCreatedAndDeleted : Prop :=
  ∀ (s : State) (k : Nat) (x : CmdSlot),
    let qid := bitsAt (x.dw 10) 0 16
    let size := bitsAt (x.dw 10) 16 16
    let base := x.dw 6 / 4 * 4 + 2 ^ 32 * x.dw 7
    (s.cmd? k true 0x05 = some x →
      (1 ≤ qid → qid ≤ 64 → SMap.find? s.front.cqs qid = none → 1 ≤ size → size ≤ 4095 → bitAt (x.dw 11) 0 = true →
        bitsAt (x.dw 11) 16 16 ≤ 63 → exec (.createIoCq k) s = .next ((s.modFront fun f => { f with
          cqs := SMap.insert f.cqs qid ⟨base, size + 1, 0, 0, true, bitsAt (x.dw 11) 16 16, bitAt (x.dw 11) 1⟩ }).finish k stSuccess)) ∧
      (qid = 0 ∨ 64 < qid ∨ (SMap.find? s.front.cqs qid).isSome → exec (.createIoCq k) s = .next (s.finish k stInvalidQid)) ∧
      (1 ≤ qid → qid ≤ 64 → SMap.find? s.front.cqs qid = none → (size = 0 ∨ 4095 < size) →
        exec (.createIoCq k) s = .next (s.finish k stInvalidQSize))) ∧
    (s.cmd? k true 0x01 = some x →
      (1 ≤ qid → qid ≤ 64 → SMap.find? s.front.sqs qid = none → 1 ≤ size → size ≤ 4095 → bitAt (x.dw 11) 0 = true →
        bitsAt (x.dw 11) 16 16 ≠ 0 → (SMap.find? s.front.cqs (bitsAt (x.dw 11) 16 16)).isSome →
        exec (.createIoSq k) s = .next ((s.modFront fun f => { f with
          sqs := SMap.insert f.sqs qid ⟨base, size + 1, bitsAt (x.dw 11) 16 16, 0, 0⟩ }).finish k stSuccess)) ∧
      (qid = 0 ∨ 64 < qid ∨ (SMap.find? s.front.sqs qid).isSome → exec (.createIoSq k) s = .next (s.finish k stInvalidQid)) ∧
      (1 ≤ qid → qid ≤ 64 → SMap.find? s.front.sqs qid = none → 1 ≤ size → size ≤ 4095 → bitAt (x.dw 11) 0 = true →
        (bitsAt (x.dw 11) 16 16 = 0 ∨ SMap.find? s.front.cqs (bitsAt (x.dw 11) 16 16) = none) →
        exec (.createIoSq k) s = .next (s.finish k stCqInvalid))) ∧
    (s.cmd? k true 0x04 = some x → qid ≠ 0 → (SMap.find? s.front.cqs qid).isSome →
      ((∀ e ∈ s.front.sqs, e.2.cqid ≠ qid) → exec (.deleteIoCq k) s = .next
        ((s.modFront fun f => { f with cqs := SMap.erase f.cqs qid }).finish k stSuccess)) ∧
      ((∃ e ∈ s.front.sqs, e.2.cqid = qid) → exec (.deleteIoCq k) s = .next (s.finish k stInvalidQueueDeletion))) ∧
    (s.cmd? k true 0x00 = some x → (qid = 0 ∨ SMap.find? s.front.sqs qid = none → exec (.deleteIoSq k) s = .next (s.finish k stInvalidQid)) ∧
      (qid ≠ 0 → (SMap.find? s.front.sqs qid).isSome → (∀ e ∈ s.front.slots, e.2.sqid ≠ qid) →
        exec (.deleteIoSq k) s = .next ((s.executing k).settleDelete k)))

/-- Doorbells, COMMAND_FETCH, COMPLETION_RECORD and COALESCING_TIME_EXPIRY. What an Invalid Doorbell event is, is PRESUMED (log 8). -/
def Obligations.DoorbellsFetchAndPosting : Prop :=
  ∀ (s : State) (qid k v : Nat),
    (s.front.rdy = true → ∀ q tail, SMap.find? s.front.sqs qid = some q →
      (tail < q.size → exec (.sqDoorbell qid tail) s = .next
        (s.modFront fun f => { f with sqs := SMap.insert f.sqs qid { q with tail := tail } })) ∧
      (q.size ≤ tail → exec (.sqDoorbell qid tail) s = .next (s.badDoorbell 1))) ∧
    (s.front.rdy = true → ∀ q head, SMap.find? s.front.cqs qid = some q →
      (head < q.size → exec (.cqDoorbell qid head) s = .next
        (s.modFront fun f => { f with cqs := SMap.insert f.cqs qid { q with head := head } })) ∧
      (q.size ≤ head → exec (.cqDoorbell qid head) s = .next (s.badDoorbell 1))) ∧
    (∀ entry lists, s.front.rdy = false ∨ s.front.shst ≠ 0 ∨ s.front.pp = true ∨ s.bme = false ∨ (s.slot? k).isSome ∨ 65536 ≤ k →
      exec (.commandFetch qid k entry lists) s = .next s) ∧
    (∀ q entry lists, SMap.find? s.front.sqs qid = some q → s.front.rdy = true → s.front.shutting = false → s.front.shst = 0 → s.front.pp = false → s.bme = true →
      s.front.inReset = false → s.front.flr = false → s.plat.feUp = true → k < 65536 → s.slot? k = none → k ∉ s.front.retired →
      q.waiting ≠ 0 → s.deleting qid = false → s.arbGrants qid = true → s.running 0 0x08 = true → s.running 0 0x09 = true →
      ∃ t c, exec (.commandFetch qid k entry lists) s = .next t ∧
        SMap.find? t.front.sqs qid = some { q with head := (q.head + 1) % q.size } ∧ (∀ j, j ≠ k → t.slot? j = s.slot? j) ∧
        t.slot? k = some c ∧ c.sqid = qid ∧ c.entry = (entry ++ List.replicate 16 0).take 16 ∧ c.fetched = s.plat.time ∧
        c.phase = (match s.route c with
          | .fail st => .completed st 0 0
          | .channel _ => if (s.dataPieces c lists).isSome then .routed else .completed stSglType 0 0
          | .front => if (s.dataPieces c lists).isSome then .fetched else .completed stSglType 0 0) ∧
        t.dram = s.dram) ∧
    (∀ c sq q st d0 d1, s.slot? k = some c → c.phase = .completed st d0 d1 → SMap.find? s.front.sqs c.sqid = some sq →
      SMap.find? s.front.cqs sq.cqid = some q →
      ((q.tail + 1) % q.size = q.head → exec (.completionRecord k) s = .next s) ∧
      ((q.tail + 1) % q.size ≠ q.head → q.ien = true → c.isAdmin = true → c.cancel = none → c.chan = none →
        exec (.completionRecord k) s = .next
          ((State.modFront (s.post (.cqe (q.base + 16 * q.tail) [d0, d1, BitVec.ofNat 32 (sq.head + 2 ^ 16 * c.sqid),
              BitVec.ofNat 32 (c.cid + 2 ^ 16 * (b2n q.phase + 2 * st.field))])) fun f =>
            let q1 : CplQueue := { q with tail := (q.tail + 1) % q.size, phase := if q.tail + 1 = q.size then !q.phase else q.phase }
            { f with cqs := SMap.insert f.cqs sq.cqid q1 }).msix q.iv |>.freeSlot k |>.settleDeletes c.sqid))) ∧
    (SMap.get s.front.coalesced v 0 = 0 → exec (.coalescingTimeExpiry v) s = .next s) ∧
    (SMap.get s.front.coalesced v 0 ≠ 0 → exec (.coalescingTimeExpiry v) s = .next
      ((s.modFront fun f => { f with coalesced := SMap.erase f.coalesced v }).msix v))

/-- SET_FEATURES and GET_FEATURES. That SV = 1 fails is the model's reading (log 24). -/
def Obligations.FeaturesAreSetAndRead : Prop :=
  ∀ (s : State) (k : Nat) (x : CmdSlot) (d : List Byte), s.cmd? k true 0x09 = some x →
    (∀ u key v, s.setFeat key v = u → u.feat key = v ∧ (∀ j, j ≠ key → u.feat j = s.feat j) ∧
      u = { s with front := { s.front with feats := u.front.feats } }) ∧
    (bitAt (x.dw 10) 31 = true → exec (.setFeatures k d) s = .next (s.finish k stInvalidField).shed) ∧
    (bitAt (x.dw 10) 31 = false → ∀ e ∈ ([(0x01, 8), (0x06, 2), (0x08, 65536), (0x0B, 1024), (0xC2, 64)] : List (Nat × Nat)),
      bitsAt (x.dw 10) 0 8 = e.1 → exec (.setFeatures k d) s = .next ((s.setFeat e.1 (x.dw 11 % e.2)).finish k stSuccess).shed) ∧
    (bitAt (x.dw 10) 31 = false → bitsAt (x.dw 10) 0 8 = 0x02 → exec (.setFeatures k d) s = .next
      (if x.dw 11 % 32 ≤ 2 then (s.setFeat 0x02 (x.dw 11 % 32)).finish k stSuccess else s.finish k stInvalidField).shed) ∧
    (bitAt (x.dw 10) 31 = false → bitsAt (x.dw 10) 0 8 = 0xC0 → ∀ c : Fin 16, x.nsid = c.val + 1 → (s.ch c).fence = 0 →
      exec (.setFeatures k d) s = .next
        (if 1 ≤ x.dw 11 % 1024 ∧ x.dw 11 % 1024 ≤ 600 then (s.wrs (chRg c) [(F.SCH_CMD_LIMIT, x.dw 11 % 1024)]).finish k stSuccess
        else s.finish k stInvalidField).shed) ∧
    ∀ j y, s.cmd? j true 0x0A = some y →
      (3 < bitsAt (y.dw 10) 8 3 → exec (.getFeatures j) s = .next (s.finish j stInvalidField)) ∧
      (∀ fid ∈ [0x01, 0x02, 0x06, 0x07, 0x08, 0x0B, 0xC2], bitsAt (y.dw 10) 0 8 = fid →
        (bitsAt (y.dw 10) 8 3 = 0 ∨ bitsAt (y.dw 10) 8 3 = 2 → exec (.getFeatures j) s = .next (s.finish j stSuccess (s.feat fid))) ∧
        (bitsAt (y.dw 10) 8 3 = 1 → exec (.getFeatures j) s = .next (s.finish j stSuccess (featDefault fid))) ∧
        (bitsAt (y.dw 10) 8 3 = 3 → exec (.getFeatures j) s = .next (s.finish j stSuccess 4)))

/-- IDENTIFY, GET_LOG_PAGE, ASYNCHRONOUS_EVENT_REQUEST and ABORT. -/
def Obligations.IdentifyLogsAndEvents : Prop :=
  ∀ (s : State) (k : Nat) (x : CmdSlot),
    (s.cmd? k true 0x06 = some x →
      (bitsAt (x.dw 10) 0 8 ∉ [0x00, 0x01, 0x02, 0x03, 0x05, 0x06, 0x08, 0x1C] → exec (.identify k) s = .next (s.finish k stInvalidField)) ∧
      (bitsAt (x.dw 10) 0 8 = 0x01 → exec (.identify k) s = .next (s.finishData k x s.identifyController)) ∧
      (bitsAt (x.dw 10) 0 8 = 0x02 → x.nsid < 0xFFFFFFFE → exec (.identify k) s = .next (s.finishData k x (padTo 4096 0
        ((allChans.filter fun c => (s.ch c).active && c.val + 1 > x.nsid).flatMap fun c => leBytes 4 (c.val + 1)))))) ∧
    (∀ data, s.pointersOk x true = true → s.finishData k x data = (s.sendData x 0 data).finish k stSuccess) ∧
    (s.cmd? k true 0x02 = some x →
      (bitsAt (x.dw 10) 0 8 ∉ [0x01, 0x02, 0x03, 0x04, 0x05, 0xC0, 0xC1, 0xC2, 0xC3, 0xC4, 0xC5] →
        exec (.getLogPage k) s = .next (s.finish k stInvalidLogPage)) ∧
      (∀ data, bitsAt (x.dw 10) 0 8 ≠ 0x02 → (∀ f, s.logData x f = .inr data) →
        let ofs := x.dw 12 + 2 ^ 32 * x.dw 13
        let n := xferLen true 0x02 x
        (ofs % 4 ≠ 0 ∨ data.length < ofs → exec (.getLogPage k) s = .next (s.finish k stInvalidField)) ∧
        (ofs % 4 = 0 → ofs + n ≤ data.length → s.pointersOk x true = true → exec (.getLogPage k) s = .next
          (((s.sendData x 0 ((data.drop ofs).take n)).finish k stSuccess).logRead x ofs n)))) ∧
    (s.cmd? k true 0x0C = some x →
      (8 ≤ s.front.aers.length → exec (.asyncEventRequest k) s = .next (s.finish k stAerLimit)) ∧
      (s.front.aers.length < 8 → s.front.events = [] → ∃ t, exec (.asyncEventRequest k) s = .next t ∧ t.front.aers = s.front.aers ++ [k] ∧
        t.slot? k = some { x with phase := .executing } ∧ t.regs = s.regs ∧ t.out = s.out)) ∧
    (s.cmd? k true 0x08 = some x →
      (16 ≤ s.abortsOutstanding → exec (.abort k) s = .next (s.finish k stAbortLimit)) ∧
      (s.abortsOutstanding < 16 →
        ((∀ e ∈ s.front.slots, ¬ (e.2.sqid = bitsAt (x.dw 10) 0 16 ∧ e.2.cid = bitsAt (x.dw 10) 16 16 ∧ e.1 ≠ k)) →
          exec (.abort k) s = .next (s.finish k stSuccess 1)) ∧
        (∀ j y, s.front.slots.find? (fun e => e.2.sqid == bitsAt (x.dw 10) 0 16 && e.2.cid == bitsAt (x.dw 10) 16 16 && e.1 != k) = some (j, y) →
          y.isAdmin = false → y.live = true →
          (y.chan.isSome → y.cancel = none → exec (.abort k) s = .next ((s.executing k).requestCancel j (.abort k))) ∧
          (y.chan = none → exec (.abort k) s = .next (((s.dropWaits j).finish j stAbortRequested).finish k stSuccess 0)))))

/-- CANCEL_REQUEST, CANCEL_ANSWER and COMMAND_TIME_LIMIT. -/
def Obligations.CancelsAndTimeLimits : Prop :=
  ∀ (s : State) (k : Nat) (x : CmdSlot), s.slot? k = some x →
    (∀ c : Fin 16, x.chan.bind chan? = some c →
      (x.cancel = none ∨ x.answer.isSome ∨ (s.ch c).fence ≠ 0 → exec (.cancelRequest k) s = .next s) ∧
      (x.cancel.isSome → x.answer = none → (s.ch c).fence = 0 →
        let r := s.cancelAt c k x
        exec (.cancelRequest k) s = .next
          (let s1 := r.2.incSat (chRg c) (if r.1 then F.SCH_CANCELS_CANCELLED else F.SCH_CANCELS_COMPLETING)
          match s1.slot? k with
          | some y => s1.putSlot k { y with answer := some r.1 }
          | none => s1) ∧
        (x.live = false → r = (false, s)) ∧
        (x.isAdmin = false → x.opcode = 0x02 → x.live = true → r = (true, s.dropCmds c [k])) ∧
        (x.isAdmin = false → x.opcode = 0x01 → x.live = true → (∃ w ∈ (s.ch c).wr.waits, w.slot = k) → r = (false, s)) ∧
        (x.isAdmin = true → x.live = true → x.opcode ≠ 0xC0 → r = (false, s)))) ∧
    (x.cancel = none ∨ x.answer = none → exec (.cancelAnswer k) s = .next s) ∧
    (∀ why a, x.cancel = some why → x.answer = some a →
      let y : CmdSlot := { x with cancel := none, answer := none }
      exec (.cancelAnswer k) s = .next (let s2 := (s.putSlot k y).cancelSettled k y why a
        match s2.slot? k with
        | some z => if z.phase = .posted then s2.freeSlot k else s2
        | none => s2) ∧
      ∀ u : State, (∀ b, why = .abort b → u.cancelSettled k y why a =
        if a = true ∧ y.live = true then (u.finish k stAbortRequested).finish b stSuccess 0 else u.finish b stSuccess 1)) ∧
    (x.live = false → exec (.commandTimeLimit k) s = .next s) ∧
    (x.live = true → x.limitChan = none → ¬ (x.isAdmin = true ∧ x.opcode = 0x0C) →
      exec (.commandTimeLimit k) s = .next (((s.dropWaits k).finish k stTimeLimit).incSat 0 F.GMON_TIME_LIMIT)) ∧
    (∀ c : Fin 16, x.live = true → x.isAdmin = false → x.chan = some c.val → exec (.commandTimeLimit k) s = .next
      (((s.requestCancel k .timeLimit).cirq c 0x60 2).incSat 0 F.GMON_TIME_LIMIT))

/-- MEDIA_OPERATION_ADMIT, MEDIA_OPERATION_SELECT, OPERATION_AGED and READ_PREEMPT. -/
def Obligations.TheSchedulerAdmitsSelectsAndAges : Prop :=
  ∀ (s : State) (c : Fin 16),
    (∀ k x, s.slot? k = some x → x.chan = some c.val → exec (.mediaOperationAdmit k) s = .next (if s.servable c then s.issueOps c k else s)) ∧
    (∀ k x q p, s.slot? k = some x → x.chan = some c.val → s.servable c = true → s.readCmd? c k = some q → (∀ t ∈ q.targets, t ≠ .looking) →
      q.clusters = [p] → (s.ch c).rd.tails = [] → (∀ o ∈ (s.ch c).rd.ops, o.slot ≠ k) → s.opsTaken c < 4096 →
      exec (.mediaOperationAdmit k) s = .next (s.modRd c fun r => { r with
        ops := r.ops ++ [⟨r.nextOp, k, p, 1, s.plat.time, false⟩], nextOp := r.nextOp + 1 })) ∧
    (s.running (chRg c) 0x60 = false → ∀ least, exec (.mediaOperationSelect c least) s = .next s) ∧
    (∀ least o, s.running (chRg c) 0x60 = true → s.alive c = true → s.switching c = false → (s.ch c).fence = 0 → (s.ch c).waking = false →
      (s.ch c).st ≠ .mechStopped → (s.ch c).st ≠ .mounting → (s.ch c).disc.isSome → s.pickupFree c = true → s.choose c least = some o →
      (s.spinSt c = 0 → exec (.mediaOperationSelect c least) s = .next (spinStart c s)) ∧
      (s.spinSt c = 6 → s.onTrack c = true →
        (∀ r, o = some r → s.mayAddReader c = true → exec (.mediaOperationSelect c least) s = .next (s.startOp c r) ∧
          ((s.startOp c r).ch c).rd.running = some r.id ∧ ((s.startOp c r).ch c).rd.ops = (s.ch c).rd.ops ∧
          (∀ l < 8, (s.startOp c r).cr c (F.BRC_LANE_STS_SYNC l) = 0) ∧ ∀ p, r.first ≤ p → p < r.first + r.count → (s.ch c).rd.needs p = true →
            ∃ x ∈ ((s.startOp c r).ch c).rd.clusters, x.pcn = p) ∧
        (o = none → exec (.mediaOperationSelect c least) s = .next
          (sessionStart c ((s.modRd c fun r => { r with running := none }).fullSpeed c))))) ∧
    ((s.ch c).wr.blocks ≠ [] → (s.ch c).rd.writeAged = false →
      exec (.operationAged c 0) s = .next ((s.modRd c fun r => { r with writeAged := true }).cirq c 0x60 0)) ∧
    ((s.ch c).wr.blocks = [] → exec (.operationAged c 0) s = .next s) ∧
    (∀ op, op ≠ 0 → (∃ o ∈ (s.ch c).rd.ops, o.id = op ∧ o.aged = false) → (s.ch c).rd.running ≠ some op →
      exec (.operationAged c op) s = .next (((s.modRd c fun r => { r with
        ops := r.ops.map fun o => if o.id == op then { o with aged := true } else o }).cirq c 0x60 0).endAtBoundary c)) ∧
    (∀ op, (s.ch c).wr.session = .armed ∨ (s.ch c).wr.session = .writing → (∃ o ∈ (s.ch c).rd.ops, o.id = op ∧ (s.ch c).rd.isProbe o = false) →
      exec (.readPreempt c op) s = .next
        (if 100 * (s.ch c).wr.blocks.length ≤ s.cr c F.SCH_WB_WB_HIGH * (256 * s.cr c F.SCH_WB_WB_MAX)
        then (s.endAtBoundary c).incSat (chRg c) F.SCH_PREEMPTS else s))

/-- FIRMWARE_IMAGE_DOWNLOAD, the four commits and BOOT_VERIFY. -/
def Obligations.FirmwareIsStagedCommittedAndBooted : Prop :=
  ∀ (s : State) (k : Nat) (x : CmdSlot) (d : List Byte),
    (s.cmd? k true 0x11 = some x → s.sec.eraseDue = false → s.pointersOk x false = true →
      let ofs := 4 * x.dw 11
      let n := 4 * (x.dw 10 + 1)
      (ofs + n ≤ slotSize → (∀ p ∈ s.sec.staged, overlaps ofs n p.1 p.2 = false) → exec (.firmwareDownload k d) s = .next
        ((((s.flashPut (stagingBase + ofs) (padTo n 0 d)).modSec fun y => { y with staged := y.staged ++ [(ofs, n)] }).wrs 0
          [(F.BOOT_STAGE_BYTES, s.pr F.BOOT_STAGE_BYTES + n), (F.BOOT_STAGE_ERASED, 0)]).finish k stSuccess)) ∧
      (slotSize < ofs + n ∨ (∃ p ∈ s.sec.staged, overlaps ofs n p.1 p.2 = true) →
        exec (.firmwareDownload k d) s = .next (s.finish k stOverlapping))) ∧
    (∀ e ∈ ([(.firmwareCommitReplace k, 0), (.firmwareCommitReplaceActivate k, 1), (.firmwareCommitAtReset k, 2),
        (.firmwareCommitNow k, 3)] : List (Instr × Nat)), s.commit? k e.2 = some x →
      (s.commitBarred = true → exec e.1 s = .next (s.commitDone k stFwProhibited)) ∧
      (s.commitBarred = false → 4 < s.commitSlot x → exec e.1 s = .next (s.commitDone k stInvalidFwSlot)) ∧
      (s.commitBarred = false → e.2 ≤ 1 → s.commitSlot x = 1 → exec e.1 s = .next (s.commitDone k stInvalidFwSlot)) ∧
      (s.commitBarred = false → e.2 ≤ 1 → s.commitSlot x ≠ 1 → s.commitSlot x ≤ 4 → (s.replaceSlot (s.commitSlot x)).1 = false →
        exec e.1 s = .next ((s.replaceSlot (s.commitSlot x)).2.commitDone k stInvalidFwImage)) ∧
      (∀ t, s.commitBarred = false → s.commitSlot x ≠ 1 → s.commitSlot x ≤ 4 → s.replaceSlot (s.commitSlot x) = (true, t) →
        (e.2 = 0 → exec e.1 s = .next (t.commitDone k stSuccess)) ∧
        (e.2 = 1 → exec e.1 s = .next (((t.putTable { t.table.1 with next := s.commitSlot x }).modSec fun y =>
          { y with actDue := some (s.commitSlot x) }).commitDone k stSuccess))) ∧
      (∀ b t, s.commitBarred = false → s.commitSlot x ≤ 4 → s.verifySlot (s.commitSlot x) = (some b, t) →
        (e.2 = 2 → exec e.1 s = .next (((t.putTable { t.table.1 with next := s.commitSlot x }).modSec fun y =>
          { y with actDue := some (s.commitSlot x) }).commitDone k stSuccess)) ∧
        (e.2 = 3 → s.sec.activating = none → exec e.1 s = .next ((t.executing k).activate k (s.commitSlot x))))) ∧
    (∀ st, s.commitDone k st = (((s.modSec fun y => { y with eraseDue := true }).irq 0 0x11 2)).finish k st) ∧
    (s.plat.porst = true ∨ s.plat.tripped = true ∨ s.plat.feUp = true ∨ s.pr F.BOOT_STS_HALT = 1 → exec .bootVerify s = .next s) ∧
    (s.plat.porst = false → s.plat.tripped = false → s.plat.feUp = false → s.front.cfs = false → s.pr F.BOOT_STS_HALT ≠ 1 →
      let t := bootVerify s
      (t.plat.feUp = false → exec .bootVerify s = .next t ∧ t.pr F.BOOT_STS_HALT = 1 ∧ t.front.cfs = true) ∧
      (t.plat.feUp = true → ∃ u, exec .bootVerify s = .next (u.becomeReady) ∧
        u = allChans.foldl (fun (s : State) (c : Fin 16) => s.release c) { t with plat := { t.plat with imagesUp := true } }) ∧
      let tab := s.table.1
      let first := if tab.next ≠ 0 then tab.next else tab.active
      (∀ b, 1 ≤ first → first ≤ 4 → tab.next ≠ 0 ∨ tab.trial ≠ 3 → s.bundleAt (slotBase first) = some b → ∃ u, exec .bootVerify s = .next u ∧
        u.plat.feUp = true ∧ u.plat.imagesUp = true ∧ u.sec.running = some first ∧ u.pr F.BOOT_STS_SLOT = first ∧
        u.pr F.BOOT_SVN_RUN = b.svn % 64) ∧
      ((∀ i ∈ [first, tab.previous, 1], 1 ≤ i → i ≤ 4 → s.bundleAt (slotBase i) = none) → ∃ u, exec .bootVerify s = .next u ∧
        u.plat.feUp = false ∧ u.pr F.BOOT_STS_HALT = 1 ∧ u.front.cfs = true))

/-- KEY_LOAD, KEY_DISCARD, KEY_LIST and KEY_REWRAP. -/
def Obligations.ArchiveKeysAndTheirStore : Prop :=
  ∀ (s : State) (k : Nat) (x : CmdSlot) (d : List Byte),
    (s.keyCmd? k 1 = some x → x.nsid = 0 → s.pointersOk x false = true → d.length = 64 →
      let id := leNat ((d.drop 8).take 8)
      let key := (d.drop 0x10).take 32
      let good := d.take 4 = ascii "KREC" ∧ (d.drop 4).head? = some 1 ∧ leNat (d.drop 0x3C) = crc32c (d.take 0x3C) ∧ id ≠ 0
      (s.debugOpen = true ∨ s.sec.tamperLow = true → exec (.keyLoad k d) s = .next (s.finish k stAccessDenied)) ∧
      (s.debugOpen = false → s.sec.tamperLow = false →
        (¬ good → exec (.keyLoad k d) s = .next (s.finish k stInvalidField)) ∧
        (good → s.archiveKey id = none → s.sec.keys.length < 512 → ∃ t, exec (.keyLoad k d) s = .next t ∧
          t = (State.pw { s with sec := { s.sec with keys := s.sec.keys ++ [(id, key)] } } F.SEC_STS_KEYS (s.sec.keys.length + 1)).finish k stSuccess ∧
          t.archiveKey id = some key ∧ ∀ j, j ≠ id → t.archiveKey j = s.archiveKey j) ∧
        (good → s.archiveKey id = none → 512 ≤ s.sec.keys.length → exec (.keyLoad k d) s = .next (s.finish k stCapacity)) ∧
        (good → ∀ old, s.archiveKey id = some old → exec (.keyLoad k d) s = .next (s.finish k (if old = key then stSuccess else stSequence))))) ∧
    (s.keyCmd? k 2 = some x → x.nsid = 0 →
      let id := x.dw 11 + 2 ^ 32 * x.dw 12
      (id = 2 ^ 64 - 1 → ∃ t, exec (.keyDiscard k) s = .next t ∧ t.sec.keys = [] ∧ t.sec = { s.sec with keys := [] }) ∧
      (id ≠ 2 ^ 64 - 1 → (s.archiveKey id).isSome → ∃ t, exec (.keyDiscard k) s = .next t ∧ t.archiveKey id = none ∧
        (∀ j, j ≠ id → t.archiveKey j = s.archiveKey j) ∧ t.pr F.SEC_STS_KEYS = t.sec.keys.length % 2 ^ F.SEC_STS_KEYS.width) ∧
      (id ≠ 2 ^ 64 - 1 → s.archiveKey id = none → exec (.keyDiscard k) s = .next (s.finish k stInvalidField))) ∧
    (s.keyCmd? k 4 = some x → x.nsid = 0 → exec (.keyList k) s = .next
      (s.finishData k x (padTo 4096 0 (s.sec.keys.flatMap fun e => leBytes 8 e.1)))) ∧
    (∀ c disc, s.chanCmd? k 0xC6 = some (x, c) → bitsAt (x.dw 10) 0 4 = 3 → (s.ch c).disc = some disc →
      (disc.sealed_ = true → exec (.keyRewrap k) s = .next (s.finish k stSealed)) ∧
      (∀ p ak, disc.sealed_ = false → disc.writable = true → (s.ch c).xtsKey = some p → s.archiveKey (x.dw 13 + 2 ^ 32 * x.dw 14) = some ak →
        disc.revision < 128 → (s.ch c).st ≠ .mechStopped → exec (.keyRewrap k) s = .next (((s.modDisc c fun y => { y with
          archiveId := x.dw 13 + 2 ^ 32 * x.dw 14, wrapped := ofNats (keyWrap (toNats ak) (toNats p)) }).writeIdentity c).finish k stSuccess)))

/-- MOUNT, MOUNT_COMPLETE, UNMOUNT and SEAL_DISC. A MOUNT event carries what the disc shows and performs steps 1 to 5 of Table 8-2 (log 34). -/
def Obligations.MountUnmountAndSeal : Prop :=
  ∀ (s : State) (k : Nat) (x : CmdSlot) (c : Fin 16) (scan : DiscScan),
    (s.cmd? k true 0xC0 = some x → x.chan = some c.val → s.servable c = true → (s.ch c).mounting = none → (s.ch c).procs = [] →
      let id := x.dw 11 + 2 ^ 32 * x.dw 12
      (s.cr c F.CHN_STS_DISC_PRESENT = 0 → exec (.mount k scan) s = .next (s.finish k stNoDisc)) ∧
      (s.cr c F.CHN_STS_DISC_PRESENT ≠ 0 → (s.ch c).active = true → exec (.mount k scan) s = .next (s.finish k stSequence)) ∧
      (s.cr c F.CHN_STS_DISC_PRESENT ≠ 0 → (s.ch c).active = false →
        (bitAt (x.dw 10) 2 = true → (id = 0 ∨ s.archiveKey id = none ∨ s.debugOpen = true) →
          exec (.mount k scan) s = .next (s.finish k stKeyRequired)) ∧
        (bitAt (x.dw 10) 2 = false ∨ (id ≠ 0 ∧ (s.archiveKey id).isSome ∧ s.debugOpen = false) →
          (∃ u : State, exec (.mount k scan) s = .next ((u.showSafe c).mountDisc c x scan) ∧ (u.ch c).mounting = some k ∧ (u.ch c).st = .mounting ∧
            u.cr c F.MAP_STS_STATE = 2 ∧ u.dram = s.dram ∧ ∀ d, d ≠ c → u.ch d = s.ch d) ∧
          (scan.blank = true → ∃ t e, exec (.mount k scan) s = .next t ∧ (t.ch c).mounting = some k ∧ (t.ch c).st = .mounting ∧
            (t.ch c).disc = some e ∧ e.blank = true ∧ e.direct = bitAt (x.dw 10) 0 ∧ e.sealed_ = false ∧ e.keyed = false ∧ t.slot? k = some x)))) ∧
    (∀ ms d, (s.ch c).mounting = some k → (s.ch c).disc = some d → (s.ch c).fence = 0 → s.slot? k = some x → x.live = true → x.silent = false →
      x.chan = some c.val → x.isAdmin = true → s.front.aers = [] → ∃ t, exec (.mountComplete c ms) s = .next t ∧
        (t.ch c).active = true ∧ (t.ch c).st = .mounted ∧ (t.ch c).mounting = none ∧
        t.cr c F.MAP_STS_STATE = 3 ∧ c.val + 1 ∈ t.front.changed ∧
        t.slot? k = some { x with phase := .completed stSuccess (BitVec.ofNat 32 d.flags) (BitVec.ofNat 32 ms) } ∧
        ∀ e, e ≠ c → t.ch e = s.ch e) ∧
    (s.chanCmd? k 0xC1 = some (x, c) →
      ((s.ch c).active = false → exec (.unmount k) s = .next (s.finish k stNotMounted)) ∧
      ((s.ch c).active = true → (∀ p ∈ (s.ch c).procs, p.kind.unmounts = false) → (s.ch c).st ≠ .mechStopped →
        exec (.unmount k) s = .next ((s.setSt c .unmounting).startProc c (.unmount (bitAt (x.dw 10) 0) false) (some k)) ∧
        ((s.setSt c .unmounting).ch c).st = .unmounting ∧
        ((s.ch c).procs = [] → (s.ch c).wr.blocks ≠ [] → (s.ch c).keysLost = false → ∃ t, exec (.unmount k) s = .next t ∧
          (t.ch c).st = .unmounting ∧ (t.ch c).procs = [⟨.unmount (bitAt (x.dw 10) 0) false, some k, .drain⟩]))) ∧
    (∀ d, s.chanCmd? k 0xC2 = some (x, c) → (s.ch c).disc = some d →
      (d.sealed_ = true → exec (.sealDisc k) s = .next (s.finish k stSealed)) ∧
      (d.sealed_ = false → d.roMount = true ∨ d.roDisc = true → exec (.sealDisc k) s = .next (s.finish k stWriteProtected)) ∧
      (d.sealed_ = false → d.roMount = false → d.roDisc = false → (s.ch c).st ≠ .mechStopped →
        exec (.sealDisc k) s = .next (s.startProc c (.seal (bitAt (x.dw 10) 0)) (some k)) ∧
        ((s.ch c).procs = [] → (s.ch c).wr.blocks ≠ [] → (s.ch c).keysLost = false → ∃ t, exec (.sealDisc k) s = .next t ∧
          (t.ch c).procs = [⟨.seal (bitAt (x.dw 10) 0), some k, .drain⟩])))

/-- SERVICE_ISOLATE, SERVICE_POWER_DOWN, SERVICE_RESTORE and SERVICE_RELOAD. -/
def Obligations.ChannelServiceOperations : Prop :=
  ∀ (s : State) (k : Nat) (x : CmdSlot) (c : Fin 16),
    (∀ e ∈ ([(.serviceIsolate k, 1), (.servicePowerDown k, 2), (.serviceRestore k, 3), (.serviceReload k, 4)] : List (Instr × Nat)),
      s.service? k e.2 = some (x, c) → ((s.ch c).svc.isSome ∨ (2 ≤ e.2 ∧ (s.ch c).fence = 0)) →
        exec e.1 s = .next (s.finish k stSequence (s.ch c).st.code)) ∧
    (s.service? k 1 = some (x, c) → (s.ch c).svc = none →
      ((s.ch c).fence ≠ 0 → exec (.serviceIsolate k) s = .next
        ((if s.cr c F.STW_STS_RUN = 1 then (s.forbidWrites c).showSafe c else s).finish k stSuccess (s.ch c).st.code)) ∧
      ((s.ch c).fence = 0 → bitAt (x.dw 10) 16 = false ∨ (s.ch c).active = false →
        exec (.serviceIsolate k) s = .next (((((s.orderlyStop c 2).svcBegin c k 1).closeFence c 1).forbidWrites c).showSafe c)) ∧
      ((s.ch c).fence = 0 → bitAt (x.dw 10) 16 = true → (s.ch c).active = true → (s.ch c).st ≠ .mechStopped →
        exec (.serviceIsolate k) s = .next ((((s.svcBegin c k 1).modCh c fun y => { y with isolating := true }).setSt c .unmounting).startProc c
          (.unmount false true) none))) ∧
    (s.service? k 2 = some (x, c) → (s.ch c).svc = none → (s.ch c).fence ≠ 0 →
      exec (.servicePowerDown k) s = .next (let u := if (s.ch c).powered then powerDown s c else s
        u.finish k stSuccess (u.ch c).st.code) ∧
      ((powerDown s c).ch c).powered = false ∧ ((powerDown s c).ch c).st = .poweredDown ∧ ((powerDown s c).ch c).fence = (s.ch c).fence ∧
      ((powerDown s c).ch c).wr.blocks = (s.ch c).wr.blocks ∧ (powerDown s c).dram = s.dram ∧
      ∀ d, d ≠ c → (powerDown s c).ch d = s.ch d) ∧
    (s.service? k 3 = some (x, c) → (s.ch c).svc = none → (s.ch c).fence ≠ 0 → ∃ t, exec (.serviceRestore k) s = .next t ∧
      (t.ch c).svc = some (k, 3) ∧ (t.ch c).st = .restoring ∧ (t.ch c).powered = true ∧ (t.ch c).fence = (s.ch c).fence ∧
      ∀ d, d ≠ c → t.ch d = s.ch d) ∧
    (s.service? k 4 = some (x, c) → (s.ch c).svc = none → (s.ch c).fence ≠ 0 → (s.ch c).powered = true →
      exec (.serviceReload k) s = .next ((((s.assertKill c 34).channelReset c true)).svcBegin c k 4))

/-- CAL_LOAD_SET, CAL_CLEAR_SET, CAL_POWER_RUN, CAL_SERVO_SWEEP and CAL_READ_BACK. -/
def Obligations.CalibrateProcedures : Prop :=
  ∀ (s : State) (k : Nat) (x : CmdSlot) (c : Fin 16) (d : List Byte),
    (s.calibrate? k 0 = some (x, c) →
      (4 < x.calSet → exec (.calLoadSet k d) s = .next (s.finish k stInvalidField)) ∧
      (x.calSet ≤ 4 → s.pointersOk x false = true → s.gatherBad x c = false → exec (.calLoadSet k d) s = .next
        (let u := s.dramWrite c (s.setBase c x.calSet) ((s.gather x c d).map some)
        ((u.cw c F.CAL_SET_VALID (u.cr c F.CAL_SET_VALID ||| 2 ^ x.calSet)).calDue c).finish k stSuccess))) ∧
    (s.calibrate? k 1 = some (x, c) →
      (4 < x.calSet → exec (.calClearSet k) s = .next (s.finish k stInvalidField)) ∧
      (x.calSet ≤ 4 → exec (.calClearSet k) s = .next ((setValid c (s.cr c F.CAL_SET_VALID &&& (31 - 2 ^ x.calSet)) s).finish k stSuccess))) ∧
    (∀ disc, s.calibrate? k 2 = some (x, c) → (s.ch c).disc = some disc → (s.ch c).active = true →
      let layer := bitsAt (x.dw 10) 16 5
      (disc.sealed_ = true → exec (.calPowerRun k) s = .next (s.finish k stSealed)) ∧
      (disc.sealed_ = false → disc.writable = true → (s.ch c).st ≠ .mechStopped →
        (15 < SMap.get (s.ch c).wr.testNext layer 0 → exec (.calPowerRun k) s = .next (s.finish k stCapacity)) ∧
        (SMap.get (s.ch c).wr.testNext layer 0 ≤ 15 → disc.calNext < calibrationEnd → s.mayTest c = true →
          ∃ t, exec (.calPowerRun k) s = .next t ∧ (t.ch c).wr.testRun = some ⟨layer, SMap.get (s.ch c).wr.testNext layer 0, some k, false⟩ ∧
            t.cr c F.WRC_TEST_STS_DONE = 0 ∧ t.cr c F.WRC_TEST_STS_FAIL = 0 ∧ t.slot? k = s.slot? k ∧
            FieldsKept s t (FieldsOf (chRg c) [F.WRC_TEST_STS_DONE, F.WRC_TEST_STS_FAIL])))) ∧
    (s.calibrate? k 3 = some (x, c) →
      ((s.ch c).active = false → exec (.calServoSweep k) s = .next (s.finish k stNotMounted)) ∧
      ((s.ch c).active = true → (s.ch c).st ≠ .mechStopped → ∀ q : Fin 7, bitsAt (x.dw 10) 24 3 = q.val →
        (s.sessionOn c = true ∨ (s.ch c).servo.sweep.isSome → exec (.calServoSweep k) s = .next (s.finish k stSequence)) ∧
        (s.sessionOn c = false → (s.ch c).servo.sweep = none → s.cr c (F.SLT_STATE_SEQ q) ≠ 1 → s.cr c F.CLE_CTL ≠ 0 → s.mode c q = 1 →
          exec (.calServoSweep k) s = .next ((s.wrs (chRg c) [(F.CLE_SWEEP_CTL_SLOT, q), (F.CLE_SWEEP_CTL_DWELL, bitsAt (x.dw 13) 0 12),
            (F.CLE_SWEEP_CTL_COUNT, bitsAt (x.dw 13) 16 10), (F.CLE_SWEEP_START, x.dw 11), (F.CLE_SWEEP_STEP, x.dw 12)]).sweepRun c
              (some (k, 1))) ∧
          ∃ t w, exec (.calServoSweep k) s = .next t ∧ (t.ch c).servo.sweep = some w ∧ w.slot = q.val ∧ w.cmd = some (k, 1) ∧
            t.cr c F.CLE_SWEEP_STS_STATE = 1 ∧ t.cr c (F.SLT_STATE_SWEEP q) = 1 ∧ t.slot? k = s.slot? k))) ∧
    (s.calibrate? k 4 = some (x, c) →
      (4 < x.calSet → x.calSet ≠ 7 → exec (.calReadBack k) s = .next (s.finish k stInvalidField)) ∧
      (x.calSet ≤ 4 ∨ x.calSet = 7 → s.pointersOk x true = true →
        let base := if x.calSet = 7 then s.workBase c (s.cr c F.CAL_STS_BUF) else s.setBase c x.calSet
        exec (.calReadBack k) s = .next (if s.anyPoison c base 0x200000 then (s.xferErr k c.val 3 base).finish k stDataTransfer
          else (s.sendData x 0 (s.dramBytes c base 0x200000)).finish k stSuccess)))

/-- WRITE, WRITE_STAGED, WRITE_BUFFER_WAIT_END and FLUSH of one namespace. -/
def Obligations.WritesAreAdmittedGrantedAndStaged : Prop :=
  ∀ (s : State) (k : Nat) (x : CmdSlot) (c : Fin 16) (d : Disc),
    (s.ioCmd? k 0x01 = some (x, c) → (s.ch c).disc = some d →
      (∀ st, s.ioRefused x c = some st → exec (.write k) s = .next (s.finish k st)) ∧
      (s.ioRefused x c = none → s.pointersOk x false = true →
        (d.sealed_ = true → exec (.write k) s = .next (s.finish k stSealed)) ∧
        (d.sealed_ = false → d.roMount = true ∨ d.roDisc = true → exec (.write k) s = .next (s.finish k stWriteProtected)) ∧
        (s.writeRefused c d x.slba x.blocks = none →
          let u := s.modWr c fun w => { w with intake := w.intake ++ [⟨k, x.slba, x.blocks, bitAt (x.dw 12) 30, false⟩] }
          (s.wbRoom c x.blocks = true → (∀ i ∈ (s.ch c).wr.intake, i.granted = true) → exec (.write k) s = .next (u.grant c k)) ∧
          (s.wbRoom c x.blocks = false ∨ (∃ i ∈ (s.ch c).wr.intake, i.granted = false) → exec (.write k) s = .next (u.cirq c 0x60 1))))) ∧
    (∀ i, s.slot? k = some x → x.chan = some c.val → (s.ch c).wr.intake.find? (!·.granted) = some i → i.slot = k → s.servable c = true →
      exec (.writeBufferWaitEnd k) s = .next (if s.wbRoom c i.n then s.grant c k else s)) ∧
    (s.slot? k = some x → (∀ p ∈ x.pieces, inBar4 x.bar4 p.1 = false) → ∃ rs, (s.grant c k) = ({ s.modWr c (fun w => { w with
        intake := w.intake.map fun i => if i.slot == k then { i with granted := true } else i }) with
        front := { s.front with readQ := s.front.readQ ++ rs } } : State).issueReads ∧
      ∀ r ∈ rs, r.slot = k ∧ r.chan = c.val ∧ ∃ p ∈ x.pieces, p.1 ≤ r.addr ∧ r.addr + r.len ≤ p.1 + p.2) ∧
    (∀ i, s.slot? k = some x → x.chan = some c.val → (s.ch c).wr.intake.find? (·.slot == k) = some i →
      (x.bytes.length ≠ 4096 * i.n ∨ i.granted = false → exec (.writeStaged k) s = .next s) ∧
      (∀ j js, (s.ch c).disc = some d → d.direct = true → (s.ch c).wr.intake = j :: js → j.slot ≠ k → exec (.writeStaged k) s = .next s) ∧
      (i.granted = true → x.bytes.length = 4096 * i.n → x.live = true → s.servable c = true → (s.ch c).disc = some d → d.direct = false →
        let w := (s.ch c).wr
        ∃ u : State, exec (.writeStaged k) s = .next (u.progress c) ∧ (u.ch c).wr.blocks = w.blocks ++ stagedBlocks w i x.bytes s.plat.time ∧
          (u.ch c).wr.nextBlock = w.nextBlock + i.n ∧ (∀ j ∈ (u.ch c).wr.intake, j.slot ≠ k) ∧ u.dram = s.dram ∧
          ∀ e, e ≠ c → u.ch e = s.ch e)) ∧
    (∀ w i bytes now, (stagedBlocks w i bytes now).length = i.n ∧
      ∀ j b, (stagedBlocks w i bytes now)[j]? = some b → b.id = w.nextBlock + j ∧ b.lba = i.slba + j ∧ b.time = now ∧
        b.data = (bytes.drop (4096 * j)).take 4096 ∧ b.crc = crc32c b.data ∧ b.taken = false ∧ b.bad = false ∧ b.lost = false ∧ b.home = none) ∧
    (s.ioCmd? k 0x00 = some (x, c) → (s.ch c).st ≠ .mechStopped →
      (s.vwc = false → exec (.flush k) s = .next (s.finish k stSuccess)) ∧
      (s.vwc = true → (s.ch c).keysLost = false → (∀ b ∈ (s.ch c).wr.blocks, x.fetched < b.time) → exec (.flush k) s = .next (s.settleWait k)) ∧
      (∀ b, s.vwc = true → ((s.ch c).wr.blocks.filter fun b => b.time ≤ x.fetched).getLast? = some b → exec (.flush k) s = .next
        ((s.modWr c fun w => { w with waits := w.waits ++ [⟨k, 0, b.id + 1⟩], forceTo := max w.forceTo (b.id + 1) }).settleWait k)))

/-- READ, VERIFY and MEDIA_PROBE. -/
def Obligations.ReadsVerifiesAndProbesAreTakenUp : Prop :=
  ∀ (s : State) (k : Nat) (x : CmdSlot) (c : Fin 16),
    (∀ e ∈ ([(.read k, 0x02, .read), (.verify k, 0x0C, .verify)] : List (Instr × Nat × ReadKind)), s.ioCmd? k e.2.1 = some (x, c) →
      ((s.ch c).st = .mechStopped → exec e.1 s = .next (s.finish k stServo)) ∧
      ((s.ch c).st ≠ .mechStopped → s.nsze c < x.slba + x.blocks → exec e.1 s = .next (s.finish k stLbaRange)) ∧
      ((s.ch c).st ≠ .mechStopped → x.slba + x.blocks ≤ s.nsze c → 1024 < x.blocks → exec e.1 s = .next (s.finish k stInvalidField)) ∧
      (s.ioRefused x c = none → s.pointersOk x true = true ∨ e.2.2 = .verify → exec e.1 s = .next
        (s.startRead c ⟨k, e.2.2, x.slba, x.blocks, bitAt (x.dw 12) 31, none, [], false, [], []⟩ (bitAt (x.dw 12) 30))) ∧
      (s.ioRefused x c = none → s.pointersOk x true = false → e.2.2 = .read → exec e.1 s = .next (s.refusePointer k x)) ∧
      (s.ioRefused x c = none → s.pointersOk x true = true ∨ e.2.2 = .verify → bitAt (x.dw 12) 30 = false → x.silent = false →
        (∀ b, x.blocks = 1 → (s.ch c).wr.staged x.slba = some b → b.bad = false → (e.2.2 = .verify → crc32c b.data = b.crc) →
          ∃ t, exec e.1 s = .next t ∧ t.slot? k = some { x with phase := .completed stSuccess 0 0 } ∧
            (e.2.2 = .read → (s.sendData x 0 b.data).out <+: t.out) ∧ t.dram = s.dram ∧ ∀ d, d ≠ c → t.ch d = s.ch d) ∧
        (∀ disc, (s.ch c).disc = some disc → disc.direct = true → (∀ i, i < x.blocks → (s.ch c).wr.staged (x.slba + i) = none) →
          (∀ i, i < x.blocks → disc.directTarget (x.slba + i) ≠ .zero) →
          ∃ t q, exec e.1 s = .next t ∧ t.readCmd? c k = some q ∧ q.kind = e.2.2 ∧ q.slba = x.slba ∧ q.n = x.blocks ∧
            q.targets = (List.range x.blocks).map (fun i => disc.directTarget (x.slba + i)) ∧ t.slot? k = some x ∧ t.out = s.out ∧
            t.dram = s.dram ∧ (t.ch c).wr = (s.ch c).wr ∧ ∀ d, d ≠ c → t.ch d = s.ch d))) ∧
    (s.ioCmd? k 0x84 = some (x, c) → (s.ch c).st ≠ .mechStopped →
      let n := bitsAt (x.dw 12) 0 10 + 1
      (bitAt (x.dw 10) 0 = true → discClusters < x.dw 11 + n → exec (.mediaProbe k) s = .next (s.finish k stInvalidField)) ∧
      (bitAt (x.dw 10) 0 = false → s.nsze c < x.dw 11 + n → exec (.mediaProbe k) s = .next (s.finish k stLbaRange)) ∧
      (bitAt (x.dw 10) 0 = false → x.dw 11 + n ≤ s.nsze c → s.pointersOk x true = true → exec (.mediaProbe k) s = .next
        (s.startRead c ⟨k, .probe, x.dw 11, n, !bitAt (x.dw 10) 1, none, [], false, [], []⟩ false)) ∧
      (bitAt (x.dw 10) 0 = true → x.dw 11 + n ≤ discClusters → s.pointersOk x true = true → exec (.mediaProbe k) s = .next
        (s.startRead c ⟨k, .probe, 0, 0, !bitAt (x.dw 10) 1, none, [], true, (List.range n).map (x.dw 11 + ·), []⟩ false) ∧
        ∃ t q, exec (.mediaProbe k) s = .next t ∧ t.readCmd? c k = some q ∧ q.kind = .probe ∧ q.byPcn = true ∧
          q.probe = (List.range n).map (x.dw 11 + ·) ∧ q.records = [] ∧ t.slot? k = some x ∧ t.out = s.out ∧ t.dram = s.dram ∧
          ∀ d, d ≠ c → t.ch d = s.ch d))

/-- TRANSFORM_COMPRESS, TRANSFORM_DECOMPRESS, TRANSFORM_RESUME, PIN_RANGE and XTS_SELFTEST. -/
def Obligations.TransformsAndPinsRun : Prop :=
  ∀ (s : State) (k : Nat) (x : CmdSlot) (c : Fin 16) (d : List Byte),
    (s.ioCmd? k 0x81 = some (x, c) → s.running (chRg c) 0x38 = true →
      let n := bitsAt (x.dw 15) 0 23
      let window := bitsAt (x.dw 14) 0 23
      let input := s.gather x c d
      let job : Transform := ⟨!bitAt (x.dw 10) 0, bitsAt (x.dw 11) 0 31, 0, [], []⟩
      -- what a job that runs leaves: its command ended with the bytes taken, the context kept and the bytes of output
      let ends := fun (t : State) (st : Status) (taken : Nat) (out : List Byte) (left : Option Transform) => t.slot? k = some { x with
          phase := .completed st (BitVec.ofNat 32 (taken + 2 ^ 24 * b2n (left.elim false fun j => !j.out.isEmpty || !j.input.isEmpty)))
            (BitVec.ofNat 32 out.length) } ∧
        (t.ch c).xf = left ∧ (s.sendData { x with pieces := x.outPieces } 0 out).out <+: t.out ∧ (∀ e, e ≠ c → t.ch e = s.ch e)
      let coded := fun (t : State) (j : Transform) =>
        let r := compressRun (s.coder c true) j.base window (input.length / 4096) j.blocks input j.out
        ends t stSuccess (4096 * (r.2 - j.blocks)) (r.1.take window)
          (if (r.1.drop window).isEmpty && 4096 * (r.2 - j.blocks) == input.length then none else some { j with blocks := r.2, out := r.1.drop window })
      let decoded := fun (t : State) (j : Transform) =>
        let all := j.input ++ input
        let r := decompressRun window (all.length / 16 + 1) all j.out 0
        if r.2.2 then ends t stTransformInput (r.2.1 - j.input.length) (r.1.take window) none
        else if r.1.length < window then ends t stSuccess input.length (r.1.take window)
          (if (all.drop r.2.1).isEmpty then none else some { j with out := [], input := all.drop r.2.1 })
        else ∃ left, ends t stSuccess (r.2.1 - j.input.length) (r.1.take window) left ∧ ∀ l, left = some l → l.out = r.1.drop window
      let fits := n ≤ 4194304 ∧ bitsAt (x.dw 14) 0 23 ≤ 4194304 ∧ x.dw 12 % 4 = 0
      let usable := s.pointersOk x false = true ∧ s.pointersOk { x with pieces := x.outPieces } true = true ∧ s.gatherBad x c = false
      let fresh := s.wrs (chRg c) [(F.CMP_XF_IN, 0), (F.CMP_XF_OUT, 0)]
      (bitAt (x.dw 10) 1 = false → bitAt (x.dw 10) 0 = false →
        (¬ fits ∨ n % 4096 ≠ 0 → exec (.transformCompress k d) s = .next (s.finish k stInvalidField)) ∧
        (fits → n % 4096 = 0 → usable → exec (.transformCompress k d) s = .next
          (fresh.runTransform c k x ⟨true, bitsAt (x.dw 11) 0 31, 0, [], []⟩ (s.gather x c d))) ∧
        (fits → n % 4096 = 0 → usable → x.silent = false → ∃ t, exec (.transformCompress k d) s = .next t ∧ coded t job)) ∧
      (bitAt (x.dw 10) 1 = false → bitAt (x.dw 10) 0 = true → fits → usable → exec (.transformDecompress k d) s = .next
        (fresh.runTransform c k x ⟨false, bitsAt (x.dw 11) 0 31, 0, [], []⟩ (s.gather x c d)) ∧
        (x.silent = false → ∃ t, exec (.transformDecompress k d) s = .next t ∧ decoded t job)) ∧
      (bitAt (x.dw 10) 1 = true →
        ((s.ch c).xf = none → exec (.transformResume k d) s = .next (s.finish k stSequence)) ∧
        (∀ j, (s.ch c).xf = some j → fits → (j.compress = true → n % 4096 = 0) → usable → exec (.transformResume k d) s = .next
          (s.runTransform c k x j (s.gather x c d)) ∧
          (x.silent = false → ∃ t, exec (.transformResume k d) s = .next t ∧ if j.compress then coded t j else decoded t j)))) ∧
    (∀ pin : Bool, s.ioCmd? k 0x82 = some (x, c) → bitAt (x.dw 12) 0 = !pin → (s.ch c).st ≠ .mechStopped →
      let e : Instr := if pin then .pinRangePin k else .pinRangeUnpin k
      (s.nsze c ≤ x.slba → exec e s = .next (s.finish k stLbaRange)) ∧
      (x.slba < s.nsze c → ∀ disc, (s.ch c).disc = some disc →
        (disc.direct = true → exec e s = .next (s.finish k stSuccess)) ∧
        (disc.direct = false →
          (pin = false → (s.ch c).map.lockAt x.slba = none → exec e s = .next (s.finish k stInvalidField)) ∧
          (pin = false → (s.ch c).map.lockAt x.slba ≠ none → exec e s = .next (unpinCommand s c k x.slba)) ∧
          (pin = true → bitAt (x.dw 12) 1 = false → exec e s = .next (pinCommand s c k x.slba)) ∧
          (∀ i y, pin = false → x.silent = false → (s.ch c).map.lockAt x.slba = some (i, y) → ∃ t, exec e s = .next t ∧
            SMap.find? (t.ch c).map.locks i = none ∧ (∀ z ∈ (t.ch c).map.ltc, z.lock ≠ some i) ∧ ∃ d0 d1,
            t.slot? k = some { x with phase := .completed stSuccess d0 d1 }) ∧
          (∀ i en, pin = true → bitAt (x.dw 12) 1 = false → x.silent = false → (s.ch c).map.lockAt x.slba = none →
            ((s.ch c).map.ltc.filterMap (·.entry)).find? (fun y => y.ext.has x.slba) = some en →
            (List.range 4).find? (fun i => (SMap.find? (s.ch c).map.locks i).isNone) = some i → ∃ t, exec e s = .next t ∧
              (t.ch c).map.locks = SMap.insert (s.ch c).map.locks i x.slba ∧ (∃ z ∈ (t.ch c).map.ltc, z.lock = some i ∧ z.entry = some en) ∧
              t.cr c (F.LTC_LOCK_ANCHOR i) = x.slba ∧ t.slot? k = some { x with
                phase := .completed stSuccess (BitVec.ofNat 32 (i + 4 * b2n en.hole + 2 ^ 16 * en.ext.len)) (BitVec.ofNat 32 en.ext.start) } ∧
              t.dram = s.dram ∧ ∀ d, d ≠ c → t.ch d = s.ch d)))) ∧
    (∀ src, s.reach src (chRg c) 0x39 = .open_ →
      (s.cr c F.XTS_STS_KEY_VALID = 1 → ∃ t, exec (.xtsSelftest src c) s = .next t ∧
        t.cr c (F.HDR_ERR_COUNT 0x39) = min (s.cr c (F.HDR_ERR_COUNT 0x39) + 1) 65535 ∧ t.cr c F.XTS_SELFTEST_PASS = s.cr c F.XTS_SELFTEST_PASS) ∧
      (s.cr c F.XTS_STS_KEY_VALID ≠ 1 → ∃ t, exec (.xtsSelftest src c) s = .next t ∧ t.cr c F.XTS_SELFTEST_DONE = 1 ∧
        t.cr c F.XTS_SELFTEST_PASS = 1 ∧ FieldsKept s t (FieldsOf (chRg c) [F.XTS_SELFTEST_DONE, F.XTS_SELFTEST_PASS]) ∧
        t = { s with regs := t.regs, parity := t.parity }))

/-- Controller enable and reset, FLR, PERST# and its release, link training and the shutdowns. Of LINK_TRAINING's frame, what the partner can do
comes with the event. -/
def Obligations.HostInterfaceResetsAndShutdowns : Prop :=
  ∀ (s : State) (c : Fin 16) (cause : LinkReset) (ws rs : List Nat) (lanes : Nat) (rev : Bool),
    (∀ i ∈ ([.controllerEnable, .controllerReset, .functionLevelReset, .flrComplete, .perst cause, .perstDeassert, .linkTraining ws rs lanes rev,
        .normalShutdown, .abruptShutdown, .shutdownDeadline] : List Instr),
      ∃ t, exec i s = .next t ∧ ((s.ch c).fence ≠ 0 → (t.ch c).fence ≠ 0)) ∧
    (bitAt s.cc 0 = false → s.front.inReset = false → s.front.flr = false → s.plat.porst = false →
      exec .controllerEnable s = .next ((s.putNvme 0x14 (s.cc + 1)).becomeReady)) ∧
    (bitAt s.cc 0 = true → s.sec.actDue = none → s.plat.feUp = true → ∃ t, exec .controllerReset s = .next t ∧ bitAt t.cc 0 = false ∧
      t.front.rdy = false ∧ t.front.cfs = false ∧ t.front.shst = 0 ∧ t.front.sqs = [] ∧ t.front.cqs = [] ∧ t.front.aers = [] ∧
      (∀ k x, t.slot? k = some x → x.cancel = some .silent ∨ x.silent = true) ∧
      t.pr F.RST_COUNTS_CTRL = min (s.pr F.RST_COUNTS_CTRL + 1) (2 ^ F.RST_COUNTS_CTRL.width - 1)) ∧
    (s.front.inReset = false → s.front.flr = false → s.plat.porst = false → s.sec.actDue = none → ∃ t, exec .functionLevelReset s = .next t ∧
      t.front.flr = true ∧ t.front.rdy = false ∧ t.front.sqs = [] ∧ t.front.nvme = [] ∧ (∀ v, SMap.get t.front.pba v false = true → v = 64) ∧
      (∀ off, off ≠ 0x2C → ∀ d, t.cfgRaw off d = d) ∧ t.pr F.RST_COUNTS_FLR = min (s.pr F.RST_COUNTS_FLR + 1) (2 ^ F.RST_COUNTS_FLR.width - 1)) ∧
    exec .flrComplete s = .next { s with front := { s.front with flr := false } } ∧
    (s.plat.porst = true ∨ s.front.inReset = true → exec (.perst cause) s = .next (if cause = .perst then
      { s with plat := { s.plat with perstLow := true } } else s)) ∧
    (s.plat.porst = false → s.front.inReset = false → s.sec.actDue = none → ∃ t, exec (.perst cause) s = .next t ∧ t.front.inReset = true ∧
      t.front.rdy = false ∧ t.front.sqs = [] ∧ t.front.feats = [] ∧ t.front.reads = [] ∧ t.plat.perstLow = (s.plat.perstLow || cause == .perst) ∧
      (∀ f : Fld, f.Placed → perstResets f.page f.off = true → f.page ≠ 0x0B → f.off < 0x100 ∨ f.page = 0x0C → t.pr f = f.reset)) ∧
    exec .perstDeassert s = .next { s with plat := { s.plat with perstLow := false }, front := { s.front with l2 := false, wakePin := false } } ∧
    (s.plat.porst = true ∨ s.plat.tripped = true ∨ s.plat.perstLow = true → exec (.linkTraining ws rs lanes rev) s = .next s) ∧
    (s.plat.porst = false → s.plat.tripped = false → s.plat.perstLow = false → s.pr F.CLK_PLL_STS_PCIE ≠ 0 →
      let w := bestOf (ws.filter fun w => [1, 2, 4, 8, 16].contains w) (min (s.pr F.PCI_LINK_CAP_MAX_WIDTH) lanes)
      let v := bestOf (rs.filter fun r => 1 ≤ r && r ≤ 5) (s.pr F.PCI_LINK_CAP_MAX_SPEED)
      w ≠ 0 → v ≠ 0 → ∃ t, exec (.linkTraining ws rs lanes rev) s = .next t ∧ t.front.inReset = false ∧
        t.pr F.PCI_LINK_STS_WIDTH = w % 2 ^ F.PCI_LINK_STS_WIDTH.width ∧ t.pr F.PCI_LINK_STS_SPEED = v % 2 ^ F.PCI_LINK_STS_SPEED.width ∧
        t.pr F.PCI_LINK_STS_DL_UP = 1 ∧ t.chans = s.chans) ∧
    (s.front.rdy = false → exec .normalShutdown s = .next s ∧ exec .abruptShutdown s = .next s) ∧
    (s.front.rdy = true → ∃ t, exec .abruptShutdown s = .next t ∧ t.front.shst = 2 ∧ t.front.shutting = false) ∧
    (s.front.rdy = true → s.front.shutting = false → s.front.shst = 0 → (∀ d : Fin 16, (s.ch d).active = false) →
      (∀ e ∈ s.front.slots, e.2.live = false) → (∀ d : Fin 16, (s.ch d).procs = []) → ∃ t, exec .normalShutdown s = .next t ∧ t.front.shst = 2) ∧
    (s.front.shutting = true → exec .shutdownDeadline s = .next (s.modFront fun f => { f with shutting := false, shst := 2 }))

/-- READ_COMPLETION, COMPLETION_TIMEOUT, the Bus Master Enable events and CONFIGURATION_REQUEST. Offsets are PRESUMED (log 5). -/
def Obligations.HostReadsConfigurationAndBusMastering : Prop :=
  ∀ (s : State) (tag : Nat) (r : ReadReq) (data : List Byte),
    (s.front.inReset = false → s.plat.porst = false → s.plat.tripped = false → 512 < data.length → ∀ st,
      exec (.readCompletion tag st data) s = .next (s.cfgSet 0x104 0x40000)) ∧
    (s.front.inReset = false → s.plat.porst = false → s.plat.tripped = false → data.length ≤ 512 →
      (SMap.find? s.front.reads tag = none → s.front.deadTags = [] → ∀ st, exec (.readCompletion tag st data) s = .next s) ∧
      (SMap.find? s.front.reads tag = some r →
        (r.dead = false → r.got.length + data.length < r.len → exec (.readCompletion tag .success data) s = .next
          (s.modFront fun f => { f with reads := SMap.insert f.reads tag { r with got := r.got ++ data } })) ∧
        (r.dead = false → r.len ≤ r.got.length + data.length → exec (.readCompletion tag .success data) s = .next
          (((((s.dropTag tag).sample 0 0x83 ((s.plat.time : Int) - (r.since : Int))).addData r.slot r.ofs ((r.got ++ data).take r.len))).issueReads)) ∧
        (r.dead = true → r.len ≤ r.got.length + data.length → exec (.readCompletion tag .success data) s = .next
          ((s.dropTag tag).lateCompletion.issueReads)) ∧
        (∀ st, r.dead = false → st ≠ .success → exec (.readCompletion tag st data) s = .next
          ((((s.dropTag tag).incSat 0 F.PCI_CPL_ERR_BAD_STATUS).cfgSet 0x104 (cplAer st)).readFails { r with got := r.got ++ data } (cplCause st))))) ∧
    (SMap.find? s.front.reads tag = none → exec (.completionTimeout tag) s = .next s) ∧
    (SMap.find? s.front.reads tag = some r → s.ctoUs ≠ 0 →
      let u := (s.dropTag tag).modFront fun f => { f with
        deadTags := (f.deadTags.filter fun d => s.plat.time < d.2) ++ [(tag, s.plat.time + 1000 * s.ctoUs)] }
      (r.dead = true → exec (.completionTimeout tag) s = .next u.issueReads) ∧
      (r.dead = false → exec (.completionTimeout tag) s = .next
        ((((u.incSat 0 F.PCI_CPL_ERR_TIMEOUTS).cfgSet 0x104 0x4000).irq 0 0x0B 3).readFails r 1))) ∧
    (s.bme = false → exec .busMasterEnableClear s = .next s) ∧
    (s.bme = true → s.cfgRaw 0x04 0 = s.cfgRaw 0x04 0x00100000 → ∃ t, exec .busMasterEnableClear s = .next t ∧ t.bme = false ∧
      t.front.bmeStall = true ∧ (∀ e ∈ t.front.reads, e.2.dead = true) ∧
      t.front.readQ = ((s.front.reads.filter fun e => !e.2.dead).map fun e => { e.2 with got := [] }) ++ s.front.readQ ∧
      t.pr F.DMA_STS_STALLED = 1 ∧ t.chans = s.chans) ∧
    (s.bme = true → exec .busMasterEnableSet s = .next s) ∧
    (s.bme = false → s.front.bmeOver = false → exec .busMasterEnableSet s = .next
      (let u := (s.cfgPut 0x04 (s.cfgRaw 0x04 0x00100000 + 4)).modFront fun f => { f with bmeStall := false, held := [] }
      (State.pw { u with out := s.out ++ s.front.held } F.DMA_STS_STALLED 0).issueReads)) ∧
    (s.front.bmeStall = false → exec .bmeExpired s = .next s) ∧
    (s.front.bmeStall = true → ∃ t, exec .bmeExpired s = .next t ∧ t.front.bmeOver = true ∧ t.front.cfs = true) ∧
    (∀ off be wr, s.linkUp = false → exec (.configurationRequest off be wr) s = .next s) ∧
    (∀ off be wr, s.linkUp = true → s.front.flr = true → exec (.configurationRequest off be wr) s = .next (s.answer .retryStatus)) ∧
    (∀ off be, s.linkUp = true → s.front.flr = false → exec (.configurationRequest off be none) s = .next
      (s.answer (.readData (leBytes 4 (s.cfgRead (off / 4 * 4)))))) ∧
    (∀ off (v : Word), s.linkUp = true → s.front.flr = false → off % 4 = 0 → off ≠ 0x04 → off ≠ 0x78 →
      exec (.configurationRequest off 0xF (some v)) s = .next ((s.cfgWrite off v.toNat (byteMask 15)).pumpMsix))

/-- WINDOW_WRITE, WINDOW_READ and MSIX_VECTOR_UNMASK. An unpowered channel is met as a fenced one (DESIGN CHOICE, log 21). -/
def Obligations.WindowAndMessagesReachTheirTarget : Prop :=
  ∀ (s : State) (ofs : Nat) (data : List (Option Byte)) (len : Nat),
    let e := s.winPage (ofs / 0x200000)
    let raw := s.tget .winActive 0 (ofs / 0x200000)
    let ok := s.linkUp = true ∧ s.mse = true ∧ s.front.flr = false ∧ s.front.q4 = [] ∧ data.length ≤ 512
    (s.linkUp = false → exec (.windowRead ofs len) s = .next s ∧ exec (.windowWrite ofs data) s = .next s) ∧
    (s.linkUp = true → 512 < data.length → exec (.windowWrite ofs data) s = .next (s.cfgSet 0x104 0x40000)) ∧
    (s.linkUp = true → s.mse = false ∨ s.front.flr = true → exec (.windowRead ofs len) s = .next (s.answer .unsupported) ∧
      (data.length ≤ 512 → exec (.windowWrite ofs data) s = .next (s.cfgSet 0x104 0x100000))) ∧
    (s.linkUp = true → s.mse = true → s.front.flr = false → s.front.q4 ≠ [] →
      (s.winWaits e false = none → exec (.windowRead ofs len) s = .next (s.modFront fun f => { f with q4 := f.q4 ++ [.read ofs raw len] })) ∧
      (s.winWaits e true = none → data.length ≤ 512 → exec (.windowWrite ofs data) s = .next
        (s.modFront fun f => { f with q4 := f.q4 ++ [.write ofs raw data] }))) ∧
    (ok → e.valid = false → exec (.windowWrite ofs data) s = .next (s.winErr ofs 1 true) ∧
      exec (.windowRead ofs len) s = .next ((s.answer (.windowData (List.replicate len 0xFF) false)).winErr ofs 1 false)) ∧
    (ok → e.valid = true → e.wp = true → exec (.windowWrite ofs data) s = .next (s.winErr ofs 2 true)) ∧
    (∀ c : Fin 16, ok → e.valid = true → e.chan = c.val →
      ((s.ch c).fence ≠ 0 ∨ (s.ch c).powered = false → (e.wp = false → exec (.windowWrite ofs data) s = .next (s.winErr ofs 3 true)) ∧
        exec (.windowRead ofs len) s = .next ((s.answer (.windowData (List.replicate len 0xFF) false)).winErr ofs 3 false)) ∧
      ((s.ch c).fence = 0 → (s.ch c).powered = true → (s.ch c).st = .bivouac →
        exec (.windowRead ofs len) s = .next ((s.modFront fun f => { f with q4 := [.read ofs raw len] }).startWake c 2) ∧
        (e.wp = false → exec (.windowWrite ofs data) s = .next ((s.modFront fun f => { f with q4 := [.write ofs raw data] }).startWake c 2))) ∧
      ((s.ch c).fence = 0 → (s.ch c).powered = true → (s.ch c).st ≠ .bivouac →
        (s.anyPoison c (winAddr e ofs) len = false → exec (.windowRead ofs len) s = .next
          (s.answer (.windowData (s.dramBytes c (winAddr e ofs) len) false))) ∧
        (s.anyPoison c (winAddr e ofs) len = true → exec (.windowRead ofs len) s = .next
          ((s.answer (.windowData (s.dramBytes c (winAddr e ofs) len) true)).winErr ofs 4 false)) ∧
        (e.wp = false → ∃ t, exec (.windowWrite ofs data) s = .next t ∧ t.dram = (s.dramWrite c (winAddr e ofs) data).dram ∧
          t.poison = (s.dramWrite c (winAddr e ofs) data).poison ∧ t.chans = s.chans))) ∧
    (∀ kind, 1 ≤ kind → kind ≤ 4 → ∀ b, ∀ t, t = s.winErr ofs kind b → t.dram = s.dram ∧ t.poison = s.poison ∧ t.chans = s.chans ∧
      t.pr F.WIN_ERR_KIND_KIND = kind ∧ t.pr F.WIN_ERR_KIND_WRITE = b2n b ∧
      t.pr F.WIN_ERR_COUNT = min (s.pr F.WIN_ERR_COUNT + 1) (2 ^ F.WIN_ERR_COUNT.width - 1)) ∧
    (∀ v, 96 ≤ v → exec (.msixVectorUnmask v) s = .next s) ∧
    (∀ v, v < 96 → let m := s.tget .msix 0 (4 * v + 3)
      let u := s.tput .msix 0 (4 * v + 3) (m - m % 2)
      (SMap.get s.front.pba v false = false ∨ s.msixOn = false → exec (.msixVectorUnmask v) s = .next u) ∧
      (SMap.get s.front.pba v false = true → s.msixOn = true → exec (.msixVectorUnmask v) s = .next
        ((u.modFront fun f => { f with pba := SMap.erase f.pba v }).msix v)))

/-- R15: a closed fence reopens only by Channel Service restore or PORST#. -/
def Obligations.FencesReopenOnlyByRestoreOrPorst : Prop :=
  ∀ (s t : State) (c : Fin 16), step s = .next t → (s.ch c).fence ≠ 0 → (t.ch c).fence = 0 →
    match s.pending with
    | .powerOnFillDone d _ :: _ | .channelImageLoaded d _ :: _ => d = c ∧ ∃ k, (s.ch c).svc = some (k, 3)
    | .porstAssert :: _ | .brownout _ :: _ | .portPllLoss :: _ | .referenceLoss :: _ => True
    | _ => False

/-- R371: the channel is not released, TRAIN_FAIL is set, the fence closes with cause 8, and the channel is ISOLATED (state code 6). -/
def Obligations.TrainingFailureFencesTheChannel : Prop :=
  ∀ (s : State) (c : Fin 16), s.alive c = true → s.cr c F.DRC_STS_FILL_BUSY = 1 → (s.ch c).fence = 0 → s.cr c F.STW_STS_RUN = 0 →
    (s.ch c).svc = none → ∃ t, exec (.trainingFailure c) s = .next t ∧ bitAt (t.cr c (F.HDR_IRQ_RAW 0x48)) 0 = true ∧ (t.ch c).fence = 8 ∧
      (t.ch c).st = .isolated ∧ (t.ch c).st.code = 6 ∧ t.cr c F.STW_STS_RUN = 0

/-- PORST_ASSERT, BROWNOUT, PORT_PLL_LOSS, REFERENCE_LOSS, PORST_DEASSERT, the early warning, CHANNEL_PLL_LOSS, XO_STOP, L1_2_EXIT, THERMAL_SAMPLE
and THERMAL_TRIP. -/
def Obligations.PorstRailsClocksAndTemperature : Prop :=
  ∀ (s : State) (c : Fin 16),
    (∀ e ∈ ([(.porstAssert, F.RST_CAUSE_PIN), (.brownout 0, F.RST_CAUSE_BROWNOUT), (.brownout 5, F.RST_CAUSE_BROWNOUT),
        (.portPllLoss, F.RST_CAUSE_PLL), (.referenceLoss, F.RST_CAUSE_XO)] : List (Instr × Fld)),
      s.plat.porst = false → s.pr F.CLK_XO_STS_XO50_RUN = 1 → ∃ t, exec e.1 s = .next t ∧ t.plat.porst = true ∧ t.pr e.2 = 1 ∧
        (∀ f ∈ [F.RST_CAUSE_PIN, F.RST_CAUSE_BROWNOUT, F.RST_CAUSE_PLL, F.RST_CAUSE_XO], f ≠ e.2 → t.pr f = s.pr f % 2 ^ f.width) ∧
        FieldsKept State.reset t (FieldsOf 0 [F.RST_CAUSE_PIN, F.RST_CAUSE_BROWNOUT, F.RST_CAUSE_RAIL, F.RST_CAUSE_PLL, F.RST_CAUSE_XO,
          F.TMP_STS_TRIPPED, F.SEC_STS_DBGEN]) ∧
        t.ch c = Chan.off ∧ t.dram = [] ∧ t.front = State.reset.front ∧ t.sec.flash = s.sec.flash ∧ t.sec.keys = [] ∧ s.out <+: t.out) ∧
    (∃ t, exec (.brownout 1) s = .next t ∧ t.pr F.RST_CAUSE_PIN = 1 ∧ t.pr F.RST_CAUSE_BROWNOUT = 0 ∧ t.pr F.RST_CAUSE_PLL = 0 ∧
      t.pr F.RST_CAUSE_XO = 0 ∧ t.plat.porst = true ∧ (t.ch c).fence = 0) ∧
    (∀ discp ldrq, s.plat.porst = false → exec (.porstDeassert discp ldrq) s = .next s) ∧
    (∀ discp ldrq, s.plat.porst = true → ∃ t, exec (.porstDeassert discp ldrq) s = .next t ∧ t.plat.porst = false ∧ t.plat.time = 0 ∧
      t.cr c F.CHN_STS_DISC_PRESENT = b2n (bitAt discp c.val) ∧ t.pr F.CLK_PLL_STS_PCIE = 1 ∧ t.pr F.CLK_XO_STS_XO50_RUN = 1 ∧
      t.cr c (F.HDR_IRQ_RAW 0x00) = s.cr c (F.HDR_IRQ_RAW 0x00) ∧ t.chans = s.chans) ∧
    (s.plat.porst = false → ∀ r : Fin 6, ∃ u, u = (s.wrs 0 [(F.PWR_RAIL_STS_WARN, s.pr F.PWR_RAIL_STS_WARN ||| 2 ^ r.val),
        (F.PWR_RAIL_STS_GOOD, s.pr F.PWR_RAIL_STS_GOOD &&& (63 - 2 ^ r.val))]).irq 0 0x01 1 ∧
      exec (.powerEarlyWarning (some r)) s = .next (if r = 1 then u else u.earlyWarning)) ∧
    (s.plat.porst = false → s.pr F.PWR_PFW_CTL_EN = 0 → exec (.powerEarlyWarning none) s = .next s) ∧
    (s.plat.porst = false → ∃ t, exec .earlyWarningEnd s = .next t ∧ t.plat.pfw = false ∧ t.pr F.PWR_RAIL_STS_WARN = 0 ∧
      t.pr F.PWR_RAIL_STS_GOOD = 63 ∧ FieldsKept s t (FieldsOf 0 [F.PWR_RAIL_STS_WARN, F.PWR_RAIL_STS_GOOD]) ∧ t.chans = s.chans) ∧
    (s.alive c = true → (s.ch c).st ≠ .bivouac → exec (.channelPllLoss c) s = .next (s.closeFence c 6)) ∧
    ((s.ch c).st ≠ .bivouac → exec .xoStop s = .next s) ∧
    (s.plat.porst = false → s.plat.tripped = false → s.pr F.PCI_LINK_STS_DL_UP = 1 → s.front.inReset = false → bitAt (s.cfgRaw 0x228 0) 0 = true →
      s.pr F.CLK_XO_CTL ≠ 0 → s.pr F.CLK_XO_STS_XO32K_RUN = 1 → s.pr F.CLK_XO_STS_XO50_RUN = 1 →
      (∀ d : Fin 16, (s.ch d).st = .bivouac ∧ (s.ch d).waking = false) → ∃ t, exec .xoStop s = .next t ∧ t.pr F.CLK_XO_STS_XO50_RUN = 0 ∧
        t.pr F.AON_TIME_SRC = 1 ∧ t.pr F.CLK_XO_STS_STOPS = min (s.pr F.CLK_XO_STS_STOPS + 1) (2 ^ F.CLK_XO_STS_STOPS.width - 1)) ∧
    (∃ t, exec .l12Exit s = .next t ∧ t.pr F.PCI_LINK_STS_L1_STATE = 0 ∧ (s.pr F.CLK_XO_STS_XO50_RUN ≠ 1 → t.pr F.AON_TIME_SRC = 0 ∧
      t.pr F.CLK_XO_STS_XO50_RUN = 1)) ∧
    (∀ p a b : Int, s.plat.porst = false → ∃ t, exec (.thermalSample p a b) s = .next t ∧ t.pr F.TMP_TEMP_PORT = ofSigned 16 p ∧
      t.pr F.TMP_TEMP_A = ofSigned 16 a ∧ t.pr F.TMP_TEMP_B = ofSigned 16 b) ∧
    (s.plat.porst = false → s.plat.tripped = false → ∃ t, exec .thermalTrip s = .next t ∧ t.plat.tripped = true ∧ t.front.inReset = true ∧
      t.plat.feUp = false ∧ t.pr F.TMP_STS_TRIPPED = 1 ∧ t.pr F.CLK_PLL_STS_PCIE = 0 ∧ (t.ch c).fence = (s.ch c).fence)

/-- CHANNEL_POWER_UP, POWER_ON_FILL_DONE, CHANNEL_IMAGE_LOADED, BIVOUAC_ENTRY, the wakes, WAKE_COMPLETE, PARKING_DONE and COAST_WAIT_EXPIRY. -/
def Obligations.ChannelsPowerUpSleepAndWake : Prop :=
  ∀ (s : State) (c : Fin 16),
    (s.plat.porst = false → s.plat.tripped = false → (s.ch c).powered = false → (s.ch c).fence = 0 →
      (∀ d : Fin 16, d.val < c.val → (s.ch d).powered = true ∨ (s.ch d).fence ≠ 0) → ∃ t, exec (.channelPowerUp c) s = .next t ∧
        (t.ch c).powered = true ∧ t.cr c F.DRC_STS_FILL_BUSY = 1 ∧ ∀ d, d ≠ c → t.ch d = s.ch d) ∧
    ((s.ch c).powered = true ∨ s.plat.porst = true → exec (.channelPowerUp c) s = .next s) ∧
    (∀ ms, s.alive c = true → s.cr c F.DRC_STS_FILL_BUSY = 1 → (s.ch c).svc = none → ∃ u : State, exec (.powerOnFillDone c ms) s = .next (u.release c) ∧
      (∀ a, a < 2 ^ 33 → u.dramByte c a = 0) ∧ (∀ d a, d ≠ c → a < 2 ^ 33 → u.dramByte d a = s.dramByte d a) ∧
      u.cr c F.DRC_STS_TRAINED = 1 ∧ u.cr c F.DRC_STS_FILL_BUSY = 0 ∧ u.chans = s.chans) ∧
    (∀ ms b, s.alive c = true → s.cr c F.DRC_STS_FILL_BUSY = 1 → (s.ch c).svc = none → s.plat.imagesUp = true → (s.ch c).fence = 0 →
      s.cr c F.STW_STS_RUN = 0 → s.cr c F.STW_STS_STOPPED = 0 → s.activeBundle = some b → ∃ t, exec (.powerOnFillDone c ms) s = .next t ∧
        t.cr c F.STW_STS_RUN = 1 ∧ t.cr c F.DRC_STS_TRAINED = 1 ∧ t.cr c F.DRC_STS_FILL_BUSY = 0) ∧
    (∀ k, s.alive c = true → (s.ch c).svc = some (k, 4) → exec (.channelImageLoaded c true) s = .next (s.svcLoaded c 4) ∧
      exec (.channelImageLoaded c false) s = .next (s.closeFence c 8)) ∧
    (∀ k b, s.alive c = true → (s.ch c).svc = some (k, 4) → s.activeBundle = some b → ∃ t, exec (.channelImageLoaded c true) s = .next t ∧
      t.cr c F.STW_STS_RUN = 1 ∧ t.cr c F.STW_STS_STOPPED = 0 ∧ (t.ch c).svc = none ∧ (t.ch c).fence = (s.ch c).fence) ∧
    (∀ k b, (s.ch c).svc = some (k, 3) → s.activeBundle = some b → ((s.svcLoaded c 3).ch c).fence = 0 ∧
      ((s.svcLoaded c 3).ch c).st = .notMounted ∧ (s.svcLoaded c 3).cr c F.STW_STS_RUN = 1) ∧
    (s.idleChannel c = false → exec (.bivouacEntry c) s = .next s) ∧
    (s.idleChannel c = true → ∃ t, exec (.bivouacEntry c) s = .next t ∧ (t.ch c).st = .bivouac ∧ t.cr c F.STW_STS_RUN = 0 ∧
      t.cr c F.STW_STS_STOPPED = 1 ∧ t.cr c F.DRC_STS_SELF_REFRESH = 1 ∧ t.cr c F.LDI_STS_KILL_PIN = 1 ∧ t.dram = s.dram ∧
      ∀ d, d ≠ c → t.ch d = s.ch d) ∧
    (∀ src, src < 8 → (s.ch c).st ≠ .bivouac ∨ (s.ch c).waking = true → s.startWake c src = s) ∧
    (∀ src, src < 8 → (s.ch c).st = .bivouac → (s.ch c).waking = false → ((s.startWake c src).ch c).waking = true ∧
      (s.startWake c src).pr F.AON_WAKE_LAST_CHANNEL = c.val ∧ (s.startWake c src).pr F.AON_WAKE_LAST_SOURCE = src) ∧
    (∀ mask, exec (.pwrWake mask) s = .next (allChans.foldl (fun (s : State) (d : Fin 16) =>
      if bitAt mask d.val then s.startWake d 6 else s) s)) ∧
    (∀ level, s.plat.porst = false → s.cr c F.CHN_STS_DISC_PRESENT ≠ b2n level → exec (.discPresentChange c level) s = .next
      (((((s.cw c F.CHN_STS_DISC_PRESENT (b2n level)).irq 0 0x04 0).cirq c 0x00 0).event 7 5 0xC0).startWake c 4)) ∧
    (s.plat.porst = false → s.cr c F.CHN_STS_LDRQ = 0 → exec (.loadRequestChange c true) s = .next
      ((((((s.cw c F.CHN_STS_LDRQ 1).irq 0 0x04 1).cirq c 0x00 1).event 7 2 0xC0).wakeHost).startWake c 5)) ∧
    (s.plat.porst = false → s.cr c F.CHN_STS_LDRQ = 1 → exec (.loadRequestChange c false) s = .next ((s.cw c F.CHN_STS_LDRQ 0).startWake c 5)) ∧
    (s.alive c = true → (s.ch c).fence = 0 → (s.ch c).st = .bivouac → (s.ch c).waking = true → s.front.q2 = [] → s.front.q4 = [] →
      ∃ t, exec (.wakeComplete c) s = .next t ∧ (t.ch c).st = (if (s.ch c).keysLost then .keysLost else .notMounted) ∧
        (t.ch c).waking = false ∧ t.cr c F.DRC_STS_SELF_REFRESH = 0 ∧ t.cr c F.STW_STS_RUN = 1 ∧ t.dram = s.dram) ∧
    ((s.ch c).fence = 0 → exec (.parkingDone c) s = .next s) ∧
    ((s.ch c).fence ≠ 0 → exec (.parkingDone c) s = .next ((s.assertKill c 33).showSafe c)) ∧
    (s.spinSt c = 0 ∨ s.spinSt c = 8 → exec (.coastWaitExpiry c) s = .next ((s.modSpin c fun x => { x with rest := true }).showSafe c)) ∧
    (s.spinSt c ≠ 0 → s.spinSt c ≠ 8 → exec (.coastWaitExpiry c) s = .next s)

/-- CHECKPOINT_DUE, CHECKPOINT_NOW, CHECKPOINT_DONE, MAP_PROBE, MISS_WALK_RETURN, EVICTION_WRITEBACK, LTC_RANGE_INVALIDATION and
LTC_ADDRESS_INVALIDATION. -/
def Obligations.CheckpointsProbesAndTheCache : Prop :=
  ∀ (s : State) (c : Fin 16) (src : Src),
    (∀ d, (s.ch c).disc = some d →
      let due := d.direct = false ∧ (s.ch c).active = true ∧ (s.ch c).wr.ckpt = none ∧
        (s.cr c F.MAP_CKPT_CTL_INTERVAL * 2 ^ 30 ≤ (s.ch c).wr.since ∨ 1000 * s.cr c F.MAP_CKPT_CTL_EST_LIMIT ≤ s.replayMs c)
      (¬ due → exec (.checkpointDue c) s = .next s) ∧
      (due → exec (.checkpointDue c) s = .next ((s.startCheckpoint c 1).progress c)) ∧
      (d.direct = false → d.writable = true → (s.ch c).keysLost = false → (s.ch c).st ≠ .mechStopped → 4 ≤ d.anchorsLeft → d.mapPoison = false →
        (s.ch c).wr.ckpt = none → s.running (chRg c) 0x40 = true →
        let t := s.startCheckpoint c 1
        (t.ch c).wr.ckpt = some ⟨1, d.ckptNum + 1, .settling, 0, 0, 0, 0⟩ ∧ (t.ch c).wr.since = 0 ∧ t.cr c F.MAP_STS_CKPT_ACTIVE = 1 ∧
          t.dram = s.dram ∧ ∀ e, e ≠ c → t.ch e = s.ch e)) ∧
    (s.reach src (chRg c) 0x40 = .open_ →
      let u := s.unmark (chRg c) 0x40 0x100 false
      ((s.ch c).active = false → exec (.checkpointNow src c) s = .next u) ∧
      ((s.ch c).active = true → exec (.checkpointNow src c) s = .next ((u.startCheckpoint c 1).progress c))) ∧
    (∀ k, (s.ch c).wr.ckpt = some k →
      (k.stage ≠ .writing ∨ (s.ch c).wr.mapDone = false → exec (.checkpointDone c) s = .next (s.progress c)) ∧
      (∀ d, k.stage = .writing → (s.ch c).wr.mapDone = true → (s.ch c).disc = some d → d.writable = true → d.direct = false → 4 ≤ d.anchorsLeft →
        ∃ u : State, exec (.checkpointDone c) s = .next (u.progress c) ∧ (u.ch c).wr.ckpt = none ∧ u.cr c F.MAP_STS_CKPT_ACTIVE = 0 ∧
          bitAt (u.cr c (F.HDR_IRQ_RAW 0x40)) 0 = true ∧ u.cr c F.MAP_CKPT_NUM = k.num % 2 ^ 32 ∧ u.cr c F.MAP_CKPT_PCN = k.pcn % 2 ^ 32 ∧
          (∃ e, (u.ch c).disc = some e ∧ e.anchNext = d.anchNext + 2 ∧ e.anchorNum = d.anchorNum + 1 ∧ e.ckptNum = k.num ∧ e.ckptSeq = k.seq ∧
            e.ckptPcn = k.pcn ∧ e.sealed_ = (k.reason == 3)) ∧ u.dram = s.dram ∧ ∀ e, e ≠ c → u.ch e = s.ch e)) ∧
    (∀ lba, s.reach src (chRg c) 0x40 = .open_ → lba < 2 ^ 31 → ∃ t, exec (.mapProbe src c lba) s = .next t ∧
      t.cr c F.MAP_PROBE_LBA_LBA = lba ∧ t.cr c F.MAP_PROBE_STS_DONE = 1 ∧
      t.cr c F.MAP_PROBE_STS_SOURCE = (if ((s.ch c).wr.staged lba).isSome then 1 else match (s.ch c).map.cached lba with
        | some e => if e.hole then 0 else 2
        | none => if (recAt (s.ch c).map.recs lba).isSome then 3 else 0) ∧
      FieldsKept s t (FieldsOf (chRg c) ([F.MAP_PROBE_LBA_LBA, F.MAP_PROBE_STS_DONE, F.MAP_PROBE_STS_SOURCE] ++ (List.range 4).map F.MAP_PROBE_REC)) ∧
      t = { s with regs := t.regs, parity := t.parity }) ∧
    (s.servable c = true → s.running (chRg c) 0x41 = true →
      ((s.ch c).map.evb = [] → exec (.evictionWriteback c) s = .next s) ∧
      (∀ e rest, (s.ch c).map.evb = e :: rest → exec (.evictionWriteback c) s = .next (s.modMap c fun m =>
        { m with evb := rest, recs := recPut m.recs e.ext, miss := staleMiss m.miss e.ext.start e.ext.len })) ∧
      ∀ g, ((s.ch c).map.miss.find? (·.granule == g) = none → exec (.missWalkReturn c g) s = .next s) ∧
        (∀ x, (s.ch c).map.miss.find? (·.granule == g) = some x →
          exec (.missWalkReturn c g) s = .next (missReturn c g s) ∧
          (x.waiting = [] → (s.ch c).map.blocked = [] → ((missReturn c g s).ch c).map.miss = (s.ch c).map.miss.filter (·.granule != g) ∧
            (missReturn c g s).cr c F.LTC_STALE = if x.stale then min (s.cr c F.LTC_STALE + 1) 65535 else s.cr c F.LTC_STALE))) ∧
    (s.reach src (chRg c) 0x41 = .open_ →
      (s.cr c F.LTC_INV_LEN ≠ 0 → ∃ t, exec (.ltcRangeInvalidation src c) s = .next t ∧ t.cr c F.LTC_INV_CTL_ACK = 1 ∧
        (∀ x ∈ (t.ch c).map.ltc, ∀ e, x.entry = some e → e.ext.meets (s.cr c F.LTC_INV_LBA) (s.cr c F.LTC_INV_LEN) = false) ∧
        t.dram = s.dram ∧ ∀ e, e ≠ c → t.ch e = s.ch e) ∧
      (s.cr c F.LTC_INV_LEN = 0 → ∃ t, exec (.ltcAddressInvalidation src c) s = .next t ∧ t.cr c F.LTC_INV_CTL_ACK = 1 ∧
        (∀ x ∈ (t.ch c).map.ltc, ∀ e, x.entry = some e → e.ext.has (s.cr c F.LTC_INV_LBA) = false) ∧
        t.dram = s.dram ∧ ∀ e, e ≠ c → t.ch e = s.ch e))

/-- CLUSTER_ASSEMBLY, ASSEMBLY_IDLE_TIMEOUT, CLUSTER_COMMITMENT, WRITE_SESSION_START, WRITE_CLOCK_LOCK and VERIFY_VERDICT. -/
def Obligations.ClustersAreAssembledCommittedAndJudged : Prop :=
  ∀ (s : State) (c : Fin 16),
    let w := (s.ch c).wr
    (s.running (chRg c) 0x38 = false → exec (.clusterAssembly c) s = .next s) ∧
    (s.mayAssemble c = false → (∀ d, (s.ch c).disc = some d → d.direct = false) → exec (.clusterAssembly c) s = .next s) ∧
    (s.running (chRg c) 0x38 = true → ∀ d, (s.ch c).disc = some d → d.keyed = true ∨ d.wantKey = none →
      ∃ t, exec (.clusterAssembly c) s = .next t ∧ (t.ch c).wr.placed = w.placed ∧ (t.ch c).wr.session = w.session ∧ (t.ch c).wr.seq = w.seq ∧
        t.cr c F.WRC_WPTR = s.cr c F.WRC_WPTR ∧ (t.ch c).wr.blocks.map (·.id) = w.blocks.map (·.id) ∧
        (∃ l, (t.ch c).wr.ready = w.ready ++ l) ∧ t.dram = s.dram ∧ ∀ e, e ≠ c → t.ch e = s.ch e) ∧
    (exec (.assemblyIdleTimeout c) s = .next (clusterAssembly c (s.modWr c fun x => { x with forceTo := x.nextBlock }))) ∧
    (∀ idle : Bool, ∀ d b, (s.ch c).disc = some d → d.direct = false → d.keyed = false → d.wantKey = none → s.mayAssemble c = true →
      idle = true ∨ s.running (chRg c) 0x38 = true → w.blocks = [b] → b.taken = false → b.bad = false →
      (if idle then b.id < w.nextBlock else b.id < w.forceTo) → w.cur = none → w.openGroup = none → w.ready = [] →
      ∃ t k, exec (if idle then .assemblyIdleTimeout c else .clusterAssembly c) s = .next t ∧ (t.ch c).wr.ready = [k] ∧ k.kind = .data ∧
        k.pos = 0 ∧ k.blocks = [b.id] ∧ k.entries.map (·.lba) = [b.lba] ∧ k.supersedes = 0 ∧ (t.ch c).wr.cur = none ∧
        (t.ch c).wr.blocks = [{ b with taken := true }]) ∧
    ((w.session ≠ .armed ∧ w.session ≠ .writing) ∨ (∀ p ∈ w.placed, p.begun = true) → exec (.clusterCommitment c) s = .next s) ∧
    (∀ p, w.session = .armed ∨ w.session = .writing → w.placed.find? (fun q => !q.begun) = some p →
      (w.session = .armed → s.mayWrite c = false ∨ s.powersSet c = false →
        exec (.clusterCommitment c) s = .next ((s.returnUnbegun c).setSession c .idle)) ∧
      (w.session = .writing ∨ (s.mayWrite c = true ∧ s.powersSet c = true) → s.slipFirst c p = false → s.tpyNeeds c (posOf p.pcn).layer = false →
        p.dead = false → p.content.kind ≠ .pad →
        let u := (s.begin_ c p).setSession c .writing
        (u.ch c).wr.placed = w.placed.map (fun q => if q.seq == p.seq then { q with begun := true } else q) ∧ u.cr c F.WRC_STS_STATE = 2 ∧
        u.cr c F.WRC_WPTR = s.cr c F.WRC_WPTR ∧
        (∀ v, u.commitNext c false = some v → exec (.clusterCommitment c) s = .next v ∧ (v.ch c).wr.session = .writing) ∧
        (u.commitNext c false = none → ∃ t, exec (.clusterCommitment c) s = .next t ∧ (t.ch c).wr.session = .ending ∧
          (t.ch c).wr.placed = (u.ch c).wr.placed ∧ t.cr c F.WRC_WPTR = u.cr c F.WRC_WPTR))) ∧
    (∀ v link, s.commitNext c link = some v → ∃ k n, w.next? = some (k, n) ∧ k ∈ w.ready ∧ (v.ch c).wr.ready = w.ready.erase k ∧
      (v.ch c).wr.seq = w.seq + 1 ∧ v.cr c F.WRC_WPTR = userFrom (s.cr c F.WRC_WPTR + 1) % 2 ^ 32 ∧
      (v.ch c).wr.placed = w.placed ++ [⟨s.cr c F.WRC_WPTR, w.seq, s.plat.time, link, { k with contSeq := n }, false, false⟩]) ∧
    (s.running (chRg c) 0x30 = true → s.running (chRg c) 0x31 = true → ∀ d, (s.ch c).disc = some d →
      let may := (w.session = .idle ∨ w.session = .ending) ∧ d.writable = true ∧ s.mayWrite c = true ∧ w.enough = true ∧ (s.ch c).fence = 0 ∧
        s.mayAddWriter c = true ∧ (s.ch c).rd.running = none ∧ (s.ch c).st ≠ .mechStopped ∧ s.switching c = false
      let p := posOf (s.cr c F.WRC_WPTR)
      (¬ may → exec (.writeSessionStart c) s = .next s) ∧
      (∀ v, may → d.revision ≠ 0 → d.direct = false ∨ d.newSlips.length < slipMax → s.tpyNeeds c p.layer = false → (s.ch c).rd.writeAged = false →
        (((s.stageLevels c (s.tpyLevels c p.layer p.zone)).commitLevels c).modWr c fun x => { x with
          trail := List.replicate 8 Trail.fresh, gone := [] }).commitNext c true = some v →
        exec (.writeSessionStart c) s = .next (v.setSession c .armed) ∧ ((v.setSession c .armed).ch c).wr.session = .armed ∧
          (v.setSession c .armed).cr c F.WRC_STS_STATE = 1)) ∧
    (exec (.writeClockLock c) s = .next (if s.cr c F.WOB_STS_PLL_LOCK = 0 then s else s.modWr c fun x => { x with clockLock := true })) ∧
    (∀ signals p rest, s.running (chRg c) 0x33 = true → w.placed = p :: rest →
      (p.begun = false → exec (.verifyVerdict c signals) s = .next (s.progress c)) ∧
      (p.begun = true → p.dead = false →
        let mqs := (s.clusterErrors c p signals).map (markQuality (s.cr c F.VFY_EMAX))
        let failed := s.cr c F.VFY_CTL_EN = 1 ∧ s.cr c F.VFY_CTL_LIMIT < (mqs.filter (· < s.cr c F.VFY_CTL_THR)).length
        let stands := ¬ failed ∨ s.cr c F.VFY_CTL_REPL_EN = 0
        ∃ u : State, exec (.verifyVerdict c signals) s = .next (u.progress c) ∧
          (s.cr c F.VFY_CTL_EN = 1 → u.cr c F.VFY_LAST_PCN = p.pcn % 2 ^ 32 ∧ (u.cr c F.VFY_LAST_FAILED = 1 ↔ failed)) ∧
          (stands ∨ s.cr c F.VFY_CTL_MAX_REPL ≤ p.content.repl → (u.ch c).wr.placed = rest ∧
            ∀ b ∈ (u.ch c).wr.blocks, p.content.blocks.contains b.id = true → b.taken = true → ({ w with placed := rest } : WriteChain).holds b.id = true) ∧
          (stands → (u.ch c).wr.weak = w.weak) ∧
          (¬ stands → s.cr c F.VFY_CTL_MAX_REPL ≤ p.content.repl → (u.ch c).wr.weak = w.weak ++
            [⟨p.pcn, mqs.foldl min 255, p.content.repl, (posOf p.pcn).layer, (posOf p.pcn).zone⟩]) ∧
          (¬ stands → p.content.repl < s.cr c F.VFY_CTL_MAX_REPL → (∀ d, (s.ch c).disc = some d → d.direct = false) →
            (u.ch c).wr.placed = rest ∧ (u.ch c).wr.blocks = w.blocks ∧
            (u.ch c).wr.ready = (({ w with placed := rest } : WriteChain).queueReplacement [p.replacement true]).ready)))

/-- WRITE_STOP, ORDERLY_STOP, OFF_TRACK, DEFOCUS, WOBBLE_PLL_UNLOCK, ADIP_LOSS, LASER_DRIVER_FAULT, KILL_LINE_EXTERNAL, LDI_KILL and
KILL_LATCH_CLEAR. -/
def Obligations.StopsCutAndTheKillLineLatches : Prop :=
  ∀ (s : State) (c : Fin 16) (row : Nat) (src : Src) (b : Byte),
    let w := (s.ch c).wr
    exec (.offTrack c row) s = .next (s.safetyStop c row 16) ∧ exec (.defocus c row) s = .next (s.safetyStop c row 17) ∧
    (∀ code, w.session = .idle → s.safetyStop c row code = s) ∧
    (∀ code p, code < 256 → w.session = .writing ∨ w.session = .stopping ∨ w.session = .ending → w.placed.reverse.find? (·.begun) = some p →
      let t := s.safetyStop c row code
      t.cr c F.LDI_STS_KILL_LATCH = 1 ∧ t.cr c F.LDI_STS_KILL_PIN = 1 ∧ code ∈ (t.ch c).wr.killWhy ∧ (t.ch c).wr.session = .idle ∧
      (t.ch c).wr.stopping = none ∧ t.cr c F.WRC_STS_STATE = 0 ∧ t.cr c F.WRC_STS_LAST_STOP = code ∧
      t.cr c F.WRC_WPTR = userFrom (afterCut p.pcn row) % 2 ^ 32 ∧ t.cr c F.WRC_LAST_SCAR = p.pcn % 2 ^ 32 ∧
      (t.ch c).wr.placed = (w.placed.filter (·.begun)).filter (fun q => q.seq != p.seq) ∧
      (t.ch c).wr.ready = (if p.dead then [] else [p.back]) ++ ((w.placed.filter fun q => !q.begun && !q.dead).map Placed.back ++ w.dropReserved.ready) ∧
      t.dram = s.dram ∧ ∀ e, e ≠ c → t.ch e = s.ch e) ∧
    (s.cr c F.WOB_STS_PLL_LOCK = 0 → exec (.wobblePllUnlock c row) s = .next s) ∧
    (s.cr c F.WOB_STS_PLL_LOCK = 1 → ∃ u : State, exec (.wobblePllUnlock c row) s = .next (u.safetyStop c row 19) ∧ u.cr c F.WOB_STS_PLL_LOCK = 0 ∧
      bitAt (u.cr c (F.HDR_IRQ_RAW 0x2D)) 0 = true ∧ u.ch c = { s.ch c with wr := { w with clockLock := false } } ∧ u.dram = s.dram) ∧
    (s.cr c F.WOB_STS_ADIP_VALID = 0 ∨ s.cr c F.WOB_STS_ADIP_FAILS < 8 → exec (.adipLoss c row) s = .next s) ∧
    (s.cr c F.WOB_STS_ADIP_VALID = 1 → 8 ≤ s.cr c F.WOB_STS_ADIP_FAILS → ∃ u : State, exec (.adipLoss c row) s = .next (u.safetyStop c row 20) ∧ u.cr c F.WOB_STS_ADIP_VALID = 0 ∧
      bitAt (u.cr c (F.HDR_IRQ_RAW 0x2D)) 1 = true ∧ u.chans = s.chans ∧ u.dram = s.dram) ∧
    (
      let new := bitAt b.toNat 0 = true ∨ bitAt b.toNat 1 = true ∨ (bitAt b.toNat 2 = true ∧ s.cr c F.LDI_STS_KILL_PIN = 0)
      (¬ new → exec (.laserDriverFault c b row) s = .next s) ∧
      (new → ∃ u : State, exec (.laserDriverFault c b row) s = .next (u.safetyStop c row 21) ∧ bitAt (u.cr c (F.HDR_IRQ_RAW 0x32)) 0 = true ∧
        u.ch c = { s.ch c with wr := { w with ldi := { w.ldi with fclr := false, clean := false, fault := true } } } ∧ u.dram = s.dram)) ∧
    (s.reach src (chRg c) 0x30 = .open_ →
      let u := s.unmark (chRg c) 0x30 0x100 false
      (w.session = .idle → exec (.writeStop src c) s = .next u) ∧
      (w.session = .armed → exec (.writeStop src c) s = .next (u.finishStop c 0 1 false)) ∧
      (w.session = .writing ∨ w.session = .stopping ∨ w.session = .ending → ∃ t, exec (.writeStop src c) s = .next t ∧
        (t.ch c).wr = { w with session := .stopping, stopping := some (w.stopCode 1 s.plat.time)
                               stopAt := if w.stopping.isSome then w.stopAt else s.plat.time } ∧ t.cr c F.WRC_STS_STATE = 3 ∧
        FieldsKept s t (FieldsOf (chRg c) [F.WRC_STS_STATE]))) ∧
    (w.stopping = none ∨ w.session ≠ .stopping → exec (.orderlyStop c row) s = .next s) ∧
    (∀ code p, w.stopping = some code → code < 256 → w.session = .stopping → w.placed.reverse.find? (·.begun) = some p →
      ∃ t, exec (.orderlyStop c row) s = .next t ∧ (t.ch c).wr.session = .idle ∧ t.cr c F.WRC_STS_LAST_STOP = code ∧
        (9 ≤ row → t.cr c F.WRC_LAST_SCAR = s.cr c F.WRC_LAST_SCAR ∧ (t.ch c).wr.placed = w.placed.filter (·.begun) ∧
          (t.ch c).wr.ready = (w.placed.filter fun q => !q.begun && !q.dead).map Placed.back ++ w.dropReserved.ready) ∧
        (row < 9 → t.cr c F.WRC_LAST_SCAR = p.pcn % 2 ^ 32 ∧ t.cr c F.WRC_WPTR = userFrom (afterCut p.pcn row) % 2 ^ 32)) ∧
    (∃ t, exec (.killLineExternal c row) s = .next t ∧ t.cr c F.LDI_STS_KILL_PIN = 1 ∧ (t.ch c).wr.ldi.held = true ∧
      (w.session ≠ .idle → t.cr c F.LDI_STS_KILL_LATCH = 1 ∧ t.cr c F.WRC_STS_LAST_STOP = 23 ∧ (t.ch c).wr.session = .idle)) ∧
    (∀ kill, s.reach src (chRg c) 0x32 = .open_ → ∃ t, exec (.ldiKill src c kill) s = .next t ∧ t.cr c F.LDI_CTL_KILL = b2n kill ∧
      (kill = false ∨ s.sessionOn c = false →
        (t.cr c F.LDI_STS_KILL_PIN = 1 ↔ kill = true ∨ s.cr c F.LDI_STS_KILL_LATCH = 1 ∨ w.ldi.held = true ∨ (s.ch c).st = .bivouac ∨
          (s.ch c).powered = false) ∧ t.chans = s.chans) ∧
      (kill = true → s.sessionOn c = true → t.cr c F.LDI_STS_KILL_PIN = 1 ∧ t.cr c F.LDI_STS_KILL_LATCH = 1 ∧ (t.ch c).wr.session = .idle ∧
        t.cr c F.WRC_STS_LAST_STOP = 23)) ∧
    (∃ t, exec (.killLatchClear c) s = .next t ∧ (t.ch c).wr.killWhy = w.killWhy.filter (fun y => !s.killGone c y) ∧ (t.ch c).wr.ldi.held = false ∧
      ((t.ch c).wr.killWhy = [] → t.cr c F.LDI_STS_KILL_LATCH = 0) ∧
      ((t.ch c).wr.killWhy ≠ [] → t.cr c F.LDI_STS_KILL_LATCH = s.cr c F.LDI_STS_KILL_LATCH))

/-- LASER_TRANSACTION, LASER_LINK_ERROR, STATUS_POLL, HOST_LASER_TRANSACTION, READ_LEVEL_WRITE, TEST_AREA_RUN and TEST_RUN_DONE. -/
def Obligations.LaserTransactionsAndTestRuns : Prop :=
  ∀ (s : State) (c : Fin 16) (src : Src),
    let l := (s.ch c).wr.ldi
    (∀ rx : Word, l.queue = [] ∨ l.busy = false → exec (.laserTransaction c rx) s = .next s) ∧
    (∀ (rx : Word) t rest, l.queue = t :: rest → l.busy = true →
      (laserOk rx.toNat = true → bitAt rx.toNat 27 = false → ∃ u : State, exec (.laserTransaction c rx) s = .next (u.laserPump c) ∧
        (u.ch c).wr.ldi.queue = rest ∧ (u.ch c).wr.ldi.busy = false ∧ (u.ch c).wr.ldi.last = some t ∧ (u.ch c).wr.ldi.good = l.good + 1 ∧
        (t.host = some 0 ∨ t.host = some 2 → u.cr c F.LDI_RSP_DATA = (if t.rd then bitsAt rx.toNat 8 16 else 0) ∧ u.cr c F.LDI_RSP_DONE = 1 ∧
          u.cr c F.LDI_RSP_CRC_ERR = 0)) ∧
      (laserOk rx.toNat = false → ∃ u : State, exec (.laserTransaction c rx) s = .next (u.laserPump c) ∧ (u.ch c).wr.ldi.busy = false ∧
        u.cr c F.LDI_STS_CRC_ERRS = min (s.cr c F.LDI_STS_CRC_ERRS + 1) 255 ∧
        (t.fails < 2 → (u.ch c).wr.ldi.queue = { t with fails := t.fails + 1 } :: rest ∧ (u.ch c).wr.ldi.down = l.down) ∧
        (2 ≤ t.fails → (u.ch c).wr.ldi.down = true ∧ (t.host.isSome → u.cr c F.LDI_RSP_CRC_ERR = 1 ∧ u.cr c F.LDI_RSP_DONE = 1)))) ∧
    (∀ row, (l.down = false → exec (.laserLinkError c row) s = .next s) ∧
      (l.down = true → ∃ t, exec (.laserLinkError c row) s = .next t ∧ (t.ch c).wr.ldi.down = false ∧ bitAt (t.cr c (F.HDR_IRQ_RAW 0x32)) 1 = true ∧
        t.cr c F.LDI_STS_KILL_PIN = 1 ∧ t.cr c F.LDI_STS_KILL_LATCH = 1 ∧ 22 ∈ (t.ch c).wr.killWhy ∧ (t.ch c).wr.session = .idle)) ∧
    (s.running (chRg c) 0x32 = true →
      ((s.ch c).wr.session = .idle ∨ l.queue ≠ [] → exec (.statusPoll c) s = .next s) ∧
      ((s.ch c).wr.session ≠ .idle → l.queue = [] → l.busy = false → s.cr c F.LDI_CTL_LINK_EN = 1 → exec (.statusPoll c) s = .next
        ((s.modLdi c fun x => { x with queue := [⟨true, 0x1A, 0, none, 0⟩], busy := true }).answer (.laser c.val (laserWord true 0x1A 0))))) ∧
    (s.reach src (chRg c) 0x32 = .open_ →
      (∀ rd addr data, ∃ t, exec (.hostLaserTransaction src c rd addr data) s = .next t ∧
        ((s.ch c).wr.session ≠ .idle ∧ rd = false ∧ addr % 128 ≤ 0x19 → t.cr c F.LDI_RSP_REFUSED = 1 ∧ t.cr c F.LDI_RSP_DONE = 1 ∧ t.chans = s.chans) ∧
        ((s.ch c).wr.session = .idle ∨ rd = true ∨ 0x19 < addr % 128 → t.cr c F.LDI_RSP_REFUSED = 0 ∧ t.cr c F.LDI_RSP_DONE = 0 ∧
          t.cr c F.LDI_RSP_BUSY = 1 ∧ (t.ch c).wr.ldi.queue = l.queue ++ (if rd then [⟨true, addr % 128, 0, some 1, 0⟩, ⟨true, addr % 128, 0, some 2, 0⟩]
            else [⟨false, addr % 128, data % 65536, some 0, 0⟩]))) ∧
      (∀ (b : Fin 8) level, level < 1024 → ∃ t, exec (.readLevelWrite src c b level) s = .next t ∧ t.cr c (F.LDI_READ b) = level ∧
        ((s.ch c).wr.session = .idle → (t.ch c).wr.ldi.due = []) ∧
        ((s.ch c).wr.session ≠ .idle → b.val ∈ (t.ch c).wr.ldi.due ∧ (t.ch c).wr.ldi.queue = l.queue))) ∧
    (s.reach src (chRg c) 0x30 = .open_ →
      let u := s.unmark (chRg c) 0x30 0x128 false
      (s.mayTest c = false → exec (.testAreaRun src c) s = .next (u.errOpen (chRg c) 0x30 0x128 2)) ∧
      (s.mayTest c = true → ∃ t, exec (.testAreaRun src c) s = .next t ∧ t.cr c F.WRC_TEST_STS_DONE = 0 ∧ t.cr c F.WRC_TEST_STS_FAIL = 0 ∧
        (t.ch c).wr.testRun = some ⟨s.cr c F.WRC_TEST_CTL_LAYER, s.cr c F.WRC_TEST_CTL_SLOT, none, false⟩)) ∧
    (∀ mq, (∀ r, (s.ch c).wr.testRun = some r → r.begun = false) → exec (.testRunDone c mq) s = .next s) ∧
    (∀ mq r, (s.ch c).wr.testRun = some r → r.begun = true →
      let mqs := fun b => (List.range 15).map fun k => (s.stepMeans c r b (mq.getD b [])).getD k 0
      let pick := fun b => chooseStep (s.cr c F.WRC_TEST_CTL_MQ_TARGET) (s.cr c F.WRC_TEST_CTL_MARGIN) (mqs b)
      ∃ u : State, exec (.testRunDone c mq) s = .next (match r.cmd with
          | some k => u.finish k stSuccess (u.cr c F.WRC_TEST_STS_FAIL + 2 ^ 8 * r.slot)
          | none => u) ∧
        u.cr c F.WRC_TEST_STS_DONE = 1 ∧ (u.ch c).wr.testRun = none ∧ bitAt (u.cr c (F.HDR_IRQ_RAW 0x30)) 2 = true ∧
        ∀ b, b < 8 → u.cr c (F.WRC_TEST_RES_P_OPT b) = s.stepLevel c (pick b).1 b ∧ u.cr c (F.WRC_TEST_RES_BEST_MQ b) = (mqs b).foldl max 0 ∧
          bitAt (u.cr c F.WRC_TEST_STS_FAIL) b = (pick b).2)

/-- ADIP_WORD, WOBBLE_PLL_LOCK, ZONE_TABLE_FETCH, EQ_DATA_WRITE, ADAPTIVE_BLOCK_UPDATE, FRAME_SYNC, ALIGNMENT_CHOICE, BRAMBLE_FLAG_START,
BRAMBLE_FLAG_END, DEF_LONG, LDPC_DECODE, CAPTURE_READ, RETRY_STEP and RETRY_BUDGET_EXPIRED. -/
def Obligations.LanesLoopsAndTheRetryLadder : Prop :=
  ∀ (s : State) (c : Fin 16) (src : Src) (lane : Fin 8),
    let r := (s.ch c).rd
    (∀ periods : List (List Int), s.running (chRg c) 0x2D = true →
      let step := fun a => (frameAddr a).next.next.bits
      let w := adipWordIn (periods.map (s.wobblePeriod c))
      let a := (w.bind adipAddr).map (·.bits)
      let ok := a.isSome = true ∧ (r.adipPrev.map step = a ∨ r.adipLast.map step = a)
      ∃ t, exec (.adipWord c periods) s = .next t ∧ (t.ch c).rd.adipLast = a ∧
        (ok → (t.ch c).rd.adipPrev = a ∧ t.cr c F.WOB_STS_ADIP_VALID = 1 ∧ t.cr c F.WOB_STS_ADIP_FAILS = 0 ∧
          w = some (t.cr c F.WOB_ADIP_LO + 2 ^ 32 * t.cr c F.WOB_ADIP_HI)) ∧
        (¬ ok → (t.ch c).rd.adipPrev = r.adipPrev.map step ∧ t.cr c F.WOB_STS_ADIP_FAILS = min (s.cr c F.WOB_STS_ADIP_FAILS + 1) 255) ∧
        (∀ (l : Fin 8) y, r.lanes[l.val]? = some y → (t.ch c).rd.lanes[l.val]? = some { y with
          adipPos := r.loops[l].base + r.loops[l].bits.length + r.loops[l].line.length }) ∧
        FieldsKept s t (FieldsOf (chRg c) [F.WOB_STS_ADIP_VALID, F.WOB_STS_ADIP_FAILS, F.WOB_ADIP_LO, F.WOB_ADIP_HI]) ∧
        t.dram = s.dram ∧ ∀ e, e ≠ c → t.ch e = s.ch e) ∧
    (∀ hz, let held := s.cr c F.WOB_CTL_EN = 0 ∨ s.brm c (s.cr c F.WOB_CTL_REF_STRAND) = true
      (held → exec (.wobblePllLock c hz) s = .next s) ∧
      (¬ held → ∃ t, exec (.wobblePllLock c hz) s = .next t ∧ t.cr c F.WOB_STS_PLL_LOCK = 1 ∧ t.cr c F.WOB_FREQ = hz % 2 ^ 32 ∧
        OnlyFields s t (FieldsOf (chRg c) [F.WOB_STS_PLL_LOCK, F.WOB_FREQ]))) ∧
    (∀ layer zone, layer < 32 → zone < 48 → s.running (chRg c) 0x28 = true →
      let e := layer * 48 + zone
      let a := s.cr c F.XTC_ZT_BASE + e * 1024
      (s.anyPoison c a 1024 = true → exec (.zoneTableFetch c layer zone) s = .next ((s.err (chRg c) 0x28 0x10C 7 e).cirq c 0x28 0)) ∧
      (s.anyPoison c a 1024 = false → ∃ t, exec (.zoneTableFetch c layer zone) s = .next t ∧ t.dram = s.dram ∧ t.regs = s.regs ∧ t.tbl = s.tbl ∧
        (∀ d, d ≠ c → t.ch d = s.ch d) ∧
        ∀ l : Fin 8, (t.ch c).rd.loops[l] = { r.loops[l] with due := some ⟨layer, zone, s.dramBytes c (a + l.val * 128) 128⟩ })) ∧
    (∀ z y, r.loops[lane].due = some z → r.lanes[lane.val]? = some y →
      ((frameAddr y.next).layer ≠ z.layer ∨ (frameAddr y.next).zone ≠ z.zone → s.zoneDue c lane = s) ∧
      ((frameAddr y.next).layer = z.layer → (frameAddr y.next).zone = z.zone →
        let t := s.zoneDue c lane
        let b := fun o n => leNat ((z.bytes.drop o).take n)
        (t.ch c).rd.loops[lane].due = none ∧ (t.ch c).rd.loops[lane].afeGain = min 30 (b 0 1) ∧ (t.ch c).rd.loops[lane].afeBoost = min 12 (b 1 1) ∧
        (∀ i, i < 4 → t.cr c (F.BRC_PR_CUR lane i) = b (8 + i) 1 % 256) ∧
        ∀ k tap, k < 2 → tap < 25 → t.tget .eqCoef (chRg c) (eqIndex lane k tap) =
          if hasTap lane tap then b (12 + 50 * k + 2 * tap) 2 % 2 ^ 16 else s.tget .eqCoef (chRg c) (eqIndex lane k tap))) ∧
    (∀ v : Word, s.reach src (chRg c) 0x28 = .open_ → ∃ t, exec (.eqDataWrite src c v) s = .next t ∧
      t.ch c = { s.ch c with rd := { r with eqDue := r.eqDue ++
        [(eqIndex (s.cr c F.XTC_EQ_SEL_LANE) (s.cr c F.XTC_EQ_SEL_SET) (s.cr c F.XTC_EQ_SEL_TAP), v.toNat % 2 ^ 16)] } } ∧
      (s.cb c F.XTC_EQ_SEL_AUTOINC = true → s.cr c F.XTC_EQ_SEL_TAP < 24 → t.cr c F.XTC_EQ_SEL_TAP = s.cr c F.XTC_EQ_SEL_TAP + 1) ∧
      t.dram = s.dram ∧ FieldsKept s t (FieldsOf (chRg c) [F.XTC_EQ_SEL_TAP])) ∧
    (∀ samples, s.running (chRg c) (0x20 + lane.val) = true →
      let ys := samples.map fun x => correct (toSigned 8 (s.cr c (F.BRC_CORR_CUR_OFS lane))) (s.cr c (F.BRC_CORR_CUR_GAIN lane))
        (toSigned 8 (s.cr c (F.BRC_CORR_CUR_ASYM lane))) x.toInt
      let low := s.laneLow c lane
      ∃ t, exec (.adaptiveBlockUpdate c lane samples) s = .next t ∧
      (t.ch c).rd.loops[lane].ofs = (if low = true ∨ s.ofsFrozen c lane = true then r.loops[lane].ofs else
        clampInt (-32 * 2 ^ 24) (127 * 2 ^ 22) (r.loops[lane].ofs + muStep (s.cr c (F.BRC_ADAPT_CTL_MU_OFS lane)) (mean256 ys * 2 ^ 16))) ∧
      (t.ch c).rd.loops[lane].gain = (if low = true ∨ s.gainFrozen c lane = true then r.loops[lane].gain else
        clampInt 0 (65535 * 2 ^ 10) (r.loops[lane].gain - muStep (s.cr c (F.BRC_ADAPT_CTL_MU_GAIN lane))
          ((mean256 (ys.map fun y => (y.natAbs : Int)) - 256 * (s.cr c (F.BRC_ADAPT_CTL_GAIN_TGT lane) : Int)) * 2 ^ 16))) ∧
      (∀ l : Fin 8, l ≠ lane → (t.ch c).rd.loops[l].ofs = r.loops[l].ofs ∧ (t.ch c).rd.loops[l].gain = r.loops[l].gain) ∧
      (s.asymFrozen c lane = true → -(2 ^ 24) ≤ r.loops[lane].asym → r.loops[lane].asym ≤ 127 * 2 ^ 17 →
        (t.ch c).rd.loops[lane].asym = r.loops[lane].asym) ∧
      ((∀ l : Fin 8, s.eqFrozen c l = true) → t.tbl = s.tbl) ∧
      (t.ch c).rd.lanes = r.lanes ∧ t.dram = s.dram ∧ ∀ d, d ≠ c → t.ch d = s.ch d) ∧
    (∀ x, s.running (chRg c) 0x29 = true → r.lanes[lane.val]? = some x →
      -- the cluster of the expected frame is not about to end its pass or its read with it
      (∀ y, s.reading? c (frameAddr x.next).place.1 = some y → y.step = 0 ∧ y.frames.length < 79 ∧ y.reads = []) →
      let sync := s.cr c (F.BRC_LANE_STS_SYNC lane)
      let k := s.cr c (F.BRC_LANE_STS_FLYCNT lane)
      let win := if sync = 0 then 256 else 8
      let cand := candidate (s.cr c (F.FSY_SYNC_THR lane)) win (r.loops[lane].marks x.pos win)
      let place := (frameAddr x.next).place
      (∀ d n, x.choice = none → cand = some d → headerDecode (r.loops[lane].header (x.pos + d)) = some (x.next, n) →
        ∃ t, exec (.frameSync c lane) s = .next t ∧
          t.cr c (F.BRC_LANE_STS_SYNC lane) = 1 ∧ t.cr c (F.BRC_LANE_STS_FLYCNT lane) = 0 ∧ t.cr c (F.FSY_ADDR_LO lane) = x.next % 2 ^ 32 ∧
          (t.ch c).rd.lanes[lane.val]? = some ⟨(frameAddr x.next).next.bits, x.pos + d + 9936, none, none, some (x.next, d, true), x.adipPos⟩ ∧
          ∀ y, s.reading? c place.1 = some y → SMap.find? y.frames place.2 = none → ∃ z f, t.reading? c place.1 = some z ∧
            SMap.find? z.frames place.2 = some f ∧ f.addr = x.next ∧ f.sync = (if f.blank then 5 else 0) ∧ f.decided = f.blank ∧
            (f.blank = false → (t.ch c).rd.pending (fun j => j == ⟨r.classAt place.1, place.1, place.2, .first⟩) = true)) ∧
      (x.choice = none → cand = none → ∃ t, exec (.frameSync c lane) s = .next t ∧
        t.cr c (F.BRC_LANE_STS_SYNC lane) = (if sync = 0 then 0 else if k + 1 ≤ 2 then 2 else 0) ∧
        t.cr c (F.BRC_LANE_STS_FLYCNT lane) = (if sync = 0 then 0 else (k + 1) % 4) ∧
        (t.ch c).rd.lanes[lane.val]? = some ⟨(frameAddr x.next).next.bits, x.pos + 9936, none, none, some (x.next, 0, false), x.adipPos⟩) ∧
      (x.choice = none → exec (.alignmentChoice c lane) s = .next s) ∧
      (∀ ch, x.choice = some ch → ch.cands ≠ [] ∨ s.othersDecided c lane = false → exec (.alignmentChoice c lane) s = .next s) ∧
      (∀ ch n, x.choice = some ch → ch.cands = [] → s.othersDecided c lane = true →
        headerDecode (r.loops[lane].header x.pos) = some (x.next, n) → ∃ t, exec (.alignmentChoice c lane) s = .next t ∧
          t.cr c (F.BRC_LANE_STS_SYNC lane) = (if sync = 0 then 0 else 1) ∧ t.cr c (F.BRC_LANE_STS_FLYCNT lane) = 0 ∧
          (t.ch c).rd.lanes[lane.val]? = some ⟨(frameAddr x.next).next.bits, x.pos + 9936, none, none, some (x.next, 0, true), x.adipPos⟩) ∧
      (∀ ch, x.choice = some ch → ch.cands = [] → s.othersDecided c lane = true →
        let m := s.alignC c lane ch.found
        headerDecode (r.loops[lane].header x.pos) = none → (∀ d, m = some d → headerDecode (r.loops[lane].header (x.pos + d)) = none) →
        let cands := [(0, ch.found), (1, 0)] ++ m.elim [] fun d => [(2, d)]
        ∃ t, exec (.alignmentChoice c lane) s = .next t ∧
          (t.ch c).rd.lanes[lane.val]? = some { x with choice := some { ch with cands := cands } } ∧
          (∀ e ∈ cands, (t.ch c).rd.pending (fun j => j == ⟨2, 0, 0, .trial lane e.1⟩) = true) ∧ t.regs = s.regs)) ∧
    (∀ on : Bool,
      let e : Instr := if on then .brambleFlagStart c lane else .brambleFlagEnd c lane
      let f := if on then r.flags ||| 2 ^ lane.val else r.flags - (r.flags &&& 2 ^ lane.val)
      let n := ((List.range 8).filter fun i => bitAt f i).length
      let comes := if on then s.cr c F.BRM_CTL_EN = 1 ∧ s.cr c (F.BRC_LANE_STS_BLANK lane) = 0 ∧ s.brambleOut c lane = true
        else s.cr c F.BRM_CTL_EN = 0 ∨ s.brambleIn c lane = true
      (¬ comes → exec e s = .next s) ∧
      (comes → ∃ t, exec e s = .next t ∧ (t.ch c).rd.flags = f ∧
        (n < s.cr c F.CLE_DEF_CTL_MIN_LANES → (t.ch c).servo.defect = none ∧ (t.ch c).servo.defOver = false) ∧
        (s.cr c F.CLE_DEF_CTL_MIN_LANES ≤ n → (s.ch c).servo.defect = none → (s.ch c).servo.defOver = false → (t.ch c).servo.defect = some 0))) ∧
    ((s.ch c).servo.defect = none → exec (.defLong c) s = .next s) ∧
    ((s.ch c).servo.defect.isSome → ∃ t, exec (.defLong c) s = .next t ∧ (t.ch c).servo.defect = none ∧ (t.ch c).servo.defOver = true ∧
      ∀ q, q < 7 → t.cr c (F.SLT_STATE_DEFECT q) = 0) ∧
    (∀ core : Fin 8, s.running (chRg c) 0x2A = true →
      (r.cores.getD core none = none → exec (.ldpcDecode c core) s = .next s) ∧
      (∀ j x f, r.cores.getD core none = some j → j.kind = .first → s.reading? c j.pcn = some x → SMap.find? x.frames j.p = some f →
        f.decided = false → x.step = 0 → x.frames.length < 80 →
        let d := ldpcRun (s.cr c F.DEC_CTL_NORM) (s.cr c F.DEC_CTL_ITER_NORM) (s.cb c F.DEC_CTL_EARLY_STOP) f.llr
        ∃ t y, exec (.ldpcDecode c core) s = .next t ∧ t.reading? c j.pcn = some y ∧ SMap.find? y.frames j.p = some (decodeBits f d) ∧
          ((decodeBits f d).ok = true ↔ d.weight = 0) ∧ (decodeBits f d).decided = true ∧
          (∀ p, p ≠ j.p → SMap.find? y.frames p = SMap.find? x.frames p) ∧ t.dram = s.dram ∧ ∀ e, e ≠ c → t.ch e = s.ch e)) ∧
    (∀ pcn, s.running (chRg c) 0x2E = true → ∀ x, r.clusters.find? (fun x => x.pcn == pcn && x.step != 0 && !x.captured && x.reads.isEmpty) = some x →
      let waits := 160 < r.storeUsed + x.rows.length ∨ r.limitedAt pcn = true ∨ r.holder.isSome = true ∨ x.step = 12
      (waits → exec (.captureRead c pcn) s = .next s) ∧
      (¬ waits → ∃ t, exec (.captureRead c pcn) s = .next t ∧ (t.ch c).rd.holder = some pcn ∧
        t.reading? c pcn = some { x with reads := [0], seen := [] } ∧ (∀ l : Fin 8, t.cr c (F.BRC_LANE_STS_SYNC l) = 0) ∧
        t.dram = s.dram ∧ ∀ e, e ≠ c → t.ch e = s.ch e)) ∧
    (∀ pcn, s.running (chRg c) 0x2E = true → ∀ x, r.clusters.find? (fun x => x.pcn == pcn && x.step != 0) = some x →
      (s.stepOpen c x = true → exec (.retryStep c pcn) s = .next s) ∧
      (s.stepOpen c x = false → r.needs pcn = true → x.step ≠ 12 →
        let y := if x.step = 3 then s.keepSet c x else x
        (∀ f d v, (s.putRead c y).tryDecode c y = (some (f, d), v) → exec (.retryStep c pcn) s = .next (v.resolved c y f d) ∧
          ∀ z ∈ ((v.resolved c y f d).ch c).rd.clusters, z.pcn ≠ pcn) ∧
        (∀ v, (s.putRead c y).tryDecode c y = (none, v) →
          (∀ i, v.nextStep c y x.step = some i → ∃ t z, exec (.retryStep c pcn) s = .next t ∧ t.reading? c pcn = some z ∧ z.step = i) ∧
          (v.nextStep c y x.step = none → exec (.retryStep c pcn) s = .next (v.clusterLost c y) ∧
            ∀ z ∈ ((v.clusterLost c y).ch c).rd.clusters, z.pcn ≠ pcn)))) ∧
    (∀ pcn, (r.clusters.find? (fun x => x.pcn == pcn && x.step != 0 && x.step != 12) = none → exec (.retryBudgetExpired c pcn) s = .next s) ∧
      ∀ x, r.clusters.find? (fun x => x.pcn == pcn && x.step != 0 && x.step != 12) = some x →
        (x.inStep r.holder = true → exec (.retryBudgetExpired c pcn) s = .next (s.putRead c { x with expired := true })) ∧
        (x.inStep r.holder = false → r.needs pcn = true → bitAt (s.cr c F.RTY_CTL_STEP_EN) 11 = true → ∃ t z,
          exec (.retryBudgetExpired c pcn) s = .next t ∧ t.reading? c pcn = some z ∧ z.step = 12 ∧ z.expired = true))

/-- SLOT_COMMAND_OFF to _HOLD, COEFFICIENT_WRITE, TRIM_WRITE, TGT_WRITE, ACQUISITION_CAPTURE, ACQUISITION_FAILURE, LOSS, IMPLAUSIBLE,
GUYLINE_ARM, FF_BIN_END, CLE_FAULT, CLE_ENABLE and SERVO_SAMPLE. -/
def Obligations.SlotsFollowTheirCommandsAndEvents : Prop :=
  ∀ (s : State) (c : Fin 16) (src : Src) (q : Fin 7) (value : Word),
    let m := s.mode c q
    (s.reach src (chRg c) (sltPage q) = .open_ →
      (∀ e ∈ ([(.slotCommandOff src c q, 0), (.slotCommandOpen src c q, 1), (.slotCommandAcquire src c q, 2), (.slotCommandClosed src c q, 3),
          (.slotCommandHold src c q, 4)] : List (Instr × Nat)),
        exec e.1 s = .next (if s.alive c then (s.unmark (chRg c) (sltPage q) 0x104 false).modSlt c q fun x => { x with cmd := some e.2 }
          else s.unmark (chRg c) (sltPage q) 0x104 false)) ∧
      (∃ t, exec (.trimWrite src c q value) s = .next t ∧ t.cr c (F.SLT_TRIM_OFS q) = bitsAt value.toNat 0 16 ∧
        t.cr c (F.SLT_TRIM_GAIN q) = bitsAt value.toNat 16 12 ∧ FieldsKept s t (FieldsOf (chRg c) [F.SLT_TRIM_OFS q, F.SLT_TRIM_GAIN q]) ∧
        t = { s with regs := t.regs, parity := t.parity }) ∧
      (∃ t, exec (.tgtWrite src c q value) s = .next t ∧ t.cr c (F.SLT_TGT q) = value.toNat % 2 ^ 24 ∧
        (q ≠ 1 ∨ s.cr c (F.SLT_TGT q) = value.toNat % 2 ^ 24 →
          FieldsKept s t (FieldsOf (chRg c) [F.SLT_TGT q]) ∧ t = { s with regs := t.regs, parity := t.parity }) ∧
        (q = 1 → s.cr c (F.SLT_TGT q) ≠ value.toNat % 2 ^ 24 → (∀ l < 8, t.cr c (F.BRC_LANE_STS_SYNC l) = 0) ∧
          bitAt (t.cr c (F.HDR_IRQ_RAW 0x29)) 0 = true ∧ (t.ch c).servo = (s.ch c).servo ∧ t.dram = s.dram ∧ ∀ d, d ≠ c → t.ch d = s.ch d)) ∧
      (∀ off, 0x200 ≤ off → off < 0x500 → (regFields (chRg c) (sltPage q) off) ≠ [] → (off = 0x418 → hasFf q = true) →
        let u := s.unmark (chRg c) (sltPage q) off false
        exec (.coefficientWrite src c q off value) s = .next (if m = 1 ∨ m = 4
          then u.writeFields (chRg c) (regFields (chRg c) (sltPage q) off) false value.toNat
          else (u.errOpen (chRg c) (sltPage q) off 1).cirq c (sltPage q) 4)) ∧
      (hasFf q = true → m = 1 ∨ m = 4 → ∃ t, exec (.coefficientWrite src c q 0x140 value) s = .next t ∧
        t.tget .ff (chRg c) (q.val * 256 + s.cr c (F.SLT_FF_IDX_IDX q)) = value.toNat % 2 ^ 24 ∧ t.chans = s.chans ∧
        FieldsKept s t (FieldsOf (chRg c) [F.SLT_FF_IDX_IDX q]))) ∧
    (∀ dest, dest ≤ 4 →
      (m = dest → s.slotCommand c q dest = s) ∧
      (m ≠ dest → commanded m dest = false ∨ s.cr c F.CLE_CTL = 0 ∨
          (dest ≠ 0 ∧ (s.cr c (F.SLT_STATE_SEQ q) = 1 ∨ s.swept c q = true)) → s.slotCommand c q dest = s.cirq c (sltPage q) 5) ∧
      (m ≠ dest → commanded m dest = true → s.cr c F.CLE_CTL ≠ 0 → s.cr c (F.SLT_STATE_SEQ q) ≠ 1 → s.swept c q = false →
        (s.ch c).wr.session = .idle → (s.slotCommand c q dest).mode c q = dest ∧ (s.slotCommand c q dest).cr c (F.SLT_STATE_CAUSE q) = 0 ∧
          ∀ p : Fin 7, p ≠ q → (s.slotCommand c q dest).mode c p = s.mode c p)) ∧
    (m ≠ 2 → exec (.acquisitionCapture c q) s = .next s ∧ exec (.acquisitionFailure c q) s = .next s) ∧
    (m = 2 → (∃ t, exec (.acquisitionCapture c q) s = .next t ∧ t.mode c q = 3 ∧ t.cr c (F.SLT_STATE_CAUSE q) = 1 ∧
        bitAt (t.cr c (F.HDR_IRQ_RAW (sltPage q))) 2 = true ∧ ∀ p : Fin 7, p ≠ q → t.mode c p = s.mode c p) ∧
      ∃ t, exec (.acquisitionFailure c q) s = .next t ∧ t.mode c q = 1 ∧ t.cr c (F.SLT_STATE_CAUSE q) = 2 ∧
        t.cr c (F.SLT_MANUAL q) = ofSigned 24 (s.slt c q).acqM ∧ bitAt (t.cr c (F.HDR_IRQ_RAW (sltPage q))) 3 = true ∧
        ∀ p : Fin 7, p ≠ q → t.mode c p = s.mode c p) ∧
    (m ≠ 3 → exec (.loss c q) s = .next s ∧ exec (.guylineArm c q) s = .next s ∧ ∀ row, exec (.implausible c q row) s = .next s) ∧
    (m = 3 → (∃ t, exec (.guylineArm c q) s = .next t ∧ t.cr c (F.SLT_STATE_ARMED q) = 1 ∧ OnlyFields s t (FieldsOf (chRg c) [F.SLT_STATE_ARMED q])) ∧
      ((s.ch c).wr.session = .idle →
        (∃ t, exec (.loss c q) s = .next t ∧ t.mode c q = 4 ∧ t.cr c (F.SLT_STATE_CAUSE q) = 4 ∧
          bitAt (t.cr c (F.HDR_IRQ_RAW (sltPage q))) 1 = true ∧ ∀ p : Fin 7, p ≠ q → t.mode c p = s.mode c p) ∧
        ∀ row, ∃ t, exec (.implausible c q row) s = .next t ∧ t.mode c q = 4 ∧ t.cr c (F.SLT_STATE_CAUSE q) = 3 ∧
          bitAt (t.cr c (F.HDR_IRQ_RAW (sltPage q))) 0 = true ∧
          t.cr c (F.SLT_GL_STS_TRIPS q) = min (s.cr c (F.SLT_GL_STS_TRIPS q) + 1) 255)) ∧
    (hasFf q = false → exec (.ffBinEnd c q) s = .next s) ∧
    (hasFf q = true → ∃ t, exec (.ffBinEnd c q) s = .next t ∧ (t.slt c q).binSum = 0 ∧ (t.slt c q).binN = 0 ∧ (t.slt c q).binOk = true ∧
      ((s.slt c q).binOk = false → t.tbl = s.tbl) ∧ t.regs = s.regs) ∧
    (s.reach src (chRg c) 0x08 = .open_ →
      (∃ t, exec (.cleEnable src c true) s = .next t ∧ t.cr c F.CLE_CTL = 1 ∧ t.cr c F.CLE_STS_RUN = (if s.cr c F.CLE_STS_FAULT = 0 then 1 else 0) ∧
        FieldsKept s t (FieldsOf (chRg c) [F.CLE_CTL, F.CLE_STS_RUN]) ∧ t = { s with regs := t.regs, parity := t.parity }) ∧
      ((s.ch c).wr.session = .idle → ∃ t, exec (.cleEnable src c false) s = .next t ∧ t.cr c F.CLE_CTL = 0 ∧ t.cr c F.CLE_STS_RUN = 0 ∧
        ∀ p : Fin 7, t.mode c p = 0)) ∧
    (s.alive c = false → exec (.cleFault c) s = .next s) ∧
    (s.alive c = true → (s.ch c).fence = 0 → s.sec.activating = none → ∃ t, exec (.cleFault c) s = .next t ∧ (t.ch c).fence = 7 ∧
      t.cr c F.CLE_STS_FAULT = 1 ∧ t.spinSt c = 0 ∧ (t.ch c).active = false ∧ t.dram = s.dram ∧
      ∀ p : Fin 7, t.mode c p = 0 ∧ t.cr c (F.SLT_OUT_CODE p) = 0) ∧
    (∀ sd, s.alive c = false ∨ s.cr c F.CLE_STS_FAULT = 1 → (s.ch c).servo.regain = .idle → exec (.servoSample c q sd) s = .next s) ∧
    (∀ sd, s.running (chRg c) 0x08 = true → s.running (chRg c) (sltPage q) = true → s.alive c = true → s.cr c F.CLE_STS_FAULT ≠ 1 →
      2 ≤ q.val → q.val ≤ 5 → m ≤ 1 → (s.slt c q).cmd = none → s.cr c (F.HDR_SET_STS_PENDING (sltPage q)) = 0 → SMap.get s.groups (chRg c) [] = [] →
      (m = 1 → s.cr c F.CLE_CTL ≠ 0) → (s.ch c).servo.defect = none → (s.ch c).servo.sweep = none → s.cr c (F.SLT_SLEW q) = 0 →
      let out := if m = 0 then 0 else s.q21 c (F.SLT_MANUAL q)
      s.q21 c (F.SLT_OLIM_LO q) ≤ out → out ≤ s.q21 c (F.SLT_OLIM_HI q) →
      ∃ t, exec (.servoSample c q sd) s = .next t ∧ t.mode c q = m ∧ t.q21 c (F.SLT_OUT q) = out ∧
        t.cr c (F.SLT_OUT_CODE q) = ofSigned 16 (outCode out) ∧ (t.slt c q).n = (s.slt c q).n + 1 ∧ t.dram = s.dram ∧
        (∀ p : Fin 7, p ≠ q → t.mode c p = s.mode c p ∧ t.cr c (F.SLT_OUT p) = s.cr c (F.SLT_OUT p)) ∧ ∀ d, d ≠ c → t.ch d = s.ch d)

/-- LAYER_JUMP, LAYER_JUMP_TIMEOUT, LAYER_JUMP_DONE, STRAND_JUMP, STRAND_JUMP_TIMEOUT, STRAND_JUMP_DONE, CALIBRATION_SWEEP and SWEEP_DONE. -/
def Obligations.JumpsAndSweepsRunTheirSequences : Prop :=
  ∀ (s : State) (c : Fin 16) (src : Src),
    let v := (s.ch c).servo
    (∀ layer, layer < 32 → s.reach src (chRg c) 0x08 = .open_ →
      let u := s.unmark (chRg c) 0x08 0x110 false
      (v.jump.isSome ∨ s.mode c 0 ≠ 3 ∨ s.layerNow c = layer ∨ s.jumpsBarred c = true → exec (.layerJump src c layer) s = .next (u.jumpRefused c false) ∧
        bitAt ((u.jumpRefused c false).cr c (F.HDR_IRQ_RAW 0x08)) 1 = true ∧
        (v.jump = none → (u.jumpRefused c false).cr c F.CLE_JUMP_STS_STATE = 3 ∧ (u.jumpRefused c false).cr c F.CLE_JUMP_STS_FAIL = 1)) ∧
      (v.jump = none → s.mode c 0 = 3 → s.layerNow c ≠ layer → (s.ch c).wr.session = .idle → ∃ t, exec (.layerJump src c layer) s = .next t ∧
        t.cr c F.CLE_JUMP_STS_STATE = 1 ∧ t.cr c F.CLE_JUMP_STS_FAIL = 0 ∧ t.cr c F.CLE_JUMP_STS_LAYER = s.cr c F.CLE_JUMP_STS_LAYER ∧ t.mode c 0 = 1 ∧
        (∀ q ∈ ([1, 3, 4] : List (Fin 7)), t.mode c q = if s.mode c q = 3 then 4 else s.mode c q) ∧ t.mode c 2 = s.mode c 2 ∧
        t.mode c 5 = s.mode c 5 ∧ t.mode c 6 = s.mode c 6 ∧ (∀ q ∈ [0, 1, 3, 4], t.cr c (F.SLT_STATE_SEQ q) = 1) ∧
        (∃ j, (t.ch c).servo.jump = some j ∧ j.target = layer ∧ j.stage = .kick ∧ j.t = (if s.layerNow c < layer then 0 else 1) ∧
          j.m0 = s.q21 c (F.SLT_OUT 0)) ∧
        (t.ch c).rd.adipPrev = none ∧ t.dram = s.dram ∧ ∀ d, d ≠ c → t.ch d = s.ch d)) ∧
    (v.jump = none → exec (.layerJumpTimeout c) s = .next s ∧ exec (.layerJumpDone c) s = .next s) ∧
    (∀ j, v.jump = some j →
      (∃ t, exec (.layerJumpTimeout c) s = .next t ∧ (t.ch c).servo.jump = none ∧ t.cr c F.CLE_JUMP_STS_STATE = 3 ∧ t.cr c F.CLE_JUMP_STS_FAIL = 2 ∧
        t.cr c (F.SLT_MANUAL 0) = ofSigned 24 j.m0 ∧ (∀ q ∈ [0, 1, 3, 4], t.cr c (F.SLT_STATE_SEQ q) = 0) ∧
        bitAt (t.cr c (F.HDR_IRQ_RAW 0x08)) 1 = true ∧ (∀ q : Fin 7, t.mode c q = s.mode c q) ∧ t.dram = s.dram) ∧
      (s.mode c 0 = 1 → ∃ t, exec (.layerJumpDone c) s = .next t ∧ (t.ch c).servo.jump = none ∧ t.mode c 0 = 3 ∧
        t.cr c (F.SLT_STATE_ARMED 0) = 1 ∧ t.cr c F.CLE_JUMP_STS_STATE = 2 ∧ t.cr c F.CLE_JUMP_STS_LAYER = j.target % 32 ∧
        t.cr c F.CLE_JUMP_STS_FAIL = 0 ∧ (∀ q ∈ [0, 1, 3, 4], t.cr c (F.SLT_STATE_SEQ q) = 0) ∧ bitAt (t.cr c (F.HDR_IRQ_RAW 0x08)) 0 = true ∧
        (∀ q ∈ ([3, 4] : List (Fin 7)), s.mode c q = 4 → t.mode c q = 3) ∧ t.mode c 1 = s.mode c 1)) ∧
    (∀ n : BitVec 7, s.reach src (chRg c) 0x08 = .open_ →
      let u := s.unmark (chRg c) 0x08 0x118 false
      (n.toInt = 0 ∨ n.toInt = -64 → exec (.strandJump src c n) s = .next u) ∧
      (n.toInt ≠ 0 → n.toInt ≠ -64 → v.tjump.isSome ∨ s.mode c 1 ≠ 3 ∨ s.jumpsBarred c = true →
        exec (.strandJump src c n) s = .next (u.jumpRefused c true) ∧ bitAt ((u.jumpRefused c true).cr c (F.HDR_IRQ_RAW 0x08)) 3 = true) ∧
      (n.toInt ≠ 0 → n.toInt ≠ -64 → v.tjump = none → s.mode c 1 = 3 → (s.ch c).wr.session = .idle → ∃ t, exec (.strandJump src c n) s = .next t ∧
        t.cr c F.CLE_TJUMP_STS_STATE = 1 ∧ t.cr c F.CLE_TJUMP_STS_FAIL = 0 ∧ t.mode c 1 = 1 ∧ t.cr c (F.SLT_STATE_SEQ 1) = 1 ∧
        (∀ q : Fin 7, q ≠ 1 → t.mode c q = s.mode c q) ∧
        (∃ j, (t.ch c).servo.tjump = some j ∧ j.target = n.toInt.natAbs ∧ j.stage = .kick ∧ j.t = (if 0 < n.toInt then 2 else 3)) ∧
        t.dram = s.dram ∧ ∀ d, d ≠ c → t.ch d = s.ch d)) ∧
    (v.tjump = none → exec (.strandJumpTimeout c) s = .next s ∧ exec (.strandJumpDone c) s = .next s) ∧
    (∀ j, v.tjump = some j →
      (∃ t, exec (.strandJumpTimeout c) s = .next t ∧ (t.ch c).servo.tjump = none ∧ t.cr c F.CLE_TJUMP_STS_STATE = 3 ∧
        t.cr c F.CLE_TJUMP_STS_FAIL = 2 ∧ t.cr c (F.SLT_MANUAL 1) = ofSigned 24 j.m0 ∧ t.cr c (F.SLT_STATE_SEQ 1) = 0 ∧
        bitAt (t.cr c (F.HDR_IRQ_RAW 0x08)) 3 = true ∧ ∀ q : Fin 7, t.mode c q = s.mode c q) ∧
      (s.mode c 1 = 1 → ∃ t, exec (.strandJumpDone c) s = .next t ∧ (t.ch c).servo.tjump = none ∧ t.mode c 1 = 3 ∧
        t.cr c F.CLE_TJUMP_STS_STATE = 2 ∧ t.cr c F.CLE_TJUMP_STS_FAIL = 0 ∧ t.cr c (F.SLT_STATE_SEQ 1) = 0 ∧
        bitAt (t.cr c (F.HDR_IRQ_RAW 0x08)) 2 = true ∧ ∀ q : Fin 7, q ≠ 1 → t.mode c q = s.mode c q)) ∧
    (s.reach src (chRg c) 0x08 = .open_ →
      let q := s.cr c F.CLE_SWEEP_CTL_SLOT
      (s.sweepOk c q = false → exec (.calibrationSweep src c) s = .next ((s.unmark (chRg c) 0x08 0x120 false).cirq c 0x08 5)) ∧
      (s.sweepOk c q = true → ∃ t, exec (.calibrationSweep src c) s = .next t ∧ t.cr c (F.SLT_STATE_SWEEP q) = 1 ∧
        t.cr c F.CLE_SWEEP_STS_STATE = 1 ∧ t.cr c F.CLE_SWEEP_STS_POINTS = 0 ∧ t.cr c (F.SLT_MANUAL q) = ofSigned 24 (s.q21 c F.CLE_SWEEP_START) ∧
        (t.ch c).servo.sweep = some ⟨q, none, s.q21 c (F.SLT_MANUAL q), 0, 0, 0, 0, 0⟩ ∧ t.mode c q = 1)) ∧
    (v.sweep = none → exec (.sweepDone c) s = .next s) ∧
    (∀ w, v.sweep = some w → w.cmd = none → w.slot < 7 → ∃ t, exec (.sweepDone c) s = .next t ∧ (t.ch c).servo.sweep = none ∧
      t.cr c F.CLE_SWEEP_STS_STATE = 2 ∧ t.cr c (F.SLT_STATE_SWEEP w.slot) = 0 ∧ t.cr c (F.SLT_MANUAL w.slot) = ofSigned 24 w.m0 ∧
      bitAt (t.cr c (F.HDR_IRQ_RAW 0x08)) 4 = true ∧ ∀ q : Fin 7, t.mode c q = s.mode c q)

/-- SPINDLE_START, _STOP, _COAST, _CLEAR_FAULT, COMMUTATION_TABLE_WRITE, PWM_PERIOD, CATCH_WINDOW_END, ALIGN_END, OBSERVER_LOCK, START_FAIL,
HANDOVER_END, AT_SPEED, VLIM, STOPPING_LOW_SPEED, STOPPED, SPEED_GAP, CHOP_FAULT, OVERVOLTAGE, UNDERVOLTAGE, OVERCURRENT, POWER_STAGE_FAULT and
SAMPLE_LOSS. -/
def Obligations.TheSpindleMovesThroughItsStates : Prop :=
  ∀ (s : State) (c : Fin 16) (src : Src),
    let st := s.spinSt c
    let x := (s.ch c).spin
    let u := s.unmark (chRg c) 0x10 0x100 false
    (s.reach src (chRg c) 0x10 = .open_ → s.alive c = false → ∀ e ∈ ([.spindleStart src c, .spindleStop src c, .spindleCoast src c,
      .spindleClearFault src c] : List Instr), exec e s = .next u) ∧
    (s.reach src (chRg c) 0x10 = .open_ → s.alive c = true →
      let ready := st = 0 ∧ s.cr c F.CLE_CTL ≠ 0 ∧ s.cr c F.SPN_I_FS ≠ 0 ∧ s.cr c F.SPN_KE ≠ 0 ∧ s.cr c F.SPN_MOTOR_R_PH ≠ 0 ∧ s.vbusOk c = true
      (¬ ready → exec (.spindleStart src c) s = .next (u.spinRefuse c)) ∧
      (ready → ∃ t, exec (.spindleStart src c) s = .next t ∧ t.spinSt c = 1 ∧ (t.ch c).spin = { x with
          rest := false, cmps := 0, catchN := 0, crossN := 0, cross0 := 0, cross1 := 0, crossP := none, crossF := 0 } ∧
        FieldsKept s t (FieldsOf (chRg c) [F.SPN_STS_STATE, F.CHN_STS_SAFE, F.HDR_IRQ_RAW 0x00])) ∧
      (st = 1 ∨ st = 3 ∨ st = 4 ∨ st = 5 → ∃ t, exec (.spindleStop src c) s = .next t ∧ t.spinSt c = 2 ∧ (t.ch c).spin.duty = [0, 0, 0] ∧
        (t.ch c).spin.toAlign = false ∧ (st = 5 → t.cr c (F.SLT_MANUAL 6) = 0)) ∧
      (st = 6 → exec (.spindleStop src c) s = .next (u.cw c F.SPN_STS_STATE 7)) ∧
      (st = 0 ∨ st = 2 ∨ 7 ≤ st → exec (.spindleStop src c) s = .next (u.spinRefuse c)) ∧
      (st = 0 → exec (.spindleCoast src c) s = .next u) ∧
      (st ≠ 0 → st ≠ 8 → ∃ t, exec (.spindleCoast src c) s = .next t ∧ t.spinSt c = 0 ∧ (t.ch c).spin.duty = [0, 0, 0] ∧ (t.ch c).spin.rest = false) ∧
      (st = 8 → exec (.spindleCoast src c) s = .next (u.modSpin c Spin.coast)) ∧
      (st ≠ 8 ∨ s.spinCauseGone c = false → exec (.spindleClearFault src c) s = .next (u.spinRefuse c)) ∧
      (st = 8 → s.spinCauseGone c = true → ∃ t, exec (.spindleClearFault src c) s = .next t ∧ t.spinSt c = 0 ∧ t.cr c F.SPN_STS_CAUSE = 0 ∧
        t.cr c F.SPN_STS_CHOP_FAULT = 0 ∧ (t.ch c).spin.rest = x.rest)) ∧
    (∀ v : BitVec 16, s.reach src (chRg c) 0x10 = .open_ →
      let w := s.unmark (chRg c) 0x10 0x168 false
      (st ≠ 0 → st ≠ 8 → exec (.commutationTableWrite src c v) s = .next (w.errOpen (chRg c) 0x10 0x168 1)) ∧
      (st = 0 ∨ st = 8 → ∃ t, exec (.commutationTableWrite src c v) s = .next t ∧
        t.tget .commutation (chRg c) (s.cr c F.SPN_TBL_IDX_IDX) = v.toNat ∧ t.chans = s.chans ∧ FieldsKept s t (FieldsOf (chRg c) [F.SPN_TBL_IDX_IDX]))) ∧
    (let n := x.crossN
     let rpm := 480000 * (n - 1) / (max 1 (s.cr c F.SPN_CFG_POLE_PAIRS) * max 1 (x.cross1 - x.cross0))
     let back := decide (2 * x.crossF < n - 1)
     (st ≠ 1 → exec (.catchWindowEnd c) s = .next s) ∧
      (st = 1 → ∃ t, exec (.catchWindowEnd c) s = .next t ∧
        t.spinSt c = (if n < 4 ∨ rpm < 60 then 3 else if back then 2 else if 300 ≤ rpm then 5 else 4) ∧
        (n < 4 ∨ rpm < 60 → t.cr c F.SPN_ANGLE_ELEC = 0 ∧ t.cr c F.SPN_ANGLE_MECH = 0 ∧
          t.cr c F.SPN_STS_ANG_EPOCH = (s.cr c F.SPN_STS_ANG_EPOCH + 1) % 256) ∧
        (4 ≤ n → 60 ≤ rpm → t.cr c F.SPN_STS_REVERSE = b2n back ∧ (back = true → (t.ch c).spin.toAlign = true) ∧
          (back = false → rpm < 300 → (t.ch c).spin.rate = 48000 * rpm) ∧
          (back = false → 300 ≤ rpm → t.cr c (F.SLT_STATE_SEQ 6) = 1 ∧ (t.ch c).spin.iref = 0 ∧ (t.ch c).spin.vq = s.backEmf c rpm)))) ∧
    (st ≠ 3 → exec (.alignEnd c) s = .next s) ∧ (st = 3 → ∃ t, exec (.alignEnd c) s = .next t ∧ t.spinSt c = 4 ∧
      (t.ch c).spin.rate = 48000 * s.cr c F.SPN_SS_RAMP_START) ∧
    (st ≠ 4 ∨ x.rate < 14400000 → exec (.observerLock c) s = .next s ∧ exec (.startFail c) s = .next s) ∧
    (x.lockTurn < 131072 → exec (.observerLock c) s = .next s) ∧ (131072 ≤ x.lockTurn → exec (.startFail c) s = .next s) ∧
    (st = 4 → 14400000 ≤ x.rate → (131072 ≤ x.lockTurn → ∃ t, exec (.observerLock c) s = .next t ∧ t.spinSt c = 5 ∧ (t.ch c).spin.iref = x.iref ∧ t.cr c (F.SLT_STATE_SEQ 6) = 1) ∧
      (x.lockTurn < 131072 → ∃ t, exec (.startFail c) s = .next t ∧ t.spinSt c = 2 ∧ bitAt (t.cr c (F.HDR_IRQ_RAW 0x10)) 5 = true)) ∧
    (st ≠ 5 → exec (.handoverEnd c) s = .next s) ∧
    (st = 5 → ∃ t, exec (.handoverEnd c) s = .next t ∧ t.spinSt c = 6 ∧ (t.ch c).spin.cmd = 6000 * toSigned 20 (s.cr c F.SPN_SPEED) ∧
      (t.ch c).spin.atN = some 0 ∧
      (s.mode c 6 = 1 → t.mode c 6 = 3)) ∧
    (exec (.atSpeed c) s = .next (if st = 6 ∧ x.atN.isSome then (s.modSpin c fun y => { y with atN := none }).cirq c 0x10 0 else s)) ∧
    (exec (.vlim c) s = .next (if s.cr c F.SPN_STS_VLIM = 1 then s.cirq c 0x10 2 else s)) ∧
    (st ≠ 7 → exec (.stoppingLowSpeed c) s = .next s) ∧
    (st = 7 → ∃ t, exec (.stoppingLowSpeed c) s = .next t ∧ t.spinSt c = 2 ∧ t.cr c (F.SLT_MANUAL 6) = 0) ∧
    (st ≠ 2 ∨ x.slow = false → exec (.stopped c) s = .next (s.progress c)) ∧
    (st = 2 → x.slow = true → ∃ v : State, exec (.stopped c) s = .next (v.progress c) ∧ bitAt (v.cr c (F.HDR_IRQ_RAW 0x10)) 1 = true ∧
      v.spinSt c = (if x.failing then 8 else 0) ∧ (v.ch c).spin.rest = (!x.failing) ∧ (x.failing = true → v.cr c F.SPN_STS_CAUSE = 5 ∧ v.cr c F.SPN_STS_CHOP_ON = 0)) ∧
    (∀ emf, let v := s.gapSpeed c emf
      let barred := s.cr c F.SPN_STS_CHOP_FAULT = 1 ∧ 10 * s.cr c F.SPN_VBUS_THR_CHOP_OFF < s.cr c F.SPN_VBUS
      (st ≠ 2 ∨ barred → exec (.speedGap c emf) s = .next s) ∧
      (st = 2 → ¬ barred → ∃ t, exec (.speedGap c emf) s = .next t ∧
        t.cr c F.SPN_SPEED = ofSigned 20 (if s.cr c F.SPN_STS_REVERSE = 1 then -(v : Nat) else (v : Nat)) ∧
        (t.ch c).spin.slow = decide (v < 960) ∧ t.spinSt c = if v < 960 ∧ x.toAlign then 3 else 2)) ∧
    (s.cr c F.SPN_STS_CHOP_ON = 0 → exec (.chopFault c) s = .next s) ∧
    (s.cr c F.SPN_STS_CHOP_ON ≠ 0 → ∃ t, exec (.chopFault c) s = .next t ∧ t.cr c F.SPN_STS_CHOP_ON = 0 ∧ t.cr c F.SPN_STS_CHOP_FAULT = 1 ∧
      bitAt (t.cr c (F.HDR_IRQ_RAW 0x10)) 3 = true ∧ t.spinSt c = (if st = 8 then 8 else 2) ∧ 
      (st ≠ 8 → (t.ch c).spin.failing = true ∧ (t.ch c).spin.rest = false ∧ (t.ch c).spin.duty = [0, 0, 0])) ∧
    (s.alive c = true → ∀ e ∈ ([(.overvoltage c, 1), (.undervoltage c, 2), (.overcurrent c, 3), (.powerStageFault c, 4)] : List (Instr × Nat)),
      ∃ t, exec e.1 s = .next t ∧ t.spinSt c = 8 ∧ t.cr c F.SPN_STS_CAUSE = e.2 ∧ t.cr c F.SPN_STS_CHOP_ON = 0 ∧
        bitAt (t.cr c (F.HDR_IRQ_RAW 0x10)) 4 = true ∧ (t.ch c).spin.duty = [0, 0, 0] ∧ t.dram = s.dram ∧ ∀ d, d ≠ c → t.ch d = s.ch d) ∧
    (∀ n, (n < 48 → exec (.sampleLoss c n) s = .next s) ∧ (48 ≤ n → n < 480 → exec (.sampleLoss c n) s = .next (s.cirq c 0x10 6)) ∧
      (480 ≤ n → s.alive c = true → ∃ t, exec (.sampleLoss c n) s = .next t ∧ t.spinSt c = 8 ∧ t.cr c F.SPN_STS_CAUSE = 6)) ∧
    (∀ o, s.alive c = false ∨ (s.ch c).st = .bivouac → (s.ch c).servo.respin = false → exec (.pwmPeriod c o) s = .next s) ∧
    (∀ o, s.running (chRg c) 0x10 = true → s.alive c = true → (s.ch c).st ≠ .bivouac → (s.ch c).servo.respin = true → st ≠ 8 →
      s.cr c F.CLE_CTL ≠ 0 → s.cr c F.SPN_I_FS ≠ 0 → s.cr c F.SPN_KE ≠ 0 → s.cr c F.SPN_MOTOR_R_PH ≠ 0 → s.vbusOk c = true →
      s.cr c F.SPN_STS_CHOP_ON = 0 → 10 * s.cr c F.SPN_VBUS_UV ≤ o.vbus →
      ∃ t, exec (.pwmPeriod c o) s = .next t ∧ t.spinSt c = 1 ∧ (t.ch c).servo.respin = false ∧ (t.ch c).spin.catchN = 1) ∧
    (∀ o, s.running (chRg c) 0x10 = true → s.alive c = true → (s.ch c).st ≠ .bivouac → (s.ch c).servo.respin = false → s.cr c F.SPN_STS_CHOP_ON = 0 → 10 * s.cr c F.SPN_VBUS_UV ≤ o.vbus →
      10 * s.cr c F.SPN_VBUS_THR_CHOP_OFF < o.vbus → o.vbus < 10 * s.cr c F.SPN_VBUS_THR_CHOP_ON →
      ∃ t, exec (.pwmPeriod c o) s = .next t ∧ t.cr c F.SPN_VBUS = o.vbus % 4096 ∧ (t.ch c).spin.psfLow = o.psfLow ∧ (t.ch c).spin.uvN = 0 ∧
        (st < 3 → t.spinSt c = st ∧ (t.ch c).spin.duty = x.duty) ∧
        (st = 1 → (t.ch c).spin.catchN = x.catchN + 1) ∧
        (let duty := s.duties c o.theta x.vd x.vq
         let e := pwmEdges (pwmTicks (s.cr c F.SPN_SHUNT_WIN)) duty
         st = 6 → (t.ch c).spin.duty = duty ∧ (t.ch c).spin.edges = e.1 ∧ (t.ch c).spin.vectors = e.2 ∧
          t.cr c F.SPN_ANGLE_ELEC = o.theta % 65536 ∧
          (e.2.isSome → t.spinSt c = 6 ∧ (t.ch c).spin.noSample = 0 ∧ (t.ch c).spin.shunt = o.shunt.1) ∧
          (e.2 = none → (t.ch c).spin.shunt = x.shunt ∧ (x.noSample < 479 → t.spinSt c = 6 ∧ (t.ch c).spin.noSample = x.noSample + 1)) ∧
          (x.spN < 7 → t.cr c F.SPN_SPEED = s.cr c F.SPN_SPEED ∧ (t.ch c).spin.spSum = x.spSum + o.speed) ∧
          (7 ≤ x.spN → (t.ch c).spin.spSum = 0 ∧
            t.cr c F.SPN_SPEED = ofSigned 20 (Int.fdiv (x.spSum + o.speed) (8 * max 1 (s.cr c F.SPN_CFG_POLE_PAIRS))))))

/-- SLED_MOVE, _STOP, _HOME, _ENERGISE, _RELEASE, _CLEAR_FAULT, SLED_TICK, MOVE_DONE, STOP_DONE, HOME_SWITCH_EDGE, HOME_FAIL, SLED_OVERCURRENT,
HOLD_CURRENT and FOLLOW_ENTRY. -/
def Obligations.TheSledMovesStopsHomesAndFollows : Prop :=
  ∀ (s : State) (c : Fin 16) (src : Src),
    let st := s.sledSt c
    let x := (s.ch c).sled
    let u := s.unmark (chRg c) 0x11 0x100 false
    let idle := if s.mode c 2 = 3 then 5 else 1
    (s.reach src (chRg c) 0x11 = .open_ → s.alive c = false → ∀ e ∈ ([.sledMove src c 0 63, .sledStop src c, .sledHome src c, .sledEnergise src c,
      .sledRelease src c, .sledClearFault src c] : List Instr), exec e s = .next u) ∧
    (s.reach src (chRg c) 0x11 = .open_ → s.alive c = true →
      (∀ first last, first < 64 → last < 64 →
        (s.moveBar c first last ≠ 0 → exec (.sledMove src c first last) s = .next (u.sledRefuse c 1)) ∧
        (s.moveBar c first last = 0 → ∃ t, exec (.sledMove src c first last) s = .next t ∧ t.dram = s.dram ∧ (∀ d, d ≠ c → t.ch d = s.ch d) ∧
          (st ≠ 2 → st ≠ 3 → t.sledSt c = 2 ∧ t.cr c F.SLD_STS_SEG = first ∧ (t.ch c).sled.first = first ∧ (t.ch c).sled.last = last ∧
            (t.ch c).sled.p0 = x.pos ∧ (t.ch c).sled.t = 0) ∧
          (st = 2 ∨ st = 3 → t.sledSt c = st ∧ (t.ch c).sled = { x with succ := some (first, last) } ∧ t.cr c F.SLD_STS_SUCC = 1 ∧
            (x.succ.isSome → bitAt (t.cr c (F.HDR_IRQ_RAW 0x11)) 6 = true)))) ∧
      (st = 0 ∨ st = 6 → exec (.sledStop src c) s = .next (u.sledRefuse c 2) ∧ exec (.sledRelease src c) s = .next (u.sledRefuse c 2)) ∧
      (st = 1 → exec (.sledStop src c) s = .next (u.cirq c 0x11 1)) ∧
      (2 ≤ st → st ≤ 5 → ∃ t, exec (.sledStop src c) s = .next t ∧ t.sledSt c = 3 ∧ (t.ch c).sled = { x with succ := none, stop := .stop } ∧
        t.cr c F.SLD_STS_SUCC = 0) ∧
      (1 ≤ st → st ≤ 5 → ∃ t, exec (.sledRelease src c) s = .next t ∧ t.sledSt c = 0 ∧ t.cr c F.SLD_STS_HOMED = 0 ∧ (t.ch c).sled.refA = 0 ∧
        (t.ch c).sled.refB = 0 ∧ (t.ch c).sled.succ = none) ∧
      (st = 1 ∨ (st = 5 ∧ s.mode c 2 ≠ 3) → ∃ t, exec (.sledHome src c) s = .next t ∧ t.sledSt c = 4 ∧ t.cr c F.SLD_STS_HOMED = 0 ∧
        (t.ch c).sled.home = (if s.cr c F.SLD_STS_HOME_SW = 1 then .leave else .seek)) ∧
      (st ≠ 1 → st ≠ 5 ∨ s.mode c 2 = 3 → exec (.sledHome src c) s = .next (u.sledRefuse c 2)) ∧
      (st ≠ 0 → exec (.sledEnergise src c) s = .next (u.sledRefuse c 2)) ∧
      (st = 0 → ∃ t, exec (.sledEnergise src c) s = .next t ∧ t.sledSt c = 1 ∧ t.sledCurrent c = s.cr c F.SLD_CUR_I_HOLD) ∧
      (let low := fun f => (toSigned 16 (s.cr c f)).natAbs < s.cr c F.SLD_OC_THR
       (st = 6 → low F.SLD_I_MEAS_IA → low F.SLD_I_MEAS_IB → ∃ t, exec (.sledClearFault src c) s = .next t ∧ t.sledSt c = 0) ∧
       (st ≠ 6 ∨ ¬ low F.SLD_I_MEAS_IA ∨ ¬ low F.SLD_I_MEAS_IB → exec (.sledClearFault src c) s = .next (u.sledRefuse c 2)))) ∧
    (st ≠ 2 → exec (.moveDone c) s = .next s) ∧
    (st = 2 → let v1 := toSigned 16 (s.cr c (F.SLD_SEG_A_END_VEL x.last))
      ∃ t, exec (.moveDone c) s = .next t ∧ (t.ch c).sled.pos = toSigned 32 (s.cr c (F.SLD_SEG_B x.last)) * unitPos ∧
        bitAt (t.cr c (F.HDR_IRQ_RAW 0x11)) 0 = true ∧
        (∀ a b, x.succ = some (a, b) → t.sledSt c = 2 ∧ (t.ch c).sled.first = a ∧ (t.ch c).sled.last = b ∧ t.cr c F.SLD_STS_SEG = a % 64) ∧
        (x.succ = none → v1 = 0 → t.sledSt c = idle) ∧
        (x.succ = none → v1 ≠ 0 → t.sledSt c = 3 ∧ (t.ch c).sled.stop = .idle ∧ bitAt (t.cr c (F.HDR_IRQ_RAW 0x11)) 5 = true)) ∧
    (st ≠ 3 → exec (.stopDone c) s = .next s) ∧
    (st = 3 → ∃ t, exec (.stopDone c) s = .next t ∧ (t.ch c).sled.vel = 0 ∧
      (x.stop = .stop → bitAt (t.cr c (F.HDR_IRQ_RAW 0x11)) 1 = true) ∧
      (x.stop ≠ .home → x.succ = none → t.sledSt c = idle) ∧ (x.stop ≠ .home → x.succ.isSome → t.sledSt c = 2) ∧
      (x.stop = .home → x.home = .turn → t.sledSt c = 4 ∧ (t.ch c).sled.home = .back) ∧
      (x.stop = .home → x.home ≠ .turn → t.sledSt c = idle ∧ t.cr c F.SLD_STS_HOMED = 1 ∧ bitAt (t.cr c (F.HDR_IRQ_RAW 0x11)) 2 = true)) ∧
    (∀ level, ∃ t, exec (.homeSwitchEdge c level) s = .next t ∧ t.cr c F.SLD_STS_HOME_SW = b2n level ∧
      (st ≠ 4 → OnlyFields s t (FieldsOf (chRg c) [F.SLD_STS_HOME_SW])) ∧
      (st = 4 → level = true → x.home = .seek → t.sledSt c = 3 ∧ (t.ch c).sled = { x with home := .turn, stop := .home }) ∧
      (st = 4 → level = false → x.home = .back → t.sledSt c = 3 ∧ (t.ch c).sled = { x with pos := 0, home := .settle, stop := .home } ∧
        t.cr c F.SLD_POS = 0) ∧
      (st = 4 → level = false → x.home = .leave → t.sledSt c = 4 ∧ (t.ch c).sled = { x with home := .seek })) ∧
    (st ≠ 4 → (st ≠ 3 ∨ x.stop ≠ .home) → exec (.homeFail c) s = .next s) ∧
    (st = 4 ∨ (st = 3 ∧ x.stop = .home) → ∃ t, exec (.homeFail c) s = .next t ∧ t.sledSt c = 3 ∧ (t.ch c).sled = { x with stop := .homeFail } ∧
      t.cr c F.SLD_STS_HOMED = s.cr c F.SLD_STS_HOMED ∧ bitAt (t.cr c (F.HDR_IRQ_RAW 0x11)) 3 = true) ∧
    (s.alive c = true → ∃ t, exec (.sledOvercurrent c) s = .next t ∧ t.sledSt c = 6 ∧ t.cr c F.SLD_STS_HOMED = 0 ∧ t.sledCurrent c = 0 ∧
      (t.ch c).sled.refA = 0 ∧ (t.ch c).sled.refB = 0 ∧ bitAt (t.cr c (F.HDR_IRQ_RAW 0x11)) 8 = true) ∧
    (st ≠ 1 → exec (.holdCurrent c) s = .next s) ∧ (st = 1 → ∃ t, exec (.holdCurrent c) s = .next t ∧ t.sledCurrent c = s.cr c F.SLD_CUR_I_HOLD ∧
      t.regs = s.regs) ∧
    (exec (.followEntry c) s = .next (if st = 1 ∧ s.mode c 2 = 3 then s.cw c F.SLD_STS_STATE 5 else s)) ∧
    (∀ ia ib, s.alive c = false ∨ (s.ch c).st = .bivouac → exec (.sledTick c ia ib) s = .next s) ∧
    (∀ ia ib : Int, s.running (chRg c) 0x11 = true → s.alive c = true → (s.ch c).st ≠ .bivouac → st ≠ 6 →
      s.cr c F.SLD_OC_THR < ia.natAbs ∨ s.cr c F.SLD_OC_THR < ib.natAbs → ∃ t, exec (.sledTick c ia ib) s = .next t ∧ t.sledSt c = 6 ∧
        t.cr c F.SLD_STS_HOMED = 0 ∧ (t.ch c).sled.driveA = 0 ∧ (t.ch c).sled.driveB = 0 ∧ bitAt (t.cr c (F.HDR_IRQ_RAW 0x11)) 8 = true) ∧
    (∀ ia ib : Int, s.running (chRg c) 0x11 = true → s.alive c = true → (s.ch c).st ≠ .bivouac →
      st = 6 ∨ (ia.natAbs ≤ s.cr c F.SLD_OC_THR ∧ ib.natAbs ≤ s.cr c F.SLD_OC_THR) → ∃ t, exec (.sledTick c ia ib) s = .next t ∧
      t.cr c F.SLD_I_MEAS_IA = ofSigned 16 ia ∧ t.cr c F.SLD_I_MEAS_IB = ofSigned 16 ib ∧
      (st = 0 ∨ st = 6 → (t.ch c).sled = x ∧ t.sledSt c = st) ∧
      (st ≠ 0 → st ≠ 6 → t.sledSt c ≠ 0 → t.sledSt c ≠ 6 → let y := (t.ch c).sled
        y.integA = x.integA + s.cr c F.SLD_ILOOP_KI * (y.refA - ia) ∧ y.integB = x.integB + s.cr c F.SLD_ILOOP_KI * (y.refB - ib) ∧
        y.driveA = Config.sledBridge (s.cr c F.SLD_ILOOP_KP * (y.refA - ia) + y.integA) ∧
        y.driveB = Config.sledBridge (s.cr c F.SLD_ILOOP_KP * (y.refB - ib) + y.integB)) ∧
      (st = 1 → s.mode c 2 ≠ 3 → t.sledSt c = 1 ∧ (t.ch c).sled.pos = x.pos ∧ (t.ch c).sled.still = x.still + 1) ∧
      (st = 3 → x.stop ≠ .home → s.decel c < x.vel.natAbs → t.sledSt c = 3 ∧ (t.ch c).sled.vel = x.vel - x.vel.sign * s.decel c ∧
        (t.ch c).sled.pos = x.pos + x.vel + (t.ch c).sled.vel) ∧ t.dram = s.dram ∧ ∀ d, d ≠ c → t.ch d = s.ch d)

/-- PICKUP_TEMPERATURE_SAMPLE, RECOMP_TIMER, CAL_FORCE, SET_VALID_WRITE, PDELTA_WRITE, GENERATION_FORMED and GENERATION_APPLY. -/
def Obligations.GenerationsAreFormedAndAppliedWhole : Prop :=
  ∀ (s : State) (c : Fin 16) (src : Src),
    let heeds := s.cr c F.CAL_CTL_EN ≠ 0 ∧ s.cr c F.CAL_CTL_HOLD ≠ 1 ∧ s.cr c F.CAL_SET_VALID ≠ 0 ∧ s.cr c F.CAL_STS_TEMP_BAD ≠ 1 ∧ s.alive c = true
    let buf := 1 - s.cr c F.CAL_STS_BUF
    (¬ heeds → exec (.recompTimer c) s = .next s) ∧
    (heeds → ∃ t, exec (.recompTimer c) s = .next t ∧ t.ch c = { s.ch c with cal := { (s.ch c).cal with due := true } } ∧
      t.cr c F.CAL_STS_FORMING = 1 ∧ FieldsKept s t (FieldsOf (chRg c) [F.CAL_STS_FORMING])) ∧
    (s.reach src (chRg c) 0x50 = .open_ →
      (exec (.calForce src c) s = .next ((s.unmark (chRg c) 0x50 0x100 false).calDue c)) ∧
      (∀ mask, mask < 32 → (s.cr c F.CAL_SET_VALID = mask → exec (.setValidWrite src c mask) s = .next (s.unmark (chRg c) 0x50 0x108 false)) ∧
        (s.cr c F.CAL_SET_VALID ≠ mask → ∃ t, exec (.setValidWrite src c mask) s = .next t ∧ t.cr c F.CAL_SET_VALID = mask ∧
          (mask ≠ 0 → s.cr c F.CAL_CTL_EN ≠ 0 → s.cr c F.CAL_CTL_HOLD ≠ 1 → s.cr c F.CAL_STS_TEMP_BAD ≠ 1 → s.alive c = true →
            (t.ch c).cal.due = true ∧ t.cr c F.CAL_STS_FORMING = 1))) ∧
      (∀ v : BitVec 16, ∃ t, exec (.pdeltaWrite src c v) s = .next t ∧ t.tget .pdelta (chRg c) (s.cr c F.CAL_PDELTA_IDX_IDX) = v.toNat ∧
        (s.cr c F.CAL_PDELTA_IDX_AUTOINC = 1 → t.cr c F.CAL_PDELTA_IDX_IDX = (s.cr c F.CAL_PDELTA_IDX_IDX + 1) % 256) ∧
        (heeds → (t.ch c).cal.due = true) ∧
        FieldsKept s t (FieldsOf (chRg c) [F.CAL_PDELTA_IDX_IDX, F.CAL_STS_FORMING]))) ∧
    (∀ codes, s.alive c = false ∨ (s.ch c).st = .bivouac → exec (.pickupTemperatureSample c codes) s = .next s) ∧
    (∀ codes : List Nat, codes.length = 10 → s.alive c = true → (s.ch c).st ≠ .bivouac →
      let T := roundDiv (codes.map thermistor).sum 10
      let out := ∃ k ∈ codes, k < s.cr c F.MON_PU_LIMITS_LO_CODE ∨ s.cr c F.MON_PU_LIMITS_HI_CODE < k
      (out → ∃ t, exec (.pickupTemperatureSample c codes) s = .next t ∧ t.cr c F.CAL_STS_TEMP_BAD = 1 ∧
        t.cr c F.MON_PU_TEMP_BAD = (if s.shadowed (chRg c) then s.cr c F.MON_PU_TEMP_BAD else 1) ∧
        bitAt (t.cr c (F.HDR_IRQ_RAW 0x58)) 0 = true ∧ bitAt (t.cr c (F.HDR_IRQ_RAW 0x50)) 1 = true ∧ t.chans = s.chans ∧
        t.cr c F.CAL_TEMP_NOW = s.cr c F.CAL_TEMP_NOW) ∧
      (¬ out → ∃ t, exec (.pickupTemperatureSample c codes) s = .next t ∧ t.cr c F.CAL_STS_TEMP_BAD = 0 ∧
        t.cr c F.CAL_TEMP_NOW = ofSigned 16 T ∧ (s.shadowed (chRg c) = false → t.cr c F.MON_PU_TEMP_BAD = 0 ∧ t.cr c F.MON_PU_TEMP_T = ofSigned 16 T) ∧
        ((s.ch c).wr.session = .writing → 16 * (s.cr c F.WRC_STOP_CTL_PU_TMAX : Int) < T → (t.ch c).wr.session = .stopping ∧
          ((s.ch c).wr.stopping = none → (t.ch c).wr.stopping = some 6)) ∧
        (s.cr c F.CAL_PERIOD_DELTA ≤ (T - toSigned 16 (s.cr c F.CAL_TEMP_USED)).natAbs → s.cr c F.CAL_CTL_EN ≠ 0 → s.cr c F.CAL_CTL_HOLD ≠ 1 →
          s.cr c F.CAL_SET_VALID ≠ 0 → (t.ch c).cal.due = true ∧ t.cr c F.CAL_STS_FORMING = 1))) ∧
    (s.running (chRg c) 0x50 = true → (s.ch c).cal.gen = none →
      ((s.ch c).cal.due = false → exec (.generationFormed c) s = .next s) ∧
      (∀ a b num den, (s.ch c).cal.due = true → s.calPair c (toSigned 16 (s.cr c F.CAL_TEMP_NOW)) = some (a, b, num, den) →
        (s.calPoisoned c a b buf = true → ∃ t, exec (.generationFormed c) s = .next t ∧ (t.ch c).cal.gen = none ∧ (t.ch c).cal.due = false ∧
          t.cr c F.CAL_STS_FORMING = 0 ∧ bitAt (t.cr c (F.HDR_IRQ_RAW 0x50)) 0 = true ∧ t.dram = s.dram) ∧
        (s.calPoisoned c a b buf = false → s.cr c F.WOB_STS_ADIP_VALID = 0 → s.calBarred c = false → ∃ t, exec (.generationFormed c) s = .next t ∧
          (t.ch c).cal.gen = none ∧ (t.ch c).cal.due = false ∧ t.cr c F.CAL_STS_BUF = buf % 2 ∧ t.cr c F.CAL_STS_PENDING = 0 ∧
          t.cr c F.CAL_GEN = (s.cr c F.CAL_GEN + 1) % 2 ^ 32 ∧ t.cr c F.CAL_TEMP_USED = s.cr c F.CAL_TEMP_NOW % 2 ^ 16 ∧
          bitAt (t.cr c (F.HDR_IRQ_RAW 0x50)) 2 = true) ∧
        (s.calPoisoned c a b buf = false → s.cr c F.WOB_STS_ADIP_VALID ≠ 0 → ∃ t g, exec (.generationFormed c) s = .next t ∧
          (t.ch c).cal = { (s.ch c).cal with gen := some g, due := false, formed := s.plat.time } ∧ t.cr c F.CAL_STS_FORMING = 0 ∧
          t.cr c F.CAL_STS_PENDING = 1 ∧ t.cr c F.CAL_TEMP_USED = s.cr c F.CAL_TEMP_NOW % 2 ^ 16 ∧
          g.strat = decide (s.cr c F.CAL_CTL_STRAT_EN = 1) ∧ g.zone = decide (s.cr c F.CAL_CTL_ZONE_EN = 1) ∧
          (∀ x, x < s.workBase c buf ∨ s.workBase c buf + 0x182000 ≤ x → t.dramByte c x = s.dramByte c x) ∧
          FieldsKept s t (FieldsOf (chRg c) [F.CAL_STS_FORMING, F.CAL_STS_PENDING, F.CAL_TEMP_USED])))) ∧
    (∀ g a b num den, s.running (chRg c) 0x50 = true → (s.ch c).cal.gen = some g → (s.ch c).cal.due = true → s.cr c F.WOB_STS_ADIP_VALID ≠ 0 →
      s.calPair c (toSigned 16 (s.cr c F.CAL_TEMP_NOW)) = some (a, b, num, den) → s.calPoisoned c a b buf = false →
      ∃ t g', exec (.generationFormed c) s = .next t ∧ (t.ch c).cal.gen = some g' ∧ (t.ch c).cal.due = false ∧
        t.cr c F.CAL_CNT_DISCARD = min (s.cr c F.CAL_CNT_DISCARD + 1) 65535 ∧ g'.strat = decide (s.cr c F.CAL_CTL_STRAT_EN = 1) ∧
        g'.zone = decide (s.cr c F.CAL_CTL_ZONE_EN = 1)) ∧
    ((s.ch c).cal.gen = none → exec (.generationApply c) s = .next s) ∧
    (∀ g, (s.ch c).cal.gen = some g →
      (s.calBarred c = true → ∃ t, exec (.generationApply c) s = .next t ∧ t.cr c F.CAL_CNT_DEFER = min (s.cr c F.CAL_CNT_DEFER + 1) 65535 ∧
        OnlyFields s t (FieldsOf (chRg c) [F.CAL_CNT_DEFER])) ∧
      (s.calBarred c = false → ∃ t, exec (.generationApply c) s = .next t ∧ (t.ch c).cal.gen = none ∧ t.cr c F.CAL_STS_BUF = buf % 2 ∧
        t.cr c F.CAL_STS_PENDING = 0 ∧ t.cr c F.CAL_GEN = (s.cr c F.CAL_GEN + 1) % 2 ^ 32 ∧ bitAt (t.cr c (F.HDR_IRQ_RAW 0x50)) 2 = true ∧
        t.cr c F.XTC_ZT_BASE = (if g.zone then s.workBase c buf % 2 ^ 32 else s.cr c F.XTC_ZT_BASE) ∧
        t.cr c F.TPY_ST_BASE = (if g.strat then (s.workBase c buf + 0x180000) % 2 ^ 32 else s.cr c F.TPY_ST_BASE) ∧
        (g.strat = true → (s.ch c).wr.session ≠ .idle ∨ s.cr c F.TPY_CTL_HOLD_TABLE = 1 → (t.ch c).wr.tpyStale = true) ∧ t.dram = s.dram ∧ ∀ d, d ≠ c → t.ch d = s.ch d))
end

