-- ==== Sys2Proof/Laws/State.lean ====
section
/-! SUPPORT. One lemma per field of the state and per operation that leaves the field as it was, so that no proof unfolds a record
update. -/

namespace Sys2Proof.Machine
open Sys2Proof

variable (s : State)

@[simp] theorem State.wr_tbl (rg : Nat) (f : Fld) (v : Nat) : (s.wr rg f v).tbl = s.tbl := rfl
@[simp] theorem State.wr_latch (rg : Nat) (f : Fld) (v : Nat) : (s.wr rg f v).latch = s.latch := rfl
@[simp] theorem State.wr_flyHeld (rg : Nat) (f : Fld) (v : Nat) : (s.wr rg f v).flyHeld = s.flyHeld := rfl
@[simp] theorem State.wr_parity (rg : Nat) (f : Fld) (v : Nat) : (s.wr rg f v).parity = s.parity := rfl
@[simp] theorem State.wr_groups (rg : Nat) (f : Fld) (v : Nat) : (s.wr rg f v).groups = s.groups := rfl
@[simp] theorem State.wr_front (rg : Nat) (f : Fld) (v : Nat) : (s.wr rg f v).front = s.front := rfl
@[simp] theorem State.wr_chans (rg : Nat) (f : Fld) (v : Nat) : (s.wr rg f v).chans = s.chans := rfl
@[simp] theorem State.wr_dram (rg : Nat) (f : Fld) (v : Nat) : (s.wr rg f v).dram = s.dram := rfl
@[simp] theorem State.wr_poison (rg : Nat) (f : Fld) (v : Nat) : (s.wr rg f v).poison = s.poison := rfl
@[simp] theorem State.wr_sec (rg : Nat) (f : Fld) (v : Nat) : (s.wr rg f v).sec = s.sec := rfl
@[simp] theorem State.wr_plat (rg : Nat) (f : Fld) (v : Nat) : (s.wr rg f v).plat = s.plat := rfl
@[simp] theorem State.wr_out (rg : Nat) (f : Fld) (v : Nat) : (s.wr rg f v).out = s.out := rfl
@[simp] theorem State.wr_free (rg : Nat) (f : Fld) (v : Nat) : (s.wr rg f v).free = s.free := rfl
@[simp] theorem State.wr_pending (rg : Nat) (f : Fld) (v : Nat) : (s.wr rg f v).pending = s.pending := rfl

@[simp] theorem State.wrFly_tbl (rg : Nat) (f : Fld) (v : Nat) : (s.wrFly rg f v).tbl = s.tbl := rfl
@[simp] theorem State.wrFly_latch (rg : Nat) (f : Fld) (v : Nat) : (s.wrFly rg f v).latch = s.latch := rfl
@[simp] theorem State.wrFly_flyHeld (rg : Nat) (f : Fld) (v : Nat) : (s.wrFly rg f v).flyHeld = s.flyHeld := rfl
@[simp] theorem State.wrFly_parity (rg : Nat) (f : Fld) (v : Nat) : (s.wrFly rg f v).parity = s.parity := rfl
@[simp] theorem State.wrFly_groups (rg : Nat) (f : Fld) (v : Nat) : (s.wrFly rg f v).groups = s.groups := rfl
@[simp] theorem State.wrFly_front (rg : Nat) (f : Fld) (v : Nat) : (s.wrFly rg f v).front = s.front := rfl
@[simp] theorem State.wrFly_chans (rg : Nat) (f : Fld) (v : Nat) : (s.wrFly rg f v).chans = s.chans := rfl
@[simp] theorem State.wrFly_dram (rg : Nat) (f : Fld) (v : Nat) : (s.wrFly rg f v).dram = s.dram := rfl
@[simp] theorem State.wrFly_poison (rg : Nat) (f : Fld) (v : Nat) : (s.wrFly rg f v).poison = s.poison := rfl
@[simp] theorem State.wrFly_sec (rg : Nat) (f : Fld) (v : Nat) : (s.wrFly rg f v).sec = s.sec := rfl
@[simp] theorem State.wrFly_plat (rg : Nat) (f : Fld) (v : Nat) : (s.wrFly rg f v).plat = s.plat := rfl
@[simp] theorem State.wrFly_out (rg : Nat) (f : Fld) (v : Nat) : (s.wrFly rg f v).out = s.out := rfl
@[simp] theorem State.wrFly_free (rg : Nat) (f : Fld) (v : Nat) : (s.wrFly rg f v).free = s.free := rfl
@[simp] theorem State.wrFly_pending (rg : Nat) (f : Fld) (v : Nat) : (s.wrFly rg f v).pending = s.pending := rfl

@[simp] theorem State.pw_tbl (f : Fld) (v : Nat) : (s.pw f v).tbl = s.tbl := rfl
@[simp] theorem State.pw_latch (f : Fld) (v : Nat) : (s.pw f v).latch = s.latch := rfl
@[simp] theorem State.pw_flyHeld (f : Fld) (v : Nat) : (s.pw f v).flyHeld = s.flyHeld := rfl
@[simp] theorem State.pw_parity (f : Fld) (v : Nat) : (s.pw f v).parity = s.parity := rfl
@[simp] theorem State.pw_groups (f : Fld) (v : Nat) : (s.pw f v).groups = s.groups := rfl
@[simp] theorem State.pw_front (f : Fld) (v : Nat) : (s.pw f v).front = s.front := rfl
@[simp] theorem State.pw_chans (f : Fld) (v : Nat) : (s.pw f v).chans = s.chans := rfl
@[simp] theorem State.pw_dram (f : Fld) (v : Nat) : (s.pw f v).dram = s.dram := rfl
@[simp] theorem State.pw_poison (f : Fld) (v : Nat) : (s.pw f v).poison = s.poison := rfl
@[simp] theorem State.pw_sec (f : Fld) (v : Nat) : (s.pw f v).sec = s.sec := rfl
@[simp] theorem State.pw_plat (f : Fld) (v : Nat) : (s.pw f v).plat = s.plat := rfl
@[simp] theorem State.pw_out (f : Fld) (v : Nat) : (s.pw f v).out = s.out := rfl
@[simp] theorem State.pw_free (f : Fld) (v : Nat) : (s.pw f v).free = s.free := rfl
@[simp] theorem State.pw_pending (f : Fld) (v : Nat) : (s.pw f v).pending = s.pending := rfl

@[simp] theorem State.cw_tbl (c : Fin 16) (f : Fld) (v : Nat) : (s.cw c f v).tbl = s.tbl := rfl
@[simp] theorem State.cw_latch (c : Fin 16) (f : Fld) (v : Nat) : (s.cw c f v).latch = s.latch := rfl
@[simp] theorem State.cw_flyHeld (c : Fin 16) (f : Fld) (v : Nat) : (s.cw c f v).flyHeld = s.flyHeld := rfl
@[simp] theorem State.cw_parity (c : Fin 16) (f : Fld) (v : Nat) : (s.cw c f v).parity = s.parity := rfl
@[simp] theorem State.cw_groups (c : Fin 16) (f : Fld) (v : Nat) : (s.cw c f v).groups = s.groups := rfl
@[simp] theorem State.cw_front (c : Fin 16) (f : Fld) (v : Nat) : (s.cw c f v).front = s.front := rfl
@[simp] theorem State.cw_chans (c : Fin 16) (f : Fld) (v : Nat) : (s.cw c f v).chans = s.chans := rfl
@[simp] theorem State.cw_dram (c : Fin 16) (f : Fld) (v : Nat) : (s.cw c f v).dram = s.dram := rfl
@[simp] theorem State.cw_poison (c : Fin 16) (f : Fld) (v : Nat) : (s.cw c f v).poison = s.poison := rfl
@[simp] theorem State.cw_sec (c : Fin 16) (f : Fld) (v : Nat) : (s.cw c f v).sec = s.sec := rfl
@[simp] theorem State.cw_plat (c : Fin 16) (f : Fld) (v : Nat) : (s.cw c f v).plat = s.plat := rfl
@[simp] theorem State.cw_out (c : Fin 16) (f : Fld) (v : Nat) : (s.cw c f v).out = s.out := rfl
@[simp] theorem State.cw_free (c : Fin 16) (f : Fld) (v : Nat) : (s.cw c f v).free = s.free := rfl
@[simp] theorem State.cw_pending (c : Fin 16) (f : Fld) (v : Nat) : (s.cw c f v).pending = s.pending := rfl

@[simp] theorem State.incSat_tbl (rg : Nat) (f : Fld) (n : Nat) : (s.incSat rg f n).tbl = s.tbl := rfl
@[simp] theorem State.incSat_latch (rg : Nat) (f : Fld) (n : Nat) : (s.incSat rg f n).latch = s.latch := rfl
@[simp] theorem State.incSat_flyHeld (rg : Nat) (f : Fld) (n : Nat) : (s.incSat rg f n).flyHeld = s.flyHeld := rfl
@[simp] theorem State.incSat_parity (rg : Nat) (f : Fld) (n : Nat) : (s.incSat rg f n).parity = s.parity := rfl
@[simp] theorem State.incSat_groups (rg : Nat) (f : Fld) (n : Nat) : (s.incSat rg f n).groups = s.groups := rfl
@[simp] theorem State.incSat_front (rg : Nat) (f : Fld) (n : Nat) : (s.incSat rg f n).front = s.front := rfl
@[simp] theorem State.incSat_chans (rg : Nat) (f : Fld) (n : Nat) : (s.incSat rg f n).chans = s.chans := rfl
@[simp] theorem State.incSat_dram (rg : Nat) (f : Fld) (n : Nat) : (s.incSat rg f n).dram = s.dram := rfl
@[simp] theorem State.incSat_poison (rg : Nat) (f : Fld) (n : Nat) : (s.incSat rg f n).poison = s.poison := rfl
@[simp] theorem State.incSat_sec (rg : Nat) (f : Fld) (n : Nat) : (s.incSat rg f n).sec = s.sec := rfl
@[simp] theorem State.incSat_plat (rg : Nat) (f : Fld) (n : Nat) : (s.incSat rg f n).plat = s.plat := rfl
@[simp] theorem State.incSat_out (rg : Nat) (f : Fld) (n : Nat) : (s.incSat rg f n).out = s.out := rfl
@[simp] theorem State.incSat_free (rg : Nat) (f : Fld) (n : Nat) : (s.incSat rg f n).free = s.free := rfl
@[simp] theorem State.incSat_pending (rg : Nat) (f : Fld) (n : Nat) : (s.incSat rg f n).pending = s.pending := rfl

@[simp] theorem State.incWrap_tbl (rg : Nat) (f : Fld) (n : Nat) : (s.incWrap rg f n).tbl = s.tbl := rfl
@[simp] theorem State.incWrap_latch (rg : Nat) (f : Fld) (n : Nat) : (s.incWrap rg f n).latch = s.latch := rfl
@[simp] theorem State.incWrap_flyHeld (rg : Nat) (f : Fld) (n : Nat) : (s.incWrap rg f n).flyHeld = s.flyHeld := rfl
@[simp] theorem State.incWrap_parity (rg : Nat) (f : Fld) (n : Nat) : (s.incWrap rg f n).parity = s.parity := rfl
@[simp] theorem State.incWrap_groups (rg : Nat) (f : Fld) (n : Nat) : (s.incWrap rg f n).groups = s.groups := rfl
@[simp] theorem State.incWrap_front (rg : Nat) (f : Fld) (n : Nat) : (s.incWrap rg f n).front = s.front := rfl
@[simp] theorem State.incWrap_chans (rg : Nat) (f : Fld) (n : Nat) : (s.incWrap rg f n).chans = s.chans := rfl
@[simp] theorem State.incWrap_dram (rg : Nat) (f : Fld) (n : Nat) : (s.incWrap rg f n).dram = s.dram := rfl
@[simp] theorem State.incWrap_poison (rg : Nat) (f : Fld) (n : Nat) : (s.incWrap rg f n).poison = s.poison := rfl
@[simp] theorem State.incWrap_sec (rg : Nat) (f : Fld) (n : Nat) : (s.incWrap rg f n).sec = s.sec := rfl
@[simp] theorem State.incWrap_plat (rg : Nat) (f : Fld) (n : Nat) : (s.incWrap rg f n).plat = s.plat := rfl
@[simp] theorem State.incWrap_out (rg : Nat) (f : Fld) (n : Nat) : (s.incWrap rg f n).out = s.out := rfl
@[simp] theorem State.incWrap_free (rg : Nat) (f : Fld) (n : Nat) : (s.incWrap rg f n).free = s.free := rfl
@[simp] theorem State.incWrap_pending (rg : Nat) (f : Fld) (n : Nat) : (s.incWrap rg f n).pending = s.pending := rfl

@[simp] theorem State.tput_regs (t : Tbl) (rg i v : Nat) : (s.tput t rg i v).regs = s.regs := rfl
@[simp] theorem State.tput_latch (t : Tbl) (rg i v : Nat) : (s.tput t rg i v).latch = s.latch := rfl
@[simp] theorem State.tput_flyHeld (t : Tbl) (rg i v : Nat) : (s.tput t rg i v).flyHeld = s.flyHeld := rfl
@[simp] theorem State.tput_parity (t : Tbl) (rg i v : Nat) : (s.tput t rg i v).parity = s.parity := rfl
@[simp] theorem State.tput_groups (t : Tbl) (rg i v : Nat) : (s.tput t rg i v).groups = s.groups := rfl
@[simp] theorem State.tput_front (t : Tbl) (rg i v : Nat) : (s.tput t rg i v).front = s.front := rfl
@[simp] theorem State.tput_chans (t : Tbl) (rg i v : Nat) : (s.tput t rg i v).chans = s.chans := rfl
@[simp] theorem State.tput_dram (t : Tbl) (rg i v : Nat) : (s.tput t rg i v).dram = s.dram := rfl
@[simp] theorem State.tput_poison (t : Tbl) (rg i v : Nat) : (s.tput t rg i v).poison = s.poison := rfl
@[simp] theorem State.tput_sec (t : Tbl) (rg i v : Nat) : (s.tput t rg i v).sec = s.sec := rfl
@[simp] theorem State.tput_plat (t : Tbl) (rg i v : Nat) : (s.tput t rg i v).plat = s.plat := rfl
@[simp] theorem State.tput_out (t : Tbl) (rg i v : Nat) : (s.tput t rg i v).out = s.out := rfl
@[simp] theorem State.tput_free (t : Tbl) (rg i v : Nat) : (s.tput t rg i v).free = s.free := rfl
@[simp] theorem State.tput_pending (t : Tbl) (rg i v : Nat) : (s.tput t rg i v).pending = s.pending := rfl

@[simp] theorem State.tclear_regs (t : Tbl) (rg : Nat) : (s.tclear t rg).regs = s.regs := rfl
@[simp] theorem State.tclear_latch (t : Tbl) (rg : Nat) : (s.tclear t rg).latch = s.latch := rfl
@[simp] theorem State.tclear_flyHeld (t : Tbl) (rg : Nat) : (s.tclear t rg).flyHeld = s.flyHeld := rfl
@[simp] theorem State.tclear_parity (t : Tbl) (rg : Nat) : (s.tclear t rg).parity = s.parity := rfl
@[simp] theorem State.tclear_groups (t : Tbl) (rg : Nat) : (s.tclear t rg).groups = s.groups := rfl
@[simp] theorem State.tclear_front (t : Tbl) (rg : Nat) : (s.tclear t rg).front = s.front := rfl
@[simp] theorem State.tclear_chans (t : Tbl) (rg : Nat) : (s.tclear t rg).chans = s.chans := rfl
@[simp] theorem State.tclear_dram (t : Tbl) (rg : Nat) : (s.tclear t rg).dram = s.dram := rfl
@[simp] theorem State.tclear_poison (t : Tbl) (rg : Nat) : (s.tclear t rg).poison = s.poison := rfl
@[simp] theorem State.tclear_sec (t : Tbl) (rg : Nat) : (s.tclear t rg).sec = s.sec := rfl
@[simp] theorem State.tclear_plat (t : Tbl) (rg : Nat) : (s.tclear t rg).plat = s.plat := rfl
@[simp] theorem State.tclear_out (t : Tbl) (rg : Nat) : (s.tclear t rg).out = s.out := rfl
@[simp] theorem State.tclear_free (t : Tbl) (rg : Nat) : (s.tclear t rg).free = s.free := rfl
@[simp] theorem State.tclear_pending (t : Tbl) (rg : Nat) : (s.tclear t rg).pending = s.pending := rfl

@[simp] theorem State.resetFields_tbl (rg : Nat) (p : Nat → Nat → Bool) : (s.resetFields rg p).tbl = s.tbl := rfl
@[simp] theorem State.resetFields_latch (rg : Nat) (p : Nat → Nat → Bool) : (s.resetFields rg p).latch = s.latch := rfl
@[simp] theorem State.resetFields_flyHeld (rg : Nat) (p : Nat → Nat → Bool) : (s.resetFields rg p).flyHeld = s.flyHeld := rfl
@[simp] theorem State.resetFields_groups (rg : Nat) (p : Nat → Nat → Bool) : (s.resetFields rg p).groups = s.groups := rfl
@[simp] theorem State.resetFields_front (rg : Nat) (p : Nat → Nat → Bool) : (s.resetFields rg p).front = s.front := rfl
@[simp] theorem State.resetFields_chans (rg : Nat) (p : Nat → Nat → Bool) : (s.resetFields rg p).chans = s.chans := rfl
@[simp] theorem State.resetFields_dram (rg : Nat) (p : Nat → Nat → Bool) : (s.resetFields rg p).dram = s.dram := rfl
@[simp] theorem State.resetFields_poison (rg : Nat) (p : Nat → Nat → Bool) : (s.resetFields rg p).poison = s.poison := rfl
@[simp] theorem State.resetFields_sec (rg : Nat) (p : Nat → Nat → Bool) : (s.resetFields rg p).sec = s.sec := rfl
@[simp] theorem State.resetFields_plat (rg : Nat) (p : Nat → Nat → Bool) : (s.resetFields rg p).plat = s.plat := rfl
@[simp] theorem State.resetFields_out (rg : Nat) (p : Nat → Nat → Bool) : (s.resetFields rg p).out = s.out := rfl
@[simp] theorem State.resetFields_free (rg : Nat) (p : Nat → Nat → Bool) : (s.resetFields rg p).free = s.free := rfl
@[simp] theorem State.resetFields_pending (rg : Nat) (p : Nat → Nat → Bool) : (s.resetFields rg p).pending = s.pending := rfl

@[simp] theorem State.setCh_regs (c : Fin 16) (x : Chan) : (s.setCh c x).regs = s.regs := rfl
@[simp] theorem State.setCh_tbl (c : Fin 16) (x : Chan) : (s.setCh c x).tbl = s.tbl := rfl
@[simp] theorem State.setCh_latch (c : Fin 16) (x : Chan) : (s.setCh c x).latch = s.latch := rfl
@[simp] theorem State.setCh_flyHeld (c : Fin 16) (x : Chan) : (s.setCh c x).flyHeld = s.flyHeld := rfl
@[simp] theorem State.setCh_parity (c : Fin 16) (x : Chan) : (s.setCh c x).parity = s.parity := rfl
@[simp] theorem State.setCh_groups (c : Fin 16) (x : Chan) : (s.setCh c x).groups = s.groups := rfl
@[simp] theorem State.setCh_front (c : Fin 16) (x : Chan) : (s.setCh c x).front = s.front := rfl
@[simp] theorem State.setCh_dram (c : Fin 16) (x : Chan) : (s.setCh c x).dram = s.dram := rfl
@[simp] theorem State.setCh_poison (c : Fin 16) (x : Chan) : (s.setCh c x).poison = s.poison := rfl
@[simp] theorem State.setCh_sec (c : Fin 16) (x : Chan) : (s.setCh c x).sec = s.sec := rfl
@[simp] theorem State.setCh_plat (c : Fin 16) (x : Chan) : (s.setCh c x).plat = s.plat := rfl
@[simp] theorem State.setCh_out (c : Fin 16) (x : Chan) : (s.setCh c x).out = s.out := rfl
@[simp] theorem State.setCh_free (c : Fin 16) (x : Chan) : (s.setCh c x).free = s.free := rfl
@[simp] theorem State.setCh_pending (c : Fin 16) (x : Chan) : (s.setCh c x).pending = s.pending := rfl

@[simp] theorem State.modCh_regs (c : Fin 16) (f : Chan → Chan) : (s.modCh c f).regs = s.regs := rfl
@[simp] theorem State.modCh_tbl (c : Fin 16) (f : Chan → Chan) : (s.modCh c f).tbl = s.tbl := rfl
@[simp] theorem State.modCh_latch (c : Fin 16) (f : Chan → Chan) : (s.modCh c f).latch = s.latch := rfl
@[simp] theorem State.modCh_flyHeld (c : Fin 16) (f : Chan → Chan) : (s.modCh c f).flyHeld = s.flyHeld := rfl
@[simp] theorem State.modCh_parity (c : Fin 16) (f : Chan → Chan) : (s.modCh c f).parity = s.parity := rfl
@[simp] theorem State.modCh_groups (c : Fin 16) (f : Chan → Chan) : (s.modCh c f).groups = s.groups := rfl
@[simp] theorem State.modCh_front (c : Fin 16) (f : Chan → Chan) : (s.modCh c f).front = s.front := rfl
@[simp] theorem State.modCh_dram (c : Fin 16) (f : Chan → Chan) : (s.modCh c f).dram = s.dram := rfl
@[simp] theorem State.modCh_poison (c : Fin 16) (f : Chan → Chan) : (s.modCh c f).poison = s.poison := rfl
@[simp] theorem State.modCh_sec (c : Fin 16) (f : Chan → Chan) : (s.modCh c f).sec = s.sec := rfl
@[simp] theorem State.modCh_plat (c : Fin 16) (f : Chan → Chan) : (s.modCh c f).plat = s.plat := rfl
@[simp] theorem State.modCh_out (c : Fin 16) (f : Chan → Chan) : (s.modCh c f).out = s.out := rfl
@[simp] theorem State.modCh_free (c : Fin 16) (f : Chan → Chan) : (s.modCh c f).free = s.free := rfl
@[simp] theorem State.modCh_pending (c : Fin 16) (f : Chan → Chan) : (s.modCh c f).pending = s.pending := rfl

@[simp] theorem State.draw_regs (w : Nat) : ((s.draw w).2).regs = s.regs := rfl
@[simp] theorem State.draw_tbl (w : Nat) : ((s.draw w).2).tbl = s.tbl := rfl
@[simp] theorem State.draw_latch (w : Nat) : ((s.draw w).2).latch = s.latch := rfl
@[simp] theorem State.draw_flyHeld (w : Nat) : ((s.draw w).2).flyHeld = s.flyHeld := rfl
@[simp] theorem State.draw_parity (w : Nat) : ((s.draw w).2).parity = s.parity := rfl
@[simp] theorem State.draw_groups (w : Nat) : ((s.draw w).2).groups = s.groups := rfl
@[simp] theorem State.draw_front (w : Nat) : ((s.draw w).2).front = s.front := rfl
@[simp] theorem State.draw_chans (w : Nat) : ((s.draw w).2).chans = s.chans := rfl
@[simp] theorem State.draw_dram (w : Nat) : ((s.draw w).2).dram = s.dram := rfl
@[simp] theorem State.draw_poison (w : Nat) : ((s.draw w).2).poison = s.poison := rfl
@[simp] theorem State.draw_sec (w : Nat) : ((s.draw w).2).sec = s.sec := rfl
@[simp] theorem State.draw_plat (w : Nat) : ((s.draw w).2).plat = s.plat := rfl
@[simp] theorem State.draw_out (w : Nat) : ((s.draw w).2).out = s.out := rfl
@[simp] theorem State.draw_pending (w : Nat) : ((s.draw w).2).pending = s.pending := rfl

@[simp] theorem State.answer_regs (o : Out) : (s.answer o).regs = s.regs := rfl
@[simp] theorem State.answer_tbl (o : Out) : (s.answer o).tbl = s.tbl := rfl
@[simp] theorem State.answer_latch (o : Out) : (s.answer o).latch = s.latch := rfl
@[simp] theorem State.answer_flyHeld (o : Out) : (s.answer o).flyHeld = s.flyHeld := rfl
@[simp] theorem State.answer_parity (o : Out) : (s.answer o).parity = s.parity := rfl
@[simp] theorem State.answer_groups (o : Out) : (s.answer o).groups = s.groups := rfl
@[simp] theorem State.answer_front (o : Out) : (s.answer o).front = s.front := rfl
@[simp] theorem State.answer_chans (o : Out) : (s.answer o).chans = s.chans := rfl
@[simp] theorem State.answer_dram (o : Out) : (s.answer o).dram = s.dram := rfl
@[simp] theorem State.answer_poison (o : Out) : (s.answer o).poison = s.poison := rfl
@[simp] theorem State.answer_sec (o : Out) : (s.answer o).sec = s.sec := rfl
@[simp] theorem State.answer_plat (o : Out) : (s.answer o).plat = s.plat := rfl
@[simp] theorem State.answer_free (o : Out) : (s.answer o).free = s.free := rfl
@[simp] theorem State.answer_pending (o : Out) : (s.answer o).pending = s.pending := rfl

@[simp] theorem State.traceEvent_regs (rg page bit : Nat) : (s.traceEvent rg page bit).regs = s.regs := rfl
@[simp] theorem State.traceEvent_tbl (rg page bit : Nat) : (s.traceEvent rg page bit).tbl = s.tbl := rfl
@[simp] theorem State.traceEvent_latch (rg page bit : Nat) : (s.traceEvent rg page bit).latch = s.latch := rfl
@[simp] theorem State.traceEvent_flyHeld (rg page bit : Nat) : (s.traceEvent rg page bit).flyHeld = s.flyHeld := rfl
@[simp] theorem State.traceEvent_parity (rg page bit : Nat) : (s.traceEvent rg page bit).parity = s.parity := rfl
@[simp] theorem State.traceEvent_groups (rg page bit : Nat) : (s.traceEvent rg page bit).groups = s.groups := rfl
@[simp] theorem State.traceEvent_chans (rg page bit : Nat) : (s.traceEvent rg page bit).chans = s.chans := rfl
@[simp] theorem State.traceEvent_dram (rg page bit : Nat) : (s.traceEvent rg page bit).dram = s.dram := rfl
@[simp] theorem State.traceEvent_poison (rg page bit : Nat) : (s.traceEvent rg page bit).poison = s.poison := rfl
@[simp] theorem State.traceEvent_sec (rg page bit : Nat) : (s.traceEvent rg page bit).sec = s.sec := rfl
@[simp] theorem State.traceEvent_plat (rg page bit : Nat) : (s.traceEvent rg page bit).plat = s.plat := rfl
@[simp] theorem State.traceEvent_out (rg page bit : Nat) : (s.traceEvent rg page bit).out = s.out := rfl
@[simp] theorem State.traceEvent_free (rg page bit : Nat) : (s.traceEvent rg page bit).free = s.free := rfl
@[simp] theorem State.traceEvent_pending (rg page bit : Nat) : (s.traceEvent rg page bit).pending = s.pending := rfl

@[simp] theorem State.modFront_regs (f : Front → Front) : (s.modFront f).regs = s.regs := rfl
@[simp] theorem State.modFront_tbl (f : Front → Front) : (s.modFront f).tbl = s.tbl := rfl
@[simp] theorem State.modFront_latch (f : Front → Front) : (s.modFront f).latch = s.latch := rfl
@[simp] theorem State.modFront_flyHeld (f : Front → Front) : (s.modFront f).flyHeld = s.flyHeld := rfl
@[simp] theorem State.modFront_parity (f : Front → Front) : (s.modFront f).parity = s.parity := rfl
@[simp] theorem State.modFront_groups (f : Front → Front) : (s.modFront f).groups = s.groups := rfl
@[simp] theorem State.modFront_chans (f : Front → Front) : (s.modFront f).chans = s.chans := rfl
@[simp] theorem State.modFront_dram (f : Front → Front) : (s.modFront f).dram = s.dram := rfl
@[simp] theorem State.modFront_poison (f : Front → Front) : (s.modFront f).poison = s.poison := rfl
@[simp] theorem State.modFront_sec (f : Front → Front) : (s.modFront f).sec = s.sec := rfl
@[simp] theorem State.modFront_plat (f : Front → Front) : (s.modFront f).plat = s.plat := rfl
@[simp] theorem State.modFront_out (f : Front → Front) : (s.modFront f).out = s.out := rfl
@[simp] theorem State.modFront_free (f : Front → Front) : (s.modFront f).free = s.free := rfl
@[simp] theorem State.modFront_pending (f : Front → Front) : (s.modFront f).pending = s.pending := rfl

@[simp] theorem State.modSec_regs (f : Security → Security) : (s.modSec f).regs = s.regs := rfl
@[simp] theorem State.modSec_tbl (f : Security → Security) : (s.modSec f).tbl = s.tbl := rfl
@[simp] theorem State.modSec_latch (f : Security → Security) : (s.modSec f).latch = s.latch := rfl
@[simp] theorem State.modSec_flyHeld (f : Security → Security) : (s.modSec f).flyHeld = s.flyHeld := rfl
@[simp] theorem State.modSec_parity (f : Security → Security) : (s.modSec f).parity = s.parity := rfl
@[simp] theorem State.modSec_groups (f : Security → Security) : (s.modSec f).groups = s.groups := rfl
@[simp] theorem State.modSec_front (f : Security → Security) : (s.modSec f).front = s.front := rfl
@[simp] theorem State.modSec_chans (f : Security → Security) : (s.modSec f).chans = s.chans := rfl
@[simp] theorem State.modSec_dram (f : Security → Security) : (s.modSec f).dram = s.dram := rfl
@[simp] theorem State.modSec_poison (f : Security → Security) : (s.modSec f).poison = s.poison := rfl
@[simp] theorem State.modSec_plat (f : Security → Security) : (s.modSec f).plat = s.plat := rfl
@[simp] theorem State.modSec_out (f : Security → Security) : (s.modSec f).out = s.out := rfl
@[simp] theorem State.modSec_free (f : Security → Security) : (s.modSec f).free = s.free := rfl
@[simp] theorem State.modSec_pending (f : Security → Security) : (s.modSec f).pending = s.pending := rfl

@[simp] theorem State.unmark_regs (rg page off : Nat) (fly : Bool) : (s.unmark rg page off fly).regs = s.regs := rfl
@[simp] theorem State.unmark_tbl (rg page off : Nat) (fly : Bool) : (s.unmark rg page off fly).tbl = s.tbl := rfl
@[simp] theorem State.unmark_latch (rg page off : Nat) (fly : Bool) : (s.unmark rg page off fly).latch = s.latch := rfl
@[simp] theorem State.unmark_flyHeld (rg page off : Nat) (fly : Bool) : (s.unmark rg page off fly).flyHeld = s.flyHeld := rfl
@[simp] theorem State.unmark_groups (rg page off : Nat) (fly : Bool) : (s.unmark rg page off fly).groups = s.groups := rfl
@[simp] theorem State.unmark_front (rg page off : Nat) (fly : Bool) : (s.unmark rg page off fly).front = s.front := rfl
@[simp] theorem State.unmark_chans (rg page off : Nat) (fly : Bool) : (s.unmark rg page off fly).chans = s.chans := rfl
@[simp] theorem State.unmark_dram (rg page off : Nat) (fly : Bool) : (s.unmark rg page off fly).dram = s.dram := rfl
@[simp] theorem State.unmark_poison (rg page off : Nat) (fly : Bool) : (s.unmark rg page off fly).poison = s.poison := rfl
@[simp] theorem State.unmark_sec (rg page off : Nat) (fly : Bool) : (s.unmark rg page off fly).sec = s.sec := rfl
@[simp] theorem State.unmark_plat (rg page off : Nat) (fly : Bool) : (s.unmark rg page off fly).plat = s.plat := rfl
@[simp] theorem State.unmark_out (rg page off : Nat) (fly : Bool) : (s.unmark rg page off fly).out = s.out := rfl
@[simp] theorem State.unmark_free (rg page off : Nat) (fly : Bool) : (s.unmark rg page off fly).free = s.free := rfl
@[simp] theorem State.unmark_pending (rg page off : Nat) (fly : Bool) : (s.unmark rg page off fly).pending = s.pending := rfl

@[simp] theorem State.dramPut_regs (c : Fin 16) (a : Nat) (b : Byte) : (s.dramPut c a b).regs = s.regs := rfl
@[simp] theorem State.dramPut_tbl (c : Fin 16) (a : Nat) (b : Byte) : (s.dramPut c a b).tbl = s.tbl := rfl
@[simp] theorem State.dramPut_latch (c : Fin 16) (a : Nat) (b : Byte) : (s.dramPut c a b).latch = s.latch := rfl
@[simp] theorem State.dramPut_flyHeld (c : Fin 16) (a : Nat) (b : Byte) : (s.dramPut c a b).flyHeld = s.flyHeld := rfl
@[simp] theorem State.dramPut_parity (c : Fin 16) (a : Nat) (b : Byte) : (s.dramPut c a b).parity = s.parity := rfl
@[simp] theorem State.dramPut_groups (c : Fin 16) (a : Nat) (b : Byte) : (s.dramPut c a b).groups = s.groups := rfl
@[simp] theorem State.dramPut_front (c : Fin 16) (a : Nat) (b : Byte) : (s.dramPut c a b).front = s.front := rfl
@[simp] theorem State.dramPut_chans (c : Fin 16) (a : Nat) (b : Byte) : (s.dramPut c a b).chans = s.chans := rfl
@[simp] theorem State.dramPut_poison (c : Fin 16) (a : Nat) (b : Byte) : (s.dramPut c a b).poison = s.poison := rfl
@[simp] theorem State.dramPut_sec (c : Fin 16) (a : Nat) (b : Byte) : (s.dramPut c a b).sec = s.sec := rfl
@[simp] theorem State.dramPut_plat (c : Fin 16) (a : Nat) (b : Byte) : (s.dramPut c a b).plat = s.plat := rfl
@[simp] theorem State.dramPut_out (c : Fin 16) (a : Nat) (b : Byte) : (s.dramPut c a b).out = s.out := rfl
@[simp] theorem State.dramPut_free (c : Fin 16) (a : Nat) (b : Byte) : (s.dramPut c a b).free = s.free := rfl
@[simp] theorem State.dramPut_pending (c : Fin 16) (a : Nat) (b : Byte) : (s.dramPut c a b).pending = s.pending := rfl

@[simp] theorem State.dramFill_regs (c : Fin 16) : (s.dramFill c).regs = s.regs := rfl
@[simp] theorem State.dramFill_tbl (c : Fin 16) : (s.dramFill c).tbl = s.tbl := rfl
@[simp] theorem State.dramFill_latch (c : Fin 16) : (s.dramFill c).latch = s.latch := rfl
@[simp] theorem State.dramFill_flyHeld (c : Fin 16) : (s.dramFill c).flyHeld = s.flyHeld := rfl
@[simp] theorem State.dramFill_parity (c : Fin 16) : (s.dramFill c).parity = s.parity := rfl
@[simp] theorem State.dramFill_groups (c : Fin 16) : (s.dramFill c).groups = s.groups := rfl
@[simp] theorem State.dramFill_front (c : Fin 16) : (s.dramFill c).front = s.front := rfl
@[simp] theorem State.dramFill_chans (c : Fin 16) : (s.dramFill c).chans = s.chans := rfl
@[simp] theorem State.dramFill_sec (c : Fin 16) : (s.dramFill c).sec = s.sec := rfl
@[simp] theorem State.dramFill_plat (c : Fin 16) : (s.dramFill c).plat = s.plat := rfl
@[simp] theorem State.dramFill_out (c : Fin 16) : (s.dramFill c).out = s.out := rfl
@[simp] theorem State.dramFill_free (c : Fin 16) : (s.dramFill c).free = s.free := rfl
@[simp] theorem State.dramFill_pending (c : Fin 16) : (s.dramFill c).pending = s.pending := rfl

@[simp] theorem State.wrLegal_tbl (rg : Nat) (f : Fld) (v : Nat) : (s.wrLegal rg f v).tbl = s.tbl := by unfold State.wrLegal; split <;> rfl
@[simp] theorem State.wrLegal_latch (rg : Nat) (f : Fld) (v : Nat) : (s.wrLegal rg f v).latch = s.latch := by unfold State.wrLegal; split <;> rfl
@[simp] theorem State.wrLegal_flyHeld (rg : Nat) (f : Fld) (v : Nat) : (s.wrLegal rg f v).flyHeld = s.flyHeld := by unfold State.wrLegal; split <;> rfl
@[simp] theorem State.wrLegal_parity (rg : Nat) (f : Fld) (v : Nat) : (s.wrLegal rg f v).parity = s.parity := by unfold State.wrLegal; split <;> rfl
@[simp] theorem State.wrLegal_groups (rg : Nat) (f : Fld) (v : Nat) : (s.wrLegal rg f v).groups = s.groups := by unfold State.wrLegal; split <;> rfl
@[simp] theorem State.wrLegal_front (rg : Nat) (f : Fld) (v : Nat) : (s.wrLegal rg f v).front = s.front := by unfold State.wrLegal; split <;> rfl
@[simp] theorem State.wrLegal_chans (rg : Nat) (f : Fld) (v : Nat) : (s.wrLegal rg f v).chans = s.chans := by unfold State.wrLegal; split <;> rfl
@[simp] theorem State.wrLegal_dram (rg : Nat) (f : Fld) (v : Nat) : (s.wrLegal rg f v).dram = s.dram := by unfold State.wrLegal; split <;> rfl
@[simp] theorem State.wrLegal_poison (rg : Nat) (f : Fld) (v : Nat) : (s.wrLegal rg f v).poison = s.poison := by unfold State.wrLegal; split <;> rfl
@[simp] theorem State.wrLegal_sec (rg : Nat) (f : Fld) (v : Nat) : (s.wrLegal rg f v).sec = s.sec := by unfold State.wrLegal; split <;> rfl
@[simp] theorem State.wrLegal_plat (rg : Nat) (f : Fld) (v : Nat) : (s.wrLegal rg f v).plat = s.plat := by unfold State.wrLegal; split <;> rfl
@[simp] theorem State.wrLegal_out (rg : Nat) (f : Fld) (v : Nat) : (s.wrLegal rg f v).out = s.out := by unfold State.wrLegal; split <;> rfl
@[simp] theorem State.wrLegal_free (rg : Nat) (f : Fld) (v : Nat) : (s.wrLegal rg f v).free = s.free := by unfold State.wrLegal; split <;> rfl
@[simp] theorem State.wrLegal_pending (rg : Nat) (f : Fld) (v : Nat) : (s.wrLegal rg f v).pending = s.pending := by unfold State.wrLegal; split <;> rfl

@[simp] theorem State.post_regs (o : Out) : (s.post o).regs = s.regs := by unfold State.post; split <;> (try split) <;> rfl
@[simp] theorem State.post_tbl (o : Out) : (s.post o).tbl = s.tbl := by unfold State.post; split <;> (try split) <;> rfl
@[simp] theorem State.post_latch (o : Out) : (s.post o).latch = s.latch := by unfold State.post; split <;> (try split) <;> rfl
@[simp] theorem State.post_flyHeld (o : Out) : (s.post o).flyHeld = s.flyHeld := by unfold State.post; split <;> (try split) <;> rfl
@[simp] theorem State.post_parity (o : Out) : (s.post o).parity = s.parity := by unfold State.post; split <;> (try split) <;> rfl
@[simp] theorem State.post_groups (o : Out) : (s.post o).groups = s.groups := by unfold State.post; split <;> (try split) <;> rfl
@[simp] theorem State.post_chans (o : Out) : (s.post o).chans = s.chans := by unfold State.post; split <;> (try split) <;> rfl
@[simp] theorem State.post_dram (o : Out) : (s.post o).dram = s.dram := by unfold State.post; split <;> (try split) <;> rfl
@[simp] theorem State.post_poison (o : Out) : (s.post o).poison = s.poison := by unfold State.post; split <;> (try split) <;> rfl
@[simp] theorem State.post_sec (o : Out) : (s.post o).sec = s.sec := by unfold State.post; split <;> (try split) <;> rfl
@[simp] theorem State.post_plat (o : Out) : (s.post o).plat = s.plat := by unfold State.post; split <;> (try split) <;> rfl
@[simp] theorem State.post_free (o : Out) : (s.post o).free = s.free := by unfold State.post; split <;> (try split) <;> rfl
@[simp] theorem State.post_pending (o : Out) : (s.post o).pending = s.pending := by unfold State.post; split <;> (try split) <;> rfl

@[simp] theorem State.wrs_tbl (rg : Nat) (l : List (Fld × Nat)) : (s.wrs rg l).tbl = s.tbl := by
  unfold State.wrs
  induction l generalizing s with
  | nil => rfl
  | cons e l ih => rw [List.foldl_cons, ih]; rfl
@[simp] theorem State.wrs_latch (rg : Nat) (l : List (Fld × Nat)) : (s.wrs rg l).latch = s.latch := by
  unfold State.wrs
  induction l generalizing s with
  | nil => rfl
  | cons e l ih => rw [List.foldl_cons, ih]; rfl
@[simp] theorem State.wrs_flyHeld (rg : Nat) (l : List (Fld × Nat)) : (s.wrs rg l).flyHeld = s.flyHeld := by
  unfold State.wrs
  induction l generalizing s with
  | nil => rfl
  | cons e l ih => rw [List.foldl_cons, ih]; rfl
@[simp] theorem State.wrs_parity (rg : Nat) (l : List (Fld × Nat)) : (s.wrs rg l).parity = s.parity := by
  unfold State.wrs
  induction l generalizing s with
  | nil => rfl
  | cons e l ih => rw [List.foldl_cons, ih]; rfl
@[simp] theorem State.wrs_groups (rg : Nat) (l : List (Fld × Nat)) : (s.wrs rg l).groups = s.groups := by
  unfold State.wrs
  induction l generalizing s with
  | nil => rfl
  | cons e l ih => rw [List.foldl_cons, ih]; rfl
@[simp] theorem State.wrs_front (rg : Nat) (l : List (Fld × Nat)) : (s.wrs rg l).front = s.front := by
  unfold State.wrs
  induction l generalizing s with
  | nil => rfl
  | cons e l ih => rw [List.foldl_cons, ih]; rfl
@[simp] theorem State.wrs_chans (rg : Nat) (l : List (Fld × Nat)) : (s.wrs rg l).chans = s.chans := by
  unfold State.wrs
  induction l generalizing s with
  | nil => rfl
  | cons e l ih => rw [List.foldl_cons, ih]; rfl
@[simp] theorem State.wrs_dram (rg : Nat) (l : List (Fld × Nat)) : (s.wrs rg l).dram = s.dram := by
  unfold State.wrs
  induction l generalizing s with
  | nil => rfl
  | cons e l ih => rw [List.foldl_cons, ih]; rfl
@[simp] theorem State.wrs_poison (rg : Nat) (l : List (Fld × Nat)) : (s.wrs rg l).poison = s.poison := by
  unfold State.wrs
  induction l generalizing s with
  | nil => rfl
  | cons e l ih => rw [List.foldl_cons, ih]; rfl
@[simp] theorem State.wrs_sec (rg : Nat) (l : List (Fld × Nat)) : (s.wrs rg l).sec = s.sec := by
  unfold State.wrs
  induction l generalizing s with
  | nil => rfl
  | cons e l ih => rw [List.foldl_cons, ih]; rfl
@[simp] theorem State.wrs_plat (rg : Nat) (l : List (Fld × Nat)) : (s.wrs rg l).plat = s.plat := by
  unfold State.wrs
  induction l generalizing s with
  | nil => rfl
  | cons e l ih => rw [List.foldl_cons, ih]; rfl
@[simp] theorem State.wrs_out (rg : Nat) (l : List (Fld × Nat)) : (s.wrs rg l).out = s.out := by
  unfold State.wrs
  induction l generalizing s with
  | nil => rfl
  | cons e l ih => rw [List.foldl_cons, ih]; rfl
@[simp] theorem State.wrs_free (rg : Nat) (l : List (Fld × Nat)) : (s.wrs rg l).free = s.free := by
  unfold State.wrs
  induction l generalizing s with
  | nil => rfl
  | cons e l ih => rw [List.foldl_cons, ih]; rfl
@[simp] theorem State.wrs_pending (rg : Nat) (l : List (Fld × Nat)) : (s.wrs rg l).pending = s.pending := by
  unfold State.wrs
  induction l generalizing s with
  | nil => rfl
  | cons e l ih => rw [List.foldl_cons, ih]; rfl

@[simp] theorem State.msix_regs (v : Nat) : (s.msix v).regs = s.regs := by unfold State.msix; split <;> simp
@[simp] theorem State.msix_tbl (v : Nat) : (s.msix v).tbl = s.tbl := by unfold State.msix; split <;> simp
@[simp] theorem State.msix_latch (v : Nat) : (s.msix v).latch = s.latch := by unfold State.msix; split <;> simp
@[simp] theorem State.msix_flyHeld (v : Nat) : (s.msix v).flyHeld = s.flyHeld := by unfold State.msix; split <;> simp
@[simp] theorem State.msix_parity (v : Nat) : (s.msix v).parity = s.parity := by unfold State.msix; split <;> simp
@[simp] theorem State.msix_groups (v : Nat) : (s.msix v).groups = s.groups := by unfold State.msix; split <;> simp
@[simp] theorem State.msix_chans (v : Nat) : (s.msix v).chans = s.chans := by unfold State.msix; split <;> simp
@[simp] theorem State.msix_dram (v : Nat) : (s.msix v).dram = s.dram := by unfold State.msix; split <;> simp
@[simp] theorem State.msix_poison (v : Nat) : (s.msix v).poison = s.poison := by unfold State.msix; split <;> simp
@[simp] theorem State.msix_sec (v : Nat) : (s.msix v).sec = s.sec := by unfold State.msix; split <;> simp
@[simp] theorem State.msix_plat (v : Nat) : (s.msix v).plat = s.plat := by unfold State.msix; split <;> simp
@[simp] theorem State.msix_free (v : Nat) : (s.msix v).free = s.free := by unfold State.msix; split <;> simp
@[simp] theorem State.msix_pending (v : Nat) : (s.msix v).pending = s.pending := by unfold State.msix; split <;> simp

@[simp] theorem State.setIrqRaw_tbl (rg page raw : Nat) : (s.setIrqRaw rg page raw).tbl = s.tbl := by simp only [State.setIrqRaw]; split <;> simp
@[simp] theorem State.setIrqRaw_latch (rg page raw : Nat) : (s.setIrqRaw rg page raw).latch = s.latch := by simp only [State.setIrqRaw]; split <;> simp
@[simp] theorem State.setIrqRaw_flyHeld (rg page raw : Nat) : (s.setIrqRaw rg page raw).flyHeld = s.flyHeld := by simp only [State.setIrqRaw]; split <;> simp
@[simp] theorem State.setIrqRaw_parity (rg page raw : Nat) : (s.setIrqRaw rg page raw).parity = s.parity := by simp only [State.setIrqRaw]; split <;> simp
@[simp] theorem State.setIrqRaw_groups (rg page raw : Nat) : (s.setIrqRaw rg page raw).groups = s.groups := by simp only [State.setIrqRaw]; split <;> simp
@[simp] theorem State.setIrqRaw_chans (rg page raw : Nat) : (s.setIrqRaw rg page raw).chans = s.chans := by simp only [State.setIrqRaw]; split <;> simp
@[simp] theorem State.setIrqRaw_dram (rg page raw : Nat) : (s.setIrqRaw rg page raw).dram = s.dram := by simp only [State.setIrqRaw]; split <;> simp
@[simp] theorem State.setIrqRaw_poison (rg page raw : Nat) : (s.setIrqRaw rg page raw).poison = s.poison := by simp only [State.setIrqRaw]; split <;> simp
@[simp] theorem State.setIrqRaw_sec (rg page raw : Nat) : (s.setIrqRaw rg page raw).sec = s.sec := by simp only [State.setIrqRaw]; split <;> simp
@[simp] theorem State.setIrqRaw_plat (rg page raw : Nat) : (s.setIrqRaw rg page raw).plat = s.plat := by simp only [State.setIrqRaw]; split <;> simp
@[simp] theorem State.setIrqRaw_free (rg page raw : Nat) : (s.setIrqRaw rg page raw).free = s.free := by simp only [State.setIrqRaw]; split <;> simp
@[simp] theorem State.setIrqRaw_pending (rg page raw : Nat) : (s.setIrqRaw rg page raw).pending = s.pending := by simp only [State.setIrqRaw]; split <;> simp

@[simp] theorem State.irq_tbl (rg page bit : Nat) : (s.irq rg page bit).tbl = s.tbl := by simp only [State.irq]; split <;> (try split) <;> simp
@[simp] theorem State.irq_latch (rg page bit : Nat) : (s.irq rg page bit).latch = s.latch := by simp only [State.irq]; split <;> (try split) <;> simp
@[simp] theorem State.irq_flyHeld (rg page bit : Nat) : (s.irq rg page bit).flyHeld = s.flyHeld := by simp only [State.irq]; split <;> (try split) <;> simp
@[simp] theorem State.irq_parity (rg page bit : Nat) : (s.irq rg page bit).parity = s.parity := by simp only [State.irq]; split <;> (try split) <;> simp
@[simp] theorem State.irq_groups (rg page bit : Nat) : (s.irq rg page bit).groups = s.groups := by simp only [State.irq]; split <;> (try split) <;> simp
@[simp] theorem State.irq_chans (rg page bit : Nat) : (s.irq rg page bit).chans = s.chans := by simp only [State.irq]; split <;> (try split) <;> simp
@[simp] theorem State.irq_dram (rg page bit : Nat) : (s.irq rg page bit).dram = s.dram := by simp only [State.irq]; split <;> (try split) <;> simp
@[simp] theorem State.irq_poison (rg page bit : Nat) : (s.irq rg page bit).poison = s.poison := by simp only [State.irq]; split <;> (try split) <;> simp
@[simp] theorem State.irq_sec (rg page bit : Nat) : (s.irq rg page bit).sec = s.sec := by simp only [State.irq]; split <;> (try split) <;> simp
@[simp] theorem State.irq_plat (rg page bit : Nat) : (s.irq rg page bit).plat = s.plat := by simp only [State.irq]; split <;> (try split) <;> simp
@[simp] theorem State.irq_free (rg page bit : Nat) : (s.irq rg page bit).free = s.free := by simp only [State.irq]; split <;> (try split) <;> simp
@[simp] theorem State.irq_pending (rg page bit : Nat) : (s.irq rg page bit).pending = s.pending := by simp only [State.irq]; split <;> (try split) <;> simp

@[simp] theorem State.cirq_tbl (c : Fin 16) (page bit : Nat) : (s.cirq c page bit).tbl = s.tbl := by simp [State.cirq]
@[simp] theorem State.cirq_latch (c : Fin 16) (page bit : Nat) : (s.cirq c page bit).latch = s.latch := by simp [State.cirq]
@[simp] theorem State.cirq_flyHeld (c : Fin 16) (page bit : Nat) : (s.cirq c page bit).flyHeld = s.flyHeld := by simp [State.cirq]
@[simp] theorem State.cirq_parity (c : Fin 16) (page bit : Nat) : (s.cirq c page bit).parity = s.parity := by simp [State.cirq]
@[simp] theorem State.cirq_groups (c : Fin 16) (page bit : Nat) : (s.cirq c page bit).groups = s.groups := by simp [State.cirq]
@[simp] theorem State.cirq_chans (c : Fin 16) (page bit : Nat) : (s.cirq c page bit).chans = s.chans := by simp [State.cirq]
@[simp] theorem State.cirq_dram (c : Fin 16) (page bit : Nat) : (s.cirq c page bit).dram = s.dram := by simp [State.cirq]
@[simp] theorem State.cirq_poison (c : Fin 16) (page bit : Nat) : (s.cirq c page bit).poison = s.poison := by simp [State.cirq]
@[simp] theorem State.cirq_sec (c : Fin 16) (page bit : Nat) : (s.cirq c page bit).sec = s.sec := by simp [State.cirq]
@[simp] theorem State.cirq_plat (c : Fin 16) (page bit : Nat) : (s.cirq c page bit).plat = s.plat := by simp [State.cirq]
@[simp] theorem State.cirq_free (c : Fin 16) (page bit : Nat) : (s.cirq c page bit).free = s.free := by simp [State.cirq]
@[simp] theorem State.cirq_pending (c : Fin 16) (page bit : Nat) : (s.cirq c page bit).pending = s.pending := by simp [State.cirq]

@[simp] theorem State.err_tbl (rg page ofs code info : Nat) (fly : Bool) : (s.err rg page ofs code info fly).tbl = s.tbl := by simp only [State.err]; split <;> simp
@[simp] theorem State.err_latch (rg page ofs code info : Nat) (fly : Bool) : (s.err rg page ofs code info fly).latch = s.latch := by simp only [State.err]; split <;> simp
@[simp] theorem State.err_flyHeld (rg page ofs code info : Nat) (fly : Bool) : (s.err rg page ofs code info fly).flyHeld = s.flyHeld := by simp only [State.err]; split <;> simp
@[simp] theorem State.err_parity (rg page ofs code info : Nat) (fly : Bool) : (s.err rg page ofs code info fly).parity = s.parity := by simp only [State.err]; split <;> simp
@[simp] theorem State.err_groups (rg page ofs code info : Nat) (fly : Bool) : (s.err rg page ofs code info fly).groups = s.groups := by simp only [State.err]; split <;> simp
@[simp] theorem State.err_front (rg page ofs code info : Nat) (fly : Bool) : (s.err rg page ofs code info fly).front = s.front := by simp only [State.err]; split <;> simp
@[simp] theorem State.err_chans (rg page ofs code info : Nat) (fly : Bool) : (s.err rg page ofs code info fly).chans = s.chans := by simp only [State.err]; split <;> simp
@[simp] theorem State.err_dram (rg page ofs code info : Nat) (fly : Bool) : (s.err rg page ofs code info fly).dram = s.dram := by simp only [State.err]; split <;> simp
@[simp] theorem State.err_poison (rg page ofs code info : Nat) (fly : Bool) : (s.err rg page ofs code info fly).poison = s.poison := by simp only [State.err]; split <;> simp
@[simp] theorem State.err_sec (rg page ofs code info : Nat) (fly : Bool) : (s.err rg page ofs code info fly).sec = s.sec := by simp only [State.err]; split <;> simp
@[simp] theorem State.err_plat (rg page ofs code info : Nat) (fly : Bool) : (s.err rg page ofs code info fly).plat = s.plat := by simp only [State.err]; split <;> simp
@[simp] theorem State.err_out (rg page ofs code info : Nat) (fly : Bool) : (s.err rg page ofs code info fly).out = s.out := by simp only [State.err]; split <;> simp
@[simp] theorem State.err_free (rg page ofs code info : Nat) (fly : Bool) : (s.err rg page ofs code info fly).free = s.free := by simp only [State.err]; split <;> simp
@[simp] theorem State.err_pending (rg page ofs code info : Nat) (fly : Bool) : (s.err rg page ofs code info fly).pending = s.pending := by simp only [State.err]; split <;> simp

@[simp] theorem State.errOpen_tbl (rg page ofs code : Nat) : (s.errOpen rg page ofs code).tbl = s.tbl := by simp [State.errOpen]
@[simp] theorem State.errOpen_latch (rg page ofs code : Nat) : (s.errOpen rg page ofs code).latch = s.latch := by simp [State.errOpen]
@[simp] theorem State.errOpen_flyHeld (rg page ofs code : Nat) : (s.errOpen rg page ofs code).flyHeld = s.flyHeld := by simp [State.errOpen]
@[simp] theorem State.errOpen_parity (rg page ofs code : Nat) : (s.errOpen rg page ofs code).parity = s.parity := by simp [State.errOpen]
@[simp] theorem State.errOpen_groups (rg page ofs code : Nat) : (s.errOpen rg page ofs code).groups = s.groups := by simp [State.errOpen]
@[simp] theorem State.errOpen_front (rg page ofs code : Nat) : (s.errOpen rg page ofs code).front = s.front := by simp [State.errOpen]
@[simp] theorem State.errOpen_chans (rg page ofs code : Nat) : (s.errOpen rg page ofs code).chans = s.chans := by simp [State.errOpen]
@[simp] theorem State.errOpen_dram (rg page ofs code : Nat) : (s.errOpen rg page ofs code).dram = s.dram := by simp [State.errOpen]
@[simp] theorem State.errOpen_poison (rg page ofs code : Nat) : (s.errOpen rg page ofs code).poison = s.poison := by simp [State.errOpen]
@[simp] theorem State.errOpen_sec (rg page ofs code : Nat) : (s.errOpen rg page ofs code).sec = s.sec := by simp [State.errOpen]
@[simp] theorem State.errOpen_plat (rg page ofs code : Nat) : (s.errOpen rg page ofs code).plat = s.plat := by simp [State.errOpen]
@[simp] theorem State.errOpen_out (rg page ofs code : Nat) : (s.errOpen rg page ofs code).out = s.out := by simp [State.errOpen]
@[simp] theorem State.errOpen_pending (rg page ofs code : Nat) : (s.errOpen rg page ofs code).pending = s.pending := by simp [State.errOpen]

/-! What is read of a field of the state that an operation leaves alone. -/

@[simp] theorem State.wr_tget (rg : Nat) (f : Fld) (v : Nat) (u : Tbl) (rg' j : Nat) : (s.wr rg f v).tget u rg' j = s.tget u rg' j := rfl
@[simp] theorem State.wr_ch (rg : Nat) (f : Fld) (v : Nat) (d : Fin 16) : (s.wr rg f v).ch d = s.ch d := rfl
@[simp] theorem State.wr_dramByte (rg : Nat) (f : Fld) (v : Nat) (d : Fin 16) (a' : Nat) : (s.wr rg f v).dramByte d a' = s.dramByte d a' := rfl
@[simp] theorem State.wr_poisoned (rg : Nat) (f : Fld) (v : Nat) (d : Fin 16) (w' : Nat) : (s.wr rg f v).poisoned d w' = s.poisoned d w' := rfl

@[simp] theorem State.wrFly_tget (rg : Nat) (f : Fld) (v : Nat) (u : Tbl) (rg' j : Nat) : (s.wrFly rg f v).tget u rg' j = s.tget u rg' j := rfl
@[simp] theorem State.wrFly_ch (rg : Nat) (f : Fld) (v : Nat) (d : Fin 16) : (s.wrFly rg f v).ch d = s.ch d := rfl
@[simp] theorem State.wrFly_dramByte (rg : Nat) (f : Fld) (v : Nat) (d : Fin 16) (a' : Nat) : (s.wrFly rg f v).dramByte d a' = s.dramByte d a' := rfl
@[simp] theorem State.wrFly_poisoned (rg : Nat) (f : Fld) (v : Nat) (d : Fin 16) (w' : Nat) : (s.wrFly rg f v).poisoned d w' = s.poisoned d w' := rfl

@[simp] theorem State.pw_tget (f : Fld) (v : Nat) (u : Tbl) (rg' j : Nat) : (s.pw f v).tget u rg' j = s.tget u rg' j := rfl
@[simp] theorem State.pw_ch (f : Fld) (v : Nat) (d : Fin 16) : (s.pw f v).ch d = s.ch d := rfl
@[simp] theorem State.pw_dramByte (f : Fld) (v : Nat) (d : Fin 16) (a' : Nat) : (s.pw f v).dramByte d a' = s.dramByte d a' := rfl
@[simp] theorem State.pw_poisoned (f : Fld) (v : Nat) (d : Fin 16) (w' : Nat) : (s.pw f v).poisoned d w' = s.poisoned d w' := rfl

@[simp] theorem State.cw_tget (c : Fin 16) (f : Fld) (v : Nat) (u : Tbl) (rg' j : Nat) : (s.cw c f v).tget u rg' j = s.tget u rg' j := rfl
@[simp] theorem State.cw_ch (c : Fin 16) (f : Fld) (v : Nat) (d : Fin 16) : (s.cw c f v).ch d = s.ch d := rfl
@[simp] theorem State.cw_dramByte (c : Fin 16) (f : Fld) (v : Nat) (d : Fin 16) (a' : Nat) : (s.cw c f v).dramByte d a' = s.dramByte d a' := rfl
@[simp] theorem State.cw_poisoned (c : Fin 16) (f : Fld) (v : Nat) (d : Fin 16) (w' : Nat) : (s.cw c f v).poisoned d w' = s.poisoned d w' := rfl

@[simp] theorem State.incSat_tget (rg : Nat) (f : Fld) (n : Nat) (u : Tbl) (rg' j : Nat) : (s.incSat rg f n).tget u rg' j = s.tget u rg' j := rfl
@[simp] theorem State.incSat_ch (rg : Nat) (f : Fld) (n : Nat) (d : Fin 16) : (s.incSat rg f n).ch d = s.ch d := rfl
@[simp] theorem State.incSat_dramByte (rg : Nat) (f : Fld) (n : Nat) (d : Fin 16) (a' : Nat) : (s.incSat rg f n).dramByte d a' = s.dramByte d a' := rfl
@[simp] theorem State.incSat_poisoned (rg : Nat) (f : Fld) (n : Nat) (d : Fin 16) (w' : Nat) : (s.incSat rg f n).poisoned d w' = s.poisoned d w' := rfl

@[simp] theorem State.incWrap_tget (rg : Nat) (f : Fld) (n : Nat) (u : Tbl) (rg' j : Nat) : (s.incWrap rg f n).tget u rg' j = s.tget u rg' j := rfl
@[simp] theorem State.incWrap_ch (rg : Nat) (f : Fld) (n : Nat) (d : Fin 16) : (s.incWrap rg f n).ch d = s.ch d := rfl
@[simp] theorem State.incWrap_dramByte (rg : Nat) (f : Fld) (n : Nat) (d : Fin 16) (a' : Nat) : (s.incWrap rg f n).dramByte d a' = s.dramByte d a' := rfl
@[simp] theorem State.incWrap_poisoned (rg : Nat) (f : Fld) (n : Nat) (d : Fin 16) (w' : Nat) : (s.incWrap rg f n).poisoned d w' = s.poisoned d w' := rfl

@[simp] theorem State.tput_rd (t : Tbl) (rg i v : Nat) (rg' : Nat) (g : Fld) : (s.tput t rg i v).rd rg' g = s.rd rg' g := rfl
@[simp] theorem State.tput_rdFly (t : Tbl) (rg i v : Nat) (rg' : Nat) (g : Fld) : (s.tput t rg i v).rdFly rg' g = s.rdFly rg' g := rfl
@[simp] theorem State.tput_cr (t : Tbl) (rg i v : Nat) (d : Fin 16) (g : Fld) : (s.tput t rg i v).cr d g = s.cr d g := rfl
@[simp] theorem State.tput_pr (t : Tbl) (rg i v : Nat) (g : Fld) : (s.tput t rg i v).pr g = s.pr g := rfl
@[simp] theorem State.tput_cb (t : Tbl) (rg i v : Nat) (d : Fin 16) (g : Fld) : (s.tput t rg i v).cb d g = s.cb d g := rfl
@[simp] theorem State.tput_ch (t : Tbl) (rg i v : Nat) (d : Fin 16) : (s.tput t rg i v).ch d = s.ch d := rfl
@[simp] theorem State.tput_dramByte (t : Tbl) (rg i v : Nat) (d : Fin 16) (a' : Nat) : (s.tput t rg i v).dramByte d a' = s.dramByte d a' := rfl
@[simp] theorem State.tput_poisoned (t : Tbl) (rg i v : Nat) (d : Fin 16) (w' : Nat) : (s.tput t rg i v).poisoned d w' = s.poisoned d w' := rfl

@[simp] theorem State.tclear_rd (t : Tbl) (rg : Nat) (rg' : Nat) (g : Fld) : (s.tclear t rg).rd rg' g = s.rd rg' g := rfl
@[simp] theorem State.tclear_rdFly (t : Tbl) (rg : Nat) (rg' : Nat) (g : Fld) : (s.tclear t rg).rdFly rg' g = s.rdFly rg' g := rfl
@[simp] theorem State.tclear_cr (t : Tbl) (rg : Nat) (d : Fin 16) (g : Fld) : (s.tclear t rg).cr d g = s.cr d g := rfl
@[simp] theorem State.tclear_pr (t : Tbl) (rg : Nat) (g : Fld) : (s.tclear t rg).pr g = s.pr g := rfl
@[simp] theorem State.tclear_cb (t : Tbl) (rg : Nat) (d : Fin 16) (g : Fld) : (s.tclear t rg).cb d g = s.cb d g := rfl
@[simp] theorem State.tclear_ch (t : Tbl) (rg : Nat) (d : Fin 16) : (s.tclear t rg).ch d = s.ch d := rfl
@[simp] theorem State.tclear_dramByte (t : Tbl) (rg : Nat) (d : Fin 16) (a' : Nat) : (s.tclear t rg).dramByte d a' = s.dramByte d a' := rfl
@[simp] theorem State.tclear_poisoned (t : Tbl) (rg : Nat) (d : Fin 16) (w' : Nat) : (s.tclear t rg).poisoned d w' = s.poisoned d w' := rfl

@[simp] theorem State.resetFields_tget (rg : Nat) (p : Nat → Nat → Bool) (u : Tbl) (rg' j : Nat) : (s.resetFields rg p).tget u rg' j = s.tget u rg' j := rfl
@[simp] theorem State.resetFields_ch (rg : Nat) (p : Nat → Nat → Bool) (d : Fin 16) : (s.resetFields rg p).ch d = s.ch d := rfl
@[simp] theorem State.resetFields_dramByte (rg : Nat) (p : Nat → Nat → Bool) (d : Fin 16) (a' : Nat) : (s.resetFields rg p).dramByte d a' = s.dramByte d a' := rfl
@[simp] theorem State.resetFields_poisoned (rg : Nat) (p : Nat → Nat → Bool) (d : Fin 16) (w' : Nat) : (s.resetFields rg p).poisoned d w' = s.poisoned d w' := rfl

@[simp] theorem State.setCh_rd (c : Fin 16) (x : Chan) (rg' : Nat) (g : Fld) : (s.setCh c x).rd rg' g = s.rd rg' g := rfl
@[simp] theorem State.setCh_rdFly (c : Fin 16) (x : Chan) (rg' : Nat) (g : Fld) : (s.setCh c x).rdFly rg' g = s.rdFly rg' g := rfl
@[simp] theorem State.setCh_cr (c : Fin 16) (x : Chan) (d : Fin 16) (g : Fld) : (s.setCh c x).cr d g = s.cr d g := rfl
@[simp] theorem State.setCh_pr (c : Fin 16) (x : Chan) (g : Fld) : (s.setCh c x).pr g = s.pr g := rfl
@[simp] theorem State.setCh_cb (c : Fin 16) (x : Chan) (d : Fin 16) (g : Fld) : (s.setCh c x).cb d g = s.cb d g := rfl
@[simp] theorem State.setCh_tget (c : Fin 16) (x : Chan) (u : Tbl) (rg' j : Nat) : (s.setCh c x).tget u rg' j = s.tget u rg' j := rfl
@[simp] theorem State.setCh_dramByte (c : Fin 16) (x : Chan) (d : Fin 16) (a' : Nat) : (s.setCh c x).dramByte d a' = s.dramByte d a' := rfl
@[simp] theorem State.setCh_poisoned (c : Fin 16) (x : Chan) (d : Fin 16) (w' : Nat) : (s.setCh c x).poisoned d w' = s.poisoned d w' := rfl

@[simp] theorem State.modCh_rd (c : Fin 16) (f : Chan → Chan) (rg' : Nat) (g : Fld) : (s.modCh c f).rd rg' g = s.rd rg' g := rfl
@[simp] theorem State.modCh_rdFly (c : Fin 16) (f : Chan → Chan) (rg' : Nat) (g : Fld) : (s.modCh c f).rdFly rg' g = s.rdFly rg' g := rfl
@[simp] theorem State.modCh_cr (c : Fin 16) (f : Chan → Chan) (d : Fin 16) (g : Fld) : (s.modCh c f).cr d g = s.cr d g := rfl
@[simp] theorem State.modCh_pr (c : Fin 16) (f : Chan → Chan) (g : Fld) : (s.modCh c f).pr g = s.pr g := rfl
@[simp] theorem State.modCh_cb (c : Fin 16) (f : Chan → Chan) (d : Fin 16) (g : Fld) : (s.modCh c f).cb d g = s.cb d g := rfl
@[simp] theorem State.modCh_tget (c : Fin 16) (f : Chan → Chan) (u : Tbl) (rg' j : Nat) : (s.modCh c f).tget u rg' j = s.tget u rg' j := rfl
@[simp] theorem State.modCh_dramByte (c : Fin 16) (f : Chan → Chan) (d : Fin 16) (a' : Nat) : (s.modCh c f).dramByte d a' = s.dramByte d a' := rfl
@[simp] theorem State.modCh_poisoned (c : Fin 16) (f : Chan → Chan) (d : Fin 16) (w' : Nat) : (s.modCh c f).poisoned d w' = s.poisoned d w' := rfl

@[simp] theorem State.draw_rd (w : Nat) (rg' : Nat) (g : Fld) : ((s.draw w).2).rd rg' g = s.rd rg' g := rfl
@[simp] theorem State.draw_rdFly (w : Nat) (rg' : Nat) (g : Fld) : ((s.draw w).2).rdFly rg' g = s.rdFly rg' g := rfl
@[simp] theorem State.draw_cr (w : Nat) (d : Fin 16) (g : Fld) : ((s.draw w).2).cr d g = s.cr d g := rfl
@[simp] theorem State.draw_pr (w : Nat) (g : Fld) : ((s.draw w).2).pr g = s.pr g := rfl
@[simp] theorem State.draw_cb (w : Nat) (d : Fin 16) (g : Fld) : ((s.draw w).2).cb d g = s.cb d g := rfl
@[simp] theorem State.draw_tget (w : Nat) (u : Tbl) (rg' j : Nat) : ((s.draw w).2).tget u rg' j = s.tget u rg' j := rfl
@[simp] theorem State.draw_ch (w : Nat) (d : Fin 16) : ((s.draw w).2).ch d = s.ch d := rfl
@[simp] theorem State.draw_dramByte (w : Nat) (d : Fin 16) (a' : Nat) : ((s.draw w).2).dramByte d a' = s.dramByte d a' := rfl
@[simp] theorem State.draw_poisoned (w : Nat) (d : Fin 16) (w' : Nat) : ((s.draw w).2).poisoned d w' = s.poisoned d w' := rfl

@[simp] theorem State.answer_rd (o : Out) (rg' : Nat) (g : Fld) : (s.answer o).rd rg' g = s.rd rg' g := rfl
@[simp] theorem State.answer_rdFly (o : Out) (rg' : Nat) (g : Fld) : (s.answer o).rdFly rg' g = s.rdFly rg' g := rfl
@[simp] theorem State.answer_cr (o : Out) (d : Fin 16) (g : Fld) : (s.answer o).cr d g = s.cr d g := rfl
@[simp] theorem State.answer_pr (o : Out) (g : Fld) : (s.answer o).pr g = s.pr g := rfl
@[simp] theorem State.answer_cb (o : Out) (d : Fin 16) (g : Fld) : (s.answer o).cb d g = s.cb d g := rfl
@[simp] theorem State.answer_tget (o : Out) (u : Tbl) (rg' j : Nat) : (s.answer o).tget u rg' j = s.tget u rg' j := rfl
@[simp] theorem State.answer_ch (o : Out) (d : Fin 16) : (s.answer o).ch d = s.ch d := rfl
@[simp] theorem State.answer_dramByte (o : Out) (d : Fin 16) (a' : Nat) : (s.answer o).dramByte d a' = s.dramByte d a' := rfl
@[simp] theorem State.answer_poisoned (o : Out) (d : Fin 16) (w' : Nat) : (s.answer o).poisoned d w' = s.poisoned d w' := rfl

@[simp] theorem State.traceEvent_rd (rg page bit : Nat) (rg' : Nat) (g : Fld) : (s.traceEvent rg page bit).rd rg' g = s.rd rg' g := rfl
@[simp] theorem State.traceEvent_rdFly (rg page bit : Nat) (rg' : Nat) (g : Fld) : (s.traceEvent rg page bit).rdFly rg' g = s.rdFly rg' g := rfl
@[simp] theorem State.traceEvent_cr (rg page bit : Nat) (d : Fin 16) (g : Fld) : (s.traceEvent rg page bit).cr d g = s.cr d g := rfl
@[simp] theorem State.traceEvent_pr (rg page bit : Nat) (g : Fld) : (s.traceEvent rg page bit).pr g = s.pr g := rfl
@[simp] theorem State.traceEvent_cb (rg page bit : Nat) (d : Fin 16) (g : Fld) : (s.traceEvent rg page bit).cb d g = s.cb d g := rfl
@[simp] theorem State.traceEvent_tget (rg page bit : Nat) (u : Tbl) (rg' j : Nat) : (s.traceEvent rg page bit).tget u rg' j = s.tget u rg' j := rfl
@[simp] theorem State.traceEvent_ch (rg page bit : Nat) (d : Fin 16) : (s.traceEvent rg page bit).ch d = s.ch d := rfl
@[simp] theorem State.traceEvent_dramByte (rg page bit : Nat) (d : Fin 16) (a' : Nat) : (s.traceEvent rg page bit).dramByte d a' = s.dramByte d a' := rfl
@[simp] theorem State.traceEvent_poisoned (rg page bit : Nat) (d : Fin 16) (w' : Nat) : (s.traceEvent rg page bit).poisoned d w' = s.poisoned d w' := rfl

@[simp] theorem State.modFront_rd (f : Front → Front) (rg' : Nat) (g : Fld) : (s.modFront f).rd rg' g = s.rd rg' g := rfl
@[simp] theorem State.modFront_rdFly (f : Front → Front) (rg' : Nat) (g : Fld) : (s.modFront f).rdFly rg' g = s.rdFly rg' g := rfl
@[simp] theorem State.modFront_cr (f : Front → Front) (d : Fin 16) (g : Fld) : (s.modFront f).cr d g = s.cr d g := rfl
@[simp] theorem State.modFront_pr (f : Front → Front) (g : Fld) : (s.modFront f).pr g = s.pr g := rfl
@[simp] theorem State.modFront_cb (f : Front → Front) (d : Fin 16) (g : Fld) : (s.modFront f).cb d g = s.cb d g := rfl
@[simp] theorem State.modFront_tget (f : Front → Front) (u : Tbl) (rg' j : Nat) : (s.modFront f).tget u rg' j = s.tget u rg' j := rfl
@[simp] theorem State.modFront_ch (f : Front → Front) (d : Fin 16) : (s.modFront f).ch d = s.ch d := rfl
@[simp] theorem State.modFront_dramByte (f : Front → Front) (d : Fin 16) (a' : Nat) : (s.modFront f).dramByte d a' = s.dramByte d a' := rfl
@[simp] theorem State.modFront_poisoned (f : Front → Front) (d : Fin 16) (w' : Nat) : (s.modFront f).poisoned d w' = s.poisoned d w' := rfl

@[simp] theorem State.modSec_rd (f : Security → Security) (rg' : Nat) (g : Fld) : (s.modSec f).rd rg' g = s.rd rg' g := rfl
@[simp] theorem State.modSec_rdFly (f : Security → Security) (rg' : Nat) (g : Fld) : (s.modSec f).rdFly rg' g = s.rdFly rg' g := rfl
@[simp] theorem State.modSec_cr (f : Security → Security) (d : Fin 16) (g : Fld) : (s.modSec f).cr d g = s.cr d g := rfl
@[simp] theorem State.modSec_pr (f : Security → Security) (g : Fld) : (s.modSec f).pr g = s.pr g := rfl
@[simp] theorem State.modSec_cb (f : Security → Security) (d : Fin 16) (g : Fld) : (s.modSec f).cb d g = s.cb d g := rfl
@[simp] theorem State.modSec_tget (f : Security → Security) (u : Tbl) (rg' j : Nat) : (s.modSec f).tget u rg' j = s.tget u rg' j := rfl
@[simp] theorem State.modSec_ch (f : Security → Security) (d : Fin 16) : (s.modSec f).ch d = s.ch d := rfl
@[simp] theorem State.modSec_dramByte (f : Security → Security) (d : Fin 16) (a' : Nat) : (s.modSec f).dramByte d a' = s.dramByte d a' := rfl
@[simp] theorem State.modSec_poisoned (f : Security → Security) (d : Fin 16) (w' : Nat) : (s.modSec f).poisoned d w' = s.poisoned d w' := rfl

@[simp] theorem State.unmark_rd (rg page off : Nat) (fly : Bool) (rg' : Nat) (g : Fld) : (s.unmark rg page off fly).rd rg' g = s.rd rg' g := rfl
@[simp] theorem State.unmark_rdFly (rg page off : Nat) (fly : Bool) (rg' : Nat) (g : Fld) : (s.unmark rg page off fly).rdFly rg' g = s.rdFly rg' g := rfl
@[simp] theorem State.unmark_cr (rg page off : Nat) (fly : Bool) (d : Fin 16) (g : Fld) : (s.unmark rg page off fly).cr d g = s.cr d g := rfl
@[simp] theorem State.unmark_pr (rg page off : Nat) (fly : Bool) (g : Fld) : (s.unmark rg page off fly).pr g = s.pr g := rfl
@[simp] theorem State.unmark_cb (rg page off : Nat) (fly : Bool) (d : Fin 16) (g : Fld) : (s.unmark rg page off fly).cb d g = s.cb d g := rfl
@[simp] theorem State.unmark_tget (rg page off : Nat) (fly : Bool) (u : Tbl) (rg' j : Nat) : (s.unmark rg page off fly).tget u rg' j = s.tget u rg' j := rfl
@[simp] theorem State.unmark_ch (rg page off : Nat) (fly : Bool) (d : Fin 16) : (s.unmark rg page off fly).ch d = s.ch d := rfl
@[simp] theorem State.unmark_dramByte (rg page off : Nat) (fly : Bool) (d : Fin 16) (a' : Nat) : (s.unmark rg page off fly).dramByte d a' = s.dramByte d a' := rfl
@[simp] theorem State.unmark_poisoned (rg page off : Nat) (fly : Bool) (d : Fin 16) (w' : Nat) : (s.unmark rg page off fly).poisoned d w' = s.poisoned d w' := rfl

@[simp] theorem State.dramPut_rd (c : Fin 16) (a : Nat) (b : Byte) (rg' : Nat) (g : Fld) : (s.dramPut c a b).rd rg' g = s.rd rg' g := rfl
@[simp] theorem State.dramPut_rdFly (c : Fin 16) (a : Nat) (b : Byte) (rg' : Nat) (g : Fld) : (s.dramPut c a b).rdFly rg' g = s.rdFly rg' g := rfl
@[simp] theorem State.dramPut_cr (c : Fin 16) (a : Nat) (b : Byte) (d : Fin 16) (g : Fld) : (s.dramPut c a b).cr d g = s.cr d g := rfl
@[simp] theorem State.dramPut_pr (c : Fin 16) (a : Nat) (b : Byte) (g : Fld) : (s.dramPut c a b).pr g = s.pr g := rfl
@[simp] theorem State.dramPut_cb (c : Fin 16) (a : Nat) (b : Byte) (d : Fin 16) (g : Fld) : (s.dramPut c a b).cb d g = s.cb d g := rfl
@[simp] theorem State.dramPut_tget (c : Fin 16) (a : Nat) (b : Byte) (u : Tbl) (rg' j : Nat) : (s.dramPut c a b).tget u rg' j = s.tget u rg' j := rfl
@[simp] theorem State.dramPut_ch (c : Fin 16) (a : Nat) (b : Byte) (d : Fin 16) : (s.dramPut c a b).ch d = s.ch d := rfl
@[simp] theorem State.dramPut_poisoned (c : Fin 16) (a : Nat) (b : Byte) (d : Fin 16) (w' : Nat) : (s.dramPut c a b).poisoned d w' = s.poisoned d w' := rfl

@[simp] theorem State.dramFill_rd (c : Fin 16) (rg' : Nat) (g : Fld) : (s.dramFill c).rd rg' g = s.rd rg' g := rfl
@[simp] theorem State.dramFill_rdFly (c : Fin 16) (rg' : Nat) (g : Fld) : (s.dramFill c).rdFly rg' g = s.rdFly rg' g := rfl
@[simp] theorem State.dramFill_cr (c : Fin 16) (d : Fin 16) (g : Fld) : (s.dramFill c).cr d g = s.cr d g := rfl
@[simp] theorem State.dramFill_pr (c : Fin 16) (g : Fld) : (s.dramFill c).pr g = s.pr g := rfl
@[simp] theorem State.dramFill_cb (c : Fin 16) (d : Fin 16) (g : Fld) : (s.dramFill c).cb d g = s.cb d g := rfl
@[simp] theorem State.dramFill_tget (c : Fin 16) (u : Tbl) (rg' j : Nat) : (s.dramFill c).tget u rg' j = s.tget u rg' j := rfl
@[simp] theorem State.dramFill_ch (c : Fin 16) (d : Fin 16) : (s.dramFill c).ch d = s.ch d := rfl

@[simp] theorem State.wrLegal_tget (rg : Nat) (f : Fld) (v : Nat) (u : Tbl) (rg' j : Nat) : (s.wrLegal rg f v).tget u rg' j = s.tget u rg' j := by simp [State.tget]
@[simp] theorem State.wrLegal_ch (rg : Nat) (f : Fld) (v : Nat) (d : Fin 16) : (s.wrLegal rg f v).ch d = s.ch d := by simp [State.ch]
@[simp] theorem State.wrLegal_dramByte (rg : Nat) (f : Fld) (v : Nat) (d : Fin 16) (a' : Nat) : (s.wrLegal rg f v).dramByte d a' = s.dramByte d a' := by simp [State.dramByte]
@[simp] theorem State.wrLegal_poisoned (rg : Nat) (f : Fld) (v : Nat) (d : Fin 16) (w' : Nat) : (s.wrLegal rg f v).poisoned d w' = s.poisoned d w' := by simp [State.poisoned]

@[simp] theorem State.post_rd (o : Out) (rg' : Nat) (g : Fld) : (s.post o).rd rg' g = s.rd rg' g := by simp [State.rd]
@[simp] theorem State.post_rdFly (o : Out) (rg' : Nat) (g : Fld) : (s.post o).rdFly rg' g = s.rdFly rg' g := by simp [State.rdFly]
@[simp] theorem State.post_cr (o : Out) (d : Fin 16) (g : Fld) : (s.post o).cr d g = s.cr d g := by simp [State.cr, State.rd]
@[simp] theorem State.post_pr (o : Out) (g : Fld) : (s.post o).pr g = s.pr g := by simp [State.pr, State.rd]
@[simp] theorem State.post_cb (o : Out) (d : Fin 16) (g : Fld) : (s.post o).cb d g = s.cb d g := by simp [State.cb, State.cr, State.rd]
@[simp] theorem State.post_tget (o : Out) (u : Tbl) (rg' j : Nat) : (s.post o).tget u rg' j = s.tget u rg' j := by simp [State.tget]
@[simp] theorem State.post_ch (o : Out) (d : Fin 16) : (s.post o).ch d = s.ch d := by simp [State.ch]
@[simp] theorem State.post_dramByte (o : Out) (d : Fin 16) (a' : Nat) : (s.post o).dramByte d a' = s.dramByte d a' := by simp [State.dramByte]
@[simp] theorem State.post_poisoned (o : Out) (d : Fin 16) (w' : Nat) : (s.post o).poisoned d w' = s.poisoned d w' := by simp [State.poisoned]

@[simp] theorem State.wrs_tget (rg : Nat) (l : List (Fld × Nat)) (u : Tbl) (rg' j : Nat) : (s.wrs rg l).tget u rg' j = s.tget u rg' j := by simp [State.tget]
@[simp] theorem State.wrs_ch (rg : Nat) (l : List (Fld × Nat)) (d : Fin 16) : (s.wrs rg l).ch d = s.ch d := by simp [State.ch]
@[simp] theorem State.wrs_dramByte (rg : Nat) (l : List (Fld × Nat)) (d : Fin 16) (a' : Nat) : (s.wrs rg l).dramByte d a' = s.dramByte d a' := by simp [State.dramByte]
@[simp] theorem State.wrs_poisoned (rg : Nat) (l : List (Fld × Nat)) (d : Fin 16) (w' : Nat) : (s.wrs rg l).poisoned d w' = s.poisoned d w' := by simp [State.poisoned]

@[simp] theorem State.msix_rd (v : Nat) (rg' : Nat) (g : Fld) : (s.msix v).rd rg' g = s.rd rg' g := by simp [State.rd]
@[simp] theorem State.msix_rdFly (v : Nat) (rg' : Nat) (g : Fld) : (s.msix v).rdFly rg' g = s.rdFly rg' g := by simp [State.rdFly]
@[simp] theorem State.msix_cr (v : Nat) (d : Fin 16) (g : Fld) : (s.msix v).cr d g = s.cr d g := by simp [State.cr, State.rd]
@[simp] theorem State.msix_pr (v : Nat) (g : Fld) : (s.msix v).pr g = s.pr g := by simp [State.pr, State.rd]
@[simp] theorem State.msix_cb (v : Nat) (d : Fin 16) (g : Fld) : (s.msix v).cb d g = s.cb d g := by simp [State.cb, State.cr, State.rd]
@[simp] theorem State.msix_tget (v : Nat) (u : Tbl) (rg' j : Nat) : (s.msix v).tget u rg' j = s.tget u rg' j := by simp [State.tget]
@[simp] theorem State.msix_ch (v : Nat) (d : Fin 16) : (s.msix v).ch d = s.ch d := by simp [State.ch]
@[simp] theorem State.msix_dramByte (v : Nat) (d : Fin 16) (a' : Nat) : (s.msix v).dramByte d a' = s.dramByte d a' := by simp [State.dramByte]
@[simp] theorem State.msix_poisoned (v : Nat) (d : Fin 16) (w' : Nat) : (s.msix v).poisoned d w' = s.poisoned d w' := by simp [State.poisoned]

@[simp] theorem State.setIrqRaw_tget (rg page raw : Nat) (u : Tbl) (rg' j : Nat) : (s.setIrqRaw rg page raw).tget u rg' j = s.tget u rg' j := by simp [State.tget]
@[simp] theorem State.setIrqRaw_ch (rg page raw : Nat) (d : Fin 16) : (s.setIrqRaw rg page raw).ch d = s.ch d := by simp [State.ch]
@[simp] theorem State.setIrqRaw_dramByte (rg page raw : Nat) (d : Fin 16) (a' : Nat) : (s.setIrqRaw rg page raw).dramByte d a' = s.dramByte d a' := by simp [State.dramByte]
@[simp] theorem State.setIrqRaw_poisoned (rg page raw : Nat) (d : Fin 16) (w' : Nat) : (s.setIrqRaw rg page raw).poisoned d w' = s.poisoned d w' := by simp [State.poisoned]

@[simp] theorem State.irq_tget (rg page bit : Nat) (u : Tbl) (rg' j : Nat) : (s.irq rg page bit).tget u rg' j = s.tget u rg' j := by simp [State.tget]
@[simp] theorem State.irq_ch (rg page bit : Nat) (d : Fin 16) : (s.irq rg page bit).ch d = s.ch d := by simp [State.ch]
@[simp] theorem State.irq_dramByte (rg page bit : Nat) (d : Fin 16) (a' : Nat) : (s.irq rg page bit).dramByte d a' = s.dramByte d a' := by simp [State.dramByte]
@[simp] theorem State.irq_poisoned (rg page bit : Nat) (d : Fin 16) (w' : Nat) : (s.irq rg page bit).poisoned d w' = s.poisoned d w' := by simp [State.poisoned]

@[simp] theorem State.cirq_tget (c : Fin 16) (page bit : Nat) (u : Tbl) (rg' j : Nat) : (s.cirq c page bit).tget u rg' j = s.tget u rg' j := by simp [State.tget]
@[simp] theorem State.cirq_ch (c : Fin 16) (page bit : Nat) (d : Fin 16) : (s.cirq c page bit).ch d = s.ch d := by simp [State.ch]
@[simp] theorem State.cirq_dramByte (c : Fin 16) (page bit : Nat) (d : Fin 16) (a' : Nat) : (s.cirq c page bit).dramByte d a' = s.dramByte d a' := by simp [State.dramByte]
@[simp] theorem State.cirq_poisoned (c : Fin 16) (page bit : Nat) (d : Fin 16) (w' : Nat) : (s.cirq c page bit).poisoned d w' = s.poisoned d w' := by simp [State.poisoned]

@[simp] theorem State.err_tget (rg page ofs code info : Nat) (fly : Bool) (u : Tbl) (rg' j : Nat) : (s.err rg page ofs code info fly).tget u rg' j = s.tget u rg' j := by simp [State.tget]
@[simp] theorem State.err_ch (rg page ofs code info : Nat) (fly : Bool) (d : Fin 16) : (s.err rg page ofs code info fly).ch d = s.ch d := by simp [State.ch]
@[simp] theorem State.err_dramByte (rg page ofs code info : Nat) (fly : Bool) (d : Fin 16) (a' : Nat) : (s.err rg page ofs code info fly).dramByte d a' = s.dramByte d a' := by simp [State.dramByte]
@[simp] theorem State.err_poisoned (rg page ofs code info : Nat) (fly : Bool) (d : Fin 16) (w' : Nat) : (s.err rg page ofs code info fly).poisoned d w' = s.poisoned d w' := by simp [State.poisoned]

@[simp] theorem State.errOpen_tget (rg page ofs code : Nat) (u : Tbl) (rg' j : Nat) : (s.errOpen rg page ofs code).tget u rg' j = s.tget u rg' j := by simp [State.tget]
@[simp] theorem State.errOpen_ch (rg page ofs code : Nat) (d : Fin 16) : (s.errOpen rg page ofs code).ch d = s.ch d := by simp [State.ch]
@[simp] theorem State.errOpen_dramByte (rg page ofs code : Nat) (d : Fin 16) (a' : Nat) : (s.errOpen rg page ofs code).dramByte d a' = s.dramByte d a' := by simp [State.dramByte]
@[simp] theorem State.errOpen_poisoned (rg page ofs code : Nat) (d : Fin 16) (w' : Nat) : (s.errOpen rg page ofs code).poisoned d w' = s.poisoned d w' := by simp [State.poisoned]

end Sys2Proof.Machine
end

