-- ==== Sys2Proof/Laws/Tables.lean ====
section
/-! SUPPORT. What the sparse tables do: reads after writes, and that every operation keeps the canonical form. -/

namespace Sys2Proof.Machine

variable {α : Type}

@[simp] theorem SMap.find?_nil (x : Nat) : SMap.find? ([] : SMap α) x = none := rfl

@[simp] theorem SMap.get_nil (x : Nat) (d : α) : SMap.get ([] : SMap α) x d = d := rfl

theorem SMap.find?_insert (m : SMap α) (x : Nat) (v : α) (y : Nat) :
    SMap.find? (SMap.insert m x v) y = if y = x then some v else SMap.find? m y := by
  induction m with
  | nil => simp only [SMap.insert, SMap.find?]
  | cons e m ih =>
    obtain ⟨k, w⟩ := e
    simp only [SMap.insert]
    by_cases h1 : x < k
    · simp only [h1, if_true, SMap.find?]
    · by_cases h2 : x = k
      · subst h2
        simp only [h1, if_false, if_true, SMap.find?]
        by_cases h3 : y = x <;> simp [h3]
      · simp only [h1, h2, if_false, SMap.find?, ih]
        by_cases h3 : y = k
        · subst h3
          have : ¬ y = x := fun h => h2 h.symm
          simp [this]
        · simp [h3]

theorem SMap.find?_eraseIf (m : SMap α) (p : Nat → Bool) (y : Nat) :
    SMap.find? (SMap.eraseIf m p) y = if p y then none else SMap.find? m y := by
  induction m with
  | nil => simp [SMap.eraseIf]
  | cons e m ih =>
    obtain ⟨k, w⟩ := e
    simp only [SMap.eraseIf, List.filter_cons] at ih ⊢
    by_cases hk : p k = true
    · simp only [hk, Bool.not_true, Bool.false_eq_true, if_false, ih, SMap.find?]
      by_cases hy : y = k
      · subst hy; simp [hk]
      · simp [hy]
    · simp only [hk, Bool.not_false, if_true, SMap.find?, ih]
      by_cases hy : y = k
      · subst hy; simp [hk]
      · simp [hy]

theorem SMap.find?_erase (m : SMap α) (x y : Nat) :
    SMap.find? (SMap.erase m x) y = if y = x then none else SMap.find? m y := by
  simp [SMap.erase, SMap.find?_eraseIf]

/-- Reading after inserting. -/
theorem SMap.get_insert (m : SMap α) (x : Nat) (v : α) (y : Nat) (d : α) :
    SMap.get (SMap.insert m x v) y d = if y = x then v else SMap.get m y d := by
  simp only [SMap.get, SMap.find?_insert]; split <;> simp

/-- Reading after erasing the keys that `p` selects. -/
theorem SMap.get_eraseIf (m : SMap α) (p : Nat → Bool) (y : Nat) (d : α) :
    SMap.get (SMap.eraseIf m p) y d = if p y then d else SMap.get m y d := by
  simp only [SMap.get, SMap.find?_eraseIf]; split <;> simp

/-- Reading after erasing one key. -/
theorem SMap.get_erase (m : SMap α) (x y : Nat) (d : α) :
    SMap.get (SMap.erase m x) y d = if y = x then d else SMap.get m y d := by
  simp only [SMap.get, SMap.find?_erase]; split <;> simp

/-- Reading the key written gives the value written. -/
@[simp] theorem SMap.get_put_self [DecidableEq α] (m : SMap α) (x : Nat) (d v : α) :
    SMap.get (SMap.put m x d v) x d = v := by
  unfold SMap.put; split
  · next h => subst h; simp [SMap.get_erase]
  · simp [SMap.get_insert]

/-- Writing one key leaves every other key as it was. -/
theorem SMap.get_put_ne [DecidableEq α] (m : SMap α) {x y : Nat} (d v e : α) (h : y ≠ x) :
    SMap.get (SMap.put m x d v) y e = SMap.get m y e := by
  unfold SMap.put; split <;> simp [SMap.get_erase, SMap.get_insert, h]

/-! The canonical form. -/

theorem SMap.wf_nil : SMap.wf ([] : SMap α) := List.Pairwise.nil

theorem SMap.mem_insert (m : SMap α) (x : Nat) (v : α) {e : Nat × α} (h : e ∈ SMap.insert m x v) : e = (x, v) ∨ e ∈ m := by
  induction m with
  | nil => simpa [SMap.insert] using h
  | cons a m ih =>
    obtain ⟨k, w⟩ := a
    simp only [SMap.insert] at h
    split at h
    · simpa using h
    · split at h
      · rcases List.mem_cons.mp h with h | h
        · exact .inl h
        · exact .inr (List.mem_cons_of_mem _ h)
      · rcases List.mem_cons.mp h with h | h
        · exact .inr (h ▸ List.mem_cons_self)
        · rcases ih h with h | h
          · exact .inl h
          · exact .inr (List.mem_cons_of_mem _ h)

theorem SMap.wf_insert {m : SMap α} (h : SMap.wf m) (x : Nat) (v : α) : SMap.wf (SMap.insert m x v) := by
  induction m with
  | nil => simp [SMap.insert, SMap.wf]
  | cons a m ih =>
    obtain ⟨k, w⟩ := a
    have hc := List.pairwise_cons.mp h
    simp only [SMap.insert]
    split
    · next h1 =>
      refine List.pairwise_cons.mpr ⟨?_, h⟩
      intro b hb
      rcases List.mem_cons.mp hb with hb | hb
      · subst hb; exact h1
      · exact Nat.lt_trans h1 (hc.1 b hb)
    · split
      · next h2 => subst h2; exact List.pairwise_cons.mpr ⟨hc.1, hc.2⟩
      · next h1 h2 =>
        refine List.pairwise_cons.mpr ⟨?_, ih hc.2⟩
        intro b hb
        rcases SMap.mem_insert m x v hb with hb | hb
        · subst hb; show k < x; omega
        · exact hc.1 b hb

theorem SMap.wf_eraseIf {m : SMap α} (h : SMap.wf m) (p : Nat → Bool) : SMap.wf (SMap.eraseIf m p) := List.Pairwise.filter _ h

theorem SMap.wf_erase {m : SMap α} (h : SMap.wf m) (x : Nat) : SMap.wf (SMap.erase m x) := SMap.wf_eraseIf h _

theorem SMap.wf_put [DecidableEq α] {m : SMap α} (h : SMap.wf m) (x : Nat) (d v : α) : SMap.wf (SMap.put m x d v) := by
  unfold SMap.put; split
  · exact SMap.wf_erase h x
  · exact SMap.wf_insert h x v

theorem SMap.mem_eraseIf {m : SMap α} {p : Nat → Bool} {e : Nat × α} (h : e ∈ SMap.eraseIf m p) : e ∈ m := (List.mem_filter.mp h).1

theorem SMap.mem_put [DecidableEq α] {m : SMap α} {x : Nat} {d v : α} {e : Nat × α} (h : e ∈ SMap.put m x d v) :
    (e = (x, v) ∧ v ≠ d) ∨ e ∈ m := by
  unfold SMap.put at h; split at h
  · exact .inr (SMap.mem_eraseIf h)
  · next hv =>
    rcases SMap.mem_insert m x v h with h | h
    · exact .inl ⟨h, hv⟩
    · exact .inr h

end Sys2Proof.Machine
end

