-- ==== Sys2Proof/Laws/Registers.lean ====
section
/-! SUPPORT. Register fields: what a read gives after a write, and which writes leave which fields alone. -/

namespace Sys2Proof.Machine
open Sys2Proof

variable (s : State)

theorem State.rd_eq_of_regs {s t : State} (h : t.regs = s.regs) (rg : Nat) (f : Fld) : t.rd rg f = s.rd rg f := by
  simp [State.rd, h]

/-- A read gives the value last written, cut to the field's width. -/
@[simp] theorem State.rd_wr_self (rg : Nat) (f : Fld) (v : Nat) : (s.wr rg f v).rd rg f = v % 2 ^ f.width := by
  simp [State.rd, State.wr]

theorem State.rd_wr_of_key {rg rg' : Nat} {f g : Fld} (v : Nat) (h : fieldKey rg' g ≠ fieldKey rg f) :
    (s.wr rg f v).rd rg' g = s.rd rg' g := by
  simp [State.rd, State.wr, SMap.get_put_ne _ _ _ _ h]

theorem fieldKey_region {rg rg' : Nat} {f g : Fld} (hf : f.Placed) (hg : g.Placed) (h : rg' ≠ rg) :
    fieldKey rg' g ≠ fieldKey rg f := by
  have := hf.page; have := hf.off; have := hf.lsb; have := hg.page; have := hg.off; have := hg.lsb
  unfold fieldKey; omega

theorem fieldKey_inj {rg rg' : Nat} {f g : Fld} (hf : f.Placed) (hg : g.Placed) :
    fieldKey rg' g = fieldKey rg f ↔ rg' = rg ∧ g.same f = true := by
  have := hf.page; have := hf.off; have := hf.lsb; have := hg.page; have := hg.off; have := hg.lsb
  simp only [Fld.same, Bool.and_eq_true, beq_iff_eq]
  unfold fieldKey
  omega

theorem flyKey_ne {rg rg' : Nat} {f g : Fld} (hf : f.Placed) (hg : g.Placed) : flyKey rg' g ≠ fieldKey rg f := by
  have := hf.page; have := hf.off; have := hf.lsb; have := hg.page; have := hg.off; have := hg.lsb
  unfold flyKey fieldKey; omega

/-- A write to one region leaves every other region's fields as they were. -/
theorem State.rd_wr_region {rg rg' : Nat} {f g : Fld} (v : Nat) (hf : f.Placed) (hg : g.Placed) (h : rg' ≠ rg) :
    (s.wr rg f v).rd rg' g = s.rd rg' g := State.rd_wr_of_key s v (fieldKey_region hf hg h)

/-- A write to one field leaves every other field of its region as it was. -/
theorem State.rd_wr_field {rg : Nat} {f g : Fld} (v : Nat) (hf : f.Placed) (hg : g.Placed) (h : g.same f = false) :
    (s.wr rg f v).rd rg g = s.rd rg g :=
  State.rd_wr_of_key s v fun e => by simp [((fieldKey_inj hf hg).mp e).2] at h

/-- The Flysheet copies keep their values at a write of the active copy. -/
theorem State.rdFly_wr {rg rg' : Nat} {f g : Fld} (v : Nat) (hf : f.Placed) (hg : g.Placed) :
    (s.wr rg f v).rdFly rg' g = s.rdFly rg' g := by
  simp [State.rdFly, State.wr, SMap.get_put_ne _ _ _ _ (flyKey_ne hf hg)]

/-- The active copies keep their values at a write of the Flysheet copy. -/
theorem State.rd_wrFly {rg rg' : Nat} {f g : Fld} (v : Nat) (hf : f.Placed) (hg : g.Placed) :
    (s.wrFly rg f v).rd rg' g = s.rd rg' g := by
  simp [State.rd, State.wrFly, SMap.get_put_ne _ _ _ _ (Ne.symm (flyKey_ne hg hf))]

@[simp] theorem State.rdFly_wrFly_self (rg : Nat) (f : Fld) (v : Nat) : (s.wrFly rg f v).rdFly rg f = v % 2 ^ f.width := by
  simp [State.rdFly, State.wrFly]

/-- Two different fields, each with its place in the register map. -/
def Fld.apart (f g : Fld) : Bool :=
  decide (f.page < 0x100) && decide (f.off < 0x800) && decide (f.lsb < 32) && decide (g.page < 0x100) && decide (g.off < 0x800) &&
    decide (g.lsb < 32) && !g.same f

theorem Fld.apart_placed {f g : Fld} (h : f.apart g = true) : f.Placed ∧ g.Placed ∧ g.same f = false := by
  simp only [Fld.apart, Bool.and_eq_true, decide_eq_true_eq, Bool.not_eq_true'] at h
  exact ⟨⟨h.1.1.1.1.1.1, h.1.1.1.1.1.2, h.1.1.1.1.2⟩, ⟨h.1.1.1.2, h.1.1.2, h.1.2⟩, h.2⟩

/-- A write to one field leaves a field apart from it as it was; `decide` finds two named fields apart. -/
theorem State.rd_wr_apart {rg : Nat} {f g : Fld} (v : Nat) (h : f.apart g = true) : (s.wr rg f v).rd rg g = s.rd rg g :=
  State.rd_wr_field s v (Fld.apart_placed h).1 (Fld.apart_placed h).2.1 (Fld.apart_placed h).2.2

theorem State.cr_cw_apart {c : Fin 16} {f g : Fld} (v : Nat) (h : f.apart g = true) : (s.cw c f v).cr c g = s.cr c g :=
  State.rd_wr_apart s v h

theorem State.pr_pw_apart {f g : Fld} (v : Nat) (h : f.apart g = true) : (s.pw f v).pr g = s.pr g := State.rd_wr_apart s v h

/-! Which fields a change of the registers keeps. -/

theorem FieldsKept.refl (W : Nat → Fld → Prop) : FieldsKept s s W := fun _ _ _ _ => ⟨rfl, rfl⟩

theorem FieldsKept.trans {r s t : State} {W : Nat → Fld → Prop} (h : FieldsKept r s W) (k : FieldsKept s t W) : FieldsKept r t W :=
  fun rg f hf hn => ⟨((k rg f hf hn).1).trans (h rg f hf hn).1, ((k rg f hf hn).2).trans (h rg f hf hn).2⟩

theorem FieldsKept.of_regs {r s t : State} {W : Nat → Fld → Prop} (h : FieldsKept r s W) (e : t.regs = s.regs) : FieldsKept r t W := by
  intro rg f hf hn
  have := h rg f hf hn
  simpa [State.rd, State.rdFly, e] using this

/-- A write to a field of the list keeps every field outside it. -/
theorem FieldsKept.wr {r s : State} {rg : Nat} {fs : List Fld} (h : FieldsKept r s (FieldsOf rg fs)) {f : Fld} (v : Nat) (hf : f.Placed)
    (hm : f ∈ fs) : FieldsKept r (s.wr rg f v) (FieldsOf rg fs) := by
  refine h.trans fun rg' g hg hn => ⟨State.rd_wr_of_key _ _ fun k => hn ?_, State.rdFly_wr _ _ hf hg⟩
  exact ⟨((fieldKey_inj hf hg).mp k).1, f, hm, ((fieldKey_inj hf hg).mp k).2⟩

/-! The named reads and writes are the plain ones at their region. -/

theorem State.pr_def (f : Fld) : s.pr f = s.rd 0 f := rfl
theorem State.pw_def (f : Fld) (v : Nat) : s.pw f v = s.wr 0 f v := rfl
theorem State.cr_def (c : Fin 16) (f : Fld) : s.cr c f = s.rd (c.val + 1) f := rfl
theorem State.cw_def (c : Fin 16) (f : Fld) (v : Nat) : s.cw c f v = s.wr (c.val + 1) f v := rfl

@[simp] theorem State.pr_pw_self (f : Fld) (v : Nat) : (s.pw f v).pr f = v % 2 ^ f.width := State.rd_wr_self s 0 f v
@[simp] theorem State.cr_cw_self (c : Fin 16) (f : Fld) (v : Nat) : (s.cw c f v).cr c f = v % 2 ^ f.width :=
  State.rd_wr_self s (chRg c) f v

/-- A list of writes that names a field nowhere leaves it as it was. -/
theorem State.rd_wrs_of_keys {rg rg' : Nat} {g : Fld} (l : List (Fld × Nat))
    (h : ∀ e ∈ l, fieldKey rg' g ≠ fieldKey rg e.1) : (s.wrs rg l).rd rg' g = s.rd rg' g := by
  unfold State.wrs
  induction l generalizing s with
  | nil => rfl
  | cons e l ih =>
    rw [List.foldl_cons, ih _ fun x hx => h x (List.mem_cons_of_mem _ hx)]
    exact State.rd_wr_of_key s e.2 (h e List.mem_cons_self)

theorem State.wrs_nil (rg : Nat) : s.wrs rg [] = s := rfl
theorem State.wrs_cons (rg : Nat) (e : Fld × Nat) (l : List (Fld × Nat)) : s.wrs rg (e :: l) = (s.wr rg e.1 e.2).wrs rg l := rfl

/-! Table entries. -/

@[simp] theorem State.tget_tput_self (t : Tbl) (rg i v : Nat) : (s.tput t rg i v).tget t rg i = v := by
  simp [State.tget, State.tput]

theorem State.tget_tput_of_key {t u : Tbl} {rg rg' i j : Nat} (v : Nat) (h : tblKey u rg' j ≠ tblKey t rg i) :
    (s.tput t rg i v).tget u rg' j = s.tget u rg' j := by
  simp [State.tget, State.tput, SMap.get_put_ne _ _ _ _ h]

/-! Channels. -/

@[simp] theorem State.ch_setCh_self (c : Fin 16) (x : Chan) : (s.setCh c x).ch c = x := by
  simp [State.ch, State.setCh]

theorem State.ch_setCh_ne {c d : Fin 16} (x : Chan) (h : d ≠ c) : (s.setCh c x).ch d = s.ch d := by
  have : c.val ≠ d.val := fun e => h (Fin.ext e.symm)
  simp only [State.ch, State.setCh, Fin.getElem_fin, Vector.getElem_set]
  simp [this]

@[simp] theorem State.ch_modCh_self (c : Fin 16) (f : Chan → Chan) : (s.modCh c f).ch c = f (s.ch c) := State.ch_setCh_self s c _

theorem State.ch_modCh_ne {c d : Fin 16} (f : Chan → Chan) (h : d ≠ c) : (s.modCh c f).ch d = s.ch d := State.ch_setCh_ne s _ h

end Sys2Proof.Machine
end

