-- ==== Sys2Proof/Laws/Events.lean ====
section
/-! SUPPORT. What the shared operations for events, messages and counts do: the registers they write and what they leave alone. -/

namespace Sys2Proof.Machine
open Sys2Proof

variable (s : State)

/-- A posted request goes out or is held back; nothing else changes. -/
theorem State.post_only (o : Out) :
    s.post o = { s with out := (s.post o).out, front := { s.front with held := (s.post o).front.held } } := by
  unfold State.post; split
  · rfl
  · split <;> rfl

/-- A message goes out, is held back, or leaves its pending bit; nothing else changes. -/
theorem State.msix_only (v : Nat) : s.msix v = { s with
    out := (s.msix v).out, front := { s.front with pba := (s.msix v).front.pba, held := (s.msix v).front.held } } := by
  unfold State.msix; split
  · rw [State.post_only]
  · rfl

/-- Replacing `IRQ_RAW` writes that register and may send the region's message. -/
theorem State.setIrqRaw_only (rg p raw : Nat) : s.setIrqRaw rg p raw = { s with
    regs := (s.wr rg (F.HDR_IRQ_RAW p) raw).regs, out := (s.setIrqRaw rg p raw).out
    front := { s.front with pba := (s.setIrqRaw rg p raw).front.pba, held := (s.setIrqRaw rg p raw).front.held } } := by
  simp only [State.setIrqRaw]; split
  · rw [State.msix_only]; rfl
  · rfl

/-- An event of a page served from a shadow leaves the state as it is (R458). -/
theorem State.irq_shadow {rg p : Nat} (bit : Nat) (h : (s.shadowed rg && shadowPage p && p != 0) = true) : s.irq rg p bit = s := by
  simp only [State.irq, h, if_true]

/-- The registers after an event that reaches its page: its bit of `IRQ_RAW` is set. -/
theorem State.irq_regs {rg p : Nat} (bit : Nat) (h : (s.shadowed rg && shadowPage p && p != 0) = false) :
    (s.irq rg p bit).regs = (s.wr rg (F.HDR_IRQ_RAW p) (s.rd rg (F.HDR_IRQ_RAW p) ||| 2 ^ bit)).regs := by
  simp only [State.irq, h]
  rw [if_neg (by simp), State.setIrqRaw_only]
  split <;> rfl

theorem State.irq_rd_raw {rg p : Nat} (bit : Nat) (h : (s.shadowed rg && shadowPage p && p != 0) = false) :
    (s.irq rg p bit).rd rg (F.HDR_IRQ_RAW p) = (s.rd rg (F.HDR_IRQ_RAW p) ||| 2 ^ bit) % 2 ^ 32 := by
  rw [State.rd_eq_of_regs (State.irq_regs s bit h), State.rd_wr_self]; rfl

/-- An event leaves every field apart from its `IRQ_RAW` as it was. -/
theorem State.irq_rd_apart {rg p bit : Nat} {g : Fld} (h : (F.HDR_IRQ_RAW p).apart g = true) : (s.irq rg p bit).rd rg g = s.rd rg g := by
  cases e : (s.shadowed rg && shadowPage p && p != 0) with
  | true => rw [State.irq_shadow s bit e]
  | false => rw [State.rd_eq_of_regs (State.irq_regs s bit e), State.rd_wr_apart s _ h]

/-- An event of a channel's page that is served from no shadow sets its bit. -/
theorem State.cirq_cr_raw (c : Fin 16) {p : Nat} (bit : Nat) (h : shadowPage p = false) :
    (s.cirq c p bit).cr c (F.HDR_IRQ_RAW p) = (s.cr c (F.HDR_IRQ_RAW p) ||| 2 ^ bit) % 2 ^ 32 :=
  State.irq_rd_raw s bit (by simp [h])

theorem State.cirq_cr_apart {c : Fin 16} {p bit : Nat} {g : Fld} (h : (F.HDR_IRQ_RAW p).apart g = true) :
    (s.cirq c p bit).cr c g = s.cr c g := State.irq_rd_apart s h

/-- An event keeps every field outside a list that names its `IRQ_RAW`. -/
theorem FieldsKept.irq {r s : State} {rg : Nat} {fs : List Fld} (h : FieldsKept r s (FieldsOf rg fs)) {p : Nat} (bit : Nat) (hp : p < 0x100)
    (hm : F.HDR_IRQ_RAW p ∈ fs) : FieldsKept r (s.irq rg p bit) (FieldsOf rg fs) := by
  cases e : (s.shadowed rg && shadowPage p && p != 0) with
  | true => rw [State.irq_shadow s bit e]; exact h
  | false =>
    exact FieldsKept.of_regs (FieldsKept.wr h _ ⟨hp, by simp [F.HDR_IRQ_RAW], by simp [F.HDR_IRQ_RAW]⟩ hm) (State.irq_regs s bit e)

theorem State.incSat_def (rg : Nat) (f : Fld) (n : Nat) : s.incSat rg f n = s.wr rg f (min (s.rd rg f + n) (2 ^ f.width - 1)) := rfl

theorem State.incWrap_def (rg : Nat) (f : Fld) (n : Nat) : s.incWrap rg f n = s.wr rg f (s.rd rg f + n) := rfl

/-- A saturating count advances and holds its limit. -/
theorem State.incSat_rd_self (rg : Nat) (f : Fld) (n : Nat) : (s.incSat rg f n).rd rg f = min (s.rd rg f + n) (2 ^ f.width - 1) := by
  rw [State.incSat_def, State.rd_wr_self]
  have : 0 < 2 ^ f.width := Nat.two_pow_pos _
  exact Nat.mod_eq_of_lt (by omega)

/-- The effect of a register write that is reached: it runs, with the register's parity mark gone. -/
theorem State.gated_open {src : Src} {rg page off value : Nat} {eff : State → State} (h : s.reach src rg page = .open_) :
    s.gated src rg page off value eff = eff (s.unmark rg page off false) := by
  simp [State.gated, h]

/-- A register write behind a closed fence has no effect (R14). -/
theorem State.gated_closed {src : Src} {rg page off value : Nat} {eff : State → State} (h : s.reach src rg page = .closed) :
    s.gated src rg page off value eff = s := by
  simp [State.gated, h]

/-- An event of a block that takes new work runs. -/
theorem State.whileRunning_on {rg page : Nat} {f : State → State} (h : s.running rg page = true) : s.whileRunning rg page f = f s := by
  simp [State.whileRunning, h]

theorem State.whileRunning_off {rg page : Nat} {f : State → State} (h : s.running rg page = false) : s.whileRunning rg page f = s := by
  simp [State.whileRunning, h]

end Sys2Proof.Machine
end

