-- ==== Sys2Proof/Laws/Keeps.lean ====
section
/-! SUPPORT. What every operation of the model keeps: the waiting commands, what has left the device, the canonical form of the
stores. One relation, with the lemmas that compose it. -/

namespace Sys2Proof.Machine
open Sys2Proof

/-- `t` has the waiting commands of `s`, adds to what has left the device, and keeps the stores canonical. -/
structure Keeps (s t : State) : Prop where
  pending : t.pending = s.pending
  out     : s.out <+: t.out
  canon   : s.Canonical → t.Canonical

theorem Keeps.refl (s : State) : Keeps s s := ⟨rfl, List.prefix_refl _, id⟩

theorem Keeps.trans {r s t : State} (h : Keeps r s) (k : Keeps s t) : Keeps r t :=
  ⟨k.pending.trans h.pending, h.out.trans k.out, k.canon ∘ h.canon⟩

theorem keeps_ite {r s t : State} {p : Prop} [Decidable p] (h : Keeps r s) (k : Keeps r t) : Keeps r (if p then s else t) := by
  split
  · exact h
  · exact k

theorem keeps_foldl {α : Type} {r s : State} {g : State → α → State} (hg : ∀ x a, Keeps x (g x a)) (l : List α) (h : Keeps r s) :
    Keeps r (l.foldl g s) := by
  induction l generalizing s with
  | nil => exact h
  | cons a l ih => exact ih (h.trans (hg s a))

theorem keeps_foldl_fst {α β : Type} {r s : State} {g : State × β → α → State × β} (hg : ∀ x a, Keeps x.1 (g x a).1) (l : List α)
    (b : β) (h : Keeps r s) : Keeps r (l.foldl g (s, b)).1 := by
  suffices H : ∀ x : State × β, Keeps r x.1 → Keeps r (l.foldl g x).1 from H (s, b) h
  induction l with
  | nil => exact fun _ k => k
  | cons a l ih => exact fun x k => ih _ (k.trans (hg x a))

theorem keeps_foldl_snd {α β : Type} {r s : State} {g : β × State → α → β × State} (hg : ∀ x a, Keeps x.2 (g x a).2) (l : List α)
    (b : β) (h : Keeps r s) : Keeps r (l.foldl g (b, s)).2 := by
  suffices H : ∀ x : β × State, Keeps r x.2 → Keeps r (l.foldl g x).2 from H (b, s) h
  induction l with
  | nil => exact fun _ k => k
  | cons a l ih => exact fun x k => ih _ (k.trans (hg x a))

theorem keeps_foldl_trd {α β γ : Type} {r s : State} {g : β × γ × State → α → β × γ × State} (hg : ∀ x a, Keeps x.2.2 (g x a).2.2)
    (l : List α) (b : β) (c : γ) (h : Keeps r s) : Keeps r (l.foldl g (b, c, s)).2.2 := by
  suffices H : ∀ x : β × γ × State, Keeps r x.2.2 → Keeps r (l.foldl g x).2.2 from H (b, c, s) h
  induction l with
  | nil => exact fun _ k => k
  | cons a l ih => exact fun x k => ih _ (k.trans (hg x a))

/-- The stores after reset are canonical: nothing is listed. -/
theorem State.reset_canonical : State.reset.Canonical :=
  ⟨SMap.wf_nil, SMap.wf_nil, SMap.wf_nil, SMap.wf_nil, SMap.wf_nil, rfl, SMap.wf_nil, fun _ m => by cases m⟩

theorem keeps_of_snd {α : Type} {r t : State} {a : α} {p : α × State} (h : Keeps r p.2) (e : p = (a, t)) : Keeps r t := by
  subst e; exact h

/-- A record update of fields other than the stores, the outputs and the queue. -/
theorem keeps_mk {r s : State} (h : Keeps r s) (fh : List (Nat × Nat × Nat × Nat)) (fr : Front) (ch : Vector Chan 16) (se : Security)
    (pl : Plat) (fn : Nat) :
    Keeps r ⟨s.regs, s.tbl, s.latch, fh, s.parity, s.groups, fr, ch, s.dram, s.poison, se, pl, s.out, fn, s.pending⟩ :=
  h.trans ⟨rfl, List.prefix_refl _, fun c => ⟨c.regs, c.tbl, c.latch, c.parity, c.groups, c.dram, c.poison, c.marked⟩⟩

/-- A record update that adds to the outputs. -/
theorem keeps_out {r s : State} (h : Keeps r s) (o : List Out) : Keeps r { s with out := s.out ++ o } :=
  h.trans ⟨rfl, List.prefix_append _ _, fun c => ⟨c.regs, c.tbl, c.latch, c.parity, c.groups, c.dram, c.poison, c.marked⟩⟩

theorem keeps_regs {r s : State} (h : Keeps r s) {m : SMap Nat} (hm : SMap.wf s.regs → SMap.wf m) : Keeps r { s with regs := m } :=
  h.trans ⟨rfl, List.prefix_refl _, fun c => ⟨hm c.regs, c.tbl, c.latch, c.parity, c.groups, c.dram, c.poison, c.marked⟩⟩

theorem keeps_tbl {r s : State} (h : Keeps r s) {m : SMap Nat} (hm : SMap.wf s.tbl → SMap.wf m) : Keeps r { s with tbl := m } :=
  h.trans ⟨rfl, List.prefix_refl _, fun c => ⟨c.regs, hm c.tbl, c.latch, c.parity, c.groups, c.dram, c.poison, c.marked⟩⟩

theorem keeps_latch {r s : State} (h : Keeps r s) {m : SMap Nat} (hm : SMap.wf s.latch → SMap.wf m) : Keeps r { s with latch := m } :=
  h.trans ⟨rfl, List.prefix_refl _, fun c => ⟨c.regs, c.tbl, hm c.latch, c.parity, c.groups, c.dram, c.poison, c.marked⟩⟩

theorem keeps_parity {r s : State} (h : Keeps r s) {m : SMap Bool} (hm : SMap.wf s.parity → SMap.wf m) : Keeps r { s with parity := m } :=
  h.trans ⟨rfl, List.prefix_refl _, fun c => ⟨c.regs, c.tbl, c.latch, hm c.parity, c.groups, c.dram, c.poison, c.marked⟩⟩

theorem keeps_groups {r s : State} (h : Keeps r s) {m : SMap (List Nat)} (hm : SMap.wf s.groups → SMap.wf m) :
    Keeps r { s with groups := m } :=
  h.trans ⟨rfl, List.prefix_refl _, fun c => ⟨c.regs, c.tbl, c.latch, c.parity, hm c.groups, c.dram, c.poison, c.marked⟩⟩

theorem keeps_dram {r s : State} (h : Keeps r s) {m : SMap Byte} (hm : Memory.wf s.dram = true → Memory.wf m = true) :
    Keeps r { s with dram := m } :=
  h.trans ⟨rfl, List.prefix_refl _, fun c => ⟨c.regs, c.tbl, c.latch, c.parity, c.groups, hm c.dram, c.poison, c.marked⟩⟩

theorem keeps_poison {r s : State} (h : Keeps r s) {m : SMap Bool} (hm : SMap.wf s.poison → SMap.wf m)
    (hk : (∀ e ∈ s.poison, e.2 = true) → ∀ e ∈ m, e.2 = true) : Keeps r { s with poison := m } :=
  h.trans ⟨rfl, List.prefix_refl _, fun c => ⟨c.regs, c.tbl, c.latch, c.parity, c.groups, c.dram, hm c.poison, hk c.marked⟩⟩

/-! Memory operations keep the canonical form of channel DRAM. -/

theorem Memory.wf_put {m : SMap Byte} (h : Memory.wf m = true) (x : Nat) (b : Byte) : Memory.wf (SMap.put m x 0 b) = true := by
  simp only [Memory.wf, Bool.and_eq_true, decide_eq_true_eq, List.all_eq_true, bne_iff_ne] at h ⊢
  refine ⟨SMap.wf_put h.1 x 0 b, fun e he => ?_⟩
  rcases SMap.mem_put he with ⟨rfl, hb⟩ | he
  · exact hb
  · exact h.2 e he

theorem Memory.wf_eraseIf {m : SMap Byte} (h : Memory.wf m = true) (p : Nat → Bool) : Memory.wf (SMap.eraseIf m p) = true := by
  simp only [Memory.wf, Bool.and_eq_true, decide_eq_true_eq, List.all_eq_true, bne_iff_ne] at h ⊢
  exact ⟨SMap.wf_eraseIf h.1 p, fun e he => h.2 e (SMap.mem_eraseIf he)⟩

/-! The operations that touch the stores. -/

theorem keeps_wr {r s : State} (h : Keeps r s) (rg : Nat) (f : Fld) (v : Nat) : Keeps r (s.wr rg f v) :=
  keeps_regs h fun w => SMap.wf_put w _ _ _

theorem keeps_wrFly {r s : State} (h : Keeps r s) (rg : Nat) (f : Fld) (v : Nat) : Keeps r (s.wrFly rg f v) :=
  keeps_regs h fun w => SMap.wf_put w _ _ _

theorem keeps_tput {r s : State} (h : Keeps r s) (t : Tbl) (rg i v : Nat) : Keeps r (s.tput t rg i v) :=
  keeps_tbl h fun w => SMap.wf_put w _ _ _

theorem keeps_tclear {r s : State} (h : Keeps r s) (t : Tbl) (rg : Nat) : Keeps r (s.tclear t rg) :=
  keeps_tbl h fun w => SMap.wf_eraseIf w _

theorem keeps_resetFields {r s : State} (h : Keeps r s) (rg : Nat) (p : Nat → Nat → Bool) : Keeps r (s.resetFields rg p) := by
  refine h.trans ⟨rfl, List.prefix_refl _, fun c => ?_⟩
  constructor <;> dsimp only [State.resetFields]
  · exact SMap.wf_eraseIf c.regs _
  · exact c.tbl
  · exact c.latch
  · exact SMap.wf_eraseIf c.parity _
  · exact c.groups
  · exact c.dram
  · exact c.poison
  · exact c.marked

theorem keeps_answer {r s : State} (h : Keeps r s) (o : Out) : Keeps r (s.answer o) := keeps_out h [o]

theorem keeps_dramPut {r s : State} (h : Keeps r s) (c : Fin 16) (a : Nat) (b : Byte) : Keeps r (s.dramPut c a b) :=
  keeps_dram h fun w => Memory.wf_put w _ _

theorem keeps_dramPutList {r s : State} (h : Keeps r s) (c : Fin 16) (a : Nat) (bs : List (Option Byte)) :
    Keeps r (s.dramPutList c a bs) := by
  induction bs generalizing s a with
  | nil => exact h
  | cons b bs ih =>
    cases b with
    | none => exact ih h (a + 1)
    | some b => exact ih (keeps_dramPut h c a b) (a + 1)

theorem poison_erased {m : SMap Bool} (l : List Nat) (g : Nat → Nat) :
    (SMap.wf m → SMap.wf (l.foldl (fun p w => SMap.erase p (g w)) m)) ∧
    ((∀ e ∈ m, e.2 = true) → ∀ e ∈ l.foldl (fun p w => SMap.erase p (g w)) m, e.2 = true) := by
  induction l generalizing m with
  | nil => exact ⟨id, id⟩
  | cons w l ih =>
    exact ⟨fun h => ih.1 (SMap.wf_erase h _), fun h => ih.2 fun e he => h e (SMap.mem_eraseIf he)⟩

theorem keeps_dramWrite {r s : State} (h : Keeps r s) (c : Fin 16) (a : Nat) (bs : List (Option Byte)) : Keeps r (s.dramWrite c a bs) :=
  keeps_poison (keeps_dramPutList h c a bs) (poison_erased _ _).1 (poison_erased _ _).2

theorem keeps_dramFill {r s : State} (h : Keeps r s) (c : Fin 16) : Keeps r (s.dramFill c) := by
  refine h.trans ⟨rfl, List.prefix_refl _, fun k => ?_⟩
  constructor <;> dsimp only [State.dramFill]
  · exact k.regs
  · exact k.tbl
  · exact k.latch
  · exact k.parity
  · exact k.groups
  · exact Memory.wf_eraseIf k.dram _
  · exact SMap.wf_eraseIf k.poison _
  · exact fun e he => k.marked e (SMap.mem_eraseIf he)

theorem keeps_marked {r s : State} (h : Keeps r s) (x : Nat) : Keeps r { s with poison := SMap.put s.poison x false true } :=
  keeps_poison h (fun w => SMap.wf_put w _ _ _) fun k e he => by
    rcases SMap.mem_put he with ⟨rfl, _⟩ | he
    · rfl
    · exact k e he

/-! Record updates. `KeepsMk` is `Keeps` with the new state's fields one by one, so that a lemma about it meets record updates only. -/

/-- `Keeps` of a state given field by field. -/
def KeepsMk (r : State) (regs : SMap Nat) (tbl : SMap Nat) (latch : SMap Nat) (fh : List (Nat × Nat × Nat × Nat)) (parity : SMap Bool)
    (groups : SMap (List Nat)) (fr : Front) (ch : Vector Chan 16) (dram : SMap Byte) (poison : SMap Bool) (se : Security) (pl : Plat)
    (out : List Out) (fn : Nat) (pending : List Instr) : Prop :=
  Keeps r ⟨regs, tbl, latch, fh, parity, groups, fr, ch, dram, poison, se, pl, out, fn, pending⟩

theorem keepsMk_eq {r : State} {a b c d e f g i j k l m n o p} :
    Keeps r (State.mk a b c d e f g i j k l m n o p) = KeepsMk r a b c d e f g i j k l m n o p := rfl

variable {r s : State} {fh : List (Nat × Nat × Nat × Nat)} {fr : Front} {ch : Vector Chan 16} {se : Security} {pl : Plat} {fn : Nat}

/-- A state with the stores of reset. -/
theorem keepsMk_reset (h : Keeps r s) {x : State} (hx : x.Canonical) :
    KeepsMk r x.regs x.tbl x.latch fh x.parity x.groups fr ch x.dram x.poison se pl s.out fn r.pending :=
  ⟨rfl, h.out, fun _ => ⟨hx.regs, hx.tbl, hx.latch, hx.parity, hx.groups, hx.dram, hx.poison, hx.marked⟩⟩

theorem keepsMk_plain (h : Keeps r s) : KeepsMk r s.regs s.tbl s.latch fh s.parity s.groups fr ch s.dram s.poison se pl s.out fn s.pending :=
  keeps_mk h fh fr ch se pl fn

theorem keepsMk_out (h : Keeps r s) (o : List Out) : KeepsMk r s.regs s.tbl s.latch s.flyHeld s.parity s.groups fr s.chans s.dram s.poison s.sec s.plat (s.out ++ o) s.free s.pending :=
  keeps_mk (keeps_out h o) _ _ _ _ _ _

theorem keepsMk_poison (h : Keeps r s) (x : Nat) : KeepsMk r s.regs s.tbl s.latch s.flyHeld s.parity s.groups s.front s.chans s.dram (SMap.put s.poison x false true) s.sec s.plat s.out s.free s.pending := keeps_marked h x

theorem keepsMk_parity_put (h : Keeps r s) (x : Nat) : KeepsMk r s.regs s.tbl s.latch s.flyHeld (SMap.put s.parity x false true) s.groups s.front s.chans s.dram s.poison s.sec s.plat s.out s.free s.pending :=
  keeps_parity h fun w => SMap.wf_put w _ _ _

theorem keepsMk_parity_erase (h : Keeps r s) (x : Nat) : KeepsMk r s.regs s.tbl s.latch s.flyHeld (SMap.erase s.parity x) s.groups s.front s.chans s.dram s.poison s.sec s.plat s.out s.free s.pending :=
  keeps_parity h fun w => SMap.wf_erase w _

theorem keepsMk_groups_put (h : Keeps r s) (x : Nat) (l : List Nat) : KeepsMk r s.regs s.tbl s.latch s.flyHeld s.parity (SMap.put s.groups x [] l) s.front s.chans s.dram s.poison s.sec s.plat s.out s.free s.pending :=
  keeps_groups h fun w => SMap.wf_put w _ _ _

theorem keepsMk_groups_erase (h : Keeps r s) (x : Nat) : KeepsMk r s.regs s.tbl s.latch fh s.parity (SMap.erase s.groups x) s.front s.chans s.dram s.poison s.sec s.plat s.out s.free s.pending :=
  keeps_mk (keeps_groups h fun w => SMap.wf_erase w x) _ _ _ _ _ _

theorem keepsMk_latch_insert (h : Keeps r s) (x v : Nat) : KeepsMk r s.regs s.tbl (SMap.insert s.latch x v) s.flyHeld s.parity s.groups s.front s.chans s.dram s.poison s.sec s.plat s.out s.free s.pending :=
  keeps_latch h fun w => SMap.wf_insert w _ _

theorem keepsMk_latch_erase (h : Keeps r s) (x : Nat) : KeepsMk r s.regs s.tbl (SMap.erase s.latch x) s.flyHeld s.parity s.groups s.front s.chans s.dram s.poison s.sec s.plat s.out s.free s.pending :=
  keeps_latch h fun w => SMap.wf_erase w _

end Sys2Proof.Machine
end

