-- ==== Sys2Proof/Laws/KeepsOps.lean ====
section
/-! SUPPORT. What the operations of Ops keep. -/

set_option linter.unusedSimpArgs false
set_option linter.unusedVariables false
set_option linter.unusedTactic false
set_option linter.unreachableTactic false
set_option Elab.async false

namespace Sys2Proof.Machine
open Sys2Proof

theorem keeps_pw {r s : State} (h : Keeps r s) (a1 : Sys2Proof.Machine.Fld) (a2 : Nat)  : Keeps r (State.pw s a1 a2) := by
  unfold State.pw
  repeat' (first | with_reducible exact h | with_reducible exact Keeps.refl _ | intro _ | with_reducible apply keeps_wr | with_reducible apply keeps_ite | with_reducible apply keeps_foldl | with_reducible apply keeps_foldl_fst | with_reducible apply keeps_foldl_snd | simp only [keepsMk_eq] | with_reducible apply keepsMk_plain | with_reducible apply keepsMk_out | with_reducible apply keepsMk_poison | with_reducible apply keepsMk_parity_put | with_reducible apply keepsMk_parity_erase | with_reducible apply keepsMk_groups_put | with_reducible apply keepsMk_groups_erase | with_reducible apply keepsMk_latch_insert | with_reducible apply keepsMk_latch_erase | split | dsimp only | refine keeps_of_snd ?_ (by with_reducible assumption))

theorem keeps_cw {r s : State} (h : Keeps r s) (a1 : Fin 16) (a2 : Sys2Proof.Machine.Fld) (a3 : Nat)  : Keeps r (State.cw s a1 a2 a3) := by
  unfold State.cw
  repeat' (first | with_reducible exact h | with_reducible exact Keeps.refl _ | intro _ | with_reducible apply keeps_wr | with_reducible apply keeps_ite | with_reducible apply keeps_foldl | with_reducible apply keeps_foldl_fst | with_reducible apply keeps_foldl_snd | simp only [keepsMk_eq] | with_reducible apply keepsMk_plain | with_reducible apply keepsMk_out | with_reducible apply keepsMk_poison | with_reducible apply keepsMk_parity_put | with_reducible apply keepsMk_parity_erase | with_reducible apply keepsMk_groups_put | with_reducible apply keepsMk_groups_erase | with_reducible apply keepsMk_latch_insert | with_reducible apply keepsMk_latch_erase | split | dsimp only | refine keeps_of_snd ?_ (by with_reducible assumption))

theorem keeps_incSat {r s : State} (h : Keeps r s) (a1 : Nat) (a2 : Sys2Proof.Machine.Fld) (a3 : Nat)  : Keeps r (State.incSat s a1 a2 a3) := by
  unfold State.incSat
  repeat' (first | with_reducible exact h | with_reducible exact Keeps.refl _ | intro _ | with_reducible apply keeps_wr | with_reducible apply keeps_ite | with_reducible apply keeps_foldl | with_reducible apply keeps_foldl_fst | with_reducible apply keeps_foldl_snd | simp only [keepsMk_eq] | with_reducible apply keepsMk_plain | with_reducible apply keepsMk_out | with_reducible apply keepsMk_poison | with_reducible apply keepsMk_parity_put | with_reducible apply keepsMk_parity_erase | with_reducible apply keepsMk_groups_put | with_reducible apply keepsMk_groups_erase | with_reducible apply keepsMk_latch_insert | with_reducible apply keepsMk_latch_erase | split | dsimp only | refine keeps_of_snd ?_ (by with_reducible assumption))

theorem keeps_incWrap {r s : State} (h : Keeps r s) (a1 : Nat) (a2 : Sys2Proof.Machine.Fld) (a3 : Nat)  : Keeps r (State.incWrap s a1 a2 a3) := by
  unfold State.incWrap
  repeat' (first | with_reducible exact h | with_reducible exact Keeps.refl _ | intro _ | with_reducible apply keeps_wr | with_reducible apply keeps_ite | with_reducible apply keeps_foldl | with_reducible apply keeps_foldl_fst | with_reducible apply keeps_foldl_snd | simp only [keepsMk_eq] | with_reducible apply keepsMk_plain | with_reducible apply keepsMk_out | with_reducible apply keepsMk_poison | with_reducible apply keepsMk_parity_put | with_reducible apply keepsMk_parity_erase | with_reducible apply keepsMk_groups_put | with_reducible apply keepsMk_groups_erase | with_reducible apply keepsMk_latch_insert | with_reducible apply keepsMk_latch_erase | split | dsimp only | refine keeps_of_snd ?_ (by with_reducible assumption))

theorem keeps_wrLegal {r s : State} (h : Keeps r s) (a1 : Nat) (a2 : Sys2Proof.Machine.Fld) (a3 : Nat)  : Keeps r (State.wrLegal s a1 a2 a3) := by
  unfold State.wrLegal
  repeat' (first | with_reducible exact h | with_reducible exact Keeps.refl _ | intro _ | with_reducible apply keeps_wr | with_reducible apply keeps_ite | with_reducible apply keeps_foldl | with_reducible apply keeps_foldl_fst | with_reducible apply keeps_foldl_snd | simp only [keepsMk_eq] | with_reducible apply keepsMk_plain | with_reducible apply keepsMk_out | with_reducible apply keepsMk_poison | with_reducible apply keepsMk_parity_put | with_reducible apply keepsMk_parity_erase | with_reducible apply keepsMk_groups_put | with_reducible apply keepsMk_groups_erase | with_reducible apply keepsMk_latch_insert | with_reducible apply keepsMk_latch_erase | split | dsimp only | refine keeps_of_snd ?_ (by with_reducible assumption))

theorem keeps_wrs {r s : State} (h : Keeps r s) (a1 : Nat) (a2 : List (Sys2Proof.Machine.Fld × Nat))  : Keeps r (State.wrs s a1 a2) := by
  unfold State.wrs
  repeat' (first | with_reducible exact h | with_reducible exact Keeps.refl _ | intro _ | with_reducible apply keeps_wr | with_reducible apply keeps_ite | with_reducible apply keeps_foldl | with_reducible apply keeps_foldl_fst | with_reducible apply keeps_foldl_snd | simp only [keepsMk_eq] | with_reducible apply keepsMk_plain | with_reducible apply keepsMk_out | with_reducible apply keepsMk_poison | with_reducible apply keepsMk_parity_put | with_reducible apply keepsMk_parity_erase | with_reducible apply keepsMk_groups_put | with_reducible apply keepsMk_groups_erase | with_reducible apply keepsMk_latch_insert | with_reducible apply keepsMk_latch_erase | split | dsimp only | refine keeps_of_snd ?_ (by with_reducible assumption))

theorem keeps_setCh {r s : State} (h : Keeps r s) (a1 : Fin 16) (a2 : Sys2Proof.Machine.Chan)  : Keeps r (State.setCh s a1 a2) := by
  unfold State.setCh
  repeat' (first | with_reducible exact h | with_reducible exact Keeps.refl _ | intro _ | with_reducible apply keeps_ite | with_reducible apply keeps_foldl | with_reducible apply keeps_foldl_fst | with_reducible apply keeps_foldl_snd | simp only [keepsMk_eq] | with_reducible apply keepsMk_plain | with_reducible apply keepsMk_out | with_reducible apply keepsMk_poison | with_reducible apply keepsMk_parity_put | with_reducible apply keepsMk_parity_erase | with_reducible apply keepsMk_groups_put | with_reducible apply keepsMk_groups_erase | with_reducible apply keepsMk_latch_insert | with_reducible apply keepsMk_latch_erase | split | dsimp only | refine keeps_of_snd ?_ (by with_reducible assumption))

theorem keeps_modCh {r s : State} (h : Keeps r s) (a1 : Fin 16) (a2 : Sys2Proof.Machine.Chan → Sys2Proof.Machine.Chan)  : Keeps r (State.modCh s a1 a2) := by
  unfold State.modCh
  repeat' (first | with_reducible exact h | with_reducible exact Keeps.refl _ | intro _ | with_reducible apply keeps_setCh | with_reducible apply keeps_ite | with_reducible apply keeps_foldl | with_reducible apply keeps_foldl_fst | with_reducible apply keeps_foldl_snd | simp only [keepsMk_eq] | with_reducible apply keepsMk_plain | with_reducible apply keepsMk_out | with_reducible apply keepsMk_poison | with_reducible apply keepsMk_parity_put | with_reducible apply keepsMk_parity_erase | with_reducible apply keepsMk_groups_put | with_reducible apply keepsMk_groups_erase | with_reducible apply keepsMk_latch_insert | with_reducible apply keepsMk_latch_erase | split | dsimp only | refine keeps_of_snd ?_ (by with_reducible assumption))

theorem keeps_setSt {r s : State} (h : Keeps r s) (a1 : Fin 16) (a2 : Sys2Proof.Machine.ChState)  : Keeps r (State.setSt s a1 a2) := by
  unfold State.setSt
  repeat' (first | with_reducible exact h | with_reducible exact Keeps.refl _ | intro _ | with_reducible apply keeps_modCh | with_reducible apply keeps_ite | with_reducible apply keeps_foldl | with_reducible apply keeps_foldl_fst | with_reducible apply keeps_foldl_snd | simp only [keepsMk_eq] | with_reducible apply keepsMk_plain | with_reducible apply keepsMk_out | with_reducible apply keepsMk_poison | with_reducible apply keepsMk_parity_put | with_reducible apply keepsMk_parity_erase | with_reducible apply keepsMk_groups_put | with_reducible apply keepsMk_groups_erase | with_reducible apply keepsMk_latch_insert | with_reducible apply keepsMk_latch_erase | split | dsimp only | refine keeps_of_snd ?_ (by with_reducible assumption))

theorem keeps_whileRunning {r s : State} (h : Keeps r s) (a1 : Nat) (a2 : Nat) (a3 : Sys2Proof.Machine.State → Sys2Proof.Machine.State) (h3 : ∀ x, Keeps x (a3 x)) : Keeps r (State.whileRunning s a1 a2 a3) := by
  have k3 : ∀ x y, Keeps x y → Keeps x (a3 y) := fun x y k => k.trans (h3 y)
  unfold State.whileRunning
  repeat' (first | with_reducible exact h | with_reducible exact Keeps.refl _ | exact h3 _ | intro _ | with_reducible apply keeps_ite | with_reducible apply keeps_foldl | with_reducible apply keeps_foldl_fst | with_reducible apply keeps_foldl_snd | with_reducible apply k3 | simp only [keepsMk_eq] | with_reducible apply keepsMk_plain | with_reducible apply keepsMk_out | with_reducible apply keepsMk_poison | with_reducible apply keepsMk_parity_put | with_reducible apply keepsMk_parity_erase | with_reducible apply keepsMk_groups_put | with_reducible apply keepsMk_groups_erase | with_reducible apply keepsMk_latch_insert | with_reducible apply keepsMk_latch_erase | split | dsimp only | refine keeps_of_snd ?_ (by with_reducible assumption))

theorem keeps_draw {r s : State} (h : Keeps r s) (a1 : Nat)  : Keeps r (State.draw s a1).2 := by
  unfold State.draw
  repeat' (first | with_reducible exact h | with_reducible exact Keeps.refl _ | intro _ | with_reducible apply keeps_ite | with_reducible apply keeps_foldl | with_reducible apply keeps_foldl_fst | with_reducible apply keeps_foldl_snd | simp only [keepsMk_eq] | with_reducible apply keepsMk_plain | with_reducible apply keepsMk_out | with_reducible apply keepsMk_poison | with_reducible apply keepsMk_parity_put | with_reducible apply keepsMk_parity_erase | with_reducible apply keepsMk_groups_put | with_reducible apply keepsMk_groups_erase | with_reducible apply keepsMk_latch_insert | with_reducible apply keepsMk_latch_erase | split | dsimp only | refine keeps_of_snd ?_ (by with_reducible assumption))

theorem keeps_post {r s : State} (h : Keeps r s) (a1 : Sys2Proof.Machine.Out)  : Keeps r (State.post s a1) := by
  unfold State.post
  repeat' (first | with_reducible exact h | with_reducible exact Keeps.refl _ | intro _ | with_reducible apply keeps_ite | with_reducible apply keeps_foldl | with_reducible apply keeps_foldl_fst | with_reducible apply keeps_foldl_snd | simp only [keepsMk_eq] | with_reducible apply keepsMk_plain | with_reducible apply keepsMk_out | with_reducible apply keepsMk_poison | with_reducible apply keepsMk_parity_put | with_reducible apply keepsMk_parity_erase | with_reducible apply keepsMk_groups_put | with_reducible apply keepsMk_groups_erase | with_reducible apply keepsMk_latch_insert | with_reducible apply keepsMk_latch_erase | split | dsimp only | refine keeps_of_snd ?_ (by with_reducible assumption))

theorem keeps_lockCore {r s : State} (h : Keeps r s) (a1 : Fin 16)  : Keeps r (State.lockCore s a1) := by
  unfold State.lockCore
  repeat' (first | with_reducible exact h | with_reducible exact Keeps.refl _ | intro _ | with_reducible apply keeps_modCh | with_reducible apply keeps_ite | with_reducible apply keeps_foldl | with_reducible apply keeps_foldl_fst | with_reducible apply keeps_foldl_snd | simp only [keepsMk_eq] | with_reducible apply keepsMk_plain | with_reducible apply keepsMk_out | with_reducible apply keepsMk_poison | with_reducible apply keepsMk_parity_put | with_reducible apply keepsMk_parity_erase | with_reducible apply keepsMk_groups_put | with_reducible apply keepsMk_groups_erase | with_reducible apply keepsMk_latch_insert | with_reducible apply keepsMk_latch_erase | split | dsimp only | refine keeps_of_snd ?_ (by with_reducible assumption))

theorem keeps_msix {r s : State} (h : Keeps r s) (a1 : Nat)  : Keeps r (State.msix s a1) := by
  unfold State.msix
  repeat' (first | with_reducible exact h | with_reducible exact Keeps.refl _ | intro _ | with_reducible apply keeps_post | with_reducible apply keeps_ite | with_reducible apply keeps_foldl | with_reducible apply keeps_foldl_fst | with_reducible apply keeps_foldl_snd | simp only [keepsMk_eq] | with_reducible apply keepsMk_plain | with_reducible apply keepsMk_out | with_reducible apply keepsMk_poison | with_reducible apply keepsMk_parity_put | with_reducible apply keepsMk_parity_erase | with_reducible apply keepsMk_groups_put | with_reducible apply keepsMk_groups_erase | with_reducible apply keepsMk_latch_insert | with_reducible apply keepsMk_latch_erase | split | dsimp only | refine keeps_of_snd ?_ (by with_reducible assumption))

end Sys2Proof.Machine
end

