-- ==== Sys2Proof/Laws/KeepsFlags.lean ====
section
/-! SUPPORT. What the operations of Flags keep. -/

set_option linter.unusedSimpArgs false
set_option linter.unusedVariables false
set_option linter.unusedTactic false
set_option linter.unreachableTactic false
set_option Elab.async false

namespace Sys2Proof.Machine
open Sys2Proof

theorem keeps_setIrqRaw {r s : State} (h : Keeps r s) (a1 : Nat) (a2 : Nat) (a3 : Nat)  : Keeps r (State.setIrqRaw s a1 a2 a3) := by
  unfold State.setIrqRaw
  repeat' (first | with_reducible exact h | with_reducible exact Keeps.refl _ | intro _ | with_reducible apply keeps_wr | with_reducible apply keeps_msix | with_reducible apply keeps_ite | with_reducible apply keeps_foldl | with_reducible apply keeps_foldl_fst | with_reducible apply keeps_foldl_snd | simp only [keepsMk_eq] | with_reducible apply keepsMk_plain | with_reducible apply keepsMk_out | with_reducible apply keepsMk_poison | with_reducible apply keepsMk_parity_put | with_reducible apply keepsMk_parity_erase | with_reducible apply keepsMk_groups_put | with_reducible apply keepsMk_groups_erase | with_reducible apply keepsMk_latch_insert | with_reducible apply keepsMk_latch_erase | split | dsimp only | refine keeps_of_snd ?_ (by with_reducible assumption))

theorem keeps_traceEvent {r s : State} (h : Keeps r s) (a1 : Nat) (a2 : Nat) (a3 : Nat)  : Keeps r (State.traceEvent s a1 a2 a3) := by
  unfold State.traceEvent
  repeat' (first | with_reducible exact h | with_reducible exact Keeps.refl _ | intro _ | with_reducible apply keeps_ite | with_reducible apply keeps_foldl | with_reducible apply keeps_foldl_fst | with_reducible apply keeps_foldl_snd | simp only [keepsMk_eq] | with_reducible apply keepsMk_plain | with_reducible apply keepsMk_out | with_reducible apply keepsMk_poison | with_reducible apply keepsMk_parity_put | with_reducible apply keepsMk_parity_erase | with_reducible apply keepsMk_groups_put | with_reducible apply keepsMk_groups_erase | with_reducible apply keepsMk_latch_insert | with_reducible apply keepsMk_latch_erase | split | dsimp only | refine keeps_of_snd ?_ (by with_reducible assumption))

theorem keeps_irq {r s : State} (h : Keeps r s) (a1 : Nat) (a2 : Nat) (a3 : Nat)  : Keeps r (State.irq s a1 a2 a3) := by
  unfold State.irq
  repeat' (first | with_reducible exact h | with_reducible exact Keeps.refl _ | intro _ | with_reducible apply keeps_setIrqRaw | with_reducible apply keeps_traceEvent | with_reducible apply keeps_ite | with_reducible apply keeps_foldl | with_reducible apply keeps_foldl_fst | with_reducible apply keeps_foldl_snd | simp only [keepsMk_eq] | with_reducible apply keepsMk_plain | with_reducible apply keepsMk_out | with_reducible apply keepsMk_poison | with_reducible apply keepsMk_parity_put | with_reducible apply keepsMk_parity_erase | with_reducible apply keepsMk_groups_put | with_reducible apply keepsMk_groups_erase | with_reducible apply keepsMk_latch_insert | with_reducible apply keepsMk_latch_erase | split | dsimp only | refine keeps_of_snd ?_ (by with_reducible assumption))

theorem keeps_cirq {r s : State} (h : Keeps r s) (a1 : Fin 16) (a2 : Nat) (a3 : Nat)  : Keeps r (State.cirq s a1 a2 a3) := by
  unfold State.cirq
  repeat' (first | with_reducible exact h | with_reducible exact Keeps.refl _ | intro _ | with_reducible apply keeps_irq | with_reducible apply keeps_ite | with_reducible apply keeps_foldl | with_reducible apply keeps_foldl_fst | with_reducible apply keeps_foldl_snd | simp only [keepsMk_eq] | with_reducible apply keepsMk_plain | with_reducible apply keepsMk_out | with_reducible apply keepsMk_poison | with_reducible apply keepsMk_parity_put | with_reducible apply keepsMk_parity_erase | with_reducible apply keepsMk_groups_put | with_reducible apply keepsMk_groups_erase | with_reducible apply keepsMk_latch_insert | with_reducible apply keepsMk_latch_erase | split | dsimp only | refine keeps_of_snd ?_ (by with_reducible assumption))

theorem keeps_err {r s : State} (h : Keeps r s) (a1 : Nat) (a2 : Nat) (a3 : Nat) (a4 : Nat) (a5 : Nat) (a6 : Bool)  : Keeps r (State.err s a1 a2 a3 a4 a5 a6) := by
  unfold State.err
  repeat' (first | with_reducible exact h | with_reducible exact Keeps.refl _ | intro _ | with_reducible apply keeps_incSat | with_reducible apply keeps_wrs | with_reducible apply keeps_ite | with_reducible apply keeps_foldl | with_reducible apply keeps_foldl_fst | with_reducible apply keeps_foldl_snd | simp only [keepsMk_eq] | with_reducible apply keepsMk_plain | with_reducible apply keepsMk_out | with_reducible apply keepsMk_poison | with_reducible apply keepsMk_parity_put | with_reducible apply keepsMk_parity_erase | with_reducible apply keepsMk_groups_put | with_reducible apply keepsMk_groups_erase | with_reducible apply keepsMk_latch_insert | with_reducible apply keepsMk_latch_erase | split | dsimp only | refine keeps_of_snd ?_ (by with_reducible assumption))

theorem keeps_errOpen {r s : State} (h : Keeps r s) (a1 : Nat) (a2 : Nat) (a3 : Nat) (a4 : Nat)  : Keeps r (State.errOpen s a1 a2 a3 a4) := by
  unfold State.errOpen
  repeat' (first | with_reducible exact h | with_reducible exact Keeps.refl _ | intro _ | with_reducible apply keeps_draw | with_reducible apply keeps_err | with_reducible apply keeps_ite | with_reducible apply keeps_foldl | with_reducible apply keeps_foldl_fst | with_reducible apply keeps_foldl_snd | simp only [keepsMk_eq] | with_reducible apply keepsMk_plain | with_reducible apply keepsMk_out | with_reducible apply keepsMk_poison | with_reducible apply keepsMk_parity_put | with_reducible apply keepsMk_parity_erase | with_reducible apply keepsMk_groups_put | with_reducible apply keepsMk_groups_erase | with_reducible apply keepsMk_latch_insert | with_reducible apply keepsMk_latch_erase | split | dsimp only | refine keeps_of_snd ?_ (by with_reducible assumption))

theorem keeps_sample {r s : State} (h : Keeps r s) (a1 : Nat) (a2 : Nat) (a3 : Int)  : Keeps r (State.sample s a1 a2 a3) := by
  unfold State.sample
  repeat' (first | with_reducible exact h | with_reducible exact Keeps.refl _ | intro _ | with_reducible apply keeps_tput | with_reducible apply keeps_irq | with_reducible apply keeps_ite | with_reducible apply keeps_foldl | with_reducible apply keeps_foldl_fst | with_reducible apply keeps_foldl_snd | simp only [keepsMk_eq] | with_reducible apply keepsMk_plain | with_reducible apply keepsMk_out | with_reducible apply keepsMk_poison | with_reducible apply keepsMk_parity_put | with_reducible apply keepsMk_parity_erase | with_reducible apply keepsMk_groups_put | with_reducible apply keepsMk_groups_erase | with_reducible apply keepsMk_latch_insert | with_reducible apply keepsMk_latch_erase | split | dsimp only | refine keeps_of_snd ?_ (by with_reducible assumption))

theorem keeps_histClearBins {r s : State} (h : Keeps r s) (a1 : Nat) (a2 : Nat)  : Keeps r (State.histClearBins s a1 a2) := by
  unfold State.histClearBins
  repeat' (first | with_reducible exact h | with_reducible exact Keeps.refl _ | intro _ | with_reducible apply keeps_tput | with_reducible apply keeps_ite | with_reducible apply keeps_foldl | with_reducible apply keeps_foldl_fst | with_reducible apply keeps_foldl_snd | simp only [keepsMk_eq] | with_reducible apply keepsMk_plain | with_reducible apply keepsMk_out | with_reducible apply keepsMk_poison | with_reducible apply keepsMk_parity_put | with_reducible apply keepsMk_parity_erase | with_reducible apply keepsMk_groups_put | with_reducible apply keepsMk_groups_erase | with_reducible apply keepsMk_latch_insert | with_reducible apply keepsMk_latch_erase | split | dsimp only | refine keeps_of_snd ?_ (by with_reducible assumption))

theorem keeps_histClearMM {r s : State} (h : Keeps r s) (a1 : Nat) (a2 : Nat)  : Keeps r (State.histClearMM s a1 a2) := by
  unfold State.histClearMM
  repeat' (first | with_reducible exact h | with_reducible exact Keeps.refl _ | intro _ | with_reducible apply keeps_tput | with_reducible apply keeps_ite | with_reducible apply keeps_foldl | with_reducible apply keeps_foldl_fst | with_reducible apply keeps_foldl_snd | simp only [keepsMk_eq] | with_reducible apply keepsMk_plain | with_reducible apply keepsMk_out | with_reducible apply keepsMk_poison | with_reducible apply keepsMk_parity_put | with_reducible apply keepsMk_parity_erase | with_reducible apply keepsMk_groups_put | with_reducible apply keepsMk_groups_erase | with_reducible apply keepsMk_latch_insert | with_reducible apply keepsMk_latch_erase | split | dsimp only | refine keeps_of_snd ?_ (by with_reducible assumption))

theorem keeps_cntSaturated {r s : State} (h : Keeps r s) (a1 : Fin 16) (a2 : Nat)  : Keeps r (State.cntSaturated s a1 a2) := by
  unfold State.cntSaturated
  repeat' (first | with_reducible exact h | with_reducible exact Keeps.refl _ | intro _ | with_reducible apply keeps_cirq | with_reducible apply keeps_cw | with_reducible apply keeps_ite | with_reducible apply keeps_foldl | with_reducible apply keeps_foldl_fst | with_reducible apply keeps_foldl_snd | simp only [keepsMk_eq] | with_reducible apply keepsMk_plain | with_reducible apply keepsMk_out | with_reducible apply keepsMk_poison | with_reducible apply keepsMk_parity_put | with_reducible apply keepsMk_parity_erase | with_reducible apply keepsMk_groups_put | with_reducible apply keepsMk_groups_erase | with_reducible apply keepsMk_latch_insert | with_reducible apply keepsMk_latch_erase | split | dsimp only | refine keeps_of_snd ?_ (by with_reducible assumption))

theorem keeps_cnt {r s : State} (h : Keeps r s) (a1 : Fin 16) (a2 : Nat) (a3 : Nat)  : Keeps r (State.cnt s a1 a2 a3) := by
  unfold State.cnt
  repeat' (first | with_reducible exact h | with_reducible exact Keeps.refl _ | intro _ | with_reducible apply keeps_tput | with_reducible apply keeps_cntSaturated | with_reducible apply keeps_ite | with_reducible apply keeps_foldl | with_reducible apply keeps_foldl_fst | with_reducible apply keeps_foldl_snd | simp only [keepsMk_eq] | with_reducible apply keepsMk_plain | with_reducible apply keepsMk_out | with_reducible apply keepsMk_poison | with_reducible apply keepsMk_parity_put | with_reducible apply keepsMk_parity_erase | with_reducible apply keepsMk_groups_put | with_reducible apply keepsMk_groups_erase | with_reducible apply keepsMk_latch_insert | with_reducible apply keepsMk_latch_erase | split | dsimp only | refine keeps_of_snd ?_ (by with_reducible assumption))

end Sys2Proof.Machine
end

