-- ==== Sys2Proof/Laws/KeepsDram.lean ====
section
/-! SUPPORT. What the operations of Dram keep. -/

set_option linter.unusedSimpArgs false
set_option linter.unusedVariables false
set_option linter.unusedTactic false
set_option linter.unreachableTactic false
set_option Elab.async false

namespace Sys2Proof.Machine
open Sys2Proof

theorem keeps_poisonWord {r s : State} (h : Keeps r s) (a1 : Fin 16) (a2 : Nat)  : Keeps r (State.poisonWord s a1 a2) := by
  unfold State.poisonWord
  repeat' (first | with_reducible exact h | with_reducible exact Keeps.refl _ | intro _ | with_reducible apply keeps_incSat | with_reducible apply keeps_cw | with_reducible apply keeps_cirq | with_reducible apply keeps_ite | with_reducible apply keeps_foldl | with_reducible apply keeps_foldl_fst | with_reducible apply keeps_foldl_snd | simp only [keepsMk_eq] | with_reducible apply keepsMk_plain | with_reducible apply keepsMk_out | with_reducible apply keepsMk_poison | with_reducible apply keepsMk_parity_put | with_reducible apply keepsMk_parity_erase | with_reducible apply keepsMk_groups_put | with_reducible apply keepsMk_groups_erase | with_reducible apply keepsMk_latch_insert | with_reducible apply keepsMk_latch_erase | split | dsimp only | refine keeps_of_snd ?_ (by with_reducible assumption))

end Sys2Proof.Machine
end

