-- ==== Sys2Proof/Laws/KeepsFrontOps.lean ====
section
/-! SUPPORT. What the operations of FrontOps keep. -/

set_option linter.unusedSimpArgs false
set_option linter.unusedVariables false
set_option linter.unusedTactic false
set_option linter.unreachableTactic false
set_option Elab.async false

namespace Sys2Proof.Machine
open Sys2Proof

theorem keeps_modFront {r s : State} (h : Keeps r s) (a1 : Sys2Proof.Machine.Front → Sys2Proof.Machine.Front)  : Keeps r (State.modFront s a1) := by
  unfold State.modFront
  repeat' (first | with_reducible exact h | with_reducible exact Keeps.refl _ | intro _ | with_reducible apply keeps_ite | with_reducible apply keeps_foldl | with_reducible apply keeps_foldl_fst | with_reducible apply keeps_foldl_snd | simp only [keepsMk_eq] | with_reducible apply keepsMk_plain | with_reducible apply keepsMk_out | with_reducible apply keepsMk_poison | with_reducible apply keepsMk_parity_put | with_reducible apply keepsMk_parity_erase | with_reducible apply keepsMk_groups_put | with_reducible apply keepsMk_groups_erase | with_reducible apply keepsMk_latch_insert | with_reducible apply keepsMk_latch_erase | split | dsimp only | refine keeps_of_snd ?_ (by with_reducible assumption))

theorem keeps_xoStart {r s : State} (h : Keeps r s)   : Keeps r (State.xoStart s) := by
  unfold State.xoStart
  repeat' (first | with_reducible exact h | with_reducible exact Keeps.refl _ | intro _ | with_reducible apply keeps_irq | with_reducible apply keeps_pw | with_reducible apply keeps_ite | with_reducible apply keeps_foldl | with_reducible apply keeps_foldl_fst | with_reducible apply keeps_foldl_snd | simp only [keepsMk_eq] | with_reducible apply keepsMk_plain | with_reducible apply keepsMk_out | with_reducible apply keepsMk_poison | with_reducible apply keepsMk_parity_put | with_reducible apply keepsMk_parity_erase | with_reducible apply keepsMk_groups_put | with_reducible apply keepsMk_groups_erase | with_reducible apply keepsMk_latch_insert | with_reducible apply keepsMk_latch_erase | split | dsimp only | refine keeps_of_snd ?_ (by with_reducible assumption))

theorem keeps_wakeHost {r s : State} (h : Keeps r s)   : Keeps r (State.wakeHost s) := by
  unfold State.wakeHost
  repeat' (first | with_reducible exact h | with_reducible exact Keeps.refl _ | intro _ | with_reducible apply keeps_modFront | with_reducible apply keeps_ite | with_reducible apply keeps_foldl | with_reducible apply keeps_foldl_fst | with_reducible apply keeps_foldl_snd | simp only [keepsMk_eq] | with_reducible apply keepsMk_plain | with_reducible apply keepsMk_out | with_reducible apply keepsMk_poison | with_reducible apply keepsMk_parity_put | with_reducible apply keepsMk_parity_erase | with_reducible apply keepsMk_groups_put | with_reducible apply keepsMk_groups_erase | with_reducible apply keepsMk_latch_insert | with_reducible apply keepsMk_latch_erase | split | dsimp only | refine keeps_of_snd ?_ (by with_reducible assumption))

theorem keeps_startWake {r s : State} (h : Keeps r s) (a1 : Fin 16) (a2 : Nat)  : Keeps r (State.startWake s a1 a2) := by
  unfold State.startWake
  repeat' (first | with_reducible exact h | with_reducible exact Keeps.refl _ | intro _ | with_reducible apply keeps_xoStart | with_reducible apply keeps_irq | with_reducible apply keeps_wrs | with_reducible apply keeps_modCh | with_reducible apply keeps_ite | with_reducible apply keeps_foldl | with_reducible apply keeps_foldl_fst | with_reducible apply keeps_foldl_snd | simp only [keepsMk_eq] | with_reducible apply keepsMk_plain | with_reducible apply keepsMk_out | with_reducible apply keepsMk_poison | with_reducible apply keepsMk_parity_put | with_reducible apply keepsMk_parity_erase | with_reducible apply keepsMk_groups_put | with_reducible apply keepsMk_groups_erase | with_reducible apply keepsMk_latch_insert | with_reducible apply keepsMk_latch_erase | split | dsimp only | refine keeps_of_snd ?_ (by with_reducible assumption))

theorem keeps_putSlot {r s : State} (h : Keeps r s) (a1 : Nat) (a2 : Sys2Proof.Machine.CmdSlot)  : Keeps r (State.putSlot s a1 a2) := by
  unfold State.putSlot
  repeat' (first | with_reducible exact h | with_reducible exact Keeps.refl _ | intro _ | with_reducible apply keeps_modFront | with_reducible apply keeps_ite | with_reducible apply keeps_foldl | with_reducible apply keeps_foldl_fst | with_reducible apply keeps_foldl_snd | simp only [keepsMk_eq] | with_reducible apply keepsMk_plain | with_reducible apply keepsMk_out | with_reducible apply keepsMk_poison | with_reducible apply keepsMk_parity_put | with_reducible apply keepsMk_parity_erase | with_reducible apply keepsMk_groups_put | with_reducible apply keepsMk_groups_erase | with_reducible apply keepsMk_latch_insert | with_reducible apply keepsMk_latch_erase | split | dsimp only | refine keeps_of_snd ?_ (by with_reducible assumption))

theorem keeps_freeSlot {r s : State} (h : Keeps r s) (a1 : Nat)  : Keeps r (State.freeSlot s a1) := by
  unfold State.freeSlot
  repeat' (first | with_reducible exact h | with_reducible exact Keeps.refl _ | intro _ | with_reducible apply keeps_modFront | with_reducible apply keeps_ite | with_reducible apply keeps_foldl | with_reducible apply keeps_foldl_fst | with_reducible apply keeps_foldl_snd | simp only [keepsMk_eq] | with_reducible apply keepsMk_plain | with_reducible apply keepsMk_out | with_reducible apply keepsMk_poison | with_reducible apply keepsMk_parity_put | with_reducible apply keepsMk_parity_erase | with_reducible apply keepsMk_groups_put | with_reducible apply keepsMk_groups_erase | with_reducible apply keepsMk_latch_insert | with_reducible apply keepsMk_latch_erase | split | dsimp only | refine keeps_of_snd ?_ (by with_reducible assumption))

theorem keeps_modSmart {r s : State} (h : Keeps r s) (a1 : Option (Fin 16)) (a2 : Sys2Proof.Machine.Smart → Sys2Proof.Machine.Smart)  : Keeps r (State.modSmart s a1 a2) := by
  unfold State.modSmart
  repeat' (first | with_reducible exact h | with_reducible exact Keeps.refl _ | intro _ | with_reducible apply keeps_modFront | with_reducible apply keeps_ite | with_reducible apply keeps_foldl | with_reducible apply keeps_foldl_fst | with_reducible apply keeps_foldl_snd | simp only [keepsMk_eq] | with_reducible apply keepsMk_plain | with_reducible apply keepsMk_out | with_reducible apply keepsMk_poison | with_reducible apply keepsMk_parity_put | with_reducible apply keepsMk_parity_erase | with_reducible apply keepsMk_groups_put | with_reducible apply keepsMk_groups_erase | with_reducible apply keepsMk_latch_insert | with_reducible apply keepsMk_latch_erase | split | dsimp only | refine keeps_of_snd ?_ (by with_reducible assumption))

theorem keeps_finish {r s : State} (h : Keeps r s) (a1 : Nat) (a2 : Sys2Proof.Machine.Status) (a3 : Nat) (a4 : Nat)  : Keeps r (State.finish s a1 a2 a3 a4) := by
  unfold State.finish
  repeat' (first | with_reducible exact h | with_reducible exact Keeps.refl _ | intro _ | with_reducible apply keeps_freeSlot | with_reducible apply keeps_putSlot | with_reducible apply keeps_modFront | with_reducible apply keeps_modSmart | with_reducible apply keeps_cnt | with_reducible apply keeps_ite | with_reducible apply keeps_foldl | with_reducible apply keeps_foldl_fst | with_reducible apply keeps_foldl_snd | simp only [keepsMk_eq] | with_reducible apply keepsMk_plain | with_reducible apply keepsMk_out | with_reducible apply keepsMk_poison | with_reducible apply keepsMk_parity_put | with_reducible apply keepsMk_parity_erase | with_reducible apply keepsMk_groups_put | with_reducible apply keepsMk_groups_erase | with_reducible apply keepsMk_latch_insert | with_reducible apply keepsMk_latch_erase | split | dsimp only | refine keeps_of_snd ?_ (by with_reducible assumption))

theorem keeps_executing {r s : State} (h : Keeps r s) (a1 : Nat)  : Keeps r (State.executing s a1) := by
  unfold State.executing
  repeat' (first | with_reducible exact h | with_reducible exact Keeps.refl _ | intro _ | with_reducible apply keeps_putSlot | with_reducible apply keeps_ite | with_reducible apply keeps_foldl | with_reducible apply keeps_foldl_fst | with_reducible apply keeps_foldl_snd | simp only [keepsMk_eq] | with_reducible apply keepsMk_plain | with_reducible apply keepsMk_out | with_reducible apply keepsMk_poison | with_reducible apply keepsMk_parity_put | with_reducible apply keepsMk_parity_erase | with_reducible apply keepsMk_groups_put | with_reducible apply keepsMk_groups_erase | with_reducible apply keepsMk_latch_insert | with_reducible apply keepsMk_latch_erase | split | dsimp only | refine keeps_of_snd ?_ (by with_reducible assumption))

theorem keeps_setFeat {r s : State} (h : Keeps r s) (a1 : Nat) (a2 : Nat)  : Keeps r (State.setFeat s a1 a2) := by
  unfold State.setFeat
  repeat' (first | with_reducible exact h | with_reducible exact Keeps.refl _ | intro _ | with_reducible apply keeps_modFront | with_reducible apply keeps_ite | with_reducible apply keeps_foldl | with_reducible apply keeps_foldl_fst | with_reducible apply keeps_foldl_snd | simp only [keepsMk_eq] | with_reducible apply keepsMk_plain | with_reducible apply keepsMk_out | with_reducible apply keepsMk_poison | with_reducible apply keepsMk_parity_put | with_reducible apply keepsMk_parity_erase | with_reducible apply keepsMk_groups_put | with_reducible apply keepsMk_groups_erase | with_reducible apply keepsMk_latch_insert | with_reducible apply keepsMk_latch_erase | split | dsimp only | refine keeps_of_snd ?_ (by with_reducible assumption))

theorem keeps_pumpEvents {r s : State} (h : Keeps r s) (a1 : Nat)  : Keeps r (State.pumpEvents s a1) := by
  induction a1 generalizing s with
  | zero => exact h
  | succ n ih =>
    unfold State.pumpEvents
    split
    · exact ih (keeps_finish (keeps_modFront h _) _ _ _ _)
    · exact h

theorem keeps_event {r s : State} (h : Keeps r s) (a1 : Nat) (a2 : Nat) (a3 : Nat)  : Keeps r (State.event s a1 a2 a3) := by
  unfold State.event
  repeat' (first | with_reducible exact h | with_reducible exact Keeps.refl _ | intro _ | with_reducible apply keeps_modFront | with_reducible apply keeps_pumpEvents | with_reducible apply keeps_ite | with_reducible apply keeps_foldl | with_reducible apply keeps_foldl_fst | with_reducible apply keeps_foldl_snd | simp only [keepsMk_eq] | with_reducible apply keepsMk_plain | with_reducible apply keepsMk_out | with_reducible apply keepsMk_poison | with_reducible apply keepsMk_parity_put | with_reducible apply keepsMk_parity_erase | with_reducible apply keepsMk_groups_put | with_reducible apply keepsMk_groups_erase | with_reducible apply keepsMk_latch_insert | with_reducible apply keepsMk_latch_erase | split | dsimp only | refine keeps_of_snd ?_ (by with_reducible assumption))

theorem keeps_nsChanged {r s : State} (h : Keeps r s) (a1 : Fin 16)  : Keeps r (State.nsChanged s a1) := by
  unfold State.nsChanged
  repeat' (first | with_reducible exact h | with_reducible exact Keeps.refl _ | intro _ | with_reducible apply keeps_event | with_reducible apply keeps_modFront | with_reducible apply keeps_ite | with_reducible apply keeps_foldl | with_reducible apply keeps_foldl_fst | with_reducible apply keeps_foldl_snd | simp only [keepsMk_eq] | with_reducible apply keepsMk_plain | with_reducible apply keepsMk_out | with_reducible apply keepsMk_poison | with_reducible apply keepsMk_parity_put | with_reducible apply keepsMk_parity_erase | with_reducible apply keepsMk_groups_put | with_reducible apply keepsMk_groups_erase | with_reducible apply keepsMk_latch_insert | with_reducible apply keepsMk_latch_erase | split | dsimp only | refine keeps_of_snd ?_ (by with_reducible assumption))

theorem keeps_setCfs {r s : State} (h : Keeps r s)   : Keeps r (State.setCfs s) := by
  unfold State.setCfs
  repeat' (first | with_reducible exact h | with_reducible exact Keeps.refl _ | intro _ | with_reducible apply keeps_event | with_reducible apply keeps_irq | with_reducible apply keeps_modFront | with_reducible apply keeps_ite | with_reducible apply keeps_foldl | with_reducible apply keeps_foldl_fst | with_reducible apply keeps_foldl_snd | simp only [keepsMk_eq] | with_reducible apply keepsMk_plain | with_reducible apply keepsMk_out | with_reducible apply keepsMk_poison | with_reducible apply keepsMk_parity_put | with_reducible apply keepsMk_parity_erase | with_reducible apply keepsMk_groups_put | with_reducible apply keepsMk_groups_erase | with_reducible apply keepsMk_latch_insert | with_reducible apply keepsMk_latch_erase | split | dsimp only | refine keeps_of_snd ?_ (by with_reducible assumption))

theorem keeps_logLost {r s : State} (h : Keeps r s) (a1 : Fin 16) (a2 : Nat) (a3 : Option Nat) (a4 : Nat)  : Keeps r (State.logLost s a1 a2 a3 a4) := by
  unfold State.logLost
  repeat' (first | with_reducible exact h | with_reducible exact Keeps.refl _ | intro _ | with_reducible apply keeps_event | with_reducible apply keeps_cnt | with_reducible apply keeps_modFront | with_reducible apply keeps_ite | with_reducible apply keeps_foldl | with_reducible apply keeps_foldl_fst | with_reducible apply keeps_foldl_snd | simp only [keepsMk_eq] | with_reducible apply keepsMk_plain | with_reducible apply keepsMk_out | with_reducible apply keepsMk_poison | with_reducible apply keepsMk_parity_put | with_reducible apply keepsMk_parity_erase | with_reducible apply keepsMk_groups_put | with_reducible apply keepsMk_groups_erase | with_reducible apply keepsMk_latch_insert | with_reducible apply keepsMk_latch_erase | split | dsimp only | refine keeps_of_snd ?_ (by with_reducible assumption))

theorem keeps_xferErr {r s : State} (h : Keeps r s) (a1 : Nat) (a2 : Nat) (a3 : Nat) (a4 : Nat)  : Keeps r (State.xferErr s a1 a2 a3 a4) := by
  unfold State.xferErr
  repeat' (first | with_reducible exact h | with_reducible exact Keeps.refl _ | intro _ | with_reducible apply keeps_irq | with_reducible apply keeps_wrs | with_reducible apply keeps_ite | with_reducible apply keeps_foldl | with_reducible apply keeps_foldl_fst | with_reducible apply keeps_foldl_snd | simp only [keepsMk_eq] | with_reducible apply keepsMk_plain | with_reducible apply keepsMk_out | with_reducible apply keepsMk_poison | with_reducible apply keepsMk_parity_put | with_reducible apply keepsMk_parity_erase | with_reducible apply keepsMk_groups_put | with_reducible apply keepsMk_groups_erase | with_reducible apply keepsMk_latch_insert | with_reducible apply keepsMk_latch_erase | split | dsimp only | refine keeps_of_snd ?_ (by with_reducible assumption))

theorem keeps_refusePointer {r s : State} (h : Keeps r s) (a1 : Nat) (a2 : Sys2Proof.Machine.CmdSlot)  : Keeps r (State.refusePointer s a1 a2) := by
  unfold State.refusePointer
  repeat' (first | with_reducible exact h | with_reducible exact Keeps.refl _ | intro _ | with_reducible apply keeps_finish | with_reducible apply keeps_xferErr | with_reducible apply keeps_ite | with_reducible apply keeps_foldl | with_reducible apply keeps_foldl_fst | with_reducible apply keeps_foldl_snd | simp only [keepsMk_eq] | with_reducible apply keepsMk_plain | with_reducible apply keepsMk_out | with_reducible apply keepsMk_poison | with_reducible apply keepsMk_parity_put | with_reducible apply keepsMk_parity_erase | with_reducible apply keepsMk_groups_put | with_reducible apply keepsMk_groups_erase | with_reducible apply keepsMk_latch_insert | with_reducible apply keepsMk_latch_erase | split | dsimp only | refine keeps_of_snd ?_ (by with_reducible assumption))

theorem keeps_sendPiece {r s : State} (h : Keeps r s) (a1 : Sys2Proof.Machine.CmdSlot) (a2 : Nat) (a3 : List Sys2Proof.Byte)  : Keeps r (State.sendPiece s a1 a2 a3) := by
  unfold State.sendPiece
  repeat' (first | with_reducible exact h | with_reducible exact Keeps.refl _ | intro _ | with_reducible apply keeps_incSat | with_reducible apply keeps_dramWrite | with_reducible apply keeps_post | with_reducible apply keeps_ite | with_reducible apply keeps_foldl | with_reducible apply keeps_foldl_fst | with_reducible apply keeps_foldl_snd | simp only [keepsMk_eq] | with_reducible apply keepsMk_plain | with_reducible apply keepsMk_out | with_reducible apply keepsMk_poison | with_reducible apply keepsMk_parity_put | with_reducible apply keepsMk_parity_erase | with_reducible apply keepsMk_groups_put | with_reducible apply keepsMk_groups_erase | with_reducible apply keepsMk_latch_insert | with_reducible apply keepsMk_latch_erase | split | dsimp only | refine keeps_of_snd ?_ (by with_reducible assumption))

theorem keeps_sendData {r s : State} (h : Keeps r s) (a1 : Sys2Proof.Machine.CmdSlot) (a2 : Nat) (a3 : List Sys2Proof.Byte)  : Keeps r (State.sendData s a1 a2 a3) := by
  unfold State.sendData
  repeat' (first | with_reducible exact h | with_reducible exact Keeps.refl _ | intro _ | with_reducible apply keeps_sendPiece | with_reducible apply keeps_ite | with_reducible apply keeps_foldl | with_reducible apply keeps_foldl_fst | with_reducible apply keeps_foldl_snd | simp only [keepsMk_eq] | with_reducible apply keepsMk_plain | with_reducible apply keepsMk_out | with_reducible apply keepsMk_poison | with_reducible apply keepsMk_parity_put | with_reducible apply keepsMk_parity_erase | with_reducible apply keepsMk_groups_put | with_reducible apply keepsMk_groups_erase | with_reducible apply keepsMk_latch_insert | with_reducible apply keepsMk_latch_erase | split | dsimp only | refine keeps_of_snd ?_ (by with_reducible assumption))

theorem keeps_finishData {r s : State} (h : Keeps r s) (a1 : Nat) (a2 : Sys2Proof.Machine.CmdSlot) (a3 : List Sys2Proof.Byte) (a4 : Nat)  : Keeps r (State.finishData s a1 a2 a3 a4) := by
  unfold State.finishData
  repeat' (first | with_reducible exact h | with_reducible exact Keeps.refl _ | intro _ | with_reducible apply keeps_finish | with_reducible apply keeps_sendData | with_reducible apply keeps_refusePointer | with_reducible apply keeps_ite | with_reducible apply keeps_foldl | with_reducible apply keeps_foldl_fst | with_reducible apply keeps_foldl_snd | simp only [keepsMk_eq] | with_reducible apply keepsMk_plain | with_reducible apply keepsMk_out | with_reducible apply keepsMk_poison | with_reducible apply keepsMk_parity_put | with_reducible apply keepsMk_parity_erase | with_reducible apply keepsMk_groups_put | with_reducible apply keepsMk_groups_erase | with_reducible apply keepsMk_latch_insert | with_reducible apply keepsMk_latch_erase | split | dsimp only | refine keeps_of_snd ?_ (by with_reducible assumption))

theorem keeps_issueRead {r s : State} (h : Keeps r s) (a1 : Nat) (a2 : Sys2Proof.Machine.ReadReq)  : Keeps r (State.issueRead s a1 a2) := by
  unfold State.issueRead
  repeat' (first | with_reducible exact h | with_reducible exact Keeps.refl _ | intro _ | with_reducible apply keeps_modFront | with_reducible apply keeps_post | with_reducible apply keeps_ite | with_reducible apply keeps_foldl | with_reducible apply keeps_foldl_fst | with_reducible apply keeps_foldl_snd | simp only [keepsMk_eq] | with_reducible apply keepsMk_plain | with_reducible apply keepsMk_out | with_reducible apply keepsMk_poison | with_reducible apply keepsMk_parity_put | with_reducible apply keepsMk_parity_erase | with_reducible apply keepsMk_groups_put | with_reducible apply keepsMk_groups_erase | with_reducible apply keepsMk_latch_insert | with_reducible apply keepsMk_latch_erase | split | dsimp only | refine keeps_of_snd ?_ (by with_reducible assumption))

theorem keeps_pumpReads {r s : State} (h : Keeps r s) (a1 : Nat)  : Keeps r (State.pumpReads s a1) := by
  induction a1 generalizing s with
  | zero => exact h
  | succ n ih =>
    unfold State.pumpReads
    dsimp only
    split
    · exact ih (keeps_issueRead h _ _)
    · exact h

theorem keeps_issueReads {r s : State} (h : Keeps r s)   : Keeps r (State.issueReads s) := by
  unfold State.issueReads
  repeat' (first | with_reducible exact h | with_reducible exact Keeps.refl _ | intro _ | with_reducible apply keeps_pumpReads | with_reducible apply keeps_ite | with_reducible apply keeps_foldl | with_reducible apply keeps_foldl_fst | with_reducible apply keeps_foldl_snd | simp only [keepsMk_eq] | with_reducible apply keepsMk_plain | with_reducible apply keepsMk_out | with_reducible apply keepsMk_poison | with_reducible apply keepsMk_parity_put | with_reducible apply keepsMk_parity_erase | with_reducible apply keepsMk_groups_put | with_reducible apply keepsMk_groups_erase | with_reducible apply keepsMk_latch_insert | with_reducible apply keepsMk_latch_erase | split | dsimp only | refine keeps_of_snd ?_ (by with_reducible assumption))

theorem keeps_dropReads {r s : State} (h : Keeps r s) (a1 : Nat)  : Keeps r (State.dropReads s a1) := by
  unfold State.dropReads
  repeat' (first | with_reducible exact h | with_reducible exact Keeps.refl _ | intro _ | with_reducible apply keeps_modFront | with_reducible apply keeps_ite | with_reducible apply keeps_foldl | with_reducible apply keeps_foldl_fst | with_reducible apply keeps_foldl_snd | simp only [keepsMk_eq] | with_reducible apply keepsMk_plain | with_reducible apply keepsMk_out | with_reducible apply keepsMk_poison | with_reducible apply keepsMk_parity_put | with_reducible apply keepsMk_parity_erase | with_reducible apply keepsMk_groups_put | with_reducible apply keepsMk_groups_erase | with_reducible apply keepsMk_latch_insert | with_reducible apply keepsMk_latch_erase | split | dsimp only | refine keeps_of_snd ?_ (by with_reducible assumption))

end Sys2Proof.Machine
end

