-- ==== Sys2Proof/Laws/KeepsHeaders.lean ====
section
/-! SUPPORT. What the operations of Headers keep. -/

set_option linter.unusedSimpArgs false
set_option linter.unusedVariables false
set_option linter.unusedTactic false
set_option linter.unreachableTactic false
set_option Elab.async false

namespace Sys2Proof.Machine
open Sys2Proof

theorem keeps_wakeFor {r s : State} (h : Keeps r s) (a1 : Nat) (a2 : Nat)  : Keeps r (State.wakeFor s a1 a2) := by
  unfold State.wakeFor
  repeat' (first | with_reducible exact h | with_reducible exact Keeps.refl _ | intro _ | with_reducible apply keeps_startWake | with_reducible apply keeps_ite | with_reducible apply keeps_foldl | with_reducible apply keeps_foldl_fst | with_reducible apply keeps_foldl_snd | simp only [keepsMk_eq] | with_reducible apply keepsMk_plain | with_reducible apply keepsMk_out | with_reducible apply keepsMk_poison | with_reducible apply keepsMk_parity_put | with_reducible apply keepsMk_parity_erase | with_reducible apply keepsMk_groups_put | with_reducible apply keepsMk_groups_erase | with_reducible apply keepsMk_latch_insert | with_reducible apply keepsMk_latch_erase | split | dsimp only | refine keeps_of_snd ?_ (by with_reducible assumption))

theorem keeps_stallAccess {r s : State} (h : Keeps r s) (a1 : Nat) (a2 : Nat) (a3 : Sys2Proof.Machine.Access)  : Keeps r (State.stallAccess s a1 a2 a3) := by
  unfold State.stallAccess
  repeat' (first | with_reducible exact h | with_reducible exact Keeps.refl _ | intro _ | with_reducible apply keeps_wakeFor | with_reducible apply keeps_modFront | with_reducible apply keeps_ite | with_reducible apply keeps_foldl | with_reducible apply keeps_foldl_fst | with_reducible apply keeps_foldl_snd | simp only [keepsMk_eq] | with_reducible apply keepsMk_plain | with_reducible apply keepsMk_out | with_reducible apply keepsMk_poison | with_reducible apply keepsMk_parity_put | with_reducible apply keepsMk_parity_erase | with_reducible apply keepsMk_groups_put | with_reducible apply keepsMk_groups_erase | with_reducible apply keepsMk_latch_insert | with_reducible apply keepsMk_latch_erase | split | dsimp only | refine keeps_of_snd ?_ (by with_reducible assumption))

theorem keeps_unmark {r s : State} (h : Keeps r s) (a1 : Nat) (a2 : Nat) (a3 : Nat) (a4 : Bool)  : Keeps r (State.unmark s a1 a2 a3 a4) := by
  unfold State.unmark
  repeat' (first | with_reducible exact h | with_reducible exact Keeps.refl _ | intro _ | with_reducible apply keeps_ite | with_reducible apply keeps_foldl | with_reducible apply keeps_foldl_fst | with_reducible apply keeps_foldl_snd | simp only [keepsMk_eq] | with_reducible apply keepsMk_plain | with_reducible apply keepsMk_out | with_reducible apply keepsMk_poison | with_reducible apply keepsMk_parity_put | with_reducible apply keepsMk_parity_erase | with_reducible apply keepsMk_groups_put | with_reducible apply keepsMk_groups_erase | with_reducible apply keepsMk_latch_insert | with_reducible apply keepsMk_latch_erase | split | dsimp only | refine keeps_of_snd ?_ (by with_reducible assumption))

theorem keeps_gated {r s : State} (h : Keeps r s) (a1 : Sys2Proof.Src) (a2 : Nat) (a3 : Nat) (a4 : Nat) (a5 : Nat) (a6 : Sys2Proof.Machine.State → Sys2Proof.Machine.State) (h6 : ∀ x, Keeps x (a6 x)) : Keeps r (State.gated s a1 a2 a3 a4 a5 a6) := by
  have k6 : ∀ x y, Keeps x y → Keeps x (a6 y) := fun x y k => k.trans (h6 y)
  unfold State.gated
  repeat' (first | with_reducible exact h | with_reducible exact Keeps.refl _ | exact h6 _ | intro _ | with_reducible apply keeps_unmark | with_reducible apply keeps_stallAccess | with_reducible apply keeps_ite | with_reducible apply keeps_foldl | with_reducible apply keeps_foldl_fst | with_reducible apply keeps_foldl_snd | with_reducible apply k6 | simp only [keepsMk_eq] | with_reducible apply keepsMk_plain | with_reducible apply keepsMk_out | with_reducible apply keepsMk_poison | with_reducible apply keepsMk_parity_put | with_reducible apply keepsMk_parity_erase | with_reducible apply keepsMk_groups_put | with_reducible apply keepsMk_groups_erase | with_reducible apply keepsMk_latch_insert | with_reducible apply keepsMk_latch_erase | split | dsimp only | refine keeps_of_snd ?_ (by with_reducible assumption))

theorem keeps_wrAct {r s : State} (h : Keeps r s) (a1 : Nat) (a2 : Sys2Proof.Machine.Fld) (a3 : Nat)  : Keeps r (State.wrAct s a1 a2 a3) := by
  unfold State.wrAct
  repeat' (first | with_reducible exact h | with_reducible exact Keeps.refl _ | intro _ | with_reducible apply keeps_tput | with_reducible apply keeps_wr | with_reducible apply keeps_ite | with_reducible apply keeps_foldl | with_reducible apply keeps_foldl_fst | with_reducible apply keeps_foldl_snd | simp only [keepsMk_eq] | with_reducible apply keepsMk_plain | with_reducible apply keepsMk_out | with_reducible apply keepsMk_poison | with_reducible apply keepsMk_parity_put | with_reducible apply keepsMk_parity_erase | with_reducible apply keepsMk_groups_put | with_reducible apply keepsMk_groups_erase | with_reducible apply keepsMk_latch_insert | with_reducible apply keepsMk_latch_erase | split | dsimp only | refine keeps_of_snd ?_ (by with_reducible assumption))

theorem keeps_exchange {r s : State} (h : Keeps r s) (a1 : Nat) (a2 : Nat)  : Keeps r (State.exchange s a1 a2) := by
  unfold State.exchange
  repeat' (first | with_reducible exact h | with_reducible exact Keeps.refl _ | intro _ | with_reducible apply keeps_wrFly | with_reducible apply keeps_wrAct | with_reducible apply keeps_tclear | with_reducible apply keeps_tput | with_reducible apply keeps_ite | with_reducible apply keeps_foldl | with_reducible apply keeps_foldl_fst | with_reducible apply keeps_foldl_snd | simp only [keepsMk_eq] | with_reducible apply keepsMk_plain | with_reducible apply keepsMk_out | with_reducible apply keepsMk_poison | with_reducible apply keepsMk_parity_put | with_reducible apply keepsMk_parity_erase | with_reducible apply keepsMk_groups_put | with_reducible apply keepsMk_groups_erase | with_reducible apply keepsMk_latch_insert | with_reducible apply keepsMk_latch_erase | split | dsimp only | refine keeps_of_snd ?_ (by with_reducible assumption))

theorem keeps_swapDone {r s : State} (h : Keeps r s) (a1 : Nat) (a2 : Nat)  : Keeps r (State.swapDone s a1 a2) := by
  unfold State.swapDone
  repeat' (first | with_reducible exact h | with_reducible exact Keeps.refl _ | intro _ | with_reducible apply keeps_exchange | with_reducible apply keeps_wrs | with_reducible apply keeps_incWrap | with_reducible apply keeps_irq | with_reducible apply keeps_pw | with_reducible apply keeps_ite | with_reducible apply keeps_foldl | with_reducible apply keeps_foldl_fst | with_reducible apply keeps_foldl_snd | simp only [keepsMk_eq] | with_reducible apply keepsMk_plain | with_reducible apply keepsMk_out | with_reducible apply keepsMk_poison | with_reducible apply keepsMk_parity_put | with_reducible apply keepsMk_parity_erase | with_reducible apply keepsMk_groups_put | with_reducible apply keepsMk_groups_erase | with_reducible apply keepsMk_latch_insert | with_reducible apply keepsMk_latch_erase | split | dsimp only | refine keeps_of_snd ?_ (by with_reducible assumption))

theorem keeps_swapRefused {r s : State} (h : Keeps r s) (a1 : Nat) (a2 : Nat) (a3 : Nat)  : Keeps r (State.swapRefused s a1 a2 a3) := by
  unfold State.swapRefused
  repeat' (first | with_reducible exact h | with_reducible exact Keeps.refl _ | intro _ | with_reducible apply keeps_incWrap | with_reducible apply keeps_wrs | with_reducible apply keeps_ite | with_reducible apply keeps_foldl | with_reducible apply keeps_foldl_fst | with_reducible apply keeps_foldl_snd | simp only [keepsMk_eq] | with_reducible apply keepsMk_plain | with_reducible apply keepsMk_out | with_reducible apply keepsMk_poison | with_reducible apply keepsMk_parity_put | with_reducible apply keepsMk_parity_erase | with_reducible apply keepsMk_groups_put | with_reducible apply keepsMk_groups_erase | with_reducible apply keepsMk_latch_insert | with_reducible apply keepsMk_latch_erase | split | dsimp only | refine keeps_of_snd ?_ (by with_reducible assumption))

theorem keeps_setReached {r s : State} (h : Keeps r s) (a1 : Nat) (a2 : Nat) (a3 : Bool)  : Keeps r (State.setReached s a1 a2 a3) := by
  unfold State.setReached
  repeat' (first | with_reducible exact h | with_reducible exact Keeps.refl _ | intro _ | with_reducible apply keeps_modCh | with_reducible apply keeps_ite | with_reducible apply keeps_foldl | with_reducible apply keeps_foldl_fst | with_reducible apply keeps_foldl_snd | simp only [keepsMk_eq] | with_reducible apply keepsMk_plain | with_reducible apply keepsMk_out | with_reducible apply keepsMk_poison | with_reducible apply keepsMk_parity_put | with_reducible apply keepsMk_parity_erase | with_reducible apply keepsMk_groups_put | with_reducible apply keepsMk_groups_erase | with_reducible apply keepsMk_latch_insert | with_reducible apply keepsMk_latch_erase | split | dsimp only | refine keeps_of_snd ?_ (by with_reducible assumption))

theorem keeps_evalSwap {r s : State} (h : Keeps r s) (a1 : Nat) (a2 : Nat)  : Keeps r (State.evalSwap s a1 a2) := by
  unfold State.evalSwap
  repeat' (first | with_reducible exact h | with_reducible exact Keeps.refl _ | intro _ | with_reducible apply keeps_irq | with_reducible apply keeps_swapRefused | with_reducible apply keeps_wr | with_reducible apply keeps_swapDone | with_reducible apply keeps_ite | with_reducible apply keeps_foldl | with_reducible apply keeps_foldl_fst | with_reducible apply keeps_foldl_snd | simp only [keepsMk_eq] | with_reducible apply keepsMk_plain | with_reducible apply keepsMk_out | with_reducible apply keepsMk_poison | with_reducible apply keepsMk_parity_put | with_reducible apply keepsMk_parity_erase | with_reducible apply keepsMk_groups_put | with_reducible apply keepsMk_groups_erase | with_reducible apply keepsMk_latch_insert | with_reducible apply keepsMk_latch_erase | split | dsimp only | refine keeps_of_snd ?_ (by with_reducible assumption))

theorem keeps_swapRequest {r s : State} (h : Keeps r s) (a0 : Nat) (a1 : Nat) (a2 : Nat)  : Keeps r (swapRequest a0 a1 a2 s) := by
  unfold swapRequest
  repeat' (first | with_reducible exact h | with_reducible exact Keeps.refl _ | intro _ | with_reducible apply keeps_swapRefused | with_reducible apply keeps_wrs | with_reducible apply keeps_setReached | with_reducible apply keeps_evalSwap | with_reducible apply keeps_ite | with_reducible apply keeps_foldl | with_reducible apply keeps_foldl_fst | with_reducible apply keeps_foldl_snd | simp only [keepsMk_eq] | with_reducible apply keepsMk_plain | with_reducible apply keepsMk_out | with_reducible apply keepsMk_poison | with_reducible apply keepsMk_parity_put | with_reducible apply keepsMk_parity_erase | with_reducible apply keepsMk_groups_put | with_reducible apply keepsMk_groups_erase | with_reducible apply keepsMk_latch_insert | with_reducible apply keepsMk_latch_erase | split | dsimp only | refine keeps_of_snd ?_ (by with_reducible assumption))

theorem keeps_evalGroup {r s : State} (h : Keeps r s) (a1 : Nat)  : Keeps r (State.evalGroup s a1) := by
  unfold State.evalGroup
  repeat' (first | with_reducible exact h | with_reducible exact Keeps.refl _ | intro _ | with_reducible apply keeps_irq | with_reducible apply keeps_swapRefused | with_reducible apply keeps_wr | with_reducible apply keeps_swapDone | with_reducible apply keeps_incWrap | with_reducible apply keeps_wrs | with_reducible apply keeps_ite | with_reducible apply keeps_foldl | with_reducible apply keeps_foldl_fst | with_reducible apply keeps_foldl_snd | simp only [keepsMk_eq] | with_reducible apply keepsMk_plain | with_reducible apply keepsMk_out | with_reducible apply keepsMk_poison | with_reducible apply keepsMk_parity_put | with_reducible apply keepsMk_parity_erase | with_reducible apply keepsMk_groups_put | with_reducible apply keepsMk_groups_erase | with_reducible apply keepsMk_latch_insert | with_reducible apply keepsMk_latch_erase | split | dsimp only | refine keeps_of_snd ?_ (by with_reducible assumption))

theorem keeps_groupSwapRequest {r s : State} (h : Keeps r s) (a0 : Fin 16) (a1 : Nat)  : Keeps r (groupSwapRequest a0 a1 s) := by
  have k : Keeps r { (s.wrs (chRg a0) [(F.HDR_SET_STS_PENDING 0, 1), (F.HDR_SET_STS_WHEN 0, a1),
      (F.HDR_SET_STS_DONE 0, 0), (F.HDR_SET_STS_REFUSED 0, 0)]) with groups := SMap.put s.groups (chRg a0) [] (s.groupMask (chRg a0)) } :=
    keepsMk_groups_put (keeps_wrs h _ _) _ _
  unfold groupSwapRequest
  repeat' (first | with_reducible exact h | with_reducible exact k | with_reducible apply keeps_swapRefused | with_reducible apply keeps_evalGroup | with_reducible apply keeps_setReached | split | dsimp only)

theorem keeps_evalCal {r s : State} (h : Keeps r s) (a1 : Fin 16)  : Keeps r (State.evalCal s a1) := by
  unfold State.evalCal
  repeat' (first | with_reducible exact h | with_reducible exact Keeps.refl _ | intro _ | with_reducible apply keeps_swapDone | with_reducible apply keeps_modCh | with_reducible apply keeps_ite | with_reducible apply keeps_foldl | with_reducible apply keeps_foldl_fst | with_reducible apply keeps_foldl_snd | simp only [keepsMk_eq] | with_reducible apply keepsMk_plain | with_reducible apply keepsMk_out | with_reducible apply keepsMk_poison | with_reducible apply keepsMk_parity_put | with_reducible apply keepsMk_parity_erase | with_reducible apply keepsMk_groups_put | with_reducible apply keepsMk_groups_erase | with_reducible apply keepsMk_latch_insert | with_reducible apply keepsMk_latch_erase | split | dsimp only | refine keeps_of_snd ?_ (by with_reducible assumption))

theorem keeps_endSwap {r s : State} (h : Keeps r s) (a1 : Nat) (a2 : Nat) (a3 : Nat)  : Keeps r (State.endSwap s a1 a2 a3) := by
  unfold State.endSwap
  repeat' (first | with_reducible exact h | with_reducible exact Keeps.refl _ | intro _ | with_reducible apply keeps_swapRefused | with_reducible apply keeps_wr | with_reducible apply keeps_ite | with_reducible apply keeps_foldl | with_reducible apply keeps_foldl_fst | with_reducible apply keeps_foldl_snd | simp only [keepsMk_eq] | with_reducible apply keepsMk_plain | with_reducible apply keepsMk_out | with_reducible apply keepsMk_poison | with_reducible apply keepsMk_parity_put | with_reducible apply keepsMk_parity_erase | with_reducible apply keepsMk_groups_put | with_reducible apply keepsMk_groups_erase | with_reducible apply keepsMk_latch_insert | with_reducible apply keepsMk_latch_erase | split | dsimp only | refine keeps_of_snd ?_ (by with_reducible assumption))

theorem keeps_fetchFirst {r s : State} (h : Keeps r s) (a1 : Nat) (a2 : Nat)  : Keeps r (State.fetchFirst s a1 a2) := by
  unfold State.fetchFirst
  repeat' (first | with_reducible exact h | with_reducible exact Keeps.refl _ | intro _ | with_reducible apply keeps_tpyBoundary | with_reducible apply keeps_ite | with_reducible apply keeps_foldl | with_reducible apply keeps_foldl_fst | with_reducible apply keeps_foldl_snd | simp only [keepsMk_eq] | with_reducible apply keepsMk_plain | with_reducible apply keepsMk_out | with_reducible apply keepsMk_poison | with_reducible apply keepsMk_parity_put | with_reducible apply keepsMk_parity_erase | with_reducible apply keepsMk_groups_put | with_reducible apply keepsMk_groups_erase | with_reducible apply keepsMk_latch_insert | with_reducible apply keepsMk_latch_erase | split | dsimp only | refine keeps_of_snd ?_ (by with_reducible assumption))

theorem keeps_flysheetSwap {r s : State} (h : Keeps r s) (a0 : Nat) (a1 : Nat)  : Keeps r (flysheetSwap a0 a1 s) := by
  unfold flysheetSwap
  repeat' (first | with_reducible exact h | with_reducible exact Keeps.refl _ | intro _ | with_reducible apply keeps_evalCal | with_reducible apply keeps_setReached | with_reducible apply keeps_evalGroup | with_reducible apply keeps_fetchFirst | with_reducible apply keeps_evalSwap | with_reducible apply keeps_ite | with_reducible apply keeps_foldl | with_reducible apply keeps_foldl_fst | with_reducible apply keeps_foldl_snd | simp only [keepsMk_eq] | with_reducible apply keepsMk_plain | with_reducible apply keepsMk_out | with_reducible apply keepsMk_poison | with_reducible apply keepsMk_parity_put | with_reducible apply keepsMk_parity_erase | with_reducible apply keepsMk_groups_put | with_reducible apply keepsMk_groups_erase | with_reducible apply keepsMk_latch_insert | with_reducible apply keepsMk_latch_erase | split | dsimp only | refine keeps_of_snd ?_ (by with_reducible assumption))

theorem keeps_writeFields {r s : State} (h : Keeps r s) (a1 : Nat) (a2 : List Sys2Proof.Machine.Fld) (a3 : Bool) (a4 : Nat)  : Keeps r (State.writeFields s a1 a2 a3 a4) := by
  unfold State.writeFields
  repeat' (first | with_reducible exact h | with_reducible exact Keeps.refl _ | intro _ | with_reducible apply keeps_wrFly | with_reducible apply keeps_wrLegal | with_reducible apply keeps_wr | with_reducible apply keeps_ite | with_reducible apply keeps_foldl | with_reducible apply keeps_foldl_fst | with_reducible apply keeps_foldl_snd | simp only [keepsMk_eq] | with_reducible apply keepsMk_plain | with_reducible apply keepsMk_out | with_reducible apply keepsMk_poison | with_reducible apply keepsMk_parity_put | with_reducible apply keepsMk_parity_erase | with_reducible apply keepsMk_groups_put | with_reducible apply keepsMk_groups_erase | with_reducible apply keepsMk_latch_insert | with_reducible apply keepsMk_latch_erase | split | dsimp only | refine keeps_of_snd ?_ (by with_reducible assumption))

theorem keeps_flyWrite {r s : State} (h : Keeps r s) (a1 : Nat) (a2 : Nat) (a3 : Nat) (a4 : Nat)  : Keeps r (State.flyWrite s a1 a2 a3 a4) := by
  unfold State.flyWrite
  repeat' (first | with_reducible exact h | with_reducible exact Keeps.refl _ | intro _ | with_reducible apply keeps_writeFields | with_reducible apply keeps_ite | with_reducible apply keeps_foldl | with_reducible apply keeps_foldl_fst | with_reducible apply keeps_foldl_snd | simp only [keepsMk_eq] | with_reducible apply keepsMk_plain | with_reducible apply keepsMk_out | with_reducible apply keepsMk_poison | with_reducible apply keepsMk_parity_put | with_reducible apply keepsMk_parity_erase | with_reducible apply keepsMk_groups_put | with_reducible apply keepsMk_groups_erase | with_reducible apply keepsMk_latch_insert | with_reducible apply keepsMk_latch_erase | split | dsimp only | refine keeps_of_snd ?_ (by with_reducible assumption))

theorem keeps_flysheetReloadDone {r s : State} (h : Keeps r s) (a0 : Nat) (a1 : Nat)  : Keeps r (flysheetReloadDone a0 a1 s) := by
  unfold flysheetReloadDone
  repeat' (first | with_reducible exact h | with_reducible exact Keeps.refl _ | intro _ | with_reducible apply keeps_wrFly | with_reducible apply keeps_wr | with_reducible apply keeps_tput | with_reducible apply keeps_pw | with_reducible apply keeps_tclear | with_reducible apply keeps_writeFields | with_reducible apply keeps_ite | with_reducible apply keeps_foldl | with_reducible apply keeps_foldl_fst | with_reducible apply keeps_foldl_snd | simp only [keepsMk_eq] | with_reducible apply keepsMk_plain | with_reducible apply keepsMk_out | with_reducible apply keepsMk_poison | with_reducible apply keepsMk_parity_put | with_reducible apply keepsMk_parity_erase | with_reducible apply keepsMk_groups_put | with_reducible apply keepsMk_groups_erase | with_reducible apply keepsMk_latch_insert | with_reducible apply keepsMk_latch_erase | split | dsimp only | refine keeps_of_snd ?_ (by with_reducible assumption))

theorem keeps_irqStatusClear {r s : State} (h : Keeps r s) (a0 : Nat) (a1 : Nat) (a2 : Nat)  : Keeps r (irqStatusClear a0 a1 a2 s) := by
  unfold irqStatusClear
  repeat' (first | with_reducible exact h | with_reducible exact Keeps.refl _ | intro _ | with_reducible apply keeps_wr | with_reducible apply keeps_msix | with_reducible apply keeps_ite | with_reducible apply keeps_foldl | with_reducible apply keeps_foldl_fst | with_reducible apply keeps_foldl_snd | simp only [keepsMk_eq] | with_reducible apply keepsMk_plain | with_reducible apply keepsMk_out | with_reducible apply keepsMk_poison | with_reducible apply keepsMk_parity_put | with_reducible apply keepsMk_parity_erase | with_reducible apply keepsMk_groups_put | with_reducible apply keepsMk_groups_erase | with_reducible apply keepsMk_latch_insert | with_reducible apply keepsMk_latch_erase | split | dsimp only | refine keeps_of_snd ?_ (by with_reducible assumption))

theorem keeps_gatedIrq {r s : State} (h : Keeps r s) (a1 : Sys2Proof.Src) (a2 : Nat) (a3 : Nat) (a4 : Nat) (a5 : Nat) (a6 : Sys2Proof.Machine.State → Sys2Proof.Machine.State) (h6 : ∀ x, Keeps x (a6 x)) : Keeps r (State.gatedIrq s a1 a2 a3 a4 a5 a6) := by
  have k6 : ∀ x y, Keeps x y → Keeps x (a6 y) := fun x y k => k.trans (h6 y)
  unfold State.gatedIrq
  repeat' (first | with_reducible exact h | with_reducible exact Keeps.refl _ | exact h6 _ | intro _ | with_reducible apply keeps_unmark | with_reducible apply keeps_gated | with_reducible apply keeps_ite | with_reducible apply keeps_foldl | with_reducible apply keeps_foldl_fst | with_reducible apply keeps_foldl_snd | with_reducible apply k6 | simp only [keepsMk_eq] | with_reducible apply keepsMk_plain | with_reducible apply keepsMk_out | with_reducible apply keepsMk_poison | with_reducible apply keepsMk_parity_put | with_reducible apply keepsMk_parity_erase | with_reducible apply keepsMk_groups_put | with_reducible apply keepsMk_groups_erase | with_reducible apply keepsMk_latch_insert | with_reducible apply keepsMk_latch_erase | split | dsimp only | refine keeps_of_snd ?_ (by with_reducible assumption))

theorem keeps_irqTest {r s : State} (h : Keeps r s) (a0 : Nat) (a1 : Nat) (a2 : Nat)  : Keeps r (irqTest a0 a1 a2 s) := by
  unfold irqTest
  repeat' (first | with_reducible exact h | with_reducible exact Keeps.refl _ | intro _ | with_reducible apply keeps_setIrqRaw | with_reducible apply keeps_ite | with_reducible apply keeps_foldl | with_reducible apply keeps_foldl_fst | with_reducible apply keeps_foldl_snd | simp only [keepsMk_eq] | with_reducible apply keepsMk_plain | with_reducible apply keepsMk_out | with_reducible apply keepsMk_poison | with_reducible apply keepsMk_parity_put | with_reducible apply keepsMk_parity_erase | with_reducible apply keepsMk_groups_put | with_reducible apply keepsMk_groups_erase | with_reducible apply keepsMk_latch_insert | with_reducible apply keepsMk_latch_erase | split | dsimp only | refine keeps_of_snd ?_ (by with_reducible assumption))

end Sys2Proof.Machine
end

