-- ==== Sys2Proof/Laws/KeepsFirmware.lean ====
section
/-! SUPPORT. What the operations of Firmware keep. -/

set_option linter.unusedSimpArgs false
set_option linter.unusedVariables false
set_option linter.unusedTactic false
set_option linter.unreachableTactic false
set_option Elab.async false

namespace Sys2Proof.Machine
open Sys2Proof

theorem keeps_modSec {r s : State} (h : Keeps r s) (a1 : Sys2Proof.Machine.Security → Sys2Proof.Machine.Security)  : Keeps r (State.modSec s a1) := by
  unfold State.modSec
  repeat' (first | with_reducible exact h | with_reducible exact Keeps.refl _ | intro _ | with_reducible apply keeps_ite | with_reducible apply keeps_foldl | with_reducible apply keeps_foldl_fst | with_reducible apply keeps_foldl_snd | simp only [keepsMk_eq] | with_reducible apply keepsMk_plain | with_reducible apply keepsMk_out | with_reducible apply keepsMk_poison | with_reducible apply keepsMk_parity_put | with_reducible apply keepsMk_parity_erase | with_reducible apply keepsMk_groups_put | with_reducible apply keepsMk_groups_erase | with_reducible apply keepsMk_latch_insert | with_reducible apply keepsMk_latch_erase | split | dsimp only | refine keeps_of_snd ?_ (by with_reducible assumption))

theorem keeps_flashPut {r s : State} (h : Keeps r s) (a1 : Nat) (a2 : List Sys2Proof.Byte)  : Keeps r (State.flashPut s a1 a2) := by
  unfold State.flashPut
  repeat' (first | with_reducible exact h | with_reducible exact Keeps.refl _ | intro _ | with_reducible apply keeps_modSec | with_reducible apply keeps_ite | with_reducible apply keeps_foldl | with_reducible apply keeps_foldl_fst | with_reducible apply keeps_foldl_snd | simp only [keepsMk_eq] | with_reducible apply keepsMk_plain | with_reducible apply keepsMk_out | with_reducible apply keepsMk_poison | with_reducible apply keepsMk_parity_put | with_reducible apply keepsMk_parity_erase | with_reducible apply keepsMk_groups_put | with_reducible apply keepsMk_groups_erase | with_reducible apply keepsMk_latch_insert | with_reducible apply keepsMk_latch_erase | split | dsimp only | refine keeps_of_snd ?_ (by with_reducible assumption))

theorem keeps_flashErase {r s : State} (h : Keeps r s) (a1 : Nat) (a2 : Nat)  : Keeps r (State.flashErase s a1 a2) := by
  unfold State.flashErase
  repeat' (first | with_reducible exact h | with_reducible exact Keeps.refl _ | intro _ | with_reducible apply keeps_flashPut | with_reducible apply keeps_ite | with_reducible apply keeps_foldl | with_reducible apply keeps_foldl_fst | with_reducible apply keeps_foldl_snd | simp only [keepsMk_eq] | with_reducible apply keepsMk_plain | with_reducible apply keepsMk_out | with_reducible apply keepsMk_poison | with_reducible apply keepsMk_parity_put | with_reducible apply keepsMk_parity_erase | with_reducible apply keepsMk_groups_put | with_reducible apply keepsMk_groups_erase | with_reducible apply keepsMk_latch_insert | with_reducible apply keepsMk_latch_erase | split | dsimp only | refine keeps_of_snd ?_ (by with_reducible assumption))

theorem keeps_showTable {r s : State} (h : Keeps r s) (a1 : Sys2Proof.Machine.SlotTable)  : Keeps r (State.showTable s a1) := by
  unfold State.showTable
  repeat' (first | with_reducible exact h | with_reducible exact Keeps.refl _ | intro _ | with_reducible apply keeps_wrs | with_reducible apply keeps_ite | with_reducible apply keeps_foldl | with_reducible apply keeps_foldl_fst | with_reducible apply keeps_foldl_snd | simp only [keepsMk_eq] | with_reducible apply keepsMk_plain | with_reducible apply keepsMk_out | with_reducible apply keepsMk_poison | with_reducible apply keepsMk_parity_put | with_reducible apply keepsMk_parity_erase | with_reducible apply keepsMk_groups_put | with_reducible apply keepsMk_groups_erase | with_reducible apply keepsMk_latch_insert | with_reducible apply keepsMk_latch_erase | split | dsimp only | refine keeps_of_snd ?_ (by with_reducible assumption))

theorem keeps_putTable {r s : State} (h : Keeps r s) (a1 : Sys2Proof.Machine.SlotTable)  : Keeps r (State.putTable s a1) := by
  unfold State.putTable
  repeat' (first | with_reducible exact h | with_reducible exact Keeps.refl _ | intro _ | with_reducible apply keeps_showTable | with_reducible apply keeps_flashPut | with_reducible apply keeps_ite | with_reducible apply keeps_foldl | with_reducible apply keeps_foldl_fst | with_reducible apply keeps_foldl_snd | simp only [keepsMk_eq] | with_reducible apply keepsMk_plain | with_reducible apply keepsMk_out | with_reducible apply keepsMk_poison | with_reducible apply keepsMk_parity_put | with_reducible apply keepsMk_parity_erase | with_reducible apply keepsMk_groups_put | with_reducible apply keepsMk_groups_erase | with_reducible apply keepsMk_latch_insert | with_reducible apply keepsMk_latch_erase | split | dsimp only | refine keeps_of_snd ?_ (by with_reducible assumption))

theorem keeps_verifySlot {r s : State} (h : Keeps r s) (a1 : Nat)  : Keeps r (State.verifySlot s a1).2 := by
  unfold State.verifySlot
  repeat' (first | with_reducible exact h | with_reducible exact Keeps.refl _ | intro _ | with_reducible apply keeps_draw | with_reducible apply keeps_pw | with_reducible apply keeps_wrs | with_reducible apply keeps_irq | with_reducible apply keeps_ite | with_reducible apply keeps_foldl | with_reducible apply keeps_foldl_fst | with_reducible apply keeps_foldl_snd | simp only [keepsMk_eq] | with_reducible apply keepsMk_plain | with_reducible apply keepsMk_out | with_reducible apply keepsMk_poison | with_reducible apply keepsMk_parity_put | with_reducible apply keepsMk_parity_erase | with_reducible apply keepsMk_groups_put | with_reducible apply keepsMk_groups_erase | with_reducible apply keepsMk_latch_insert | with_reducible apply keepsMk_latch_erase | split | dsimp only | refine keeps_of_snd ?_ (by with_reducible assumption))

theorem keeps_runBundle {r s : State} (h : Keeps r s) (a1 : Nat) (a2 : Sys2Proof.Machine.Bundle)  : Keeps r (State.runBundle s a1 a2) := by
  unfold State.runBundle
  repeat' (first | with_reducible exact h | with_reducible exact Keeps.refl _ | intro _ | with_reducible apply keeps_modSec | with_reducible apply keeps_wrs | with_reducible apply keeps_ite | with_reducible apply keeps_foldl | with_reducible apply keeps_foldl_fst | with_reducible apply keeps_foldl_snd | simp only [keepsMk_eq] | with_reducible apply keepsMk_plain | with_reducible apply keepsMk_out | with_reducible apply keepsMk_poison | with_reducible apply keepsMk_parity_put | with_reducible apply keepsMk_parity_erase | with_reducible apply keepsMk_groups_put | with_reducible apply keepsMk_groups_erase | with_reducible apply keepsMk_latch_insert | with_reducible apply keepsMk_latch_erase | split | dsimp only | refine keeps_of_snd ?_ (by with_reducible assumption))

theorem keeps_trialCleared {r s : State} (h : Keeps r s)   : Keeps r (State.trialCleared s) := by
  unfold State.trialCleared
  repeat' (first | with_reducible exact h | with_reducible exact Keeps.refl _ | intro _ | with_reducible apply keeps_putTable | with_reducible apply keeps_pw | with_reducible apply keeps_modSec | with_reducible apply keeps_ite | with_reducible apply keeps_foldl | with_reducible apply keeps_foldl_fst | with_reducible apply keeps_foldl_snd | simp only [keepsMk_eq] | with_reducible apply keepsMk_plain | with_reducible apply keepsMk_out | with_reducible apply keepsMk_poison | with_reducible apply keepsMk_parity_put | with_reducible apply keepsMk_parity_erase | with_reducible apply keepsMk_groups_put | with_reducible apply keepsMk_groups_erase | with_reducible apply keepsMk_latch_insert | with_reducible apply keepsMk_latch_erase | split | dsimp only | refine keeps_of_snd ?_ (by with_reducible assumption))

theorem keeps_bootTry {r s : State} (h : Keeps r s) (a0 : List Nat) (a1 : List Nat)  : Keeps r (bootTry a0 a1 s).2 := by
  induction a0 generalizing s a1 with
  | nil => exact h
  | cons x l ih =>
    unfold bootTry
    dsimp only
    split
    · exact ih h _
    · split
      · dsimp only
        with_reducible exact keeps_verifySlot h _
      · exact ih (keeps_pw (keeps_verifySlot h _) _ _) _

theorem keeps_bootVerify {r s : State} (h : Keeps r s)   : Keeps r (bootVerify s) := by
  unfold bootVerify
  repeat' (first | with_reducible exact h | with_reducible exact Keeps.refl _ | intro _ | with_reducible apply keeps_pw | with_reducible apply keeps_showTable | with_reducible apply keeps_modFront | with_reducible apply keeps_bootTry | with_reducible apply keeps_setCfs | with_reducible apply keeps_putTable | with_reducible apply keeps_runBundle | with_reducible apply keeps_modSec | with_reducible apply keeps_irq | with_reducible apply keeps_ite | with_reducible apply keeps_foldl | with_reducible apply keeps_foldl_fst | with_reducible apply keeps_foldl_snd | simp only [keepsMk_eq] | with_reducible apply keepsMk_plain | with_reducible apply keepsMk_out | with_reducible apply keepsMk_poison | with_reducible apply keepsMk_parity_put | with_reducible apply keepsMk_parity_erase | with_reducible apply keepsMk_groups_put | with_reducible apply keepsMk_groups_erase | with_reducible apply keepsMk_latch_insert | with_reducible apply keepsMk_latch_erase | split | dsimp only | refine keeps_of_snd ?_ (by with_reducible assumption))

theorem keeps_firmwareDownload {r s : State} (h : Keeps r s) (a1 : Nat) (a2 : Sys2Proof.Machine.CmdSlot) (a3 : List Sys2Proof.Byte)  : Keeps r (firmwareDownload s a1 a2 a3) := by
  unfold firmwareDownload
  repeat' (first | with_reducible exact h | with_reducible exact Keeps.refl _ | intro _ | with_reducible apply keeps_wrs | with_reducible apply keeps_modSec | with_reducible apply keeps_flashErase | with_reducible apply keeps_refusePointer | with_reducible apply keeps_finish | with_reducible apply keeps_flashPut | with_reducible apply keeps_ite | with_reducible apply keeps_foldl | with_reducible apply keeps_foldl_fst | with_reducible apply keeps_foldl_snd | simp only [keepsMk_eq] | with_reducible apply keepsMk_plain | with_reducible apply keepsMk_out | with_reducible apply keepsMk_poison | with_reducible apply keepsMk_parity_put | with_reducible apply keepsMk_parity_erase | with_reducible apply keepsMk_groups_put | with_reducible apply keepsMk_groups_erase | with_reducible apply keepsMk_latch_insert | with_reducible apply keepsMk_latch_erase | split | dsimp only | refine keeps_of_snd ?_ (by with_reducible assumption))

theorem keeps_replaceSlot {r s : State} (h : Keeps r s) (a1 : Nat)  : Keeps r (State.replaceSlot s a1).2 := by
  unfold State.replaceSlot
  repeat' (first | with_reducible exact h | with_reducible exact Keeps.refl _ | intro _ | with_reducible apply keeps_draw | with_reducible apply keeps_pw | with_reducible apply keeps_irq | with_reducible apply keeps_flashPut | with_reducible apply keeps_flashErase | with_reducible apply keeps_verifySlot | with_reducible apply keeps_ite | with_reducible apply keeps_foldl | with_reducible apply keeps_foldl_fst | with_reducible apply keeps_foldl_snd | simp only [keepsMk_eq] | with_reducible apply keepsMk_plain | with_reducible apply keepsMk_out | with_reducible apply keepsMk_poison | with_reducible apply keepsMk_parity_put | with_reducible apply keepsMk_parity_erase | with_reducible apply keepsMk_groups_put | with_reducible apply keepsMk_groups_erase | with_reducible apply keepsMk_latch_insert | with_reducible apply keepsMk_latch_erase | split | dsimp only | refine keeps_of_snd ?_ (by with_reducible assumption))

theorem keeps_commitDone {r s : State} (h : Keeps r s) (a1 : Nat) (a2 : Sys2Proof.Machine.Status)  : Keeps r (State.commitDone s a1 a2) := by
  unfold State.commitDone
  repeat' (first | with_reducible exact h | with_reducible exact Keeps.refl _ | intro _ | with_reducible apply keeps_finish | with_reducible apply keeps_irq | with_reducible apply keeps_modSec | with_reducible apply keeps_ite | with_reducible apply keeps_foldl | with_reducible apply keeps_foldl_fst | with_reducible apply keeps_foldl_snd | simp only [keepsMk_eq] | with_reducible apply keepsMk_plain | with_reducible apply keepsMk_out | with_reducible apply keepsMk_poison | with_reducible apply keepsMk_parity_put | with_reducible apply keepsMk_parity_erase | with_reducible apply keepsMk_groups_put | with_reducible apply keepsMk_groups_erase | with_reducible apply keepsMk_latch_insert | with_reducible apply keepsMk_latch_erase | split | dsimp only | refine keeps_of_snd ?_ (by with_reducible assumption))

theorem keeps_commitReplace {r s : State} (h : Keeps r s) (a1 : Nat) (a2 : Sys2Proof.Machine.CmdSlot) (a3 : Bool)  : Keeps r (commitReplace s a1 a2 a3) := by
  unfold commitReplace
  have k := keeps_replaceSlot h (s.commitSlot a2)
  extract_lets i q
  have k' : Keeps r q.2 := k
  clear_value q
  exact keeps_ite (keeps_commitDone h _ _) (keeps_ite (keeps_commitDone h _ _) (keeps_ite (keeps_commitDone k' _ _)
    (keeps_ite (keeps_commitDone (keeps_modSec (keeps_putTable k' _) _) _ _) (keeps_commitDone k' _ _))))

theorem keeps_commitAtReset {r s : State} (h : Keeps r s) (a1 : Nat) (a2 : Sys2Proof.Machine.CmdSlot)  : Keeps r (commitAtReset s a1 a2) := by
  unfold commitAtReset
  repeat' (first | with_reducible exact h | with_reducible exact Keeps.refl _ | intro _ | with_reducible apply keeps_commitDone | with_reducible apply keeps_verifySlot | with_reducible apply keeps_modSec | with_reducible apply keeps_putTable | with_reducible apply keeps_ite | with_reducible apply keeps_foldl | with_reducible apply keeps_foldl_fst | with_reducible apply keeps_foldl_snd | simp only [keepsMk_eq] | with_reducible apply keepsMk_plain | with_reducible apply keepsMk_out | with_reducible apply keepsMk_poison | with_reducible apply keepsMk_parity_put | with_reducible apply keepsMk_parity_erase | with_reducible apply keepsMk_groups_put | with_reducible apply keepsMk_groups_erase | with_reducible apply keepsMk_latch_insert | with_reducible apply keepsMk_latch_erase | split | dsimp only | refine keeps_of_snd ?_ (by with_reducible assumption))

end Sys2Proof.Machine
end

