-- ==== Sys2Proof/Laws/KeepsTransform.lean ====
section
/-! SUPPORT. What the operations of Transform keep. -/

set_option linter.unusedSimpArgs false
set_option linter.unusedVariables false
set_option linter.unusedTactic false
set_option linter.unreachableTactic false
set_option Elab.async false

namespace Sys2Proof.Machine
open Sys2Proof

theorem keeps_endTransform {r s : State} (h : Keeps r s) (a1 : Fin 16) (a2 : Nat) (a3 : Sys2Proof.Machine.CmdSlot) (a4 : Sys2Proof.Machine.Status) (a5 : Nat) (a6 : List Sys2Proof.Byte) (a7 : Option Sys2Proof.Machine.Transform)  : Keeps r (State.endTransform s a1 a2 a3 a4 a5 a6 a7) := by
  unfold State.endTransform
  repeat' (first | with_reducible exact h | with_reducible exact Keeps.refl _ | intro _ | with_reducible apply keeps_sendData | with_reducible apply keeps_modCh | with_reducible apply keeps_finish | with_reducible apply keeps_incWrap | with_reducible apply keeps_ite | with_reducible apply keeps_foldl | with_reducible apply keeps_foldl_fst | with_reducible apply keeps_foldl_snd | simp only [keepsMk_eq] | with_reducible apply keepsMk_plain | with_reducible apply keepsMk_out | with_reducible apply keepsMk_poison | with_reducible apply keepsMk_parity_put | with_reducible apply keepsMk_parity_erase | with_reducible apply keepsMk_groups_put | with_reducible apply keepsMk_groups_erase | with_reducible apply keepsMk_latch_insert | with_reducible apply keepsMk_latch_erase | split | dsimp only | refine keeps_of_snd ?_ (by with_reducible assumption))

theorem keeps_runTransform {r s : State} (h : Keeps r s) (a1 : Fin 16) (a2 : Nat) (a3 : Sys2Proof.Machine.CmdSlot) (a4 : Sys2Proof.Machine.Transform) (a5 : List Sys2Proof.Byte)  : Keeps r (State.runTransform s a1 a2 a3 a4 a5) := by
  unfold State.runTransform
  repeat' (first | with_reducible exact h | with_reducible exact Keeps.refl _ | intro _ | with_reducible apply keeps_cirq | with_reducible apply keeps_incSat | with_reducible apply keeps_endTransform | with_reducible apply keeps_ite | with_reducible apply keeps_foldl | with_reducible apply keeps_foldl_fst | with_reducible apply keeps_foldl_snd | simp only [keepsMk_eq] | with_reducible apply keepsMk_plain | with_reducible apply keepsMk_out | with_reducible apply keepsMk_poison | with_reducible apply keepsMk_parity_put | with_reducible apply keepsMk_parity_erase | with_reducible apply keepsMk_groups_put | with_reducible apply keepsMk_groups_erase | with_reducible apply keepsMk_latch_insert | with_reducible apply keepsMk_latch_erase | split | dsimp only | refine keeps_of_snd ?_ (by with_reducible assumption))

theorem keeps_transformCommand {r s : State} (h : Keeps r s) (a0 : Nat) (a1 : Bool) (a2 : Bool) (a3 : List Sys2Proof.Byte)  : Keeps r (transformCommand a0 a1 a2 a3 s) := by
  unfold transformCommand
  repeat' (first | with_reducible exact h | with_reducible exact Keeps.refl _ | intro _ | with_reducible apply keeps_finish | with_reducible apply keeps_refusePointer | with_reducible apply keeps_xferErr | with_reducible apply keeps_wrs | with_reducible apply keeps_runTransform | with_reducible apply keeps_ite | with_reducible apply keeps_foldl | with_reducible apply keeps_foldl_fst | with_reducible apply keeps_foldl_snd | simp only [keepsMk_eq] | with_reducible apply keepsMk_plain | with_reducible apply keepsMk_out | with_reducible apply keepsMk_poison | with_reducible apply keepsMk_parity_put | with_reducible apply keepsMk_parity_erase | with_reducible apply keepsMk_groups_put | with_reducible apply keepsMk_groups_erase | with_reducible apply keepsMk_latch_insert | with_reducible apply keepsMk_latch_erase | split | dsimp only | refine keeps_of_snd ?_ (by with_reducible assumption))

theorem keeps_xtsSelftest {r s : State} (h : Keeps r s) (a0 : Fin 16)  : Keeps r (xtsSelftest a0 s) := by
  unfold xtsSelftest
  repeat' (first | with_reducible exact h | with_reducible exact Keeps.refl _ | intro _ | with_reducible apply keeps_errOpen | with_reducible apply keeps_wrs | with_reducible apply keeps_ite | with_reducible apply keeps_foldl | with_reducible apply keeps_foldl_fst | with_reducible apply keeps_foldl_snd | simp only [keepsMk_eq] | with_reducible apply keepsMk_plain | with_reducible apply keepsMk_out | with_reducible apply keepsMk_poison | with_reducible apply keepsMk_parity_put | with_reducible apply keepsMk_parity_erase | with_reducible apply keepsMk_groups_put | with_reducible apply keepsMk_groups_erase | with_reducible apply keepsMk_latch_insert | with_reducible apply keepsMk_latch_erase | split | dsimp only | refine keeps_of_snd ?_ (by with_reducible assumption))

end Sys2Proof.Machine
end

