-- ==== Sys2Proof/Machine/Balls.lean ====
section
/-! DEFINITION. What the package's outputs carry: the states of Table 17-10, the actuator voltages, the slew groups and where a channel's
balls lie (R481, R488, R492, R494). Views of the state; no command reads them. -/

namespace Sys2Proof.Machine
open Sys2Proof

/-- What drives an output. -/
inductive Drive where
  /-- nothing: the board's pull decides -/
  | highZ
  | low
  | high
  /-- a laser gate pair that is not driven: 0 V differential -/
  | undriven
  /-- LGP below LGN -/
  | peakOff
  /-- the levels of self-refresh, held by the retention latches -/
  | selfRefresh
  /-- 0.600 V -/
  | midscale
  /-- the block that owns the ball drives it -/
  | driven
  deriving DecidableEq, Repr

/-- The outputs of a channel (Table 17-10). -/
inductive ChanBalls where
  | motor | killLine | gatePair | laserClock | laserSelect | actuator | safe | dram
  deriving DecidableEq, Repr

/-- The outputs of the port die (Table 17-10). -/
inductive PortBalls where
  | qspi | gpio (pin : Fin 16) | fan
  deriving DecidableEq, Repr

/-- The state of a channel's output (R494). A channel whose port die is in PORST#, then one without power, then one in Bivouac. -/
def State.chanBall (s : State) (c : Fin 16) (b : ChanBalls) : Drive :=
  let biv := (s.ch c).st == .bivouac
  if s.plat.porst then
    match b with
    | .gatePair => .undriven
    | .safe => .low
    | .motor | .killLine | .laserClock | .laserSelect | .actuator | .dram => .highZ
  else if b = .safe then (if s.cr c F.CHN_STS_SAFE = 1 then .high else .low)
  else if !(s.ch c).powered then
    match b with
    | .motor | .safe => .low
    | .gatePair => .undriven
    | .dram => .selfRefresh
    | .killLine | .laserClock | .laserSelect | .actuator => .highZ
  else if biv then
    match b with
    | .motor | .killLine | .laserClock | .safe => .low
    | .gatePair => .peakOff
    | .laserSelect => .high
    | .actuator => .midscale
    | .dram => .selfRefresh
  else match b with
    | .killLine => if s.cr c F.LDI_STS_KILL_PIN = 1 then .low else .high
    | .motor | .gatePair | .laserClock | .laserSelect | .actuator | .dram | .safe => .driven

/-- The state of an output of the port die (R477, R494). -/
def State.portBall (s : State) (b : PortBalls) : Drive :=
  match b with
  | .qspi | .fan => if s.plat.porst then .highZ else .driven
  | .gpio pin => if !s.gpioDrives pin.val then .highZ else if bitAt (s.pr F.GPIO_OUT) pin.val then .high else .low

/-- The voltage of an actuator output whose code is `code`, in units of 1/327,680 V: 0.600 V + 0.500 V × code / 32,768 (R488). -/
def actuatorVolts (code : Int) : Int := 196608 + 5 * code

/-- The output groups whose slew the board record sets, in the order of its bits (R492). -/
inductive SlewGroup where
  | motor | laserLink | safe | gpio | fan
  deriving DecidableEq, Repr

/-- Whether a group switches FAST (R492). -/
def State.fastSlew (s : State) (g : SlewGroup) : Bool :=
  bitAt s.plat.slew (match g with | .motor => 0 | .laserLink => 1 | .safe => 2 | .gpio => 3 | .fan => 4)

/-- The channel whose balls tile (R, C) carries (R481, Table 17-1). -/
def tileChannel (r c : Fin 4) : Nat := if c.val < 2 then 2 * r.val + c.val else 8 + 2 * r.val + 3 - c.val

/-- The global row or column of local place `k`, 1 to 16, in the tile row or column `t`: mirrored about the centre line (R481). -/
def globalPlace (t : Fin 4) (k : Nat) : Nat := if t.val < 2 then 16 * t.val + k else 16 * (t.val + 1) + 1 - k

end Sys2Proof.Machine
end

