-- ==== Sys2Proof/WellFormed.lean ====
section
/-! DEFINITION. The commands whose operands the spec's fields and buses can carry: slot, queue, register, page and channel numbers in
range, one TLP per window access, and lists of the length the block they describe has. A command that is not well formed names nothing the
hardware has. -/

namespace Sys2Proof
open Sys2Proof.Machine

/-- One of the 65,536 command slots (R16). -/
def slotOk (k : Nat) : Bool := k < 65536

/-- A signed 16-bit reading. -/
def int16 (v : Int) : Bool := -32768 ≤ v && v < 32768

/-- An aligned offset of the body of a page (R463). -/
def bodyOffset (off : Nat) : Bool := 0x100 ≤ off && off < 0x800 && off % 4 == 0

/-- The offset of a coefficient of a slot, or of its FF table window (R169, R187). -/
def coefOffset (off : Nat) : Bool := off == 0x140 || (0x200 ≤ off && off < 0x500 && off % 4 == 0)

/-- A window access: within the 4 GiB, and within one 4 KiB page as every TLP is (R299, R315). -/
def windowTlp (ofs len : Nat) : Bool := 1 ≤ len && ofs + len ≤ 2 ^ 32 && ofs / 4096 == (ofs + len - 1) / 4096

/-- The command codes of Table 16-13. -/
def smbCodes : List Byte :=
  [0x00, 0x01, 0x02, 0x03, 0x04, 0x05, 0x06, 0x07, 0x08, 0x09, 0x0A, 0x0B, 0x0C, 0x10, 0x11]

/-- A place an uncorrectable SRAM error can strike. -/
def siteOk : SramSite → Bool
  | .channelBlock _ page => (regionPages 1).contains page
  | .portBlock page => (regionPages 0).contains page
  | .qmgSlot k => slotOk k
  | .frontEnd pair => pair < 2
  | .steward _ | .cle _ | .fabric _ | .securityCore => true

/-- Whether a command's operands are ones the hardware can be given. -/
def WellFormed : Instr → Bool
  | .createIoSq k => slotOk k
  | .deleteIoSq k => slotOk k
  | .createIoCq k => slotOk k
  | .deleteIoCq k => slotOk k
  | .getLogPage k => slotOk k
  | .identify k => slotOk k
  | .abort k => slotOk k
  | .setFeatures k _ => slotOk k
  | .getFeatures k => slotOk k
  | .asyncEventRequest k => slotOk k
  | .firmwareDownload k _ => slotOk k
  | .firmwareCommitReplace k => slotOk k
  | .firmwareCommitReplaceActivate k => slotOk k
  | .firmwareCommitAtReset k => slotOk k
  | .firmwareCommitNow k => slotOk k
  | .mount k _ => slotOk k
  | .mountComplete _ _ => true
  | .unmount k => slotOk k
  | .sealDisc k => slotOk k
  | .serviceIsolate k => slotOk k
  | .servicePowerDown k => slotOk k
  | .serviceRestore k => slotOk k
  | .serviceReload k => slotOk k
  | .calLoadSet k _ => slotOk k
  | .calClearSet k => slotOk k
  | .calPowerRun k => slotOk k
  | .calServoSweep k => slotOk k
  | .calReadBack k => slotOk k
  | .keyLoad k _ => slotOk k
  | .keyDiscard k => slotOk k
  | .keyRewrap k => slotOk k
  | .keyList k => slotOk k
  | .flush k => slotOk k
  | .write k => slotOk k
  | .read k => slotOk k
  | .verify k => slotOk k
  | .transformCompress k _ => slotOk k
  | .transformDecompress k _ => slotOk k
  | .transformResume k _ => slotOk k
  | .pinRangePin k => slotOk k
  | .pinRangeUnpin k => slotOk k
  | .mediaProbe k => slotOk k
  | .sqDoorbell qid tail => qid ≤ 64 && tail < 4096
  | .commandFetch qid k entry _ => qid ≤ 64 && slotOk k && entry.length == 16
  | .cqDoorbell qid head => qid ≤ 64 && head < 4096
  | .completionRecord k => slotOk k
  | .cancelRequest k => slotOk k
  | .cancelAnswer k => slotOk k
  | .mediaOperationAdmit k => slotOk k
  | .mediaOperationSelect _ _ => true
  | .operationAged _ _ => true
  | .readPreempt _ _ => true
  | .commandTimeLimit k => slotOk k
  | .linkTraining _ partnerRates workingLanes _ => workingLanes ≤ 16 && (partnerRates.all fun r => 1 ≤ r && r ≤ 5)
  | .perst _ => true
  | .configurationRequest off _ _ => off < 4096
  | .readCompletion tag _ data => tag < 1024 && data.length ≤ 4096
  | .completionTimeout tag => tag < 1024
  | .windowWrite ofs data => windowTlp ofs data.length
  | .windowRead ofs len => windowTlp ofs len
  | .msixVectorUnmask v => v < 96
  | .registerWrite _ bar addr size _ => (bar == 0 || bar == 2) && addr < 2 ^ 25 && 1 ≤ size && size ≤ 8
  | .swapRequest _ rg page when_ => rg ≤ 16 && page < 256 && when_ < 8
  | .groupSwapRequest _ _ when_ => when_ < 8
  | .swapCancel _ rg page => rg ≤ 16 && page < 256
  | .flysheetSwap rg page => rg ≤ 16 && page < 256
  | .flysheetReloadDone rg page => rg ≤ 16 && page < 256
  | .blockSoftReset _ rg page => rg ≤ 16 && page < 256
  | .blockQuiesce _ rg page => rg ≤ 16 && page < 256
  | .blockDisable _ rg page => rg ≤ 16 && page < 256
  | .blockResume _ rg page => rg ≤ 16 && page < 256
  | .irqStatusClear _ rg page _ => rg ≤ 16 && page < 256
  | .irqTest _ rg page _ => rg ≤ 16 && page < 256
  | .pwrWake mask => mask < 65536
  | .bivouacEntry _ => true
  | .wakeComplete _ => true
  | .discPresentChange _ _ => true
  | .loadRequestChange _ _ => true
  | .powerEarlyWarning _ => true
  | .brownout _ => true
  | .porstDeassert discp ldrq => discp < 65536 && ldrq < 65536
  | .channelPowerUp _ => true
  | .powerOnFillDone _ _ => true
  | .trainingFailure _ => true
  | .channelPllLoss _ => true
  | .thermalSample tPort tA tB => int16 tPort && int16 tA && int16 tB
  | .stewardWatchdog _ => true
  | .standbyReady _ => true
  | .sramUncorrectable loc => siteOk loc
  | .sramCorrectable rg page => rg ≤ 16 && page < 256
  | .registerFileParity rg page off _ => rg ≤ 16 && page < 256 && bodyOffset off
  | .flitReplay _ _ => true
  | .linkRetrain _ => true
  | .linkRetrainDone _ _ => true
  | .laneRepair _ _ => true
  | .parkingDone _ => true
  | .coastWaitExpiry _ => true
  | .debugChallenge _ => true
  | .resp response => response.length == 96
  | .bypass _ _ => true
  | .smbUnknownCode code _ => !smbCodes.contains code
  | .smbWrite _ _ => true
  | .eccCorrected _ word _ => word < 2 ^ 30
  | .eccPoison _ word _ => word < 2 ^ 30
  | .bucketLeak _ => true
  | .oscillatorCheck _ _ => true
  | .dramRetrain _ _ => true
  | .mr4Read _ rate _ => rate < 8
  | .zqCalibration _ => true
  | .scrubGo _ _ => true
  | .scrubStop _ _ => true
  | .scrubPassEnd _ _ stoppedAt => stoppedAt ≤ 2 ^ 30
  | .checkpointDue _ => true
  | .checkpointNow _ _ => true
  | .checkpointDone _ => true
  | .mapProbe _ _ lba => lba < 2 ^ 31
  | .missWalkReturn _ granule => granule < 2 ^ 21
  | .evictionWriteback _ => true
  | .ltcRangeInvalidation _ _ => true
  | .ltcAddressInvalidation _ _ => true
  | .writeStaged k => slotOk k
  | .writeBufferWaitEnd k => slotOk k
  | .clusterAssembly _ => true
  | .assemblyIdleTimeout _ => true
  | .clusterCommitment _ => true
  | .writeSessionStart _ => true
  | .writeClockLock _ => true
  | .verifyVerdict _ _ => true
  | .writeStop _ _ => true
  | .orderlyStop _ row => row < 10
  | .offTrack _ row => row < 10
  | .defocus _ row => row < 10
  | .wobblePllUnlock _ row => row < 10
  | .adipWord _ periods => periods.length == 207 && periods.all fun p => p.length == 8
  | .adipLoss _ row => row < 10
  | .laserTransaction _ _ => true
  | .laserLinkError _ row => row < 10
  | .statusPoll _ => true
  | .laserDriverFault _ _ row => row < 10
  | .killLineExternal _ row => row < 10
  | .hostLaserTransaction _ _ _ addr data => addr < 128 && data < 65536
  | .readLevelWrite _ _ _ level => level < 1024
  | .ldiKill _ _ _ => true
  | .killLatchClear _ => true
  | .testAreaRun _ _ => true
  | .testRunDone _ _ => true
  | .zoneTableFetch _ layer zone => layer < 32 && zone < 48
  | .frameSync _ _ => true
  | .alignmentChoice _ _ => true
  | .adaptiveBlockUpdate _ _ samples => samples.length == 256
  | .brambleFlagStart _ _ => true
  | .brambleFlagEnd _ _ => true
  | .defLong _ => true
  | .ldpcDecode _ _ => true
  | .captureRead _ pcn => pcn < discClusters
  | .retryStep _ pcn => pcn < discClusters
  | .retryBudgetExpired _ pcn => pcn < discClusters
  | .servoSample _ _ sd => sd.length == 8
  | .slotCommandOff _ _ _ => true
  | .slotCommandOpen _ _ _ => true
  | .slotCommandAcquire _ _ _ => true
  | .slotCommandClosed _ _ _ => true
  | .slotCommandHold _ _ _ => true
  | .coefficientWrite _ _ _ off _ => coefOffset off
  | .trimWrite _ _ _ _ => true
  | .tgtWrite _ _ _ _ => true
  | .eqDataWrite _ _ _ => true
  | .acquisitionCapture _ _ => true
  | .acquisitionFailure _ _ => true
  | .loss _ _ => true
  | .guylineArm _ _ => true
  | .implausible _ _ row => row < 10
  | .ffBinEnd _ _ => true
  | .cleFault _ => true
  | .cleEnable _ _ _ => true
  | .layerJump _ _ layer => layer < 32
  | .layerJumpTimeout _ => true
  | .layerJumpDone _ => true
  | .strandJump _ _ _ => true
  | .strandJumpTimeout _ => true
  | .strandJumpDone _ => true
  | .calibrationSweep _ _ => true
  | .sweepDone _ => true
  | .spindleStart _ _ => true
  | .spindleStop _ _ => true
  | .spindleCoast _ _ => true
  | .spindleClearFault _ _ => true
  | .commutationTableWrite _ _ _ => true
  | .pwmPeriod _ _ => true
  | .catchWindowEnd _ => true
  | .alignEnd _ => true
  | .observerLock _ => true
  | .startFail _ => true
  | .handoverEnd _ => true
  | .atSpeed _ => true
  | .vlim _ => true
  | .stoppingLowSpeed _ => true
  | .stopped _ => true
  | .speedGap _ _ => true
  | .chopFault _ => true
  | .overvoltage _ => true
  | .undervoltage _ => true
  | .overcurrent _ => true
  | .powerStageFault _ => true
  | .sampleLoss _ _ => true
  | .sledMove _ _ first last => first < 64 && last < 64
  | .sledStop _ _ => true
  | .sledHome _ _ => true
  | .sledEnergise _ _ => true
  | .sledRelease _ _ => true
  | .sledClearFault _ _ => true
  | .sledTick _ ia ib => int16 ia && int16 ib
  | .moveDone _ => true
  | .stopDone _ => true
  | .homeSwitchEdge _ _ => true
  | .homeFail _ => true
  | .sledOvercurrent _ => true
  | .holdCurrent _ => true
  | .followEntry _ => true
  | .pickupTemperatureSample _ codes => codes.length == 10 && codes.all fun x => decide (x < 4096)
  | .recompTimer _ => true
  | .calForce _ _ => true
  | .setValidWrite _ _ mask => mask < 32
  | .pdeltaWrite _ _ _ => true
  | .generationFormed _ => true
  | .generationApply _ => true
  | .snapshot _ rg => rg ≤ 16
  | .mmClear _ rg source => rg ≤ 16 && histSource rg source
  | .histogramClear _ rg source => rg ≤ 16 && histSource rg source
  | .histogramConfigWrite _ rg off _ => rg ≤ 16 && bodyOffset off
  | .counterClear _ _ mask => mask < 65536
  | .satClear _ _ mask => mask < 65536
  | .counterSaturate _ _ => true
  | .xtsSelftest _ _ => true
  | .registerRead _ bar addr size => (bar == 0 || bar == 2) && addr < 2 ^ 25 && 1 ≤ size && size ≤ 4096
  | .stewardFenceRequest _ => true
  | .gpioEdge _ _ => true
  | .wobblePllLock _ _ => true
  | .coalescingTimeExpiry v => v < 64
  | .channelImageLoaded _ _ => true
  | .controllerEnable => true
  | .controllerReset => true
  | .normalShutdown => true
  | .shutdownDeadline => true
  | .abruptShutdown => true
  | .perstDeassert => true
  | .functionLevelReset => true
  | .flrComplete => true
  | .busMasterEnableClear => true
  | .busMasterEnableSet => true
  | .bmeExpired => true
  | .earlyWarningEnd => true
  | .porstAssert => true
  | .bootVerify => true
  | .portPllLoss => true
  | .referenceLoss => true
  | .xoStop => true
  | .thermalTrip => true
  | .frontEndWatchdog => true
  | .securityCoreWatchdog => true
  | .lockstepMismatch => true
  | .tamperAssert => true
  | .challengeExpiry => true
  | .dbgenFall => true
  | .chal => true
  | .state => true
  | .smbVendorId => true
  | .smbDeviceId => true
  | .smbSiliconRevision => true
  | .smbStatus => true
  | .smbCompositeTemperature => true
  | .smbThermalLevel => true
  | .smbFencesClosed => true
  | .smbChannelsInBivouac => true
  | .smbChannelsMounted => true
  | .smbDiscPresent => true
  | .smbBoot => true
  | .smbResetCause => true
  | .smbFrontEnd => true
  | .smbBundleVersion => true
  | .smbSerialNumber => true
  | .smbClockLowTimeout => true
  | .tamperRelease => true
  | .dbgenRise => true
  | .l12Exit => true

end Sys2Proof
end

