-- ==== Sys2Proof/Tests/Slice0.lean ====
section
/-! SUPPORT. The model's own tests: the ill-formed commands the checks refuse, the spec's worked examples, and for every statement a state
and operands that meet its hypotheses. -/

set_option Elab.async false

namespace Sys2Proof.Tests
open Sys2Proof Sys2Proof.Machine

/-! Small states. -/

/-- Out of PORST#, the link up, channels 0 and 1 powered with their firmware running. -/
def on : State :=
  let s : State := { State.reset with
    plat := { Plat.off with porst := false, perstLow := false, feUp := true, imagesUp := true }
    front := { Front.off with inReset := false, rdy := true } }
  let s1 := (s.cfgPut 0x04 0x00100006).wrs 0 [(F.CLK_PLL_STS_PCIE, 1), (F.CLK_XO_STS_XO50_RUN, 1), (F.CLK_XO_STS_XO32K_RUN, 1),
    (F.PCI_LINK_STS_DL_UP, 1)]
  ([0, 1] : List (Fin 16)).foldl (fun (s : State) (c : Fin 16) => (s.modCh c fun x => { x with powered := true }).wrs (chRg c)
    [(F.STW_STS_RUN, 1), (F.CHN_STS_DISC_PRESENT, 1)]) s1

/-- A writable Mapped disc. -/
def disc : Disc :=
  { direct := false, blank := false, sealed_ := false, roMount := false, roDisc := false, compress := false, wantKey := none, keyed := false
    keyId := 0, archiveId := 0, wrapped := [], discId := [], revision := 1, identNext := 0, calNext := 20, anchNext := 0, anchorNum := 1
    ckptNum := 1, ckptPcn := 0, ckptSeq := 0, ckptParts := 0, replayStart := 0, nextLba := 0, slips := [], newSlips := [], slipsAtMount := 0
    holes := [], mapPoison := false, lastPcn := 0, mountMs := 0, fallback := false }

/-- Channel 0 with a disc mounted, its spindle running, focus and tracking closed, and the wobble locked. -/
def mounted : State :=
  (on.modCh 0 fun x => { x with st := .mounted, active := true, disc := some disc }).wrs 1 [(F.CLE_CTL, 1), (F.CLE_STS_RUN, 1),
    (F.SLT_STATE_MODE 0, 3), (F.SLT_STATE_MODE 1, 3), (F.SPN_STS_STATE, 6), (F.MAP_STS_STATE, 3), (F.WOB_STS_PLL_LOCK, 1),
    (F.WOB_STS_ADIP_VALID, 1)]

/-- `mounted` after a change of channel 0. -/
def mountedWith (f : Chan → Chan) : State := mounted.modCh 0 f

/-- `mounted` after a change of channel 0's write chain. -/
def writing (f : WriteChain → WriteChain) : State := mountedWith fun x => { x with wr := f x.wr }

/-- A command as fetched: queue, opcode, namespace, the dwords that are not 0, and the channel it was routed to. -/
def cmd (sqid op nsid : Nat) (dws : List (Nat × Nat)) (chan : Option Nat) : CmdSlot :=
  { sqid := sqid, entry := (List.range 16).map fun i => BitVec.ofNat 32 (if i = 0 then op else if i = 1 then nsid else SMap.get dws i 0)
    pieces := [], fetched := 0, phase := if chan.isSome then .routed else .fetched, chan := chan, cancel := none, answer := none, bar4 := 0
    data := [], silent := false }

/-- A state with the commands in its slots 0, 1, …. -/
def with_ (s : State) (l : List CmdSlot) : State :=
  s.modFront fun f => { f with slots := (List.range l.length).zip l }

/-- A staged block. -/
def block (id : Nat) : Block :=
  { id := id, lba := id, piece := 0, ends := true, data := [], crc := 0, taken := true, time := 0, bad := false, lost := false, home := none }

/-- What a cluster holds. -/
def content : Content :=
  { kind := .data, pos := 0, group := 0, entries := [], payload := [], lead := 0, cont := false, contSeq := 0, spec := [], keyId := 0
    enc := false, direct := false, supersedes := 0, repl := 0, blocks := [0], owners := [] }

/-- A begun cluster. -/
def placed : Placed := ⟨100000, 1, 0, false, content, true, false⟩

/-! The checks of `WellFormed`. -/

theorem test_slots_and_queues_refuse : [Instr.read 65536, .sqDoorbell 65 0, .sqDoorbell 0 4096, .cqDoorbell 65 0, .cqDoorbell 0 4096,
    .commandFetch 65 0 (List.replicate 16 0) [], .commandFetch 0 65536 (List.replicate 16 0) [], .commandFetch 0 0 [] [],
    .coalescingTimeExpiry 64, .msixVectorUnmask 96, .sramUncorrectable (.qmgSlot 65536), .sramUncorrectable (.frontEnd 2)].all
      (fun i => !WellFormed i) = true := by decide +kernel

theorem test_link_and_window_refuse : [Instr.linkTraining [] [] 17 false, .linkTraining [] [6] 16 false, .configurationRequest 4096 0 none,
    .readCompletion 1024 .success [], .completionTimeout 1024, .windowWrite 0 [], .windowWrite 4095 [none, none], .windowRead 0 0,
    .windowRead (2 ^ 32) 1, .windowRead 4095 2].all (fun i => !WellFormed i) = true := by decide +kernel

theorem test_registers_refuse : [Instr.registerWrite .host 1 0 4 0, .registerWrite .host 2 (2 ^ 25) 4 0, .registerWrite .host 2 0 0 0,
    .registerWrite .host 2 0 9 0, .registerRead .host 1 0 4, .registerRead .host 2 0 4097, .swapRequest .host 17 0 0, .swapRequest .host 0 256 0,
    .swapRequest .host 0 0 8, .groupSwapRequest .host 0 8, .flysheetSwap 17 0, .blockQuiesce .host 0 256, .irqTest .host 17 0 0,
    .registerFileParity 0 0 0xFC false, .registerFileParity 0 0 0x800 false, .registerFileParity 0 0 0x101 false, .sramCorrectable 17 0,
    .sramUncorrectable (.portBlock 0x05), .sramUncorrectable (.channelBlock 0 0x02), .snapshot .host 17, .mmClear .host 1 256,
    .histogramConfigWrite .host 1 0xFC 0, .counterClear .host 0 65536, .satClear .host 0 65536].all (fun i => !WellFormed i) = true := by
  decide +kernel

theorem test_package_refuses : [Instr.pwrWake 65536, .porstDeassert 65536 0, .porstDeassert 0 65536, .thermalSample 32768 0 0,
    .thermalSample 0 (-32769) 0, .resp [], .smbUnknownCode 0x11 1, .eccCorrected 0 (2 ^ 30) false, .eccPoison 0 (2 ^ 30) .other, .mr4Read 0 8 false,
    .scrubPassEnd 0 [] (2 ^ 30 + 1)].all (fun i => !WellFormed i) = true := by decide +kernel

theorem test_media_refuses : [Instr.mapProbe .host 0 (2 ^ 31), .missWalkReturn 0 (2 ^ 21), .writeStaged 65536, .orderlyStop 0 10, .offTrack 0 10,
    .laserDriverFault 0 0 10, .hostLaserTransaction .host 0 false 128 0, .hostLaserTransaction .host 0 false 0 65536, .readLevelWrite .host 0 0 1024,
    .zoneTableFetch 0 32 0, .zoneTableFetch 0 0 48, .captureRead 0 discClusters, .retryStep 0 discClusters,
    .retryBudgetExpired 0 discClusters].all (fun i => !WellFormed i) = true := by decide +kernel

theorem test_mechanics_refuse : [Instr.servoSample 0 0 [], .coefficientWrite .host 0 0 0x1FC 0, .coefficientWrite .host 0 0 0x500 0,
    .coefficientWrite .host 0 0 0x202 0, .implausible 0 0 10, .layerJump .host 0 32, .sledMove .host 0 64 0, .sledMove .host 0 0 64,
    .sledTick 0 32768 0, .pickupTemperatureSample 0 (List.replicate 10 4096), .pickupTemperatureSample 0 [0],
    .adipWord 0 (List.replicate 206 (List.replicate 8 0)), .adipWord 0 (List.replicate 207 []), .adaptiveBlockUpdate 0 0 [], .setValidWrite .host 0 32].all
      (fun i => !WellFormed i) = true := by decide +kernel

theorem test_boundary_operands_pass : [Instr.read 65535, .sqDoorbell 64 4095, .windowRead (2 ^ 32 - 1) 1, .windowRead 0 4096, .orderlyStop 0 9,
    .registerWrite .host 2 (2 ^ 25 - 1) 1 0, .msixVectorUnmask 95, .mr4Read 0 7 true, .captureRead 0 (discClusters - 1), .sledMove .host 0 63 63,
    .coefficientWrite .host 0 0 0x140 0, .coefficientWrite .host 0 0 0x4FC 0, .layerJump .host 0 31].all WellFormed = true := by decide +kernel

/-! The spec's worked examples and check values. -/

/-- Chapter 2's worked example: cluster 1,000 of Z10 on L2. -/
theorem test_geometry_example : framesIn 10 = 620 ∧ posOf 3657136 = ⟨2, 10, 1000⟩ ∧ pcnOf ⟨2, 10, 1000⟩ = 3657136 ∧
    (addrOf 3657136 3).bits = 0x114106140000 ∧ scrambleSeed (addrOf 3657136 3) = 0xDA083 ∧ afterCut 3657136 3 = 3657136 + 63 := by decide +kernel

/-- The check values of R32 and R124 over "123456789". -/
theorem test_crc_check_values : crc16 (byteBits (ascii "123456789")) = 0x29B1 ∧ crc8 (byteBits (ascii "123456789")) = 0xF4 := by decide +kernel

/-- Chapter 7's worked example: interpolation at 31.0 °C, and the peak level of R119 in Z30. -/
theorem test_interpolation_example : lerp 612 641 96 240 = 624 ∧ lerp 24 30 96 240 = 26 ∧ lerp 21 18 96 240 = 20 ∧ lerp (-10) (-6) 96 240 = -8 ∧
    peakLevel 619 26 30 = 668 := by decide +kernel

/-- Chapter 7's pair of sets at 31.0 °C (496): 25 °C and 40 °C, and the fraction 96 / 240. -/
theorem test_calibration_pair : (on.cw 0 F.CAL_SET_VALID 31).calPair 0 496 = some (1, 2, 96, 240) := by decide +kernel

/-- Chapter 9's example: 120 zero, 200 repeat, 150 delta and 42 literal words take 936 payload bytes and code to 2,048. -/
theorem test_half_slot_example :
    let ws := List.replicate 120 0 ++ (List.range 42).map (fun i => 2 ^ 62 + 2 ^ 40 * (2 ^ 15 * (i % 2) + i)) ++
      (List.range 150).map (fun i => 2 ^ 62 + 2 ^ 40 * (2 ^ 15 + 41) + i + 1) ++ List.replicate 200 (2 ^ 62 + 2 ^ 40 * (2 ^ 15 + 41) + 150)
    (hsEncode (ws.flatMap (leBytes 8))).map List.length = some 2048 := by decide +kernel

/-- The commutation table at reset (R190): 0, 23,170 at an eighth, 32,767 at a quarter and −32,767 at three quarters of a turn. -/
theorem test_commutation_reset : [0, 128, 256, 768].map (fun i => toSigned 16 (on.tget .commutation 1 i)) = [0, 23170, 32767, -32767] := by
  decide +kernel

/-- Chapter 5's example: closing focus with M = 0.1875, GEXP 4, KP 0.75 and e_f 0.02 keeps the output code at 6,144. -/
theorem test_output_code : outCode 0x60000 = 6144 := by decide +kernel

/-- Chapter 6's example: 100 units a tick is a V field of 25,600; the first segment ends at 196,000. -/
theorem test_sled_move_ends : (match exec (.moveDone 0) ((on.wrs 1 [(F.SLD_STS_STATE, 2), (F.SLD_STS_HOMED, 1), (F.SLD_SEG_B 0, 196000)])) with
    | .next t => t.sledSt 0 == 1 && (t.ch 0).sled.pos == 196000 * unitPos && t.cr 0 (F.HDR_IRQ_RAW 0x11) == 1
    | _ => false) = true := by decide +kernel

/-- Vendor and device identifiers over SMBus (Table 16-13). -/
theorem test_smbus_vendor : (match exec .smbVendorId (on.pw F.SMB_CTL 1) with | .next t => t.out | _ => []) =
    [.smbus [0x9A, 0x1E] (smbPec 0 [0x9A, 0x1E])] := by decide +kernel

/-- The table gives no row bits, so no word spells a command. -/
theorem test_no_word_spells_a_command : decodeTableWord 32 0xFFFFFFFF = none := rfl

/-! For every statement with hypotheses, states and operands that meet them, clause by clause. Clauses that rest on an opaque constant of
`Config` (a fused key hash, the boot flash) have no value to show. -/

theorem witness_StepConsumesOneCommand (s : State) :
    step { s with pending := [.l12Exit, .bucketLeak 0] } = .next (State.pw { s with pending := [.bucketLeak 0] } F.PCI_LINK_STS_L1_STATE 0).xoStart := rfl

theorem witness_CanonicalStoresKept : on.Canonical ∧ ∃ t, step on = .next t := ⟨by constructor <;> decide +kernel, _, rfl⟩

theorem witness_CommandsStopOnlyWhereTheSpecGivesNoEffect : 0x38000000 ≤ 0x38000000 ∧ (on.pw F.SEC_STS_DEBUG_OPEN 1).debugOpen = true ∧
    (0 : BitVec 4) ≠ 0xF := by decide +kernel

theorem witness_RegisterFieldsReadBack : F.AON_TIME_LO.Placed ∧ F.AON_TIME_HI.Placed ∧ F.AON_TIME_LO.same F.AON_TIME_HI = false :=
  ⟨by constructor <;> decide, by constructor <;> decide, by decide⟩

theorem witness_ChannelDramReadsBack : (2 ^ 33 - 8) + (List.replicate 8 (some (1 : Byte))).length ≤ 2 ^ 33 ∧
    (List.replicate 8 (some (1 : Byte)))[7]? = some (some 1) ∧ 2 ^ 30 - 1 < 2 ^ 30 ∧ coversWord (2 ^ 33 - 8) (List.replicate 8 (some 1)) (2 ^ 30 - 1) =
    true := by decide +kernel

theorem witness_InterruptEventSetsItsBit : 0xFF < 0x100 ∧ 31 < 32 ∧ on.rd 1 (F.HDR_IRQ_RAW 0x60) < 2 ^ 32 ∧ (0xFFFFFFFF : Nat) < 2 ^ 32 := by
  decide +kernel

theorem witness_SmbusServesItsCommands : (on.pw F.SMB_CTL 1).plat.porst = false ∧ (on.pw F.SMB_CTL 1).pr F.SMB_CTL = 1 ∧
    State.reset.plat.porst = true ∧ (on.pw F.SMB_CTL 0).pr F.SMB_CTL ≠ 1 := by decide +kernel

theorem witness_DebugChallengeIsIssued :
    let s := on.pw F.SEC_STS_DBGEN 1
    let t := s.modSec fun x => { x with challenge := some [] }
    s.pr F.SEC_STS_DBGEN = 1 ∧ s.sec.tamperLow = false ∧ s.pr F.SEC_DBG_STS_STATE = 0 ∧ s.sec.challenge = none ∧
    (s.pw F.SEC_DBG_STS_STATE 1).pr F.SEC_DBG_STS_STATE = 1 ∧ t.sec.challenge = some [] := by decide +kernel

theorem witness_DebugPortStatusBypassAndEnable : on.debugOpen = false ∧
    (on.modSec fun x => { x with challenge := some [] }).sec.challenge.isSome ∧ on.plat.porst = false := by decide +kernel

theorem witness_WatchdogsAndFailover :
    let s := on.wrs 0 [(F.GMON_FE_STS_STANDBY_READY, 1), (F.SEC_STS_STORE_READY, 1)]
    s.alive 0 = true ∧ s.cr 0 F.STW_STS_RUN = 1 ∧ s.plat.feUp = true ∧ s.pr F.GMON_FE_STS_STANDBY_READY = 1 ∧ s.pr F.SEC_STS_STORE_READY = 1 ∧
    ({ s with plat := { s.plat with standby := true } } : State).plat.standby = true := by decide +kernel

theorem witness_StorageErrorsOfTheDevice : on.plat.porst = false ∧ on.alive 0 = true ∧ 1 ≠ on.pr F.GMON_FE_STS_ACTIVE_PAIR ∧
    (on.pw F.GMON_FE_STS_STANDBY_READY 1).pr F.GMON_FE_STS_STANDBY_READY = 1 ∧ 0xFF < 0x100 ∧ (pageFields 16 0x60).isSome ∧
    (pageFields 1 0x28).isSome ∧ regFields 1 0x28 0x10C ≠ [] := by decide +kernel

theorem witness_InterposerLinksAndLanes :
    let s : State := { on with plat := { on.plat with replays := [(0, 4)], retrains := [(1, 2)], spares := [(3, 3), (2, 4)] } }
    s.plat.porst = false ∧ s.plat.training.contains 0 = false ∧ 4 ≤ SMap.get s.plat.replays 0 0 ∧ 1 ≤ SMap.get s.plat.retrains 1 0 ∧
    SMap.get s.plat.retrains 1 0 < 3 ∧ ({ s.plat with training := [1] } : Plat).training.contains 1 = true ∧ SMap.get s.plat.spares 3 0 < 4 ∧
    4 ≤ SMap.get s.plat.spares 2 0 := by decide +kernel

theorem witness_TamperAndDebugResponse : on.plat.porst = false ∧ on.sec.tamperLow = false ∧ on.pr F.SEC_DBG_STS_STATE ≠ 2 ∧
    on.pr F.SEC_DBG_STS_STATE ≠ 3 ∧ (on.modSec fun x => { x with tamperLow := true }).sec.tamperLow = true ∧
    (on.pw F.SEC_DBG_STS_STATE 3).pr F.SEC_DBG_STS_STATE = 3 ∧ (on.pw F.SEC_DBG_STS_STATE 2).pr F.SEC_DBG_STS_STATE = 2 := by decide +kernel

theorem witness_GpioEdgesRaiseTheirEvents : State.reset.plat.porst = true ∧ on.plat.porst = false ∧ on.pr F.GPIO_DIR = 0 ∧
    ({ on.plat with gpioIn := 65535 } : Plat).gpioIn < 65536 ∧ 15 < 16 := by decide +kernel

theorem witness_DramErrorsAreCountedAndLeak : 0x37FFFFFF < 0x38000000 ∧ (on.cw 0 F.ECC_BUCKET_LEVEL 255).cr 0 F.ECC_BUCKET_LEVEL < 256 ∧
    (on.cw 0 F.ECC_BUCKET_THR 255).cr 0 F.ECC_BUCKET_THR < 256 ∧ on.alive 0 = true ∧
    (on.poisonWord 0 0x37FFFFFF).poisoned 0 0x37FFFFFF = true ∧ on.poisoned 0 0x37FFFFFF = false ∧ 2 ^ 30 - 1 < 2 ^ 30 := by decide +kernel

theorem witness_ScrubberPasses :
    let s := on.wrs 1 [(F.SCB_START, 0), (F.SCB_END, 0x38000000), (F.SCB_POSITION, 1)]
    s.reach .host 1 0x4A = .open_ ∧ s.cr 0 F.SCB_START < s.cr 0 F.SCB_END ∧ s.cr 0 F.SCB_END ≤ 0x38000000 ∧ s.cr 0 F.SCB_STS_BUSY = 0 ∧
    (s.cw 0 F.SCB_START 0x38000000).cr 0 F.SCB_END ≤ (s.cw 0 F.SCB_START 0x38000000).cr 0 F.SCB_START ∧
    0x38000000 < (s.cw 0 F.SCB_END 0x38000001).cr 0 F.SCB_END ∧ (s.cw 0 F.SCB_STS_BUSY 1).cr 0 F.SCB_STS_BUSY = 1 ∧
    s.reach .host 1 0x48 = .open_ ∧ s.running 1 0x4A = true ∧ s.cr 0 F.SCB_POSITION < 2 ^ 30 := by decide +kernel

theorem witness_CountersHoldTheirLimit :
    let s := on.tput .counter 1 15 (2 ^ 48 - 1)
    0xFFFFF < 0x100000 ∧ 0xFFFFF ≠ 15 ∧ s.tget .counter 1 15 = 2 ^ 48 - 1 ∧ bitAt (s.cr 0 F.CNT_SAT) 15 = false ∧
    bitAt ((s.cw 0 F.CNT_SAT 0x8000).cr 0 F.CNT_SAT) 15 = true ∧ s.reach .host 1 0x59 = .open_ := by decide +kernel

theorem witness_HistogramsSnapshotsAndTheirClears : 0 ≤ 16 ∧ (0x83 : Nat) < 256 ∧ histSource 0 0x83 = true ∧ on.reach .host 0 (monPage 0) = .open_ ∧
    (on.pw F.GMON_HIST_IDX 0x83).rd 0 F.GMON_HIST_IDX = 0x83 ∧ histSource 1 0x10 = true ∧ on.reach .host 1 (monPage 1) = .open_ ∧
    (on.cw 0 F.MON_HIST_IDX 0x10).rd 1 F.MON_HIST_IDX = 0x10 ∧ (on.snapWords 0 0x83)[63]? = some 0 ∧ 0xFFFFF < 0x100000 ∧ 63 < 64 := by
  decide +kernel

theorem witness_FencedChannelsIgnoreHostWrites : ((on.modCh 0 fun x => { x with fence := 1 }).ch 0).fence ≠ 0 ∧ (on.ch 2).powered = false ∧
    0xFF ≠ 0 ∧ 0x100000 / 0x100000 = chRg 0 ∧ shadowPage (0x108000 / 0x1000 % 0x100) = false ∧ 0x108000 / 0x100000 = chRg 0 := by decide +kernel

theorem witness_OtherSizesDoNotReachRegisters : on.linkUp = true ∧ on.claimed 2 0x1FFFFFC = true ∧
    on.reach .host (0x10FFFC / 0x100000) (0x10FFFC / 0x1000 % 0x100) = .open_ ∧ on.claimed 2 0x10FFFC = true ∧ 0x10FFFC % 4 = 0 ∧ 8 ≠ 4 ∧
    0x10FFFE % 4 ≠ 0 := by decide +kernel

theorem witness_RegisterAccessesReachTheirRegister :
    let b := on.modCh 0 fun x => { x with st := .bivouac }
    0x110100 % 4 = 0 ∧ State.reset.linkUp = false ∧ on.linkUp = true ∧ on.claimed 2 0x2000000 = false ∧ on.claimed 2 0x110100 = true ∧
    on.reach .host (0x110100 / 0x100000) (0x110100 / 0x1000 % 0x100) = .open_ ∧ on.claimed 2 0x005000 = true ∧ pageFields 0 5 = none ∧
    on.reach .host 0 5 = .open_ ∧ on.plat.porst = false ∧ on.plat.tripped = false ∧ b.linkUp = true ∧ b.claimed 2 0x110100 = true ∧
    0x110100 / 0x100000 = chRg 0 ∧ (b.ch 0).fence = 0 ∧ (b.ch 0).powered = true ∧ (b.ch 0).st = .bivouac ∧ shadowPage 0x10 = false ∧
    on.claimed 0 0xFFFC = true := by decide +kernel

theorem witness_SwapsExchangeBothCopies :
    let p := on.cw 0 (F.HDR_SET_STS_PENDING 0x28) 1
    16 ≤ 16 ∧ 0x60 < 0x100 ∧ on.reach .host 1 0x28 = .open_ ∧ (pageFields 1 0x28).isSome ∧ slotPage 0x28 = false ∧
    on.rd 1 (F.HDR_SET_STS_PENDING 0x28) = 0 ∧ on.inGroup 1 0x28 = false ∧ p.rd 1 (F.HDR_SET_STS_PENDING 0x28) = 1 ∧
    on.reach .host 0 0x1B = .open_ ∧ (pageFields 0 0x1B).isSome ∧ slotPage 0x1B = false ∧ 0x1B ≠ 0x0C ∧ 7 < 8 ∧ swapFields 1 0x28 ≠ [] := by
  decide +kernel

theorem witness_GroupSwapsCancelsAndBoundaries :
    let g := on.cw 0 (F.CHN_GRP_MASK 1) (2 ^ 8)
    let p := g.cw 0 (F.HDR_SET_STS_PENDING 0x28) 1
    let q := on.wrs 1 [(F.HDR_SET_STS_PENDING 0x09, 1), (F.SLT_STATE_MODE 0, 3)]
    on.reach .host 1 0 = .open_ ∧ 7 < 8 ∧ g.rd 1 (F.HDR_SET_STS_PENDING 0) = 0 ∧ (g.ch 0).calSwap = false ∧ g.groupMask 1 = [0x28] ∧
    (channelFields 0x28).isSome ∧ slotPage 0x28 = false ∧ p.rd 1 (F.HDR_SET_STS_PENDING 0x28) = 1 ∧ g.rd 1 (F.HDR_SET_STS_PENDING 0x28) = 0 ∧
    on.reach .host 1 0x28 = .open_ ∧ on.calPending 1 0x28 = none ∧ p.slotRefuses 1 0x28 = false ∧ q.calPending 1 0x09 = none ∧
    (q.wrFly 1 (F.SLT_KP 0) 1).slotRefuses 1 0x09 = true ∧ on.rd 1 (F.HDR_SET_STS_SYNCING 0x28) = 0 ∧
    (on.cw 0 (F.HDR_SET_STS_SYNCING 0x28) 1).rd 1 (F.HDR_SET_STS_SYNCING 0x28) = 1 ∧ on.flyHeld = [] := by decide +kernel

theorem witness_QuiesceEnableAndSoftReset : 0x60 < 0x100 ∧ on.reach .host 1 0x28 = .open_ ∧ (pageFields 1 0x28).isSome ∧
    on.quiesced 1 0x28 = false ∧ (on.cw 0 (F.HDR_BLK_CTL_QUIESCE 0x28) 1).quiesced 1 0x28 = true ∧ 0x28 ∉ [0x00, 0x08, 0x10, 0x11, 0x32, 0x50] ∧
    slotPage 0x28 = false ∧ softKeeps 1 0x28 0x10C = false ∧ on.rd 1 (F.HDR_ERR_FIRST_VALID 0x28) ≠ 1 := by decide +kernel

theorem witness_InterruptClearAndTest : 0x60 < 0x100 ∧ on.reach .host 1 0x60 = .open_ ∧ (pageFields 1 0x60).isSome ∧
    (on.cw 0 (F.HDR_IRQ_RAW 0x60) 0xFFFFFFFF).rd 1 (F.HDR_IRQ_RAW 0x60) < 2 ^ 32 := by decide +kernel

theorem witness_CommandsActOnlyFromTheirSlot :
    let s := with_ on [cmd 0 0x06 0 [] none]
    (s.cmd? 0 true 0x06).isSome ∧ s.slot? 0 = some (cmd 0 0x06 0 [] none) ∧ (cmd 0 0x06 0 [] none).isAdmin ≠ false ∧
    (cmd 0 0x06 0 [] none).opcode ≠ 0x02 ∧ s.cmd? 0 true 0x02 = none ∧ s.cmd? 65535 false 0x02 = none := by decide +kernel

theorem witness_CompletionRecordsAreMadeOnce :
    let s := with_ on [cmd 0 0x06 0 [] none, { cmd 1 0x02 1 [] (some 0) with silent := true }, { cmd 1 0x02 1 [] (some 0) with phase := .posted }]
    s.slot? 3 = none ∧ (∃ x, s.slot? 0 = some x ∧ x.live = true ∧ x.silent = false ∧ x.chan = none) ∧
    (∃ x, s.slot? 1 = some x ∧ x.live = true ∧ x.silent = true) ∧ (∃ x, s.slot? 2 = some x ∧ x.live = false) ∧ stInvalidField ≠ stSuccess :=
  ⟨by decide +kernel, ⟨_, rfl, rfl, rfl, rfl⟩, ⟨_, rfl, rfl, rfl⟩, ⟨_, rfl, rfl⟩, by decide +kernel⟩

/-- A state with I/O queue pair 1 of eight entries. -/
def queues : State := on.modFront fun f => { f with sqs := [(0, ⟨0x1000, 8, 0, 0, 0⟩), (1, ⟨0x10000, 8, 1, 0, 1⟩)]
                                                    cqs := [(0, ⟨0x2000, 8, 0, 0, true, 0, true⟩), (1, ⟨0x20000, 8, 0, 0, true, 1, true⟩)] }

theorem witness_QueuesAreCreatedAndDeleted :
    let cq := cmd 0 0x05 0 [(10, 0x0FFF0040), (11, 0x003F0003)] none
    let sq := cmd 0 0x01 0 [(10, 0x0001_0040), (11, 0x0001_0001)] none
    let s := with_ queues [cq, sq, cmd 0 0x04 0 [(10, 1)] none, cmd 0 0x00 0 [(10, 1)] none, cmd 0 0x05 0 [(10, 0x10000041), (11, 1)] none]
    s.cmd? 0 true 0x05 = some cq ∧ bitsAt (cq.dw 10) 0 16 = 64 ∧ SMap.find? s.front.cqs 64 = none ∧ bitsAt (cq.dw 10) 16 16 = 4095 ∧
    bitAt (cq.dw 11) 0 = true ∧ bitsAt (cq.dw 11) 16 16 = 63 ∧
    s.cmd? 1 true 0x01 = some sq ∧ bitsAt (sq.dw 10) 0 16 = 64 ∧ SMap.find? s.front.sqs 64 = none ∧ bitsAt (sq.dw 10) 16 16 = 1 ∧
    bitAt (sq.dw 11) 0 = true ∧ bitsAt (sq.dw 11) 16 16 = 1 ∧ (SMap.find? s.front.cqs 1).isSome ∧ SMap.find? s.front.cqs 2 = none ∧
    s.cmd? 2 true 0x04 = some (cmd 0 0x04 0 [(10, 1)] none) ∧ (∃ e ∈ s.front.sqs, e.2.cqid = 1) ∧
    (∀ e ∈ (s.modFront fun f => { f with sqs := [] }).front.sqs, e.2.cqid ≠ 1) ∧
    s.cmd? 3 true 0x00 = some (cmd 0 0x00 0 [(10, 1)] none) ∧ (SMap.find? s.front.sqs 1).isSome ∧ (∀ e ∈ s.front.slots, e.2.sqid ≠ 1) ∧
    SMap.find? s.front.sqs 2 = none ∧ (s.cmd? 4 true 0x05).isSome ∧ 64 < bitsAt 0x10000041 0 16 ∧ bitsAt 0x10000041 16 16 = 4096 := by
  decide +kernel

theorem witness_DoorbellsFetchAndPosting :
    let c : CmdSlot := { cmd 0 0x06 0 [] none with phase := .completed stSuccess 0 0 }
    let s := with_ queues [c]
    s.front.rdy = true ∧ SMap.find? s.front.sqs 1 = some ⟨0x10000, 8, 1, 0, 1⟩ ∧ 7 < 8 ∧ 8 ≤ 8 ∧
    SMap.find? s.front.cqs 1 = some ⟨0x20000, 8, 0, 0, true, 1, true⟩ ∧ State.reset.front.rdy = false ∧ (s.slot? 0).isSome ∧
    s.front.shutting = false ∧ s.front.pp = false ∧ s.bme = true ∧ s.front.inReset = false ∧ s.front.flr = false ∧ s.plat.feUp = true ∧
    65535 < 65536 ∧ s.slot? 65535 = none ∧ 65535 ∉ s.front.retired ∧ (⟨0x10000, 8, 1, 0, 1⟩ : SubQueue).waiting ≠ 0 ∧ s.deleting 1 = false ∧
    s.arbGrants 1 = true ∧ s.running 0 0x08 = true ∧ s.running 0 0x09 = true ∧ s.slot? 0 = some c ∧
    SMap.find? s.front.sqs c.sqid = some ⟨0x1000, 8, 0, 0, 0⟩ ∧ SMap.find? s.front.cqs 0 = some ⟨0x2000, 8, 0, 0, true, 0, true⟩ ∧ (0 + 1) % 8 ≠ 0 ∧
    (7 + 1) % 8 = 0 ∧ c.isAdmin = true ∧ c.cancel = none ∧ c.chan = none ∧ SMap.get s.front.coalesced 0 0 = 0 ∧
    SMap.get (s.modFront fun f => { f with coalesced := [(63, 1)] }).front.coalesced 63 0 ≠ 0 := by decide +kernel

theorem witness_FeaturesAreSetAndRead :
    let x := fun d10 d11 ns => cmd 0 0x09 ns [(10, d10), (11, d11)] none
    let y := fun d10 => cmd 0 0x0A 0 [(10, d10)] none
    let s := fun x y => with_ on [x, y]
    (s (x 0x01 0xFFFFFFFF 0) (y 0x301)).cmd? 0 true 0x09 = some (x 0x01 0xFFFFFFFF 0) ∧ bitAt ((x 0x80000001 0 0).dw 10) 31 = true ∧
    bitAt ((x 0x01 0 0).dw 10) 31 = false ∧ bitsAt ((x 0x01 0 0).dw 10) 0 8 = 0x01 ∧ bitsAt ((x 0x02 2 0).dw 10) 0 8 = 0x02 ∧
    (x 0x02 3 0).dw 11 % 32 = 3 ∧ bitsAt ((x 0xC0 600 1).dw 10) 0 8 = 0xC0 ∧ (x 0xC0 600 1).nsid = (0 : Fin 16).val + 1 ∧ (on.ch 0).fence = 0 ∧
    (s (x 0x01 0 0) (y 0x301)).cmd? 1 true 0x0A = some (y 0x301) ∧ bitsAt ((y 0x301).dw 10) 8 3 = 3 ∧ bitsAt ((y 0x101).dw 10) 8 3 = 1 ∧
    bitsAt ((y 0x001).dw 10) 8 3 = 0 ∧ bitsAt ((y 0x201).dw 10) 8 3 = 2 ∧ 3 < bitsAt ((y 0x401).dw 10) 8 3 ∧ 0xC2 ∈ [0x01, 0x02, 0x06, 0x07, 0x08, 0x0B, 0xC2] ∧
    bitsAt ((y 0xC2).dw 10) 0 8 = 0xC2 := by decide +kernel

theorem witness_IdentifyLogsAndEvents :
    let id := fun d ns => cmd 0 0x06 ns [(10, d)] none
    let log := fun d o => cmd 0 0x02 0 [(10, d), (12, o)] none
    let aer := cmd 0 0x0C 0 [] none
    let ab := cmd 0 0x08 0 [(10, 0x0000_0001)] none
    let rd := cmd 1 0x02 1 [] (some 0)
    (with_ on [id 0x04 0]).cmd? 0 true 0x06 = some (id 0x04 0) ∧ bitsAt ((id 0x04 0).dw 10) 0 8 ∉ [0x00, 0x01, 0x02, 0x03, 0x05, 0x06, 0x08, 0x1C] ∧
    bitsAt ((id 0x01 0).dw 10) 0 8 = 0x01 ∧ bitsAt ((id 0x02 0xFFFFFFFD).dw 10) 0 8 = 0x02 ∧ (id 0x02 0xFFFFFFFD).nsid < 0xFFFFFFFE ∧
    on.pointersOk (id 0x01 0) true = true ∧ (with_ on [log 0x06 0]).cmd? 0 true 0x02 = some (log 0x06 0) ∧
    bitsAt ((log 0x06 0).dw 10) 0 8 ∉ [0x01, 0x02, 0x03, 0x04, 0x05, 0xC0, 0xC1, 0xC2, 0xC3, 0xC4, 0xC5] ∧ bitsAt ((log 0x01 0).dw 10) 0 8 ≠ 0x02 ∧
    (log 0x01 4096).dw 12 % 4 = 0 ∧ (log 0x01 2).dw 12 % 4 ≠ 0 ∧ 4096 - 4 + xferLen true 0x02 (log 0x01 0) ≤ 4096 ∧
    (with_ on [aer]).cmd? 0 true 0x0C = some aer ∧ (on.modFront fun f => { f with aers := List.replicate 8 1 }).front.aers.length = 8 ∧
    on.front.aers.length < 8 ∧ on.front.events = [] ∧ (with_ on [ab]).cmd? 0 true 0x08 = some ab ∧
    16 ≤ (with_ on (List.replicate 16 { ab with phase := .executing })).abortsOutstanding ∧ on.abortsOutstanding < 16 ∧
    (∀ e ∈ (with_ on [ab]).front.slots, ¬ (e.2.sqid = 1 ∧ e.2.cid = 0 ∧ e.1 ≠ 0)) ∧
    (with_ on [ab, rd]).front.slots.find? (fun e => e.2.sqid == 1 && e.2.cid == 0 && e.1 != 0) = some (1, rd) ∧ rd.isAdmin = false ∧
    rd.live = true ∧ rd.chan.isSome ∧ rd.cancel = none ∧ (cmd 1 0x02 1 [] none).chan = none := by decide +kernel

/-- The Error Information log answers its 4,096 bytes whatever is free. -/
theorem witness_IdentifyLogsAndEvents_log (f : Nat) :
    ∃ data, on.logData (cmd 0 0x02 0 [(10, 0x01)] none) f = .inr data := ⟨_, rfl⟩

theorem witness_CancelsAndTimeLimits :
    let rd : CmdSlot := { cmd 1 0x02 1 [] (some 0) with cancel := some .timeLimit }
    let wr : CmdSlot := { cmd 1 0x01 1 [] (some 0) with cancel := some (.abort 1) }
    let un : CmdSlot := { cmd 0 0xC1 1 [] (some 0) with cancel := some .silent }
    let w := writing fun w => { w with waits := [⟨0, 0, 1⟩] }
    (with_ on [rd]).slot? 0 = some rd ∧ rd.chan.bind chan? = some 0 ∧ rd.cancel.isSome ∧ rd.answer = none ∧ (on.ch 0).fence = 0 ∧
    { rd with phase := .posted }.live = false ∧ rd.isAdmin = false ∧ rd.opcode = 0x02 ∧ rd.live = true ∧ wr.isAdmin = false ∧ wr.opcode = 0x01 ∧
    wr.live = true ∧ (∃ v ∈ (w.ch 0).wr.waits, v.slot = 0) ∧ un.isAdmin = true ∧ un.live = true ∧ un.opcode ≠ 0xC0 ∧
    (cmd 1 0x02 1 [] (some 0)).cancel = none ∧ { wr with answer := some true }.answer = some true ∧ (cmd 0 0x06 0 [] none).limitChan = none ∧
    (cmd 0 0x06 0 [] none).live = true ∧ rd.chan = some (0 : Fin 16).val := by decide +kernel

theorem witness_TheSchedulerAdmitsSelectsAndAges :
    let op : MediaOp := ⟨1, 0, 100000, 1, 0, false⟩
    let rc : ReadCmd := ⟨0, .read, 0, 16, false, none, [], false, [], []⟩
    let s := mountedWith fun x => { x with rd := { x.rd with ops := [op], cmds := [rc] } }
    let reads := mountedWith fun x => { x with rd := { x.rd with tails := [⟨99999, 0, 0, [], ⟨0, 0, 1, 0, 0⟩, false, 0, [1], 100000⟩] } }
    let a := mountedWith fun x => { x with wr := { x.wr with ready := List.replicate 4 content }, rd := { x.rd with writeAged := true } }
    (with_ on [cmd 1 0x02 1 [] (some 0)]).slot? 0 = some (cmd 1 0x02 1 [] (some 0)) ∧ (on.cw 0 (F.HDR_BLK_CTL_EN 0x60) 0).running 1 0x60 = false ∧
    s.running 1 0x60 = true ∧ s.alive 0 = true ∧ s.switching 0 = false ∧ (s.ch 0).fence = 0 ∧ (s.ch 0).waking = false ∧ (s.ch 0).st = .mounted ∧
    (s.ch 0).disc.isSome ∧ s.pickupFree 0 = true ∧ s.choose 0 1 = some (some op) ∧ (s.cw 0 F.SPN_STS_STATE 0).spinSt 0 = 0 ∧ s.spinSt 0 = 6 ∧
    s.onTrack 0 = true ∧ s.mayAddReader 0 = true ∧ a.choose 0 1 = some none ∧ a.pickupFree 0 = true ∧
    ((writing fun w => { w with blocks := [block 0] }).ch 0).wr.blocks ≠ [] ∧ (s.ch 0).wr.blocks = [] ∧
    (s.ch 0).rd.writeAged = false ∧ (∃ o ∈ (s.ch 0).rd.ops, o.id = 1 ∧ o.aged = false) ∧ (s.ch 0).rd.running ≠ some 1 ∧
    ((writing fun w => { w with session := .armed }).ch 0).wr.session = .armed ∧
    (∃ o ∈ (s.ch 0).rd.ops, o.id = 1 ∧ (s.ch 0).rd.isProbe o = false) ∧ s.servable 0 = true ∧ s.readCmd? 0 0 = some rc ∧ (s.ch 0).rd.tails = [] ∧
    (mounted.ch 0).rd.ops = [] ∧ s.opsTaken 0 < 4096 ∧ ((reads.ch 0).rd.needs 100000 = true) := by decide +kernel

/-- A Read of one block of one cluster. -/
theorem witness_TheSchedulerAdmitsSelectsAndAges_run :
    ReadCmd.clusters ⟨0, .read, 0, 1, false, none, [.media 7 0], false, [], []⟩ = [7] := by
  simp only [ReadCmd.clusters]; decide +kernel

theorem witness_FirmwareIsStagedCommittedAndBooted :
    let dl := cmd 0 0x11 0 [(10, 1023)] none
    let s := with_ (on.modSec fun x => { x with eraseDue := false }) [dl]
    let ci := fun ca fs => cmd 0 0x10 0 [(10, 8 * ca + fs)] none
    s.cmd? 0 true 0x11 = some dl ∧ s.sec.eraseDue = false ∧ s.pointersOk dl false = true ∧ 4 * dl.dw 11 + 4 * (dl.dw 10 + 1) ≤ slotSize ∧
    s.sec.staged = [] ∧ slotSize < 4 * (cmd 0 0x11 0 [(11, 3145728)] none).dw 11 + 4 ∧ overlaps 0 4096 4092 4 = true ∧
    (with_ on [ci 0 2]).commit? 0 0 = some (ci 0 2) ∧ (with_ on [ci 1 2]).commit? 0 1 = some (ci 1 2) ∧ (with_ on [ci 2 2]).commit? 0 2 = some (ci 2 2) ∧
    (with_ on [ci 3 2]).commit? 0 3 = some (ci 3 2) ∧ (on.pw F.SEC_STS_TAMPER 1).commitBarred = true ∧ on.commitBarred = false ∧
    on.commitSlot (ci 0 5) = 5 ∧ on.commitSlot (ci 0 1) = 1 ∧ on.sec.activating = none ∧ State.reset.plat.porst = true ∧ on.plat.feUp = true ∧
    on.plat.porst = false ∧ on.plat.tripped = false ∧ on.front.cfs = false ∧ on.pr F.BOOT_STS_HALT ≠ 1 ∧
    ({ on with plat := { on.plat with feUp := false } } : State).plat.feUp = false := by decide +kernel

theorem witness_ArchiveKeysAndTheirStore :
    let body := ascii "KREC" ++ [1, 0, 0, 0] ++ leBytes 8 7 ++ List.replicate 44 0
    let d := body ++ leBytes 4 (crc32c body)
    let kl := cmd 0 0xC6 0 [(10, 1)] none
    let kd := fun lo hi => cmd 0 0xC6 0 [(10, 2), (11, lo), (12, hi)] none
    let kr := cmd 0 0xC6 1 [(10, 3), (13, 7)] (some 0)
    let s := on.modSec fun x => { x with keys := [(7, [])] }
    (with_ on [kl]).keyCmd? 0 1 = some kl ∧ kl.nsid = 0 ∧ on.pointersOk kl false = true ∧ d.length = 64 ∧ d.take 4 = ascii "KREC" ∧
    (d.drop 4).head? = some 1 ∧ leNat (d.drop 0x3C) = crc32c (d.take 0x3C) ∧ leNat ((d.drop 8).take 8) = 7 ∧ on.debugOpen = false ∧
    on.sec.tamperLow = false ∧ (on.pw F.SEC_STS_DEBUG_OPEN 1).debugOpen = true ∧ on.archiveKey 7 = none ∧ on.sec.keys.length < 512 ∧
    512 ≤ (on.modSec fun x => { x with keys := List.replicate 512 (8, []) }).sec.keys.length ∧ s.archiveKey 7 = some [] ∧
    (with_ s [kd 0xFFFFFFFF 0xFFFFFFFF]).keyCmd? 0 2 = some (kd 0xFFFFFFFF 0xFFFFFFFF) ∧
    (kd 0xFFFFFFFF 0xFFFFFFFF).dw 11 + 2 ^ 32 * (kd 0xFFFFFFFF 0xFFFFFFFF).dw 12 = 2 ^ 64 - 1 ∧
    (kd 7 0).dw 11 + 2 ^ 32 * (kd 7 0).dw 12 = 7 ∧ (with_ on [cmd 0 0xC6 0 [(10, 4)] none]).keyCmd? 0 4 = some (cmd 0 0xC6 0 [(10, 4)] none) ∧
    (with_ mounted [kr]).chanCmd? 0 0xC6 = some (kr, 0) ∧ bitsAt (kr.dw 10) 0 4 = 3 ∧ (mounted.ch 0).disc = some disc ∧ disc.writable = true ∧
    ({ disc with sealed_ := true } : Disc).sealed_ = true ∧ ((mountedWith fun x => { x with xtsKey := some [] }).ch 0).xtsKey = some [] ∧
    kr.dw 13 + 2 ^ 32 * kr.dw 14 = 7 ∧ ({ disc with revision := 127 } : Disc).revision < 128 ∧ (mounted.ch 0).st ≠ .mechStopped := by
  decide +kernel

theorem witness_MountUnmountAndSeal :
    let m := cmd 0 0xC0 1 [] (some 0)
    let mk := cmd 0 0xC0 1 [(10, 4), (11, 7)] (some 0)
    let u := cmd 0 0xC1 1 [] (some 0)
    let sl := cmd 0 0xC2 1 [] (some 0)
    let k := on.modSec fun x => { x with keys := [(7, [])] }
    let g := with_ (on.modCh 0 fun x => { x with mounting := some 0, disc := some disc }) [m]
    (with_ on [m]).cmd? 0 true 0xC0 = some m ∧ m.chan = some (0 : Fin 16).val ∧ on.servable 0 = true ∧ (on.ch 0).mounting = none ∧
    (on.ch 0).procs = [] ∧ (on.cw 0 F.CHN_STS_DISC_PRESENT 0).cr 0 F.CHN_STS_DISC_PRESENT = 0 ∧ on.cr 0 F.CHN_STS_DISC_PRESENT ≠ 0 ∧
    (mounted.ch 0).active = true ∧ mounted.servable 0 = true ∧ (on.ch 0).active = false ∧ bitAt (m.dw 10) 2 = false ∧ bitAt (mk.dw 10) 2 = true ∧
    on.archiveKey 7 = none ∧ (k.archiveKey 7).isSome ∧ k.debugOpen = false ∧ (g.ch 0).mounting = some 0 ∧ (g.ch 0).disc = some disc ∧
    (g.ch 0).fence = 0 ∧ g.slot? 0 = some m ∧ m.live = true ∧ m.silent = false ∧ m.isAdmin = true ∧ g.front.aers = [] ∧
    (with_ mounted [u]).chanCmd? 0 0xC1 = some (u, 0) ∧ (with_ on [u]).chanCmd? 0 0xC1 = some (u, 0) ∧
    (∀ p ∈ (mounted.ch 0).procs, p.kind.unmounts = false) ∧ (mounted.ch 0).st ≠ .mechStopped ∧ (with_ mounted [sl]).chanCmd? 0 0xC2 = some (sl, 0) ∧
    disc.sealed_ = false ∧ disc.roMount = false ∧ disc.roDisc = false ∧ ({ disc with roMount := true } : Disc).roMount = true ∧
    (⟨[], [], [], []⟩ : DiscScan).blank = true ∧ (mounted.ch 0).procs = [] ∧ (mounted.ch 0).keysLost = false ∧
    ((writing fun w => { w with blocks := [block 0] }).ch 0).wr.blocks ≠ [] := by decide +kernel

theorem witness_ChannelServiceOperations :
    let x := fun op => cmd 0 0xC4 0 [(10, 256 * op)] none
    let dr := cmd 0 0xC4 0 [(10, 256 + 65536)] none
    let f := on.modCh 0 fun x => { x with fence := 1 }
    (with_ on [x 1]).service? 0 1 = some (x 1, 0) ∧ (with_ on [x 2]).service? 0 2 = some (x 2, 0) ∧ (with_ f [x 3]).service? 0 3 = some (x 3, 0) ∧
    (with_ f [x 4]).service? 0 4 = some (x 4, 0) ∧ (on.ch 0).fence = 0 ∧ (f.ch 0).fence ≠ 0 ∧ (f.ch 0).svc = none ∧ (f.ch 0).powered = true ∧
    ((on.modCh 0 fun x => { x with svc := some (0, 1) }).ch 0).svc.isSome ∧ bitAt ((x 1).dw 10) 16 = false ∧ bitAt (dr.dw 10) 16 = true ∧
    (with_ mounted [dr]).service? 0 1 = some (dr, 0) ∧ (mounted.ch 0).active = true ∧ (mounted.ch 0).st ≠ .mechStopped := by decide +kernel

theorem witness_CalibrateProcedures :
    let x := fun d => cmd 0 0xC5 1 [(10, d)] (some 0)
    let sw := mounted.cw 0 (F.SLT_STATE_MODE 6) 1
    (with_ on [x 0x500]).calibrate? 0 0 = some (x 0x500, 0) ∧ (x 0x500).calSet = 5 ∧ (x 0x400).calSet = 4 ∧ on.pointersOk (x 0x400) false = true ∧
    on.gatherBad (x 0x400) 0 = false ∧ (with_ on [x 0x401]).calibrate? 0 1 = some (x 0x401, 0) ∧
    (with_ mounted [x 2]).calibrate? 0 2 = some (x 2, 0) ∧ (mounted.ch 0).disc = some disc ∧ (mounted.ch 0).active = true ∧
    disc.sealed_ = false ∧ disc.writable = true ∧ (mounted.ch 0).st ≠ .mechStopped ∧ SMap.get (mounted.ch 0).wr.testNext 0 0 ≤ 15 ∧
    15 < SMap.get ((writing fun w => { w with testNext := [(0, 16)] }).ch 0).wr.testNext 0 0 ∧ disc.calNext < calibrationEnd ∧
    mounted.mayTest 0 = true ∧ (with_ on [x 3]).calibrate? 0 3 = some (x 3, 0) ∧ (on.ch 0).active = false ∧
    (with_ sw [x 0x06000003]).calibrate? 0 3 = some (x 0x06000003, 0) ∧ bitsAt ((x 0x06000003).dw 10) 24 3 = (6 : Fin 7).val ∧
    sw.sessionOn 0 = false ∧ (sw.ch 0).servo.sweep = none ∧ sw.cr 0 (F.SLT_STATE_SEQ 6) ≠ 1 ∧ sw.cr 0 F.CLE_CTL ≠ 0 ∧ sw.mode 0 6 = 1 ∧
    (writing fun w => { w with session := .armed }).sessionOn 0 = true ∧
    (with_ on [x 0x404]).calibrate? 0 4 = some (x 0x404, 0) ∧ (with_ on [x 0x704]).calibrate? 0 4 = some (x 0x704, 0) ∧ (x 0x704).calSet = 7 ∧
    (x 0x504).calSet = 5 ∧ on.pointersOk (x 0x404) true = true := by decide +kernel

theorem witness_WritesAreAdmittedGrantedAndStaged :
    let x := cmd 1 0x01 1 [(12, 1023)] (some 0)
    let big := cmd 1 0x01 1 [(12, 1024)] (some 0)
    let fl := cmd 1 0x00 1 [] (some 0)
    let i : Intake := ⟨0, 0, 0, false, true⟩
    let g := writing fun w => { w with intake := [⟨1, 0, 1, false, false⟩] }
    let a := with_ (writing fun w => { w with intake := [i] }) [cmd 1 0x01 1 [] (some 0)]
    let m := mounted.wrs 0 [(F.MAP_STS_STATE, 3)]
    (with_ m [x]).ioCmd? 0 0x01 = some (x, 0) ∧ (m.ch 0).disc = some disc ∧ m.ioRefused big 0 = some stInvalidField ∧ m.ioRefused x 0 = none ∧
    m.pointersOk x false = true ∧ ({ disc with sealed_ := true } : Disc).sealed_ = true ∧ disc.roMount = false ∧
    m.writeRefused 0 disc x.slba x.blocks = none ∧ m.wbRoom 0 x.blocks = true ∧ (∀ j ∈ (m.ch 0).wr.intake, j.granted = true) ∧
    (∃ j ∈ (g.ch 0).wr.intake, j.granted = false) ∧ (g.ch 0).wr.intake.find? (!·.granted) = some ⟨1, 0, 1, false, false⟩ ∧ g.servable 0 = true ∧
    (a.ch 0).wr.intake.find? (·.slot == 0) = some i ∧ i.granted = true ∧ disc.direct = false ∧ (with_ m [fl]).ioCmd? 0 0x00 = some (fl, 0) ∧
    (m.ch 0).st ≠ .mechStopped ∧ m.vwc = true ∧ (m.setFeat 0x06 0).vwc = false ∧ ({ disc with direct := true } : Disc).direct = true ∧ (m.ch 0).keysLost = false ∧ (m.ch 0).wr.blocks = [] ∧
    (((writing fun w => { w with blocks := [block 0, block 1] }).ch 0).wr.blocks.filter fun b => b.time ≤ fl.fetched).getLast? = some (block 1) := by
  decide +kernel

/-- An intake of no block has all its bytes; any other here has none. -/
theorem witness_WritesAreAdmittedGrantedAndStaged_bytes : (cmd 1 0x01 1 [] (some 0)).bytes.length = 4096 * 0 ∧
    (cmd 1 0x01 1 [] (some 0)).bytes.length ≠ 4096 * 1 := by simp [CmdSlot.bytes, cmd]

theorem witness_ReadsVerifiesAndProbesAreTakenUp :
    let rd := fun lo n => cmd 1 0x02 1 [(10, lo), (12, n)] (some 0)
    let vf := cmd 1 0x0C 1 [] (some 0)
    let pr := fun d10 d11 n => cmd 1 0x84 1 [(10, d10), (11, d11), (12, n)] (some 0)
    let st := writing fun w => { w with blocks := [block 0] }
    let dd : Disc := { disc with direct := true, nextLba := 16 }
    let bad : CmdSlot := { rd 0 0 with pieces := [(2 ^ 32, 1)], bar4 := 2 ^ 32 }
    (with_ mounted [rd 0 0]).ioCmd? 0 0x02 = some (rd 0 0, 0) ∧ (with_ mounted [vf]).ioCmd? 0 0x0C = some (vf, 0) ∧
    ((mountedWith fun x => { x with st := .mechStopped }).ch 0).st = .mechStopped ∧
    (with_ (mountedWith fun x => { x with st := .mechStopped }) [rd 0 0]).ioCmd? 0 0x02 = some (rd 0 0, 0) ∧ (mounted.ch 0).st ≠ .mechStopped ∧
    mounted.nsze 0 < (rd 0x80000000 0).slba + (rd 0x80000000 0).blocks ∧ (rd 0x7FFFFFFF 0).slba + (rd 0x7FFFFFFF 0).blocks ≤ mounted.nsze 0 ∧
    1024 < (rd 0 1024).blocks ∧ mounted.ioRefused (rd 0x7FFFFFFF 0) 0 = none ∧ mounted.pointersOk (rd 0 0) true = true ∧
    mounted.pointersOk bad true = false ∧ mounted.ioRefused bad 0 = none ∧ (with_ mounted [bad]).ioCmd? 0 0x02 = some (bad, 0) ∧
    (with_ mounted [pr 1 0 0]).ioCmd? 0 0x84 = some (pr 1 0 0, 0) ∧ bitAt ((pr 1 0 0).dw 10) 0 = true ∧
    discClusters < (pr 1 (discClusters - 1023) 1023).dw 11 + (bitsAt ((pr 1 0 1023).dw 12) 0 10 + 1) ∧
    (pr 1 (discClusters - 1024) 1023).dw 11 + (bitsAt ((pr 1 0 1023).dw 12) 0 10 + 1) ≤ discClusters ∧ bitAt ((pr 0 0 0).dw 10) 0 = false ∧
    mounted.nsze 0 < (pr 0 0x80000000 0).dw 11 + (bitsAt ((pr 0 0 0).dw 12) 0 10 + 1) ∧
    (pr 0 0x7FFFFFFF 0).dw 11 + (bitsAt ((pr 0 0 0).dw 12) 0 10 + 1) ≤ mounted.nsze 0 ∧ bitAt ((rd 0 0).dw 12) 30 = false ∧ (rd 0 0).silent = false ∧
    (rd 0 0).blocks = 1 ∧ (st.ch 0).wr.staged (rd 0 0).slba = some (block 0) ∧ (block 0).bad = false ∧ crc32c (block 0).data = (block 0).crc ∧
    st.ioRefused (rd 0 0) 0 = none ∧ (with_ st [rd 0 0]).ioCmd? 0 0x02 = some (rd 0 0, 0) ∧ dd.direct = true ∧ (mounted.ch 0).wr.staged 15 = none ∧
    dd.directTarget 15 ≠ .zero ∧ dd.directTarget 16 = .zero ∧ (mountedWith fun x => { x with disc := some dd }).ioRefused (rd 15 0) 0 = none := by decide +kernel

theorem witness_TransformsAndPinsRun :
    let t := fun d10 n => cmd 1 0x81 1 [(10, d10), (14, 4194304), (15, n)] (some 0)
    let odd := cmd 1 0x81 1 [(12, 2), (15, 0)] (some 0)
    let job := mountedWith fun x => { x with xf := some ⟨true, 0, 0, [], []⟩ }
    let en : LtcEntry := ⟨⟨5, 1, 100000, 0, 1, false⟩, false, 0, true⟩
    let p := fun n d12 => cmd 1 0x82 1 [(10, n), (12, d12)] (some 0)
    let lock := mountedWith fun x => { x with map := { x.map with ltc := ⟨none, some 0⟩ :: x.map.ltc.tail, locks := [(0, 5)] } }
    (with_ mounted [t 0 4194304]).ioCmd? 0 0x81 = some (t 0 4194304, 0) ∧ mounted.running 1 0x38 = true ∧ bitsAt ((t 0 4194304).dw 15) 0 23 = 4194304 ∧
    bitsAt ((t 0 0).dw 14) 0 23 = 4194304 ∧ (t 0 0).dw 12 % 4 = 0 ∧ odd.dw 12 % 4 ≠ 0 ∧ 4194304 % 4096 = 0 ∧ 1 % 4096 ≠ 0 ∧
    bitsAt ((t 0 4194305).dw 15) 0 23 = 4194305 ∧ mounted.pointersOk (t 0 0) false = true ∧
    mounted.pointersOk { t 0 0 with pieces := (t 0 0).outPieces } true = true ∧ mounted.gatherBad (t 0 0) 0 = false ∧
    bitAt ((t 0 0).dw 10) 1 = false ∧ bitAt ((t 1 0).dw 10) 0 = true ∧ bitAt ((t 2 0).dw 10) 1 = true ∧ (mounted.ch 0).xf = none ∧
    (job.ch 0).xf = some ⟨true, 0, 0, [], []⟩ ∧ (with_ mounted [p 0x7FFFFFFF 1]).ioCmd? 0 0x82 = some (p 0x7FFFFFFF 1, 0) ∧
    bitAt ((p 0 1).dw 12) 0 = !false ∧ bitAt ((p 0 0).dw 12) 0 = !true ∧ (mounted.ch 0).st ≠ .mechStopped ∧ mounted.nsze 0 ≤ (p 0x80000000 0).slba ∧
    (p 0x7FFFFFFF 0).slba < mounted.nsze 0 ∧ (mounted.ch 0).disc = some disc ∧ disc.direct = false ∧
    (mountedWith fun x => { x with disc := some { disc with direct := true } }).nsze 0 = 873740672 ∧ (mounted.ch 0).map.lockAt 5 = none ∧
    (lock.ch 0).map.lockAt 5 ≠ none ∧ (t 0 0).silent = false ∧ (p 0 0).silent = false ∧ ((job.ch 0).map.ltc.filterMap (·.entry)) = [] ∧
    (((mountedWith fun x => { x with map := { x.map with ltc := ⟨some en, none⟩ :: x.map.ltc.tail } }).ch 0).map.ltc.filterMap (·.entry)).find?
      (fun y => y.ext.has 5) = some en ∧ (List.range 4).find? (fun i => (SMap.find? (lock.ch 0).map.locks i).isNone) = some 1 ∧ bitAt ((p 0 0).dw 12) 1 = false ∧ on.reach .host 1 0x39 = .open_ ∧
    (on.cw 0 F.XTS_STS_KEY_VALID 1).cr 0 F.XTS_STS_KEY_VALID = 1 ∧ on.cr 0 F.XTS_STS_KEY_VALID ≠ 1 := by decide +kernel

theorem witness_HostInterfaceResetsAndShutdowns :
    let s := on.putNvme 0x14 1
    let r : State := on.modFront fun f => { f with rdy := false }
    let h : State := on.modFront fun f => { f with inReset := true }
    ((on.modCh 0 fun x => { x with fence := 1 }).ch 0).fence ≠ 0 ∧ bitAt on.cc 0 = false ∧ on.front.inReset = false ∧ on.front.flr = false ∧
    on.plat.porst = false ∧ bitAt s.cc 0 = true ∧ s.sec.actDue = none ∧ s.plat.feUp = true ∧ State.reset.plat.porst = true ∧ h.front.inReset = true ∧
    (∃ f ∈ (portFields 0x0A).getD [], perstResets f.page f.off = true ∧ f.page ≠ 0x0B ∧ f.off < 0x100) ∧ State.reset.plat.perstLow = true ∧
    on.plat.tripped = false ∧ on.plat.perstLow = false ∧ on.pr F.CLK_PLL_STS_PCIE ≠ 0 ∧
    bestOf ([16].filter fun w => [1, 2, 4, 8, 16].contains w) (min (on.pr F.PCI_LINK_CAP_MAX_WIDTH) 16) ≠ 0 ∧
    bestOf ([5].filter fun r => 1 ≤ r && r ≤ 5) (on.pr F.PCI_LINK_CAP_MAX_SPEED) ≠ 0 ∧ r.front.rdy = false ∧ on.front.rdy = true ∧
    on.front.shutting = false ∧ on.front.shst = 0 ∧ (∀ d : Fin 16, (on.ch d).active = false) ∧ on.front.slots = [] ∧
    (∀ d : Fin 16, (on.ch d).procs = []) ∧ (on.modFront fun f => { f with shutting := true }).front.shutting = true := by decide +kernel

theorem witness_HostReadsConfigurationAndBusMastering :
    let r : ReadReq := ⟨0, 0, 0x1000, 0, 8, [], 0, false⟩
    let s := on.modFront fun f => { f with reads := [(1023, r)] }
    let b := on.cfgPut 0x04 0x00100002
    s.front.inReset = false ∧ s.plat.porst = false ∧ s.plat.tripped = false ∧ on.front.reads = [] ∧ on.front.deadTags = [] ∧
    SMap.find? s.front.reads 1023 = some r ∧ r.dead = false ∧ r.got.length + (List.replicate 7 (0 : Byte)).length < r.len ∧
    r.len ≤ r.got.length + (List.replicate 8 (0 : Byte)).length ∧ { r with dead := true }.dead = true ∧ CplStatus.poisoned ≠ .success ∧ s.ctoUs ≠ 0 ∧
    (List.replicate 513 (0 : Byte)).length = 512 + 1 ∧ b.bme = false ∧ on.bme = true ∧ on.cfgRaw 0x04 0 = on.cfgRaw 0x04 0x00100000 ∧ b.front.bmeOver = false ∧ on.front.bmeStall = false ∧
    (on.modFront fun f => { f with bmeStall := true }).front.bmeStall = true ∧ State.reset.linkUp = false ∧ on.linkUp = true ∧
    (on.modFront fun f => { f with flr := true }).front.flr = true ∧ on.front.flr = false ∧ 0xFFC % 4 = 0 ∧ 0xFFC ≠ 0x04 ∧ 0xFFC ≠ 0x78 := by
  decide +kernel

theorem witness_WindowAndMessagesReachTheirTarget :
    let e := fun v => on.tput .winActive 0 0 v
    let p := (on.tput .winActive 0 0 1).poisonWord 0 (winAddr ((e 1).winPage 0) 0 / 8)
    let m := (on.cfgPut 0x50 0x80000000).modFront fun f => { f with pba := [(95, true)] }
    let q := on.modFront fun f => { f with q4 := [.read 0 0 1] }
    on.linkUp = true ∧ State.reset.linkUp = false ∧ on.mse = true ∧ (on.cfgPut 0x04 0x00100004).mse = false ∧ on.front.flr = false ∧ on.front.q4 = [] ∧
    q.front.q4 ≠ [] ∧ q.linkUp = true ∧ q.winWaits (q.winPage 0) false = none ∧ q.winWaits (q.winPage 0) true = none ∧ 512 ≤ 512 ∧ 512 < 513 ∧ (on.winPage 0).valid = false ∧
    ((e 3).winPage 0).valid = true ∧ ((e 3).winPage 0).wp = true ∧ ((e 1).winPage 0).wp = false ∧ ((e 1).winPage 0).chan = (0 : Fin 16).val ∧
    ((e 0x21).winPage 0).chan = (2 : Fin 16).val ∧ (on.ch 2).powered = false ∧ (on.ch 0).fence = 0 ∧ (on.ch 0).powered = true ∧
    ((on.modCh 0 fun x => { x with st := .bivouac }).ch 0).st = .bivouac ∧ (on.ch 0).st ≠ .bivouac ∧
    (e 1).anyPoison 0 (winAddr ((e 1).winPage 0) 0) 8 = false ∧ p.anyPoison 0 (winAddr (p.winPage 0) 0) 8 = true ∧ 4 ≤ 4 ∧ 96 ≤ 96 ∧ 95 < 96 ∧
    SMap.get on.front.pba 95 false = false ∧ SMap.get m.front.pba 95 false = true ∧ m.msixOn = true := by decide +kernel

/-- PORST# reopens a closed fence. -/
theorem witness_FencesReopenOnlyByRestoreOrPorst :
    let s := { on.modCh 0 fun x => { x with fence := 1 } with pending := [.porstAssert] }
    ∃ t, step s = .next t ∧ (s.ch 0).fence ≠ 0 ∧ (t.ch 0).fence = 0 := ⟨_, rfl, by decide +kernel, by decide +kernel⟩

theorem witness_TrainingFailureFencesTheChannel :
    let s := on.wrs 1 [(F.DRC_STS_FILL_BUSY, 1), (F.STW_STS_RUN, 0)]
    s.alive 0 = true ∧ s.cr 0 F.DRC_STS_FILL_BUSY = 1 ∧ (s.ch 0).fence = 0 ∧ s.cr 0 F.STW_STS_RUN = 0 ∧ (s.ch 0).svc = none := by decide +kernel

theorem witness_PorstRailsClocksAndTemperature :
    let b : State := { on with chans := Vector.replicate 16 { on.ch 0 with st := .bivouac } }
    let l := (b.cfgPut 0x228 1).wrs 0 [(F.CLK_XO_CTL, 1)]
    on.plat.porst = false ∧ on.pr F.CLK_XO_STS_XO50_RUN = 1 ∧ State.reset.plat.porst = true ∧ (on.pw F.PWR_PFW_CTL_EN 0).pr F.PWR_PFW_CTL_EN = 0 ∧
    on.alive 0 = true ∧ (on.ch 0).st ≠ .bivouac ∧ on.plat.tripped = false ∧ l.pr F.PCI_LINK_STS_DL_UP = 1 ∧ l.front.inReset = false ∧
    bitAt (l.cfgRaw 0x228 0) 0 = true ∧ l.pr F.CLK_XO_CTL ≠ 0 ∧ l.pr F.CLK_XO_STS_XO32K_RUN = 1 ∧
    (∀ d : Fin 16, (l.ch d).st = .bivouac ∧ (l.ch d).waking = false) ∧ (on.pw F.CLK_XO_STS_XO50_RUN 0).pr F.CLK_XO_STS_XO50_RUN ≠ 1 := by
  decide +kernel

theorem witness_ChannelsPowerUpSleepAndWake :
    let f := on.cw 0 F.DRC_STS_FILL_BUSY 1
    let b := on.modCh 0 fun x => { x with st := .bivouac }
    let w := on.modCh 0 fun x => { x with st := .bivouac, waking := true }
    let i := on.pw F.PWR_BIV_CTL 1
    on.plat.porst = false ∧ on.plat.tripped = false ∧ (on.ch 2).powered = false ∧ (on.ch 2).fence = 0 ∧
    (∀ d : Fin 16, d.val < 2 → (on.ch d).powered = true ∨ (on.ch d).fence ≠ 0) ∧ (on.ch 0).powered = true ∧ f.alive 0 = true ∧
    f.cr 0 F.DRC_STS_FILL_BUSY = 1 ∧ (f.ch 0).svc = none ∧ ((on.modCh 0 fun x => { x with svc := some (0, 4) }).ch 0).svc = some (0, 4) ∧
    mounted.idleChannel 0 = false ∧ i.idleChannel 0 = true ∧ 7 < 8 ∧ (b.ch 0).st = .bivouac ∧ (b.ch 0).waking = false ∧ (w.ch 0).waking = true ∧
    on.cr 0 F.CHN_STS_DISC_PRESENT ≠ b2n false ∧ on.cr 0 F.CHN_STS_LDRQ = 0 ∧ (on.cw 0 F.CHN_STS_LDRQ 1).cr 0 F.CHN_STS_LDRQ = 1 ∧
    w.alive 0 = true ∧ (w.ch 0).fence = 0 ∧ (w.ch 0).st = .bivouac ∧ w.front.q2 = [] ∧ w.front.q4 = [] ∧
    ((on.modCh 0 fun x => { x with svc := some (0, 3) }).ch 0).svc = some (0, 3) ∧ f.plat.imagesUp = true ∧ (f.ch 0).fence = 0 ∧
    (f.cw 0 F.STW_STS_RUN 0).cr 0 F.STW_STS_RUN = 0 ∧ f.cr 0 F.STW_STS_STOPPED = 0 ∧
    ((on.modCh 0 fun x => { x with fence := 1 }).ch 0).fence ≠ 0 ∧ on.spinSt 0 = 0 ∧ (on.cw 0 F.SPN_STS_STATE 8).spinSt 0 = 8 ∧ mounted.spinSt 0 = 6 := by
  decide +kernel

theorem witness_CheckpointsProbesAndTheCache :
    let k : Ckpt := ⟨1, 2, .writing, 1, 5, 100000, 1⟩
    let w := writing fun w => { w with ckpt := some k }
    let d := (writing fun w => { w with since := 2 ^ 40 }).wrs 1 [(F.MAP_CKPT_CTL_INTERVAL, 1)]
    let e : LtcEntry := ⟨⟨0, 1, 100000, 0, 1, false⟩, false, 0, true⟩
    let m := mountedWith fun x => { x with map := { x.map with evb := [e], miss := [⟨0, true, []⟩] } }
    (mounted.ch 0).disc = some disc ∧ disc.direct = false ∧ (d.ch 0).active = true ∧ (d.ch 0).wr.ckpt = none ∧
    d.cr 0 F.MAP_CKPT_CTL_INTERVAL * 2 ^ 30 ≤ (d.ch 0).wr.since ∧ disc.writable = true ∧ (d.ch 0).keysLost = false ∧
    (d.ch 0).st ≠ .mechStopped ∧ 4 ≤ disc.anchorsLeft ∧ disc.mapPoison = false ∧ d.running 1 0x40 = true ∧ on.reach .host 1 0x40 = .open_ ∧
    (on.ch 0).active = false ∧ (w.ch 0).wr.ckpt = some k ∧ k.stage = .writing ∧ (w.ch 0).wr.mapDone = true ∧ ((writing fun w => { w with placed := [{ placed with content := { content with kind := .map } }] }).ch 0).wr.mapDone = false ∧
    2 ^ 31 - 1 < 2 ^ 31 ∧ m.servable 0 = true ∧ m.running 1 0x41 = true ∧ (mounted.ch 0).map.evb = [] ∧ (m.ch 0).map.evb = e :: [] ∧
    (m.ch 0).map.miss.find? (·.granule == 1) = none ∧ (m.ch 0).map.miss.find? (·.granule == 0) = some ⟨0, true, []⟩ ∧ (m.ch 0).map.blocked = [] ∧
    on.reach .host 1 0x41 = .open_ ∧ (on.cw 0 F.LTC_INV_LEN 1).cr 0 F.LTC_INV_LEN ≠ 0 ∧ (on.cw 0 F.LTC_INV_LEN 0).cr 0 F.LTC_INV_LEN = 0 := by
  decide +kernel

/-- All that lets channel 0 write: ready clusters, a locked clock, full speed, a cool pickup, the kill line released, the strategy of the layer. -/
def mayWrite : State :=
  (writing fun w => { w with ready := List.replicate 4 content, clockLock := true, tpyLayer := some 0 }).wrs 1
    [(F.SPN_SPEED, 48000), (F.CAL_TEMP_NOW, 400), (F.LDI_STS_KILL_PIN, 0), (F.LDI_STS_KILL_LATCH, 0), (F.WRC_CTL_EN, 1), (F.WRC_WPTR, anchorEnd)]

/-- Channel 0 in a session, with one begun cluster and one committed behind it. -/
def inSession (st : Session) : State :=
  writing fun w => { w with session := st, placed := [placed, { placed with pcn := 100001, seq := 2, begun := false }] }

theorem witness_ClustersAreAssembledCommittedAndJudged :
    let p2 : Placed := { placed with pcn := 100001, seq := 2, begun := false }
    let e := (writing fun w => { w with session := .writing, placed := [p2], tpyLayer := some 0 })
    let r := (writing fun w => { w with session := .writing, placed := [p2], ready := [content], tpyLayer := some 0 })
    let b1 : Block := { block 0 with taken := false }
    let a := writing fun w => { w with blocks := [b1], nextBlock := 1, forceTo := 1 }
    (on.cw 0 (F.HDR_BLK_CTL_EN 0x38) 0).running 1 0x38 = false ∧ on.mayAssemble 0 = false ∧ mounted.running 1 0x38 = true ∧
    (mounted.ch 0).disc = some disc ∧ disc.wantKey = none ∧ (mounted.ch 0).wr.session ≠ .armed ∧ (mounted.ch 0).wr.session ≠ .writing ∧
    (∀ p ∈ ((writing fun w => { w with session := .writing, placed := [placed] }).ch 0).wr.placed, p.begun = true) ∧
    (r.ch 0).wr.session = .writing ∧ (r.ch 0).wr.placed.find? (fun q => !q.begun) = some p2 ∧
    r.tpyNeeds 0 (posOf p2.pcn).layer = false ∧ r.slipFirst 0 p2 = false ∧ p2.dead = false ∧ p2.content.kind ≠ .pad ∧
    (((r.begin_ 0 p2).setSession 0 .writing).commitNext 0 false).isSome ∧
    (((e.begin_ 0 p2).setSession 0 .writing).commitNext 0 false).isNone ∧ mayWrite.powersSet 0 = true ∧ (inSession .armed).mayWrite 0 = false ∧
    (mounted.commitNext 0 true).isNone ∧ (r.commitNext 0 true).isSome ∧ (a.ch 0).wr.blocks = [b1] ∧ b1.taken = false ∧ b1.bad = false ∧
    b1.id < (a.ch 0).wr.nextBlock ∧ b1.id < (a.ch 0).wr.forceTo ∧ (a.ch 0).wr.cur = none ∧ (a.ch 0).wr.openGroup = none ∧ (a.ch 0).wr.ready = [] ∧
    a.mayAssemble 0 = true ∧ disc.direct = false ∧ disc.keyed = false ∧
    mounted.running 1 0x30 = true ∧ mounted.running 1 0x31 = true ∧ (mayWrite.ch 0).wr.session = .idle ∧ disc.writable = true ∧
    mayWrite.mayWrite 0 = true ∧ (mayWrite.ch 0).wr.enough = true ∧ (mayWrite.ch 0).fence = 0 ∧ mayWrite.mayAddWriter 0 = true ∧
    (mayWrite.ch 0).rd.running = none ∧ (mayWrite.ch 0).st ≠ .mechStopped ∧ mayWrite.switching 0 = false ∧ disc.revision ≠ 0 ∧
    mayWrite.tpyNeeds 0 (posOf (mayWrite.cr 0 F.WRC_WPTR)).layer = false ∧ (mayWrite.ch 0).rd.writeAged = false ∧
    ((((mayWrite.stageLevels 0 (mayWrite.tpyLevels 0 (posOf (mayWrite.cr 0 F.WRC_WPTR)).layer (posOf (mayWrite.cr 0 F.WRC_WPTR)).zone)).commitLevels
      0).modWr 0 fun x => { x with trail := List.replicate 8 Trail.fresh, gone := [] }).commitNext 0 true).isSome ∧ mounted.running 1 0x33 = true ∧
    ((inSession .writing).ch 0).wr.placed = placed :: [p2] ∧ placed.begun = true ∧ placed.dead = false ∧ p2.begun = false ∧
    (mounted.cw 0 F.VFY_CTL_EN 1).cr 0 F.VFY_CTL_EN = 1 := by decide +kernel

theorem witness_StopsCutAndTheKillLineLatches :
    let stop := inSession .stopping |>.modWr 0 fun w => { w with stopping := some 1 }
    let unlocked := mounted.wrs 1 [(F.WOB_STS_PLL_LOCK, 0), (F.WOB_STS_ADIP_VALID, 0)]
    (mounted.ch 0).wr.session = .idle ∧ 255 < 256 ∧ ((inSession .writing).ch 0).wr.session = .writing ∧
    ((inSession .writing).ch 0).wr.placed.reverse.find? (·.begun) = some placed ∧ unlocked.cr 0 F.WOB_STS_PLL_LOCK = 0 ∧
    mounted.cr 0 F.WOB_STS_PLL_LOCK = 1 ∧ unlocked.cr 0 F.WOB_STS_ADIP_VALID = 0 ∧ mounted.cr 0 F.WOB_STS_ADIP_VALID = 1 ∧
    mounted.cr 0 F.WOB_STS_ADIP_FAILS < 8 ∧ (mounted.cw 0 F.WOB_STS_ADIP_FAILS 8).cr 0 F.WOB_STS_ADIP_FAILS = 8 ∧ bitAt (0x01 : Byte).toNat 0 = true ∧ ¬ (bitAt (0x08 : Byte).toNat 0 = true ∨ bitAt (0x08 : Byte).toNat 1 = true ∨ bitAt (0x08 : Byte).toNat 2 = true) ∧
    bitAt (0x04 : Byte).toNat 2 = true ∧ mayWrite.cr 0 F.LDI_STS_KILL_PIN = 0 ∧ mounted.reach .host 1 0x30 = .open_ ∧
    ((inSession .armed).ch 0).wr.session = .armed ∧ (mounted.ch 0).wr.stopping = none ∧ (stop.ch 0).wr.stopping = some 1 ∧
    (stop.ch 0).wr.session = .stopping ∧ (stop.ch 0).wr.placed.reverse.find? (·.begun) = some placed ∧ 9 ≤ 9 ∧ 8 < 9 ∧
    mounted.reach .host 1 0x32 = .open_ ∧ mounted.sessionOn 0 = false ∧ (inSession .writing).sessionOn 0 = true := by decide +kernel

theorem witness_LaserTransactionsAndTestRuns :
    let t : LaserTxn := ⟨true, 0x1A, 0, some 0, 2⟩
    let b := writing fun w => { w with ldi := { w.ldi with queue := [t], busy := true } }
    let rx := (laserWord false 0 0)
    (mounted.ch 0).wr.ldi.queue = [] ∧ (b.ch 0).wr.ldi.queue = t :: [] ∧ (b.ch 0).wr.ldi.busy = true ∧ laserOk (BitVec.ofNat 32 rx).toNat = true ∧
    bitAt (BitVec.ofNat 32 rx).toNat 27 = false ∧ laserOk (1 : Word).toNat = false ∧ ({ t with fails := 1 } : LaserTxn).fails < 2 ∧ 2 ≤ t.fails ∧
    t.host = some 0 ∧ (mounted.ch 0).wr.ldi.down = false ∧ ((writing fun w => { w with ldi := { w.ldi with down := true } }).ch 0).wr.ldi.down = true ∧
    mounted.running 1 0x32 = true ∧ (mounted.ch 0).wr.session = .idle ∧ ((inSession .writing).ch 0).wr.session ≠ .idle ∧
    ((inSession .writing).ch 0).wr.ldi.queue = [] ∧ ((inSession .writing).ch 0).wr.ldi.busy = false ∧
    ((inSession .writing).cw 0 F.LDI_CTL_LINK_EN 1).cr 0 F.LDI_CTL_LINK_EN = 1 ∧ mounted.reach .host 1 0x32 = .open_ ∧ 0x19 % 128 ≤ 0x19 ∧
    0x19 < 0x1A % 128 ∧ 1023 < 1024 ∧ mounted.reach .host 1 0x30 = .open_ ∧ (inSession .writing).mayTest 0 = false ∧ mounted.mayTest 0 = true ∧
    (mounted.ch 0).wr.testRun = none ∧ ((writing fun w => { w with testRun := some ⟨0, 0, none, true⟩ }).ch 0).wr.testRun = some ⟨0, 0, none, true⟩ := by
  decide +kernel

/-- Channel 0's read path changed. -/
def reading (f : ReadPath → ReadPath) : State := mountedWith fun x => { x with rd := f x.rd }

/-- A cluster in its ladder at step `n`, nothing captured. -/
def laddered (n : Nat) : ClusterRead := { freshRead 100000 with step := n }

/-- A tail sought in cluster 100,000. -/
def tailAt : Tail := ⟨99999, 0, 0, [], ⟨0, 0, 1, 0, 0⟩, false, 0, [1], 100000⟩

theorem witness_LanesLoopsAndTheRetryLadder :
    let off := mounted.cw 0 F.WOB_CTL_EN 0
    let flag := reading fun r => { r with flags := 255 }
    let z : ZoneStart := ⟨0, 0, []⟩
    let d := reading fun r => { r with loops := r.loops.set 0 { r.loops[0] with due := some z } }
    let e := reading fun r => { r with loops := r.loops.set 0 { r.loops[0] with due := some { z with layer := 1 } } }
    mounted.running 1 0x2D = true ∧ (mounted.ch 0).rd.lanes[(7 : Fin 8).val]? = some Lane.off ∧
    ((adipWordIn []).bind adipAddr).isSome = false ∧ off.cr 0 F.WOB_CTL_EN = 0 ∧ mounted.cr 0 F.WOB_CTL_EN ≠ 0 ∧
    flag.brm 0 (flag.cr 0 F.WOB_CTL_REF_STRAND) = true ∧ mounted.brm 0 (mounted.cr 0 F.WOB_CTL_REF_STRAND) = false ∧ 31 < 32 ∧ 47 < 48 ∧
    mounted.running 1 0x28 = true ∧ mounted.anyPoison 0 (mounted.cr 0 F.XTC_ZT_BASE + (31 * 48 + 47) * 1024) 1024 = false ∧
    (mounted.poisonWord 0 (mounted.cr 0 F.XTC_ZT_BASE / 8)).anyPoison 0 (mounted.cr 0 F.XTC_ZT_BASE) 1024 = true ∧
    (d.ch 0).rd.loops[(0 : Fin 8)].due = some z ∧ (frameAddr Lane.off.next).layer = z.layer ∧ (frameAddr Lane.off.next).zone = z.zone ∧
    (e.ch 0).rd.loops[(0 : Fin 8)].due = some { z with layer := 1 } ∧ (frameAddr Lane.off.next).layer ≠ 1 ∧ 3 < 4 ∧ 24 < 25 ∧
    hasTap 0 15 = false ∧ hasTap 1 15 = true ∧
    mounted.reach .host 1 0x28 = .open_ ∧ mounted.cr 0 F.XTC_EQ_SEL_TAP < 24 ∧ (mounted.cw 0 F.XTC_EQ_SEL_AUTOINC 1).cb 0 F.XTC_EQ_SEL_AUTOINC = true ∧
    mounted.running 1 0x27 = true ∧ (∀ l : Fin 8, mounted.eqFrozen 0 l = true) ∧ mounted.asymFrozen 0 0 = true ∧
    -(2 ^ 24) ≤ (mounted.ch 0).rd.loops[(0 : Fin 8)].asym ∧ (mounted.ch 0).rd.loops[(0 : Fin 8)].asym ≤ 127 * 2 ^ 17 ∧
    mounted.laneLow 0 0 = false ∧ (mounted.cw 0 (F.BRC_ADAPT_CTL_EN_OFS 0) 0).ofsFrozen 0 0 = true ∧
    (mounted.cw 0 (F.BRC_ADAPT_CTL_EN_GAIN 0) 0).gainFrozen 0 0 = true := by decide +kernel

theorem witness_LanesLoopsAndTheRetryLadder_sync :
    let bits := syncMark ++ headerBits (headerInfo 0 0)
    let s := reading fun r => { r with loops := r.loops.set 0 { r.loops[0] with llr := bits.map fun b => if b then 8 else -8 } }
    let c : Choice := ⟨3, [], []⟩
    let t := reading fun r => { r with lanes := List.replicate 8 { Lane.off with choice := some c } }
    let u := reading fun r => { r with lanes := { Lane.off with choice := some { c with cands := [(0, 3)] } } :: r.lanes.tail }
    let v := reading fun r => { r with
      loops := r.loops.set 0 { r.loops[0] with llr := bits.map fun b => if b then 8 else -8 }
      lanes := List.replicate 8 { Lane.off with choice := some c } }
    s.running 1 0x29 = true ∧ (s.ch 0).rd.lanes[(0 : Fin 8).val]? = some Lane.off ∧ (s.ch 0).rd.clusters = [] ∧
    candidate (s.cr 0 (F.FSY_SYNC_THR 0)) 256 ((s.ch 0).rd.loops[(0 : Fin 8)].marks 0 256) = some 0 ∧ Lane.off.choice = none ∧
    headerDecode ((s.ch 0).rd.loops[(0 : Fin 8)].header 0) = some (0, 0) ∧ s.cr 0 (F.BRC_LANE_STS_SYNC 0) = 0 ∧
    (s.cw 0 (F.BRC_LANE_STS_SYNC 0) 1).cr 0 (F.BRC_LANE_STS_SYNC 0) ≠ 0 ∧
    candidate (mounted.cr 0 (F.FSY_SYNC_THR 0)) 256 ((mounted.ch 0).rd.loops[(0 : Fin 8)].marks 0 256) = none ∧
    (t.ch 0).rd.lanes[(0 : Fin 8).val]? = some { Lane.off with choice := some c } ∧ c.cands = [] ∧ t.othersDecided 0 0 = true ∧
    (u.ch 0).rd.lanes[(0 : Fin 8).val]? = some { Lane.off with choice := some { c with cands := [(0, 3)] } } ∧ u.othersDecided 0 0 = false ∧
    headerDecode ((v.ch 0).rd.loops[(0 : Fin 8)].header 0) = some (0, 0) ∧ v.othersDecided 0 0 = true ∧
    t.alignC 0 0 c.found = none ∧ headerDecode ((t.ch 0).rd.loops[(0 : Fin 8)].header 0) = none := by decide +kernel

theorem witness_LanesLoopsAndTheRetryLadder_flags :
    let low : List BitRec := List.replicate 256 ⟨0, 0, 1, false⟩
    let b := (reading fun r => { r with loops := r.loops.set 0 { r.loops[0] with bits := low } }).cw 0 F.BRM_CTL_EN 1
    (mounted.cw 0 F.BRM_CTL_EN 0).cr 0 F.BRM_CTL_EN = 0 ∧ b.cr 0 F.BRM_CTL_EN = 1 ∧ b.cr 0 (F.BRC_LANE_STS_BLANK 0) = 0 ∧ b.brambleOut 0 0 = true ∧
    mounted.brambleOut 0 0 = false ∧ 0 < mounted.cr 0 F.CLE_DEF_CTL_MIN_LANES ∧
    (mounted.cw 0 F.CLE_DEF_CTL_MIN_LANES 1).cr 0 F.CLE_DEF_CTL_MIN_LANES ≤ 1 ∧ (mounted.ch 0).servo.defect = none ∧
    (mounted.ch 0).servo.defOver = false ∧ ((mountedWith fun x => { x with servo := { x.servo with defect := some 0 } }).ch 0).servo.defect.isSome := by
  decide +kernel

theorem witness_LanesLoopsAndTheRetryLadder_ladder :
    let f : FrameRes := { noFrame with decided := false }
    let x : ClusterRead := { freshRead 100000 with frames := [(79, f)] }
    let j : Job := ⟨0, 100000, 79, .first⟩
    let a := reading fun r => { r with clusters := [x], cores := some j :: r.cores.tail }
    let b := reading fun r => { r with clusters := [laddered 1] }
    let w : ClusterRead := { laddered 2 with captured := true }
    let h := reading fun r => { r with clusters := [w], tails := [tailAt] }
    let i := reading fun r => { r with clusters := [w], holder := some 100000 }
    let full : ClusterRead := { laddered 1 with rows := List.range 161 }
    mounted.running 1 0x2A = true ∧ (mounted.ch 0).rd.cores.getD (7 : Fin 8).val none = none ∧
    (a.ch 0).rd.cores.getD (0 : Fin 8).val none = some j ∧ a.reading? 0 j.pcn = some x ∧ SMap.find? x.frames j.p = some f ∧
    f.decided = false ∧ x.step = 0 ∧ x.frames.length < 80 ∧ mounted.running 1 0x2E = true ∧
    (b.ch 0).rd.clusters.find? (fun x => x.pcn == 100000 && x.step != 0 && !x.captured && x.reads.isEmpty) = some (laddered 1) ∧
    (b.ch 0).rd.storeUsed + (laddered 1).rows.length ≤ 160 ∧ (b.ch 0).rd.limitedAt 100000 = false ∧ (b.ch 0).rd.holder = none ∧
    160 < (b.ch 0).rd.storeUsed + full.rows.length ∧ b.stepOpen 0 (laddered 1) = true ∧
    (h.ch 0).rd.clusters.find? (fun x => x.pcn == 100000 && x.step != 0) = some w ∧ h.stepOpen 0 w = false ∧ (h.ch 0).rd.needs 100000 = true ∧
    w.step ≠ 12 ∧ w.step ≠ 3 ∧ (mounted.ch 0).rd.clusters = [] ∧ (i.ch 0).rd.clusters.find? (fun x => x.pcn == 100000 && x.step != 0 && x.step != 12) = some w ∧
    w.inStep (i.ch 0).rd.holder = true ∧ (laddered 11).inStep none = false ∧
    (h.cw 0 F.RTY_CTL_STEP_EN 0x800).nextStep 0 w 2 = some 12 ∧ (h.cw 0 F.RTY_CTL_STEP_EN 0).nextStep 0 w 2 = none ∧
    bitAt ((h.cw 0 F.RTY_CTL_STEP_EN 0x800).cr 0 F.RTY_CTL_STEP_EN) 11 = true := by decide +kernel

/-- Every attempt to decode has one of the two outcomes. -/
theorem witness_LanesLoopsAndTheRetryLadder_attempt (s : State) (x : ClusterRead) :
    (∃ f d v, s.tryDecode 0 x = (some (f, d), v)) ∨ ∃ v, s.tryDecode 0 x = (none, v) := by
  rcases h : s.tryDecode 0 x with ⟨_ | ⟨f, d⟩, v⟩
  · exact .inr ⟨v, rfl⟩
  · exact .inl ⟨f, d, v, rfl⟩

theorem witness_SlotsFollowTheirCommandsAndEvents :
    let m := fun v => mounted.cw 0 (F.SLT_STATE_MODE 0) v
    let o := mounted.wrs 1 [(F.SLT_STATE_MODE 3, 1)]
    mounted.reach .host 1 (sltPage 6) = .open_ ∧ 0x200 ≤ 0x418 ∧ 0x4FC < 0x500 ∧ regFields 1 (sltPage 0) 0x418 ≠ [] ∧ hasFf 0 = true ∧ hasFf 2 = false ∧
    (m 1).mode 0 0 = 1 ∧ (m 4).mode 0 0 = 4 ∧ commanded 3 4 = true ∧ commanded 3 2 = false ∧ (mounted.cw 0 F.CLE_CTL 0).cr 0 F.CLE_CTL = 0 ∧
    mounted.cr 0 F.CLE_CTL ≠ 0 ∧ mounted.cr 0 (F.SLT_STATE_SEQ 0) ≠ 1 ∧ (mounted.cw 0 (F.SLT_STATE_SEQ 0) 1).cr 0 (F.SLT_STATE_SEQ 0) = 1 ∧
    mounted.swept 0 0 = false ∧ (mounted.ch 0).wr.session = .idle ∧ (m 2).mode 0 0 = 2 ∧ mounted.mode 0 0 = 3 ∧ (m 1).mode 0 0 ≠ 3 ∧
    (mounted.slt 0 0).binOk = false ∧ mounted.reach .host 1 0x08 = .open_ ∧ State.reset.alive 0 = false ∧ mounted.alive 0 = true ∧
    (mounted.ch 0).fence = 0 ∧ mounted.sec.activating = none ∧ (mounted.cw 0 F.CLE_STS_FAULT 1).cr 0 F.CLE_STS_FAULT = 1 ∧ mounted.running 1 0x08 = true ∧
    o.running 1 (sltPage 3) = true ∧ mounted.cr 0 F.CLE_STS_FAULT ≠ 1 ∧ 2 ≤ (3 : Fin 7).val ∧ (3 : Fin 7).val ≤ 5 ∧ o.mode 0 3 ≤ 1 ∧
    (o.slt 0 3).cmd = none ∧ o.cr 0 (F.HDR_SET_STS_PENDING (sltPage 3)) = 0 ∧ SMap.get o.groups (chRg 0) [] = [] ∧ (o.ch 0).servo.defect = none ∧
    (o.ch 0).servo.sweep = none ∧ o.cr 0 (F.SLT_SLEW 3) = 0 ∧ o.q21 0 (F.SLT_OLIM_LO 3) ≤ o.q21 0 (F.SLT_MANUAL 3) ∧
    o.q21 0 (F.SLT_MANUAL 3) ≤ o.q21 0 (F.SLT_OLIM_HI 3) := by decide +kernel

theorem witness_JumpsAndSweepsRunTheirSequences :
    let j : Jump := ⟨0, 1, 0, .settle, 0, 0, 0, 0, 0⟩
    let jp := (mountedWith fun x => { x with servo := { x.servo with jump := some j, tjump := some j } }).wrs 1
      [(F.SLT_STATE_MODE 0, 1), (F.SLT_STATE_MODE 1, 1), (F.SLT_STATE_MODE 3, 4)]
    let w : Sweep := ⟨6, none, 0, 0, 0, 0, 0, 0⟩
    31 < 32 ∧ mounted.reach .host 1 0x08 = .open_ ∧ (jp.ch 0).servo.jump = some j ∧ jp.mode 0 0 = 1 ∧ jp.mode 0 0 ≠ 3 ∧
    (mounted.ch 0).servo.jump = none ∧ mounted.mode 0 0 = 3 ∧ mounted.layerNow 0 ≠ 31 ∧ mounted.layerNow 0 = 0 ∧ (mounted.ch 0).wr.session = .idle ∧
    jp.mode 0 3 = 4 ∧ (0 : BitVec 7).toInt = 0 ∧ (64 : BitVec 7).toInt = -64 ∧ (63 : BitVec 7).toInt = 63 ∧ (65 : BitVec 7).toInt = -63 ∧
    (mounted.ch 0).servo.tjump = none ∧ mounted.mode 0 1 = 3 ∧ (jp.ch 0).servo.tjump = some j ∧ jp.mode 0 1 = 1 ∧
    mounted.sweepOk 0 (mounted.cr 0 F.CLE_SWEEP_CTL_SLOT) = false ∧
    (mounted.wrs 1 [(F.CLE_SWEEP_CTL_SLOT, 6), (F.SLT_STATE_MODE 6, 1)]).sweepOk 0
      ((mounted.wrs 1 [(F.CLE_SWEEP_CTL_SLOT, 6), (F.SLT_STATE_MODE 6, 1)]).cr 0 F.CLE_SWEEP_CTL_SLOT) = true ∧
    (mounted.ch 0).servo.sweep = none ∧ ((mountedWith fun x => { x with servo := { x.servo with sweep := some w } }).ch 0).servo.sweep = some w ∧
    w.cmd = none ∧ w.slot < 7 := by decide +kernel

theorem witness_TheSpindleMovesThroughItsStates :
    let s := fun v => mounted.cw 0 F.SPN_STS_STATE v
    let off := ((s 0).wrs 1 [(F.SPN_I_FS, 1), (F.SPN_KE, 1), (F.SPN_MOTOR_R_PH, 1), (F.SPN_VBUS, 1200)])
    let lk := (s 4).modSpin 0 fun x => { x with rate := 14400000, lockTurn := 131072 }
    let o : PwmObs := ⟨1350, (0, 0), 0, 0, 0, 0, (0, 0, 0), false⟩
    mounted.reach .host 1 0x10 = .open_ ∧ (mountedWith fun x => { x with powered := false }).reach .firmware 1 0x10 = .open_ ∧
    (mountedWith fun x => { x with powered := false }).alive 0 = false ∧ mounted.alive 0 = true ∧ off.spinSt 0 = 0 ∧ off.cr 0 F.CLE_CTL ≠ 0 ∧
    off.cr 0 F.SPN_I_FS ≠ 0 ∧ off.cr 0 F.SPN_KE ≠ 0 ∧ off.cr 0 F.SPN_MOTOR_R_PH ≠ 0 ∧ off.vbusOk 0 = true ∧
    [1, 2, 3, 4, 5, 7, 8].map (fun v => (s v).spinSt 0) = [1, 2, 3, 4, 5, 7, 8] ∧ mounted.spinSt 0 = 6 ∧ (s 8).spinCauseGone 0 = true ∧
    ((s 8).wrs 1 [(F.SPN_STS_CAUSE, 2), (F.SPN_VBUS, 0)]).spinCauseGone 0 = false ∧ 3 < 4 ∧ 59 < 60 ∧ 4 ≤ 4 ∧ 60 ≤ 60 ∧ 300 ≤ 300 ∧
    (mounted.cw 0 (F.SLT_STATE_MODE 6) 1).mode 0 6 = 1 ∧ (mounted.cw 0 F.SPN_STS_VLIM 1).cr 0 F.SPN_STS_VLIM = 1 ∧
    ((mountedWith fun x => { x with spin := { x.spin with failing := true } }).ch 0).spin.failing = true ∧ mounted.cr 0 F.SPN_STS_CHOP_FAULT ≠ 1 ∧
    mounted.cr 0 F.SPN_STS_CHOP_ON = 0 ∧ (mounted.cw 0 F.SPN_STS_CHOP_ON 1).cr 0 F.SPN_STS_CHOP_ON ≠ 0 ∧ 47 < 48 ∧ 48 ≤ 48 ∧ 479 < 480 ∧ 480 ≤ 480 ∧
    480000 * (4 - 1) / (6 * 4000) = 60 ∧ 480000 * (4 - 1) / (6 * 800) = 300 ∧ (lk.ch 0).spin.rate = 14400000 ∧ (lk.ch 0).spin.lockTurn = 131072 ∧
    lk.spinSt 0 = 4 ∧ ((s 4).ch 0).spin.rate < 14400000 ∧ ((s 4).ch 0).spin.lockTurn < 131072 ∧ ((s 2).ch 0).spin.slow = false ∧
    ((mountedWith fun x => { x with spin := { x.spin with slow := true } }).ch 0).spin.slow = true ∧
    (off.modServo 0 fun v => { v with respin := true }).vbusOk 0 = true ∧ (mounted.ch 0).servo.respin = false ∧ (mounted.ch 0).st ≠ .bivouac ∧
    (s 8).spinSt 0 ≠ 2 ∧ ((s 6).ch 0).spin.spN < 7 ∧ ((s 6).ch 0).spin.noSample < 479 ∧
    mounted.running 1 0x10 = true ∧ 10 * mounted.cr 0 F.SPN_VBUS_UV ≤ o.vbus ∧ 10 * mounted.cr 0 F.SPN_VBUS_THR_CHOP_OFF < o.vbus ∧
    o.vbus < 10 * mounted.cr 0 F.SPN_VBUS_THR_CHOP_ON ∧ o.shunt = (0, 0) := by decide +kernel

theorem witness_TheSledMovesStopsHomesAndFollows :
    let s := fun v => mounted.cw 0 F.SLD_STS_STATE v
    let mv := (s 1).wrs 1 [(F.SLD_STS_HOMED, 1), (F.SLD_SEG_A_DUR 63, 1), (F.SLD_LIM_HI, 100)]
    let sled := fun v f => (s v).modCh 0 fun x => { x with sled := f x.sled }
    mounted.reach .host 1 0x11 = .open_ ∧ mounted.alive 0 = true ∧ (mountedWith fun x => { x with powered := false }).alive 0 = false ∧
    (mountedWith fun x => { x with powered := false }).reach .firmware 1 0x11 = .open_ ∧ 63 < 64 ∧ mv.moveBar 0 0 63 ≠ 0 ∧ mv.moveBar 0 63 63 = 0 ∧
    [0, 1, 2, 3, 4, 5, 6].map (fun v => (s v).sledSt 0) = [0, 1, 2, 3, 4, 5, 6] ∧ (mv.cw 0 F.SLD_STS_STATE 2).moveBar 0 63 63 = 0 ∧
    ((sled 2 fun x => { x with succ := some (0, 1) }).ch 0).sled.succ = some (0, 1) ∧ (mounted.cw 0 (F.SLT_STATE_MODE 2) 3).mode 0 2 = 3 ∧
    mounted.mode 0 2 ≠ 3 ∧ (toSigned 16 (mounted.cr 0 F.SLD_I_MEAS_IA)).natAbs < mounted.cr 0 F.SLD_OC_THR ∧
    (toSigned 16 (mounted.cr 0 F.SLD_I_MEAS_IB)).natAbs < mounted.cr 0 F.SLD_OC_THR ∧
    ¬ (toSigned 16 ((mounted.cw 0 F.SLD_I_MEAS_IA 0x7FFF).cr 0 F.SLD_I_MEAS_IA)).natAbs < mounted.cr 0 F.SLD_OC_THR ∧
    ((s 2).ch 0).sled.succ = none ∧ toSigned 16 ((s 2).cr 0 (F.SLD_SEG_A_END_VEL 0)) = 0 ∧
    toSigned 16 (((s 2).cw 0 (F.SLD_SEG_A_END_VEL 0) 1).cr 0 (F.SLD_SEG_A_END_VEL 0)) ≠ 0 ∧ ((s 3).ch 0).sled.stop = .stop ∧
    ((sled 3 fun x => { x with stop := .home, home := .turn }).ch 0).sled.stop = .home ∧
    ((sled 4 fun x => { x with home := .seek }).ch 0).sled.home = .seek ∧ ((sled 4 fun x => { x with home := .back }).ch 0).sled.home = .back ∧
    ((s 4).ch 0).sled.home = .leave ∧ mounted.running 1 0x11 = true ∧
    (mounted.ch 0).st ≠ .bivouac ∧ mounted.cr 0 F.SLD_OC_THR < (32767 : Int).natAbs ∧ (0 : Int).natAbs ≤ mounted.cr 0 F.SLD_OC_THR ∧
    mounted.decel 0 < ((sled 3 fun x => { x with vel := 2 ^ 60 }).ch 0).sled.vel.natAbs := by decide +kernel

theorem witness_GenerationsAreFormedAndAppliedWhole :
    let v := mounted.wrs 1 [(F.CAL_SET_VALID, 31), (F.CAL_TEMP_NOW, 496), (F.CAL_CTL_EN, 1)]
    let d := v.modCal 0 fun x => { x with due := true }
    let g : CalGen := ⟨false, false, none, none, none, none⟩
    v.cr 0 F.CAL_CTL_EN ≠ 0 ∧ v.cr 0 F.CAL_CTL_HOLD ≠ 1 ∧ v.cr 0 F.CAL_SET_VALID ≠ 0 ∧ v.cr 0 F.CAL_STS_TEMP_BAD ≠ 1 ∧ v.alive 0 = true ∧
    mounted.cr 0 F.CAL_SET_VALID = 0 ∧ mounted.reach .host 1 0x50 = .open_ ∧ 31 < 32 ∧ v.cr 0 F.CAL_SET_VALID = 31 ∧
    (mounted.cw 0 F.CAL_PDELTA_IDX_AUTOINC 1).cr 0 F.CAL_PDELTA_IDX_AUTOINC = 1 ∧
    (mounted.cw 0 F.MON_PU_LIMITS_LO_CODE 1).cr 0 F.MON_PU_LIMITS_LO_CODE = 1 ∧
    ¬ ((mounted.cw 0 F.MON_PU_LIMITS_HI_CODE 4095).cr 0 F.MON_PU_LIMITS_HI_CODE < 4095) ∧ ((inSession .writing).ch 0).wr.session = .writing ∧
    16 * ((mounted.cw 0 F.WRC_STOP_CTL_PU_TMAX 70).cr 0 F.WRC_STOP_CTL_PU_TMAX : Int) < 1121 ∧
    v.cr 0 F.CAL_PERIOD_DELTA ≤ ((32767 : Int) - toSigned 16 (v.cr 0 F.CAL_TEMP_USED)).natAbs ∧ v.running 1 0x50 = true ∧ (v.ch 0).cal.gen = none ∧
    (v.ch 0).cal.due = false ∧ (d.ch 0).cal.due = true ∧ d.calPair 0 (toSigned 16 (d.cr 0 F.CAL_TEMP_NOW)) = some (1, 2, 96, 240) ∧
    d.cr 0 F.WOB_STS_ADIP_VALID ≠ 0 ∧ (d.cw 0 F.WOB_STS_ADIP_VALID 0).cr 0 F.WOB_STS_ADIP_VALID = 0 ∧ (List.replicate 10 4095).length = 10 ∧
    (mounted.ch 0).st ≠ .bivouac ∧ ((d.modCal 0 fun x => { x with gen := some g }).ch 0).cal.due = true ∧ ((v.modCal 0 fun x => { x with gen := some g }).ch 0).cal.gen = some g ∧ v.calBarred 0 = false ∧
    (writing fun w => { w with testRun := some ⟨0, 0, none, true⟩ }).calBarred 0 = true ∧
    (mounted.poisonWord 0 ((mounted.setBase 0 1 + 0x182000) / 8)).anyPoison 0 (mounted.setBase 0 1 + 0x182000) 0x74 = true := by decide +kernel

/-- Nothing is poisoned where no mark stands, whatever the range. -/
theorem witness_GenerationsAreFormedAndAppliedWhole_clean : mounted.calPoisoned 0 1 2 1 = false := by
  have h : ∀ w, mounted.poisoned 0 w = false := fun w => rfl
  simp [State.calPoisoned, State.anyPoison, h]

end Sys2Proof.Tests
end

section
/-! PROOF. Registers are reached by aligned 32-bit accesses only (R4): what the bus does with each access to an awake region. -/

namespace Sys2Proof.Machine
open Sys2Proof

/-! What a register read leaves of the output. -/

@[simp] theorem State.advance_out (s : State) (rg : Nat) (idx auto : Fld) : (s.advance rg idx auto).out = s.out := by
  unfold State.advance
  split
  · exact State.wrLegal_out ..
  · rfl

@[simp] theorem State.readAdvance_out (s : State) (rg page off : Nat) : (s.readAdvance rg page off).out = s.out := by
  unfold State.readAdvance
  split
  · split <;> simp
  · split
    · simp
    · split <;> simp

/-- A register read answers nothing itself, whatever it latches or advances (R5). -/
@[simp] theorem State.regRead_out (s : State) (rg page off : Nat) : (s.regRead rg page off).2.out = s.out := by
  unfold State.regRead
  split
  · rfl
  · dsimp only
    split
    · simp
    · rw [State.readAdvance_out]
      split <;> rfl

/-! Which accesses reach a register (R4), and how the two commands reach the bus. -/

theorem aligned32_of_aligned {addr size : Nat} (hs : size = 4) (ha : addr % 4 = 0) : aligned32 addr size = true := by
  simp [aligned32, hs, ha]

theorem aligned32_eq_false {addr size : Nat} (h : size ≠ 4 ∨ addr % 4 ≠ 0) : aligned32 addr size = false := by
  rcases h with hs | ha
  · simp [aligned32, hs]
  · simp [aligned32, ha]

theorem exec_registerRead (src : Src) (bar addr size : Nat) (s : State) :
    exec (.registerRead src bar addr size) s = .next (registerRead src bar addr size s) := rfl

theorem exec_registerWrite (src : Src) (bar addr size : Nat) (v : BitVec 64) (s : State) :
    exec (.registerWrite src bar addr size v) s = .next (registerWrite src bar addr size v s) := rfl

section Claimed
variable {s : State} {addr : Nat} (size : Nat) (hl : s.linkUp = true) (hc : s.claimed 2 addr = true)
include hl hc

theorem registerRead_host_of_claimed : registerRead .host 2 addr size s = s.busRead .host addr size := by
  simp [registerRead, hl, hc]

theorem registerWrite_host_of_claimed (v : BitVec 64) :
    registerWrite .host 2 addr size v s = s.busWrite .host addr size v.toNat := by
  simp [registerWrite, hl, hc]

end Claimed

section Open
variable {s : State} {src : Src} {addr size : Nat} (hr : s.reach src (addr / 0x100000) (addr / 0x1000 % 0x100) = .open_)
include hr

theorem State.busRead_open_of_aligned32 (h : aligned32 addr size = true) :
    s.busRead src addr size =
      (s.regRead (addr / 0x100000) (addr / 0x1000 % 0x100) (addr % 0x1000)).2.give src
        (leBytes 4 (s.regRead (addr / 0x100000) (addr / 0x1000 % 0x100) (addr % 0x1000)).1) := by
  simp [State.busRead, hr, h]

theorem State.busRead_open_of_not_aligned32 (h : aligned32 addr size = false) :
    s.busRead src addr size = s.give src (zeros size) := by
  simp [State.busRead, hr, h]

theorem State.busWrite_open_of_not_aligned32 (h : aligned32 addr size = false) (v : Nat) :
    s.busWrite src addr size v = s := by
  simp [State.busWrite, hr, h]

end Open

/-- Firmware inside the device is never behind the fence. -/
theorem State.reach_firmware (s : State) (rg page : Nat) : s.reach .firmware rg page = .open_ := rfl

theorem registerRead_firmware_of_not_aligned32 {addr size : Nat} (h : aligned32 addr size = false) (bar : Nat) (s : State) :
    registerRead .firmware bar addr size s = s := by
  have hb : s.busRead .firmware addr size = s := State.busRead_open_of_not_aligned32 (s.reach_firmware _ _) h
  simp [registerRead, hb]

theorem registerWrite_firmware_of_not_aligned32 {addr size : Nat} (h : aligned32 addr size = false) (bar : Nat) (v : BitVec 64)
    (s : State) :
    registerWrite .firmware bar addr size v s = s := by
  have hb : s.busWrite .firmware addr size v.toNat = s := State.busWrite_open_of_not_aligned32 (s.reach_firmware _ _) h _
  simp [registerWrite, hb]

/-- Settles O22: an aligned 32-bit access in an awake region is `regRead`, which leaves the output as it was; of any other, the bus
neither reads nor writes. -/
theorem otherSizesDoNotReachRegisters : Obligations.OtherSizesDoNotReachRegisters := by
  unfold Obligations.OtherSizesDoNotReachRegisters
  intro s addr size v hl hc hr
  simp only [exec_registerRead, exec_registerWrite, registerRead_host_of_claimed size hl hc, registerWrite_host_of_claimed size hl hc]
  constructor
  · intro hs ha
    refine ⟨_, rfl, ?_⟩
    rw [State.busRead_open_of_aligned32 hr (aligned32_of_aligned hs ha)]
    simp [State.give, State.answer]
  · intro h
    have hn := aligned32_eq_false h
    rw [State.busRead_open_of_not_aligned32 hr hn, State.busWrite_open_of_not_aligned32 hr hn,
      registerWrite_firmware_of_not_aligned32 hn, registerRead_firmware_of_not_aligned32 hn]
    exact ⟨rfl, rfl, rfl, rfl⟩

end Sys2Proof.Machine
end

section
/-! PROOF. The fences of a state, and every operation that leaves all of them as they are. A fence changes in three places only: where
one closes (`State.closeFence`), where a RESTORE ends (`State.svcLoaded`) and at PORST#. No operation below reaches one of these. -/

namespace Sys2Proof.Machine
open Sys2Proof

/-- The fence cause of every channel, 0 where its fence is open. -/
def State.fences (s : State) : Fin 16 → Nat := fun d => (s.ch d).fence

/-! Branches, folds and updates. -/

@[simp] theorem State.ite_fences (p : Prop) [Decidable p] (s t : State) :
    (if p then s else t).fences = if p then s.fences else t.fences :=
  apply_ite State.fences p s t

@[simp] theorem State.foldl_fences {α : Type} {g : State → α → State} (hg : ∀ x a, (g x a).fences = x.fences) (l : List α) (s : State) :
    (l.foldl g s).fences = s.fences := by
  induction l generalizing s with
  | nil => rfl
  | cons a l ih => rw [List.foldl_cons, ih, hg]

@[simp] theorem foldl_snd_fences {α β : Type} {g : β × State → α → β × State} (hg : ∀ x a, (g x a).2.fences = x.2.fences)
    (l : List α) (p : β × State) : (l.foldl g p).2.fences = p.2.fences := by
  induction l generalizing p with
  | nil => rfl
  | cons a l ih => rw [List.foldl_cons, ih, hg]

@[simp] theorem foldl_snd_snd_fences {α β γ : Type} {g : β × γ × State → α → β × γ × State}
    (hg : ∀ x a, (g x a).2.2.fences = x.2.2.fences) (l : List α) (p : β × γ × State) : (l.foldl g p).2.2.fences = p.2.2.fences := by
  induction l generalizing p with
  | nil => rfl
  | cons a l ih => rw [List.foldl_cons, ih, hg]

@[simp] theorem foldl_fst_fences {α β : Type} {g : State × β → α → State × β} (hg : ∀ x a, (g x a).1.fences = x.1.fences)
    (l : List α) (p : State × β) : (l.foldl g p).1.fences = p.1.fences := by
  induction l generalizing p with
  | nil => rfl
  | cons a l ih => rw [List.foldl_cons, ih, hg]

/-- A state made with the channels of `s` has the fences of `s`. -/
@[simp] theorem State.mk_fences (regs tbl latch flyHeld parity groups) (front : Front) (s : State) (dram poison) (sec : Security)
    (plat : Plat) (out free pending) :
    (State.mk regs tbl latch flyHeld parity groups front s.chans dram poison sec plat out free pending).fences = s.fences := by rfl

@[simp] theorem State.modCh_fences_eq {f : Chan → Chan} (hf : ∀ x, (f x).fence = x.fence) (s : State) (c : Fin 16) :
    (s.modCh c f).fences = s.fences := by
  funext d
  by_cases h : d = c
  · subst h; simp [State.fences, hf]
  · simp [State.fences, State.ch_modCh_ne s f h]

@[simp] theorem State.whileRunning_fences {f : State → State} (hf : ∀ x, (f x).fences = x.fences) (s : State) (rg page : Nat) :
    (s.whileRunning rg page f).fences = s.fences := by
  unfold State.whileRunning
  split
  · exact hf s
  · rfl

variable (s : State)

/-! Registers, channels and outputs. -/

@[simp] theorem State.wr_fences (rg f v) : (s.wr rg f v).fences = s.fences := by rfl
@[simp] theorem State.wrFly_fences (rg f v) : (s.wrFly rg f v).fences = s.fences := by rfl
@[simp] theorem State.pw_fences (f v) : (s.pw f v).fences = s.fences := by rfl
@[simp] theorem State.cw_fences (c f v) : (s.cw c f v).fences = s.fences := by rfl
@[simp] theorem State.incSat_fences (rg f n) : (s.incSat rg f n).fences = s.fences := by rfl
@[simp] theorem State.incWrap_fences (rg f n) : (s.incWrap rg f n).fences = s.fences := by rfl
@[simp] theorem State.wrLegal_fences (rg f v) : (s.wrLegal rg f v).fences = s.fences := by simp [State.wrLegal]
@[simp] theorem State.wrs_fences (rg l) : (s.wrs rg l).fences = s.fences := by simp [State.wrs]
@[simp] theorem State.tput_fences (t rg i v) : (s.tput t rg i v).fences = s.fences := by rfl
@[simp] theorem State.tclear_fences (t rg) : (s.tclear t rg).fences = s.fences := by rfl
@[simp] theorem State.resetFields_fences (rg p) : (s.resetFields rg p).fences = s.fences := by rfl
@[simp] theorem State.setSt_fences (c st) : (s.setSt c st).fences = s.fences := by simp [State.setSt]
@[simp] theorem State.draw_fences (w) : (s.draw w).2.fences = s.fences := by rfl
@[simp] theorem State.post_fences (o) : (s.post o).fences = s.fences := by simp [State.post]
@[simp] theorem State.lockCore_fences (c) : (s.lockCore c).fences = s.fences := by simp [State.lockCore]
@[simp] theorem State.answer_fences (o) : (s.answer o).fences = s.fences := by rfl
@[simp] theorem State.msix_fences (v) : (s.msix v).fences = s.fences := by simp [State.msix]

/-! Interrupts, errors, histograms and counters. -/

@[simp] theorem State.setIrqRaw_fences (rg page raw) : (s.setIrqRaw rg page raw).fences = s.fences := by simp [State.setIrqRaw]
@[simp] theorem State.traceEvent_fences (rg page bit) : (s.traceEvent rg page bit).fences = s.fences := by rfl
@[simp] theorem State.irq_fences (rg page bit) : (s.irq rg page bit).fences = s.fences := by simp [State.irq]
@[simp] theorem State.cirq_fences (c page bit) : (s.cirq c page bit).fences = s.fences := by simp [State.cirq]

@[simp] theorem State.err_fences (rg page ofs code info fly) : (s.err rg page ofs code info fly).fences = s.fences := by
  simp [State.err]

@[simp] theorem State.errOpen_fences (rg page ofs code) : (s.errOpen rg page ofs code).fences = s.fences := by simp [State.errOpen]
@[simp] theorem State.sample_fences (rg src v) : (s.sample rg src v).fences = s.fences := by simp [State.sample]
@[simp] theorem State.histClearBins_fences (rg src) : (s.histClearBins rg src).fences = s.fences := by simp [State.histClearBins]
@[simp] theorem State.histClearMM_fences (rg src) : (s.histClearMM rg src).fences = s.fences := by simp [State.histClearMM]
@[simp] theorem State.cntSaturated_fences (c i) : (s.cntSaturated c i).fences = s.fences := by simp [State.cntSaturated]
@[simp] theorem State.cnt_fences (c i n) : (s.cnt c i n).fences = s.fences := by simp [State.cnt]

/-! Channel DRAM. -/

@[simp] theorem State.poisonWord_fences (c w) : (s.poisonWord c w).fences = s.fences := by simp [State.poisonWord]
@[simp] theorem State.dramPut_fences (c a b) : (s.dramPut c a b).fences = s.fences := by rfl

@[simp] theorem State.dramPutList_fences (s : State) (c : Fin 16) (a : Nat) (bs : List (Option Byte)) :
    (s.dramPutList c a bs).fences = s.fences := by
  induction bs generalizing s a with
  | nil => rfl
  | cons b bs ih => cases b with
    | none => simp [State.dramPutList, ih]
    | some b => simp [State.dramPutList, ih]

@[simp] theorem State.dramWrite_fences (c a bs) : (s.dramWrite c a bs).fences = s.fences := by simp [State.dramWrite]
@[simp] theorem State.dramFill_fences (c) : (s.dramFill c).fences = s.fences := by rfl

/-! Command slots, events and data transfers. -/

@[simp] theorem State.modFront_fences (f) : (s.modFront f).fences = s.fences := by rfl
@[simp] theorem State.xoStart_fences : s.xoStart.fences = s.fences := by simp [State.xoStart]
@[simp] theorem State.wakeHost_fences : s.wakeHost.fences = s.fences := by rfl
@[simp] theorem State.startWake_fences (c src) : (s.startWake c src).fences = s.fences := by simp [State.startWake]
@[simp] theorem State.putSlot_fences (k c) : (s.putSlot k c).fences = s.fences := by rfl
@[simp] theorem State.freeSlot_fences (k) : (s.freeSlot k).fences = s.fences := by rfl
@[simp] theorem State.modSmart_fences (c f) : (s.modSmart c f).fences = s.fences := by unfold State.modSmart; split <;> simp

@[simp] theorem State.finish_fences (k st dw0 dw1) : (s.finish k st dw0 dw1).fences = s.fences := by
  simp only [State.finish]; (repeat' split) <;> simp

@[simp] theorem State.executing_fences (k) : (s.executing k).fences = s.fences := by unfold State.executing; split <;> simp
@[simp] theorem State.setFeat_fences (key v) : (s.setFeat key v).fences = s.fences := by rfl

@[simp] theorem State.pumpEvents_fences (s : State) (n : Nat) : (s.pumpEvents n).fences = s.fences := by
  induction n generalizing s with
  | zero => rfl
  | succ n ih => unfold State.pumpEvents; split <;> simp [ih]

@[simp] theorem State.event_fences (ty info log) : (s.event ty info log).fences = s.fences := by simp [State.event]
@[simp] theorem State.nsChanged_fences (c) : (s.nsChanged c).fences = s.fences := by simp [State.nsChanged]
@[simp] theorem State.setCfs_fences : s.setCfs.fences = s.fences := by simp [State.setCfs]
@[simp] theorem State.logLost_fences (c pcn lba reason) : (s.logLost c pcn lba reason).fences = s.fences := by simp [State.logLost]

@[simp] theorem State.xferErr_fences (k chan cause addr) : (s.xferErr k chan cause addr).fences = s.fences := by
  simp [State.xferErr]

@[simp] theorem State.refusePointer_fences (k c) : (s.refusePointer k c).fences = s.fences := by simp [State.refusePointer]

@[simp] theorem State.sendPiece_fences (c a data) : (s.sendPiece c a data).fences = s.fences := by
  simp only [State.sendPiece]; (repeat' split) <;> simp

@[simp] theorem State.sendData_fences (c ofs data) : (s.sendData c ofs data).fences = s.fences := by simp [State.sendData]
@[simp] theorem State.finishData_fences (k c data dw0) : (s.finishData k c data dw0).fences = s.fences := by simp [State.finishData]
@[simp] theorem State.issueRead_fences (t r) : (s.issueRead t r).fences = s.fences := by simp [State.issueRead]

@[simp] theorem State.pumpReads_fences (s : State) (n : Nat) : (s.pumpReads n).fences = s.fences := by
  induction n generalizing s with
  | zero => rfl
  | succ n ih => unfold State.pumpReads; dsimp only; split <;> simp [ih]

@[simp] theorem State.issueReads_fences : s.issueReads.fences = s.fences := by simp [State.issueReads]
@[simp] theorem State.dropReads_fences (k) : (s.dropReads k).fences = s.fences := by rfl

/-! Strategy tables. -/

@[simp] theorem State.modWr_fences (c f) : (s.modWr c f).fences = s.fences := by simp [State.modWr]
@[simp] theorem State.tpyFetch_fences (c layer) : (s.tpyFetch c layer).fences = s.fences := by simp [State.tpyFetch]
@[simp] theorem State.tpyBoundary_fences (c) : (s.tpyBoundary c).fences = s.fences := by unfold State.tpyBoundary; split <;> simp

/-! Page headers: swaps, gated writes, interrupts. -/

@[simp] theorem State.wakeFor_fences (rg page) : (s.wakeFor rg page).fences = s.fences := by unfold State.wakeFor; split <;> simp
@[simp] theorem State.stallAccess_fences (rg page a) : (s.stallAccess rg page a).fences = s.fences := by simp [State.stallAccess]
@[simp] theorem State.unmark_fences (rg page off fly) : (s.unmark rg page off fly).fences = s.fences := by rfl

@[simp] theorem State.gated_fences (src rg page off value) {eff : State → State} (h : ∀ x, (eff x).fences = x.fences) :
    (s.gated src rg page off value eff).fences = s.fences := by
  unfold State.gated; split <;> simp [h]

@[simp] theorem State.wrAct_fences (rg f v) : (s.wrAct rg f v).fences = s.fences := by unfold State.wrAct; split <;> simp
@[simp] theorem State.exchange_fences (rg page) : (s.exchange rg page).fences = s.fences := by simp [State.exchange]
@[simp] theorem State.swapDone_fences (rg page) : (s.swapDone rg page).fences = s.fences := by simp [State.swapDone]
@[simp] theorem State.swapRefused_fences (rg page cause) : (s.swapRefused rg page cause).fences = s.fences := by rfl

@[simp] theorem State.setReached_fences (rg page on) : (s.setReached rg page on).fences = s.fences := by
  unfold State.setReached; split <;> simp

@[simp] theorem State.evalSwap_fences (rg page) : (s.evalSwap rg page).fences = s.fences := by simp [State.evalSwap]
@[simp] theorem swapRequest_fences (rg page when_) : (swapRequest rg page when_ s).fences = s.fences := by simp [swapRequest]
@[simp] theorem State.evalGroup_fences (rg) : (s.evalGroup rg).fences = s.fences := by simp [State.evalGroup]
@[simp] theorem groupSwapRequest_fences (c when_) : (groupSwapRequest c when_ s).fences = s.fences := by simp [groupSwapRequest]
@[simp] theorem State.evalCal_fences (c) : (s.evalCal c).fences = s.fences := by simp [State.evalCal]
@[simp] theorem State.endSwap_fences (rg page cause) : (s.endSwap rg page cause).fences = s.fences := by simp [State.endSwap]

@[simp] theorem State.fetchFirst_fences (rg page) : (s.fetchFirst rg page).fences = s.fences := by
  unfold State.fetchFirst; split <;> simp

@[simp] theorem flysheetSwap_fences (rg page) : (flysheetSwap rg page s).fences = s.fences := by unfold flysheetSwap; split <;> simp

@[simp] theorem State.writeFields_fences (rg fs fly value) : (s.writeFields rg fs fly value).fences = s.fences := by
  refine State.foldl_fences (fun x f => ?_) fs s
  dsimp only; (repeat' split) <;> simp

@[simp] theorem State.flyWrite_fences (rg page off value) : (s.flyWrite rg page off value).fences = s.fences := by
  simp [State.flyWrite]

@[simp] theorem flysheetReloadDone_fences (rg page) : (flysheetReloadDone rg page s).fences = s.fences := by
  simp [flysheetReloadDone]

@[simp] theorem irqStatusClear_fences (rg page bits) : (irqStatusClear rg page bits s).fences = s.fences := by simp [irqStatusClear]

@[simp] theorem State.gatedIrq_fences (src rg page off value) {eff : State → State} (h : ∀ x, (eff x).fences = x.fences) :
    (s.gatedIrq src rg page off value eff).fences = s.fences := by
  unfold State.gatedIrq; split <;> simp [h]

@[simp] theorem irqTest_fences (rg page bits) : (irqTest rg page bits s).fences = s.fences := by simp [irqTest]

/-! Corrected words and scrubbing. -/

@[simp] theorem State.correctWord_fences (c word) : (s.correctWord c word).fences = s.fences := by simp [State.correctWord]
@[simp] theorem scrubGo_fences (c) : (scrubGo c s).fences = s.fences := by simp [scrubGo]

@[simp] theorem scrubAdvance_fences (c corrected upto) : (scrubAdvance c corrected upto s).fences = s.fences := by
  simp only [scrubAdvance]; (repeat' split) <;> simp

@[simp] theorem scrubEnd_fences (c stopped) : (scrubEnd c stopped s).fences = s.fences := by simp [scrubEnd]
@[simp] theorem scrubStop_fences (c) : (scrubStop c s).fences = s.fences := by simp [scrubStop]

/-! Queues, doorbells, fetch and completion. -/

@[simp] theorem State.putNvme_fences (off v) : (s.putNvme off v).fences = s.fences := by rfl
@[simp] theorem createCq_fences (k c) : (createCq s k c).fences = s.fences := by simp [createCq]
@[simp] theorem createSq_fences (k c) : (createSq s k c).fences = s.fences := by simp [createSq]
@[simp] theorem deleteCq_fences (k c) : (deleteCq s k c).fences = s.fences := by simp [deleteCq]
@[simp] theorem State.settleDelete_fences (k) : (s.settleDelete k).fences = s.fences := by unfold State.settleDelete; split <;> simp

@[simp] theorem State.settleDeletes_fences (q) : (s.settleDeletes q).fences = s.fences := by
  unfold State.settleDeletes; split <;> simp

@[simp] theorem State.requestCancel_fences (k why) : (s.requestCancel k why).fences = s.fences := by
  unfold State.requestCancel; split <;> simp

@[simp] theorem State.dropWaits_fences (k) : (s.dropWaits k).fences = s.fences := by simp [State.dropWaits]
@[simp] theorem deleteSq_fences (k c) : (deleteSq s k c).fences = s.fences := by simp [deleteSq]
@[simp] theorem abortCmd_fences (k c) : (abortCmd s k c).fences = s.fences := by simp only [abortCmd]; (repeat' split) <;> simp
@[simp] theorem aerCmd_fences (k) : (aerCmd s k).fences = s.fences := by simp [aerCmd]
@[simp] theorem State.badDoorbell_fences (info) : (s.badDoorbell info).fences = s.fences := by simp [State.badDoorbell]

@[simp] theorem sqDoorbell_fences (qid tail) : (sqDoorbell qid tail s).fences = s.fences := by
  simp only [sqDoorbell]; (repeat' split) <;> simp

@[simp] theorem cqDoorbell_fences (qid head) : (cqDoorbell qid head s).fences = s.fences := by
  simp only [cqDoorbell]; (repeat' split) <;> simp

@[simp] theorem commandFetch_fences (qid k entry lists) : (commandFetch qid k entry lists s).fences = s.fences := by
  simp only [commandFetch]; (repeat' split) <;> simp

@[simp] theorem State.cqInterrupt_fences (q admin) : (s.cqInterrupt q admin).fences = s.fences := by simp [State.cqInterrupt]

@[simp] theorem completionRecord_fences (k) : (completionRecord k s).fences = s.fences := by
  simp only [completionRecord]; (repeat' split) <;> simp

@[simp] theorem coalescingExpiry_fences (v) : (coalescingExpiry v s).fences = s.fences := by simp [coalescingExpiry]

@[simp] theorem State.cancelSettled_fences (k c why cancelled) : (s.cancelSettled k c why cancelled).fences = s.fences := by
  simp only [State.cancelSettled]; (repeat' split) <;> simp

@[simp] theorem cancelAnswer_fences (k) : (cancelAnswer k s).fences = s.fences := by
  simp only [cancelAnswer]; (repeat' split) <;> simp

/-! Firmware slots and boot. -/

@[simp] theorem State.modSec_fences (f) : (s.modSec f).fences = s.fences := by rfl
@[simp] theorem State.flashPut_fences (a bs) : (s.flashPut a bs).fences = s.fences := by rfl
@[simp] theorem State.flashErase_fences (a n) : (s.flashErase a n).fences = s.fences := by rfl
@[simp] theorem State.showTable_fences (t) : (s.showTable t).fences = s.fences := by rfl
@[simp] theorem State.putTable_fences (t) : (s.putTable t).fences = s.fences := by rfl

@[simp] theorem State.verifySlot_fences (i) : (s.verifySlot i).2.fences = s.fences := by
  unfold State.verifySlot; dsimp only; split <;> simp

@[simp] theorem State.runBundle_fences (i b) : (s.runBundle i b).fences = s.fences := by rfl
@[simp] theorem State.trialCleared_fences : s.trialCleared.fences = s.fences := by simp only [State.trialCleared]; split <;> simp

@[simp] theorem bootTry_fences (is tried : List Nat) (s : State) : (bootTry is tried s).2.fences = s.fences := by
  induction is generalizing tried s with
  | nil => rfl
  | cons a l ih =>
    unfold bootTry; split
    · exact ih _ _
    · dsimp only; split <;> simp [ih]

@[simp] theorem bootVerify_fences : (bootVerify s).fences = s.fences := by
  unfold bootVerify; split
  · rfl
  · dsimp only; split <;> simp

@[simp] theorem firmwareDownload_fences (k c data) : (firmwareDownload s k c data).fences = s.fences := by simp [firmwareDownload]

@[simp] theorem State.replaceSlot_fences (i) : (s.replaceSlot i).2.fences = s.fences := by
  unfold State.replaceSlot; (repeat' split) <;> simp

@[simp] theorem State.commitDone_fences (k st) : (s.commitDone k st).fences = s.fences := by simp [State.commitDone]

@[simp] theorem commitReplace_fences (k c thenActivate) : (commitReplace s k c thenActivate).fences = s.fences := by
  simp [commitReplace]

@[simp] theorem commitAtReset_fences (k c) : (commitAtReset s k c).fences = s.fences := by
  simp only [commitAtReset]; (repeat' split) <;> simp

/-! Archive keys and the debug port. -/

@[simp] theorem State.showKeys_fences : s.showKeys.fences = s.fences := by rfl

@[simp] theorem keyLoad_fences (k c data) : (keyLoad s k c data).fences = s.fences := by
  simp only [keyLoad]; (repeat' split) <;> simp

@[simp] theorem keyDiscard_fences (k c) : (keyDiscard s k c).fences = s.fences := by simp [keyDiscard]
@[simp] theorem keyList_fences (k c) : (keyList s k c).fences = s.fences := by simp [keyList]
@[simp] theorem State.drawRandom_fences (n) : (s.drawRandom n).2.fences = s.fences := by rfl
@[simp] theorem State.showChallenge_fences (b) : (s.showChallenge b).fences = s.fences := by rfl
@[simp] theorem newChallenge_fences : (newChallenge s).fences = s.fences := by simp [newChallenge]
@[simp] theorem dropChallenge_fences : (dropChallenge s).fences = s.fences := by simp [dropChallenge]

/-! Operands of the lanes. -/

@[simp] theorem State.putQ_fences (c f x) : (s.putQ c f x).fences = s.fences := by rfl

/-! Lanes. -/

@[simp] theorem State.modRd_fences (c f) : (s.modRd c f).fences = s.fences := by simp [State.modRd]
@[simp] theorem State.modLoops_fences (c l f) : (s.modLoops c l f).fences = s.fences := by simp [State.modLoops]
@[simp] theorem State.modLane_fences (c l f) : (s.modLane c l f).fences = s.fences := by simp [State.modLane]
@[simp] theorem State.putCoef_fences (c l set t v) : (s.putCoef c l set t v).fences = s.fences := by simp [State.putCoef]
@[simp] theorem State.showCorr_fences (c l) : (s.showCorr c l).fences = s.fences := by rfl
@[simp] theorem State.showAfe_fences (c l) : (s.showAfe c l).fences = s.fences := by rfl
@[simp] theorem State.loadLane_fences (c l b) : (s.loadLane c l b).fences = s.fences := by simp [State.loadLane]
@[simp] theorem State.zoneDue_fences (c l) : (s.zoneDue c l).fences = s.fences := by unfold State.zoneDue; split <;> simp
@[simp] theorem State.frameBoundary_fences (c l) : (s.frameBoundary c l).fences = s.fences := by simp [State.frameBoundary]
@[simp] theorem State.laneSts_fences (c l sync k) : (s.laneSts c l sync k).fences = s.fences := by rfl

/-! The map and its cache. -/

@[simp] theorem State.modMap_fences (c f) : (s.modMap c f).fences = s.fences := by simp [State.modMap]
@[simp] theorem State.evictOne_fences (c) : (s.evictOne c).fences = s.fences := by unfold State.evictOne; split <;> simp
@[simp] theorem State.evict_fences (c e) : (s.evict c e).fences = s.fences := by simp [State.evict]
@[simp] theorem State.evictAll_fences (c) : (s.evictAll c).fences = s.fences := by simp [State.evictAll]

@[simp] theorem State.dropSlot_fences (c i) : (s.dropSlot c i).fences = s.fences := by
  simp only [State.dropSlot]; (repeat' split) <;> simp

@[simp] theorem State.ltcRangeInv_fences (c a n) : (s.ltcRangeInv c a n).fences = s.fences := by simp [State.ltcRangeInv]

@[simp] theorem State.saveDirty_fences (c a n) : (s.saveDirty c a n).fences = s.fences :=
  State.foldl_fences (fun x i => by split <;> simp) _ s

@[simp] theorem State.ltcAddrInv_fences (c lba) : (s.ltcAddrInv c lba).fences = s.fences := by simp [State.ltcAddrInv]

@[simp] theorem State.ltcInsert_fences (c e) : (s.ltcInsert c e).fences = s.fences := by
  simp only [State.ltcInsert]; (repeat' split) <;> simp

@[simp] theorem State.ltcHit_fences (c lba) : (s.ltcHit c lba).fences = s.fences := by simp [State.ltcHit]

@[simp] theorem State.lookup_fences (c l) : (s.lookup c l).2.fences = s.fences := by
  simp only [State.lookup]; (repeat' split) <;> simp

theorem State.lookup_fences_of_eq {s t : State} {c l o} (h : s.lookup c l = (o, t)) : t.fences = s.fences := by
  simpa [h] using s.lookup_fences c l

@[simp] theorem State.fill_fences (c lba stream) : (s.fill c lba stream).fences = s.fences := by simp [State.fill]
@[simp] theorem State.mapUpdate_fences (c e) : (s.mapUpdate c e).fences = s.fences := by simp [State.mapUpdate]
@[simp] theorem State.setLost_fences (c lba) : (s.setLost c lba).fences = s.fences := by unfold State.setLost; split <;> simp
@[simp] theorem State.writeBackAll_fences (c) : (s.writeBackAll c).fences = s.fences := by simp [State.writeBackAll]
@[simp] theorem State.ltcClear_fences (c) : (s.ltcClear c).fences = s.fences := by simp [State.ltcClear]
@[simp] theorem invGo_fences (c range) : (invGo c range s).fences = s.fences := by simp [invGo]

/-! Writing. -/

@[simp] theorem State.modDisc_fences (c f) : (s.modDisc c f).fences = s.fences := by simp [State.modDisc]
@[simp] theorem State.modLdi_fences (c f) : (s.modLdi c f).fences = s.fences := by simp [State.modLdi]

@[simp] theorem State.laserPump_fences (c) : (s.laserPump c).fences = s.fences := by
  simp only [State.laserPump]; (repeat' split) <;> simp

@[simp] theorem State.laserQueue_fences (c t) : (s.laserQueue c t).fences = s.fences := by simp [State.laserQueue]
@[simp] theorem State.laser_fences (c rd addr data) : (s.laser c rd addr data).fences = s.fences := by simp [State.laser]
@[simp] theorem State.sendReadLevels_fences (c) : (s.sendReadLevels c).fences = s.fences := by simp [State.sendReadLevels]
@[simp] theorem State.stageLevels_fences (c ls) : (s.stageLevels c ls).fences = s.fences := by simp [State.stageLevels]
@[simp] theorem State.commitLevels_fences (c) : (s.commitLevels c).fences = s.fences := by simp [State.commitLevels]
@[simp] theorem State.levelsFor_fences (c pcn) : (s.levelsFor c pcn).fences = s.fences := by simp [State.levelsFor]
@[simp] theorem State.emitGates_fences (c pcn frames) : (s.emitGates c pcn frames).fences = s.fences := by simp [State.emitGates]
@[simp] theorem State.endGates_fences (c pcn) : (s.endGates c pcn).fences = s.fences := by simp [State.endGates]

@[simp] theorem State.returnUnbegun_fences (c) : (s.returnUnbegun c).fences = s.fences := by
  simp only [State.returnUnbegun]; split <;> simp

@[simp] theorem State.setSession_fences (c x) : (s.setSession c x).fences = s.fences := by simp [State.setSession]
@[simp] theorem State.endAtBoundary_fences (c) : (s.endAtBoundary c).fences = s.fences := by simp [State.endAtBoundary]

@[simp] theorem State.writeArea_fences (s : State) (c : Fin 16) (pcn : Nat) (ks : List Content) (b : Bool) :
    (s.writeArea c pcn ks b).fences = s.fences := by
  induction ks generalizing s pcn b with
  | nil => rfl
  | cons a l ih => simp [State.writeArea, ih]

@[simp] theorem State.writeRecords_fences (c pcn ks) : (s.writeRecords c pcn ks).fences = s.fences := by simp [State.writeRecords]

@[simp] theorem State.putAnchor_fences (c reason k) : (s.putAnchor c reason k).fences = s.fences := by
  unfold State.putAnchor; split <;> simp

@[simp] theorem State.slipAnchor_fences (c) : (s.slipAnchor c).fences = s.fences := by unfold State.slipAnchor; split <;> simp
@[simp] theorem State.slipAnchors_fences (c) : (s.slipAnchors c).fences = s.fences := by simp [State.slipAnchors]
@[simp] theorem State.writeAnchor_fences (c reason k) : (s.writeAnchor c reason k).fences = s.fences := by simp [State.writeAnchor]
@[simp] theorem State.showDisc_fences (c) : (s.showDisc c).fences = s.fences := by unfold State.showDisc; split <;> simp
@[simp] theorem State.addSlips_fences (c ps) : (s.addSlips c ps).fences = s.fences := by unfold State.addSlips; split <;> simp

@[simp] theorem State.writeIdentity_fences (c) : (s.writeIdentity c).fences = s.fences := by
  simp only [State.writeIdentity]; (repeat' split) <;> simp

@[simp] theorem State.putRecords_fences (c) : (s.putRecords c).fences = s.fences := by unfold State.putRecords; split <;> simp

@[simp] theorem drawKey_fences (n : Nat) (s : State) : (drawKey n s).2.2.fences = s.fences := by
  induction n generalizing s with
  | zero => rfl
  | succ n ih => unfold drawKey; dsimp only; split <;> simp [ih]

@[simp] theorem State.makeKey_fences (c) : (s.makeKey c).fences = s.fences := by simp only [State.makeKey]; (repeat' split) <;> simp
@[simp] theorem State.freeBytes_fences (n) : (s.freeBytes n).2.fences = s.fences := by rfl
@[simp] theorem State.takePoisoned_fences (c d b) : (s.takePoisoned c d b).fences = s.fences := by simp [State.takePoisoned]
@[simp] theorem State.codeStaged_fences (c d b) : (s.codeStaged c d b).fences = s.fences := by simp [State.codeStaged]
@[simp] theorem State.takeBlock_fences (c d b) : (s.takeBlock c d b).fences = s.fences := by simp [State.takeBlock]

@[simp] theorem assembleLoop_fences (c : Fin 16) (d : Disc) (had n : Nat) (s : State) :
    (assembleLoop c d had n s).fences = s.fences := by
  induction n generalizing s with
  | zero => rfl
  | succ n ih =>
    unfold assembleLoop; dsimp only; split
    · rfl
    · split <;> simp [ih]

@[simp] theorem assemble_fences (c) : (assemble c s).fences = s.fences := by simp only [assemble]; (repeat' split) <;> simp

theorem State.commitNext_fences {s t : State} {c link} (h : s.commitNext c link = some t) : t.fences = s.fences := by
  unfold State.commitNext at h; dsimp only at h; split at h
  · simp at h
  · split at h
    · simp at h
    · cases h; simp

@[simp] theorem State.begin_fences (c p) : (s.begin_ c p).fences = s.fences := by simp [State.begin_]

@[simp] theorem State.commitBehind_fences (c) : (s.commitBehind c).fences = s.fences := by
  unfold State.commitBehind; split
  · next h => exact State.commitNext_fences h
  · simp

@[simp] theorem State.assertKill_fences (c why) : (s.assertKill c why).fences = s.fences := by simp [State.assertKill]
@[simp] theorem State.showKill_fences (c) : (s.showKill c).fences = s.fences := by simp [State.showKill]
@[simp] theorem State.quality_fences (c i) : (s.quality c i).fences = s.fences := by simp [State.quality]

@[simp] theorem State.finishStop_fences (c row code safety) : (s.finishStop c row code safety).fences = s.fences := by
  simp only [State.finishStop]; split <;> simp

@[simp] theorem State.orderlyStop_fences (c code) : (s.orderlyStop c code).fences = s.fences := by simp [State.orderlyStop]
@[simp] theorem State.safetyStop_fences (c row code) : (s.safetyStop c row code).fences = s.fences := by simp [State.safetyStop]
@[simp] theorem State.boundary_fences (c p) : (s.boundary c p).fences = s.fences := by simp [State.boundary]
@[simp] theorem commitment_fences (c) : (commitment c s).fences = s.fences := by simp only [commitment]; (repeat' split) <;> simp
@[simp] theorem State.shed_fences : s.shed.fences = s.fences := by simp [State.shed]

@[simp] theorem sessionStart_fences (c) : (sessionStart c s).fences = s.fences := by
  unfold sessionStart; extract_lets w; split
  · rfl
  · extract_lets s1 p s2 s3 s4
    have h4 : s4.fences = s.fences := by simp [s4, s3, s2, s1]
    split
    · rfl
    · split
      · simp [s1]
      · split
        · next h => simp [State.commitNext_fences h, h4]
        · exact h4

@[simp] theorem State.commitBlocks_fences (c ids) : (s.commitBlocks c ids).fences = s.fences := by
  unfold State.commitBlocks; dsimp only
  simp only [State.modSmart_fences, State.cnt_fences, State.modWr_fences]
  split
  · rfl
  · rw [State.foldl_fences (fun x b => by split <;> simp)]; simp

@[simp] theorem State.clusterStands_fences (c p) : (s.clusterStands c p).fences = s.fences := by simp [State.clusterStands]
@[simp] theorem State.showVerdict_fences (c p mqs) : (s.showVerdict c p mqs).2.fences = s.fences := by simp [State.showVerdict]
@[simp] theorem State.replace_fences (c p rest) : (s.replace c p rest).fences = s.fences := by simp [State.replace]
@[simp] theorem State.standWeak_fences (c p low) : (s.standWeak c p low).fences = s.fences := by simp [State.standWeak]

@[simp] theorem verdict_fences (c signals) : (verdict c signals s).fences = s.fences := by
  simp only [verdict]; (repeat' split) <;> simp

@[simp] theorem State.startCheckpoint_fences (c reason) : (s.startCheckpoint c reason).fences = s.fences := by
  simp only [State.startCheckpoint]; (repeat' split) <;> simp

@[simp] theorem State.ckptAdvance_fences (c) : (s.ckptAdvance c).fences = s.fences := by unfold State.ckptAdvance; split <;> simp
@[simp] theorem checkpointDone_fences (c) : (checkpointDone c s).fences = s.fences := by unfold checkpointDone; split <;> simp

/-! Reading. -/

@[simp] theorem State.modCmd_fences (c k f) : (s.modCmd c k f).fences = s.fences := by simp [State.modCmd]

@[simp] theorem State.resolve_fences (c q stream fresh lba) : (s.resolve c q stream fresh lba).2.fences = s.fences := by
  unfold State.resolve; (repeat' split) <;> try rfl
  all_goals next h => exact State.lookup_fences_of_eq h

@[simp] theorem State.resolveAll_fences (c q fresh) : (s.resolveAll c q fresh).fences = s.fences := by simp [State.resolveAll]
@[simp] theorem State.setTarget_fences (c k lba t) : (s.setTarget c k lba t).fences = s.fences := by simp [State.setTarget]

@[simp] theorem State.deliver_fences (c q lba data) : (s.deliver c q lba data).fences = s.fences := by
  unfold State.deliver; split <;> simp

@[simp] theorem State.serveNow_fences (c k) : (s.serveNow c k).fences = s.fences := by
  unfold State.serveNow; split
  · rfl
  · exact State.foldl_fences (fun x e => by dsimp only; (repeat' split) <;> simp) _ s

@[simp] theorem State.pushOp_fences (c k first count) : (s.pushOp c k first count).fences = s.fences := by simp [State.pushOp]
@[simp] theorem State.queueOp_fences (c k first count) : (s.queueOp c k first count).fences = s.fences := by simp [State.queueOp]
@[simp] theorem State.issueOps_fences (c k) : (s.issueOps c k).fences = s.fences := by unfold State.issueOps; split <;> simp
@[simp] theorem State.huntLane_fences (c l target) : (s.huntLane c l target).fences = s.fences := by simp [State.huntLane]
@[simp] theorem State.hunt_fences (c pcn) : (s.hunt c pcn).fences = s.fences := by simp [State.hunt]
@[simp] theorem State.rehunt_fences (c) : (s.rehunt c).fences = s.fences := by simp [State.rehunt]

@[simp] theorem State.ladderRest_fences (c) : (s.ladderRest c).fences = s.fences := by
  have put (x : State) (f : Fld) (o : Option Nat) : (o.elim x (x.cw c f)).fences = x.fences := by cases o <;> simp
  unfold State.ladderRest; dsimp only; split
  · rfl
  · simp [put]

@[simp] theorem State.speedCmd_fences (c rpm) : (s.speedCmd c rpm).fences = s.fences := by simp [State.speedCmd]
@[simp] theorem State.fullSpeed_fences (c) : (s.fullSpeed c).fences = s.fences := by simp [State.fullSpeed]

@[simp] theorem State.ladderMech_fences (c i left shift) : (s.ladderMech c i left shift).fences = s.fences := by
  simp [State.ladderMech]

@[simp] theorem State.trimOps_fences (c) : (s.trimOps c).fences = s.fences := by simp [State.trimOps]

@[simp] theorem State.finishRead_fences (c k) : (s.finishRead c k).fences = s.fences := by
  simp only [State.finishRead]; (repeat' split) <;> simp

@[simp] theorem State.moveRead_fences (c k) : (s.moveRead c k).fences = s.fences := by simp only [State.moveRead]; split <;> simp
@[simp] theorem State.startRead_fences (c q fua) : (s.startRead c q fua).fences = s.fences := by simp [State.startRead]

@[simp] theorem State.fuaReads_fences (c) : (s.fuaReads c).fences = s.fences :=
  State.foldl_fences (fun x q => by split <;> simp) _ s

@[simp] theorem State.answerLookup_fences (c l t) : (s.answerLookup c l t).fences = s.fences := by
  unfold State.answerLookup; split <;> simp

@[simp] theorem State.retryLookup_fences (c l) : (s.retryLookup c l).fences = s.fences := by
  unfold State.retryLookup; split <;> next h => simp [State.lookup_fences_of_eq h]

@[simp] theorem missReturn_fences (c g) : (missReturn c g s).fences = s.fences := by unfold missReturn; split <;> simp

@[simp] theorem State.giveBlock_fences (c pcn lba t fail) : (s.giveBlock c pcn lba t fail).fences = s.fences :=
  State.foldl_fences (fun x q => by dsimp only; (repeat' split) <;> simp) _ s

@[simp] theorem State.blockOutcome_fences (c pcn lba e enc keyId stored) :
    (s.blockOutcome c pcn lba e enc keyId stored).fences = s.fences := by
  simp only [State.blockOutcome]; split <;> simp

@[simp] theorem State.loseBlock_fences (c pcn lba) : (s.loseBlock c pcn lba).fences = s.fences := by
  simp only [State.loseBlock]; split <;> simp

@[simp] theorem State.serveEntries_fences (c pcn d o fs) : (s.serveEntries c pcn d o fs).fences = s.fences :=
  State.foldl_fences (fun x w => by (repeat' split) <;> simp) _ s

@[simp] theorem State.serveTails_fences (c pcn got) : (s.serveTails c pcn got).fences = s.fences := by
  unfold State.serveTails; split <;> simp

@[simp] theorem State.reportProbes_fences (c x result d o) : (s.reportProbes c x result d o).fences = s.fences := by
  simp [State.reportProbes]

@[simp] theorem State.closeRead_fences (c pcn) : (s.closeRead c pcn).fences = s.fences := by simp [State.closeRead]
@[simp] theorem State.ladderEnd_fences (c x step) : (s.ladderEnd c x step).fences = s.fences := by simp [State.ladderEnd]
@[simp] theorem State.showOuter_fences (c pcn o ok) : (s.showOuter c pcn o ok).fences = s.fences := by rfl
@[simp] theorem State.serveResolved_fences (c x o d) : (s.serveResolved c x o d).fences = s.fences := by simp [State.serveResolved]
@[simp] theorem State.notCluster_fences (c x scar) : (s.notCluster c x scar).fences = s.fences := by simp [State.notCluster]

@[simp] theorem State.loseCluster_fences (c x) : (s.loseCluster c x).fences = s.fences := by
  simp only [State.loseCluster]; split <;> simp

@[simp] theorem State.putRead_fences (c x) : (s.putRead c x).fences = s.fences := by simp [State.putRead]
@[simp] theorem State.decodeStored_fences (c x) : (s.decodeStored c x).fences = s.fences := by simp [State.decodeStored]

@[simp] theorem State.beginReads_fences (c x reads) : (s.beginReads c x reads).fences = s.fences := by
  unfold State.beginReads; split <;> simp

@[simp] theorem State.beginStep_fences (c x) : (s.beginStep c x).fences = s.fences := by simp [State.beginStep]

@[simp] theorem State.releasePickup_fences (c) : (s.releasePickup c).fences = s.fences := by
  simp only [State.releasePickup]; split <;> simp

@[simp] theorem State.releaseFrom_fences (c pcn) : (s.releaseFrom c pcn).fences = s.fences := by simp [State.releaseFrom]
@[simp] theorem State.clusterLost_fences (c x) : (s.clusterLost c x).fences = s.fences := by simp [State.clusterLost]
@[simp] theorem State.resolved_fences (c x o d) : (s.resolved c x o d).fences = s.fences := by simp [State.resolved]

@[simp] theorem State.toStep_fences (c x n) : (s.toStep c x n).fences = s.fences := by
  simp only [State.toStep]; (repeat' split) <;> simp

@[simp] theorem State.tryDecode_fences (c x) : (s.tryDecode c x).2.fences = s.fences := by
  unfold State.tryDecode; dsimp only; (repeat' split) <;> simp only [State.showOuter_fences]

theorem State.tryDecode_fences_of_eq {s t : State} {c x o} (h : s.tryDecode c x = (o, t)) : t.fences = s.fences := by
  simpa [h] using s.tryDecode_fences c x

@[simp] theorem State.firstPass_fences (c x) : (s.firstPass c x).fences = s.fences := by
  unfold State.firstPass; dsimp only; split
  · simp
  · simp
  · split <;> next h => simp [State.tryDecode_fences_of_eq h]

@[simp] theorem State.checkFirst_fences (c pcn) : (s.checkFirst c pcn).fences = s.fences := by
  unfold State.checkFirst; split <;> simp

@[simp] theorem State.readOver_fences (c x) : (s.readOver c x).fences = s.fences := by
  simp only [State.readOver]; (repeat' split) <;> simp

@[simp] theorem State.checkRead_fences (c pcn) : (s.checkRead c pcn).fences = s.fences := by unfold State.checkRead; split <;> simp
@[simp] theorem State.ladderBroken_fences (c) : (s.ladderBroken c).fences = s.fences := by unfold State.ladderBroken; split <;> simp

@[simp] theorem State.judge_fences (c l x ah) : (s.judge c l x ah).2.fences = s.fences := by
  simp only [State.judge]; (repeat' split) <;> simp

@[simp] theorem State.recordFrame_fences (c addr f verified samples) :
    (s.recordFrame c addr f verified samples).fences = s.fences := by
  simp only [State.recordFrame]; split <;> simp

@[simp] theorem State.clusterQuality_fences (c l pcn) : (s.clusterQuality c l pcn).fences = s.fences := by
  simp only [State.clusterQuality]; split <;> simp

@[simp] theorem State.frameDone_fences (c l v) : (s.frameDone c l v).fences = s.fences := by simp [State.frameDone]

@[simp] theorem State.chosen_fences (c l ofs hdr found) : (s.chosen c l ofs hdr found).fences = s.fences := by
  unfold State.chosen; split <;> simp

@[simp] theorem State.settleChoice_fences (c l ch) : (s.settleChoice c l ch).fences = s.fences := by
  simp only [State.settleChoice]; split <;> simp

@[simp] theorem alignmentChoice_fences (c l) : (alignmentChoice c l s).fences = s.fences := by
  simp only [alignmentChoice]; (repeat' split) <;> simp

@[simp] theorem State.forceChoice_fences (c l) : (s.forceChoice c l).fences = s.fences := by
  unfold State.forceChoice; split <;> simp

@[simp] theorem frameSync_fences (c l) : (frameSync c l s).fences = s.fences := by simp only [frameSync]; (repeat' split) <;> simp

@[simp] theorem State.finishJob_fences (c j) : (s.finishJob c j).fences = s.fences := by
  simp only [State.finishJob]; (repeat' split) <;> simp

@[simp] theorem ldpcDecode_fences (c core) : (ldpcDecode c core s).fences = s.fences := by unfold ldpcDecode; split <;> simp
@[simp] theorem State.forced_fences (c x) : (s.forced c x).fences = s.fences := by unfold State.forced; (repeat' split) <;> simp

@[simp] theorem retryStep_fences (c pcn) : (retryStep c pcn s).fences = s.fences := by
  unfold retryStep; split
  · rfl
  · next x _ =>
    dsimp only
    generalize (if x.step = 3 then s.keepSet c x else x) = x1
    split
    · rfl
    · split
      · simp
      · split
        · simp
        · split <;> next h => simp [State.tryDecode_fences_of_eq h]

@[simp] theorem budgetExpired_fences (c pcn) : (budgetExpired c pcn s).fences = s.fences := by unfold budgetExpired; split <;> simp
@[simp] theorem captureRead_fences (c pcn) : (captureRead c pcn s).fences = s.fences := by unfold captureRead; split <;> simp
@[simp] theorem State.startOp_fences (c o) : (s.startOp c o).fences = s.fences := by simp [State.startOp]
@[simp] theorem adipWord_fences (c periods) : (adipWord c periods s).fences = s.fences := by simp only [adipWord]; split <;> simp

/-! The commands of the lanes. -/

@[simp] theorem zoneFetch_fences (c layer zone) : (zoneFetch c layer zone s).fences = s.fences := by simp [zoneFetch]

@[simp] theorem State.adaptBlockLoops_fences (c l ys) : (s.adaptBlockLoops c l ys).fences = s.fences := by
  simp [State.adaptBlockLoops]

@[simp] theorem State.resampleLane_fences (c l ys) : (s.resampleLane c l ys).fences = s.fences := by simp [State.resampleLane]
@[simp] theorem State.timingBit_fences (c l z was) : (s.timingBit c l z was).fences = s.fences := by simp [State.timingBit]
@[simp] theorem State.equalise_fences (c l) : (s.equalise c l).fences = s.fences := by simp [State.equalise]
@[simp] theorem State.detectLane_fences (c l) : (s.detectLane c l).fences = s.fences := by simp [State.detectLane]
@[simp] theorem State.adaptEq_fences (c l k n) : (s.adaptEq c l k n).fences = s.fences := by simp [State.adaptEq]
@[simp] theorem State.adaptAsym_fences (c l) : (s.adaptAsym c l).fences = s.fences := by simp [State.adaptAsym]
@[simp] theorem State.advanceLane_fences (c l) : (s.advanceLane c l).fences = s.fences := by simp [State.advanceLane]
@[simp] theorem adaptBlock_fences (c l samples) : (adaptBlock c l samples s).fences = s.fences := by simp [adaptBlock]
@[simp] theorem eqDataWrite_fences (c v) : (eqDataWrite c v s).fences = s.fences := by simp [eqDataWrite]
@[simp] theorem adipLoss_fences (c row) : (adipLoss c row s).fences = s.fences := by simp [adipLoss]
@[simp] theorem wobbleLock_fences (c hz) : (wobbleLock c hz s).fences = s.fences := by simp [wobbleLock]
@[simp] theorem wobbleUnlock_fences (c row) : (wobbleUnlock c row s).fences = s.fences := by simp [wobbleUnlock]
@[simp] theorem writeClockLock_fences (c) : (writeClockLock c s).fences = s.fences := by simp [writeClockLock]

/-! A channel's commands and disc. -/

@[simp] theorem State.dropCmds_fences (c ks) : (s.dropCmds c ks).fences = s.fences := by simp [State.dropCmds]
@[simp] theorem State.endCmds_fences (c ks st) : (s.endCmds c ks st).fences = s.fences := by simp [State.endCmds]
@[simp] theorem State.showSafe_fences (c) : (s.showSafe c).fences = s.fences := by simp [State.showSafe]
@[simp] theorem State.clearKey_fences (c) : (s.clearKey c).fences = s.fences := by simp [State.clearKey]
@[simp] theorem State.forbidWrites_fences (c) : (s.forbidWrites c).fences = s.fences := by simp [State.forbidWrites]
@[simp] theorem State.forgetDisc_fences (c) : (s.forgetDisc c).fences = s.fences := by simp [State.forgetDisc]
@[simp] theorem State.mountFails_fences (c st) : (s.mountFails c st).fences = s.fences := by unfold State.mountFails; split <;> simp

@[simp] theorem State.mechStop_fences (c) : (s.mechStop c).fences = s.fences := by
  simp only [State.mechStop]; (repeat' split) <;> simp

@[simp] theorem State.failPassed_fences (c) : (s.failPassed c).fences = s.fences := by unfold State.failPassed; split <;> simp

/-! The servo. -/

@[simp] theorem State.modServo_fences (c f) : (s.modServo c f).fences = s.fences := by simp [State.modServo]
@[simp] theorem State.modSlt_fences (c q f) : (s.modSlt c q f).fences = s.fences := by simp [State.modSlt]
@[simp] theorem State.huntAll_fences (c) : (s.huntAll c).fences = s.fences := by simp [State.huntAll]
@[simp] theorem State.leaveClosed_fences (c q row) : (s.leaveClosed c q row).fences = s.fences := by simp [State.leaveClosed]
@[simp] theorem State.drawRow_fences : s.drawRow.2.fences = s.fences := by rfl

@[simp] theorem State.sweepEnd_fences (c st) : (s.sweepEnd c st).fences = s.fences := by
  simp only [State.sweepEnd]; (repeat' split) <;> simp

@[simp] theorem State.seqHold_fences (c qs v) : (s.seqHold c qs v).fences = s.fences := by simp [State.seqHold]
@[simp] theorem State.jumpFail_fences (c why) : (s.jumpFail c why).fences = s.fences := by unfold State.jumpFail; split <;> simp
@[simp] theorem State.tjumpFail_fences (c why) : (s.tjumpFail c why).fences = s.fences := by unfold State.tjumpFail; split <;> simp
@[simp] theorem State.seqBreak_fences (c q) : (s.seqBreak c q).fences = s.fences := by simp [State.seqBreak]
@[simp] theorem State.enterOff_fences (c q) : (s.enterOff c q).fences = s.fences := by simp [State.enterOff]
@[simp] theorem State.enterClosed_fences (c q from_) : (s.enterClosed c q from_).fences = s.fences := by simp [State.enterClosed]

@[simp] theorem State.enter_fences (c q dest cause) : (s.enter c q dest cause).fences = s.fences := by
  unfold State.enter; split <;> simp

@[simp] theorem State.transit_fences (c q dest cause row) : (s.transit c q dest cause row).fences = s.fences := by
  simp [State.transit]

@[simp] theorem State.sweepOver_fences (c) : (s.sweepOver c).fences = s.fences := by
  simp only [State.sweepOver]; (repeat' split) <;> simp

@[simp] theorem State.seqTo_fences (c q dest) : (s.seqTo c q dest).fences = s.fences := by simp [State.seqTo]
@[simp] theorem State.endHold_fences (c q) : (s.endHold c q).fences = s.fences := by simp [State.endHold]

@[simp] theorem State.slotCommand_fences (c q dest) : (s.slotCommand c q dest).fences = s.fences := by
  unfold State.slotCommand; split <;> simp

@[simp] theorem State.overtake_fences (c q) : (s.overtake c q).fences = s.fences := by unfold State.overtake; split <;> simp
@[simp] theorem State.countImplausible_fences (c q) : (s.countImplausible c q).fences = s.fences := by simp [State.countImplausible]
@[simp] theorem State.pullIn_fences (c layer) : (s.pullIn c layer).fences = s.fences := by simp [State.pullIn]

@[simp] theorem State.recover_fences (c q again) : (s.recover c q again).fences = s.fences := by
  unfold State.recover; split <;> simp

@[simp] theorem slotImplausible_fences (c q row) : (slotImplausible c q row s).fences = s.fences := by simp [slotImplausible]
@[simp] theorem slotLoss_fences (c q) : (slotLoss c q s).fences = s.fences := by simp only [slotLoss]; (repeat' split) <;> simp
@[simp] theorem capture_fences (c q) : (capture c q s).fences = s.fences := by simp [capture]
@[simp] theorem acqFail_fences (c q) : (acqFail c q s).fences = s.fences := by simp [acqFail]
@[simp] theorem guylineArm_fences (c q) : (guylineArm c q s).fences = s.fences := by simp [guylineArm]
@[simp] theorem State.defectEnter_fences (c) : (s.defectEnter c).fences = s.fences := by simp [State.defectEnter]
@[simp] theorem State.defectEnd_fences (c) : (s.defectEnd c).fences = s.fences := by simp [State.defectEnd]
@[simp] theorem State.defectUpdate_fences (c) : (s.defectUpdate c).fences = s.fences := by simp [State.defectUpdate]
@[simp] theorem defLong_fences (c) : (defLong c s).fences = s.fences := by simp [defLong]
@[simp] theorem State.beginPeriod_fences (c q) : (s.beginPeriod c q).fences = s.fences := by simp [State.beginPeriod]
@[simp] theorem State.endPeriod_fences (c q) : (s.endPeriod c q).fences = s.fences := by simp [State.endPeriod]
@[simp] theorem State.collect_fences (c sd) : (s.collect c sd).fences = s.fences := by simp [State.collect]
@[simp] theorem State.trimStep_fences (c q) : (s.trimStep c q).fences = s.fences := by simp [State.trimStep]
@[simp] theorem State.ffStep_fences (c q) : (s.ffStep c q).fences = s.fences := by simp [State.ffStep]
@[simp] theorem ffBinEnd_fences (c q) : (ffBinEnd c q s).fences = s.fences := by simp [ffBinEnd]
@[simp] theorem State.binSample_fences (c q v) : (s.binSample c q v).fences = s.fences := by simp [State.binSample]
@[simp] theorem State.integrate_fences (c q) : (s.integrate c q).fences = s.fences := by simp [State.integrate]
@[simp] theorem State.drive_fences (c q) : (s.drive c q).fences = s.fences := by simp [State.drive]
@[simp] theorem State.actuators_fences (c) : (s.actuators c).fences = s.fences := by simp [State.actuators]
@[simp] theorem State.observe_fences (c q r) : (s.observe c q r).fences = s.fences := by simp [State.observe]
@[simp] theorem State.acqStep_fences (c q hit) : (s.acqStep c q hit).fences = s.fences := by simp [State.acqStep]
@[simp] theorem State.acqDecide_fences (c q) : (s.acqDecide c q).fences = s.fences := by simp [State.acqDecide]
@[simp] theorem State.sweepRecord_fences (c p m e sum) : (s.sweepRecord c p m e sum).fences = s.fences := by rfl

@[simp] theorem State.sweepStep_fences (c q e sum) : (s.sweepStep c q e sum).fences = s.fences := by
  unfold State.sweepStep; split <;> simp

@[simp] theorem State.setLayerCode_fences (c layer) : (s.setLayerCode c layer).fences = s.fences := by simp [State.setLayerCode]
@[simp] theorem layerJumpDone_fences (c) : (layerJumpDone c s).fences = s.fences := by unfold layerJumpDone; split <;> simp
@[simp] theorem strandJumpDone_fences (c) : (strandJumpDone c s).fences = s.fences := by unfold strandJumpDone; split <;> simp

@[simp] theorem State.layerStep_fences (c e0 e1 sum) : (s.layerStep c e0 e1 sum).fences = s.fences := by
  simp only [State.layerStep]; (repeat' split) <;> simp

@[simp] theorem State.layerNext_fences (c) : (s.layerNext c).fences = s.fences := by unfold State.layerNext; split <;> simp

@[simp] theorem State.strandStep_fences (c e0 e1) : (s.strandStep c e0 e1).fences = s.fences := by
  simp only [State.strandStep]; (repeat' split) <;> simp

@[simp] theorem State.slotSwap_fences (c q) : (s.slotSwap c q).fences = s.fences := by simp [State.slotSwap]
@[simp] theorem State.dueStep_fences (c q) : (s.dueStep c q).fences = s.fences := by unfold State.dueStep; split <;> simp

@[simp] theorem State.speedStep_fences (c) : (s.speedStep c).fences = s.fences := by
  simp only [State.speedStep]; (repeat' split) <;> simp

@[simp] theorem State.rmsStep_fences (c q e wrapped) : (s.rmsStep c q e wrapped).fences = s.fences := by simp [State.rmsStep]
@[simp] theorem State.offsetStep_fences (c q e) : (s.offsetStep c q e).fences = s.fences := by simp [State.offsetStep]
@[simp] theorem State.measure_fences (c q sd) : (s.measure c q sd).fences = s.fences := by simp [State.measure]

@[simp] theorem State.turnOff_fences (c q cause) : (s.turnOff c q cause).fences = s.fences := by
  simp only [State.turnOff]; (repeat' split) <;> simp

@[simp] theorem State.decide_fences (c q count) : (s.decide_ c q count).fences = s.fences := by
  simp only [State.decide_]; (repeat' split) <;> simp

@[simp] theorem State.samplePre_fences (c q sd) : (s.samplePre c q sd).fences = s.fences := by simp [State.samplePre]

@[simp] theorem slotSample_fences (c q sd) : (slotSample c q sd s).fences = s.fences := by
  unfold slotSample
  split
  · rfl
  · extract_lets s1 was e0 sum0 s2 e sum old newBin wrapped s3 s4 r count n lost t t1 s5 s6 s7 closed frozen s8 v s9 s10 s11 s12 period s13
    have h13 : s13.fences = s.fences := by simp [s13, period, s12, s11, s10, s9, s8, s7, s6, s5, t1, t, s4, s3, s2, s1]
    clear_value s13
    (repeat' split) <;> simp [h13]

@[simp] theorem slotCmdWrite_fences (c q dest) : (slotCmdWrite c q dest s).fences = s.fences := by simp [slotCmdWrite]
@[simp] theorem coefWrite_fences (c q off value) : (coefWrite c q off value s).fences = s.fences := by simp [coefWrite]
@[simp] theorem tgtWrite_fences (c q value) : (tgtWrite c q value s).fences = s.fences := by simp [tgtWrite]
@[simp] theorem cleEnable_fences (c en) : (cleEnable c en s).fences = s.fences := by simp [cleEnable]
@[simp] theorem State.jumpRefused_fences (c strand) : (s.jumpRefused c strand).fences = s.fences := by simp [State.jumpRefused]
@[simp] theorem layerJump_fences (c layer) : (layerJump c layer s).fences = s.fences := by simp [layerJump]
@[simp] theorem strandJump_fences (c strands) : (strandJump c strands s).fences = s.fences := by simp [strandJump]
@[simp] theorem State.sweepRun_fences (c cmd) : (s.sweepRun c cmd).fences = s.fences := by simp [State.sweepRun]
@[simp] theorem sweepStart_fences (c) : (sweepStart c s).fences = s.fences := by simp [sweepStart]

@[simp] theorem sweepRest_fences (c : Fin 16) (n p : Nat) (s : State) : (sweepRest c n p s).fences = s.fences := by
  induction n generalizing p s with
  | zero => rfl
  | succ n ih => simp [sweepRest, ih]

@[simp] theorem sweepDone_fences (c) : (sweepDone c s).fences = s.fences := by unfold sweepDone; split <;> simp
@[simp] theorem State.giveCmd_fences (c q dest) : (s.giveCmd c q dest).fences = s.fences := by simp [State.giveCmd]
@[simp] theorem State.sacMid_fences (c) : (s.sacMid c).fences = s.fences := by simp [State.sacMid]
@[simp] theorem State.focusStep_fences (c tries layer) : (s.focusStep c tries layer).fences = s.fences := by simp [State.focusStep]

@[simp] theorem State.strandSearch_fences (c) : (s.strandSearch c).fences = s.fences := by
  simp only [State.strandSearch]; (repeat' split) <;> simp

@[simp] theorem State.regainStep_fences (c q) : (s.regainStep c q).fences = s.fences := by unfold State.regainStep; split <;> simp
@[simp] theorem servoSample_fences (c q sd) : (servoSample c q sd s).fences = s.fences := by simp [servoSample]
@[simp] theorem brambleFlag_fences (c lane on) : (brambleFlag c lane on s).fences = s.fences := by simp [brambleFlag]

/-! The spindle. -/

@[simp] theorem State.modSpin_fences (c f) : (s.modSpin c f).fences = s.fences := by simp [State.modSpin]
@[simp] theorem State.spdOpen_fences (c m) : (s.spdOpen c m).fences = s.fences := by simp [State.spdOpen]
@[simp] theorem State.spinRest_fences (c st rest) : (s.spinRest c st rest).fences = s.fences := by simp [State.spinRest]

@[simp] theorem State.shortBrake_fences (c failing toAlign) : (s.shortBrake c failing toAlign).fences = s.fences := by
  simp [State.shortBrake]

@[simp] theorem State.spinAlign_fences (c) : (s.spinAlign c).fences = s.fences := by simp [State.spinAlign]
@[simp] theorem State.spinSixStep_fences (c rpm) : (s.spinSixStep c rpm).fences = s.fences := by simp [State.spinSixStep]
@[simp] theorem State.spinHandover_fences (c iref) : (s.spinHandover c iref).fences = s.fences := by simp [State.spinHandover]
@[simp] theorem State.spinRefuse_fences (c) : (s.spinRefuse c).fences = s.fences := by simp [State.spinRefuse]
@[simp] theorem spinStart_fences (c) : (spinStart c s).fences = s.fences := by simp [spinStart]
@[simp] theorem spinStop_fences (c) : (spinStop c s).fences = s.fences := by simp only [spinStop]; (repeat' split) <;> simp
@[simp] theorem spinCoast_fences (c) : (spinCoast c s).fences = s.fences := by simp only [spinCoast]; (repeat' split) <;> simp
@[simp] theorem spinClearFault_fences (c) : (spinClearFault c s).fences = s.fences := by simp [spinClearFault]
@[simp] theorem tblWrite_fences (c value) : (tblWrite c value s).fences = s.fences := by simp [tblWrite]
@[simp] theorem State.catchStep_fences (c emf) : (s.catchStep c emf).fences = s.fences := by simp [State.catchStep]
@[simp] theorem catchEnd_fences (c) : (catchEnd c s).fences = s.fences := by simp [catchEnd]
@[simp] theorem observerLock_fences (c) : (observerLock c s).fences = s.fences := by simp [observerLock]
@[simp] theorem startFail_fences (c) : (startFail c s).fences = s.fences := by simp [startFail]
@[simp] theorem handoverEnd_fences (c) : (handoverEnd c s).fences = s.fences := by simp [handoverEnd]
@[simp] theorem spinStopped_fences (c) : (spinStopped c s).fences = s.fences := by simp [spinStopped]
@[simp] theorem speedGap_fences (c emf) : (speedGap c emf s).fences = s.fences := by simp [speedGap]
@[simp] theorem chopFault_fences (c) : (chopFault c s).fences = s.fences := by simp [chopFault]
@[simp] theorem State.spinFault_fences (c cause) : (s.spinFault c cause).fences = s.fences := by simp [State.spinFault]
@[simp] theorem sampleLoss_fences (c periods) : (sampleLoss c periods s).fences = s.fences := by simp [sampleLoss]

@[simp] theorem State.currentLoop_fences (c theta is iref) : (s.currentLoop c theta is iref).fences = s.fences := by
  unfold State.currentLoop; dsimp only
  simp only [State.ite_fences, State.cirq_fences, State.wrs_fences, State.modSpin_fences, ite_self]

@[simp] theorem State.linkLoop_fences (c shunt) : (s.linkLoop c shunt).fences = s.fences := State.modSpin_fences s c _
@[simp] theorem State.lockStep_fences (c o) : (s.lockStep c o).fences = s.fences := by simp [State.lockStep]
@[simp] theorem State.spinAngle_fences (c o) : (s.spinAngle c o).fences = s.fences := by simp [State.spinAngle]
@[simp] theorem State.chopper_fences (c o) : (s.chopper c o).fences = s.fences := by simp [State.chopper]
@[simp] theorem pwmPeriod_fences (c o) : (pwmPeriod c o s).fences = s.fences := by simp [pwmPeriod]
@[simp] theorem State.spinAgain_fences (c) : (s.spinAgain c).fences = s.fences := by simp [State.spinAgain]

/-! The sled. -/

@[simp] theorem State.modSled_fences (c f) : (s.modSled c f).fences = s.fences := by simp [State.modSled]
@[simp] theorem State.sledRefuse_fences (c code) : (s.sledRefuse c code).fences = s.fences := by simp [State.sledRefuse]
@[simp] theorem State.showSled_fences (c) : (s.showSled c).fences = s.fences := by rfl
@[simp] theorem State.beginMove_fences (c first last) : (s.beginMove c first last).fences = s.fences := by simp [State.beginMove]
@[simp] theorem State.sledBrake_fences (c why) : (s.sledBrake c why).fences = s.fences := by simp [State.sledBrake]
@[simp] theorem State.sledIdle_fences (c) : (s.sledIdle c).fences = s.fences := by rfl
@[simp] theorem State.sledNext_fences (c) : (s.sledNext c).fences = s.fences := by unfold State.sledNext; split <;> simp
@[simp] theorem moveDone_fences (c) : (moveDone c s).fences = s.fences := by simp [moveDone]
@[simp] theorem stopEnd_fences (c) : (stopEnd c s).fences = s.fences := by simp only [stopEnd]; (repeat' split) <;> simp
@[simp] theorem sledMove_fences (c first last) : (sledMove c first last s).fences = s.fences := by simp [sledMove]
@[simp] theorem sledStop_fences (c) : (sledStop c s).fences = s.fences := by simp only [sledStop]; (repeat' split) <;> simp
@[simp] theorem sledHome_fences (c) : (sledHome c s).fences = s.fences := by simp [sledHome]
@[simp] theorem sledEnergise_fences (c) : (sledEnergise c s).fences = s.fences := by simp [sledEnergise]
@[simp] theorem State.sledOff_fences (c st) : (s.sledOff c st).fences = s.fences := by simp [State.sledOff]
@[simp] theorem sledRelease_fences (c) : (sledRelease c s).fences = s.fences := by simp [sledRelease]
@[simp] theorem sledClearFault_fences (c) : (sledClearFault c s).fences = s.fences := by simp [sledClearFault]

@[simp] theorem homeEdge_fences (c level) : (homeEdge c level s).fences = s.fences := by
  simp only [homeEdge]; (repeat' split) <;> simp

@[simp] theorem homeFail_fences (c) : (homeFail c s).fences = s.fences := by simp [homeFail]
@[simp] theorem State.softLimit_fences (c at_) : (s.softLimit c at_).fences = s.fences := by simp [State.softLimit]
@[simp] theorem State.moveTick_fences (c) : (s.moveTick c).fences = s.fences := by simp only [State.moveTick]; split <;> simp
@[simp] theorem State.brakeTick_fences (c) : (s.brakeTick c).fences = s.fences := by simp [State.brakeTick]
@[simp] theorem State.velTick_fences (c target a) : (s.velTick c target a).fences = s.fences := by simp [State.velTick]
@[simp] theorem State.followTick_fences (c) : (s.followTick c).fences = s.fences := by simp [State.followTick]

@[simp] theorem State.homeTick_fences (c) : (s.homeTick c).fences = s.fences := by
  simp only [State.homeTick]; (repeat' split) <;> simp

@[simp] theorem sledTick_fences (c ia ib) : (sledTick c ia ib s).fences = s.fences := by
  simp only [sledTick]; (repeat' split) <;> simp

/-! Calibration. -/

@[simp] theorem State.modCal_fences (c f) : (s.modCal c f).fences = s.fences := by simp [State.modCal]
@[simp] theorem State.calDue_fences (c) : (s.calDue c).fences = s.fences := by simp [State.calDue]

@[simp] theorem State.calTable_fences (s : State) (c : Fin 16) (fs : List CalField) (ofs n a b buf : Nat) (num : Int)
    (den : Nat) (adj : Nat → Nat → Int) (k : Nat) :
    (s.calTable c fs ofs n a b buf num den adj k).fences = s.fences := by
  induction k with
  | zero => rfl
  | succ k ih => simp [State.calTable, ih]

@[simp] theorem generationForm_fences (c) : (generationForm c s).fences = s.fences := by
  simp only [generationForm]; (repeat' split) <;> simp

@[simp] theorem State.calGroup_fences (c g) : (s.calGroup c g).fences = s.fences := by
  simp only [State.calGroup]; (repeat' split) <;> simp

@[simp] theorem State.tpySignal_fences (c) : (s.tpySignal c).fences = s.fences := by simp [State.tpySignal]

@[simp] theorem generationApply_fences (c) : (generationApply c s).fences = s.fences := by
  simp only [generationApply]; (repeat' split) <;> simp

@[simp] theorem generationFormed_fences (c) : (generationFormed c s).fences = s.fences := by simp [generationFormed]
@[simp] theorem pickupTemp_fences (c codes) : (pickupTemp c codes s).fences = s.fences := by simp [pickupTemp]
@[simp] theorem setValid_fences (c mask) : (setValid c mask s).fences = s.fences := by simp [setValid]
@[simp] theorem pdeltaWrite_fences (c v) : (pdeltaWrite c v s).fences = s.fences := by simp [pdeltaWrite]

/-! The laser. -/

@[simp] theorem clusterAssembly_fences (c) : (clusterAssembly c s).fences = s.fences := by simp [clusterAssembly]
@[simp] theorem assemblyIdle_fences (c) : (assemblyIdle c s).fences = s.fences := by simp [assemblyIdle]
@[simp] theorem orderlyEnd_fences (c row) : (orderlyEnd c row s).fences = s.fences := by unfold orderlyEnd; split <;> simp
@[simp] theorem State.hostRsp_fences (c data status crcErr) : (s.hostRsp c data status crcErr).fences = s.fences := by rfl

@[simp] theorem State.laserFail_fences (c t rest status) : (s.laserFail c t rest status).fences = s.fences := by
  simp [State.laserFail]

@[simp] theorem State.driverAnswers_fences (c) : (s.driverAnswers c).fences = s.fences := by simp [State.driverAnswers]

@[simp] theorem laserAnswer_fences (c rx) : (laserAnswer c rx s).fences = s.fences := by
  simp only [laserAnswer]; (repeat' split) <;> simp

@[simp] theorem laserLinkError_fences (c row) : (laserLinkError c row s).fences = s.fences := by simp [laserLinkError]
@[simp] theorem statusPoll_fences (c) : (statusPoll c s).fences = s.fences := by simp [statusPoll]
@[simp] theorem driverFault_fences (c status row) : (driverFault c status row s).fences = s.fences := by simp [driverFault]
@[simp] theorem killExternal_fences (c row) : (killExternal c row s).fences = s.fences := by simp [killExternal]
@[simp] theorem hostLaser_fences (c rd addr data) : (hostLaser c rd addr data s).fences = s.fences := by simp [hostLaser]
@[simp] theorem readLevel_fences (c b level) : (readLevel c b level s).fences = s.fences := by simp [readLevel]
@[simp] theorem ldiKill_fences (c kill) : (ldiKill c kill s).fences = s.fences := by simp [ldiKill]
@[simp] theorem killLatchClear_fences (c) : (killLatchClear c s).fences = s.fences := by simp [killLatchClear]
@[simp] theorem State.testStart_fences (c r) : (s.testStart c r).fences = s.fences := by simp [State.testStart]
@[simp] theorem State.testBegin_fences (c) : (s.testBegin c).fences = s.fences := by unfold State.testBegin; split <;> simp
@[simp] theorem testAreaRun_fences (c) : (testAreaRun c s).fences = s.fences := by simp [testAreaRun]

@[simp] theorem testRunDone_fences (c signals) : (testRunDone c signals s).fences = s.fences := by
  simp only [testRunDone]; (repeat' split) <;> simp

/-! PCI Express. -/

@[simp] theorem State.cfgPut_fences (off v) : (s.cfgPut off v).fences = s.fences := by rfl
@[simp] theorem State.cfgSet_fences (off bits) : (s.cfgSet off bits).fences = s.fences := by rfl
@[simp] theorem State.cfgWrite_fences (off v bytes) : (s.cfgWrite off v bytes).fences = s.fences := by simp [State.cfgWrite]
@[simp] theorem bmeClear_fences : (bmeClear s).fences = s.fences := by simp [bmeClear]
@[simp] theorem bmeSet_fences : (bmeSet s).fences = s.fences := by simp [bmeSet]

@[simp] theorem linkTraining_fences (partnerWidths partnerRates workingLanes reversed) :
    (linkTraining partnerWidths partnerRates workingLanes reversed s).fences = s.fences := by
  simp [linkTraining]

@[simp] theorem msixUnmask_fences (v) : (msixUnmask v s).fences = s.fences := by simp [msixUnmask]
@[simp] theorem State.winErr_fences (ofs kind write) : (s.winErr ofs kind write).fences = s.fences := by simp [State.winErr]
@[simp] theorem winStore_fences (c ofs a data) : (winStore c ofs a data s).fences = s.fences := by simp [winStore]

@[simp] theorem windowStore_fences (ofs e data) : (windowStore ofs e data s).fences = s.fences := by
  simp only [windowStore]; (repeat' split) <;> simp

@[simp] theorem winLoad_fences (c ofs a len) : (winLoad c ofs a len s).fences = s.fences := by simp [winLoad]

@[simp] theorem windowLoad_fences (ofs e len) : (windowLoad ofs e len s).fences = s.fences := by
  simp only [windowLoad]; (repeat' split) <;> simp

@[simp] theorem WinAccess.serve_fences (a) : (WinAccess.serve a s).fences = s.fences := by unfold WinAccess.serve; split <;> simp

@[simp] theorem State.pumpWindow_fences (s : State) (l : List WinAccess) : (s.pumpWindow l).fences = s.fences := by
  induction l generalizing s with
  | nil => rfl
  | cons a l ih => unfold State.pumpWindow; split <;> simp [ih]

@[simp] theorem State.windowAccess_fences (a) : (s.windowAccess a).fences = s.fences := by unfold State.windowAccess; split <;> simp
@[simp] theorem windowWrite_fences (ofs data) : (windowWrite ofs data s).fences = s.fences := by simp [windowWrite]
@[simp] theorem windowRead_fences (ofs len) : (windowRead ofs len s).fences = s.fences := by simp [windowRead]

/-! SMBus and GPIO. -/

@[simp] theorem State.smbRead_fences (code data) : (s.smbRead code data).fences = s.fences := by simp [State.smbRead]
@[simp] theorem State.gpioEdges_fences (before) : (s.gpioEdges before).fences = s.fences := by simp [State.gpioEdges]
@[simp] theorem gpioEdge_fences (pin level) : (gpioEdge pin level s).fences = s.fences := by simp [gpioEdge]

/-! The channel. -/

@[simp] theorem State.settleWait_fences (k) : (s.settleWait k).fences = s.fences := by simp [State.settleWait]
@[simp] theorem State.settleWaits_fences (c) : (s.settleWaits c).fences = s.fences := by simp [State.settleWaits]
@[simp] theorem State.stopSpindle_fences (c) : (s.stopSpindle c).fences = s.fences := by simp [State.stopSpindle]
@[simp] theorem State.inactive_fences (c) : (s.inactive c).fences = s.fences := by simp [State.inactive]
@[simp] theorem State.loseStaged_fences (c) : (s.loseStaged c).fences = s.fences := by simp [State.loseStaged]
@[simp] theorem State.modProc_fences (c f) : (s.modProc c f).fences = s.fences := by simp [State.modProc]
@[simp] theorem State.dropProc_fences (c) : (s.dropProc c).fences = s.fences := by simp [State.dropProc]

@[simp] theorem State.procFinish_fences (c p st) : (s.procFinish c p st).fences = s.fences := by
  unfold State.procFinish; split <;> simp

@[simp] theorem State.queuePads_fences (c n direct) : (s.queuePads c n direct).fences = s.fences := by simp [State.queuePads]
@[simp] theorem State.procCkpt_fences (c p) : (s.procCkpt c p).fences = s.fences := by simp [State.procCkpt]
@[simp] theorem State.endHostLost_fences (c) : (s.endHostLost c).fences = s.fences := by simp [State.endHostLost]

@[simp] theorem State.procDrained_fences (c p) : (s.procDrained c p).fences = s.fences := by
  unfold State.procDrained; split <;> simp

@[simp] theorem State.endHeld_fences (c st) : (s.endHeld c st).fences = s.fences := by
  unfold State.endHeld; dsimp only
  rw [State.foldl_fences (fun x k => by split <;> simp)]; simp

@[simp] theorem State.endSwaps_fences (c) : (s.endSwaps c).fences = s.fences := by simp [State.endSwaps]
@[simp] theorem State.cutSession_fences (c) : (s.cutSession c).fences = s.fences := by simp [State.cutSession]
@[simp] theorem State.park_fences (c) : (s.park c).fences = s.fences := by simp [State.park]
@[simp] theorem State.svcEnd_fences (c st) : (s.svcEnd c st).fences = s.fences := by unfold State.svcEnd; split <;> simp

@[simp] theorem State.leaveHostLost_fences (c) : (s.leaveHostLost c).fences = s.fences := by
  simp only [State.leaveHostLost]; (repeat' split) <;> simp

@[simp] theorem State.becomeReady_fences : s.becomeReady.fences = s.fences := by simp [State.becomeReady]

@[simp] theorem State.actEnd_fences (k i) : (s.actEnd k i).fences = s.fences := by
  simp only [State.actEnd]; (repeat' split) <;> simp

@[simp] theorem State.actTurn_fences (n) : (s.actTurn n).fences = s.fences := by simp only [State.actTurn]; (repeat' split) <;> simp
@[simp] theorem State.activate_fences (k i) : (s.activate k i).fences = s.fences := by simp [State.activate]
@[simp] theorem State.actFault_fences (c cause) : (s.actFault c cause).fences = s.fences := by unfold State.actFault; split <;> simp
@[simp] theorem State.dropHeld_fences (c) : (s.dropHeld c).fences = s.fences := by rfl
@[simp] theorem parkingDone_fences (c) : (parkingDone c s).fences = s.fences := by simp [parkingDone]
@[simp] theorem State.endMotion_fences (c) : (s.endMotion c).fences = s.fences := by simp [State.endMotion]
@[simp] theorem State.procRelease_fences (c spin) : (s.procRelease c spin).fences = s.fences := by simp [State.procRelease]

@[simp] theorem State.procCkptDone_fences (c p) : (s.procCkptDone c p).fences = s.fences := by
  unfold State.procCkptDone; split <;> simp

@[simp] theorem State.checkShutdown_fences : s.checkShutdown.fences = s.fences := by simp [State.checkShutdown]

@[simp] theorem State.channelReset_fences (c telemetry) : (s.channelReset c telemetry).fences = s.fences := by
  simp [State.channelReset]

@[simp] theorem State.stewardRuns_fences (c b) : (s.stewardRuns c b).fences = s.fences := by simp [State.stewardRuns]
@[simp] theorem State.zeroize_fences (cause) : (s.zeroize cause).fences = s.fences := by simp [State.zeroize]

/-! I/O commands. -/

@[simp] theorem readCommand_fences (k x c kind) : (readCommand s k x c kind).fences = s.fences := by
  unfold readCommand; split <;> simp

@[simp] theorem probeCommand_fences (k x c) : (probeCommand s k x c).fences = s.fences := by simp [probeCommand]

@[simp] theorem State.addData_fences (k ofs data) : (s.addData k ofs data).fences = s.fences := by
  unfold State.addData; split <;> simp

@[simp] theorem State.fetchData_fences (k x c) : (s.fetchData k x c).2.fences = s.fences := by
  unfold State.fetchData; dsimp only
  rw [State.issueReads_fences]
  refine foldl_snd_snd_fences (fun x p => ?_) _ _
  obtain ⟨ofs, bad, t⟩ := x
  dsimp only; (repeat' split) <;> simp

@[simp] theorem State.dropIntake_fences (c k st) : (s.dropIntake c k st).fences = s.fences := by
  unfold State.dropIntake; split <;> simp

@[simp] theorem State.intakeFails_fences (c k cause addr) : (s.intakeFails c k cause addr).fences = s.fences := by
  simp [State.intakeFails]

@[simp] theorem State.grant_fences (c k) : (s.grant c k).fences = s.fences := by unfold State.grant; split <;> simp

@[simp] theorem writeCommand_fences (k x c) : (writeCommand s k x c).fences = s.fences := by
  simp only [writeCommand]; (repeat' split) <;> simp

@[simp] theorem bufferWaitEnd_fences (k) : (bufferWaitEnd k s).fences = s.fences := by
  simp only [bufferWaitEnd]; (repeat' split) <;> simp

@[simp] theorem State.flushAt_fences (c k fetched) : (s.flushAt c k fetched).fences = s.fences := by
  simp only [State.flushAt]; split <;> simp

@[simp] theorem flushCommand_fences (k x cs) : (flushCommand s k x cs).fences = s.fences := by simp [flushCommand]
@[simp] theorem operationAdmit_fences (k) : (operationAdmit k s).fences = s.fences := by unfold operationAdmit; split <;> simp

@[simp] theorem operationSelect_fences (c least) : (operationSelect c least s).fences = s.fences := by
  simp only [operationSelect]; (repeat' split) <;> simp

@[simp] theorem operationAged_fences (c op) : (operationAged c op s).fences = s.fences := by simp [operationAged]
@[simp] theorem readPreempt_fences (c op) : (readPreempt c op s).fences = s.fences := by simp [readPreempt]

@[simp] theorem State.cancelAt_fences (c k x) : (s.cancelAt c k x).2.fences = s.fences := by
  simp only [State.cancelAt]; (repeat' split) <;> simp

@[simp] theorem cancelRequest_fences (k) : (cancelRequest k s).fences = s.fences := by
  simp only [cancelRequest]; (repeat' split) <;> simp

@[simp] theorem commandTimeLimit_fences (k) : (commandTimeLimit k s).fences = s.fences := by
  simp only [commandTimeLimit]; (repeat' split) <;> simp

@[simp] theorem mapProbe_fences (c lba) : (mapProbe c lba s).fences = s.fences := by simp [mapProbe]
@[simp] theorem State.showLocks_fences (c) : (s.showLocks c).fences = s.fences := by rfl
@[simp] theorem State.pinAnswer_fences (k i e) : (s.pinAnswer k i e).fences = s.fences := by unfold State.pinAnswer; split <;> simp

@[simp] theorem pinCommand_fences (c k lba) : (pinCommand s c k lba).fences = s.fences := by
  simp only [pinCommand]; (repeat' split) <;> simp

@[simp] theorem unpinCommand_fences (c k lba) : (unpinCommand s c k lba).fences = s.fences := by unfold unpinCommand; split <;> simp
@[simp] theorem pinRange_fences (k pin) : (pinRange k pin s).fences = s.fences := by unfold pinRange; split <;> simp

/-! Mount. -/

@[simp] theorem State.logReplay_fences (c r) : (s.logReplay c r).fences = s.fences := by simp [State.logReplay]

@[simp] theorem State.unwrap_fences (id wrapped) : (s.unwrap id wrapped).2.fences = s.fences := by
  simp only [State.unwrap]; (repeat' split) <;> simp

@[simp] theorem State.putDisc_fences (c scan d recs) : (s.putDisc c scan d recs).fences = s.fences := by simp [State.putDisc]
@[simp] theorem State.mountMapped_fences (c x scan i) : (s.mountMapped c x scan i).fences = s.fences := by simp [State.mountMapped]
@[simp] theorem State.mountDirect_fences (c x scan i) : (s.mountDirect c x scan i).fences = s.fences := by simp [State.mountDirect]

@[simp] theorem State.mountDisc_fences (c x scan) : (s.mountDisc c x scan).fences = s.fences := by
  simp only [State.mountDisc]; (repeat' split) <;> simp

@[simp] theorem mountCommand_fences (k x c scan) : (mountCommand s k x c scan).fences = s.fences := by simp [mountCommand]
@[simp] theorem State.allowWrites_fences (c) : (s.allowWrites c).fences = s.fences := by simp [State.allowWrites]
@[simp] theorem State.sacOpen_fences (c) : (s.sacOpen c).fences = s.fences := by simp [State.sacOpen]
@[simp] theorem mountComplete_fences (c ms) : (mountComplete c ms s).fences = s.fences := by unfold mountComplete; split <;> simp

/-! Transform. -/

@[simp] theorem State.endTransform_fences (c k x st consumed out job) :
    (s.endTransform c k x st consumed out job).fences = s.fences := by
  simp [State.endTransform]

@[simp] theorem State.runTransform_fences (c k x j input) : (s.runTransform c k x j input).fences = s.fences := by
  simp [State.runTransform]

@[simp] theorem transformCommand_fences (k resume compress data) : (transformCommand k resume compress data s).fences = s.fences := by
  simp only [transformCommand]; (repeat' split) <;> simp

@[simp] theorem xtsSelftest_fences (c) : (xtsSelftest c s).fences = s.fences := by simp [xtsSelftest]

/-! Channel Service. -/

@[simp] theorem State.svcBegin_fences (c k op) : (s.svcBegin c k op).fences = s.fences := by simp [State.svcBegin]
@[simp] theorem powerDown_fences (c) : (powerDown s c).fences = s.fences := by simp [powerDown]
@[simp] theorem serviceDown_fences (k c) : (serviceDown s k c).fences = s.fences := by simp [serviceDown]
@[simp] theorem serviceRestore_fences (k c) : (serviceRestore s k c).fences = s.fences := by simp [serviceRestore]
@[simp] theorem serviceReload_fences (k c) : (serviceReload s k c).fences = s.fences := by simp [serviceReload]
@[simp] theorem channelPowerUp_fences (c) : (channelPowerUp c s).fences = s.fences := by simp [channelPowerUp]
@[simp] theorem loadSet_fences (k x c data) : (loadSet s k x c data).fences = s.fences := by simp [loadSet]
@[simp] theorem clearSet_fences (k x c) : (clearSet s k x c).fences = s.fences := by simp [clearSet]
@[simp] theorem powerRun_fences (k x c) : (powerRun s k x c).fences = s.fences := by unfold powerRun; split <;> simp

@[simp] theorem servoSweep_fences (k x c) : (servoSweep s k x c).fences = s.fences := by
  simp only [servoSweep]; (repeat' split) <;> simp

@[simp] theorem readBack_fences (k x c) : (readBack s k x c).fences = s.fences := by simp [readBack]

@[simp] theorem keyRewrap_fences (k x c) : (keyRewrap s k x c).fences = s.fences := by
  simp only [keyRewrap]; (repeat' split) <;> simp

/-! Telemetry. -/

@[simp] theorem snapshotOp_fences (rg src) : (snapshotOp rg src s).fences = s.fences := by simp [snapshotOp]

@[simp] theorem histConfigWrite_fences (rg off value) : (histConfigWrite rg off value s).fences = s.fences := by
  simp [histConfigWrite]

@[simp] theorem counterClear_fences (c mask) : (counterClear c mask s).fences = s.fences := by simp [counterClear]

/-! Identify and log pages. -/

@[simp] theorem identify_fences (k x) : (identify s k x).fences = s.fences := by unfold identify; split <;> simp

@[simp] theorem State.drawBytes_fences (s : State) (n : Nat) : (s.drawBytes n).2.fences = s.fences := by
  induction n generalizing s with
  | zero => rfl
  | succ n ih => simp [State.drawBytes, ih]

@[simp] theorem State.logRead_fences (x ofs n) : (s.logRead x ofs n).fences = s.fences := by simp [State.logRead]
@[simp] theorem getLogPage_fences (k x) : (getLogPage s k x).fences = s.fences := by simp only [getLogPage]; split <;> simp

/-! Resets of the host interface. -/

@[simp] theorem State.dropCommands_fences : s.dropCommands.fences = s.fences := by simp [State.dropCommands]
@[simp] theorem State.dropController_fences : s.dropController.fences = s.fences := by simp [State.dropController]
@[simp] theorem State.startDue_fences : s.startDue.fences = s.fences := by unfold State.startDue; split <;> simp
@[simp] theorem controllerEnable_fences : (controllerEnable s).fences = s.fences := by simp [controllerEnable]
@[simp] theorem controllerReset_fences : (controllerReset s).fences = s.fences := by simp [controllerReset]
@[simp] theorem State.putShn_fences (n) : (s.putShn n).fences = s.fences := by rfl
@[simp] theorem shutdownDeadline_fences : (shutdownDeadline s).fences = s.fences := by simp [shutdownDeadline]
@[simp] theorem State.resetConfig_fences : s.resetConfig.fences = s.fences := by rfl
@[simp] theorem functionLevelReset_fences : (functionLevelReset s).fences = s.fences := by simp [functionLevelReset]
@[simp] theorem perstDeassert_fences : (perstDeassert s).fences = s.fences := by rfl
@[simp] theorem State.pumpMsix_fences : s.pumpMsix.fences = s.fences := by simp [State.pumpMsix]
@[simp] theorem State.configWrite_fences (off be v) : (s.configWrite off be v).fences = s.fences := by simp [State.configWrite]

@[simp] theorem configurationRequest_fences (off be wr) : (configurationRequest off be wr s).fences = s.fences := by
  simp only [configurationRequest]; (repeat' split) <;> simp

/-! Completions of reads. -/

@[simp] theorem State.dropTag_fences (tag) : (s.dropTag tag).fences = s.fences := by rfl
@[simp] theorem State.lateCompletion_fences : s.lateCompletion.fences = s.fences := by rfl

@[simp] theorem State.readFails_fences (r cause) : (s.readFails r cause).fences = s.fences := by
  unfold State.readFails; split <;> simp

@[simp] theorem State.readDone_fences (tag r) : (s.readDone tag r).fences = s.fences := by simp [State.readDone]

@[simp] theorem readCompletion_fences (tag status data) : (readCompletion tag status data s).fences = s.fences := by
  simp only [readCompletion]; (repeat' split) <;> simp

@[simp] theorem completionTimeout_fences (tag) : (completionTimeout tag s).fences = s.fences := by
  unfold completionTimeout; split <;> simp

@[simp] theorem commitNow_fences (k c) : (commitNow s k c).fences = s.fences := by simp only [commitNow]; (repeat' split) <;> simp
@[simp] theorem State.poisonedRead_fences (c lba pcn) : (s.poisonedRead c lba pcn).fences = s.fences := by simp [State.poisonedRead]
@[simp] theorem State.poisonedBlock_fences (c id) : (s.poisonedBlock c id).fences = s.fences := by simp [State.poisonedBlock]

@[simp] theorem State.poisonedRecord_fences (c start) : (s.poisonedRecord c start).fences = s.fences := by
  unfold State.poisonedRecord; split <;> simp

/-! Power and temperature. -/

@[simp] theorem State.porstOuts_fences (c) : (s.porstOuts c).fences = s.fences := by simp [State.porstOuts]
@[simp] theorem porstDeassert_fences (discp ldrq) : (porstDeassert discp ldrq s).fences = s.fences := by simp [porstDeassert]
@[simp] theorem State.earlyWarning_fences : s.earlyWarning.fences = s.fences := by simp [State.earlyWarning]

@[simp] theorem powerEarlyWarning_fences (rail) : (powerEarlyWarning rail s).fences = s.fences := by
  simp only [powerEarlyWarning]; (repeat' split) <;> simp

@[simp] theorem earlyWarningEnd_fences : (earlyWarningEnd s).fences = s.fences := by simp [earlyWarningEnd]
@[simp] theorem bivouacEntry_fences (c) : (bivouacEntry c s).fences = s.fences := by simp [bivouacEntry]
@[simp] theorem pwrWake_fences (mask) : (pwrWake mask s).fences = s.fences := by simp [pwrWake]
@[simp] theorem xoStop_fences : (xoStop s).fences = s.fences := by simp [xoStop]
@[simp] theorem discPresentChange_fences (c level) : (discPresentChange c level s).fences = s.fences := by simp [discPresentChange]
@[simp] theorem loadRequestChange_fences (c level) : (loadRequestChange c level s).fences = s.fences := by simp [loadRequestChange]
@[simp] theorem State.sampleDies_fences (a b p) : (s.sampleDies a b p).fences = s.fences := by simp [State.sampleDies]
@[simp] theorem thermalSample_fences (tPort tA tB) : (thermalSample tPort tA tB s).fences = s.fences := by simp [thermalSample]
@[simp] theorem State.tripChannel_fences (c) : (s.tripChannel c).fences = s.fences := by simp [State.tripChannel]
@[simp] theorem thermalTrip_fences : (thermalTrip s).fences = s.fences := by simp [thermalTrip]

/-! Front ends, links and SRAM. -/

@[simp] theorem State.abortExecuting_fences : s.abortExecuting.fences = s.fences := by simp [State.abortExecuting]
@[simp] theorem standbyReady_fences (pass) : (standbyReady pass s).fences = s.fences := by simp [standbyReady]
@[simp] theorem State.watchdog_fences (kind chan) : (s.watchdog kind chan).fences = s.fences := by simp [State.watchdog]
@[simp] theorem State.sramError_fences (rg page fatal) : (s.sramError rg page fatal).fences = s.fences := by simp [State.sramError]

@[simp] theorem State.retireSlot_fences (k) : (s.retireSlot k).fences = s.fences := by
  simp only [State.retireSlot]; (repeat' split) <;> simp

@[simp] theorem sramCorrectable_fences (rg page) : (sramCorrectable rg page s).fences = s.fences := by simp [sramCorrectable]

@[simp] theorem registerFileParity_fences (rg page off fly) : (registerFileParity rg page off fly s).fences = s.fences := by
  simp [registerFileParity]

@[simp] theorem flitReplay_fences (die ok) : (flitReplay die ok s).fences = s.fences := by simp [flitReplay]
@[simp] theorem linkRetrain_fences (die) : (linkRetrain die s).fences = s.fences := by simp [linkRetrain]
@[simp] theorem laneRepair_fences (die dir) : (laneRepair die dir s).fences = s.fences := by simp [laneRepair]
@[simp] theorem tamperAssert_fences : (tamperAssert s).fences = s.fences := by simp [tamperAssert]
@[simp] theorem debugResponse_fences (response) : (debugResponse response s).fences = s.fences := by simp [debugResponse]

/-! The bus. -/

@[simp] theorem State.advance_fences (rg idx auto) : (s.advance rg idx auto).fences = s.fences := by simp [State.advance]

@[simp] theorem State.readAdvance_fences (rg page off) : (s.readAdvance rg page off).fences = s.fences := by
  simp only [State.readAdvance]; (repeat' split) <;> simp

@[simp] theorem State.regRead_fences (rg page off) : (s.regRead rg page off).2.fences = s.fences := by
  simp only [State.regRead]; (repeat' split) <;> simp

@[simp] theorem State.clearTables_fences (rg page) : (s.clearTables rg page).fences = s.fences := by
  simp only [State.clearTables]; (repeat' split) <;> simp

@[simp] theorem State.dropMotion_fences (c) : (s.dropMotion c).fences = s.fences := by
  simp only [State.dropMotion]; (repeat' split) <;> simp

@[simp] theorem State.clearMotion_fences (rg page) : (s.clearMotion rg page).fences = s.fences := by
  simp only [State.clearMotion]; (repeat' split) <;> simp

@[simp] theorem State.endForReset_fences (rg page) : (s.endForReset rg page).fences = s.fences := by
  unfold State.endForReset; split <;> simp

@[simp] theorem blockSoftReset_fences (rg page) : (blockSoftReset rg page s).fences = s.fences := by simp [blockSoftReset]
@[simp] theorem irqEnWrite_fences (rg page v) : (irqEnWrite rg page v s).fences = s.fences := by simp [irqEnWrite]

@[simp] theorem setCmdWrite_fences (rg page v) : (setCmdWrite rg page v s).fences = s.fences := by
  simp only [setCmdWrite]; (repeat' split) <;> simp

@[simp] theorem State.plainWrite_fences (rg page off v) : (s.plainWrite rg page off v).fences = s.fences := by
  simp [State.plainWrite]

@[simp] theorem State.pinWrite_fences (page off v) : (s.pinWrite page off v).fences = s.fences := by simp [State.pinWrite]
@[simp] theorem thermalThresholds_fences (v) : (thermalThresholds v s).fences = s.fences := by simp [thermalThresholds]
@[simp] theorem monWrite_fences (rg o v) : (monWrite rg o v s).fences = s.fences := by unfold monWrite; split <;> simp
@[simp] theorem portWrite_fences (page off v) : (portWrite page off v s).fences = s.fences := by unfold portWrite; split <;> simp
@[simp] theorem cleWrite_fences (c off v) : (cleWrite c off v s).fences = s.fences := by unfold cleWrite; split <;> simp
@[simp] theorem slotWrite_fences (c q off v) : (slotWrite c q off v s).fences = s.fences := by unfold slotWrite; split <;> simp

@[simp] theorem spindleWrite_fences (c off v) : (spindleWrite c off v s).fences = s.fences := by
  simp only [spindleWrite]; (repeat' split) <;> simp

@[simp] theorem sledWrite_fences (c off v) : (sledWrite c off v s).fences = s.fences := by
  simp only [sledWrite]; (repeat' split) <;> simp

@[simp] theorem wrcWrite_fences (c off v) : (wrcWrite c off v s).fences = s.fences := by unfold wrcWrite; split <;> simp

@[simp] theorem ldiWrite_fences (c off v) : (ldiWrite c off v s).fences = s.fences := by
  simp only [ldiWrite]; (repeat' split) <;> simp

@[simp] theorem calWrite_fences (c off v) : (calWrite c off v s).fences = s.fences := by unfold calWrite; split <;> simp
@[simp] theorem scbWrite_fences (c off v) : (scbWrite c off v s).fences = s.fences := by simp [scbWrite]
@[simp] theorem flysheetWrite_fences (rg page off v) : (flysheetWrite rg page off v s).fences = s.fences := by simp [flysheetWrite]
@[simp] theorem State.give_fences (src b) : (s.give src b).fences = s.fences := by unfold State.give; split <;> simp

@[simp] theorem State.busRead_fences (src addr size) : (s.busRead src addr size).fences = s.fences := by
  simp only [State.busRead]; split <;> simp

@[simp] theorem State.bar0Load_fences (a) : (s.bar0Load a).2.fences = s.fences := by unfold State.bar0Load; split <;> simp
@[simp] theorem msixWrite_fences (i v) : (msixWrite i v s).fences = s.fences := by unfold msixWrite; split <;> simp
@[simp] theorem bar0Read_fences (addr size) : (bar0Read addr size s).fences = s.fences := by simp [bar0Read]

@[simp] theorem registerRead_fences (src bar addr size) : (registerRead src bar addr size s).fences = s.fences := by
  unfold registerRead; split <;> simp

/-! Device time. -/

@[simp] theorem advanceTime_fences : (advanceTime s).fences = s.fences := by simp [advanceTime]
@[simp] theorem heartbeat_fences (n c) : (heartbeat n s c).fences = s.fences := by simp [heartbeat]
@[simp] theorem State.reportLatency_fences : s.reportLatency.fences = s.fences := by simp [State.reportLatency]

/-! Features. -/

@[simp] theorem State.setSch_fences (cs l) : (s.setSch cs l).fences = s.fences := by simp [State.setSch]
@[simp] theorem featStore_fences (k key v) : (featStore s k key v).fences = s.fences := by simp [featStore]

@[simp] theorem setFeature_fences (k c data) : (setFeature s k c data).fences = s.fences := by
  simp only [setFeature]; (repeat' split) <;> simp

@[simp] theorem getFeature_fences (k c) : (getFeature s k c).fences = s.fences := by
  simp only [getFeature]; (repeat' split) <;> simp

end Sys2Proof.Machine
end

section
/-! PROOF. What closes fences opens none: every operation that reaches `State.closeFence` keeps closed what is closed (R15). -/

namespace Sys2Proof.Machine
open Sys2Proof

/-- A fence that is closed in `s` is closed in `t`. -/
def FencesStay (s t : State) : Prop := ∀ d, s.fences d ≠ 0 → t.fences d ≠ 0

namespace FencesStay
variable {r s t : State}

theorem refl (s : State) : FencesStay s s := fun _ h => h

theorem of_eq (e : t.fences = s.fences) : FencesStay s t := fun d h => by rwa [e]

theorem trans (h : FencesStay r s) (k : FencesStay s t) : FencesStay r t := fun d hd => k d (h d hd)

/-- What keeps every fence may come first. -/
theorem before (e : s.fences = r.fences) (h : FencesStay s t) : FencesStay r t := (of_eq e).trans h

/-- What keeps every fence may come last. -/
theorem after (e : t.fences = s.fences) (h : FencesStay r s) : FencesStay r t := h.trans (of_eq e)

theorem cond {p : Prop} [Decidable p] (h : FencesStay r s) (k : FencesStay r t) : FencesStay r (if p then s else t) := by
  split
  · exact h
  · exact k

theorem foldl {α : Type} {g : State → α → State} (hg : ∀ x a, FencesStay x (g x a)) (l : List α) (s : State) :
    FencesStay s (l.foldl g s) := by
  induction l generalizing s with
  | nil => exact refl s
  | cons a l ih => exact (hg s a).trans (ih _)

theorem modCh {f : Chan → Chan} (hf : ∀ x, x.fence ≠ 0 → (f x).fence ≠ 0) (s : State) (c : Fin 16) : FencesStay s (s.modCh c f) := by
  intro d hd
  by_cases h : d = c
  · subst h; simpa [State.fences] using hf _ hd
  · simpa [State.fences, State.ch_modCh_ne s f h] using hd

/-- A register write that starts what keeps closed fences closed keeps them closed, reached or not. -/
theorem gated {f : State → State} (hf : ∀ x, FencesStay x (f x)) (s : State) (src : Src) (rg page off v : Nat) :
    FencesStay s (s.gated src rg page off v f) := by
  unfold State.gated; split
  · exact before (by simp) (hf _)
  · exact refl s
  · exact refl s
  · exact of_eq (by simp)

theorem whileRunning {f : State → State} (hf : ∀ x, FencesStay x (f x)) (s : State) (rg page : Nat) :
    FencesStay s (s.whileRunning rg page f) := cond (hf s) (refl s)

end FencesStay

open FencesStay
variable (s : State) (c : Fin 16)

/-- What writes a closing cause into the fence of one channel and keeps the others. -/
theorem State.shut_stays {cause : Nat} (hc : cause ≠ 0) {f : Chan → Chan} (hf : ∀ x, (f x).fence = cause) :
    FencesStay s (s.modCh c f) :=
  .modCh (fun x _ => by rw [hf]; exact hc) s c

theorem State.closeFence_stays {cause : Nat} (hc : cause ≠ 0) : FencesStay s (s.closeFence c cause) := by
  unfold State.closeFence
  split
  · split
    · exact cond (after (State.svcEnd_fences ..) (after (State.setSt_fences ..) (s.shut_stays c hc fun _ => rfl))) (refl s)
    · exact refl s
  · extract_lets s1 s2 flushes s4 s5 s6 s7 s8
    have h2 : FencesStay s s2 := before (s.cutSession_fences c) (s1.shut_stays c hc fun _ => rfl)
    have h6 : s6.fences = s2.fences := by
      simp only [s6, s5, s4]
      split <;> simp
    exact after (by simp [s8, s7, h6]) h2

theorem State.stewardFault_stays {cause : Nat} (hc : cause ≠ 0) : FencesStay s (s.stewardFault c cause) :=
  before (by simp) (State.closeFence_stays _ c hc)

theorem State.cleFaultAs_stays {cause : Nat} (hc : cause ≠ 0) : FencesStay s (s.cleFaultAs c cause) := by
  unfold State.cleFaultAs
  exact cond (refl s) (before (by simp) (State.closeFence_stays _ c hc))

theorem State.procUnmounted_stays (p : Proc) (isolate : Bool) : FencesStay s (s.procUnmounted c p isolate) := by
  unfold State.procUnmounted
  exact cond (before (by simp) (State.closeFence_stays _ c Nat.one_ne_zero)) (of_eq (by simp))

theorem State.procStep_stays : FencesStay s (s.procStep c) := by
  unfold State.procStep
  split
  · exact refl s
  · split
    · exact of_eq (by simp)
    · exact of_eq (by simp)
    · exact of_eq (by simp)
    · refine cond (refl s) ?_
      split
      · exact s.procUnmounted_stays c _ _
      · exact of_eq (by simp)
      · exact of_eq (by simp)

theorem State.progress_stays : FencesStay s (s.progress c) := by
  unfold State.progress
  refine cond (refl s) ?_
  extract_lets s1 s2
  have h2 : s2.fences = s.fences := by
    simp only [s2, s1]
    split <;> simp
  exact before h2 (after (State.checkShutdown_fences _) (foldl (fun x _ => x.procStep_stays c) (List.replicate 6 ()) s2))

theorem State.startProc_stays (k : ProcKind) (slot : Option Nat) : FencesStay s (s.startProc c k slot) :=
  before (by simp) (State.progress_stays _ c)

theorem checkpointDue_stays : FencesStay s (checkpointDue c s) := by
  unfold checkpointDue
  split
  · exact refl s
  · exact cond (refl s) (before (by simp) (State.progress_stays _ c))

theorem checkpointNow_stays : FencesStay s (checkpointNow c s) := cond (refl s) (before (by simp) (State.progress_stays _ c))

theorem State.stage_stays (k : Nat) (x : CmdSlot) (i : Intake) : FencesStay s (s.stage c k x i) := by
  unfold State.stage
  exact before (by simp) (State.progress_stays _ c)

theorem writeStaged_stays (k : Nat) : FencesStay s (writeStaged k s) := by
  unfold writeStaged
  split
  · exact refl s
  · split
    · exact refl s
    · split
      · exact refl s
      · exact cond (s.stage_stays _ k _ _) (refl s)

theorem unmountCommand_stays (k : Nat) (x : CmdSlot) : FencesStay s (unmountCommand s k x c) := by
  unfold unmountCommand
  exact cond (of_eq (by simp)) (before (by simp) (State.startProc_stays _ c _ _))

theorem sealCommand_stays (k : Nat) (x : CmdSlot) : FencesStay s (sealCommand s k x c) := by
  unfold sealCommand
  split
  · exact of_eq (by simp)
  · exact cond (of_eq (by simp)) (cond (of_eq (by simp)) (cond (of_eq (by simp)) (s.startProc_stays c _ _)))

theorem isolate_stays (k : Nat) (x : CmdSlot) : FencesStay s (isolate s k x c) := by
  unfold isolate
  refine cond (of_eq (by simp)) (cond (of_eq (by simp)) (cond ?_ ?_))
  · exact before (by simp) (State.startProc_stays _ c _ _)
  · exact after (State.showSafe_fences ..) <| after (State.forbidWrites_fences ..) <|
      before (by simp) (State.closeFence_stays _ c Nat.one_ne_zero)

theorem State.release_stays : FencesStay s (s.release c) := by
  unfold State.release
  refine cond (refl s) ?_
  split
  · exact s.closeFence_stays c (by decide)
  · exact of_eq (by simp)

theorem trainingFailure_stays : FencesStay s (trainingFailure c s) :=
  cond (refl s) (before (by simp) (State.closeFence_stays _ c (by decide)))

theorem bootAndRelease_stays : FencesStay s (bootAndRelease s) := by
  unfold bootAndRelease
  exact cond (of_eq (by simp)) (after (State.becomeReady_fences _) (before (by simp) (foldl (fun x d => x.release_stays d) _ _)))

theorem State.enterHostLost_stays : FencesStay s (s.enterHostLost c) :=
  cond (refl s) (before (by simp) (State.startProc_stays _ c _ _))

theorem State.loseHost_stays : FencesStay s s.loseHost := foldl (fun x d => x.enterHostLost_stays d) _ s

theorem normalShutdown_stays : FencesStay s (normalShutdown s) := by
  unfold normalShutdown
  exact cond (refl s) <| after (State.checkShutdown_fences _) <|
    before (by simp) (foldl (fun x d => cond (x.startProc_stays d _ _) (refl x)) _ _)

theorem abruptShutdown_stays : FencesStay s (abruptShutdown s) := cond (refl s) (before (by simp) (State.loseHost_stays _))

theorem perst_stays (cause : LinkReset) : FencesStay s (perst cause s) := by
  unfold perst
  exact cond (of_eq (by simp)) (after (State.startDue_fences _) (before (by simp) (State.loseHost_stays _)))

theorem State.imageSwitched_stays : FencesStay s (s.imageSwitched c) := by
  unfold State.imageSwitched
  split
  · exact s.closeFence_stays c (by decide)
  · exact of_eq (by simp)

theorem eccPoison_stays (word : Nat) (use : PoisonUse) : FencesStay s (eccPoison c word use s) := by
  unfold eccPoison
  cases use with
  | firmware => exact before (by simp) (State.stewardFault_stays _ c (by decide))
  | other => exact of_eq (by simp)
  | readBlock k lba pcn => exact of_eq (by simp)
  | stagedRead k id => exact of_eq (by simp)
  | assembly id => exact of_eq (by simp)
  | mapRecord start => exact of_eq (by simp)

theorem channelPllLoss_stays : FencesStay s (channelPllLoss c s) := cond (refl s) (s.closeFence_stays c (by decide))

theorem State.failover_stays (cause : Nat) : FencesStay s (s.failover cause) := by
  unfold State.failover
  exact cond (refl s) (cond (of_eq (by simp)) (before (by simp) (State.loseHost_stays _)))

theorem stewardWatchdog_stays : FencesStay s (stewardWatchdog c s) :=
  cond (before (by simp) (State.stewardFault_stays _ c (by decide))) (refl s)

theorem sramUncorrectable_stays (loc : SramSite) : FencesStay s (sramUncorrectable loc s) := by
  unfold sramUncorrectable
  refine cond (refl s) ?_
  cases loc with
  | steward c => exact cond (before (by simp) (State.stewardFault_stays _ c (by decide))) (refl s)
  | cle c => exact cond (before (by simp) (State.cleFaultAs_stays _ c (by decide))) (refl s)
  | fabric c => exact cond (s.closeFence_stays c (by decide)) (refl s)
  | channelBlock c page => exact cond (before (by simp) (State.closeFence_stays _ c (by decide))) (refl s)
  | qmgSlot k => exact of_eq (by simp)
  | frontEnd pair => exact cond (before (by simp) (State.failover_stays _ _)) (of_eq (by simp))
  | securityCore => exact of_eq (by simp)
  | portBlock page => exact of_eq (by simp)

theorem linkRetrainDone_stays (die : Fin 2) (ok : Bool) : FencesStay s (linkRetrainDone die ok s) := by
  unfold linkRetrainDone
  exact cond (refl s) (cond (of_eq (by simp)) (before (by simp)
    (foldl (fun x d => cond (x.closeFence_stays d (by decide)) (refl x)) _ _)))

/-! Register writes. -/

theorem State.resumeWork_stays (rg : Nat) : FencesStay s (s.resumeWork rg) := by
  unfold State.resumeWork
  split
  · exact before (by simp) (State.progress_stays _ _)
  · exact of_eq (by simp)

theorem blockResume_stays (rg page : Nat) : FencesStay s (blockResume rg page s) :=
  cond (refl s) (before (by simp) (State.resumeWork_stays _ rg))

theorem blkCtlWrite_stays (rg page v : Nat) : FencesStay s (blkCtlWrite rg page v s) := by
  unfold blkCtlWrite
  exact cond (before (by simp) (State.resumeWork_stays _ rg)) (of_eq (by simp))

theorem headerWrite_stays (rg page off v : Nat) : FencesStay s (headerWrite rg page off v s) := by
  unfold headerWrite
  split
  · exact blkCtlWrite_stays s rg page v
  all_goals exact of_eq (by simp)

theorem mapWrite_stays (off v : Nat) : FencesStay s (mapWrite c off v s) := by
  unfold mapWrite
  split
  · exact cond (checkpointNow_stays s c) (refl s)
  · exact of_eq (by simp)
  · exact of_eq (by simp)

theorem chanWrite_stays (page off v : Nat) : FencesStay s (chanWrite c page off v s) := by
  unfold chanWrite
  split
  · exact of_eq (by simp)
  · split
    case h_9 => exact mapWrite_stays s c off v
    all_goals exact of_eq (by simp)

theorem State.regWrite_stays (rg page off v : Nat) : FencesStay s (s.regWrite rg page off v) := by
  unfold State.regWrite
  refine cond (refl s) (cond (before (by simp) (headerWrite_stays _ rg page off v)) (cond ?_ (of_eq (by simp))))
  split
  · exact before (by simp) (chanWrite_stays _ _ page off v)
  · exact of_eq (by simp)

theorem State.shadowWrite_stays (rg page off v : Nat) : FencesStay s (s.shadowWrite rg page off v) :=
  cond (s.regWrite_stays rg page off v) (refl s)

theorem State.busWrite_stays (src : Src) (addr size v : Nat) : FencesStay s (s.busWrite src addr size v) := by
  unfold State.busWrite
  dsimp only; split
  · exact of_eq (by simp)
  · exact cond (s.regWrite_stays _ _ _ _) (refl s)
  · exact cond (s.shadowWrite_stays _ _ _ _) (refl s)
  · exact refl s

theorem ccWrite_stays (v : Nat) : FencesStay s (ccWrite v s) := by
  unfold ccWrite
  extract_lets old v1 s1 s2 n s3
  have h2 : s2.fences = s.fences := by simp [s2, s1]
  exact cond (of_eq h2) (after (State.putShn_fences ..)
    (before h2 (cond (normalShutdown_stays s2) (cond (abruptShutdown_stays s2) (refl s2)))))

theorem bar0Store_stays (a v : Nat) : FencesStay s (bar0Store a v s) := by
  unfold bar0Store
  refine cond (of_eq (by simp)) (cond (of_eq (by simp)) ?_)
  split
  · exact ccWrite_stays s v
  all_goals exact of_eq (by simp)

theorem bar0Write_stays (addr size v : Nat) : FencesStay s (bar0Write addr size v s) := by
  unfold bar0Write
  exact cond (refl s) (cond ((bar0Store_stays s _ _).trans (bar0Store_stays _ _ _)) (bar0Store_stays s _ _))

theorem registerWrite_stays (src : Src) (bar addr size : Nat) (v : BitVec 64) :
    FencesStay s (registerWrite src bar addr size v s) := by
  cases src with
  | host => exact cond (refl s) (cond (of_eq (by simp)) (cond (bar0Write_stays s _ _ _) (s.busWrite_stays _ _ _ _)))
  | firmware => exact cond (refl s) (s.busWrite_stays _ _ _ _)

/-! Device time, and accesses that waited for a wake. -/

theorem Access.serve_stays (a : Access) : FencesStay s (a.serve s) := by
  cases a with
  | read addr size => exact of_eq (by simp [Access.serve])
  | write addr value => exact s.busWrite_stays _ _ _ _

theorem State.pumpBus_stays (l : List Access) : FencesStay s (s.pumpBus l) := by
  induction l generalizing s with
  | nil => exact refl s
  | cons a l ih =>
    unfold State.pumpBus
    dsimp only
    split
    · exact of_eq (by simp)
    all_goals exact (a.serve_stays s).trans (ih _)

theorem State.pumpInbound_stays : FencesStay s s.pumpInbound :=
  after (State.pumpWindow_fences ..) <| after (by simp) <|
    before (by simp) (State.pumpBus_stays (s.modFront fun f => { f with q2 := [] }) s.front.q2)

theorem wakeComplete_stays : FencesStay s (wakeComplete c s) :=
  cond (refl s) (before (by simp) (State.pumpInbound_stays _))

theorem tick_stays : FencesStay s (tick s) :=
  cond (refl s) <| after (State.reportLatency_fences _) <|
    (before (by simp) (foldl State.progress_stays allChans _)).trans (State.pumpInbound_stays _)

/-! What ends a Channel Service: RESTORE (OP 3) alone opens a fence, and only its own channel's. -/

/-- Every fence closed in `s` is closed in `t`, but for channel `c`'s where its RESTORE is in progress. -/
def StaysButRestored (c : Fin 16) (s t : State) : Prop :=
  ∀ d, s.fences d ≠ 0 → t.fences d = 0 → c = d ∧ ∃ k, (s.ch d).svc = some (k, 3)

theorem StaysButRestored.of_stays {s t : State} {c : Fin 16} (h : FencesStay s t) : StaysButRestored c s t :=
  fun d hd ht => absurd ht (h d hd)

theorem State.svcLoaded_stays {op : Nat} (ho : op ≠ 3) : FencesStay s (s.svcLoaded c op) := by
  unfold State.svcLoaded
  split
  · exact s.closeFence_stays c (by decide)
  · exact of_eq (by simp [ho])

theorem State.svcLoaded_fences_ne {d : Fin 16} (hd : d ≠ c) (h : s.fences d ≠ 0) : (s.svcLoaded c 3).fences d ≠ 0 := by
  unfold State.svcLoaded
  split
  · exact s.closeFence_stays c (by decide) d h
  · have keep (f : Chan → Chan) (x : State) : (x.modCh c f).fences d = x.fences d := congrArg Chan.fence (State.ch_modCh_ne x f hd)
    simpa [keep] using h

theorem State.svcLoaded_butRestored {r : State} {k : Nat} (hk : (r.ch c).svc = some (k, 3)) (e : s.fences = r.fences) :
    StaysButRestored c r (s.svcLoaded c 3) := by
  intro d hd ht
  by_cases h : d = c
  · exact ⟨h.symm, k, h ▸ hk⟩
  · exact absurd ht (s.svcLoaded_fences_ne c h (e ▸ hd))

theorem channelImageLoaded_butRestored (ok : Bool) : StaysButRestored c s (channelImageLoaded c ok s) := by
  have closed : FencesStay s (s.closeFence c 8) := s.closeFence_stays c (by decide)
  unfold channelImageLoaded
  split
  · exact .of_stays (refl s)
  · split
    · next k op hk =>
      by_cases ho : op = 3
      · subst ho
        split
        · split
          · exact s.svcLoaded_butRestored c hk rfl
          · exact .of_stays closed
        · exact .of_stays (refl s)
      · exact .of_stays (cond (cond (s.svcLoaded_stays c ho) closed) (refl s))
    · exact .of_stays (cond (cond (s.imageSwitched_stays c) closed) (refl s))

theorem fillDone_butRestored (ms : Nat) : StaysButRestored c s (fillDone c ms s) := by
  unfold fillDone
  split
  · exact .of_stays (refl s)
  · extract_lets s1
    have h1 : s1.fences = s.fences := by simp [s1]
    split
    · next k hk => exact s1.svcLoaded_butRestored c hk h1
    · exact .of_stays (before h1 (s1.release_stays c))

end Sys2Proof.Machine
end

section
/-! PROOF. A closed fence reopens only by Channel Service RESTORE or PORST# (R15). -/

namespace Sys2Proof.Machine
open Sys2Proof FencesStay

/-- The commands by which a closed fence may come to be open: what ends a RESTORE, PORST# and what acts as it. -/
def mayReopen : Instr → Bool
  | .powerOnFillDone .. | .channelImageLoaded .. | .porstAssert | .brownout _ | .portPllLoss | .referenceLoss => true
  | _ => false

/-- Every other command keeps closed fences closed. Those named apart can close one, or answer otherwise than by one next state; a command
of a slot first asks what stands in the slot; the rest leave every fence as it is. -/
theorem exec_stays {s t : State} {i : Instr} (hi : mayReopen i = false) (h : exec i s = .next t) : FencesStay s t := by
  cases i with
  | powerOnFillDone | channelImageLoaded | porstAssert | brownout | portPllLoss | referenceLoss => cases hi
  | perst cause =>
    cases h
    exact perst_stays s cause
  | registerWrite src bar addr size value =>
    cases h
    exact registerWrite_stays s src bar addr size value
  | blockResume src rg page =>
    cases h
    exact gated (fun x => blockResume_stays x rg page) s src _ _ _ _
  | wakeComplete c =>
    cases h
    exact wakeComplete_stays s c
  | trainingFailure c =>
    cases h
    exact trainingFailure_stays s c
  | channelPllLoss c =>
    cases h
    exact channelPllLoss_stays s c
  | stewardWatchdog c =>
    cases h
    exact stewardWatchdog_stays s c
  | sramUncorrectable loc =>
    cases h
    exact sramUncorrectable_stays s loc
  | linkRetrainDone die ok =>
    cases h
    exact linkRetrainDone_stays s die ok
  | checkpointDue c =>
    cases h
    exact checkpointDue_stays s c
  | checkpointNow src c =>
    cases h
    exact gated (fun x => checkpointNow_stays x c) s src _ _ _ _
  | checkpointDone c =>
    cases h
    exact before (by simp) (State.progress_stays _ c)
  | writeStaged k =>
    cases h
    exact writeStaged_stays s k
  | verifyVerdict c signals =>
    cases h
    exact whileRunning (fun x => before (verdict_fences x c signals) (State.progress_stays _ c)) s _ _
  | cleFault c =>
    cases h
    exact s.cleFaultAs_stays c (by decide)
  | stopped c =>
    cases h
    exact before (by simp) (State.progress_stays _ c)
  | stewardFenceRequest c =>
    cases h
    exact cond (s.closeFence_stays c (by decide)) (refl s)
  | normalShutdown =>
    cases h
    exact normalShutdown_stays s
  | abruptShutdown =>
    cases h
    exact abruptShutdown_stays s
  | bootVerify =>
    cases h
    exact bootAndRelease_stays s
  | frontEndWatchdog =>
    cases h
    exact cond (before (by simp) (State.failover_stays _ 3)) (refl s)
  | lockstepMismatch =>
    cases h
    exact s.failover_stays 1
  | unmount k =>
    cases h
    split
    · exact unmountCommand_stays s _ k _
    · exact refl s
  | sealDisc k =>
    cases h
    split
    · exact sealCommand_stays s _ k _
    · exact refl s
  | serviceIsolate k =>
    cases h
    split
    · exact isolate_stays s _ k _
    · exact refl s
  | eccPoison c word use =>
    unfold exec at h
    dsimp only [execEccPoison] at h
    split at h
    · cases h; exact cond (eccPoison_stays s c word use) (refl s)
    · cases h
  | eccCorrected c word rewritten =>
    unfold exec at h
    dsimp only [execEccCorrected] at h
    split at h <;> cases h
    exact of_eq (by simp)
  | bypass code tdi =>
    unfold exec at h
    dsimp only [execBypass] at h
    split at h <;> cases h
    exact of_eq (by simp)
  | abort | asyncEventRequest | createIoCq | createIoSq | deleteIoCq | deleteIoSq | firmwareCommitAtReset
  | firmwareCommitReplace | firmwareCommitReplaceActivate | firmwareDownload | getFeatures | keyDiscard | keyList
  | keyLoad | setFeatures =>
    refine of_eq ?_
    unfold exec at h
    dsimp only [execAbort, execAsyncEventRequest, execCreateIoCq, execCreateIoSq, execDeleteIoCq, execDeleteIoSq,
      execFirmwareCommitAtReset, execFirmwareCommitReplace, execFirmwareCommitReplaceActivate,
      execFirmwareDownload, execGetFeatures, execKeyDiscard, execKeyList, execKeyLoad, execSetFeatures] at h
    split at h <;> cases h <;> simp
  | calClearSet | calLoadSet | calPowerRun | calReadBack | calServoSweep | firmwareCommitNow | getLogPage
  | identify | keyRewrap | mediaProbe | mount | read | servicePowerDown | serviceReload | serviceRestore | verify
  | write | flush =>
    refine of_eq ?_
    cases h
    (repeat' split) <;> simp
  | _ =>
    cases h
    exact of_eq (by simp)

theorem fence_mayReopen {s t : State} {i : Instr} (h : exec i s = .next t) {c : Fin 16} (hc : s.fences c ≠ 0) (ht : t.fences c = 0) :
    mayReopen i = true := by
  by_contra hi
  exact exec_stays (Bool.eq_false_of_not_eq_true hi) h c hc ht

/-- Settles O47: a tick and every command but those of `mayReopen` keep what is closed closed; of these the two that end a RESTORE
reopen their own channel's fence alone. -/
theorem fencesReopenOnlyByRestoreOrPorst : Obligations.FencesReopenOnlyByRestoreOrPorst := by
  unfold Obligations.FencesReopenOnlyByRestoreOrPorst
  intro s t c h hc ht
  change s.fences c ≠ 0 at hc
  change t.fences c = 0 at ht
  cases hp : s.pending with
  | nil =>
    simp only [step, hp] at h
    cases h
    exact tick_stays s c hc ht
  | cons i rest =>
    simp only [step, hp] at h
    have hr : s.fences = { s with pending := rest }.fences := (State.mk_fences ..).symm
    have hi := fence_mayReopen h (hr ▸ hc) ht
    cases i with
    | powerOnFillDone d ms =>
      cases h
      exact fillDone_butRestored { s with pending := rest } d ms c (hr ▸ hc) ht
    | channelImageLoaded d ok =>
      cases h
      exact channelImageLoaded_butRestored { s with pending := rest } d ok c (hr ▸ hc) ht
    | porstAssert | brownout | portPllLoss | referenceLoss => trivial
    | _ => cases hi

end Sys2Proof.Machine
end

section
/-! PROOF. The interposer links: what a replay, a retrain and a lane repair count, and when the channels of a die are quarantined
(R8, R9, R440). -/

namespace Sys2Proof.Machine
open Sys2Proof

variable {s : State} (die dir : Fin 2)

/-! The counts of both links have their places in the register map. -/

theorem fReplays_placed : (fReplays die).Placed := by
  unfold fReplays; split <;> constructor <;> decide

theorem fRetrains_placed : (fRetrains die).Placed := by
  unfold fRetrains; split <;> constructor <;> decide

theorem fSpares_placed : (fSpares die).Placed := by
  unfold fSpares; split <;> constructor <;> decide

/-- A write of one port register keeps every other field, whatever changes beside the registers. -/
theorem FieldsKept.of_regs_wr {t : State} {f : Fld} {v : Nat} (hf : f.Placed) (e : t.regs = (s.wr 0 f v).regs) :
    FieldsKept s t (FieldsOf 0 [f]) :=
  .of_regs (.wr (.refl s _) v hf List.mem_cons_self) e

theorem State.pr_of_incSat_regs {t : State} {f : Fld} (e : t.regs = (s.incSat 0 f).regs) : t.pr f = min (s.pr f + 1) (2 ^ f.width - 1) :=
  (State.rd_eq_of_regs e 0 f).trans (s.incSat_rd_self 0 f 1)

/-! The four commands outside PORST#. -/

section Running
variable (hp : s.plat.porst = false)
include hp

theorem flitReplay_eq (ok : Bool) :
    flitReplay die ok s = { s with
      regs := (s.incSat 0 (fReplays die)).regs
      plat := { s.plat with
        replays := SMap.put s.plat.replays die.val 0 (if ok then 0 else min 4 (SMap.get s.plat.replays die.val 0 + 1)) } } := by
  unfold flitReplay
  rw [if_neg (by simp [hp])]
  rfl

theorem linkRetrain_eq (ht : s.plat.training.contains die.val = false)
    (hd : 4 ≤ SMap.get s.plat.replays die.val 0 ∨ 1 ≤ SMap.get s.plat.retrains die.val 0 ∧ SMap.get s.plat.retrains die.val 0 < 3) :
    linkRetrain die s = { s with
      regs := (s.incSat 0 (fRetrains die)).regs
      plat := { s.plat with replays := SMap.put s.plat.replays die.val 0 0, training := die.val :: s.plat.training } } := by
  have due : (decide (SMap.get s.plat.replays die.val 0 ≥ 4) ||
      (decide (SMap.get s.plat.retrains die.val 0 ≥ 1) && decide (SMap.get s.plat.retrains die.val 0 < 3))) = true := by
    simpa only [Bool.or_eq_true, Bool.and_eq_true, decide_eq_true_eq] using hd
  unfold linkRetrain
  rw [if_neg (by simp only [hp, ht, due]; decide)]
  rfl

theorem laneRepair_spare (hn : SMap.get s.plat.spares (die.val * 2 + dir.val) 0 < 4) :
    ∃ spares, spares = SMap.put s.plat.spares (die.val * 2 + dir.val) 0 (SMap.get s.plat.spares (die.val * 2 + dir.val) 0 + 1) ∧
      laneRepair die dir s = ({ s with plat := { s.plat with spares := spares } } : State).pw (fSpares die)
        (max (SMap.get spares (die.val * 2) 0) (SMap.get spares (die.val * 2 + 1) 0)) := by
  refine ⟨_, rfl, ?_⟩
  unfold laneRepair
  rw [if_neg (by simp [hp]), if_neg (Nat.not_le.mpr hn)]
  rfl

theorem laneRepair_degraded (hn : 4 ≤ SMap.get s.plat.spares (die.val * 2 + dir.val) 0) :
    laneRepair die dir s = (s.pw (fDegraded die) 1).irq 0 0x18 2 := by
  unfold laneRepair
  rw [if_neg (by simp [hp]), if_pos hn]

end Running

theorem linkRetrainDone_eq (ok : Bool) (ht : s.plat.training.contains die.val = true) :
    linkRetrainDone die ok s =
      (let n := if ok then 0 else SMap.get s.plat.retrains die.val 0 + 1
      let s1 : State := { s with plat := { s.plat with
        training := s.plat.training.filter (· != die.val), retrains := SMap.put s.plat.retrains die.val 0 n } }
      if n < 3 then s1
      else (allChans.filter fun c => c.val / 8 == die.val).foldl (fun (s : State) (c : Fin 16) =>
        if s.alive c then s.closeFence c 5 else s) s1) := by
  unfold linkRetrainDone
  rw [if_neg (by simp only [ht]; decide)]

/-- Settles O14: each command is one write of its link's count and one entry of the die's own tables. -/
theorem interposerLinksAndLanes : Obligations.InterposerLinksAndLanes := by
  unfold Obligations.InterposerLinksAndLanes
  intro s die dir hp
  refine ⟨fun ok => ?replay, fun ht hd => ?retrain, fun ht => ?done, fun hn => ?spare, fun hn => ?degraded⟩
  case replay =>
    refine ⟨_, congrArg Host.Outcome.next (flitReplay_eq die hp ok), State.pr_of_incSat_regs rfl, ?_, fun d hd => ?_,
      .of_regs_wr (fReplays_placed die) rfl, rfl⟩
    · exact SMap.get_put_self ..
    · exact SMap.get_put_ne _ _ _ _ hd
  case retrain =>
    exact ⟨_, congrArg Host.Outcome.next (linkRetrain_eq die hp ht hd), rfl, SMap.get_put_self s.plat.replays die.val 0 0,
      State.pr_of_incSat_regs rfl, .of_regs_wr (fRetrains_placed die) rfl⟩
  case done =>
    exact ⟨congrArg Host.Outcome.next (linkRetrainDone_eq die true ht), congrArg Host.Outcome.next (linkRetrainDone_eq die false ht)⟩
  case spare =>
    obtain ⟨spares, hs, he⟩ := laneRepair_spare die dir hp hn
    refine ⟨_, congrArg Host.Outcome.next he, ?_, .of_regs_wr (fSpares_placed die) rfl, rfl, rfl, State.pr_pw_self ..⟩
    simp [hs]
  case degraded => exact congrArg Host.Outcome.next (laneRepair_degraded die dir hp hn)

end Sys2Proof.Machine
end

section
/-! PROOF. Behind a closed fence no host write starts anything in the channel (R14). -/

namespace Sys2Proof.Machine
open Sys2Proof

@[simp] theorem chan?_chRg (c : Fin 16) : chan? (chRg c - 1) = some c := by
  simp [chan?, chRg]

/-! What the host meets at a channel whose fence is closed, or which has no power (log 21), while no access waits for a wake (R307). -/

section Fenced
variable {s : State} {c : Fin 16} (hq : s.front.q2 = []) (hc : (s.ch c).fence ≠ 0 ∨ (s.ch c).powered = false)

include hc in
theorem State.meets_fenced (page : Nat) : s.meets (chRg c) page = if shadowPage page then .shadow else .closed := by
  have h : ((s.ch c).fence != 0 || !(s.ch c).powered) = true := by simpa using hc
  unfold State.meets
  rw [if_neg (by simp [chRg]), chan?_chRg]
  exact if_pos h

include hq hc

theorem State.reach_fenced (page : Nat) : s.reach .host (chRg c) page = if shadowPage page then .shadow else .closed := by
  simp [State.reach, hq, State.meets_fenced hc]

theorem State.reach_fenced_closed {page : Nat} (hp : shadowPage page = false) : s.reach .host (chRg c) page = .closed := by
  simp [State.reach_fenced hq hc, hp]

theorem State.reach_fenced_chn : s.reach .host (chRg c) 0 = .shadow := State.reach_fenced hq hc 0

/-- A register write that starts something is ignored, on a shadow page as on any other. -/
theorem State.gated_fenced (page off v : Nat) (eff : State → State) : s.gated .host (chRg c) page off v eff = s := by
  unfold State.gated
  rw [State.reach_fenced hq hc]
  cases shadowPage page with
  | true => rfl
  | false => rfl

/-- `IRQ_STS` and `IRQ_TEST` of another page than CHN are ignored too. -/
theorem State.gatedIrq_fenced {page : Nat} (hp : page ≠ 0) (off v : Nat) (eff : State → State) :
    s.gatedIrq .host (chRg c) page off v eff = s := by
  unfold State.gatedIrq
  rw [if_neg fun h => hp h.1]
  exact State.gated_fenced hq hc page off v eff

/-- Those of CHN reach their register. -/
theorem State.gatedIrq_fenced_chn (off v : Nat) (eff : State → State) :
    s.gatedIrq .host (chRg c) 0 off v eff = eff (s.unmark (chRg c) 0 off false) := by
  unfold State.gatedIrq
  exact if_pos ⟨rfl, State.reach_fenced_chn hq hc⟩

section Bus
variable {addr : Nat} (size : Nat) (hr : addr / 0x100000 = chRg c) (hp : shadowPage (addr / 0x1000 % 0x100) = false)
include hr hp

theorem State.busRead_fenced : s.busRead .host addr size = s.answer (.readData (zeros size)) := by
  unfold State.busRead
  simp only [hr, State.reach_fenced_closed hq hc hp]
  rfl

theorem State.busWrite_fenced (v : Nat) : s.busWrite .host addr size v = s := by
  unfold State.busWrite
  simp only [hr, State.reach_fenced_closed hq hc hp]

end Bus
end Fenced

/-- Settles O21: every host write that starts something is `State.gated`, which nothing passes at a closed fence. -/
theorem fencedChannelsIgnoreHostWrites : Obligations.FencedChannelsIgnoreHostWrites := by
  unfold Obligations.FencedChannelsIgnoreHostWrites
  intro s c hq hc
  have ignored (page off v : Nat) (eff : State → State) :
      Host.Outcome.next (s.gated .host (chRg c) page off v eff) = (Host.Outcome.next s : HRes) :=
    congrArg Host.Outcome.next (State.gated_fenced hq hc page off v eff)
  refine ⟨fun page w n a v h q b p m => ?writes, fun page bits hp => ⟨?_, ?_⟩, fun bits => ⟨?_, ?_⟩,
    fun addr size hr hp => ⟨?_, fun v => ?_⟩⟩
  case writes =>
    simp only [List.forall_mem_cons]
    and_intros
    on_goal 54 => exact List.forall_mem_nil _
    all_goals exact ignored _ _ _ _
  · exact congrArg Host.Outcome.next (State.gatedIrq_fenced hq hc hp 0x018 bits.toNat _)
  · exact congrArg Host.Outcome.next (State.gatedIrq_fenced hq hc hp 0x01C bits.toNat _)
  · exact congrArg Host.Outcome.next (State.gatedIrq_fenced_chn hq hc 0x018 bits.toNat _)
  · exact congrArg Host.Outcome.next (State.gatedIrq_fenced_chn hq hc 0x01C bits.toNat _)
  · exact State.busRead_fenced hq hc size hr hp
  · exact State.busWrite_fenced hq hc size hr hp v

end Sys2Proof.Machine
end

section
/-! PROOF. Completing a command leaves every channel and its DRAM as they are. -/

namespace Sys2Proof.Machine
open Sys2Proof

/-- The channels and their DRAM. -/
def State.media (s : State) : Vector Chan 16 × SMap Byte := (s.chans, s.dram)

variable (s : State)

@[simp] theorem State.ite_media (p : Prop) [Decidable p] (t : State) : (if p then s else t).media = if p then s.media else t.media :=
  apply_ite State.media p s t

@[simp] theorem State.modFront_media (f : Front → Front) : (s.modFront f).media = s.media := rfl
@[simp] theorem State.putSlot_media (k : Nat) (x : CmdSlot) : (s.putSlot k x).media = s.media := rfl
@[simp] theorem State.freeSlot_media (k : Nat) : (s.freeSlot k).media = s.media := rfl

theorem State.cntSaturated_media (c : Fin 16) (i : Nat) : (s.cntSaturated c i).media = s.media := by
  unfold State.cntSaturated
  split
  · rfl
  · simp [State.media]

@[simp] theorem State.cnt_media (c : Fin 16) (i n : Nat) : (s.cnt c i n).media = s.media := by
  have put (v : Nat) : (s.tput .counter (chRg c) i v).media = s.media := rfl
  simp only [State.cnt, State.ite_media, State.cntSaturated_media, put, ite_self]

@[simp] theorem State.modSmart_media (c : Option (Fin 16)) (f : Smart → Smart) : (s.modSmart c f).media = s.media := by
  cases c with
  | none => rfl
  | some c => rfl

@[simp] theorem State.finish_media (k : Nat) (st : Status) (d0 d1 : Nat) : (s.finish k st d0 d1).media = s.media := by
  unfold State.finish
  split
  · rfl
  · extract_lets s1 s2 s3
    have h3 : s3.media = s.media := by simp [s3, s2, s1]
    (repeat' split) <;> simp [h3]

theorem State.settleWait_media (k : Nat) : (s.settleWait k).media = s.media := by
  simp [State.settleWait]

theorem State.settleWait_ch (k : Nat) (c : Fin 16) : (s.settleWait k).ch c = s.ch c :=
  congrArg (fun m => m.1[c]) (s.settleWait_media k)

theorem State.settleWait_dram (k : Nat) : (s.settleWait k).dram = s.dram := congrArg Prod.snd (s.settleWait_media k)

end Sys2Proof.Machine
end

section
/-! PROOF. The data of a granted write is read in requests that lie within the command's pieces (R303). -/

namespace Sys2Proof.Machine
open Sys2Proof

/-- Every part of a transfer lies within it. -/
theorem splitAt_within {cut fuel a n : Nat} {q : Nat × Nat} (h : q ∈ splitAt cut fuel a n) : a ≤ q.1 ∧ q.1 + q.2 ≤ a + n := by
  induction fuel generalizing a n with
  | zero => simp [splitAt] at h
  | succ fuel ih =>
    by_cases hn : n = 0
    · simp [splitAt, hn] at h
    · simp only [splitAt, hn, if_false, List.mem_cons] at h
      rcases h with rfl | h
      · dsimp only
        omega
      · have := ih h
        omega

/-- The requests for one piece outside the device's own window, at byte `ofs` of the transfer. -/
def pieceReads (k chan cut now ofs : Nat) (p : Nat × Nat) : List ReadReq :=
  (splitAt cut (p.2 / cut + 2) p.1 p.2).map fun q => ⟨k, chan, q.1, ofs + (q.1 - p.1), q.2, [], now, false⟩

/-- What a piece outside the window adds to the transfer started so far. -/
def requestPiece (k chan cut : Nat) (acc : Nat × Bool × State) (p : Nat × Nat) : Nat × Bool × State :=
  (acc.1 + p.2, acc.2.1, acc.2.2.modFront fun f => { f with readQ := f.readQ ++ pieceReads k chan cut acc.2.2.plat.time acc.1 p })

/-- A request of slot `k` and that channel, within one of the pieces. -/
def ReadReq.Within (r : ReadReq) (k chan : Nat) (ps : List (Nat × Nat)) : Prop :=
  r.slot = k ∧ r.chan = chan ∧ ∃ p ∈ ps, p.1 ≤ r.addr ∧ r.addr + r.len ≤ p.1 + p.2

theorem pieceReads_within {k chan cut now ofs : Nat} {p : Nat × Nat} {r : ReadReq} (h : r ∈ pieceReads k chan cut now ofs p)
    {ps : List (Nat × Nat)} (hp : p ∈ ps) : r.Within k chan ps := by
  obtain ⟨q, hq, rfl⟩ := List.mem_map.mp h
  exact ⟨rfl, rfl, p, hp, splitAt_within hq⟩

theorem foldl_requestPiece (k chan cut : Nat) (ps : List (Nat × Nat)) (ofs : Nat) (bad : Bool) (s : State) :
    ∃ ofs' rs, ps.foldl (requestPiece k chan cut) (ofs, bad, s) =
        (ofs', bad, s.modFront fun f => { f with readQ := f.readQ ++ rs }) ∧ ∀ r ∈ rs, r.Within k chan ps := by
  induction ps generalizing ofs s with
  | nil => exact ⟨ofs, [], by simp [State.modFront], fun r hr => by cases hr⟩
  | cons p ps ih =>
    obtain ⟨ofs', rs, hf, hr⟩ := ih (ofs + p.2) (requestPiece k chan cut (ofs, bad, s) p).2.2
    refine ⟨ofs', pieceReads k chan cut s.plat.time ofs p ++ rs, ?_, fun r h => ?_⟩
    · rw [List.foldl_cons]
      refine hf.trans ?_
      simp [requestPiece, State.modFront]
    · rcases List.mem_append.mp h with h | h
      · exact pieceReads_within h List.mem_cons_self
      · obtain ⟨hk, hc, p', hp, hw⟩ := hr r h
        exact ⟨hk, hc, p', List.mem_cons_of_mem _ hp, hw⟩

/-- The reads of data outside the window are queued, and what can go out goes out. -/
theorem State.fetchData_outside (s : State) (k : Nat) {x : CmdSlot} (c : Fin 16) (h : ∀ p ∈ x.pieces, inBar4 x.bar4 p.1 = false) :
    ∃ rs, s.fetchData k x c = (false, (s.modFront fun f => { f with readQ := f.readQ ++ rs }).issueReads) ∧
      ∀ r ∈ rs, r.Within k c.val x.pieces := by
  obtain ⟨ofs, rs, hf, hr⟩ := foldl_requestPiece k c.val (min s.mrrs 4096) x.pieces 0 false s
  refine ⟨rs, ?_, hr⟩
  unfold State.fetchData
  extract_lets cut r
  have e : r = (ofs, false, s.modFront fun f => { f with readQ := f.readQ ++ rs }) := by
    refine (List.foldl_ext _ (requestPiece k c.val cut) _ fun acc p hp => ?_).trans hf
    simp only [h p hp]
    rfl
  rw [e]

end Sys2Proof.Machine
end

section
/-! PROOF. A write fails or is admitted, is granted space, and is staged; Flush waits for what is staged (R20, R21, R331, R332, R335). -/

namespace Sys2Proof.Machine
open Sys2Proof

variable {s : State} {k : Nat} {x : CmdSlot} {c : Fin 16} {d : Disc}

theorem chan?_val (c : Fin 16) : chan? c.val = some c := by
  simp [chan?]

/-! Admission (Table 11-6). -/

theorem exec_write_of_ioCmd (h : s.ioCmd? k 0x01 = some (x, c)) : exec (.write k) s = .next (writeCommand s k x c) := by
  change execWrite k s = _
  simp only [execWrite, h]

theorem writeCommand_ioRefused {st : Status} (h : s.ioRefused x c = some st) : writeCommand s k x c = s.finish k st := by
  simp only [writeCommand, h]

section Taken
variable (hd : (s.ch c).disc = some d) (hr : s.ioRefused x c = none) (hp : s.pointersOk x false = true)
include hd hr hp

theorem writeCommand_refused {st : Status} (hw : s.writeRefused c d x.slba x.blocks = some st) (hm : st ≠ stMapCapacity)
    (ha : st ≠ stAccessDenied) : writeCommand s k x c = s.finish k st := by
  simp [writeCommand, hr, hd, hp, hw, hm, ha]

theorem writeCommand_admitted (hw : s.writeRefused c d x.slba x.blocks = none) :
    writeCommand s k x c =
      (let u := s.modWr c fun w => { w with intake := w.intake ++ [⟨k, x.slba, x.blocks, bitAt (x.dw 12) 30, false⟩] }
      if s.wbRoom c x.blocks && !(s.ch c).wr.intake.any (!·.granted) then u.grant c k else u.cirq c 0x60 1) := by
  simp [writeCommand, hr, hd, hp, hw]

end Taken

theorem State.writeRefused_sealed {slba n : Nat} (h : d.sealed_ = true) : s.writeRefused c d slba n = some stSealed := if_pos h

theorem State.writeRefused_protected {slba n : Nat} (h : d.sealed_ = false) (hp : d.roMount = true ∨ d.roDisc = true) :
    s.writeRefused c d slba n = some stWriteProtected := by
  simp [State.writeRefused, h, hp]

/-! Buffer space. -/

theorem bufferWaitEnd_first {i : Intake} (hs : s.slot? k = some x) (hx : x.chan = some c.val)
    (hi : (s.ch c).wr.intake.find? (!·.granted) = some i) (hk : i.slot = k) (hv : s.servable c = true) :
    bufferWaitEnd k s = if s.wbRoom c i.n then s.grant c k else s := by
  simp [bufferWaitEnd, hs, hx, chan?_val, hi, hk, hv]

theorem State.grant_outside (hs : s.slot? k = some x) (h : ∀ p ∈ x.pieces, inBar4 x.bar4 p.1 = false) :
    ∃ rs, s.grant c k = ({ s.modWr c (fun w => { w with
        intake := w.intake.map fun i => if i.slot == k then { i with granted := true } else i }) with
        front := { s.front with readQ := s.front.readQ ++ rs } } : State).issueReads ∧ ∀ r ∈ rs, r.Within k c.val x.pieces := by
  obtain ⟨rs, hf, hr⟩ := (s.modWr c fun w => { w with
    intake := w.intake.map fun i => if i.slot == k then { i with granted := true } else i }).fetchData_outside k c h
  refine ⟨rs, ?_, hr⟩
  simp only [State.grant, hs, hf]
  rfl

/-! Staging. -/

theorem State.modWr_ch_wr (s : State) (c : Fin 16) (f : WriteChain → WriteChain) : ((s.modWr c f).ch c).wr = f (s.ch c).wr :=
  congrArg Chan.wr (State.ch_modCh_self s c _)

theorem State.modDisc_ch_wr (s : State) (c : Fin 16) (f : Disc → Disc) : ((s.modDisc c f).ch c).wr = (s.ch c).wr := by
  simp [State.modDisc]

theorem State.modWr_ch_ne (s : State) (f : WriteChain → WriteChain) {e : Fin 16} (h : e ≠ c) : (s.modWr c f).ch e = s.ch e :=
  State.ch_modCh_ne s _ h

theorem State.modDisc_ch_ne (s : State) (f : Disc → Disc) {e : Fin 16} (h : e ≠ c) : (s.modDisc c f).ch e = s.ch e :=
  State.ch_modCh_ne s _ h

theorem writeStaged_eq {i : Intake} (hs : s.slot? k = some x) (hx : x.chan = some c.val)
    (hi : (s.ch c).wr.intake.find? (·.slot == k) = some i) :
    writeStaged k s =
      if i.granted && (!((s.ch c).disc.map (·.direct)).getD false || (s.ch c).wr.intake.head?.elim false (·.slot == k)) &&
        x.bytes.length == 4096 * i.n && x.live && s.servable c then s.stage c k x i else s := by
  simp only [writeStaged, hs, hx, Option.bind_some, chan?_val, hi]

/-- What staging leaves before the channel's work goes on: the blocks appended, the intake without the write, all else of other
channels and every DRAM as it was. -/
theorem State.stage_eq (i : Intake) : ∃ u : State, s.stage c k x i = u.progress c ∧
    (u.ch c).wr.blocks = (s.ch c).wr.blocks ++ stagedBlocks (s.ch c).wr i x.bytes s.plat.time ∧
    (u.ch c).wr.nextBlock = (s.ch c).wr.nextBlock + i.n ∧ (u.ch c).wr.intake = (s.ch c).wr.intake.filter (·.slot != k) ∧
    u.dram = s.dram ∧ ∀ e, e ≠ c → u.ch e = s.ch e := by
  unfold State.stage
  extract_lets w ps s1 s2 s3
  have own : (s3.ch c).wr = { (s1.ch c).wr with waits := (s3.ch c).wr.waits } := by
    have s2_wr : (s2.ch c).wr = (s1.ch c).wr := s1.modDisc_ch_wr c _
    simp only [s3, ← s2_wr]
    split
    · simp only [State.modWr_ch_wr]
    · rw [State.settleWait_ch]
  refine ⟨s3, rfl, ?_, ?_, ?_, ?_, fun e he => ?_⟩
  · rw [own]; simp only [s1, State.modWr_ch_wr]
  · rw [own]; simp only [s1, State.modWr_ch_wr]
  · rw [own]; simp only [s1, State.modWr_ch_wr]
  · simp only [s3]
    split
    · rfl
    · exact s2.settleWait_dram k
  · calc s3.ch e = s2.ch e := by
          simp only [s3]
          split
          · exact s2.modWr_ch_ne _ he
          · exact s2.settleWait_ch k e
      _ = s1.ch e := s1.modDisc_ch_ne _ he
      _ = s.ch e := s.modWr_ch_ne _ he

theorem length_stagedBlocks (w : WriteChain) (i : Intake) (bytes : List Byte) (now : Nat) :
    (stagedBlocks w i bytes now).length = i.n := by
  simp [stagedBlocks]

/-- The blocks are the data cut every 4096 bytes, in LBA order, each numbered, timed and with its CRC-32C (R20). -/
theorem getElem?_stagedBlocks {w : WriteChain} {i : Intake} {bytes : List Byte} {now j : Nat} {b : Block}
    (h : (stagedBlocks w i bytes now)[j]? = some b) :
    b.id = w.nextBlock + j ∧ b.lba = i.slba + j ∧ b.time = now ∧ b.data = (bytes.drop (4096 * j)).take 4096 ∧
      b.crc = crc32c b.data ∧ b.taken = false ∧ b.bad = false ∧ b.lost = false ∧ b.home = none := by
  simp only [stagedBlocks, List.getElem?_map, Option.map_eq_some_iff] at h
  obtain ⟨n, hn, rfl⟩ := h
  obtain ⟨hj, rfl⟩ := List.getElem?_eq_some_iff.mp hn
  rw [List.getElem_range]
  exact ⟨rfl, rfl, rfl, rfl, rfl, rfl, rfl, rfl, rfl⟩

/-! Flush. -/

theorem exec_flush_of_ioCmd (h : s.ioCmd? k 0x00 = some (x, c)) (hm : (s.ch c).st ≠ .mechStopped) :
    exec (.flush k) s = .next (flushCommand s k x [c]) := by
  change execFlush k s = _
  simp only [execFlush, h, if_neg hm]

theorem flushCommand_direct (h : s.vwc = false) (cs : List (Fin 16)) : flushCommand s k x cs = s.finish k stSuccess := by
  simp [flushCommand, h]

theorem flushCommand_one (h : s.vwc = true) : flushCommand s k x [c] = (s.flushAt c k x.fetched).settleWait k := by
  simp [flushCommand, h]

theorem State.flushAt_none {fetched : Nat} (hk : (s.ch c).keysLost = false) (h : ∀ b ∈ (s.ch c).wr.blocks, fetched < b.time) :
    s.flushAt c k fetched = s := by
  have hf : ((s.ch c).wr.blocks.filter fun b => b.time ≤ fetched) = [] := by
    simpa [List.filter_eq_nil_iff] using h
  simp [State.flushAt, hf, hk]

theorem State.flushAt_last {fetched : Nat} {b : Block}
    (h : ((s.ch c).wr.blocks.filter fun b => b.time ≤ fetched).getLast? = some b) :
    s.flushAt c k fetched =
      s.modWr c fun w => { w with waits := w.waits ++ [⟨k, 0, b.id + 1⟩], forceTo := max w.forceTo (b.id + 1) } := by
  simp only [State.flushAt, h]

/-- Settles O41: admission by the first status of Table 11-6, the grant, the staged blocks and the waits of a Flush, each by its
lemma. -/
theorem writesAreAdmittedGrantedAndStaged : Obligations.WritesAreAdmittedGrantedAndStaged := by
  unfold Obligations.WritesAreAdmittedGrantedAndStaged
  intro s k x c d
  refine ⟨fun hio hd => ⟨fun st h => ?refused, fun hr hp => ⟨fun h => ?isSealed, fun h h' => ?writeProtected,
      fun hw => ⟨fun hroom hall => ?granted, fun h => ?waits⟩⟩⟩,
    fun i hs hx hi hk hv => ?waitEnd, fun hs h => State.grant_outside hs h,
    fun i hs hx hi => ⟨fun h => ?incomplete, fun j js hd hdir hj hjk => ?notItsTurn, fun hg hl hlive hv hd hdir => ?staged⟩,
    fun w i bytes now => ⟨length_stagedBlocks w i bytes now, fun j b h => getElem?_stagedBlocks h⟩,
    fun hio hm => ⟨fun h => ?direct, fun h hk hb => ?nothing, fun b h hb => ?behind⟩⟩
  case refused => rw [exec_write_of_ioCmd hio, writeCommand_ioRefused h]
  case isSealed =>
    rw [exec_write_of_ioCmd hio, writeCommand_refused hd hr hp (State.writeRefused_sealed h) (by decide) (by decide)]
  case writeProtected =>
    rw [exec_write_of_ioCmd hio, writeCommand_refused hd hr hp (State.writeRefused_protected h h') (by decide) (by decide)]
  case granted =>
    rw [exec_write_of_ioCmd hio, writeCommand_admitted hd hr hp hw]
    exact congrArg Host.Outcome.next (if_pos (by simpa [hroom] using hall))
  case waits =>
    rw [exec_write_of_ioCmd hio, writeCommand_admitted hd hr hp hw]
    refine congrArg Host.Outcome.next (if_neg ?_)
    rcases h with h | h
    · simp [h]
    · simp [h]
  case waitEnd => exact congrArg Host.Outcome.next (bufferWaitEnd_first hs hx hi hk hv)
  case incomplete =>
    refine congrArg Host.Outcome.next ((writeStaged_eq hs hx hi).trans (if_neg ?_))
    rcases h with h | h
    · simp [h]
    · simp [h]
  case notItsTurn =>
    refine congrArg Host.Outcome.next ((writeStaged_eq hs hx hi).trans (if_neg ?_))
    simp [hd, hdir, hj, hjk]
  case staged =>
    obtain ⟨u, hu, hblocks, hnext, hintake, hrest⟩ := s.stage_eq (k := k) (x := x) (c := c) i
    have hgo : writeStaged k s = s.stage c k x i :=
      (writeStaged_eq hs hx hi).trans (if_pos (by simp [hg, hd, hdir, hl, hlive, hv]))
    refine ⟨u, congrArg Host.Outcome.next (hgo.trans hu), hblocks, hnext, fun j hj => ?_, hrest⟩
    rw [hintake] at hj
    simpa using List.of_mem_filter hj
  case direct => rw [exec_flush_of_ioCmd hio hm, flushCommand_direct h]
  case nothing => rw [exec_flush_of_ioCmd hio hm, flushCommand_one h, State.flushAt_none hk hb]
  case behind => rw [exec_flush_of_ioCmd hio hm, flushCommand_one h, State.flushAt_last hb]

end Sys2Proof.Machine
end

section
/-! PROOF. What an operation of one channel leaves as it was: every register field outside a list, every DRAM and the other channels. -/

namespace Sys2Proof.Machine
open Sys2Proof

/-- Whether a field has its place in the register map: `Fld.Placed`, decided. -/
def Fld.inPlace (f : Fld) : Bool := decide (f.page < 0x100) && decide (f.off < 0x800) && decide (f.lsb < 32)

theorem Fld.placed_of_inPlace {f : Fld} (h : f.inPlace = true) : f.Placed := by
  simp only [Fld.inPlace, Bool.and_eq_true, decide_eq_true_eq] at h
  exact ⟨h.1.1, h.1.2, h.2⟩

/-- A list names a field in its place. -/
def Fld.among (f : Fld) (fs : List Fld) : Bool := f.inPlace && decide (f ∈ fs)

/-- A field in its place shares it with none of a list. -/
def Fld.outside (f : Fld) (fs : List Fld) : Bool := f.inPlace && fs.all fun g => !f.same g

theorem Fld.among_iff {f : Fld} {fs : List Fld} : f.among fs = true ↔ f.inPlace = true ∧ f ∈ fs := by
  simp [Fld.among]

theorem Fld.not_fieldsOf_of_outside {f : Fld} {fs : List Fld} (h : f.outside fs = true) (rg : Nat) : ¬ FieldsOf rg fs rg f := by
  simp only [Fld.outside, Bool.and_eq_true, List.all_eq_true, Bool.not_eq_true'] at h
  rintro ⟨-, g, hg, hs⟩
  simp [h.2 g hg] at hs

/-- Among register fields `t` differs from `s` in those of the list in channel `c` only; every DRAM and the other channels are those
of `s`. -/
structure TouchesOnly (c : Fin 16) (fs : List Fld) (s t : State) : Prop where
  fields : FieldsKept s t (FieldsOf (chRg c) fs)
  dram   : t.dram = s.dram
  others : ∀ e, e ≠ c → t.ch e = s.ch e

namespace TouchesOnly
variable {c : Fin 16} {fs gs : List Fld} {r s t : State}

theorem refl (c : Fin 16) (fs : List Fld) (s : State) : TouchesOnly c fs s s := ⟨.refl s _, rfl, fun _ _ => rfl⟩

theorem trans (h : TouchesOnly c fs r s) (k : TouchesOnly c fs s t) : TouchesOnly c fs r t :=
  ⟨h.fields.trans k.fields, k.dram.trans h.dram, fun e he => (k.others e he).trans (h.others e he)⟩

theorem mono (h : TouchesOnly c fs s t) (hsub : fs ⊆ gs) : TouchesOnly c gs s t :=
  ⟨fun rg f hf hn => h.fields rg f hf fun ⟨hrg, g, hg, hs⟩ => hn ⟨hrg, g, hsub hg, hs⟩, h.dram, h.others⟩

/-- A field outside the list reads as before. -/
theorem cr (h : TouchesOnly c fs s t) {f : Fld} (hf : f.outside fs = true) : t.cr c f = s.cr c f :=
  (h.fields (chRg c) f (Fld.placed_of_inPlace (Bool.and_eq_true_iff.mp hf).1) (Fld.not_fieldsOf_of_outside hf _)).1

theorem of_eqs (h : TouchesOnly c fs r s) (hr : t.regs = s.regs) (hd : t.dram = s.dram) (hc : t.chans = s.chans) : TouchesOnly c fs r t :=
  h.trans ⟨.of_regs (.refl s _) hr, hd, fun e _ => by simp only [State.ch, hc]⟩

theorem answer (h : TouchesOnly c fs r s) (o : Out) : TouchesOnly c fs r (s.answer o) := h.of_eqs rfl rfl rfl

theorem modCh (h : TouchesOnly c fs r s) (f : Chan → Chan) : TouchesOnly c fs r (s.modCh c f) :=
  h.trans ⟨.of_regs (.refl s _) rfl, rfl, fun _ he => s.ch_modCh_ne f he⟩

theorem modWr (h : TouchesOnly c fs r s) (f : WriteChain → WriteChain) : TouchesOnly c fs r (s.modWr c f) := h.modCh _

theorem modLdi (h : TouchesOnly c fs r s) (f : Ldi → Ldi) : TouchesOnly c fs r (s.modLdi c f) := h.modWr _

theorem modDisc (h : TouchesOnly c fs r s) (f : Disc → Disc) : TouchesOnly c fs r (s.modDisc c f) := h.modCh _

theorem cw (h : TouchesOnly c fs r s) {f : Fld} (v : Nat) (hf : f.among fs = true) : TouchesOnly c fs r (s.cw c f v) := by
  obtain ⟨hp, hm⟩ := Fld.among_iff.mp hf
  exact h.trans ⟨.wr (.refl s _) v (Fld.placed_of_inPlace hp) hm, rfl, fun _ _ => rfl⟩

theorem cirq (h : TouchesOnly c fs r s) {p : Nat} (bit : Nat) (hp : (F.HDR_IRQ_RAW p).among fs = true) :
    TouchesOnly c fs r (s.cirq c p bit) := by
  obtain ⟨hpage, hm⟩ := Fld.among_iff.mp hp
  exact h.trans ⟨.irq (.refl s _) bit (Fld.placed_of_inPlace hpage).page hm, by simp, fun _ _ => by simp⟩

theorem ite {p : Prop} [Decidable p] (h : TouchesOnly c fs r s) (k : TouchesOnly c fs r t) : TouchesOnly c fs r (if p then s else t) := by
  split
  · exact h
  · exact k

theorem foldl {α : Type} {g : State → α → State} (hg : ∀ x a, TouchesOnly c fs x (g x a)) (l : List α) (h : TouchesOnly c fs r s) :
    TouchesOnly c fs r (l.foldl g s) := by
  induction l generalizing s with
  | nil => exact h
  | cons a l ih => exact ih (h.trans (hg s a))

/-- A channel event counter reaches no register but its SAT and the counters' event. -/
theorem cnt (h : TouchesOnly c fs r s) (i n : Nat) (hs : F.CNT_SAT.among fs = true) (hr : (F.HDR_IRQ_RAW 0x59).among fs = true) :
    TouchesOnly c fs r (s.cnt c i n) := by
  have put (v : Nat) : TouchesOnly c fs r (s.tput .counter (chRg c) i v) := h.of_eqs rfl rfl rfl
  exact h.ite (((put _).ite (((put _).cw _ hs).cirq 0 hr)).ite (put _))

end TouchesOnly

end Sys2Proof.Machine
end

section
/-! PROOF. The end of a write session: what has not begun returns to the queue, the laser driver gets the read levels that waited, and
an anchor the slips call for is written (R55, R112, R138 to R140). -/

namespace Sys2Proof.Machine
open Sys2Proof

variable {s : State} {c : Fin 16}

/-- A write chain but for what sessions, anchors and the laser driver link use up as they go: the next sequence number, the gates'
trail, and the link's state other than the outside hold. -/
def WriteChain.core (w : WriteChain) : WriteChain := { w with seq := 0, trail := [], ldi := { Ldi.off with held := w.ldi.held } }

/-- The core of a channel's write chain. -/
def State.chain (s : State) (c : Fin 16) : WriteChain := (s.ch c).wr.core

/-- What a core tells of its write chain. -/
theorem WriteChain.eqs_of_core {w v : WriteChain} (h : w.core = v.core) : w.session = v.session ∧ w.stopping = v.stopping ∧
    w.killWhy = v.killWhy ∧ w.ldi.held = v.ldi.held ∧ w.placed = v.placed ∧ w.ready = v.ready := by
  simp only [WriteChain.core, WriteChain.mk.injEq, Ldi.mk.injEq] at h
  simp [h]

/-! The link's traffic. -/

theorem State.modLdi_chain {f : Ldi → Ldi} (hf : ∀ l, (f l).held = l.held) : (s.modLdi c f).chain c = s.chain c := by
  simp [State.chain, State.modLdi, State.modWr_ch_wr, WriteChain.core, hf]

theorem State.laserPump_chain : (s.laserPump c).chain c = s.chain c := by
  simp only [State.laserPump]
  split
  · rfl
  · split
    · rfl
    · exact State.modLdi_chain fun _ => rfl

theorem State.laserQueue_chain (t : LaserTxn) : (s.laserQueue c t).chain c = s.chain c :=
  State.laserPump_chain.trans (State.modLdi_chain fun _ => rfl)

theorem State.foldl_chain {α : Type} {g : State → α → State} (hg : ∀ x a, (g x a).chain c = x.chain c) (l : List α) (s : State) :
    (l.foldl g s).chain c = s.chain c := by
  induction l generalizing s with
  | nil => rfl
  | cons a l ih => exact (ih _).trans (hg s a)

theorem State.sendReadLevels_chain : (s.sendReadLevels c).chain c = s.chain c := by
  simp only [State.sendReadLevels]
  split
  · rfl
  · exact (State.laserQueue_chain _).trans
      ((State.foldl_chain (fun _ _ => State.laserQueue_chain _) _ _).trans (State.modLdi_chain fun _ => rfl))

namespace TouchesOnly
variable {fs : List Fld} {r : State}

theorem laserPump (h : TouchesOnly c fs r s) : TouchesOnly c fs r (s.laserPump c) := by
  simp only [State.laserPump]
  split
  · exact h
  · split
    · exact h
    · exact (h.answer _).modLdi _

theorem laserQueue (h : TouchesOnly c fs r s) (t : LaserTxn) : TouchesOnly c fs r (s.laserQueue c t) := (h.modLdi _).laserPump

theorem sendReadLevels (h : TouchesOnly c fs r s) : TouchesOnly c fs r (s.sendReadLevels c) :=
  h.ite ((foldl (fun x _ => (refl c fs x).laserQueue _) _ (h.modLdi _)).laserQueue _)

end TouchesOnly

/-! The session state. -/

theorem State.setSession_idle : s.setSession c .idle =
    ((s.modWr c fun w => { w with session := .idle }).cw c F.WRC_STS_STATE 0).sendReadLevels c := rfl

theorem State.setSession_of_ne_idle {x : Session} (h : x ≠ .idle) :
    s.setSession c x = (s.modWr c fun w => { w with session := x }).cw c F.WRC_STS_STATE x.code := if_neg h

/-! What returns to the queue (R112). -/

/-- A write chain whose contents committed and not begun have returned to the queue. -/
def WriteChain.returned (w : WriteChain) : WriteChain :=
  { w.dropReserved with
    placed := w.placed.filter (·.begun)
    ready := (w.placed.filter fun q => !q.begun && !q.dead).map Placed.back ++ w.dropReserved.ready }

/-- A reservation discarded changes the queue and the numbers only. -/
theorem WriteChain.dropReserved_only (w : WriteChain) :
    w.dropReserved = { w with tail := w.dropReserved.tail, seq := w.dropReserved.seq, ready := w.dropReserved.ready } := by
  unfold WriteChain.dropReserved
  split <;> rfl

theorem WriteChain.dropReserved_placed (w : WriteChain) : w.dropReserved.placed = w.placed := by rw [w.dropReserved_only]

theorem State.returnUnbegun_wr : ((s.returnUnbegun c).ch c).wr = (s.ch c).wr.returned := by
  simp only [State.returnUnbegun, State.modWr_ch_wr, WriteChain.dropReserved_placed]
  split
  next h =>
    have begun : ∀ q ∈ (s.ch c).wr.placed, q.begun = true := by simpa [List.filter_eq_nil_iff] using h
    have kept : (s.ch c).wr.placed.filter (·.begun) = (s.ch c).wr.placed := List.filter_eq_self.mpr begun
    have none : (s.ch c).wr.placed.filter (fun q => !q.begun && !q.dead) = [] := by
      simpa [List.filter_eq_nil_iff] using fun q hq hb => absurd (begun q hq) (by simp [hb])
    rw [State.modWr_ch_wr, WriteChain.returned, kept, none, ← WriteChain.dropReserved_placed]
    rfl
  next h =>
    rw [State.cw_ch, State.modWr_ch_wr, State.modWr_ch_wr, List.filter_filter, WriteChain.dropReserved_placed, WriteChain.returned]
    simp only [Bool.and_comm]

theorem TouchesOnly.returnUnbegun {fs : List Fld} {r : State} (h : TouchesOnly c fs r s) (hf : F.WRC_WPTR.among fs = true) :
    TouchesOnly c fs r (s.returnUnbegun c) := by
  simp only [State.returnUnbegun]
  split
  · exact h.modWr _
  · exact ((h.modWr _).modWr _).cw _ hf

/-! Anchors that slips call for, with no session on (R55). -/

theorem State.endAtBoundary_idle (h : (s.ch c).wr.session = .idle) : s.endAtBoundary c = s := by
  simp [State.endAtBoundary, h]

theorem State.cnt_ch (i n : Nat) (d : Fin 16) : (s.cnt c i n).ch d = s.ch d :=
  congrArg (fun m => m.1[d]) (s.cnt_media c i n)

/-- The registers that an anchor written with no session on may reach: those of the count of its clusters. -/
def anchorFields : List Fld := [F.CNT_SAT, F.HDR_IRQ_RAW 0x59]

/-- From `s` to `t` clusters of the anchor zone were written at most: the core of the write chain stays. -/
structure AnchorsOnly (c : Fin 16) (s t : State) : Prop where
  touches : TouchesOnly c anchorFields s t
  chain   : t.chain c = s.chain c

namespace AnchorsOnly
variable {r t : State}

theorem refl (c : Fin 16) (s : State) : AnchorsOnly c s s := ⟨.refl c _ s, rfl⟩

theorem trans (h : AnchorsOnly c r s) (k : AnchorsOnly c s t) : AnchorsOnly c r t := ⟨h.touches.trans k.touches, k.chain.trans h.chain⟩

theorem ite {p : Prop} [Decidable p] (h : AnchorsOnly c r s) (k : AnchorsOnly c r t) : AnchorsOnly c r (if p then s else t) := by
  split
  · exact h
  · exact k

theorem modDisc (h : AnchorsOnly c r s) (f : Disc → Disc) : AnchorsOnly c r (s.modDisc c f) :=
  ⟨h.touches.modDisc f, (congrArg WriteChain.core (s.modDisc_ch_wr c f)).trans h.chain⟩

theorem idle (h : AnchorsOnly c s t) (hs : (s.ch c).wr.session = .idle) : (t.ch c).wr.session = .idle :=
  (WriteChain.eqs_of_core h.chain).1.trans hs

theorem writeArea (h : AnchorsOnly c r s) (pcn : Nat) (ks : List Content) (link : Bool) : AnchorsOnly c r (s.writeArea c pcn ks link) := by
  induction ks generalizing s pcn link with
  | nil => exact h
  | cons k ks ih =>
    refine ih (h.trans ⟨(((TouchesOnly.refl c _ s).answer _).modWr _).cnt 4 1 (by decide) (by decide), ?_⟩) _ _
    simp only [State.chain, State.cnt_ch, State.modWr_ch_wr]
    rfl

end AnchorsOnly

theorem State.putAnchor_only (h : (s.ch c).wr.session = .idle) (reason : Nat) (k : Option Ckpt) :
    AnchorsOnly c s (s.putAnchor c reason k) := by
  unfold State.putAnchor
  split
  · exact .refl c s
  · refine .ite (.refl c s) ?_
    simp only [State.writeRecords, State.endAtBoundary_idle h]
    exact ((AnchorsOnly.refl c s).writeArea _ _ _).modDisc _

theorem State.slipAnchor_only (h : (s.ch c).wr.session = .idle) : AnchorsOnly c s (s.slipAnchor c) := by
  unfold State.slipAnchor
  split
  · exact .refl c s
  · exact (State.putAnchor_only h 5 none).ite (.refl c s)

theorem State.slipAnchors_only (h : (s.ch c).wr.session = .idle) : AnchorsOnly c s (s.slipAnchors c) := by
  have all : ∀ (l : List Nat) (s : State), (s.ch c).wr.session = .idle → AnchorsOnly c s (l.foldl (fun s _ => s.slipAnchor c) s) := by
    intro l
    induction l with
    | nil => exact fun s _ => .refl c s
    | cons _ l ih => exact fun s h => (State.slipAnchor_only h).trans (ih _ ((State.slipAnchor_only h).idle h))
  exact all _ s h

theorem State.addSlips_only (h : (s.ch c).wr.session = .idle) (ps : List Nat) : AnchorsOnly c s (s.addSlips c ps) := by
  unfold State.addSlips
  split
  · exact .refl c s
  · refine .ite (.refl c s) ?_
    have hd := (AnchorsOnly.refl c s).modDisc
    exact (hd _).trans (State.slipAnchors_only ((hd _).idle h))

end Sys2Proof.Machine
end

section
/-! PROOF. A stop ends the session, at a cluster boundary or with a cut (R137 to R140). -/

namespace Sys2Proof.Machine
open Sys2Proof

variable {s t u : State} {c : Fin 16} {p : Placed} {row code : Nat} {safety : Bool}

/-- A session ended where it stands: what has not begun returns to the queue, the code is recorded, and the session is IDLE. -/
def State.endSession (s : State) (c : Fin 16) (code : Nat) : State :=
  (((s.returnUnbegun c).cw c F.WRC_STS_LAST_STOP code).modWr c fun w => { w with stopping := none }).setSession c .idle

/-- The cluster at `p` cut in row `row` (R48, R139): its content heads the queue again, and the next position lies behind the gap. -/
def State.cutCluster (s : State) (c : Fin 16) (p : Placed) (row : Nat) (safety : Bool) : State :=
  let s1 := (s.answer (.cut c.val p.pcn row safety)).modWr c fun w => { w with
    placed := w.placed.filter (fun q => q.seq != p.seq), ready := if p.dead then w.ready else p.back :: w.ready
    trail := List.replicate 8 Trail.fresh }
  let s2 := (s1.cw c F.WRC_WPTR (userFrom (afterCut p.pcn row))).cw c F.WRC_LAST_SCAR p.pcn
  (if row ≤ 8 then (s2.cnt c 6).quality c 16 else s2).cirq c 0x30 0

/-- The cluster being written: the last one begun. -/
def WriteChain.writing (w : WriteChain) : Option Placed := w.placed.reverse.find? (·.begun)

/-! The session's end. -/

/-- The registers in which the end of a session is recorded. -/
def endFields : List Fld := [F.WRC_WPTR, F.WRC_STS_LAST_STOP, F.WRC_STS_STATE]

theorem State.endSession_touches : TouchesOnly c endFields s (s.endSession c code) :=
  ((((((TouchesOnly.refl c _ s).returnUnbegun (by decide)).cw _ (by decide)).modWr _).modWr _).cw _ (by decide)).sendReadLevels

theorem State.endSession_chain :
    (s.endSession c code).chain c = { (s.ch c).wr.returned with session := .idle, stopping := none }.core := by
  rw [State.endSession, State.setSession_idle, State.sendReadLevels_chain]
  simp only [State.chain, State.cw_ch, State.modWr_ch_wr, State.returnUnbegun_wr]

theorem State.endSession_state : (s.endSession c code).cr c F.WRC_STS_STATE = 0 := by
  rw [State.endSession, State.setSession_idle, (TouchesOnly.refl c [] _).sendReadLevels.cr (by decide), State.cr_cw_self]
  rfl

theorem State.endSession_lastStop : (s.endSession c code).cr c F.WRC_STS_LAST_STOP = code % 256 := by
  rw [State.endSession, State.setSession_idle, (TouchesOnly.refl c [] _).sendReadLevels.cr (by decide),
    State.cr_cw_apart _ _ (by decide)]
  exact State.cr_cw_self _ c F.WRC_STS_LAST_STOP code

/-- The queue and the committed clusters after the session. -/
theorem State.endSession_queue : ((s.endSession c code).ch c).wr.placed = (s.ch c).wr.returned.placed ∧
    ((s.endSession c code).ch c).wr.ready = (s.ch c).wr.returned.ready :=
  (WriteChain.eqs_of_core State.endSession_chain).2.2.2.2

/-- The cluster being written stays so while the rest returns to the queue. -/
theorem State.endSession_writing : ((s.endSession c code).ch c).wr.writing = (s.ch c).wr.writing := by
  simp [WriteChain.writing, State.endSession_queue.1, WriteChain.returned, ← List.filter_reverse, List.find?_filter]

/-! The cut. -/

/-- The registers in which a cut is recorded. -/
def cutFields : List Fld := [F.WRC_WPTR, F.WRC_LAST_SCAR, F.CNT_SAT, F.HDR_IRQ_RAW 0x59, F.HDR_IRQ_RAW 0x30]

theorem State.cutCluster_touches : TouchesOnly c cutFields s (s.cutCluster c p row safety) := by
  have counted {u : State} (h : TouchesOnly c cutFields s u) :
      TouchesOnly c cutFields s ((if row ≤ 8 then (u.cnt c 6).quality c 16 else u).cirq c 0x30 0) :=
    (((h.cnt 6 1 (by decide) (by decide)).modCh _).ite h).cirq 0 (by decide)
  unfold State.cutCluster
  exact counted (((((TouchesOnly.refl c _ s).answer _).modWr _).cw _ (by decide)).cw _ (by decide))

/-- A write chain without the cluster at `p`, its content ahead of the queue. -/
def WriteChain.withoutCut (w : WriteChain) (p : Placed) : WriteChain :=
  { w with placed := w.placed.filter (fun q => q.seq != p.seq), ready := if p.dead then w.ready else p.back :: w.ready }

theorem State.cutCluster_chain : (s.cutCluster c p row safety).chain c = ((s.ch c).wr.withoutCut p).core := by
  simp only [State.chain, State.cutCluster, State.cirq_ch]
  split
  · simp only [State.quality, State.ch_modCh_self, State.cnt_ch, State.cw_ch, State.modWr_ch_wr]
    rfl
  · simp only [State.cw_ch, State.modWr_ch_wr]
    rfl

theorem State.cutCluster_pointers : (s.cutCluster c p row safety).cr c F.WRC_WPTR = userFrom (afterCut p.pcn row) % 2 ^ 32 ∧
    (s.cutCluster c p row safety).cr c F.WRC_LAST_SCAR = p.pcn % 2 ^ 32 := by
  have kept (v : State) : TouchesOnly c anchorFields v (if row ≤ 8 then (v.cnt c 6).quality c 16 else v) :=
    (((TouchesOnly.refl c _ v).cnt 6 1 (by decide) (by decide)).modCh _).ite (.refl c _ v)
  simp only [State.cutCluster]
  rw [State.cirq_cr_apart _ (by decide), State.cirq_cr_apart _ (by decide), (kept _).cr (by decide), (kept _).cr (by decide),
    State.cr_cw_apart _ _ (by decide)]
  exact ⟨State.cr_cw_self _ c F.WRC_WPTR _, State.cr_cw_self _ c F.WRC_LAST_SCAR _⟩

/-! The three ends of a stop. -/

theorem State.finishStop_whole (h : (s.ch c).wr.session = .armed ∨ (s.ch c).wr.writing = none) :
    s.finishStop c row code safety = s.endSession c code := by
  have hw : (if (s.ch c).wr.session = .armed then none else ((s.endSession c code).ch c).wr.writing) = none := by
    rcases h with h | h
    · simp [h]
    · simp [State.endSession_writing, h]
  unfold State.finishStop
  extract_lets s1 s2
  rw [show (if (s.ch c).wr.session = .armed then none else (s2.ch c).wr.placed.reverse.find? (·.begun)) = none from hw]
  rfl

section Writing
variable (hs : (s.ch c).wr.session ≠ .armed) (hp : (s.ch c).wr.writing = some p)
include hs hp

theorem State.finishStop_writing : s.finishStop c row code safety =
    if row ≥ 9 ∧ !safety then (s.endSession c code).endGates c p.pcn
    else ((s.endSession c code).cutCluster c p row safety).addSlips c
      (p.pcn :: userBetween 4096 (p.pcn + 1) (userFrom (afterCut p.pcn row))) := by
  have hw : ((s.endSession c code).ch c).wr.writing = some p := State.endSession_writing.trans hp
  unfold State.finishStop
  extract_lets s1 s2
  rw [if_neg hs, show (s2.ch c).wr.placed.reverse.find? (·.begun) = some p from hw]
  rfl

theorem State.finishStop_boundary (hr : 9 ≤ row) :
    s.finishStop c row code false = (s.endSession c code).endGates c p.pcn :=
  (State.finishStop_writing hs hp).trans (if_pos ⟨hr, rfl⟩)

theorem State.finishStop_cut (hr : row < 9 ∨ safety = true) : s.finishStop c row code safety =
    ((s.endSession c code).cutCluster c p row safety).addSlips c
      (p.pcn :: userBetween 4096 (p.pcn + 1) (userFrom (afterCut p.pcn row))) := by
  refine (State.finishStop_writing hs hp).trans (if_neg ?_)
  rintro ⟨hrow, hsafe⟩
  rcases hr with hr | hr
  · omega
  · simp [hr] at hsafe

end Writing

/-! What every stop leaves. -/

/-- The registers a stop may reach. -/
def stopFields : List Fld := endFields ++ cutFields

/-- `t` is `s` with its session stopped for `code`, whichever way the stop ends. -/
structure Stopped (c : Fin 16) (code : Nat) (s t : State) : Prop where
  touches  : TouchesOnly c stopFields s t
  idle     : (t.ch c).wr.session = .idle
  stopping : (t.ch c).wr.stopping = none
  killWhy  : (t.ch c).wr.killWhy = (s.ch c).wr.killWhy
  held     : (t.ch c).wr.ldi.held = (s.ch c).wr.ldi.held
  state    : t.cr c F.WRC_STS_STATE = 0
  lastStop : t.cr c F.WRC_STS_LAST_STOP = code % 256

/-- What follows on a stop and changes, but for the core, the committed clusters and the queue alone. -/
theorem Stopped.after (h : Stopped c code s t) (k : TouchesOnly c cutFields t u) {ps : List Placed} {rs : List Content}
    (hv : u.chain c = { (t.ch c).wr with placed := ps, ready := rs }.core) : Stopped c code s u := by
  obtain ⟨hsession, hstopping, hwhy, hheld, -⟩ := WriteChain.eqs_of_core hv
  exact ⟨h.touches.trans (k.mono (List.subset_append_right _ _)), hsession.trans h.idle, hstopping.trans h.stopping, hwhy.trans h.killWhy,
    hheld.trans h.held, (k.cr (by decide)).trans h.state, (k.cr (by decide)).trans h.lastStop⟩

theorem Stopped.keep (h : Stopped c code s t) (k : TouchesOnly c cutFields t u) (hv : u.chain c = t.chain c) : Stopped c code s u :=
  h.after k (ps := (t.ch c).wr.placed) (rs := (t.ch c).wr.ready) hv

theorem State.endSession_stopped : Stopped c code s (s.endSession c code) := by
  have view : ∀ w : WriteChain, w.returned.killWhy = w.killWhy ∧ w.returned.ldi = w.ldi := fun w => by
    rw [WriteChain.returned, w.dropReserved_only]
    exact ⟨rfl, rfl⟩
  obtain ⟨hsession, hstopping, hwhy, hheld, -⟩ := WriteChain.eqs_of_core (State.endSession_chain (s := s) (c := c) (code := code))
  exact ⟨State.endSession_touches.mono (List.subset_append_left _ _), hsession, hstopping, hwhy.trans (view _).1,
    hheld.trans (congrArg Ldi.held (view _).2), State.endSession_state, State.endSession_lastStop⟩

theorem State.endGates_touches (pcn : Nat) (fs : List Fld) : TouchesOnly c fs s (s.endGates c pcn) := by
  unfold State.endGates
  exact ((TouchesOnly.refl c _ s).answer _).modWr _

theorem State.endGates_chain (pcn : Nat) : (s.endGates c pcn).chain c = s.chain c := by
  simp only [State.chain, State.endGates, State.modWr_ch_wr]
  rfl

/-- The cluster at `p` cut once the session has ended, and the slips the cut adds (R55). -/
theorem State.cutCluster_stopped (p : Placed) (row : Nat) (safety : Bool) :
    Stopped c code s ((s.endSession c code).cutCluster c p row safety) :=
  State.endSession_stopped.after State.cutCluster_touches State.cutCluster_chain

theorem State.finishStop_stopped : Stopped c code s (s.finishStop c row code safety) := by
  have ended : Stopped c code s (s.endSession c code) := State.endSession_stopped
  by_cases hs : (s.ch c).wr.session = .armed
  · rwa [State.finishStop_whole (.inl hs)]
  cases hp : (s.ch c).wr.writing with
  | none => rwa [State.finishStop_whole (.inr hp)]
  | some p =>
    by_cases hr : row < 9 ∨ safety = true
    · rw [State.finishStop_cut hs hp hr]
      have cut : Stopped c code s ((s.endSession c code).cutCluster c p row safety) := State.cutCluster_stopped p row safety
      obtain ⟨touches, chain⟩ := State.addSlips_only cut.idle (p.pcn :: userBetween 4096 (p.pcn + 1) (userFrom (afterCut p.pcn row)))
      exact cut.keep (touches.mono (by decide)) chain
    · obtain ⟨hrow, hsafe⟩ : 9 ≤ row ∧ safety = false := by simpa using hr
      subst hsafe
      rw [State.finishStop_boundary hs hp hrow]
      exact ended.keep (State.endGates_touches _ _) (State.endGates_chain _)

section Writing
variable (hs : (s.ch c).wr.session ≠ .armed) (hp : (s.ch c).wr.writing = some p)
include hs hp

/-- A stop at a cluster boundary leaves no scar. -/
theorem State.finishStop_boundary_whole (hr : 9 ≤ row) :
    (s.finishStop c row code false).cr c F.WRC_LAST_SCAR = s.cr c F.WRC_LAST_SCAR ∧
    ((s.finishStop c row code false).ch c).wr.placed = (s.ch c).wr.returned.placed ∧
    ((s.finishStop c row code false).ch c).wr.ready = (s.ch c).wr.returned.ready := by
  rw [State.finishStop_boundary hs hp hr]
  have touched : TouchesOnly c endFields s ((s.endSession c code).endGates c p.pcn) :=
    State.endSession_touches.trans (State.endGates_touches _ _)
  obtain ⟨-, -, -, -, hplaced, hready⟩ := WriteChain.eqs_of_core (State.endGates_chain (s := s.endSession c code) (c := c) p.pcn)
  exact ⟨touched.cr (by decide), hplaced.trans State.endSession_queue.1, hready.trans State.endSession_queue.2⟩

/-- A cut names its scar, and the pointer lies behind it (R48). -/
theorem State.finishStop_cut_pointers (hr : row < 9 ∨ safety = true) :
    (s.finishStop c row code safety).cr c F.WRC_WPTR = userFrom (afterCut p.pcn row) % 2 ^ 32 ∧
    (s.finishStop c row code safety).cr c F.WRC_LAST_SCAR = p.pcn % 2 ^ 32 := by
  rw [State.finishStop_cut hs hp hr]
  have slips := (State.addSlips_only (State.cutCluster_stopped (s := s) (c := c) (code := code) p row safety).idle
    (p.pcn :: userBetween 4096 (p.pcn + 1) (userFrom (afterCut p.pcn row)))).touches
  rw [slips.cr (by decide), slips.cr (by decide)]
  exact State.cutCluster_pointers

/-- The cluster that was cut leaves the committed ones and heads the queue. -/
theorem State.finishStop_cut_queue (hr : row < 9 ∨ safety = true) :
    ((s.finishStop c row code safety).ch c).wr.placed = (s.ch c).wr.returned.placed.filter (fun q => q.seq != p.seq) ∧
    ((s.finishStop c row code safety).ch c).wr.ready =
      if p.dead then (s.ch c).wr.returned.ready else p.back :: (s.ch c).wr.returned.ready := by
  rw [State.finishStop_cut hs hp hr]
  obtain ⟨-, -, -, -, hplaced, hready⟩ := WriteChain.eqs_of_core
    ((State.addSlips_only (State.cutCluster_stopped (s := s) (c := c) (code := code) p row safety).idle
      (p.pcn :: userBetween 4096 (p.pcn + 1) (userFrom (afterCut p.pcn row)))).chain.trans State.cutCluster_chain)
  rw [hplaced, hready, WriteChain.withoutCut, State.endSession_queue.1, State.endSession_queue.2]
  exact ⟨rfl, rfl⟩

end Writing

end Sys2Proof.Machine
end

section
/-! PROOF. The kill line, and the safety stop that asserts it (R129, R139). -/

namespace Sys2Proof.Machine
open Sys2Proof

variable {s : State} {c : Fin 16} {p : Placed} {row code why : Nat}

/-! Hardware asserts the line. -/

/-- The registers of the kill line. -/
def killFields : List Fld := [F.LDI_STS_KILL_LATCH, F.LDI_STS_KILL_PIN, F.HDR_IRQ_RAW 0x32]

/-- The causes of the kill latch with one more. -/
def WriteChain.withCause (w : WriteChain) (why : Nat) : WriteChain :=
  { w with killWhy := if w.killWhy.contains why then w.killWhy else w.killWhy ++ [why] }

theorem WriteChain.mem_withCause (w : WriteChain) (why : Nat) : why ∈ (w.withCause why).killWhy := by
  simp only [WriteChain.withCause]
  split
  next h => exact List.contains_iff_mem.mp h
  next => simp

/-- A cause of the kill latch does not change what returns to the queue. -/
theorem WriteChain.withCause_returned (w : WriteChain) (why : Nat) : (w.withCause why).returned.placed = w.returned.placed ∧
    (w.withCause why).returned.ready = w.returned.ready := by
  cases ht : w.tail <;> simp [WriteChain.returned, WriteChain.withCause, WriteChain.dropReserved, ht]

theorem State.assertKill_eq : s.assertKill c why =
    (let u := (s.modWr c (·.withCause why)).cw c F.LDI_STS_KILL_LATCH 1
    if u.cr c F.LDI_STS_KILL_PIN = 1 then u else ((u.answer (.kill c.val true)).cw c F.LDI_STS_KILL_PIN 1).cirq c 0x32 2) := rfl

theorem State.assertKill_touches : TouchesOnly c killFields s (s.assertKill c why) := by
  rw [State.assertKill_eq]
  have latched := ((TouchesOnly.refl c killFields s).modWr (·.withCause why)).cw (f := F.LDI_STS_KILL_LATCH) 1 (by decide)
  exact latched.ite (((latched.answer _).cw _ (by decide)).cirq 2 (by decide))

theorem State.assertKill_wr : ((s.assertKill c why).ch c).wr = (s.ch c).wr.withCause why := by
  rw [State.assertKill_eq]
  dsimp only
  split <;> simp [State.modWr_ch_wr]

theorem State.assertKill_killed : (s.assertKill c why).cr c F.LDI_STS_KILL_LATCH = 1 ∧ (s.assertKill c why).cr c F.LDI_STS_KILL_PIN = 1 := by
  rw [State.assertKill_eq]
  extract_lets u
  have latch : u.cr c F.LDI_STS_KILL_LATCH = 1 := State.cr_cw_self _ c F.LDI_STS_KILL_LATCH 1
  split
  next pin => exact ⟨latch, pin⟩
  next =>
    rw [State.cirq_cr_apart _ (by decide), State.cirq_cr_apart _ (by decide), State.cr_cw_apart _ _ (by decide)]
    exact ⟨latch, State.cr_cw_self _ c F.LDI_STS_KILL_PIN 1⟩

/-! The safety stop. -/

/-- The kill line asserted for `code` and the safety stop's event raised. -/
def State.alarm (s : State) (c : Fin 16) (code : Nat) : State := (s.assertKill c code).cirq c 0x30 1

theorem State.alarm_wr : ((s.alarm c code).ch c).wr = (s.ch c).wr.withCause code := by
  rw [State.alarm, State.cirq_ch, State.assertKill_wr]

theorem State.alarm_killed : (s.alarm c code).cr c F.LDI_STS_KILL_LATCH = 1 ∧ (s.alarm c code).cr c F.LDI_STS_KILL_PIN = 1 := by
  rw [State.alarm, State.cirq_cr_apart _ (by decide), State.cirq_cr_apart _ (by decide)]
  exact State.assertKill_killed

theorem State.safetyStop_idle (h : (s.ch c).wr.session = .idle) : s.safetyStop c row code = s := if_pos h

theorem State.safetyStop_on (h : (s.ch c).wr.session ≠ .idle) : s.safetyStop c row code = (s.alarm c code).finishStop c row code true :=
  if_neg h

/-- The registers a safety stop may reach. -/
def safetyFields : List Fld := killFields ++ stopFields

theorem State.safetyStop_touches : TouchesOnly c safetyFields s (s.safetyStop c row code) := by
  by_cases h : (s.ch c).wr.session = .idle
  · rw [State.safetyStop_idle h]
    exact .refl c _ s
  · rw [State.safetyStop_on h]
    exact ((State.assertKill_touches.mono (List.subset_append_left _ _)).cirq 1 (by decide)).trans
      (State.finishStop_stopped.touches.mono (List.subset_append_right _ _))

theorem State.safetyStop_held : ((s.safetyStop c row code).ch c).wr.ldi.held = (s.ch c).wr.ldi.held := by
  by_cases h : (s.ch c).wr.session = .idle
  · rw [State.safetyStop_idle h]
  · rw [State.safetyStop_on h, State.finishStop_stopped.held, State.alarm_wr, WriteChain.withCause]

section On
variable (h : (s.ch c).wr.session ≠ .idle)
include h

theorem State.safetyStop_stopped : Stopped c code (s.alarm c code) (s.safetyStop c row code) := by
  rw [State.safetyStop_on h]
  exact State.finishStop_stopped

theorem State.safetyStop_killed :
    (s.safetyStop c row code).cr c F.LDI_STS_KILL_LATCH = 1 ∧ (s.safetyStop c row code).cr c F.LDI_STS_KILL_PIN = 1 := by
  have stopped := (State.safetyStop_stopped h (row := row) (code := code)).touches
  rw [stopped.cr (by decide), stopped.cr (by decide)]
  exact State.alarm_killed

theorem State.safetyStop_cause : code ∈ ((s.safetyStop c row code).ch c).wr.killWhy := by
  rw [(State.safetyStop_stopped h).killWhy, State.alarm_wr]
  exact WriteChain.mem_withCause _ _

/-- The cluster being written is cut. -/
theorem State.safetyStop_cut (ha : (s.ch c).wr.session ≠ .armed) (hp : (s.ch c).wr.writing = some p) :
    (s.safetyStop c row code).cr c F.WRC_WPTR = userFrom (afterCut p.pcn row) % 2 ^ 32 ∧
    (s.safetyStop c row code).cr c F.WRC_LAST_SCAR = p.pcn % 2 ^ 32 ∧
    ((s.safetyStop c row code).ch c).wr.placed = (s.ch c).wr.returned.placed.filter (fun q => q.seq != p.seq) ∧
    ((s.safetyStop c row code).ch c).wr.ready =
      if p.dead then (s.ch c).wr.returned.ready else p.back :: (s.ch c).wr.returned.ready := by
  have ha' : ((s.alarm c code).ch c).wr.session ≠ .armed := by rw [State.alarm_wr]; exact ha
  have hp' : ((s.alarm c code).ch c).wr.writing = some p := by rw [State.alarm_wr]; exact hp
  obtain ⟨hw, hscar⟩ := State.finishStop_cut_pointers (code := code) ha' hp' (.inr rfl) (row := row) (safety := true)
  obtain ⟨hplaced, hready⟩ := State.finishStop_cut_queue (code := code) ha' hp' (.inr rfl) (row := row) (safety := true)
  obtain ⟨hp1, hr1⟩ := (s.ch c).wr.withCause_returned code
  rw [State.alarm_wr, hp1] at hplaced
  rw [State.alarm_wr, hr1] at hready
  rw [State.safetyStop_on h]
  exact ⟨hw, hscar, hplaced, hready⟩

end On

/-! What the pins show (R129, R472). -/

theorem State.showSafe_touches : TouchesOnly c [F.CHN_STS_SAFE, F.HDR_IRQ_RAW 0] s (s.showSafe c) :=
  (TouchesOnly.refl c _ s).ite (((TouchesOnly.refl c _ s).cw _ (by decide)).cirq 2 (by decide))

theorem State.showSafe_chans : (s.showSafe c).chans = s.chans := by
  simp only [State.showSafe]
  split <;> simp

theorem State.showSafe_ch (e : Fin 16) : (s.showSafe c).ch e = s.ch e := by
  simp only [State.ch, State.showSafe_chans]

/-- What holds the kill line asserted (R129). -/
def State.killHeld (s : State) (c : Fin 16) : Prop :=
  s.cr c F.LDI_CTL_KILL = 1 ∨ s.cr c F.LDI_STS_KILL_LATCH = 1 ∨ (s.ch c).wr.ldi.held = true ∨ (s.ch c).st = .bivouac ∨ (s.ch c).powered = false

/-- The line driven to a level; a change is an output, and an assertion an event. -/
def State.driveKill (s : State) (c : Fin 16) (v : Nat) : State :=
  if s.cr c F.LDI_STS_KILL_PIN = v then s
  else
    let s1 := (s.answer (.kill c.val (v == 1))).cw c F.LDI_STS_KILL_PIN v
    if v = 1 then s1.cirq c 0x32 2 else s1

theorem State.showKill_eq : ∃ v, v < 2 ∧ (v = 1 ↔ s.killHeld c) ∧ s.showKill c = s.driveKill c v := by
  refine ⟨if s.cr c F.LDI_CTL_KILL = 1 ∨ s.cr c F.LDI_STS_KILL_LATCH = 1 ∨ (s.ch c).wr.ldi.held ∨ (s.ch c).st = .bivouac
    ∨ !(s.ch c).powered then 1 else 0, ?_, ?_, rfl⟩
  · split <;> decide
  · simp only [State.killHeld, ite_eq_left_iff, zero_ne_one, imp_false, not_not, Bool.not_eq_true']

theorem State.driveKill_touches (v : Nat) : TouchesOnly c [F.LDI_STS_KILL_PIN, F.HDR_IRQ_RAW 0x32] s (s.driveKill c v) := by
  have shown := ((TouchesOnly.refl c [F.LDI_STS_KILL_PIN, F.HDR_IRQ_RAW 0x32] s).answer (.kill c.val (v == 1))).cw
    (f := F.LDI_STS_KILL_PIN) v (by decide)
  exact (TouchesOnly.refl c _ s).ite ((shown.cirq 2 (by decide)).ite shown)

theorem State.driveKill_chans (v : Nat) : (s.driveKill c v).chans = s.chans := by
  unfold State.driveKill
  split
  · rfl
  · dsimp only
    split <;> simp

theorem State.driveKill_pin {v : Nat} (hv : v < 2) : (s.driveKill c v).cr c F.LDI_STS_KILL_PIN = v := by
  have written : ((s.answer (.kill c.val (v == 1))).cw c F.LDI_STS_KILL_PIN v).cr c F.LDI_STS_KILL_PIN = v :=
    (State.cr_cw_self _ c F.LDI_STS_KILL_PIN v).trans (Nat.mod_eq_of_lt hv)
  unfold State.driveKill
  split
  next h => exact h
  next =>
    dsimp only
    split
    · exact (State.cirq_cr_apart _ (by decide)).trans written
    · exact written

/-! Both pins. -/

/-- The kill line and Cnn_SAFE follow what holds them. -/
def State.showPins (s : State) (c : Fin 16) : State := (s.showKill c).showSafe c

theorem State.showPins_touches :
    TouchesOnly c [F.LDI_STS_KILL_PIN, F.HDR_IRQ_RAW 0x32, F.CHN_STS_SAFE, F.HDR_IRQ_RAW 0] s (s.showPins c) := by
  obtain ⟨v, -, -, hkill⟩ := s.showKill_eq (c := c)
  rw [State.showPins, hkill]
  exact ((State.driveKill_touches v).mono (by simp)).trans (State.showSafe_touches.mono (by simp))

theorem State.showPins_chans : (s.showPins c).chans = s.chans := by
  obtain ⟨v, -, -, hkill⟩ := s.showKill_eq (c := c)
  rw [State.showPins, hkill, State.showSafe_chans, State.driveKill_chans]

theorem State.showPins_ch (e : Fin 16) : (s.showPins c).ch e = s.ch e := by
  simp only [State.ch, State.showPins_chans]

theorem State.showPins_pin : (s.showPins c).cr c F.LDI_STS_KILL_PIN = 1 ↔ s.killHeld c := by
  obtain ⟨v, hv, hheld, hkill⟩ := s.showKill_eq (c := c)
  rw [State.showPins, hkill, State.showSafe_touches.cr (by decide), State.driveKill_pin hv, hheld]

end Sys2Proof.Machine
end

section
/-! PROOF. The stop events and the kill line's commands, and the statement about them (R73, R127, R129, R137 to R141). -/

namespace Sys2Proof.Machine
open Sys2Proof

variable {s : State} {c : Fin 16} {p : Placed} {row code : Nat} {src : Src}

/-- A session that has begun a cluster of its own. -/
theorem Session.ne_idle_ne_armed {x : Session} (h : x = .writing ∨ x = .stopping ∨ x = .ending) : x ≠ .idle ∧ x ≠ .armed := by
  rcases h with rfl | rfl | rfl <;> decide

/-! Events that stop a session at once. -/

theorem bitAt_eq_testBit (v i : Nat) : bitAt v i = v.testBit i := by
  simp [bitAt, Nat.testBit_eq_decide_div_mod_eq, beq_eq_decide]

/-- An event of a page that no shadow serves is set in its `IRQ_RAW` (R466). -/
theorem State.cirq_bit {pg bit : Nat} (h : shadowPage pg = false) (hb : bit < 32) :
    bitAt ((s.cirq c pg bit).cr c (F.HDR_IRQ_RAW pg)) bit = true := by
  rw [State.cirq_cr_raw s c bit h, bitAt_eq_testBit, Nat.testBit_mod_two_pow, Nat.testBit_or, Nat.testBit_two_pow_self]
  simp [hb]

theorem wobbleUnlock_locked (h : s.cr c F.WOB_STS_PLL_LOCK = 1) :
    ∃ u : State, wobbleUnlock c row s = u.safetyStop c row 19 ∧ u.cr c F.WOB_STS_PLL_LOCK = 0 ∧
      bitAt (u.cr c (F.HDR_IRQ_RAW 0x2D)) 0 = true ∧ u.ch c = { s.ch c with wr := { (s.ch c).wr with clockLock := false } } ∧
      u.dram = s.dram := by
  refine ⟨((s.cw c F.WOB_STS_PLL_LOCK 0).cirq c 0x2D 0).modWr c fun w => { w with clockLock := false }, if_neg (by simp [h]), ?_,
    State.cirq_bit (by decide) (by decide), ?_, ?_⟩
  · exact (State.cirq_cr_apart (g := F.WOB_STS_PLL_LOCK) _ (by decide)).trans (State.cr_cw_self _ c _ 0)
  · simp [State.modWr]
  · simp [State.modWr]

theorem adipLoss_due (hv : s.cr c F.WOB_STS_ADIP_VALID = 1) (hn : 8 ≤ s.cr c F.WOB_STS_ADIP_FAILS) :
    ∃ u : State, adipLoss c row s = u.safetyStop c row 20 ∧ u.cr c F.WOB_STS_ADIP_VALID = 0 ∧
      bitAt (u.cr c (F.HDR_IRQ_RAW 0x2D)) 1 = true ∧ u.chans = s.chans ∧ u.dram = s.dram := by
  refine ⟨(s.cw c F.WOB_STS_ADIP_VALID 0).cirq c 0x2D 1, if_neg (by omega), ?_, State.cirq_bit (by decide) (by decide), by simp,
    by simp⟩
  exact (State.cirq_cr_apart (g := F.WOB_STS_ADIP_VALID) _ (by decide)).trans (State.cr_cw_self _ c _ 0)

theorem State.statusFault_iff (n : Nat) : s.statusFault c n = true ↔
    bitAt n 0 = true ∨ bitAt n 1 = true ∨ (bitAt n 2 = true ∧ s.cr c F.LDI_STS_KILL_PIN = 0) := by
  simp [State.statusFault, or_assoc]

theorem driverFault_new {n : Nat} (h : s.statusFault c n = true) :
    ∃ u : State, driverFault c n row s = u.safetyStop c row 21 ∧ bitAt (u.cr c (F.HDR_IRQ_RAW 0x32)) 0 = true ∧
      u.ch c = { s.ch c with wr := { (s.ch c).wr with ldi := { (s.ch c).wr.ldi with fclr := false, clean := false, fault := true } } } ∧
      u.dram = s.dram := by
  refine ⟨(s.modLdi c fun l => { l with fclr := false, clean := false, fault := true }).cirq c 0x32 0, if_neg (by simp [h]),
    State.cirq_bit (by decide) (by decide), ?_, ?_⟩
  · simp [State.modLdi, State.modWr]
  · simp [State.modLdi, State.modWr]

/-! Orderly stops. -/

theorem State.orderlyStop_idle (h : (s.ch c).wr.session = .idle) : s.orderlyStop c code = s := if_pos h

theorem State.orderlyStop_armed (h : (s.ch c).wr.session = .armed) : s.orderlyStop c code = s.finishStop c 0 code false :=
  (if_neg (by simp [h])).trans (if_pos h)

theorem State.orderlyStop_begun (h : (s.ch c).wr.session = .writing ∨ (s.ch c).wr.session = .stopping ∨ (s.ch c).wr.session = .ending) :
    s.orderlyStop c code = (s.modWr c fun w => { w with
      stopping := some (w.stopCode code s.plat.time), stopAt := if w.stopping.isSome then w.stopAt else s.plat.time }).setSession c
      .stopping :=
  (if_neg (Session.ne_idle_ne_armed h).1).trans (if_neg (Session.ne_idle_ne_armed h).2)

/-- A stop that waits for its boundary. -/
theorem State.orderlyStop_waits (h : (s.ch c).wr.session = .writing ∨ (s.ch c).wr.session = .stopping ∨ (s.ch c).wr.session = .ending) :
    ((s.orderlyStop c code).ch c).wr = { (s.ch c).wr with
      session := .stopping, stopping := some ((s.ch c).wr.stopCode code s.plat.time)
      stopAt := if (s.ch c).wr.stopping.isSome then (s.ch c).wr.stopAt else s.plat.time } ∧
    (s.orderlyStop c code).cr c F.WRC_STS_STATE = 3 ∧ TouchesOnly c [F.WRC_STS_STATE] s (s.orderlyStop c code) := by
  rw [State.orderlyStop_begun h, State.setSession_of_ne_idle (by decide)]
  refine ⟨?_, State.cr_cw_self _ c F.WRC_STS_STATE 3, (((TouchesOnly.refl c _ s).modWr _).modWr _).cw _ (by decide)⟩
  simp only [State.cw_ch, State.modWr_ch_wr]

theorem orderlyEnd_none (h : (s.ch c).wr.stopping = none ∨ (s.ch c).wr.session ≠ .stopping) : orderlyEnd c row s = s := by
  unfold orderlyEnd
  rcases h with h | h
  · rw [h]
  · split
    · exact if_neg h
    · rfl

theorem orderlyEnd_due (hc : (s.ch c).wr.stopping = some code) (hs : (s.ch c).wr.session = .stopping) :
    orderlyEnd c row s = s.finishStop c row code false := by
  simp [orderlyEnd, hc, hs]

/-! The kill line. -/

/-- What a level held from outside does before it stops a session: the hold is known, and the pin shows it. -/
def State.holdKill (s : State) (c : Fin 16) : State :=
  let s1 := s.modLdi c fun l => { l with held := true }
  if s.cr c F.LDI_STS_KILL_PIN = 1 then s1 else (s1.cw c F.LDI_STS_KILL_PIN 1).cirq c 0x32 2

theorem State.holdKill_wr : ((s.holdKill c).ch c).wr = { (s.ch c).wr with ldi := { (s.ch c).wr.ldi with held := true } } := by
  simp only [State.holdKill]
  split <;> simp [State.modLdi, State.modWr_ch_wr]

theorem State.holdKill_pin : (s.holdKill c).cr c F.LDI_STS_KILL_PIN = 1 := by
  simp only [State.holdKill]
  split
  next h => exact h
  next => exact (State.cirq_cr_apart _ (by decide)).trans (State.cr_cw_self _ c F.LDI_STS_KILL_PIN 1)

theorem killExternal_eq : killExternal c row s = ((s.holdKill c).safetyStop c row 23).showSafe c := rfl

theorem killExternal_held : (killExternal c row s).cr c F.LDI_STS_KILL_PIN = 1 ∧ ((killExternal c row s).ch c).wr.ldi.held = true := by
  rw [killExternal_eq, State.showSafe_touches.cr (by decide), State.showSafe_ch, State.safetyStop_held, State.holdKill_wr]
  refine ⟨?_, rfl⟩
  by_cases h : ((s.holdKill c).ch c).wr.session = .idle
  · rw [State.safetyStop_idle h]
    exact State.holdKill_pin
  · exact (State.safetyStop_killed h).2

theorem killExternal_on (h : (s.ch c).wr.session ≠ .idle) : (killExternal c row s).cr c F.LDI_STS_KILL_LATCH = 1 ∧
    (killExternal c row s).cr c F.WRC_STS_LAST_STOP = 23 ∧ ((killExternal c row s).ch c).wr.session = .idle := by
  have h' : ((s.holdKill c).ch c).wr.session ≠ .idle := by
    rw [State.holdKill_wr]
    exact h
  rw [killExternal_eq, State.showSafe_touches.cr (by decide), State.showSafe_touches.cr (by decide), State.showSafe_ch]
  exact ⟨(State.safetyStop_killed h').1, (State.safetyStop_stopped h').lastStop, (State.safetyStop_stopped h').idle⟩

theorem ldiKill_quiet {kill : Bool} (h : kill = false ∨ s.sessionOn c = false) :
    ldiKill c kill s = (s.cw c F.LDI_CTL_KILL (b2n kill)).showPins c := by
  have off : ¬ (kill && s.sessionOn c) = true := by rcases h with h | h <;> simp [h]
  simp only [ldiKill, if_neg off]
  rfl

/-- A kill written during a session stops it in a row of the model's choice (log 53). -/
theorem ldiKill_stops (h : s.sessionOn c = true) :
    ∃ (u : State) (row : Nat), u.regs = (s.cw c F.LDI_CTL_KILL 1).regs ∧ u.chans = s.chans ∧
      ldiKill c true s = (u.safetyStop c row 23).showPins c :=
  ⟨(s.cw c F.LDI_CTL_KILL 1).drawRow.2, (s.cw c F.LDI_CTL_KILL 1).drawRow.1, rfl, rfl, by simp only [ldiKill, h]; rfl⟩

theorem State.ctlKill_written (kill : Bool) : (s.cw c F.LDI_CTL_KILL (b2n kill)).cr c F.LDI_CTL_KILL = b2n kill := by
  rw [State.cr_cw_self]
  cases kill <;> rfl

theorem b2n_eq_one (b : Bool) : b2n b = 1 ↔ b = true := by cases b <;> simp [b2n]

theorem ldiKill_ctl (kill : Bool) : (ldiKill c kill s).cr c F.LDI_CTL_KILL = b2n kill := by
  by_cases h : kill = false ∨ s.sessionOn c = false
  · rw [ldiKill_quiet h, State.showPins_touches.cr (by decide), State.ctlKill_written]
  · obtain ⟨rfl, hs⟩ : kill = true ∧ s.sessionOn c = true := by simpa using h
    obtain ⟨u, row, hregs, -, hk⟩ := ldiKill_stops hs
    rw [hk, State.showPins_touches.cr (by decide), State.safetyStop_touches.cr (by decide)]
    exact (State.rd_eq_of_regs hregs _ _).trans (State.ctlKill_written true)

theorem ldiKill_quiet_pin {kill : Bool} (h : kill = false ∨ s.sessionOn c = false) :
    ((ldiKill c kill s).cr c F.LDI_STS_KILL_PIN = 1 ↔ kill = true ∨ s.cr c F.LDI_STS_KILL_LATCH = 1 ∨ (s.ch c).wr.ldi.held = true ∨
      (s.ch c).st = .bivouac ∨ (s.ch c).powered = false) ∧ (ldiKill c kill s).chans = s.chans := by
  rw [ldiKill_quiet h, State.showPins_pin, State.showPins_chans, State.killHeld, State.ctlKill_written, b2n_eq_one,
    State.cr_cw_apart _ _ (by decide), State.cw_ch]
  exact ⟨Iff.rfl, rfl⟩

theorem ldiKill_on (h : s.sessionOn c = true) : (ldiKill c true s).cr c F.LDI_STS_KILL_PIN = 1 ∧
    (ldiKill c true s).cr c F.LDI_STS_KILL_LATCH = 1 ∧ ((ldiKill c true s).ch c).wr.session = .idle ∧
    (ldiKill c true s).cr c F.WRC_STS_LAST_STOP = 23 := by
  obtain ⟨u, row, -, hchans, hk⟩ := ldiKill_stops h
  have on : (u.ch c).wr.session ≠ .idle := by
    rw [show u.ch c = s.ch c by simp only [State.ch, hchans]]
    simpa [State.sessionOn] using h
  have latch := (State.safetyStop_killed on (row := row) (code := 23)).1
  rw [hk, State.showPins_pin, State.showPins_touches.cr (by decide), State.showPins_touches.cr (by decide), State.showPins_ch]
  exact ⟨.inr (.inl latch), latch, (State.safetyStop_stopped on).idle, (State.safetyStop_stopped on).lastStop⟩

/-- The causes that have gone leave the kill latch, and the outside hold ends with them (log 79). -/
def State.dropGone (s : State) (c : Fin 16) : State :=
  s.modWr c fun w => { w with killWhy := w.killWhy.filter fun y => !s.killGone c y, ldi := { w.ldi with held := false } }

theorem killLatchClear_eq : killLatchClear c s =
    (if ((s.dropGone c).ch c).wr.killWhy.isEmpty then (s.dropGone c).cw c F.LDI_STS_KILL_LATCH 0 else s.dropGone c).showPins c := rfl

theorem killLatchClear_wr : ((killLatchClear c s).ch c).wr = { (s.ch c).wr with
    killWhy := (s.ch c).wr.killWhy.filter fun y => !s.killGone c y, ldi := { (s.ch c).wr.ldi with held := false } } := by
  rw [killLatchClear_eq, State.showPins_ch]
  split <;> simp [State.dropGone, State.modWr_ch_wr]

theorem killLatchClear_latch : (killLatchClear c s).cr c F.LDI_STS_KILL_LATCH =
    if ((killLatchClear c s).ch c).wr.killWhy = [] then 0 else s.cr c F.LDI_STS_KILL_LATCH := by
  rw [killLatchClear_wr, killLatchClear_eq, State.showPins_touches.cr (by decide), State.dropGone, State.modWr_ch_wr]
  simp only [List.isEmpty_iff]
  split
  · exact State.cr_cw_self _ c F.LDI_STS_KILL_LATCH 0
  · rfl

/-! The statement. -/

/-- Settles O53: each event by its lemma; every stop of a session is `finishStop`, after the alarm for a safety stop. -/
theorem stopsCutAndTheKillLineLatches : Obligations.StopsCutAndTheKillLineLatches := by
  unfold Obligations.StopsCutAndTheKillLineLatches
  intro s c row src b w
  refine ⟨rfl, rfl, fun code h => State.safetyStop_idle h, fun code p hcode hs hp => ?cut, fun h => ?unlocked, fun h => ?unlock,
    fun h => ?adipKept, fun hv hn => ?adip, ⟨fun h => ?noFault, fun h => ?fault⟩,
    fun hr => ⟨fun h => ?stopIdle, fun h => ?stopArmed, fun h => ?stopBegun⟩, fun h => ?noStop, fun code p hc hcode hs hp => ?orderly,
    ?external, fun kill hr => ?kill, ?clear⟩
  case cut =>
    obtain ⟨hon, harmed⟩ := Session.ne_idle_ne_armed hs
    have stopped := State.safetyStop_stopped hon (row := row) (code := code)
    obtain ⟨hlatch, hpin⟩ := State.safetyStop_killed hon (row := row) (code := code)
    obtain ⟨hwptr, hscar, hplaced, hready⟩ := State.safetyStop_cut hon (row := row) (code := code) harmed hp
    have touched := s.safetyStop_touches (c := c) (row := row) (code := code)
    refine ⟨hlatch, hpin, State.safetyStop_cause hon, stopped.idle, stopped.stopping, stopped.state,
      stopped.lastStop.trans (Nat.mod_eq_of_lt hcode), hwptr, hscar, hplaced, hready.trans ?_, touched.dram, touched.others⟩
    rw [WriteChain.returned]
    split <;> rfl
  case unlocked => exact congrArg Host.Outcome.next (if_pos h)
  case unlock =>
    obtain ⟨u, hu, hrest⟩ := wobbleUnlock_locked (row := row) h
    exact ⟨u, congrArg Host.Outcome.next hu, hrest⟩
  case adipKept => exact congrArg Host.Outcome.next (if_pos h)
  case adip =>
    obtain ⟨u, hu, hrest⟩ := adipLoss_due (row := row) hv hn
    exact ⟨u, congrArg Host.Outcome.next hu, hrest⟩
  case noFault =>
    rw [← State.statusFault_iff] at h
    exact congrArg Host.Outcome.next (if_pos (by simpa using h))
  case fault =>
    obtain ⟨u, hu, hrest⟩ := driverFault_new (row := row) ((State.statusFault_iff b.toNat).mpr h)
    exact ⟨u, congrArg Host.Outcome.next hu, hrest⟩
  case stopIdle => exact congrArg Host.Outcome.next ((State.gated_open s hr).trans (State.orderlyStop_idle h))
  case stopArmed => exact congrArg Host.Outcome.next ((State.gated_open s hr).trans (State.orderlyStop_armed h))
  case stopBegun =>
    obtain ⟨hwr, hstate, htouched⟩ := State.orderlyStop_waits (s := s.unmark (chRg c) 0x30 0x100 false) (c := c) (code := 1) h
    exact ⟨_, congrArg Host.Outcome.next (State.gated_open s hr), hwr, hstate, htouched.fields⟩
  case noStop => exact congrArg Host.Outcome.next (orderlyEnd_none h)
  case orderly =>
    have armed : (s.ch c).wr.session ≠ .armed := by
      rw [show (s.ch c).wr.session = .stopping from hs]
      decide
    refine ⟨_, congrArg Host.Outcome.next (orderlyEnd_due hc hs), State.finishStop_stopped.idle,
      State.finishStop_stopped.lastStop.trans (Nat.mod_eq_of_lt hcode), fun hrow => State.finishStop_boundary_whole armed hp hrow,
      fun hrow => ?_⟩
    exact (State.finishStop_cut_pointers armed hp (.inl hrow)).symm
  case external => exact ⟨killExternal c row s, rfl, killExternal_held.1, killExternal_held.2, killExternal_on⟩
  case kill =>
    refine ⟨ldiKill c kill (s.unmark (chRg c) 0x32 0x100 false), congrArg Host.Outcome.next (State.gated_open s hr), ldiKill_ctl kill,
      ldiKill_quiet_pin (s := s.unmark (chRg c) 0x32 0x100 false), fun hk h => ?_⟩
    subst hk
    exact ldiKill_on (s := s.unmark (chRg c) 0x32 0x100 false) h
  case clear =>
    exact ⟨killLatchClear c s, rfl, by rw [killLatchClear_wr], by rw [killLatchClear_wr],
      fun h => killLatchClear_latch.trans (if_pos h), fun h => killLatchClear_latch.trans (if_neg h)⟩

end Sys2Proof.Machine
end

section
/-! PROOF. Changes of a channel's lanes: what the lanes read afterwards, and what every change of their loops leaves as it was. -/

namespace Sys2Proof.Machine
open Sys2Proof

variable {s : State} {c : Fin 16}

/-! A channel's read path after a change. -/

theorem State.modRd_ch (f : ReadPath → ReadPath) : (s.modRd c f).ch c = { s.ch c with rd := f (s.ch c).rd } := s.ch_modCh_self c _

theorem State.modRd_rd (f : ReadPath → ReadPath) : ((s.modRd c f).ch c).rd = f (s.ch c).rd := by rw [State.modRd_ch]

theorem State.modLoops_loop (l m : Fin 8) (f : LaneLoops → LaneLoops) :
    ((s.modLoops c l f).ch c).rd.loops[m] = if m = l then f (s.ch c).rd.loops[l] else (s.ch c).rd.loops[m] := by
  simp only [State.modLoops, State.modRd_rd, Fin.getElem_fin, Vector.getElem_set, Fin.val_inj, eq_comm]

theorem State.modLoops_loop_self (l : Fin 8) (f : LaneLoops → LaneLoops) :
    ((s.modLoops c l f).ch c).rd.loops[l] = f (s.ch c).rd.loops[l] := (State.modLoops_loop l l f).trans (if_pos rfl)

theorem State.modLane_rd (l : Nat) (f : Lane → Lane) : ((s.modLane c l f).ch c).rd =
    { (s.ch c).rd with lanes := (s.ch c).rd.lanes.zipIdx.map fun e => if e.2 == l then f e.1 else e.1 } := State.modRd_rd _

theorem State.modLane_lane {l : Nat} {x : Lane} (f : Lane → Lane) (h : (s.ch c).rd.lanes[l]? = some x) :
    ((s.modLane c l f).ch c).rd.lanes[l]? = some (f x) := by
  simp [State.modLane_rd, h]

theorem ReadPath.lane_of_getElem? {r : ReadPath} {l : Nat} {x : Lane} (h : r.lanes[l]? = some x) : r.lane l = x := by
  simp [ReadPath.lane, List.getD, h]

/-- A channel but for its lanes' loops and the coefficients that wait for a frame boundary. -/
def Chan.still (x : Chan) : Chan := { x with rd := { x.rd with loops := Vector.replicate 8 LaneLoops.off, eqDue := [] } }

/-- The registers of lane `l` that its loops and its frame boundaries show. -/
def laneLoopFields (l : Nat) : List Fld :=
  [F.BRC_AFE_CUR_GAIN l, F.BRC_AFE_CUR_BOOST l, F.BRC_CORR_CUR_OFS l, F.BRC_CORR_CUR_GAIN l, F.BRC_CORR_CUR_ASYM l, F.BRC_TR_STS_FERR l,
    F.BRC_TR_STS_RESETS l, F.BRC_TR_STS_LOCK l, F.BRC_PR_CUR l 0, F.BRC_PR_CUR l 1, F.BRC_PR_CUR l 2, F.BRC_PR_CUR l 3]

/-- The registers of the lanes' loops. -/
def loopFields : List Fld := (List.range 8).flatMap laneLoopFields

theorem laneLoopFields_among : ∀ l : Fin 8, ∀ f ∈ laneLoopFields l, f.among loopFields = true := by decide

theorem sync_outside_loopFields : ∀ l : Fin 8, (F.BRC_LANE_STS_SYNC l).outside loopFields = true := by decide

end Sys2Proof.Machine
end

section
/-! PROOF. Work on the lanes' loops alone, and the boundary between two frames (R58, R59, R63, R99). -/

namespace Sys2Proof.Machine
open Sys2Proof

variable {s : State} {c : Fin 16} {l : Fin 8}

/-! The steps in which a lane's start values take effect (Table 3-4). -/

/-- Number `n` bytes long at byte `o` of a list. -/
def fieldAt (b : List Byte) (o n : Nat) : Nat := leNat ((b.drop o).take n)

/-- The loops of a lane restart from a zone's values. -/
def LaneLoops.restart (x : LaneLoops) (b : List Byte) : LaneLoops :=
  { x with
    afeGain := min 30 (fieldAt b 0 1), afeBoost := min 12 (fieldAt b 1 1), due := none
    ofs := toSigned 8 (fieldAt b 2 1) * 2 ^ 22, asym := toSigned 8 (fieldAt b 3 1) * 2 ^ 17, gain := (fieldAt b 4 2 : Nat) * 2 ^ 10 }

/-- The partial-response target of a lane from a zone's values. -/
def State.startTarget (s : State) (c : Fin 16) (l : Fin 8) (b : List Byte) : State :=
  (List.range 4).foldl (fun s i => s.cw c (F.BRC_PR_CUR l i) (fieldAt b (8 + i) 1)) s

/-- Both tap sets of a lane from a zone's values. -/
def State.startTaps (s : State) (c : Fin 16) (l : Fin 8) (b : List Byte) : State :=
  (List.range 25).foldl (fun s t => (s.putCoef c l 0 t (fieldAt b (12 + 2 * t) 2)).putCoef c l 1 t (fieldAt b (62 + 2 * t) 2)) s

theorem State.loadLane_eq (b : List Byte) : s.loadLane c l b =
    (((s.modLoops c l fun x => x.restart b).startTarget c l b).startTaps c l b).showCorr c l := rfl

/-- From `s` to `t` the loops of channel `c`'s lanes, the coefficients that wait, the tables and registers of the list changed at most. -/
structure LaneWork (c : Fin 16) (fs : List Fld) (s t : State) : Prop where
  touches : TouchesOnly c fs s t
  still   : (t.ch c).still = (s.ch c).still

namespace LaneWork
variable {fs : List Fld} {r t : State}

theorem refl (c : Fin 16) (fs : List Fld) (s : State) : LaneWork c fs s s := ⟨.refl c fs s, rfl⟩

theorem trans (h : LaneWork c fs r s) (k : LaneWork c fs s t) : LaneWork c fs r t := ⟨h.touches.trans k.touches, k.still.trans h.still⟩

theorem lanes (h : LaneWork c fs s t) : (t.ch c).rd.lanes = (s.ch c).rd.lanes := congrArg (·.rd.lanes) h.still

theorem clusters (h : LaneWork c fs s t) : (t.ch c).rd.clusters = (s.ch c).rd.clusters := congrArg (·.rd.clusters) h.still

theorem reading? (h : LaneWork c fs s t) (pcn : Nat) : t.reading? c pcn = s.reading? c pcn := by
  simp only [State.reading?, h.clusters]

theorem pending (h : LaneWork c fs s t) (p : Job → Bool) : (t.ch c).rd.pending p = (s.ch c).rd.pending p :=
  congrArg (·.rd.pending p) h.still

theorem of_eqs (h : LaneWork c fs r s) (hr : t.regs = s.regs) (hd : t.dram = s.dram) (hc : t.chans = s.chans) : LaneWork c fs r t :=
  ⟨h.touches.of_eqs hr hd hc, (congrArg (fun v : Vector Chan 16 => v[c].still) hc).trans h.still⟩

theorem cw (h : LaneWork c fs r s) {f : Fld} (v : Nat) (hf : f.among fs = true) : LaneWork c fs r (s.cw c f v) :=
  ⟨h.touches.cw v hf, h.still⟩

/-- A change of the read path that reaches only what `Chan.still` leaves out. -/
theorem modRd (h : LaneWork c fs r s) {f : ReadPath → ReadPath}
    (hf : ∀ x : ReadPath, { f x with loops := Vector.replicate 8 LaneLoops.off, eqDue := [] } =
      { x with loops := Vector.replicate 8 LaneLoops.off, eqDue := [] }) : LaneWork c fs r (s.modRd c f) :=
  ⟨h.touches.modCh _, by rw [State.modRd_ch, ← h.still, Chan.still, hf, Chan.still]⟩

theorem modLoops (h : LaneWork c fs r s) (l : Fin 8) (f : LaneLoops → LaneLoops) : LaneWork c fs r (s.modLoops c l f) :=
  h.modRd fun _ => rfl

theorem tput (h : LaneWork c fs r s) (u : Tbl) (rg i v : Nat) : LaneWork c fs r (s.tput u rg i v) := h.of_eqs rfl rfl rfl

theorem ite {p : Prop} [Decidable p] (h : LaneWork c fs r s) (k : LaneWork c fs r t) : LaneWork c fs r (if p then s else t) := by
  split
  · exact h
  · exact k

theorem foldl {α : Type} {g : State → α → State} {xs : List α} (hg : ∀ x, ∀ a ∈ xs, LaneWork c fs x (g x a)) (h : LaneWork c fs r s) :
    LaneWork c fs r (xs.foldl g s) := by
  induction xs generalizing s with
  | nil => exact h
  | cons a xs ih => exact ih (fun x b hb => hg x b (List.mem_cons_of_mem _ hb)) (h.trans (hg s a List.mem_cons_self))

theorem putCoef (h : LaneWork c fs r s) (l set t v : Nat) : LaneWork c fs r (s.putCoef c l set t v) := (h.tput _ _ _ _).ite h

theorem showCorr (h : LaneWork c loopFields r s) (l : Fin 8) : LaneWork c loopFields r (s.showCorr c l) :=
  have among := laneLoopFields_among l
  ((h.cw _ (among _ (by simp [laneLoopFields]))).cw _ (among _ (by simp [laneLoopFields]))).cw _ (among _ (by simp [laneLoopFields]))

theorem showAfe (h : LaneWork c loopFields r s) (l : Fin 8) : LaneWork c loopFields r (s.showAfe c l) :=
  have among := laneLoopFields_among l
  (h.cw _ (among _ (by simp [laneLoopFields]))).cw _ (among _ (by simp [laneLoopFields]))

theorem startTarget (h : LaneWork c loopFields r s) (l : Fin 8) (b : List Byte) : LaneWork c loopFields r (s.startTarget c l b) := by
  refine h.foldl fun x i hi => (refl c _ x).cw _ (laneLoopFields_among l _ ?_)
  have := List.mem_range.mp hi
  interval_cases i <;> simp [laneLoopFields]

theorem startTaps (h : LaneWork c fs r s) (l : Fin 8) (b : List Byte) : LaneWork c fs r (s.startTaps c l b) :=
  h.foldl fun x _ _ => ((refl c _ x).putCoef _ _ _ _).putCoef _ _ _ _

theorem loadLane (h : LaneWork c loopFields r s) (l : Fin 8) (b : List Byte) : LaneWork c loopFields r (s.loadLane c l b) := by
  rw [State.loadLane_eq]
  exact (((h.modLoops l _).startTarget l b).startTaps l b).showCorr l

theorem zoneDue (h : LaneWork c loopFields r s) (l : Fin 8) : LaneWork c loopFields r (s.zoneDue c l) := by
  unfold State.zoneDue
  split
  · exact h
  · exact (h.loadLane l _).ite h

theorem frameBoundary (h : LaneWork c loopFields r s) (l : Fin 8) : LaneWork c loopFields r (s.frameBoundary c l) := by
  unfold State.frameBoundary
  extract_lets s0 mine s1 s2 near now first s3
  have h1 : LaneWork c loopFields r s1 := (h.zoneDue l).foldl fun x _ _ => (refl c _ x).putCoef _ _ _ _
  have h2 : LaneWork c loopFields r s2 := h1.modRd fun _ => rfl
  exact ((h2.cw _ (laneLoopFields_among l _ (by simp [laneLoopFields]))).modLoops l _).showAfe l

end LaneWork

end Sys2Proof.Machine
end

section
/-! PROOF. What a fold over lanes, taps or fields leaves, the values a lane takes from the zone table, and the tables' commands (R62, R63,
R99). -/

namespace Sys2Proof.Machine
open Sys2Proof

variable {s : State} {c : Fin 16} {l : Fin 8}

theorem State.tget_of_tbl {t : State} (h : t.tbl = s.tbl) (u : Tbl) (rg i : Nat) : t.tget u rg i = s.tget u rg i := by
  simp only [State.tget, h]

/-! Folds. -/

/-- What every step of a fold keeps, the fold keeps. -/
theorem foldl_keeps {α β : Type} (p : State → β) {g : State → α → State} (hg : ∀ x a, p (g x a) = p x) (xs : List α) (s : State) :
    p (xs.foldl g s) = p s := by
  induction xs generalizing s with
  | nil => rfl
  | cons a xs ih => exact (ih _).trans (hg s a)

theorem State.cr_foldl_cw_apart {α : Type} {f : α → Fld} {v : α → Nat} {g : Fld} {xs : List α}
    (h : ∀ a ∈ xs, (f a).apart g = true) : (xs.foldl (fun s a => s.cw c (f a) (v a)) s).cr c g = s.cr c g := by
  induction xs generalizing s with
  | nil => rfl
  | cons a xs ih => exact (ih fun b hb => h b (List.mem_cons_of_mem _ hb)).trans (s.cr_cw_apart _ (h a List.mem_cons_self))

/-- Of fields each apart from the others, every one reads as it was written. -/
theorem State.cr_foldl_cw {α : Type} {f : α → Fld} {v : α → Nat} {xs : List α}
    (h : ∀ a ∈ xs, ∀ b ∈ xs, a ≠ b → (f a).apart (f b) = true) {a : α} (ha : a ∈ xs) :
    (xs.foldl (fun s a => s.cw c (f a) (v a)) s).cr c (f a) = v a % 2 ^ (f a).width := by
  induction xs generalizing s with
  | nil => exact absurd ha List.not_mem_nil
  | cons b xs ih =>
    by_cases hm : a ∈ xs
    · exact ih (fun x hx y hy => h x (List.mem_cons_of_mem _ hx) y (List.mem_cons_of_mem _ hy)) hm
    · obtain rfl : a = b := (List.mem_cons.mp ha).resolve_right hm
      have apart : ∀ x ∈ xs, (f x).apart (f a) = true := fun x hx =>
        h x (List.mem_cons_of_mem _ hx) a List.mem_cons_self fun e => hm (e ▸ hx)
      rw [List.foldl_cons, State.cr_foldl_cw_apart apart, State.cr_cw_self]

/-! The start values of a zone (R62, R63, Table 3-4). -/

theorem State.zoneDue_elsewhere {z : ZoneStart} {y : Lane} (hz : (s.ch c).rd.loops[l].due = some z)
    (hy : (s.ch c).rd.lanes[l.val]? = some y) (h : (frameAddr y.next).layer ≠ z.layer ∨ (frameAddr y.next).zone ≠ z.zone) :
    s.zoneDue c l = s := by
  simp only [State.zoneDue, hz, ReadPath.lane_of_getElem? hy]
  exact if_neg fun ⟨h1, h2⟩ => h.elim (· h1) (· h2)

theorem State.zoneDue_there {z : ZoneStart} {y : Lane} (hz : (s.ch c).rd.loops[l].due = some z)
    (hy : (s.ch c).rd.lanes[l.val]? = some y) (h1 : (frameAddr y.next).layer = z.layer) (h2 : (frameAddr y.next).zone = z.zone) :
    s.zoneDue c l = s.loadLane c l z.bytes := by
  simp only [State.zoneDue, hz, ReadPath.lane_of_getElem? hy]
  exact if_pos ⟨h1, h2⟩

theorem State.putCoef_chans (l set t v : Nat) : (s.putCoef c l set t v).chans = s.chans := by
  unfold State.putCoef
  split <;> rfl

theorem State.putCoef_regs (l set t v : Nat) : (s.putCoef c l set t v).regs = s.regs := by
  unfold State.putCoef
  split <;> rfl

theorem State.startTaps_chans (b : List Byte) : (s.startTaps c l b).chans = s.chans :=
  foldl_keeps State.chans (fun _ _ => (State.putCoef_chans _ _ _ _).trans (State.putCoef_chans _ _ _ _)) _ _

theorem State.startTaps_regs (b : List Byte) : (s.startTaps c l b).regs = s.regs :=
  foldl_keeps State.regs (fun _ _ => (State.putCoef_regs _ _ _ _).trans (State.putCoef_regs _ _ _ _)) _ _

theorem State.startTarget_chans (b : List Byte) : (s.startTarget c l b).chans = s.chans := by
  unfold State.startTarget
  exact foldl_keeps State.chans (fun x _ => x.cw_chans c _ _) _ _

theorem State.startTarget_tbl (b : List Byte) : (s.startTarget c l b).tbl = s.tbl := by
  unfold State.startTarget
  exact foldl_keeps State.tbl (fun x _ => x.cw_tbl c _ _) _ _

theorem State.loadLane_loop (b : List Byte) : ((s.loadLane c l b).ch c).rd.loops[l] = ((s.ch c).rd.loops[l]).restart b := by
  have chans : (s.loadLane c l b).chans = (s.modLoops c l fun x => x.restart b).chans :=
    (State.startTaps_chans b).trans (State.startTarget_chans b)
  rw [State.ch, chans]
  exact State.modLoops_loop_self l _

theorem State.loadLane_target (b : List Byte) {i : Nat} (h : i < 4) :
    (s.loadLane c l b).cr c (F.BRC_PR_CUR l i) = fieldAt b (8 + i) 1 % 256 := by
  have target : ∀ l : Fin 8, ∀ i < 4, ∀ j < 4, i ≠ j → (F.BRC_PR_CUR l i).apart (F.BRC_PR_CUR l j) = true := by decide
  have corr : ∀ l : Fin 8, ∀ i < 4, (F.BRC_CORR_CUR_OFS l).apart (F.BRC_PR_CUR l i) = true ∧
      (F.BRC_CORR_CUR_GAIN l).apart (F.BRC_PR_CUR l i) = true ∧ (F.BRC_CORR_CUR_ASYM l).apart (F.BRC_PR_CUR l i) = true := by decide
  obtain ⟨hofs, hgain, hasym⟩ := corr l i h
  calc (s.loadLane c l b).cr c (F.BRC_PR_CUR l i)
    _ = (((s.modLoops c l fun x => x.restart b).startTarget c l b).startTaps c l b).cr c (F.BRC_PR_CUR l i) :=
      ((State.cr_cw_apart _ _ hasym).trans (State.cr_cw_apart _ _ hgain)).trans (State.cr_cw_apart _ _ hofs)
    _ = ((s.modLoops c l fun x => x.restart b).startTarget c l b).cr c (F.BRC_PR_CUR l i) :=
      State.rd_eq_of_regs (State.startTaps_regs b) _ _
    _ = fieldAt b (8 + i) 1 % 256 := State.cr_foldl_cw
      (fun i hi j hj => target l i (List.mem_range.mp hi) j (List.mem_range.mp hj)) (List.mem_range.mpr h)

/-- A coefficient written reads back, cut to 16 bits; a tap the lane has not stays. -/
theorem State.putCoef_tget {l set t k tap v : Nat} (ht : t < 32) (htap : tap < 32) :
    (s.putCoef c l set t v).tget .eqCoef (chRg c) (eqIndex l k tap) =
      if k = set ∧ tap = t ∧ hasTap l t = true then v % 2 ^ 16 else s.tget .eqCoef (chRg c) (eqIndex l k tap) := by
  unfold State.putCoef
  by_cases hhas : hasTap l t = true
  · by_cases heq : k = set ∧ tap = t
    · obtain ⟨rfl, rfl⟩ := heq
      simp [hhas]
    · have key : tblKey .eqCoef (chRg c) (eqIndex l k tap) ≠ tblKey .eqCoef (chRg c) (eqIndex l set t) := by
        simp only [tblKey, eqIndex]
        omega
      rw [if_pos hhas, State.tget_tput_of_key _ _ key, if_neg fun h => heq ⟨h.1, h.2.1⟩]
  · simp [hhas]

theorem State.startTaps_tget (b : List Byte) {k tap : Nat} (hk : k < 2) (htap : tap < 25) :
    (s.startTaps c l b).tget .eqCoef (chRg c) (eqIndex l k tap) =
      if hasTap l tap then fieldAt b (12 + 50 * k + 2 * tap) 2 % 2 ^ 16 else s.tget .eqCoef (chRg c) (eqIndex l k tap) := by
  have upTo : ∀ n ≤ 25, ((List.range n).foldl (fun s t =>
        (s.putCoef c l 0 t (fieldAt b (12 + 2 * t) 2)).putCoef c l 1 t (fieldAt b (62 + 2 * t) 2)) s).tget .eqCoef (chRg c) (eqIndex l k tap) =
      if tap < n ∧ hasTap l tap = true then fieldAt b (12 + 50 * k + 2 * tap) 2 % 2 ^ 16 else
        s.tget .eqCoef (chRg c) (eqIndex l k tap) := by
    intro n hn
    induction n with
    | zero => simp
    | succ n ih =>
      rw [List.range_succ, List.foldl_append, List.foldl_cons, List.foldl_nil, State.putCoef_tget (by omega) (by omega),
        State.putCoef_tget (by omega) (by omega), ih (by omega)]
      by_cases htn : tap = n
      · subst htn
        interval_cases k <;> simp
      · have : tap < n + 1 ↔ tap < n := by omega
        simp [htn, this]
  have := upTo 25 (Nat.le_refl _)
  simp only [htap, true_and] at this
  exact this

theorem State.loadLane_taps (b : List Byte) {k tap : Nat} (hk : k < 2) (htap : tap < 25) :
    (s.loadLane c l b).tget .eqCoef (chRg c) (eqIndex l k tap) =
      if hasTap l tap then fieldAt b (12 + 50 * k + 2 * tap) 2 % 2 ^ 16 else s.tget .eqCoef (chRg c) (eqIndex l k tap) := by
  have target : ((s.modLoops c l fun x => x.restart b).startTarget c l b).tbl = s.tbl := State.startTarget_tbl b
  calc (s.loadLane c l b).tget .eqCoef (chRg c) (eqIndex l k tap)
    _ = (((s.modLoops c l fun x => x.restart b).startTarget c l b).startTaps c l b).tget .eqCoef (chRg c) (eqIndex l k tap) := rfl
    _ = _ := State.startTaps_tget b hk htap
    _ = _ := by rw [State.tget_of_tbl target]

/-! A fetched entry (R63). -/

/-- A lane's part of an entry at address `a` waits for the lane's first frame there. -/
def State.awaitStart (s : State) (c : Fin 16) (layer zone a : Nat) (l : Fin 8) : State :=
  s.modLoops c l fun x => { x with due := some ⟨layer, zone, s.dramBytes c (a + l.val * 128) 128⟩ }

/-- Every lane's part of an entry at address `a` waits. -/
def State.awaitStarts (s : State) (c : Fin 16) (layer zone a : Nat) (ls : List (Fin 8)) : State :=
  ls.foldl (fun s l => s.awaitStart c layer zone a l) s

theorem zoneFetch_poisoned {layer zone : Nat} (hl : layer < 32) (hz : zone < 48)
    (h : s.anyPoison c (s.cr c F.XTC_ZT_BASE + (layer * 48 + zone) * 1024) 1024 = true) :
    zoneFetch c layer zone s = (s.err (chRg c) 0x28 0x10C 7 (layer * 48 + zone)).cirq c 0x28 0 := by
  rw [zoneFetch, if_neg (by omega), if_pos h]

theorem zoneFetch_whole {layer zone : Nat} (hl : layer < 32) (hz : zone < 48)
    (h : s.anyPoison c (s.cr c F.XTC_ZT_BASE + (layer * 48 + zone) * 1024) 1024 = false) :
    zoneFetch c layer zone s = s.awaitStarts c layer zone (s.cr c F.XTC_ZT_BASE + (layer * 48 + zone) * 1024) (List.finRange 8) := by
  rw [zoneFetch, if_neg (by omega), if_neg (by simp [h])]
  rfl

section Awaiting
variable (layer zone a : Nat) (ls : List (Fin 8))

theorem State.awaitStarts_keeps {β : Type} (p : State → β) (hp : ∀ (x : State) l f, p (x.modLoops c l f) = p x) :
    p (s.awaitStarts c layer zone a ls) = p s := foldl_keeps p (fun x l => hp x l _) ls s

theorem State.awaitStarts_loop (l : Fin 8) : ((s.awaitStarts c layer zone a ls).ch c).rd.loops[l] = if l ∈ ls then
    { (s.ch c).rd.loops[l] with due := some ⟨layer, zone, s.dramBytes c (a + l.val * 128) 128⟩ } else (s.ch c).rd.loops[l] := by
  unfold State.awaitStarts
  induction ls generalizing s with
  | nil => simp
  | cons m ls ih =>
    have dram : (s.awaitStart c layer zone a m).dramBytes c (a + l.val * 128) 128 = s.dramBytes c (a + l.val * 128) 128 := rfl
    rw [List.foldl_cons, ih, dram, State.awaitStart, State.modLoops_loop]
    by_cases hm : l = m
    · subst hm
      simp
    · simp [hm]

end Awaiting

/-! A coefficient write (R99). -/

theorem eqDataWrite_ch (v : Nat) : (eqDataWrite c v s).ch c = { s.ch c with rd := { (s.ch c).rd with eqDue := (s.ch c).rd.eqDue ++
    [(eqIndex (s.cr c F.XTC_EQ_SEL_LANE) (s.cr c F.XTC_EQ_SEL_SET) (s.cr c F.XTC_EQ_SEL_TAP), v % 2 ^ 16)] } } := by
  simp only [eqDataWrite]
  split
  · rw [State.wrLegal_ch, State.modRd_ch]
  · rw [State.modRd_ch]

theorem eqDataWrite_dram (v : Nat) : (eqDataWrite c v s).dram = s.dram := by
  simp only [eqDataWrite]
  split
  · rw [State.wrLegal_dram]
    rfl
  · rfl

theorem eqDataWrite_tap (v : Nat) (hauto : s.cb c F.XTC_EQ_SEL_AUTOINC = true) (h : s.cr c F.XTC_EQ_SEL_TAP < 24) :
    (eqDataWrite c v s).cr c F.XTC_EQ_SEL_TAP = s.cr c F.XTC_EQ_SEL_TAP + 1 := by
  have fits : (s.cr c F.XTC_EQ_SEL_TAP + 1) % 2 ^ F.XTC_EQ_SEL_TAP.width = s.cr c F.XTC_EQ_SEL_TAP + 1 :=
    Nat.mod_eq_of_lt (show _ < 2 ^ 5 by omega)
  have legal : F.XTC_EQ_SEL_TAP.legal.allows (s.cr c F.XTC_EQ_SEL_TAP + 1) = true := by
    simp only [F.XTC_EQ_SEL_TAP, Legal.allows, Bool.and_eq_true, decide_eq_true_eq]
    exact ⟨Nat.zero_le _, h⟩
  simp only [eqDataWrite, hauto, if_true, State.wrLegal, fits, legal]
  exact (State.cr_cw_self _ c _ _).trans fits

theorem eqDataWrite_kept (v : Nat) : FieldsKept s (eqDataWrite c v s) (FieldsOf (chRg c) [F.XTC_EQ_SEL_TAP]) := by
  have queued (f : ReadPath → ReadPath) : FieldsKept s (s.modRd c f) (FieldsOf (chRg c) [F.XTC_EQ_SEL_TAP]) := .of_regs (.refl s _) rfl
  simp only [eqDataWrite, State.wrLegal]
  split
  · split
    · exact (queued _).wr _ (Fld.placed_of_inPlace (by decide)) (by simp)
    · exact queued _
  · exact queued _

end Sys2Proof.Machine
end

section
/-! PROOF. A block of samples: what the loops of the lanes do with it, and what holds them (R60, R61, R65, R67, R70). -/

namespace Sys2Proof.Machine
open Sys2Proof

variable {s : State} {c : Fin 16}

/-! What holds a loop is not of the loops. -/

namespace LaneWork
variable {t : State}

theorem laneFrozen (h : LaneWork c loopFields s t) (l : Fin 8) : t.laneFrozen c l = s.laneFrozen c l := by
  have freeze : ∀ l : Fin 8, (F.HDR_BLK_CTL_FREEZE (0x20 + l)).outside loopFields = true := by decide
  have flags : (t.ch c).rd.flags = (s.ch c).rd.flags := congrArg (·.rd.flags) h.still
  have session : (t.ch c).wr.session = (s.ch c).wr.session := congrArg (·.wr.session) h.still
  simp only [State.laneFrozen, State.brm, flags, session, h.touches.cr (freeze l)]

theorem unlocked (h : LaneWork c loopFields s t) (l : Fin 8) : t.unlocked c l = s.unlocked c l := by
  simp only [State.unlocked, h.touches.cr (sync_outside_loopFields l)]

theorem asymFrozen (h : LaneWork c loopFields s t) (l : Fin 8) : t.asymFrozen c l = s.asymFrozen c l := by
  have enable : ∀ l : Fin 8, (F.BRC_ADAPT_CTL_EN_ASYM l).outside loopFields = true := by decide
  simp only [State.asymFrozen, h.laneFrozen, h.unlocked, h.touches.cr (enable l)]

theorem eqFrozen (h : LaneWork c loopFields s t) (l : Fin 8) : t.eqFrozen c l = s.eqFrozen c l := by
  have enable : ∀ l : Fin 8, (F.BRC_ADAPT_CTL_EN_EQ l).outside loopFields = true := by decide
  have freeze : (F.HDR_BLK_CTL_FREEZE 0x28).outside loopFields = true := by decide
  simp only [State.eqFrozen, h.laneFrozen, h.unlocked, h.touches.cr (enable l), ReadPath.altSet, h.clusters, h.touches.cr freeze]

end LaneWork

/-- The bounds of the asymmetry loop's value (Table 3-3). -/
def LaneLoops.AsymInRange (x : LaneLoops) : Prop := -(2 ^ 24) ≤ x.asym ∧ x.asym ≤ 127 * 2 ^ 17

/-- From `s` to `t` lanes went on: their offsets and gains stay, a frozen asymmetry within its bounds stays, and so do the tables
while every equaliser is frozen. -/
structure Advance (c : Fin 16) (s t : State) : Prop where
  work   : LaneWork c loopFields s t
  levels : ∀ l : Fin 8, (t.ch c).rd.loops[l].ofs = (s.ch c).rd.loops[l].ofs ∧ (t.ch c).rd.loops[l].gain = (s.ch c).rd.loops[l].gain
  asym   : ∀ l : Fin 8, s.asymFrozen c l = true → (s.ch c).rd.loops[l].AsymInRange →
    (t.ch c).rd.loops[l].asym = (s.ch c).rd.loops[l].asym
  taps   : (∀ l : Fin 8, s.eqFrozen c l = true) → t.tbl = s.tbl

namespace Advance
variable {r t : State}

theorem refl (c : Fin 16) (s : State) : Advance c s s := ⟨.refl c _ s, fun _ => ⟨rfl, rfl⟩, fun _ _ _ => rfl, fun _ => rfl⟩

theorem trans (h : Advance c r s) (k : Advance c s t) : Advance c r t where
  work := h.work.trans k.work
  levels l := ⟨(k.levels l).1.trans (h.levels l).1, (k.levels l).2.trans (h.levels l).2⟩
  asym l hf hr := by
    have same := h.asym l hf hr
    refine (k.asym l ((h.work.asymFrozen l).trans hf) ?_).trans same
    rwa [LaneLoops.AsymInRange, same]
  taps hf := (k.taps fun l => (h.work.eqFrozen l).trans (hf l)).trans (h.taps hf)

theorem ite {p : Prop} [Decidable p] (h : Advance c r s) (k : Advance c r t) : Advance c r (if p then s else t) := by
  split
  · exact h
  · exact k

theorem foldl {α : Type} {g : State → α → State} (hg : ∀ x a, Advance c x (g x a)) (xs : List α) (h : Advance c r s) :
    Advance c r (xs.foldl g s) := by
  induction xs generalizing s with
  | nil => exact h
  | cons a xs ih => exact ih (h.trans (hg s a))

theorem cw (h : Advance c r s) {f : Fld} (v : Nat) (hf : f.among loopFields = true) : Advance c r (s.cw c f v) :=
  h.trans ⟨(LaneWork.refl c _ s).cw v hf, fun _ => ⟨rfl, rfl⟩, fun _ _ _ => rfl, fun _ => rfl⟩

/-- A change of a lane's loops that keeps its offset and its gain, and its asymmetry where that is held. -/
theorem modLoops (h : Advance c r s) (l : Fin 8) {f : LaneLoops → LaneLoops} (hf : ∀ x, (f x).ofs = x.ofs ∧ (f x).gain = x.gain)
    (ha : s.asymFrozen c l = true → (s.ch c).rd.loops[l].AsymInRange → (f (s.ch c).rd.loops[l]).asym = (s.ch c).rd.loops[l].asym) :
    Advance c r (s.modLoops c l f) := by
  refine h.trans ⟨(LaneWork.refl c _ s).modLoops l f, fun m => ?_, fun m hz hr => ?_, fun _ => rfl⟩
  · rw [State.modLoops_loop]
    split
    · next e => exact e ▸ hf _
    · exact ⟨rfl, rfl⟩
  · rw [State.modLoops_loop]
    split
    · next e =>
      subst e
      exact ha hz hr
    · rfl

/-- A change of a lane's loops that reaches neither of the three. -/
theorem modOthers (h : Advance c r s) (l : Fin 8) {f : LaneLoops → LaneLoops}
    (hf : ∀ x, (f x).ofs = x.ofs ∧ (f x).gain = x.gain ∧ (f x).asym = x.asym := by exact fun _ => ⟨rfl, rfl, rfl⟩) :
    Advance c r (s.modLoops c l f) := h.modLoops l (fun x => ⟨(hf x).1, (hf x).2.1⟩) fun _ _ => (hf _).2.2

theorem showCorr (h : Advance c r s) (l : Fin 8) : Advance c r (s.showCorr c l) :=
  have among := laneLoopFields_among l
  ((h.cw _ (among _ (by simp [laneLoopFields]))).cw _ (among _ (by simp [laneLoopFields]))).cw _ (among _ (by simp [laneLoopFields]))

theorem resampleLane (h : Advance c r s) (l : Fin 8) (ys : List Int) : Advance c r (s.resampleLane c l ys) :=
  h.ite (h.modOthers l)

theorem timingBit (h : Advance c r s) (l : Fin 8) (z was : Int) : Advance c r (s.timingBit c l z was) := by
  unfold State.timingBit
  extract_lets e x f far at_ s1
  have h1 : Advance c r s1 := h.modOthers l
  exact h.ite ((h1.cw _ (laneLoopFields_among l _ (by simp [laneLoopFields]))).ite h1)

theorem equalise (h : Advance c r s) (l : Fin 8) : Advance c r (s.equalise c l) := by
  unfold State.equalise
  extract_lets x k upTo side
  split
  extract_lets n zs s1 s2
  have h1 : Advance c r s1 := h.modOthers l
  have h2 : Advance c r s2 := foldl (fun x _ => (refl c x).timingBit l _ _) _ h1
  exact h2.cw _ (laneLoopFields_among l _ (by simp [laneLoopFields]))

theorem detectLane (h : Advance c r s) (l : Fin 8) : Advance c r (s.detectLane c l) := by
  unfold State.detectLane
  exact h.modOthers l

/-- Coefficients are put while an equaliser is free. -/
theorem putCoefs (h : Advance c r s) {l : Fin 8} (hl : s.eqFrozen c l = false) (cs : List (Int × Nat)) :
    Advance c r (cs.foldl (fun s e => s.putCoef c l 0 e.2 (ofSigned 16 e.1)) s) := by
  have chans : (cs.foldl (fun s e => s.putCoef c l 0 e.2 (ofSigned 16 e.1)) s).chans = s.chans :=
    foldl_keeps State.chans (fun _ _ => State.putCoef_chans _ _ _ _) cs s
  refine h.trans ⟨.foldl (fun x _ _ => (LaneWork.refl c _ x).putCoef _ _ _ _) (.refl c _ s), fun m => ?_, fun m _ _ => ?_, fun hf => ?_⟩
  · simp only [State.ch, chans, and_self]
  · simp only [State.ch, chans]
  · exact absurd (hf l) (by simp [hl])

theorem adaptEq (h : Advance c r s) (l : Fin 8) (k n : Nat) : Advance c r (s.adaptEq c l k n) := by
  unfold State.adaptEq
  extract_lets x h_ as_ side own
  split
  extract_lets w s1
  have h1 : Advance c r s1 := h.modOthers l
  split
  · exact h1
  · next free =>
    refine h1.putCoefs ?_ _
    rw [((LaneWork.refl c loopFields s).modLoops l _).eqFrozen]
    simpa using free

theorem adaptAsym (h : Advance c r s) (l : Fin 8) : Advance c r (s.adaptAsym c l) := by
  simp only [State.adaptAsym]
  refine h.ite (h.modLoops l (fun _ => ⟨rfl, rfl⟩) fun hz hr => ?_)
  obtain ⟨hlo, hhi⟩ := hr
  simp only [hz, Bool.true_or, if_true, sub_zero]
  rw [clampInt, if_neg (by omega), if_neg (by omega)]

theorem advanceLane (h : Advance c r s) (l : Fin 8) : Advance c r (s.advanceLane c l) :=
  ((((h.equalise l).detectLane l).adaptEq l _ _).adaptAsym l).showCorr l

end Advance

end Sys2Proof.Machine
end

section
/-! PROOF. The offset and gain loops at the end of a block, and the lanes after it (R60, R61). -/

namespace Sys2Proof.Machine
open Sys2Proof

variable {s : State} {c : Fin 16} {l : Fin 8}

/-- A lane's offset after a block of corrected samples. -/
def State.nextOfs (s : State) (c : Fin 16) (l : Fin 8) (ys : List Int) (ofs : Int) : Int :=
  clampInt (-32 * 2 ^ 24) (127 * 2 ^ 22) (ofs + muStep (s.cr c (F.BRC_ADAPT_CTL_MU_OFS l)) (mean256 ys * 2 ^ 16))

/-- A lane's gain after a block of corrected samples. -/
def State.nextGain (s : State) (c : Fin 16) (l : Fin 8) (ys : List Int) (gain : Int) : Int :=
  clampInt 0 (65535 * 2 ^ 10) (gain - muStep (s.cr c (F.BRC_ADAPT_CTL_MU_GAIN l))
    ((mean256 (ys.map fun y => (y.natAbs : Int)) - 256 * (s.cr c (F.BRC_ADAPT_CTL_GAIN_TGT l) : Int)) * 2 ^ 16))

/-- The block's offset step. -/
def State.stepOfs (s : State) (c : Fin 16) (l : Fin 8) (ys : List Int) : State :=
  if s.laneLow c l || s.ofsFrozen c l then s else s.modLoops c l fun x => { x with ofs := s.nextOfs c l ys x.ofs }

theorem State.adaptBlockLoops_eq (ys : List Int) : s.adaptBlockLoops c l ys =
    if s.laneLow c l || s.gainFrozen c l then s.stepOfs c l ys
    else (s.stepOfs c l ys).modLoops c l fun x => { x with gain := s.nextGain c l ys x.gain } := rfl

theorem State.stepOfs_loop (ys : List Int) (m : Fin 8) : ((s.stepOfs c l ys).ch c).rd.loops[m] =
    { (s.ch c).rd.loops[m] with
      ofs := if m = l ∧ ¬ (s.laneLow c l = true ∨ s.ofsFrozen c l = true) then s.nextOfs c l ys (s.ch c).rd.loops[m].ofs
        else (s.ch c).rd.loops[m].ofs } := by
  unfold State.stepOfs
  by_cases held : s.laneLow c l = true ∨ s.ofsFrozen c l = true
  · simp [held]
  · rw [if_neg (by simpa using held), State.modLoops_loop]
    by_cases hm : m = l
    · subst hm
      simp [held]
    · simp [hm]

theorem State.adaptBlockLoops_loop (ys : List Int) (m : Fin 8) : ((s.adaptBlockLoops c l ys).ch c).rd.loops[m] =
    { (s.ch c).rd.loops[m] with
      ofs := if m = l ∧ ¬ (s.laneLow c l = true ∨ s.ofsFrozen c l = true) then s.nextOfs c l ys (s.ch c).rd.loops[m].ofs
        else (s.ch c).rd.loops[m].ofs
      gain := if m = l ∧ ¬ (s.laneLow c l = true ∨ s.gainFrozen c l = true) then s.nextGain c l ys (s.ch c).rd.loops[m].gain
        else (s.ch c).rd.loops[m].gain } := by
  rw [State.adaptBlockLoops_eq]
  by_cases held : s.laneLow c l = true ∨ s.gainFrozen c l = true
  · rw [if_pos (by simpa using held), State.stepOfs_loop]
    simp [held]
  · rw [if_neg (by simpa using held), State.modLoops_loop]
    by_cases hm : m = l
    · subst hm
      rw [if_pos rfl, State.stepOfs_loop]
      simp [held]
    · rw [if_neg hm, State.stepOfs_loop]
      simp [hm]

theorem State.adaptBlockLoops_work (ys : List Int) : LaneWork c loopFields s (s.adaptBlockLoops c l ys) := by
  have ofs : LaneWork c loopFields s (s.stepOfs c l ys) := (LaneWork.refl c _ s).ite ((LaneWork.refl c _ s).modLoops l _)
  exact ofs.ite (ofs.modLoops l _)

theorem State.adaptBlockLoops_tbl (ys : List Int) : (s.adaptBlockLoops c l ys).tbl = s.tbl := by
  rw [State.adaptBlockLoops_eq, State.stepOfs]
  split <;> split <;> rfl

/-- A lane's converter samples corrected by the values in force (R60). -/
def State.corrected (s : State) (c : Fin 16) (l : Fin 8) (samples : List (BitVec 7)) : List Int :=
  samples.map fun x => correct (toSigned 8 (s.cr c (F.BRC_CORR_CUR_OFS l))) (s.cr c (F.BRC_CORR_CUR_GAIN l))
    (toSigned 8 (s.cr c (F.BRC_CORR_CUR_ASYM l))) x.toInt

/-- Once the block's two loops have moved, the lanes go on. -/
theorem adaptBlock_advance (samples : List (BitVec 7)) :
    Advance c (s.adaptBlockLoops c l (s.corrected c l samples)) (adaptBlock c l samples s) :=
  Advance.foldl (fun x m => (Advance.refl c x).advanceLane m) _ (((Advance.refl c _).resampleLane l _).showCorr l)

end Sys2Proof.Machine
end

section
/-! PROOF. ADIP words, the wobble PLL, and Bramble's defect hold (R73, R82, R174). -/

namespace Sys2Proof.Machine
open Sys2Proof

variable {s : State} {c : Fin 16}

/-! ADIP words (R28, R73). -/

theorem ofMsb_lt (l : List Bool) : ofMsb l < 2 ^ l.length := by
  have bound : ∀ (l : List Bool) (a n : Nat), a < 2 ^ n → l.foldl (fun a b => 2 * a + b2n b) a < 2 ^ (n + l.length) := by
    intro l
    induction l with
    | nil => exact fun _ _ h => h
    | cons b l ih =>
      intro a n h
      have hb : b2n b ≤ 1 := by cases b <;> decide
      have := ih (2 * a + b2n b) (n + 1) (by rw [Nat.pow_succ]; omega)
      rwa [List.foldl_cons, List.length_cons, Nat.add_comm l.length, ← Nat.add_assoc]
  simpa [ofMsb] using bound l 0 0 (by decide)

theorem adipWordIn_lt {ps : List Bool} {w : Nat} (h : adipWordIn ps = some w) : w < 2 ^ 48 := by
  unfold adipWordIn at h
  split at h
  · cases h
    exact (ofMsb_lt _).trans_eq (by simp)
  · cases h

/-- The address of the frame pair that follows an address. -/
def nextPair (a : Nat) : Nat := (frameAddr a).next.next.bits

/-- Whether an address heard is the one predicted, or follows the last word heard (R73). -/
def ReadPath.adipFits (r : ReadPath) (a : Option Nat) : Prop :=
  a.isSome = true ∧ (r.adipPrev.map nextPair = a ∨ r.adipLast.map nextPair = a)

/-- A read path that has heard a word: the address it accepts next, the last address, and where the word ended in each lane. -/
def ReadPath.heard (r : ReadPath) (prev a : Option Nat) : ReadPath :=
  { r with
    adipPrev := prev, adipLast := a
    lanes := r.lanes.zipIdx.map fun e => match (List.finRange 8).find? (·.val == e.2) with
      | some l => { e.1 with adipPos := r.loops[l].end_ + r.loops[l].line.length }
      | none => e.1 }

theorem ReadPath.heard_lane {r : ReadPath} (prev a : Option Nat) {l : Fin 8} {y : Lane} (h : r.lanes[l.val]? = some y) :
    (r.heard prev a).lanes[l.val]? = some { y with adipPos := r.loops[l].base + r.loops[l].bits.length + r.loops[l].line.length } := by
  have found : ∀ l : Fin 8, (List.finRange 8).find? (·.val == l.val) = some l := by decide
  simp [ReadPath.heard, h, found, LaneLoops.end_]

/-- What the wobble periods spell. -/
def State.spelt (s : State) (c : Fin 16) (periods : List (List Int)) : Option Nat := adipWordIn (periods.map (s.wobblePeriod c))

/-- The address of a word whose CRC-12 passes. -/
def speltAddr (w : Option Nat) : Option Nat := (w.bind adipAddr).map (·.bits)

theorem adipWord_fits {periods : List (List Int)} (h : (s.ch c).rd.adipFits (speltAddr (s.spelt c periods))) :
    ∃ w, s.spelt c periods = some w ∧ adipWord c periods s =
      ((((s.modRd c fun r => r.heard (speltAddr (s.spelt c periods)) (speltAddr (s.spelt c periods))).cw c F.WOB_STS_ADIP_VALID 1).cw c
        F.WOB_STS_ADIP_FAILS 0).cw c F.WOB_ADIP_LO w).cw c F.WOB_ADIP_HI (w / 2 ^ 32) := by
  obtain ⟨hsome, hor⟩ := h
  cases hw : s.spelt c periods with
  | none => simp [speltAddr, hw] at hsome
  | some w =>
    obtain ⟨a, ha⟩ := Option.isSome_iff_exists.mp hsome
    rw [hw] at hor ha
    have hfits : ((s.ch c).rd.adipPrev.map nextPair == some a || (s.ch c).rd.adipLast.map nextPair == some a) = true := by
      simpa [ha] using hor
    refine ⟨w, rfl, ?_⟩
    simp only [State.spelt] at hw
    simp only [speltAddr] at ha ⊢
    unfold nextPair at hfits
    simp only [adipWord, hw, ha, hfits, if_true]
    rfl

theorem adipWord_fails {periods : List (List Int)} (h : ¬ (s.ch c).rd.adipFits (speltAddr (s.spelt c periods))) :
    adipWord c periods s =
      (s.modRd c fun r => r.heard ((s.ch c).rd.adipPrev.map nextPair) (speltAddr (s.spelt c periods))).incSat (chRg c)
        F.WOB_STS_ADIP_FAILS := by
  cases hw : s.spelt c periods with
  | none =>
    simp only [State.spelt] at hw
    simp only [adipWord, hw]
    rfl
  | some w =>
    rw [hw] at h
    cases ha : speltAddr (some w) with
    | none =>
      simp only [State.spelt] at hw
      simp only [speltAddr] at ha
      simp only [adipWord, hw, ha]
      rfl
    | some a =>
      have hfits : ((s.ch c).rd.adipPrev.map nextPair == some a || (s.ch c).rd.adipLast.map nextPair == some a) = false := by
        simpa [ReadPath.adipFits, ha] using h
      simp only [State.spelt] at hw
      simp only [speltAddr] at ha
      unfold nextPair at hfits
      simp only [adipWord, hw, ha, hfits]
      rfl

/-- The registers a word reaches. -/
def adipFields : List Fld := [F.WOB_STS_ADIP_VALID, F.WOB_STS_ADIP_FAILS, F.WOB_ADIP_LO, F.WOB_ADIP_HI]

theorem adipWord_touches (periods : List (List Int)) : TouchesOnly c adipFields s (adipWord c periods s) := by
  have heard (f : ReadPath → ReadPath) : TouchesOnly c adipFields s (s.modRd c f) := (TouchesOnly.refl c _ s).modCh _
  by_cases h : (s.ch c).rd.adipFits (speltAddr (s.spelt c periods))
  · obtain ⟨w, -, heq⟩ := adipWord_fits h
    rw [heq]
    exact ((((heard _).cw _ (by decide)).cw _ (by decide)).cw _ (by decide)).cw _ (by decide)
  · rw [adipWord_fails h]
    exact (heard _).cw _ (by decide)

/-- The read path after a word. -/
theorem adipWord_rd (periods : List (List Int)) : ∃ prev, ((adipWord c periods s).ch c).rd =
    (s.ch c).rd.heard prev (speltAddr (s.spelt c periods)) ∧
    ((s.ch c).rd.adipFits (speltAddr (s.spelt c periods)) → prev = speltAddr (s.spelt c periods)) ∧
    (¬ (s.ch c).rd.adipFits (speltAddr (s.spelt c periods)) → prev = (s.ch c).rd.adipPrev.map nextPair) := by
  by_cases h : (s.ch c).rd.adipFits (speltAddr (s.spelt c periods))
  · obtain ⟨w, -, heq⟩ := adipWord_fits h
    exact ⟨_, by simp only [heq, State.cw_ch, State.modRd_rd], fun _ => rfl, fun hn => absurd h hn⟩
  · exact ⟨_, by rw [adipWord_fails h, State.incSat_ch, State.modRd_rd], fun hf => absurd hf h, fun _ => rfl⟩

theorem adipWord_fits_shown {periods : List (List Int)} (h : (s.ch c).rd.adipFits (speltAddr (s.spelt c periods))) :
    (adipWord c periods s).cr c F.WOB_STS_ADIP_VALID = 1 ∧ (adipWord c periods s).cr c F.WOB_STS_ADIP_FAILS = 0 ∧
    s.spelt c periods = some ((adipWord c periods s).cr c F.WOB_ADIP_LO + 2 ^ 32 * (adipWord c periods s).cr c F.WOB_ADIP_HI) := by
  obtain ⟨w, hw, heq⟩ := adipWord_fits h
  have hlt := adipWordIn_lt hw
  rw [heq, hw]
  generalize s.modRd c _ = u
  refine ⟨?_, ?_, ?_⟩
  · exact (State.cr_cw_apart (g := F.WOB_STS_ADIP_VALID) _ _ (by decide)).trans ((State.cr_cw_apart _ _ (by decide)).trans
      ((State.cr_cw_apart _ _ (by decide)).trans (State.cr_cw_self _ c _ 1)))
  · exact (State.cr_cw_apart (g := F.WOB_STS_ADIP_FAILS) _ _ (by decide)).trans ((State.cr_cw_apart _ _ (by decide)).trans
      (State.cr_cw_self _ c _ 0))
  · have lo : ((((u.cw c F.WOB_STS_ADIP_VALID 1).cw c F.WOB_STS_ADIP_FAILS 0).cw c F.WOB_ADIP_LO w).cw c F.WOB_ADIP_HI (w / 2 ^ 32)).cr c
        F.WOB_ADIP_LO = w % 2 ^ 32 := (State.cr_cw_apart _ _ (by decide)).trans (State.cr_cw_self _ c F.WOB_ADIP_LO w)
    have hi : F.WOB_ADIP_HI.width = 16 := rfl
    rw [lo, State.cr_cw_self, hi, Option.some_inj]
    omega

theorem adipWord_fails_shown {periods : List (List Int)} (h : ¬ (s.ch c).rd.adipFits (speltAddr (s.spelt c periods))) :
    (adipWord c periods s).cr c F.WOB_STS_ADIP_FAILS = min (s.cr c F.WOB_STS_ADIP_FAILS + 1) 255 := by
  rw [adipWord_fails h]
  exact State.incSat_rd_self _ _ _ _

/-! The wobble PLL (R73). -/

theorem wobbleLock_held {hz : Nat} (h : s.cr c F.WOB_CTL_EN = 0 ∨ s.brm c (s.cr c F.WOB_CTL_REF_STRAND) = true) :
    wobbleLock c hz s = s := if_pos (by simpa using h)

theorem wobbleLock_free {hz : Nat} (h : ¬ (s.cr c F.WOB_CTL_EN = 0 ∨ s.brm c (s.cr c F.WOB_CTL_REF_STRAND) = true)) :
    wobbleLock c hz s = (s.cw c F.WOB_STS_PLL_LOCK 1).cw c F.WOB_FREQ hz := if_neg (by simpa using h)

theorem wobbleLock_shown {hz : Nat} (h : ¬ (s.cr c F.WOB_CTL_EN = 0 ∨ s.brm c (s.cr c F.WOB_CTL_REF_STRAND) = true)) :
    (wobbleLock c hz s).cr c F.WOB_STS_PLL_LOCK = 1 ∧ (wobbleLock c hz s).cr c F.WOB_FREQ = hz % 2 ^ 32 ∧
    OnlyFields s (wobbleLock c hz s) (FieldsOf (chRg c) [F.WOB_STS_PLL_LOCK, F.WOB_FREQ]) := by
  have kept := ((TouchesOnly.refl c [F.WOB_STS_PLL_LOCK, F.WOB_FREQ] s).cw (f := F.WOB_STS_PLL_LOCK) 1 (by decide)).cw
    (f := F.WOB_FREQ) hz (by decide)
  rw [wobbleLock_free h]
  exact ⟨(State.cr_cw_apart (g := F.WOB_STS_PLL_LOCK) _ _ (by decide)).trans (State.cr_cw_self _ c _ 1), State.cr_cw_self _ c _ hz,
    rfl, kept.fields⟩

/-! Bramble's flags and the defect hold (R82, R174). -/

theorem State.modServo_ch (f : Servo → Servo) : (s.modServo c f).ch c = { s.ch c with servo := f (s.ch c).servo } := s.ch_modCh_self c _

theorem State.modServo_servo (f : Servo → Servo) : ((s.modServo c f).ch c).servo = f (s.ch c).servo := by rw [State.modServo_ch]

theorem State.modServo_rd (f : Servo → Servo) : ((s.modServo c f).ch c).rd = (s.ch c).rd := by rw [State.modServo_ch]

theorem State.defectEnd_ch : (s.defectEnd c).ch c = { s.ch c with servo := { (s.ch c).servo with defect := none } } := by
  unfold State.defectEnd
  exact (foldl_keeps (fun x => x.ch c) (fun x q => x.cw_ch c _ _ c) _ _).trans (State.modServo_ch _)

/-- A slot the hold acts on shows it. -/
def State.holdSlot (s : State) (c : Fin 16) (q : Fin 7) : State :=
  if s.inDefect c q && s.cr c (F.SLT_STATE_DEFECT q) == 0 then
    (s.modSlt c q fun x => { x with hold := s.q21 c (F.SLT_OUT q) - x.ffOut, binOk := false }).wrs (chRg c)
      [(F.SLT_STATE_DEFECT q, 1), (F.SLT_GL_STS_COUNT q, 0)]
  else s

theorem State.defectEnter_eq : s.defectEnter c = (List.finRange 7).foldl (fun s q => s.holdSlot c q) s := rfl

theorem State.holdSlot_defect (q : Fin 7) : ((s.holdSlot c q).ch c).servo.defect = (s.ch c).servo.defect := by
  unfold State.holdSlot
  split
  · rw [State.wrs_ch, State.modSlt, State.modServo_servo]
  · rfl

theorem State.holdSlot_rd (q : Fin 7) : ((s.holdSlot c q).ch c).rd = (s.ch c).rd := by
  unfold State.holdSlot
  split
  · rw [State.wrs_ch, State.modSlt, State.modServo_rd]
  · rfl

theorem State.defectEnter_defect : ((s.defectEnter c).ch c).servo.defect = (s.ch c).servo.defect := by
  rw [State.defectEnter_eq]
  exact foldl_keeps (fun x => (x.ch c).servo.defect) (fun x q => x.holdSlot_defect q) _ s

theorem State.defectEnter_rd : ((s.defectEnter c).ch c).rd = (s.ch c).rd := by
  rw [State.defectEnter_eq]
  exact foldl_keeps (fun x => (x.ch c).rd) (fun x q => x.holdSlot_rd q) _ s

theorem State.defectUpdate_rd : ((s.defectUpdate c).ch c).rd = (s.ch c).rd := by
  simp only [State.defectUpdate]
  split
  · rw [State.modServo_rd, State.defectEnd_ch]
  · split
    · rfl
    · rw [State.defectEnter_rd, State.modServo_rd]

theorem State.defectUpdate_few (h : s.flagged c < s.cr c F.CLE_DEF_CTL_MIN_LANES) :
    ((s.defectUpdate c).ch c).servo.defect = none ∧ ((s.defectUpdate c).ch c).servo.defOver = false := by
  simp only [State.defectUpdate, if_pos h, State.modServo_servo, State.defectEnd_ch, and_self]

theorem State.defectUpdate_many (h : s.cr c F.CLE_DEF_CTL_MIN_LANES ≤ s.flagged c) (hd : (s.ch c).servo.defect = none)
    (ho : (s.ch c).servo.defOver = false) : ((s.defectUpdate c).ch c).servo.defect = some 0 := by
  simp only [State.defectUpdate, if_neg (Nat.not_lt.mpr h), hd, ho, Option.isSome_none, Bool.or_self]
  rw [if_neg (by decide), State.defectEnter_defect, State.modServo_servo]

theorem defLong_none (h : (s.ch c).servo.defect = none) : defLong c s = s := if_pos (by simp [h])

theorem State.defectEnd_shown {q : Nat} (h : q < 7) : (s.defectEnd c).cr c (F.SLT_STATE_DEFECT q) = 0 := by
  have apart : ∀ p < 7, ∀ q < 7, p ≠ q → (F.SLT_STATE_DEFECT p).apart (F.SLT_STATE_DEFECT q) = true := by decide
  unfold State.defectEnd
  exact State.cr_foldl_cw (fun p hp q hq => apart p (List.mem_range.mp hp) q (List.mem_range.mp hq)) (List.mem_range.mpr h)

theorem defLong_on (h : (s.ch c).servo.defect.isSome) : ((defLong c s).ch c).servo.defect = none ∧
    ((defLong c s).ch c).servo.defOver = true ∧ ∀ q, q < 7 → (defLong c s).cr c (F.SLT_STATE_DEFECT q) = 0 := by
  have on : ¬ (s.ch c).servo.defect.isNone = true := by simp [Option.isNone_iff_eq_none, Option.isSome_iff_ne_none.mp h]
  simp only [defLong, if_neg on, State.modServo_servo, State.defectEnd_ch, true_and]
  intro q hq
  exact (State.modCh_cr _ c _ c _).trans (State.defectEnd_shown hq)

end Sys2Proof.Machine
end

section
/-! PROOF. The decoder pool and the clusters being read: what a codeword that joins leaves, and what putting a cluster does (R86, R88). -/

namespace Sys2Proof.Machine
open Sys2Proof

variable {s t : State} {c : Fin 16}

/-! The pool (R86). -/

theorem nextJob_mem {q : List Job} {j : Job} (h : nextJob q = some j) : j ∈ q := by
  induction q generalizing j with
  | nil => cases h
  | cons k q ih =>
    simp only [nextJob] at h
    split at h
    · next m hm =>
      split at h <;> cases h
      · exact List.mem_cons_of_mem _ (ih hm)
      · exact List.mem_cons_self
    · cases h
      exact List.mem_cons_self

theorem any_set_none {α : Type} (p : α → Bool) (l : List (Option α)) {i : Nat} (a : α) (h : l[i]? = some none) :
    (l.set i (some a)).any (fun o => o.elim false p) = (p a || l.any fun o => o.elim false p) := by
  induction l generalizing i with
  | nil => simp at h
  | cons o l ih =>
    cases i with
    | zero =>
      obtain rfl : o = none := by simpa using h
      simp
    | succ i => simp [ih (by simpa using h), Bool.or_left_comm]

namespace ReadPath

/-- A core that takes a waiting codeword keeps what the pool holds. -/
theorem pending_take {r : ReadPath} {i : Nat} {j : Job} (hi : r.cores.findIdx? (·.isNone) = some i) (hj : nextJob r.queue = some j)
    (p : Job → Bool) : ({ r with cores := r.cores.set i (some j), queue := r.queue.erase j } : ReadPath).pending p = r.pending p := by
  obtain ⟨hlt, hnone, -⟩ := List.findIdx?_eq_some_iff_getElem.mp hi
  have free : r.cores[i]? = some none := by rw [List.getElem?_eq_getElem hlt, Option.isNone_iff_eq_none.mp hnone]
  have queue : r.queue.any p = (p j || (r.queue.erase j).any p) := (List.perm_cons_erase (nextJob_mem hj)).any_eq
  simp only [pending, any_set_none p r.cores j free, queue]
  cases p j <;> simp

theorem pending_feed (n : Nat) (r : ReadPath) (p : Job → Bool) : (feed n r).pending p = r.pending p := by
  induction n generalizing r with
  | zero => rfl
  | succ n ih =>
    unfold feed
    split
    · next hi hj => rw [ih, pending_take hi hj]
    · rfl

/-- Feeding the cores changes the cores and the queue only. -/
theorem feed_only (n : Nat) (r : ReadPath) : feed n r = { r with cores := (feed n r).cores, queue := (feed n r).queue } := by
  induction n generalizing r with
  | zero => rfl
  | succ n ih =>
    unfold feed
    split
    · rw [ih]
    · rfl

theorem enqueue_only (r : ReadPath) (j : Job) : r.enqueue j = { r with cores := (r.enqueue j).cores, queue := (r.enqueue j).queue } :=
  feed_only 8 _

theorem pending_enqueue (r : ReadPath) (j : Job) (p : Job → Bool) : (r.enqueue j).pending p = (r.pending p || p j) := by
  rw [enqueue, pending_feed]
  simp only [pending, List.any_append, List.any_cons, List.any_nil, Bool.or_assoc, Bool.or_comm (p j), Bool.false_or]

/-- Codewords that join change the cores and the queue only. -/
theorem foldl_enqueue_only {α : Type} {g : ReadPath → α → ReadPath}
    (hg : ∀ r a, g r a = { r with cores := (g r a).cores, queue := (g r a).queue }) (l : List α) (r : ReadPath) :
    l.foldl g r = { r with cores := (l.foldl g r).cores, queue := (l.foldl g r).queue } := by
  induction l generalizing r with
  | nil => rfl
  | cons a l ih => rw [List.foldl_cons, ih, hg]

/-- What joins the pool is in it. -/
theorem pending_foldl_enqueue {α : Type} (job : α → Job) (l : List α) (r : ReadPath) (p : Job → Bool) :
    (l.foldl (fun r a => r.enqueue (job a)) r).pending p = (r.pending p || l.any fun a => p (job a)) := by
  induction l generalizing r with
  | nil => simp
  | cons a l ih => rw [List.foldl_cons, ih, pending_enqueue, List.any_cons, Bool.or_assoc]

end ReadPath

/-! The clusters being read. -/

/-- The clusters a channel is reading, and whose ladder holds the pickup. -/
def State.ladders (s : State) (c : Fin 16) : List ClusterRead × Option Nat := ((s.ch c).rd.clusters, (s.ch c).rd.holder)

theorem State.clusters_of_ladders (h : t.ladders c = s.ladders c) : (t.ch c).rd.clusters = (s.ch c).rd.clusters := congrArg Prod.fst h

theorem State.ladders_of_ch (h : t.ch c = s.ch c) : t.ladders c = s.ladders c := by simp only [State.ladders, h]

theorem State.reading?_mem {pcn : Nat} {x : ClusterRead} (h : s.reading? c pcn = some x) : x ∈ (s.ch c).rd.clusters ∧ x.pcn = pcn :=
  ⟨List.mem_of_find?_eq_some h, by simpa using List.find?_some h⟩

theorem State.reading?_isSome {pcn : Nat} (h : ∃ y ∈ (s.ch c).rd.clusters, y.pcn = pcn) : ∃ x, s.reading? c pcn = some x := by
  obtain ⟨y, hy, hp⟩ := h
  exact Option.isSome_iff_exists.mp (List.find?_isSome.mpr ⟨y, hy, by simpa using hp⟩)

theorem State.putRead_rd (x : ClusterRead) : ((s.putRead c x).ch c).rd =
    { (s.ch c).rd with clusters := (s.ch c).rd.clusters.map fun y => if y.pcn == x.pcn then x else y } := State.modRd_rd _

theorem State.mem_putRead {x z : ClusterRead} (h : z ∈ ((s.putRead c x).ch c).rd.clusters) :
    z = x ∨ (z ∈ (s.ch c).rd.clusters ∧ z.pcn ≠ x.pcn) := by
  simp only [State.putRead_rd, List.mem_map] at h
  obtain ⟨y, hy, rfl⟩ := h
  by_cases hp : y.pcn = x.pcn
  · simp [hp]
  · simp [hp, hy]

/-- `x` is the cluster being read at its position, and the only one there. -/
structure State.Reads (s : State) (c : Fin 16) (x : ClusterRead) : Prop where
  mem  : x ∈ (s.ch c).rd.clusters
  only : ∀ y ∈ (s.ch c).rd.clusters, y.pcn = x.pcn → y = x

namespace State.Reads
variable {x y : ClusterRead}

theorem reading? (h : s.Reads c x) : s.reading? c x.pcn = some x := by
  obtain ⟨z, hz⟩ := State.reading?_isSome ⟨x, h.mem, rfl⟩
  obtain ⟨hm, hp⟩ := State.reading?_mem hz
  rw [hz, h.only z hm hp]

theorem of_clusters (h : s.Reads c x) (e : (t.ch c).rd.clusters = (s.ch c).rd.clusters) : t.Reads c x :=
  ⟨e ▸ h.mem, fun y hy => h.only y (e ▸ hy)⟩

theorem of_ladders (h : s.Reads c x) (e : t.ladders c = s.ladders c) : t.Reads c x := h.of_clusters (State.clusters_of_ladders e)

theorem putRead (h : ∃ y ∈ (s.ch c).rd.clusters, y.pcn = x.pcn) : (s.putRead c x).Reads c x := by
  refine ⟨?_, fun y hy hp => (State.mem_putRead hy).resolve_right fun hn => hn.2 hp⟩
  obtain ⟨y, hy, hp⟩ := h
  simp only [State.putRead_rd, List.mem_map]
  exact ⟨y, hy, by simp [hp]⟩

theorem putRead_other (h : s.Reads c x) (hne : y.pcn ≠ x.pcn) : (s.putRead c y).Reads c x := by
  refine ⟨?_, fun z hz hp => ?_⟩
  · simp only [State.putRead_rd, List.mem_map]
    exact ⟨x, h.mem, by simp [hne.symm]⟩
  · rcases State.mem_putRead hz with rfl | hz
    · exact absurd hp hne
    · exact h.only z hz.1 hp

end State.Reads

end Sys2Proof.Machine
end

section
/-! PROOF. Operations that leave the clusters being read and the pickup's holder as they are: sending data, completing commands, hunting
and moving the pickup (R75, R94, Table 3-8). -/

namespace Sys2Proof.Machine
open Sys2Proof

variable {s : State} {c : Fin 16}

theorem State.ladders_of_chans {t : State} (h : t.chans = s.chans) : t.ladders c = s.ladders c :=
  State.ladders_of_ch (by simp only [State.ch, h])

theorem State.ladders_of_media {t : State} (h : t.media = s.media) : t.ladders c = s.ladders c :=
  State.ladders_of_chans (congrArg Prod.fst h)

theorem LaneWork.ladders {fs : List Fld} {t : State} (h : LaneWork c fs s t) : t.ladders c = s.ladders c :=
  Prod.ext h.clusters (congrArg (·.rd.holder) h.still)

/-- A change of the read path that reaches neither the clusters nor the holder. -/
theorem State.modRd_ladders {f : ReadPath → ReadPath} (hc : (f (s.ch c).rd).clusters = (s.ch c).rd.clusters)
    (hh : (f (s.ch c).rd).holder = (s.ch c).rd.holder) : (s.modRd c f).ladders c = s.ladders c := by
  simp only [State.ladders, State.modRd_rd, hc, hh]

theorem State.ite_ladders {p : Prop} [Decidable p] {t u : State} (ht : t.ladders c = s.ladders c) (hu : u.ladders c = s.ladders c) :
    (if p then t else u).ladders c = s.ladders c := by
  split
  · exact ht
  · exact hu

/-! Completing a read (R302, R306, R352). -/

theorem State.dramPutList_chans (d : Fin 16) (a : Nat) (bs : List (Option Byte)) : (s.dramPutList d a bs).chans = s.chans := by
  induction bs generalizing s a with
  | nil => rfl
  | cons b bs ih =>
    cases b with
    | none => exact ih _
    | some b => exact (ih _).trans (s.dramPut_chans d a b)

theorem State.dramWrite_chans (d : Fin 16) (a : Nat) (bs : List (Option Byte)) : (s.dramWrite d a bs).chans = s.chans :=
  State.dramPutList_chans d a bs

theorem State.sendPiece_chans (x : CmdSlot) (a : Nat) (data : List Byte) : (s.sendPiece x a data).chans = s.chans := by
  unfold State.sendPiece
  split
  · split
    · rw [State.incSat_chans, State.dramWrite_chans]
    · rfl
  · exact foldl_keeps State.chans (fun y _ => foldl_keeps State.chans (fun z _ => z.post_chans _) _ y) _ s

theorem State.sendData_chans (x : CmdSlot) (ofs : Nat) (data : List Byte) : (s.sendData x ofs data).chans = s.chans := by
  have all : ∀ (l : List (Nat × Nat)) (p : State × List Byte),
      (l.foldl (fun (acc : State × List Byte) p => (acc.1.sendPiece x p.1 (acc.2.take p.2), acc.2.drop p.2)) p).1.chans = p.1.chans := by
    intro l
    induction l with
    | nil => exact fun _ => rfl
    | cons e l ih => exact fun p => (ih _).trans (State.sendPiece_chans _ _ _)
  exact all _ (s, data)

theorem State.finishRead_ladders (k : Nat) : (s.finishRead c k).ladders c = s.ladders c := by
  unfold State.finishRead
  split
  · rfl
  · next q _ =>
    extract_lets open_ denied lost s1 s2 s3 s4
    have h1 : s1.ladders c = s.ladders c := State.modRd_ladders rfl rfl
    have h2 : s2.ladders c = s.ladders c := State.ite_ladders ((State.ladders_of_chans (by simp)).trans h1) h1
    have h3 : s3.ladders c = s.ladders c :=
      State.ite_ladders ((State.ladders_of_media (State.modSmart_media _ _ _)).trans h2) h2
    have h4 : s4.ladders c = s.ladders c := by
      simp only [s4]
      split
      · exact (State.ladders_of_chans (State.sendData_chans _ _ _)).trans h3
      · exact h3
    exact State.ite_ladders rfl ((State.ladders_of_media (State.finish_media _ _ _ _ _)).trans h4)

/-! Lanes that hunt (R75). -/

theorem State.modLane_ladders (l : Nat) (f : Lane → Lane) : (s.modLane c l f).ladders c = s.ladders c := State.modRd_ladders rfl rfl

theorem State.huntLane_ladders (l : Fin 8) (a : FrameAddr) : (s.huntLane c l a).ladders c = s.ladders c := by
  unfold State.huntLane
  exact ((LaneWork.refl c _ _).zoneDue l).ladders.trans
    ((State.ladders_of_chans (State.cw_chans _ _ _ _)).trans
      ((State.modLane_ladders _ _).trans (State.ladders_of_chans (State.wrs_chans _ _ _))))

theorem State.hunt_ladders (pcn : Nat) : (s.hunt c pcn).ladders c = s.ladders c := by
  unfold State.hunt
  exact (State.ladders_of_chans (State.cirq_chans _ _ _ _)).trans
    (foldl_keeps (State.ladders · c) (fun x l => x.huntLane_ladders l _) _ s)

theorem State.rehunt_ladders : (s.rehunt c).ladders c = s.ladders c := by
  unfold State.rehunt
  exact (State.ladders_of_chans (State.cirq_chans _ _ _ _)).trans
    (foldl_keeps (State.ladders · c) (fun x l => x.huntLane_ladders l _) _ s)

/-! The pickup's offsets (Table 3-8). -/

theorem State.speedCmd_ladders (rpm : Nat) : (s.speedCmd c rpm).ladders c = s.ladders c :=
  State.ite_ladders rfl (State.rehunt_ladders.trans (State.ladders_of_chans rfl))

theorem State.fullSpeed_ladders : (s.fullSpeed c).ladders c = s.ladders c :=
  State.ite_ladders ((State.speedCmd_ladders _).trans (State.modRd_ladders rfl rfl)) rfl

theorem State.ladderRest_ladders : (s.ladderRest c).ladders c = s.ladders c := by
  have put (x : State) (f : Fld) (v : Option Nat) : (v.elim x (x.cw c f)).ladders c = x.ladders c := by cases v <;> rfl
  unfold State.ladderRest
  extract_lets r putF s1 s2
  have h1 : s1.ladders c = s.ladders c := (put _ _ _).trans ((put _ _ _).trans (put _ _ _))
  have h2 : s2.ladders c = s.ladders c :=
    (foldl_keeps (State.ladders · c) (fun x _ => State.ladders_of_chans (x.cw_chans c _ _)) _ s1).trans h1
  exact State.ite_ladders rfl (State.rehunt_ladders.trans ((State.modRd_ladders rfl rfl).trans h2))

theorem State.ladderMech_ladders (i left : Nat) (shift : Int) : (s.ladderMech c i left shift).ladders c = s.ladders c := by
  unfold State.ladderMech
  extract_lets s1 move m d s2
  have h1 : s1.ladders c = s.ladders c := State.ladderRest_ladders
  have h2 : s2.ladders c = s.ladders c := by
    refine State.ite_ladders ?_ (State.ite_ladders (State.ite_ladders ?_ ?_) (State.ite_ladders ?_ h1))
    all_goals exact (State.modRd_ladders rfl rfl).trans ((State.ladders_of_chans rfl).trans h1)
  exact State.ite_ladders ((State.speedCmd_ladders _).trans ((State.modRd_ladders rfl rfl).trans h2))
    (State.ite_ladders (State.fullSpeed_ladders.trans h2) h2)

/-- Without a step the pickup only leaves its offsets. -/
theorem State.ladderMech_zero (left : Nat) (shift : Int) : s.ladderMech c 0 left shift = s.ladderRest c := by
  simp [State.ladderMech]

theorem State.decodeStored_ladders (x : ClusterRead) : (s.decodeStored c x).ladders c = s.ladders c := by
  have only := ReadPath.foldl_enqueue_only (g := fun r p => if x.step ≤ 3 && (SMap.get x.frames p noFrame).ok then r
    else r.enqueue ⟨r.classAt x.pcn, x.pcn, p, .retry x.step⟩) (fun r p => by
      split
      · rfl
      · exact r.enqueue_only _) (x.store.map (·.1)) (s.ch c).rd
  have clusters := congrArg ReadPath.clusters only
  have holder := congrArg ReadPath.holder only
  unfold State.decodeStored
  exact State.modRd_ladders clusters holder

end Sys2Proof.Machine
end

section
/-! PROOF. The retry ladder: where a cluster goes at the end of a step, and what a settled cluster leaves (R90, R93, R94, R96). -/

namespace Sys2Proof.Machine
open Sys2Proof

variable {s t : State} {c : Fin 16} {x y : ClusterRead}

/-! The positions of the clusters being read. -/

/-- The positions of the clusters being read. -/
def State.pcns (s : State) (c : Fin 16) : List Nat := (s.ch c).rd.clusters.map (·.pcn)

theorem State.pcns_of_clusters (h : (t.ch c).rd.clusters = (s.ch c).rd.clusters) : t.pcns c = s.pcns c := by simp only [State.pcns, h]

theorem State.putRead_pcns (x : ClusterRead) : (s.putRead c x).pcns c = s.pcns c := by
  simp only [State.pcns, State.putRead_rd, List.map_map, List.map_inj_left, Function.comp_apply]
  intro y _
  by_cases hp : y.pcn = x.pcn
  · simp [hp]
  · simp [hp]

theorem State.ne_of_not_mem_pcns {pcn : Nat} (h : pcn ∉ s.pcns c) : ∀ z ∈ (s.ch c).rd.clusters, z.pcn ≠ pcn :=
  fun z hz e => h (List.mem_map.mpr ⟨z, hz, e⟩)

/-! Beginning reads and steps (R90, R91, R94). -/

theorem State.beginReads_ladders (x : ClusterRead) (reads : List Int) : (s.beginReads c x reads).ladders c =
    (((s.putRead c { x with reads := reads, seen := [] }).ch c).rd.clusters, some x.pcn) := by
  have taken : ((s.putRead c { x with reads := reads, seen := [] }).modRd c fun r => { r with holder := some x.pcn }).ladders c =
      (((s.putRead c { x with reads := reads, seen := [] }).ch c).rd.clusters, some x.pcn) := by
    simp only [State.ladders, State.modRd_rd]
  unfold State.beginReads
  extract_lets x1 s1
  split
  · exact (State.decodeStored_ladders x1).trans taken
  · exact (State.hunt_ladders _).trans ((State.ladderMech_ladders _ _ _).trans taken)

/-- The clusters at the start of a step: as they were, or with the step's reads to make. -/
theorem State.beginStep_clusters (x : ClusterRead) : ((s.beginStep c x).ch c).rd.clusters = (s.ch c).rd.clusters ∨
    ∃ reads, ((s.beginStep c x).ch c).rd.clusters = ((s.putRead c { x with reads := reads, seen := [] }).ch c).rd.clusters := by
  unfold State.beginStep
  split
  · exact .inl rfl
  · split
    · exact .inl (State.clusters_of_ladders (State.decodeStored_ladders x))
    · split
      · exact .inr ⟨_, congrArg Prod.fst (State.beginReads_ladders x _)⟩
      · exact .inl rfl

theorem State.beginStep_pcns (x : ClusterRead) : (s.beginStep c x).pcns c = s.pcns c := by
  rcases State.beginStep_clusters x with h | ⟨reads, h⟩
  · exact State.pcns_of_clusters h
  · exact (State.pcns_of_clusters h).trans (State.putRead_pcns _)

namespace State.Reads

theorem beginStep (h : s.Reads c x) :
    ∃ z, (s.beginStep c x).Reads c z ∧ z.pcn = x.pcn ∧ z.step = x.step ∧ z.expired = x.expired := by
  rcases State.beginStep_clusters x with hc | ⟨reads, hc⟩
  · exact ⟨x, h.of_clusters hc, rfl, rfl, rfl⟩
  · have put : (s.putRead c { x with reads := reads, seen := [] }).Reads c { x with reads := reads, seen := [] } :=
      State.Reads.putRead ⟨x, h.mem, rfl⟩
    exact ⟨_, put.of_clusters hc, rfl, rfl, rfl⟩

theorem beginStep_other (h : s.Reads c x) (hne : y.pcn ≠ x.pcn) : (s.beginStep c y).Reads c x := by
  rcases State.beginStep_clusters y with hc | ⟨reads, hc⟩
  · exact h.of_clusters hc
  · exact (h.putRead_other (y := { y with reads := reads, seen := [] }) hne).of_clusters hc

end State.Reads

/-! Releasing the pickup (R94). -/

/-- What follows the release: nothing, or the step of a ladder that waits for the pickup. -/
theorem State.releasePickup_cases : ∃ u : State, (u.ch c).rd.clusters = (s.ch c).rd.clusters ∧ (s.releasePickup c = u ∨
    ∃ y ∈ (u.ch c).rd.clusters, 4 ≤ y.step ∧ y.step ≤ 11 ∧ s.releasePickup c = u.beginStep c y) := by
  refine ⟨(s.ladderRest c).modRd c fun r => { r with holder := none }, ?_, ?_⟩
  · rw [State.modRd_rd]
    exact State.clusters_of_ladders State.ladderRest_ladders
  · unfold State.releasePickup
    dsimp only
    split
    · next y hy =>
      have hstep := List.find?_some hy
      simp only [Bool.and_eq_true, decide_eq_true_eq] at hstep
      exact .inr ⟨y, List.mem_of_find?_eq_some hy, hstep.1.1, hstep.1.2, rfl⟩
    · exact .inl rfl

theorem State.releasePickup_pcns : (s.releasePickup c).pcns c = s.pcns c := by
  obtain ⟨u, hu, h | ⟨y, -, -, -, h⟩⟩ := s.releasePickup_cases (c := c)
  · rw [h, State.pcns_of_clusters hu]
  · rw [h, State.beginStep_pcns, State.pcns_of_clusters hu]

theorem State.releaseFrom_pcns (pcn : Nat) : (s.releaseFrom c pcn).pcns c = s.pcns c := by
  unfold State.releaseFrom
  split
  · exact State.releasePickup_pcns
  · rfl

/-- A cluster outside the steps that hold the pickup stays when another ladder takes it. -/
theorem State.Reads.releaseFrom (h : s.Reads c x) (hstep : ¬ (4 ≤ x.step ∧ x.step ≤ 11)) (pcn : Nat) :
    (s.releaseFrom c pcn).Reads c x := by
  unfold State.releaseFrom
  split
  · obtain ⟨u, hu, he | ⟨y, hy, hlo, hhi, he⟩⟩ := s.releasePickup_cases (c := c)
    · exact he ▸ h.of_clusters hu
    · rw [he]
      exact (h.of_clusters hu).beginStep_other fun e => hstep ((h.of_clusters hu).only y hy e ▸ ⟨hlo, hhi⟩)
  · exact h

/-! The next step (R90, R93). -/

theorem State.toStep_of_next {n i : Nat} (hn : (s.ch c).rd.needs x.pcn = true) (hx : x.pcn ∈ s.pcns c)
    (hi : s.nextStep c x n = some i) :
    ∃ z, (s.toStep c x n).reading? c x.pcn = some z ∧ z.step = i ∧ z.expired = x.expired := by
  obtain ⟨w, hw, hp⟩ := List.mem_map.mp hx
  have put : (s.putRead c { x with step := i, seen := [], reads := [], repeated := false, broken := none }).Reads c
      { x with step := i, seen := [], reads := [], repeated := false, broken := none } := State.Reads.putRead ⟨w, hw, hp⟩
  replace put := put.of_clusters (congrArg (·.rd.clusters) (State.cw_ch _ c F.RTY_PCN x.pcn c))
  unfold State.toStep
  rw [if_neg (by simp [hn]), hi]
  dsimp only
  split
  · next early =>
    simp only [Bool.or_eq_true, decide_eq_true_eq] at early
    obtain ⟨z, hz, hpcn, hstep, hexp⟩ := (put.releaseFrom (by dsimp only; omega) x.pcn).beginStep
    exact ⟨z, hpcn ▸ hz.reading?, hstep, hexp⟩
  · obtain ⟨z, hz, hpcn, hstep, hexp⟩ := put.beginStep
    exact ⟨z, hpcn ▸ hz.reading?, hstep, hexp⟩

theorem State.toStep_of_none {n : Nat} (hn : (s.ch c).rd.needs x.pcn = true) (hi : s.nextStep c x n = none) :
    s.toStep c x n = s.clusterLost c x := by
  unfold State.toStep
  rw [if_neg (by simp [hn]), hi]

/-- After step 11 only step 12 follows, where it is enabled (R93, R95). -/
theorem State.nextStep_last (h : bitAt (s.cr c F.RTY_CTL_STEP_EN) 11 = true) : s.nextStep c x 11 = some 12 := by
  have last : (List.range 13).filter (fun i => 11 < i) = [12] := by decide
  unfold State.nextStep
  dsimp only
  rw [last]
  simp [h]

/-! A cluster that is settled (R88, R94, R96). -/

theorem State.trimOps_clusters {z : ClusterRead} (h : z ∈ ((s.trimOps c).ch c).rd.clusters) : z ∈ (s.ch c).rd.clusters := by
  simp only [State.trimOps, State.modRd_rd] at h
  exact List.mem_of_mem_filter h

theorem State.closeRead_gone (pcn : Nat) : pcn ∉ (s.closeRead c pcn).pcns c := by
  intro h
  obtain ⟨z, hz, hp⟩ := List.mem_map.mp h
  unfold State.closeRead at hz
  extract_lets s1 s2 at hz
  have h2 : s2.ladders c = s1.ladders c := foldl_keeps (State.ladders · c) (fun y k => y.finishRead_ladders k) _ s1
  have h1 := State.clusters_of_ladders h2 ▸ State.trimOps_clusters hz
  simp only [s1, State.modRd_rd, List.mem_filter, bne_iff_ne] at h1
  exact h1.2 hp

theorem State.resolved_gone (x : ClusterRead) (o : Outer) (d : Desc) :
    ∀ z ∈ ((s.resolved c x o d).ch c).rd.clusters, z.pcn ≠ x.pcn := by
  refine State.ne_of_not_mem_pcns ?_
  rw [State.resolved, State.releaseFrom_pcns]
  exact State.closeRead_gone _

theorem State.clusterLost_gone (x : ClusterRead) : ∀ z ∈ ((s.clusterLost c x).ch c).rd.clusters, z.pcn ≠ x.pcn := by
  refine State.ne_of_not_mem_pcns ?_
  rw [State.clusterLost, State.releaseFrom_pcns]
  exact State.closeRead_gone _

/-! The commands of the ladder. -/

theorem State.tryDecode_ch (x : ClusterRead) : (s.tryDecode c x).2.ch c = s.ch c := by
  unfold State.tryDecode
  dsimp only
  split
  · split
    · exact State.wrs_ch _ _ _ _
    · exact State.wrs_ch _ _ _ _
  · exact State.wrs_ch _ _ _ _

theorem State.keepSet_pcn (x : ClusterRead) : (s.keepSet c x).pcn = x.pcn := by
  unfold State.keepSet
  dsimp only
  split <;> rfl

/-- A cluster as its running step leaves it: step 3 keeps the better set. -/
def State.stepLeaves (s : State) (c : Fin 16) (x : ClusterRead) : ClusterRead := if x.step = 3 then s.keepSet c x else x

theorem State.stepLeaves_eq (x : ClusterRead) : (if x.step = 3 then s.keepSet c x else x) = s.stepLeaves c x := rfl

theorem State.stepLeaves_pcn (x : ClusterRead) : (s.stepLeaves c x).pcn = x.pcn := by
  unfold State.stepLeaves
  split
  · exact State.keepSet_pcn x
  · rfl

theorem retryStep_open {pcn : Nat} (hx : (s.ch c).rd.clusters.find? (fun x => x.pcn == pcn && x.step != 0) = some x)
    (h : s.stepOpen c x = true) : retryStep c pcn s = s := by
  simp only [retryStep, hx, h, if_true]

/-- A step that is over decodes the cluster as it stands. -/
theorem retryStep_over {pcn : Nat} (hx : (s.ch c).rd.clusters.find? (fun x => x.pcn == pcn && x.step != 0) = some x)
    (h : s.stepOpen c x = false) (hn : (s.ch c).rd.needs pcn = true) (h12 : x.step ≠ 12) {o : Option (Outer × Desc)} {v : State}
    (hd : (s.putRead c (s.stepLeaves c x)).tryDecode c (s.stepLeaves c x) = (o, v)) :
    retryStep c pcn s = match o with
      | some (f, d) => v.resolved c (s.stepLeaves c x) f d
      | none => v.toStep c (s.stepLeaves c x) x.step := by
  simp only [State.stepLeaves] at hd ⊢
  simp only [retryStep, hx, h, hn, h12, hd, Bool.not_true, Bool.false_eq_true, if_false]
  cases o <;> rfl

end Sys2Proof.Machine
end

section
/-! PROOF. The capture read and the decoder cores (R75, R84 to R86, R91). -/

namespace Sys2Proof.Machine
open Sys2Proof

variable {s t : State} {c : Fin 16} {x : ClusterRead}

/-! The lanes hunt (R75). -/

/-- The registers that taking the pickup and hunting reach. -/
def pickupFields : List Fld :=
  [F.SLT_TGT 1, F.SLT_TGT 0, F.SLT_MANUAL 5, F.HDR_IRQ_RAW 0x29] ++
    (List.range 8).flatMap (fun l => [F.BRC_LANE_STS_SYNC l, F.BRC_LANE_STS_FLYCNT l, F.BRC_LANE_STS_STRAND l]) ++ loopFields

theorem laneSts_among_pickupFields : ∀ l : Fin 8, (F.BRC_LANE_STS_SYNC l).among pickupFields = true ∧
    (F.BRC_LANE_STS_FLYCNT l).among pickupFields = true ∧ (F.BRC_LANE_STS_STRAND l).among pickupFields = true := by decide

namespace TouchesOnly
variable {r : State}

theorem modRd {fs : List Fld} (h : TouchesOnly c fs r s) (f : ReadPath → ReadPath) : TouchesOnly c fs r (s.modRd c f) := h.modCh _

theorem putRead {fs : List Fld} (h : TouchesOnly c fs r s) (x : ClusterRead) : TouchesOnly c fs r (s.putRead c x) := h.modRd _

/-- A fold whose steps reach the list's registers at each element met. -/
theorem foldl_mem {α : Type} {fs : List Fld} {g : State → α → State} {xs : List α}
    (hg : ∀ y, ∀ a ∈ xs, TouchesOnly c fs y (g y a)) (h : TouchesOnly c fs r s) : TouchesOnly c fs r (xs.foldl g s) := by
  induction xs generalizing s with
  | nil => exact h
  | cons a xs ih => exact ih (fun y b hb => hg y b (List.mem_cons_of_mem _ hb)) (h.trans (hg s a List.mem_cons_self))

theorem huntLane (h : TouchesOnly c pickupFields r s) (l : Fin 8) (a : FrameAddr) :
    TouchesOnly c pickupFields r (s.huntLane c l a) := by
  obtain ⟨sync, flycnt, strand⟩ := laneSts_among_pickupFields l
  unfold State.huntLane
  exact ((((h.cw _ sync).cw _ flycnt).modCh _).cw _ strand).trans
    (((LaneWork.refl c loopFields _).zoneDue l).touches.mono (List.subset_append_right _ _))

theorem hunt (h : TouchesOnly c pickupFields r s) (pcn : Nat) : TouchesOnly c pickupFields r (s.hunt c pcn) := by
  unfold State.hunt
  exact (foldl (fun y l => (refl c _ y).huntLane l _) _ h).cirq 0 (by decide)

theorem rehunt (h : TouchesOnly c pickupFields r s) : TouchesOnly c pickupFields r (s.rehunt c) := by
  unfold State.rehunt
  exact (foldl (fun y l => (refl c _ y).huntLane l _) _ h).cirq 0 (by decide)

theorem put (h : TouchesOnly c pickupFields r s) {f : Fld} (hf : f.among pickupFields = true) (v : Option Nat) :
    TouchesOnly c pickupFields r (v.elim s (s.cw c f)) := by
  cases v with
  | none => exact h
  | some v => exact h.cw v hf

theorem ladderRest (h : TouchesOnly c pickupFields r s) : TouchesOnly c pickupFields r (s.ladderRest c) := by
  have strand : ∀ l ∈ List.range 8, (F.BRC_LANE_STS_STRAND l).among pickupFields = true := by decide
  unfold State.ladderRest
  extract_lets rp putF s1 s2
  have h1 : TouchesOnly c pickupFields r s1 := ((h.put (by decide) _).put (by decide) _).put (by decide) _
  have h2 : TouchesOnly c pickupFields r s2 :=
    foldl_mem (fun y l hl => (refl c _ y).cw _ (strand l hl)) h1
  exact h.ite ((h2.modCh _).rehunt)

end TouchesOnly

/-- A lane that enters HUNT shows it, and the other lanes' state stays. -/
theorem State.huntLane_sync (l m : Fin 8) (a : FrameAddr) : (s.huntLane c l a).cr c (F.BRC_LANE_STS_SYNC m) =
    if m = l then 0 else s.cr c (F.BRC_LANE_STS_SYNC m) := by
  have same : ∀ l m : Fin 8, (F.BRC_LANE_STS_STRAND l).apart (F.BRC_LANE_STS_SYNC m) = true ∧
      (F.BRC_LANE_STS_FLYCNT l).apart (F.BRC_LANE_STS_SYNC m) = true ∧
      (m ≠ l → (F.BRC_LANE_STS_SYNC l).apart (F.BRC_LANE_STS_SYNC m) = true) := by decide
  obtain ⟨strand, flycnt, sync⟩ := same l m
  unfold State.huntLane
  dsimp only
  rw [((LaneWork.refl c loopFields _).zoneDue l).touches.cr (sync_outside_loopFields m), State.cr_cw_apart _ _ strand]
  refine (State.cr_cw_apart ((s.cw c (F.BRC_LANE_STS_SYNC l) 0)) 0 flycnt).trans ?_
  split
  · next e => exact e ▸ State.cr_cw_self _ c _ 0
  · next e => exact State.cr_cw_apart _ _ (sync e)

theorem State.hunt_sync (pcn : Nat) (m : Fin 8) : (s.hunt c pcn).cr c (F.BRC_LANE_STS_SYNC m) = 0 := by
  have all : ∀ (f : State → Fin 8 → FrameAddr) (ls : List (Fin 8)) (s : State),
      (ls.foldl (fun s l => s.huntLane c l (f s l)) s).cr c (F.BRC_LANE_STS_SYNC m) =
        if m ∈ ls then 0 else s.cr c (F.BRC_LANE_STS_SYNC m) := by
    intro f ls
    induction ls with
    | nil => exact fun s => by simp
    | cons l ls ih =>
      intro s
      rw [List.foldl_cons, ih, State.huntLane_sync]
      by_cases hm : m = l <;> simp [hm]
  have apart : ∀ m : Fin 8, (F.HDR_IRQ_RAW 0x29).apart (F.BRC_LANE_STS_SYNC m) = true := by decide
  unfold State.hunt
  exact (State.cirq_cr_apart _ (apart m)).trans ((all _ _ s).trans (if_pos (List.mem_finRange m)))

/-! The capture read (R91). -/

theorem State.beginReads_capture (h : x.captured = false) : s.beginReads c x [0] =
    (((s.putRead c { x with reads := [0], seen := [] }).modRd c fun r => { r with holder := some x.pcn }).ladderRest c).hunt c x.pcn := by
  simp only [State.beginReads, h, Bool.false_eq_true, if_false, State.ladderMech_zero]

theorem captureRead_waits {pcn : Nat} (hx : (s.ch c).rd.clusters.find?
      (fun x => x.pcn == pcn && x.step != 0 && !x.captured && x.reads.isEmpty) = some x)
    (h : 160 < (s.ch c).rd.storeUsed + x.rows.length ∨ (s.ch c).rd.limitedAt pcn = true ∨ (s.ch c).rd.holder.isSome = true ∨ x.step = 12) :
    captureRead c pcn s = s := by
  simp only [captureRead, hx]
  exact if_pos (by simpa [or_assoc] using h)

theorem captureRead_free {pcn : Nat} (hx : (s.ch c).rd.clusters.find?
      (fun x => x.pcn == pcn && x.step != 0 && !x.captured && x.reads.isEmpty) = some x)
    (h : ¬ (160 < (s.ch c).rd.storeUsed + x.rows.length ∨ (s.ch c).rd.limitedAt pcn = true ∨ (s.ch c).rd.holder.isSome = true ∨
      x.step = 12)) : captureRead c pcn s = s.beginReads c x [0] := by
  simp only [captureRead, hx]
  exact if_neg (by simpa [or_assoc] using h)

/-- What the capture read leaves: the pickup taken, the read to make, every lane hunting. -/
theorem State.beginReads_captured (hm : x ∈ (s.ch c).rd.clusters) (h : x.captured = false) :
    ((s.beginReads c x [0]).ch c).rd.holder = some x.pcn ∧
    (s.beginReads c x [0]).reading? c x.pcn = some { x with reads := [0], seen := [] } ∧
    (∀ l : Fin 8, (s.beginReads c x [0]).cr c (F.BRC_LANE_STS_SYNC l) = 0) ∧
    TouchesOnly c pickupFields s (s.beginReads c x [0]) := by
  have ladders := State.beginReads_ladders (s := s) (c := c) x [0]
  have put : (s.putRead c { x with reads := [0], seen := [] }).Reads c { x with reads := [0], seen := [] } :=
    State.Reads.putRead ⟨x, hm, rfl⟩
  refine ⟨congrArg Prod.snd ladders, (put.of_clusters (congrArg Prod.fst ladders)).reading?, fun l => ?_, ?_⟩
  · rw [State.beginReads_capture h]
    exact State.hunt_sync _ l
  · rw [State.beginReads_capture h]
    exact (((TouchesOnly.refl c _ s).putRead _).modRd _).ladderRest.hunt _

/-! A core finishes a frame of the first pass (R84, R85, R88). -/

theorem find?_and_of_some {α : Type} {p q : α → Bool} {l : List α} {a : α} (h : l.find? p = some a) (hq : q a = true) :
    l.find? (fun b => p b && q b) = some a := by
  rw [List.find?_eq_some_iff_append] at h ⊢
  obtain ⟨hp, as, bs, rfl, hn⟩ := h
  exact ⟨by simp [hp, hq], as, bs, rfl, fun b hb => by simp [by simpa using hn b hb]⟩

/-- A cluster whose frames are not all there and decided stays on its first pass. -/
theorem State.checkFirst_open {pcn : Nat} (h : ∀ y, s.reading? c pcn = some y → y.step = 0 ∧
    ¬ (y.frames.length = 80 ∧ y.frames.all (·.2.decided) = true)) : s.checkFirst c pcn = s := by
  cases hr : s.reading? c pcn with
  | none =>
    have absent : (s.ch c).rd.clusters.find? (fun x => x.pcn == pcn && x.step == 0) = none := by
      simp only [State.reading?, List.find?_eq_none] at hr ⊢
      exact fun y hy => by simp [by simpa using hr y hy]
    simp only [State.checkFirst, absent]
  | some y =>
    obtain ⟨hstep, hn⟩ := h y hr
    have found : (s.ch c).rd.clusters.find? (fun x => x.pcn == pcn && x.step == 0) = some y :=
      find?_and_of_some hr (by simp [hstep])
    simp only [State.checkFirst, found]
    exact if_neg (by simpa using hn)

/-- A cluster with no read to make has none that is over. -/
theorem State.checkRead_none {pcn : Nat} (h : ∀ y, s.reading? c pcn = some y → y.reads = []) : s.checkRead c pcn = s := by
  unfold State.checkRead
  split
  · next y hy => simp [h y hy]
  · rfl

theorem SMap.length_insert_le {α : Type} (m : SMap α) (k : Nat) (v : α) : (SMap.insert m k v).length ≤ m.length + 1 := by
  induction m with
  | nil => exact Nat.le_refl _
  | cons e m ih =>
    simp only [SMap.insert]
    split
    · exact Nat.le_refl _
    · split
      · exact Nat.le_succ _
      · simpa using ih

theorem SMap.mem_of_find? {α : Type} {m : SMap α} {k : Nat} {f : α} (h : SMap.find? m k = some f) : (k, f) ∈ m := by
  induction m with
  | nil => cases h
  | cons e m ih =>
    obtain ⟨k', w⟩ := e
    simp only [SMap.find?] at h
    split at h
    · next e =>
      cases h
      exact e ▸ List.mem_cons_self
    · exact List.mem_cons_of_mem _ (ih h)

/-- A key that is there is replaced, or its entry stays behind the new one. -/
theorem SMap.insert_present {α : Type} {m : SMap α} {k : Nat} {f : α} (v : α) (h : SMap.find? m k = some f) :
    (SMap.insert m k v).length = m.length ∨ (k, f) ∈ SMap.insert m k v := by
  induction m with
  | nil => cases h
  | cons e m ih =>
    obtain ⟨k', w⟩ := e
    simp only [SMap.find?] at h
    simp only [SMap.insert]
    split
    · next hlt =>
      rw [if_neg (by omega)] at h
      exact .inr (List.mem_cons_of_mem _ (List.mem_cons_of_mem _ (SMap.mem_of_find? h)))
    · split
      · exact .inl rfl
      · next hne =>
        rw [if_neg hne] at h
        exact (ih h).imp (congrArg (· + 1)) (List.mem_cons_of_mem _)

theorem chRg_ne_zero (c : Fin 16) : chRg c ≠ 0 := Nat.succ_ne_zero _

theorem State.sample_touches (src : Nat) (v : Int) : TouchesOnly c [F.HDR_IRQ_RAW 0x58] s (s.sample (chRg c) src v) := by
  have put {u : State} (h : TouchesOnly c [F.HDR_IRQ_RAW 0x58] s u) (i w : Nat) :
      TouchesOnly c [F.HDR_IRQ_RAW 0x58] s (u.tput .hist (chRg c) i w) := h.of_eqs rfl rfl rfl
  unfold State.sample
  extract_lets g b n s1 s2 fresh s3 s4
  have h1 : TouchesOnly c [F.HDR_IRQ_RAW 0x58] s s1 := put (.refl c _ s) _ _
  have h2 : TouchesOnly c [F.HDR_IRQ_RAW 0x58] s s2 := by
    simp only [s2, if_neg (chRg_ne_zero c)]
    exact ((put h1 _ _).cirq 1 (by decide)).ite h1
  have h3 : TouchesOnly c [F.HDR_IRQ_RAW 0x58] s s3 := (put (put h2 _ _) _ _).ite h2
  have h4 : TouchesOnly c [F.HDR_IRQ_RAW 0x58] s s4 := (put (put h3 _ _) _ _).ite h3
  exact (TouchesOnly.refl c _ s).ite (put h4 _ _)

theorem State.sample_chans (rg src : Nat) (v : Int) : (s.sample rg src v).chans = s.chans := by
  unfold State.sample
  extract_lets g b n s1 s2 fresh s3 s4
  have h2 : s2.chans = s.chans := by
    simp only [s2]
    split
    · rw [State.irq_chans]
      rfl
    · rfl
  have h3 : s3.chans = s.chans := by
    simp only [s3]
    split <;> exact h2
  have h4 : s4.chans = s.chans := by
    simp only [s4]
    split <;> exact h3
  split
  · rfl
  · exact h4

/-- The state after a core's frame: the frame decided in its cluster, the iterations counted. -/
def State.frameDecided (s : State) (c : Fin 16) (x : ClusterRead) (p : Nat) (f : FrameRes) (d : Decoded) : State :=
  (s.putRead c { x with frames := SMap.insert x.frames p (decodeBits f d) }).sample (chRg c) 0x10 d.iters

theorem State.frameDecided_reading? {p : Nat} {f : FrameRes} (d : Decoded) {pcn : Nat} (hx : s.reading? c pcn = some x) :
    (s.frameDecided c x p f d).reading? c pcn = some { x with frames := SMap.insert x.frames p (decodeBits f d) } := by
  obtain ⟨hm, rfl⟩ := State.reading?_mem hx
  have put : (s.putRead c { x with frames := SMap.insert x.frames p (decodeBits f d) }).Reads c
      { x with frames := SMap.insert x.frames p (decodeBits f d) } := State.Reads.putRead ⟨x, hm, rfl⟩
  exact (put.of_ladders (State.ladders_of_chans (State.sample_chans _ _ _))).reading?

theorem State.frameDecided_touches (p : Nat) (f : FrameRes) (d : Decoded) :
    TouchesOnly c [F.HDR_IRQ_RAW 0x58] s (s.frameDecided c x p f d) :=
  ((TouchesOnly.refl c _ s).putRead _).trans (State.sample_touches _ _)

/-- A frame of the first pass that is decided ends the pass only once every frame is there. -/
theorem State.finishJob_first {j : Job} {f : FrameRes} (hk : j.kind = .first) (hx : s.reading? c j.pcn = some x)
    (hf : SMap.find? x.frames j.p = some f) (hd : f.decided = false) (hs : x.step = 0) (hn : x.frames.length < 80) :
    s.finishJob c j = s.frameDecided c x j.p f
      (ldpcRun (s.cr c F.DEC_CTL_NORM) (s.cr c F.DEC_CTL_ITER_NORM) (s.cb c F.DEC_CTL_EARLY_STOP) f.llr) := by
  have first : (x.step != 0) = false := by simp [hs]
  simp only [State.finishJob, hk, hx, hf, hd, first, Bool.or_self, Bool.false_eq_true, if_false]
  refine State.checkFirst_open fun y hy => ?_
  obtain rfl := Option.some_inj.mp ((State.frameDecided_reading? _ hx).symm.trans hy)
  refine ⟨hs, fun ⟨hlen, hall⟩ => ?_⟩
  rcases SMap.insert_present _ hf with h | h
  · exact absurd (h.symm.trans hlen) (by omega)
  · have := List.all_eq_true.mp hall _ h
    simp [hd] at this

theorem ldpcDecode_idle {core : Fin 8} (h : (s.ch c).rd.cores.getD core none = none) : ldpcDecode c core s = s := by
  simp only [ldpcDecode, h]

/-- A core is free again, and takes what waits. -/
def State.freeCore (s : State) (c : Fin 16) (core : Fin 8) : State :=
  s.modRd c fun r => ReadPath.feed 8 { r with cores := r.cores.set core none }

theorem ldpcDecode_job {core : Fin 8} {j : Job} (h : (s.ch c).rd.cores.getD core none = some j) :
    ldpcDecode c core s = (s.freeCore c core).finishJob c j := by
  simp only [ldpcDecode, h]
  rfl

theorem State.freeCore_ladders (core : Fin 8) : (s.freeCore c core).ladders c = s.ladders c := by
  have only := ReadPath.feed_only 8 { (s.ch c).rd with cores := (s.ch c).rd.cores.set core none }
  have clusters := congrArg ReadPath.clusters only
  have holder := congrArg ReadPath.holder only
  exact State.modRd_ladders clusters holder

end Sys2Proof.Machine
end

section
/-! PROOF. A lane's frame: what its record, its registers and its lane hold at the end, and what follows in the cluster (R74 to R77, R86,
R88, Table 3-6). -/

namespace Sys2Proof.Machine
open Sys2Proof

variable {s t : State} {c : Fin 16} {l : Fin 8}

theorem State.reading?_of_clusters (h : (t.ch c).rd.clusters = (s.ch c).rd.clusters) (pcn : Nat) :
    t.reading? c pcn = s.reading? c pcn := by
  simp only [State.reading?, h]

/-! The parts of a processed frame. -/

/-- The record of a processed frame (Table 3-9). -/
def State.frameResult (s : State) (c : Fin 16) (l : Fin 8) (v : Verdict) : FrameRes :=
  let x := (s.ch c).rd.lane l
  let lp := (s.ch c).rd.loops[l]
  let q := x.pos + v.ofs
  let blank := s.isBlank c l q
  let flagged := ((lp.frameBits q).filter (·.flag)).length
  { blank := blank, decided := blank, ok := false, info := [], weight := 1024, iters := 0, initial := 1024
    suspect := !v.verified || s.flaggedSuspect c flagged, flagged := flagged
    sync := if blank then 5 else v.sync, addr := v.addr, at_ := q.toNat, llr := lp.codeword q }

/-- The frame recorded in its cluster. -/
def State.frameRecorded (s : State) (c : Fin 16) (l : Fin 8) (v : Verdict) : State :=
  s.recordFrame c v.addr (s.frameResult c l v) v.verified ((s.ch c).rd.loops[l].samples (((s.ch c).rd.lane l).pos + v.ofs))

/-- The lane's registers show the frame. -/
def State.frameShown (s : State) (c : Fin 16) (l : Fin 8) (v : Verdict) (blank : Bool) : State :=
  let s1 := (s.laneSts c l v.st v.k).cw c (F.BRC_LANE_STS_BLANK l) (b2n blank)
  if v.verified then s1.wrs (chRg c) [(F.FSY_ADDR_LO l, v.addr), (F.FSY_ADDR_HI l, v.addr / 2 ^ 32)] else s1

/-- The lane moves on past a frame at bit `q`; `fell` says that it came from LOCK or FLY into HUNT. -/
def State.frameLeft (s : State) (c : Fin 16) (l : Fin 8) (v : Verdict) (q : Int) (fell : Prop) [Decidable fell] : State :=
  let s1 := if (frameAddr v.addr).place.2 / 8 = 9 then s.clusterQuality c l (frameAddr v.addr).place.1 else s
  let s2 := s1.modLane c l fun x => { x with
    next := (frameAddr v.addr).next.bits, pos := q + 9936, mismatch := v.mism, choice := none
    last := some (v.addr, v.ofs, v.found && v.verified) }
  (if fell then s2.cirq c 0x29 0 else s2).frameBoundary c l

/-- A processed frame, but for the end of its cluster's pass or read. -/
def State.framePassed (s : State) (c : Fin 16) (l : Fin 8) (v : Verdict) : State :=
  ((s.frameRecorded c l v).frameShown c l v (s.frameResult c l v).blank).frameLeft c l v (((s.ch c).rd.lane l).pos + v.ofs)
    (s.cr c (F.BRC_LANE_STS_SYNC l) ≠ 0 ∧ v.st = 0)

theorem State.frameDone_eq (v : Verdict) : s.frameDone c l v =
    ((s.framePassed c l v).checkFirst c (frameAddr v.addr).place.1).checkRead c (frameAddr v.addr).place.1 := rfl

/-! The record. -/

theorem State.recordFrame_unread {a : Nat} (f : FrameRes) (ok : Bool) (ys : List Int)
    (h : s.reading? c (frameAddr a).place.1 = none) : s.recordFrame c a f ok ys = s := by
  simp only [State.recordFrame, h]

theorem State.recordFrame_there {a : Nat} {y : ClusterRead} (f : FrameRes) (ok : Bool) (ys : List Int)
    (h : s.reading? c (frameAddr a).place.1 = some y) (hs : y.step = 0)
    (hf : (SMap.find? y.frames (frameAddr a).place.2).isSome = true) : s.recordFrame c a f ok ys = s := by
  simp only [State.recordFrame, h, hs, hf, if_true]

/-- A first frame at a position is put into its cluster, and its codeword joins the decoder unless it is blank. -/
theorem State.recordFrame_new {a : Nat} {y : ClusterRead} (f : FrameRes) (ok : Bool) (ys : List Int)
    (h : s.reading? c (frameAddr a).place.1 = some y) (hs : y.step = 0)
    (hf : SMap.find? y.frames (frameAddr a).place.2 = none) : s.recordFrame c a f ok ys =
      if f.blank then s.putRead c { y with frames := SMap.insert y.frames (frameAddr a).place.2 f }
      else (s.putRead c { y with frames := SMap.insert y.frames (frameAddr a).place.2 f }).modRd c fun r =>
        r.enqueue ⟨r.classAt (frameAddr a).place.1, (frameAddr a).place.1, (frameAddr a).place.2, .first⟩ := by
  have first : (y.step = 0) = True := eq_true hs
  simp only [State.recordFrame, h, first, hf, if_true, Option.isSome_none, Bool.false_eq_true, if_false]

/-- A cluster with a frame at a position where it had none. -/
def ClusterRead.withFrame (y : ClusterRead) (p : Nat) (f : FrameRes) : ClusterRead :=
  if (SMap.find? y.frames p).isSome then y else { y with frames := SMap.insert y.frames p f }

/-- The cluster at a position, if it is being read, is on its first pass and ends neither that nor a read with one frame more. -/
def State.PassesOn (s : State) (c : Fin 16) (pcn : Nat) : Prop :=
  ∀ y, s.reading? c pcn = some y → y.step = 0 ∧ y.frames.length < 79 ∧ y.reads = []

theorem State.recordFrame_reading? {a : Nat} (f : FrameRes) (ok : Bool) (ys : List Int) (h : s.PassesOn c (frameAddr a).place.1) :
    (s.recordFrame c a f ok ys).reading? c (frameAddr a).place.1 =
      (s.reading? c (frameAddr a).place.1).map (·.withFrame (frameAddr a).place.2 f) := by
  cases hy : s.reading? c (frameAddr a).place.1 with
  | none => rw [State.recordFrame_unread f ok ys hy, hy, Option.map_none]
  | some y =>
    obtain ⟨hs, -, -⟩ := h y hy
    cases hf : SMap.find? y.frames (frameAddr a).place.2 with
    | some g => rw [State.recordFrame_there f ok ys hy hs (by simp [hf]), hy]; simp [ClusterRead.withFrame, hf]
    | none =>
      obtain ⟨hm, hp⟩ := State.reading?_mem hy
      have put : (s.putRead c { y with frames := SMap.insert y.frames (frameAddr a).place.2 f }).reading? c (frameAddr a).place.1 =
          some { y with frames := SMap.insert y.frames (frameAddr a).place.2 f } :=
        hp ▸ (State.Reads.putRead (x := { y with frames := SMap.insert y.frames (frameAddr a).place.2 f }) ⟨y, hm, rfl⟩).reading?
      rw [State.recordFrame_new f ok ys hy hs hf, Option.map_some, ClusterRead.withFrame, hf]
      split
      · exact put
      · refine (State.reading?_of_clusters ?_ _).trans put
        rw [State.modRd_rd, ReadPath.enqueue_only]

/-- Recording a frame reaches the clusters and the decoder pool only. -/
theorem State.recordFrame_keeps (a : Nat) (f : FrameRes) (ok : Bool) (ys : List Int) {fs : List Fld} :
    TouchesOnly c fs s (s.recordFrame c a f ok ys) ∧ ((s.recordFrame c a f ok ys).ch c).rd.lanes = (s.ch c).rd.lanes := by
  unfold State.recordFrame
  dsimp only
  split
  · exact ⟨.refl c fs s, rfl⟩
  · next y _ =>
    have put (z : ClusterRead) : TouchesOnly c fs s (s.putRead c z) ∧ ((s.putRead c z).ch c).rd.lanes = (s.ch c).rd.lanes :=
      ⟨(TouchesOnly.refl c fs s).putRead z, by rw [State.putRead_rd]⟩
    split
    · split
      · exact ⟨.refl c fs s, rfl⟩
      · split
        · exact put _
        · refine ⟨(put _).1.modRd _, ?_⟩
          rw [State.modRd_rd, ReadPath.enqueue_only]
          exact (put _).2
    · split
      · exact put _
      · exact ⟨.refl c fs s, rfl⟩

theorem State.recordFrame_joins {a : Nat} {y : ClusterRead} {f : FrameRes} (ok : Bool) (ys : List Int)
    (h : s.reading? c (frameAddr a).place.1 = some y) (hs : y.step = 0) (hf : SMap.find? y.frames (frameAddr a).place.2 = none)
    (hb : f.blank = false) : ((s.recordFrame c a f ok ys).ch c).rd.pending (fun j =>
      j == ⟨(s.ch c).rd.classAt (frameAddr a).place.1, (frameAddr a).place.1, (frameAddr a).place.2, .first⟩) = true := by
  rw [State.recordFrame_new f ok ys h hs hf, if_neg (by simp [hb]), State.modRd_rd, ReadPath.pending_enqueue, State.putRead_rd]
  simp [ReadPath.classAt]

/-! The lane moves on. -/

/-- The registers that a lane's moving on reaches. -/
def passingFields : List Fld :=
  (List.range 8).flatMap (fun l => [F.BRC_QUAL_SNR l, F.BRC_QUAL_JITTER l]) ++ F.HDR_IRQ_RAW 0x29 :: loopFields

theorem quality_among_passingFields : ∀ l : Fin 8, (F.BRC_QUAL_SNR l).among passingFields = true ∧
    (F.BRC_QUAL_JITTER l).among passingFields = true := by decide

theorem lane_outside_passingFields : ∀ l : Fin 8, (F.BRC_LANE_STS_SYNC l).outside passingFields = true ∧
    (F.BRC_LANE_STS_FLYCNT l).outside passingFields = true ∧ (F.FSY_ADDR_LO l).outside passingFields = true := by decide

/-- What a cluster holds of its frames, and what remains of its pass. -/
def ClusterRead.pass (y : ClusterRead) : Nat × SMap FrameRes × List Int := (y.step, y.frames, y.reads)

/-- From `s` to `t` a lane moves on: the pool and the frames of the cluster at `pcn` stay. -/
structure LanePasses (c : Fin 16) (pcn : Nat) (s t : State) : Prop where
  touches : TouchesOnly c passingFields s t
  pool    : ∀ p, (t.ch c).rd.pending p = (s.ch c).rd.pending p
  pass    : (t.reading? c pcn).map ClusterRead.pass = (s.reading? c pcn).map ClusterRead.pass

namespace LanePasses
variable {r : State} {pcn : Nat}

theorem refl (c : Fin 16) (pcn : Nat) (s : State) : LanePasses c pcn s s := ⟨.refl c _ s, fun _ => rfl, rfl⟩

theorem trans (h : LanePasses c pcn r s) (k : LanePasses c pcn s t) : LanePasses c pcn r t :=
  ⟨h.touches.trans k.touches, fun p => (k.pool p).trans (h.pool p), k.pass.trans h.pass⟩

theorem ite {p : Prop} [Decidable p] (h : LanePasses c pcn r s) (k : LanePasses c pcn r t) :
    LanePasses c pcn r (if p then s else t) := by
  split
  · exact h
  · exact k

theorem of_ch (h : TouchesOnly c passingFields s t) (hc : t.ch c = s.ch c) : LanePasses c pcn s t :=
  ⟨h, fun p => by rw [hc], by rw [State.reading?_of_clusters (congrArg (·.rd.clusters) hc)]⟩

theorem of_work (h : LaneWork c loopFields s t) : LanePasses c pcn s t :=
  ⟨h.touches.mono fun _ hf => List.mem_append_right _ (List.mem_cons_of_mem _ hf), h.pending, by rw [h.reading?]⟩

theorem modLane (l : Nat) (f : Lane → Lane) : LanePasses c pcn s (s.modLane c l f) :=
  ⟨(TouchesOnly.refl c _ s).modRd _, fun p => by rw [State.modLane_rd]; rfl,
    by rw [State.reading?_of_clusters (State.clusters_of_ladders (State.modLane_ladders l f))]⟩

/-- A cluster put with its frames as they were. -/
theorem putRead {y z : ClusterRead} (h : s.reading? c pcn = some y) (hp : z.pcn = y.pcn) (hz : z.pass = y.pass) :
    LanePasses c pcn s (s.putRead c z) := by
  refine ⟨(TouchesOnly.refl c _ s).putRead z, fun p => by rw [State.putRead_rd]; rfl, ?_⟩
  obtain ⟨hm, rfl⟩ := State.reading?_mem h
  have put : (s.putRead c z).Reads c z := State.Reads.putRead ⟨y, hm, hp.symm⟩
  rw [h, ← hp, put.reading?, Option.map_some, Option.map_some, hz]

theorem clusterQuality (l : Fin 8) : LanePasses c pcn s (s.clusterQuality c l pcn) := by
  obtain ⟨snr, jitter⟩ := quality_among_passingFields l
  unfold State.clusterQuality
  extract_lets x snrNow jitNow s1
  have h1 : LanePasses c pcn s s1 :=
    (of_ch (((TouchesOnly.refl c _ s).cw _ snr).cw _ jitter) rfl).trans (of_work ((LaneWork.refl c _ _).modLoops l _))
  split
  · next y hy => exact h1.trans (putRead hy rfl rfl)
  · exact h1

end LanePasses

theorem State.clusterQuality_lanes (pcn : Nat) : ((s.clusterQuality c l pcn).ch c).rd.lanes = (s.ch c).rd.lanes := by
  unfold State.clusterQuality
  extract_lets x snrNow jitNow s1
  have h1 : (s1.ch c).rd.lanes = (s.ch c).rd.lanes := by
    rw [((LaneWork.refl c loopFields _).modLoops l _).lanes, State.wrs_ch]
  split
  · rw [State.putRead_rd]
    exact h1
  · exact h1

theorem State.frameLeft_passes (v : Verdict) (q : Int) (fell : Prop) [Decidable fell] :
    LanePasses c (frameAddr v.addr).place.1 s (s.frameLeft c l v q fell) := by
  unfold State.frameLeft
  extract_lets s1 s2
  have h1 : LanePasses c (frameAddr v.addr).place.1 s s1 := (LanePasses.clusterQuality l).ite (.refl c _ s)
  have h2 : LanePasses c (frameAddr v.addr).place.1 s s2 := h1.trans (.modLane _ _)
  have h3 : LanePasses c (frameAddr v.addr).place.1 s (s2.cirq c 0x29 0) :=
    h2.trans (.of_ch ((TouchesOnly.refl c _ _).cirq 0 (by decide)) (State.cirq_ch _ _ _ _ _))
  exact (h3.ite h2).trans (.of_work ((LaneWork.refl c _ _).frameBoundary l))

/-- The lane after a frame: at the next frame, with the frame as its last (R76). -/
theorem State.frameLeft_lane {x : Lane} (v : Verdict) (q : Int) (fell : Prop) [Decidable fell] (h : (s.ch c).rd.lanes[l.val]? = some x) :
    ((s.frameLeft c l v q fell).ch c).rd.lanes[l.val]? = some ⟨(frameAddr v.addr).next.bits, q + 9936, v.mism, none,
      some (v.addr, v.ofs, v.found && v.verified), x.adipPos⟩ := by
  unfold State.frameLeft
  extract_lets s1 s2
  have h1 : (s1.ch c).rd.lanes[l.val]? = some x := by
    simp only [s1]
    split
    · rw [State.clusterQuality_lanes, h]
    · exact h
  have h2 : (if fell then s2.cirq c 0x29 0 else s2).ch c = s2.ch c := by
    split
    · exact State.cirq_ch _ _ _ _ _
    · rfl
  rw [((LaneWork.refl c loopFields _).frameBoundary l).lanes, h2]
  exact State.modLane_lane _ h1

/-! The registers. -/

theorem State.frameShown_ch (v : Verdict) (blank : Bool) : (s.frameShown c l v blank).ch c = s.ch c := by
  unfold State.frameShown
  dsimp only
  split
  · exact (State.wrs_ch _ _ _ _).trans (State.wrs_ch _ _ _ _)
  · exact State.wrs_ch _ _ _ _

theorem State.frameShown_status (v : Verdict) (blank : Bool) :
    (s.frameShown c l v blank).cr c (F.BRC_LANE_STS_SYNC l) = v.st % 4 ∧
    (s.frameShown c l v blank).cr c (F.BRC_LANE_STS_FLYCNT l) = v.k % 4 := by
  have apart : ∀ l : Fin 8, ∀ f ∈ [F.BRC_LANE_STS_BLANK l, F.FSY_ADDR_LO l, F.FSY_ADDR_HI l],
      f.apart (F.BRC_LANE_STS_SYNC l) = true ∧ f.apart (F.BRC_LANE_STS_FLYCNT l) = true := by decide
  have own : ∀ l : Fin 8, (F.BRC_LANE_STS_FLYCNT l).apart (F.BRC_LANE_STS_SYNC l) = true := by decide
  obtain ⟨bs, bk⟩ := apart l _ (.head _)
  obtain ⟨ls, lk⟩ := apart l _ (.tail _ (.head _))
  obtain ⟨hs, hk⟩ := apart l _ (.tail _ (.tail _ (.head _)))
  have sync : ((s.laneSts c l v.st v.k).cw c (F.BRC_LANE_STS_BLANK l) (b2n blank)).cr c (F.BRC_LANE_STS_SYNC l) = v.st % 4 :=
    (State.cr_cw_apart _ _ bs).trans ((State.cr_cw_apart _ _ (own l)).trans (State.cr_cw_self _ c _ v.st))
  have flycnt : ((s.laneSts c l v.st v.k).cw c (F.BRC_LANE_STS_BLANK l) (b2n blank)).cr c (F.BRC_LANE_STS_FLYCNT l) = v.k % 4 :=
    (State.cr_cw_apart _ _ bk).trans (State.cr_cw_self _ c _ v.k)
  unfold State.frameShown
  dsimp only
  split
  · exact ⟨((State.cr_cw_apart _ _ hs).trans (State.cr_cw_apart _ _ ls)).trans sync,
      ((State.cr_cw_apart _ _ hk).trans (State.cr_cw_apart _ _ lk)).trans flycnt⟩
  · exact ⟨sync, flycnt⟩

theorem State.frameShown_addr {v : Verdict} (blank : Bool) (h : v.verified = true) :
    (s.frameShown c l v blank).cr c (F.FSY_ADDR_LO l) = v.addr % 2 ^ 32 := by
  have apart : ∀ l : Fin 8, (F.FSY_ADDR_HI l).apart (F.FSY_ADDR_LO l) = true := by decide
  simp only [State.frameShown, h, if_true]
  exact (State.cr_cw_apart _ _ (apart l)).trans (State.cr_cw_self _ c _ _)

/-! The whole frame. -/

theorem State.framePassed_status (v : Verdict) : (s.framePassed c l v).cr c (F.BRC_LANE_STS_SYNC l) = v.st % 4 ∧
    (s.framePassed c l v).cr c (F.BRC_LANE_STS_FLYCNT l) = v.k % 4 := by
  obtain ⟨sync, flycnt, -⟩ := lane_outside_passingFields l
  unfold State.framePassed
  rw [(State.frameLeft_passes _ _ _).touches.cr sync, (State.frameLeft_passes _ _ _).touches.cr flycnt]
  exact State.frameShown_status v _

theorem State.framePassed_addr {v : Verdict} (h : v.verified = true) :
    (s.framePassed c l v).cr c (F.FSY_ADDR_LO l) = v.addr % 2 ^ 32 := by
  obtain ⟨-, -, lo⟩ := lane_outside_passingFields l
  unfold State.framePassed
  rw [(State.frameLeft_passes _ _ _).touches.cr lo]
  exact State.frameShown_addr _ h

theorem State.framePassed_lane {x : Lane} (v : Verdict) (h : (s.ch c).rd.lanes[l.val]? = some x) :
    ((s.framePassed c l v).ch c).rd.lanes[l.val]? = some ⟨(frameAddr v.addr).next.bits, x.pos + v.ofs + 9936, v.mism, none,
      some (v.addr, v.ofs, v.found && v.verified), x.adipPos⟩ := by
  unfold State.framePassed
  rw [ReadPath.lane_of_getElem? h]
  refine State.frameLeft_lane v _ _ ?_
  rw [State.frameShown_ch, State.frameRecorded, (State.recordFrame_keeps (fs := []) _ _ _ _).2, h]

theorem State.framePassed_cluster {v : Verdict} (h : s.PassesOn c (frameAddr v.addr).place.1) :
    ((s.framePassed c l v).reading? c (frameAddr v.addr).place.1).map ClusterRead.pass =
      (s.reading? c (frameAddr v.addr).place.1).map fun y => (y.withFrame (frameAddr v.addr).place.2 (s.frameResult c l v)).pass := by
  unfold State.framePassed
  rw [(State.frameLeft_passes _ _ _).pass, State.reading?_of_clusters (congrArg (·.rd.clusters) (State.frameShown_ch v _)), State.frameRecorded,
    State.recordFrame_reading? _ _ _ h, Option.map_map]
  rfl

theorem State.framePassed_joins {v : Verdict} {y : ClusterRead} (h : s.reading? c (frameAddr v.addr).place.1 = some y) (hs : y.step = 0)
    (hf : SMap.find? y.frames (frameAddr v.addr).place.2 = none) (hb : (s.frameResult c l v).blank = false) :
    ((s.framePassed c l v).ch c).rd.pending (fun j => j == ⟨(s.ch c).rd.classAt (frameAddr v.addr).place.1,
      (frameAddr v.addr).place.1, (frameAddr v.addr).place.2, .first⟩) = true := by
  unfold State.framePassed
  rw [(State.frameLeft_passes _ _ _).pool, State.frameShown_ch]
  exact State.recordFrame_joins _ _ h hs hf hb

theorem ClusterRead.withFrame_length (y : ClusterRead) (p : Nat) (f : FrameRes) : (y.withFrame p f).frames.length ≤ y.frames.length + 1 := by
  unfold ClusterRead.withFrame
  split
  · exact Nat.le_succ _
  · exact SMap.length_insert_le _ _ _

/-- Where the cluster passes on, the frame ends nothing in it. -/
theorem State.frameDone_passed {v : Verdict} (h : s.PassesOn c (frameAddr v.addr).place.1) :
    s.frameDone c l v = s.framePassed c l v := by
  have after : ∀ z, (s.framePassed c l v).reading? c (frameAddr v.addr).place.1 = some z →
      z.step = 0 ∧ z.frames.length < 80 ∧ z.reads = [] := by
    intro z hz
    have pass := State.framePassed_cluster (l := l) h
    rw [hz, Option.map_some] at pass
    obtain ⟨y, hy, e⟩ := Option.map_eq_some_iff.mp pass.symm
    obtain ⟨hs, hn, hr⟩ := h y hy
    have len := y.withFrame_length (frameAddr v.addr).place.2 (s.frameResult c l v)
    simp only [ClusterRead.pass, Prod.mk.injEq] at e
    obtain ⟨es, ef, er⟩ := e
    have same : (y.withFrame (frameAddr v.addr).place.2 (s.frameResult c l v)).step = y.step ∧
        (y.withFrame (frameAddr v.addr).place.2 (s.frameResult c l v)).reads = y.reads := by
      unfold ClusterRead.withFrame
      split <;> exact ⟨rfl, rfl⟩
    exact ⟨by rw [← es, same.1, hs], by rw [← ef]; omega, by rw [← er, same.2, hr]⟩
  rw [State.frameDone_eq, State.checkFirst_open fun z hz => ?_, State.checkRead_none fun z hz => (after z hz).2.2]
  obtain ⟨hs, hn, -⟩ := after z hz
  exact ⟨hs, fun ⟨hlen, _⟩ => absurd hlen (by omega)⟩

end Sys2Proof.Machine
end

section
/-! PROOF. Frame sync and the alignment choice (R74 to R77, Table 3-6). -/

namespace Sys2Proof.Machine
open Sys2Proof

variable {s : State} {c : Fin 16} {l : Fin 8} {x : Lane}

/-! Frame sync. -/

theorem State.forceChoice_none (hx : (s.ch c).rd.lanes[l.val]? = some x) (hc : x.choice = none) : s.forceChoice c l = s := by
  simp only [State.forceChoice, ReadPath.lane_of_getElem? hx, hc]

/-- A header with the predicted address is VERIFIED; at most ADIP_MISMATCH rises. -/
theorem State.judge_predicted (x : Lane) : ∃ u, s.judge c l x x.next = (true, u) ∧ u.ch c = s.ch c := by
  refine ⟨_, if_pos rfl, ?_⟩
  split
  · exact State.cirq_ch _ _ _ _ _
  · rfl

/-- The sync candidate a lane takes at its predicted position. -/
def State.laneCandidate (s : State) (c : Fin 16) (l : Fin 8) (x : Lane) : Option Int :=
  let win := if s.cr c (F.BRC_LANE_STS_SYNC l) = 0 then 256 else 8
  candidate (s.cr c (F.FSY_SYNC_THR l)) win ((s.ch c).rd.loops[l].marks x.pos win)

theorem frameSync_passes {d : Int} {n : Nat} (hx : (s.ch c).rd.lanes[l.val]? = some x) (hc : x.choice = none)
    (hd : s.laneCandidate c l x = some d) (hh : headerDecode ((s.ch c).rd.loops[l].header (x.pos + d)) = some (x.next, n)) :
    ∃ u : State, u.ch c = s.ch c ∧ frameSync c l s = u.frameDone c l ⟨d, x.next, true, true, 0, 1, 0, none⟩ := by
  obtain ⟨u, hu, same⟩ := s.judge_predicted (c := c) (l := l) x
  refine ⟨u, same, ?_⟩
  simp only [State.laneCandidate] at hd
  simp only [frameSync, State.forceChoice_none hx hc, ReadPath.lane_of_getElem? hx, hd, hh, Option.map_some, hu, if_true]

/-- Without a candidate a lane in HUNT stays there, and the flywheel of another counts, falling back to HUNT at the third (Table 3-6). -/
theorem frameSync_misses (hx : (s.ch c).rd.lanes[l.val]? = some x) (hc : x.choice = none) (hd : s.laneCandidate c l x = none) :
    ∃ out st k : Nat, frameSync c l s = s.frameDone c l ⟨0, x.next, false, false, out, st, k, none⟩ ∧
      st % 4 = (if s.cr c (F.BRC_LANE_STS_SYNC l) = 0 then 0 else if s.cr c (F.BRC_LANE_STS_FLYCNT l) + 1 ≤ 2 then 2 else 0) ∧
      k % 4 = (if s.cr c (F.BRC_LANE_STS_SYNC l) = 0 then 0 else (s.cr c (F.BRC_LANE_STS_FLYCNT l) + 1) % 4) := by
  simp only [State.laneCandidate] at hd
  simp only [frameSync, State.forceChoice_none hx hc, ReadPath.lane_of_getElem? hx, hd]
  by_cases hunt : s.cr c (F.BRC_LANE_STS_SYNC l) = 0
  · simp only [hunt, if_true]
    exact ⟨4, 0, 0, rfl, rfl, rfl⟩
  · simp only [hunt, if_false]
    refine ⟨3, _, _, rfl, ?_, ?_⟩
    · simp only [missed]
      split <;> rfl
    · simp only [missed]
      split
      · rfl
      · exact Nat.mod_mod _ _

/-! The alignment choice. -/

theorem alignmentChoice_none (hx : (s.ch c).rd.lanes[l.val]? = some x) (hc : x.choice = none) : alignmentChoice c l s = s := by
  simp only [alignmentChoice, ReadPath.lane_of_getElem? hx, hc]

theorem alignmentChoice_waits {ch : Choice} (hx : (s.ch c).rd.lanes[l.val]? = some x) (hc : x.choice = some ch)
    (h : ch.cands ≠ [] ∨ s.othersDecided c l = false) : alignmentChoice c l s = s := by
  simp only [alignmentChoice, ReadPath.lane_of_getElem? hx, hc]
  exact if_pos (by simpa using h)

/-- A header that passes at the predicted position with the predicted address decides. -/
theorem alignmentChoice_passes {ch : Choice} {n : Nat} (hx : (s.ch c).rd.lanes[l.val]? = some x) (hc : x.choice = some ch)
    (he : ch.cands = []) (ho : s.othersDecided c l = true)
    (hh : headerDecode ((s.ch c).rd.loops[l].header x.pos) = some (x.next, n)) :
    ∃ u : State, u.ch c = s.ch c ∧ alignmentChoice c l s =
      u.frameDone c l ⟨0, x.next, true, true, 0, if s.cr c (F.BRC_LANE_STS_SYNC l) = 0 then 0 else 1, 0, none⟩ := by
  obtain ⟨u, hu, same⟩ := s.judge_predicted (c := c) (l := l) x
  refine ⟨u, same, ?_⟩
  have chosen : alignmentChoice c l s = s.chosen c l 0 (some x.next) true := by
    simp only [alignmentChoice, ReadPath.lane_of_getElem? hx, hc, he, ho, hh, Int.add_zero, Option.map_some, List.isEmpty_nil,
      Bool.not_true, Bool.or_self, Bool.false_eq_true, if_false]
  rw [chosen]
  simp only [State.chosen, ReadPath.lane_of_getElem? hx, hu, if_true]
  by_cases h0 : s.cr c (F.BRC_LANE_STS_SYNC l) = 0
  · simp only [h0, if_true]
  · simp only [h0, if_false]

/-- The alignments tried where no header passes: A, B, and C where it is another. -/
def State.alignments (s : State) (c : Fin 16) (l : Fin 8) (ch : Choice) : List (Nat × Int) :=
  [(0, ch.found), (1, 0)] ++ (s.alignC c l ch.found).elim [] fun d => [(2, d)]

theorem alignmentChoice_tries {ch : Choice} (hx : (s.ch c).rd.lanes[l.val]? = some x) (hc : x.choice = some ch)
    (he : ch.cands = []) (ho : s.othersDecided c l = true) (hb : headerDecode ((s.ch c).rd.loops[l].header x.pos) = none)
    (ha : ∀ d, s.alignC c l ch.found = some d → headerDecode ((s.ch c).rd.loops[l].header (x.pos + d)) = none) :
    alignmentChoice c l s = (s.modLane c l fun x => { x with choice := some { ch with cands := s.alignments c l ch } }).modRd c fun r =>
      (s.alignments c l ch).foldl (fun r e => r.enqueue ⟨2, 0, 0, .trial l e.1⟩) r := by
  have noC : ((s.alignC c l ch.found).bind fun ofs =>
      (headerDecode ((s.ch c).rd.loops[l].header (x.pos + ofs))).map (·.1)) = none :=
    Option.bind_eq_none_iff.mpr fun d hd => by rw [ha d hd, Option.map_none]
  simp only [alignmentChoice, ReadPath.lane_of_getElem? hx, hc, he, ho, noC, hb, Int.add_zero, Option.map_none, List.isEmpty_nil,
    Bool.not_true, Bool.or_self, Bool.false_eq_true, if_false]
  rfl

theorem alignmentChoice_tries_shown {ch : Choice} (hx : (s.ch c).rd.lanes[l.val]? = some x) (cands : List (Nat × Int)) :
    let t := (s.modLane c l fun x => { x with choice := some { ch with cands := cands } }).modRd c fun r =>
      cands.foldl (fun r e => r.enqueue ⟨2, 0, 0, .trial l e.1⟩) r
    (t.ch c).rd.lanes[l.val]? = some { x with choice := some { ch with cands := cands } } ∧
    (∀ e ∈ cands, (t.ch c).rd.pending (fun j => j == ⟨2, 0, 0, .trial l e.1⟩) = true) ∧ t.regs = s.regs := by
  refine ⟨?_, fun e he => ?_, rfl⟩
  · rw [State.modRd_rd, ReadPath.foldl_enqueue_only fun r e => r.enqueue_only _]
    exact State.modLane_lane _ hx
  · rw [State.modRd_rd, ReadPath.pending_foldl_enqueue (fun e : Nat × Int => ⟨2, 0, 0, .trial l e.1⟩), Bool.or_eq_true]
    exact .inr (List.any_eq_true.mpr ⟨e, he, by simp⟩)

end Sys2Proof.Machine
end

section
/-! PROOF. The read path's commands together (R60 to R99, R174). -/

namespace Sys2Proof.Machine
open Sys2Proof

variable {s u v : State} {c : Fin 16} {l : Fin 8}

/-! A frame at the end of its lane's sync. -/

theorem State.frameResult_sync (v : Verdict) :
    (s.frameResult c l v).sync = if (s.frameResult c l v).blank = true then 5 else v.sync := rfl

theorem State.PassesOn.of_ch {pcn : Nat} (h : s.PassesOn c pcn) (same : u.ch c = s.ch c) : u.PassesOn c pcn := fun y hy =>
  h y (State.reading?_of_clusters (congrArg (·.rd.clusters) same) pcn ▸ hy)

section
variable {x : Lane} {v : Verdict} (same : u.ch c = s.ch c) (open_ : s.PassesOn c (frameAddr v.addr).place.1)
include same open_

theorem State.frameDone_status : (u.frameDone c l v).cr c (F.BRC_LANE_STS_SYNC l) = v.st % 4 ∧
    (u.frameDone c l v).cr c (F.BRC_LANE_STS_FLYCNT l) = v.k % 4 := by
  rw [State.frameDone_passed (open_.of_ch same)]
  exact State.framePassed_status v

theorem State.frameDone_addr (h : v.verified = true) : (u.frameDone c l v).cr c (F.FSY_ADDR_LO l) = v.addr % 2 ^ 32 := by
  rw [State.frameDone_passed (open_.of_ch same)]
  exact State.framePassed_addr h

theorem State.frameDone_lane (hx : (s.ch c).rd.lanes[l.val]? = some x) : ((u.frameDone c l v).ch c).rd.lanes[l.val]? =
    some ⟨(frameAddr v.addr).next.bits, x.pos + v.ofs + 9936, v.mism, none, some (v.addr, v.ofs, v.found && v.verified), x.adipPos⟩ := by
  rw [State.frameDone_passed (open_.of_ch same)]
  exact State.framePassed_lane v (same ▸ hx)

/-- A new frame of a first pass stands in its cluster, and unless it is blank its codeword has joined the decoder (R80, R86). -/
theorem State.frameDone_joins {y : ClusterRead} (hs : v.sync = 0) (hy : s.reading? c (frameAddr v.addr).place.1 = some y)
    (hf : SMap.find? y.frames (frameAddr v.addr).place.2 = none) : ∃ z f, (u.frameDone c l v).reading? c (frameAddr v.addr).place.1 = some z ∧
      SMap.find? z.frames (frameAddr v.addr).place.2 = some f ∧ f.addr = v.addr ∧ f.sync = (if f.blank then 5 else 0) ∧ f.decided = f.blank ∧
      (f.blank = false → ((u.frameDone c l v).ch c).rd.pending (fun j => j == ⟨(s.ch c).rd.classAt (frameAddr v.addr).place.1,
        (frameAddr v.addr).place.1, (frameAddr v.addr).place.2, .first⟩) = true) := by
  have hu : u.reading? c (frameAddr v.addr).place.1 = some y := by
    rw [State.reading?_of_clusters (congrArg (·.rd.clusters) same), hy]
  have pass := State.framePassed_cluster (l := l) (open_.of_ch same)
  rw [hu, Option.map_some] at pass
  obtain ⟨z, hz, e⟩ := Option.map_eq_some_iff.mp pass
  have frames : z.frames = SMap.insert y.frames (frameAddr v.addr).place.2 (u.frameResult c l v) := by
    simpa [ClusterRead.withFrame, ClusterRead.pass, hf] using congrArg (·.2.1) e
  rw [State.frameDone_passed (open_.of_ch same)]
  refine ⟨z, u.frameResult c l v, hz, by rw [frames, SMap.find?_insert, if_pos rfl], rfl, ?_, rfl, fun hb => ?_⟩
  · rw [State.frameResult_sync, hs]
  · rw [← same]
    exact State.framePassed_joins hu (open_ y hy).1 hf hb

end

/-! A step of the ladder that is over, and a ladder past its budget (R90, R93). -/

theorem State.stepLeaves_here {pcn : Nat} {x : ClusterRead}
    (hx : (s.ch c).rd.clusters.find? (fun x => x.pcn == pcn && x.step != 0) = some x) :
    (s.stepLeaves c x).pcn = pcn ∧ pcn ∈ s.pcns c := by
  have here : x.pcn = pcn := by
    have := List.find?_some hx
    simp only [Bool.and_eq_true, beq_iff_eq] at this
    exact this.1
  exact ⟨(State.stepLeaves_pcn x).trans here, List.mem_map.mpr ⟨x, List.mem_of_find?_eq_some hx, here⟩⟩

section
variable {pcn : Nat} {x : ClusterRead} (hx : (s.ch c).rd.clusters.find? (fun x => x.pcn == pcn && x.step != 0) = some x)
  (hopen : s.stepOpen c x = false) (hn : (s.ch c).rd.needs pcn = true) (h12 : x.step ≠ 12)
include hx hopen hn h12

/-- A cluster decoded at the end of a step is served, and read no longer. -/
theorem retryStep_served {f : Outer} {d : Desc} (hd : (s.putRead c (s.stepLeaves c x)).tryDecode c (s.stepLeaves c x) = (some (f, d), v)) :
    retryStep c pcn s = v.resolved c (s.stepLeaves c x) f d ∧
    ∀ z ∈ ((v.resolved c (s.stepLeaves c x) f d).ch c).rd.clusters, z.pcn ≠ pcn :=
  ⟨retryStep_over hx hopen hn h12 hd, (State.stepLeaves_here hx).1 ▸ State.resolved_gone _ f d⟩

section
variable (hd : (s.putRead c (s.stepLeaves c x)).tryDecode c (s.stepLeaves c x) = (none, v))
include hd

/-- A cluster not decoded is needed and read as before. -/
theorem retryStep_undecoded : retryStep c pcn s = v.toStep c (s.stepLeaves c x) x.step ∧
    (v.ch c).rd.needs (s.stepLeaves c x).pcn = true ∧ (s.stepLeaves c x).pcn ∈ v.pcns c := by
  obtain ⟨here, listed⟩ := State.stepLeaves_here hx
  have same : v.ch c = (s.putRead c (s.stepLeaves c x)).ch c := by
    have kept := State.tryDecode_ch (s := s.putRead c (s.stepLeaves c x)) (c := c) (s.stepLeaves c x)
    rwa [hd] at kept
  refine ⟨retryStep_over hx hopen hn h12 hd, ?_, ?_⟩
  · rw [same, State.putRead_rd, here]
    exact hn
  · rw [State.pcns_of_clusters (congrArg (·.rd.clusters) same), State.putRead_pcns, here]
    exact listed

theorem retryStep_next {i : Nat} (hi : v.nextStep c (s.stepLeaves c x) x.step = some i) :
    ∃ z, (retryStep c pcn s).reading? c pcn = some z ∧ z.step = i := by
  obtain ⟨eq, needed, listed⟩ := retryStep_undecoded hx hopen hn h12 hd
  obtain ⟨z, hz, hstep, -⟩ := State.toStep_of_next needed listed hi
  exact ⟨z, eq ▸ (State.stepLeaves_here hx).1 ▸ hz, hstep⟩

theorem retryStep_lost (hi : v.nextStep c (s.stepLeaves c x) x.step = none) :
    retryStep c pcn s = v.clusterLost c (s.stepLeaves c x) ∧
    ∀ z ∈ ((v.clusterLost c (s.stepLeaves c x)).ch c).rd.clusters, z.pcn ≠ pcn := by
  obtain ⟨eq, needed, -⟩ := retryStep_undecoded hx hopen hn h12 hd
  exact ⟨eq.trans (State.toStep_of_none needed hi), (State.stepLeaves_here hx).1 ▸ State.clusterLost_gone _⟩

end
end

theorem budgetExpired_none {pcn : Nat}
    (hx : (s.ch c).rd.clusters.find? (fun x => x.pcn == pcn && x.step != 0 && x.step != 12) = none) : budgetExpired c pcn s = s := by
  simp only [budgetExpired, hx]

section
variable {pcn : Nat} {x : ClusterRead}
  (hx : (s.ch c).rd.clusters.find? (fun x => x.pcn == pcn && x.step != 0 && x.step != 12) = some x)
include hx

theorem budgetExpired_inStep (h : x.inStep (s.ch c).rd.holder = true) :
    budgetExpired c pcn s = s.putRead c { x with expired := true } := by
  simp only [budgetExpired, hx, h, if_true]

theorem budgetExpired_last (h : x.inStep (s.ch c).rd.holder = false) (hn : (s.ch c).rd.needs pcn = true)
    (h12 : bitAt (s.cr c F.RTY_CTL_STEP_EN) 11 = true) :
    ∃ z, (budgetExpired c pcn s).reading? c pcn = some z ∧ z.step = 12 ∧ z.expired = true := by
  have here : x.pcn = pcn := by
    have := List.find?_some hx
    simp only [Bool.and_eq_true, beq_iff_eq] at this
    exact this.1.1
  have listed : pcn ∈ (s.putRead c { x with expired := true }).pcns c := by
    rw [State.putRead_pcns]
    exact List.mem_map.mpr ⟨x, List.mem_of_find?_eq_some hx, here⟩
  have eq : budgetExpired c pcn s = (s.putRead c { x with expired := true }).toStep c { x with expired := true } 11 := by
    simp only [budgetExpired, hx, h, Bool.false_eq_true, if_false]
  obtain ⟨z, hz, hstep, hexp⟩ := State.toStep_of_next (s := s.putRead c { x with expired := true }) (x := { x with expired := true }) (n := 11)
    (by rw [State.putRead_rd]; exact here ▸ hn) (here ▸ listed) (State.nextStep_last h12)
  exact ⟨z, eq ▸ here ▸ hz, hstep, hexp⟩

end

end Sys2Proof.Machine
end

section
/-! PROOF. The read path's statement, clause by clause. -/

namespace Sys2Proof.Machine
open Sys2Proof

variable {s : State} {c : Fin 16} {l : Fin 8}

/-! A block's own lane (R60, R61). -/

theorem State.adaptBlockLoops_ofs (ys : List Int) : ((s.adaptBlockLoops c l ys).ch c).rd.loops[l].ofs =
    if s.laneLow c l = true ∨ s.ofsFrozen c l = true then (s.ch c).rd.loops[l].ofs else s.nextOfs c l ys (s.ch c).rd.loops[l].ofs := by
  rw [State.adaptBlockLoops_loop]
  by_cases held : s.laneLow c l = true ∨ s.ofsFrozen c l = true <;> simp [held]

theorem State.adaptBlockLoops_gain (ys : List Int) : ((s.adaptBlockLoops c l ys).ch c).rd.loops[l].gain =
    if s.laneLow c l = true ∨ s.gainFrozen c l = true then (s.ch c).rd.loops[l].gain else s.nextGain c l ys (s.ch c).rd.loops[l].gain := by
  rw [State.adaptBlockLoops_loop]
  by_cases held : s.laneLow c l = true ∨ s.gainFrozen c l = true <;> simp [held]

theorem State.adaptBlockLoops_asym (ys : List Int) (m : Fin 8) :
    ((s.adaptBlockLoops c l ys).ch c).rd.loops[m].asym = (s.ch c).rd.loops[m].asym := by rw [State.adaptBlockLoops_loop]

theorem State.adaptBlockLoops_other (ys : List Int) {m : Fin 8} (h : m ≠ l) :
    ((s.adaptBlockLoops c l ys).ch c).rd.loops[m] = (s.ch c).rd.loops[m] := by
  rw [State.adaptBlockLoops_loop]
  simp [h]

/-! The rules for Bramble's flags. -/

/-- The lanes' flags once one lane's has come or gone. -/
def ReadPath.flagSet (r : ReadPath) (l : Fin 8) (on : Bool) : Nat :=
  if on then r.flags ||| 2 ^ l.val else r.flags - (r.flags &&& 2 ^ l.val)

/-- Whether a flag comes or goes (R82). -/
def State.flagComes (s : State) (c : Fin 16) (l : Fin 8) (on : Bool) : Prop :=
  if on then s.cr c F.BRM_CTL_EN = 1 ∧ s.cr c (F.BRC_LANE_STS_BLANK l) = 0 ∧ s.brambleOut c l = true
  else s.cr c F.BRM_CTL_EN = 0 ∨ s.brambleIn c l = true

theorem brambleFlag_stays {on : Bool} (h : ¬ s.flagComes c l on) : brambleFlag c l on s = s := if_neg h

theorem brambleFlag_comes {on : Bool} (h : s.flagComes c l on) :
    brambleFlag c l on s = (s.modRd c fun r => { r with flags := (s.ch c).rd.flagSet l on }).defectUpdate c := if_pos h

theorem brambleFlag_shown {on : Bool} (h : s.flagComes c l on) :
    ((brambleFlag c l on s).ch c).rd.flags = (s.ch c).rd.flagSet l on ∧
    (((List.range 8).filter fun i => bitAt ((s.ch c).rd.flagSet l on) i).length < s.cr c F.CLE_DEF_CTL_MIN_LANES →
      ((brambleFlag c l on s).ch c).servo.defect = none ∧ ((brambleFlag c l on s).ch c).servo.defOver = false) ∧
    (s.cr c F.CLE_DEF_CTL_MIN_LANES ≤ ((List.range 8).filter fun i => bitAt ((s.ch c).rd.flagSet l on) i).length →
      (s.ch c).servo.defect = none → (s.ch c).servo.defOver = false → ((brambleFlag c l on s).ch c).servo.defect = some 0) := by
  have flagged : (s.modRd c fun r => { r with flags := (s.ch c).rd.flagSet l on }).flagged c =
      ((List.range 8).filter fun i => bitAt ((s.ch c).rd.flagSet l on) i).length := by
    rw [State.flagged, State.modRd_rd]
  have servo : ((s.modRd c fun r => { r with flags := (s.ch c).rd.flagSet l on }).ch c).servo = (s.ch c).servo := by
    rw [State.modRd_ch]
  rw [brambleFlag_comes h, State.defectUpdate_rd, State.modRd_rd, ← flagged]
  exact ⟨rfl, fun few => State.defectUpdate_few few, fun many hd ho =>
    State.defectUpdate_many many (by rw [servo, hd]) (by rw [servo, ho])⟩

/-! A core's frame of the first pass (R84 to R86). -/

theorem ldpcDecode_first {core : Fin 8} {j : Job} {x : ClusterRead} {f : FrameRes}
    (hj : (s.ch c).rd.cores.getD core none = some j) (hk : j.kind = .first) (hx : s.reading? c j.pcn = some x)
    (hf : SMap.find? x.frames j.p = some f) (hd : f.decided = false) (hs : x.step = 0) (hn : x.frames.length < 80) :
    ldpcDecode c core s = (s.freeCore c core).frameDecided c x j.p f
      (ldpcRun (s.cr c F.DEC_CTL_NORM) (s.cr c F.DEC_CTL_ITER_NORM) (s.cb c F.DEC_CTL_EARLY_STOP) f.llr) ∧
    (s.freeCore c core).reading? c j.pcn = some x := by
  have reads : (s.freeCore c core).reading? c j.pcn = some x := by
    rw [State.reading?_of_clusters (State.clusters_of_ladders (State.freeCore_ladders core)), hx]
  exact ⟨(ldpcDecode_job hj).trans (State.finishJob_first hk reads hf hd hs hn), reads⟩

/-! The statement. -/

/-- Settles O55: each command by what it leaves; a frame ends nothing in a cluster that passes on, and a settled ladder is not read. -/
theorem lanesLoopsAndTheRetryLadder : Obligations.LanesLoopsAndTheRetryLadder := by
  unfold Obligations.LanesLoopsAndTheRetryLadder
  intro s c src lane r
  refine ⟨fun periods hr => ?adip, fun hz => ⟨fun h => ?pllHeld, fun h => ?pllLocks⟩,
    fun layer zone hl hz hr => ⟨fun h => ?poisoned, fun h => ?fetched⟩, fun z y hz hy => ⟨fun h => ?elsewhere, fun h1 h2 => ?there⟩,
    fun v hr => ?tap, fun samples hr => ?block, fun x hr hx passes => ?sync, fun on => ?flag, fun h => ?noDefect, fun h => ?defect,
    fun core hr => ⟨fun h => ?idle, fun j x f hj hk hx hf hd hs hn => ?decoded⟩,
    fun pcn hr x hx => ⟨fun h => ?waits, fun h => ?captures⟩,
    fun pcn hr x hx => ⟨fun h => ?goesOn, fun h hn h12 => ⟨fun f d v hd => ?served, fun v hd => ⟨fun i hi => ?next, fun hi => ?lost⟩⟩⟩,
    fun pcn => ⟨fun h => ?noLadder, fun x hx => ⟨fun h => ?inStep, fun h hn h12 => ?last⟩⟩⟩
  case adip =>
    obtain ⟨prev, rd, hfits, hfails⟩ := adipWord_rd (s := s) (c := c) periods
    have touched := adipWord_touches (s := s) (c := c) periods
    refine ⟨adipWord c periods s, congrArg Host.Outcome.next (s.whileRunning_on hr), congrArg ReadPath.adipLast rd,
      fun h => ⟨(congrArg ReadPath.adipPrev rd).trans (hfits h), adipWord_fits_shown h⟩,
      fun h => ⟨(congrArg ReadPath.adipPrev rd).trans (hfails h), adipWord_fails_shown h⟩, fun l y hy => ?_,
      touched.fields, touched.dram, touched.others⟩
    rw [rd]
    exact ReadPath.heard_lane prev _ hy
  case pllHeld => exact congrArg Host.Outcome.next (wobbleLock_held h)
  case pllLocks => exact ⟨wobbleLock c hz s, rfl, wobbleLock_shown h⟩
  case poisoned => exact congrArg Host.Outcome.next ((s.whileRunning_on hr).trans (zoneFetch_poisoned hl hz h))
  case fetched =>
    refine ⟨_, congrArg Host.Outcome.next ((s.whileRunning_on hr).trans (zoneFetch_whole hl hz h)),
      State.awaitStarts_keeps _ _ _ _ State.dram fun _ _ _ => rfl, State.awaitStarts_keeps _ _ _ _ State.regs fun _ _ _ => rfl,
      State.awaitStarts_keeps _ _ _ _ State.tbl fun _ _ _ => rfl,
      fun d hd => State.awaitStarts_keeps _ _ _ _ (·.ch d) fun y _ _ => y.ch_modCh_ne _ hd, fun l => ?_⟩
    exact (State.awaitStarts_loop _ _ _ _ l).trans (if_pos (List.mem_finRange l))
  case elsewhere => exact State.zoneDue_elsewhere hz hy h
  case there =>
    intro t b
    have loaded : t = s.loadLane c lane z.bytes := State.zoneDue_there hz hy h1 h2
    rw [loaded, State.loadLane_loop]
    exact ⟨rfl, rfl, rfl, fun i hi => State.loadLane_target _ hi, fun k tap hk htap => State.loadLane_taps _ hk htap⟩
  case tap =>
    exact ⟨eqDataWrite c v.toNat (s.unmark (chRg c) 0x28 0x114 false), congrArg Host.Outcome.next (State.gated_open s hr),
      eqDataWrite_ch (s := s.unmark (chRg c) 0x28 0x114 false) _, eqDataWrite_tap (s := s.unmark (chRg c) 0x28 0x114 false) _,
      eqDataWrite_dram (s := s.unmark (chRg c) 0x28 0x114 false) _, eqDataWrite_kept (s := s.unmark (chRg c) 0x28 0x114 false) _⟩
  case block =>
    have first := s.adaptBlockLoops_work (c := c) (l := lane) (s.corrected c lane samples)
    have rest := adaptBlock_advance (s := s) (c := c) (l := lane) samples
    have all := first.trans rest.work
    refine ⟨adaptBlock c lane samples s, congrArg Host.Outcome.next (s.whileRunning_on hr),
      (rest.levels lane).1.trans (State.adaptBlockLoops_ofs _), (rest.levels lane).2.trans (State.adaptBlockLoops_gain _),
      fun l hl => ?_, fun hz hlo hhi => ?_, fun hz => ?_, all.lanes, all.touches.dram, all.touches.others⟩
    · have same := State.adaptBlockLoops_other (s := s) (c := c) (s.corrected c lane samples) hl
      exact ⟨(rest.levels l).1.trans (congrArg LaneLoops.ofs same), (rest.levels l).2.trans (congrArg LaneLoops.gain same)⟩
    · have same := State.adaptBlockLoops_asym (s := s) (c := c) (l := lane) (s.corrected c lane samples) lane
      refine (rest.asym lane ((first.asymFrozen lane).trans hz) ?_).trans same
      rw [LaneLoops.AsymInRange, same]
      exact ⟨hlo, hhi⟩
    · exact (rest.taps fun l => (first.eqFrozen l).trans (hz l)).trans (State.adaptBlockLoops_tbl _)
  case sync =>
    intro sync k win cand place
    refine ⟨fun d n hc hd hh => ?passes, fun hc hd => ?misses, fun hc => ?noChoice, fun ch hc h => ?choiceWaits,
      fun ch n hc he ho hh => ?header, fun ch hc he ho => ?tries⟩
    case passes =>
      obtain ⟨u, same, done⟩ := frameSync_passes hx hc hd hh
      obtain ⟨status, flycnt⟩ := State.frameDone_status (l := lane) (v := ⟨d, x.next, true, true, 0, 1, 0, none⟩) same passes
      exact ⟨_, congrArg Host.Outcome.next ((s.whileRunning_on hr).trans done), status, flycnt,
        State.frameDone_addr same passes rfl, State.frameDone_lane same passes hx, fun y hy hf => State.frameDone_joins same passes rfl hy hf⟩
    case misses =>
      obtain ⟨out, st, k', done, hst, hk⟩ := frameSync_misses hx hc hd
      obtain ⟨status, flycnt⟩ := State.frameDone_status (u := s) (l := lane) (v := ⟨0, x.next, false, false, out, st, k', none⟩) rfl passes
      refine ⟨_, congrArg Host.Outcome.next ((s.whileRunning_on hr).trans done), status.trans hst, flycnt.trans hk, ?_⟩
      simpa only [Int.add_zero, Bool.and_self] using State.frameDone_lane (u := s)
        (v := ⟨0, x.next, false, false, out, st, k', none⟩) rfl passes hx
    case noChoice => exact congrArg Host.Outcome.next ((s.whileRunning_on hr).trans (alignmentChoice_none hx hc))
    case choiceWaits => exact congrArg Host.Outcome.next ((s.whileRunning_on hr).trans (alignmentChoice_waits hx hc h))
    case header =>
      obtain ⟨u, same, done⟩ := alignmentChoice_passes hx hc he ho hh
      obtain ⟨status, flycnt⟩ := State.frameDone_status (l := lane)
        (v := ⟨0, x.next, true, true, 0, if s.cr c (F.BRC_LANE_STS_SYNC lane) = 0 then 0 else 1, 0, none⟩) same passes
      refine ⟨_, congrArg Host.Outcome.next ((s.whileRunning_on hr).trans done), status.trans ?_, flycnt, ?_⟩
      · dsimp only [sync]
        split <;> rfl
      · simpa only [Int.add_zero, Bool.and_self] using State.frameDone_lane
          (v := ⟨0, x.next, true, true, 0, if s.cr c (F.BRC_LANE_STS_SYNC lane) = 0 then 0 else 1, 0, none⟩) same passes hx
    case tries =>
      intro m hb ha cands
      exact ⟨_, congrArg Host.Outcome.next ((s.whileRunning_on hr).trans (alignmentChoice_tries hx hc he ho hb ha)),
        alignmentChoice_tries_shown hx cands⟩
  case flag =>
    have run : exec (if on then .brambleFlagStart c lane else .brambleFlagEnd c lane) s = .next (brambleFlag c lane on s) := by
      cases on <;> rfl
    refine ⟨fun h => run.trans (congrArg Host.Outcome.next (brambleFlag_stays h)), fun h => ?_⟩
    exact ⟨brambleFlag c lane on s, run, brambleFlag_shown h⟩
  case noDefect => exact congrArg Host.Outcome.next (defLong_none h)
  case defect => exact ⟨defLong c s, rfl, defLong_on h⟩
  case idle => exact congrArg Host.Outcome.next ((s.whileRunning_on hr).trans (ldpcDecode_idle h))
  case decoded =>
    intro d
    obtain ⟨eq, reads⟩ := ldpcDecode_first hj hk hx hf hd hs hn
    have touched := ((TouchesOnly.refl c _ s).modRd _).trans (State.frameDecided_touches (s := s.freeCore c core) (x := x) j.p f d)
    refine ⟨_, { x with frames := SMap.insert x.frames j.p (decodeBits f d) }, congrArg Host.Outcome.next ((s.whileRunning_on hr).trans eq),
      State.frameDecided_reading? d reads, ?_, by simp [decodeBits], rfl, fun p hp => ?_, touched.dram, touched.others⟩
    · rw [SMap.find?_insert, if_pos rfl]
    · rw [SMap.find?_insert, if_neg hp]
  case waits => exact congrArg Host.Outcome.next ((s.whileRunning_on hr).trans (captureRead_waits hx h))
  case captures =>
    have found := List.find?_some hx
    simp only [Bool.and_eq_true, beq_iff_eq, Bool.not_eq_true'] at found
    obtain ⟨⟨⟨rfl, -⟩, free⟩, -⟩ := found
    obtain ⟨holder, reads, sync, touched⟩ := State.beginReads_captured (List.mem_of_find?_eq_some hx) free
    exact ⟨s.beginReads c x [0], congrArg Host.Outcome.next ((s.whileRunning_on hr).trans (captureRead_free hx h)), holder, reads, sync,
      touched.dram, touched.others⟩
  case goesOn => exact congrArg Host.Outcome.next ((s.whileRunning_on hr).trans (retryStep_open hx h))
  case served =>
    rw [State.stepLeaves_eq] at hd ⊢
    obtain ⟨eq, gone⟩ := retryStep_served hx h hn h12 hd
    exact ⟨congrArg Host.Outcome.next ((s.whileRunning_on hr).trans eq), gone⟩
  case next =>
    rw [State.stepLeaves_eq] at hd hi
    obtain ⟨z, hz, hstep⟩ := retryStep_next hx h hn h12 hd hi
    exact ⟨_, z, congrArg Host.Outcome.next (s.whileRunning_on hr), hz, hstep⟩
  case lost =>
    rw [State.stepLeaves_eq] at hd hi ⊢
    obtain ⟨eq, gone⟩ := retryStep_lost hx h hn h12 hd hi
    exact ⟨congrArg Host.Outcome.next ((s.whileRunning_on hr).trans eq), gone⟩
  case noLadder => exact congrArg Host.Outcome.next (budgetExpired_none h)
  case inStep => exact congrArg Host.Outcome.next (budgetExpired_inStep hx h)
  case last =>
    obtain ⟨z, hz, hstep, hexp⟩ := budgetExpired_last hx h hn h12
    exact ⟨budgetExpired c pcn s, z, rfl, hz, hstep, hexp⟩

end Sys2Proof.Machine
end

section
/-! PROOF. The laser driver link: its queue and its traffic, and what a list of register writes leaves to be read (R124 to R128). -/

namespace Sys2Proof.Machine
open Sys2Proof

variable {s : State} {c : Fin 16}

/-! A list of register writes. -/

theorem fieldKey_eq_add (rg : Nat) (f : Fld) : fieldKey rg f = rg * 0x2000000 + fieldKey 0 f := by
  unfold fieldKey
  omega

/-- A field that a list of writes names once reads as it was written. -/
theorem State.cr_wrs_of_mem {l : List (Fld × Nat)} {fs : List Fld} (hl : l.map Prod.fst = fs) (hk : (fs.map (fieldKey 0)).Nodup) {f : Fld}
    {v : Nat} (hm : (f, v) ∈ l) : (s.wrs (chRg c) l).cr c f = v % 2 ^ f.width := by
  subst hl
  induction l generalizing s with
  | nil => simp at hm
  | cons e l ih =>
    obtain ⟨hne, hk⟩ := List.nodup_cons.mp hk
    rw [State.wrs_cons]
    rcases List.mem_cons.mp hm with rfl | hm
    · refine (State.rd_wrs_of_keys _ l fun e he hkey => hne ?_).trans (State.rd_wr_self ..)
      rw [fieldKey_eq_add, fieldKey_eq_add _ e.1, Nat.add_left_cancel_iff] at hkey
      exact List.mem_map.mpr ⟨e.1, List.mem_map.mpr ⟨e, he, rfl⟩, hkey.symm⟩
    · exact ih hm hk

theorem TouchesOnly.wrs {fs : List Fld} {r : State} (h : TouchesOnly c fs r s) {l : List (Fld × Nat)} {gs : List Fld}
    (hl : l.map Prod.fst = gs) (hg : (gs.all (·.among fs)) = true) : TouchesOnly c fs r (s.wrs (chRg c) l) := by
  subst hl
  induction l generalizing s with
  | nil => exact h
  | cons e l ih =>
    obtain ⟨he, hl⟩ := Bool.and_eq_true_iff.mp hg
    exact ih (h.cw e.2 he) hl

/-! A channel's link after a change of it. -/

theorem State.modLdi_ldi (f : Ldi → Ldi) : ((s.modLdi c f).ch c).wr.ldi = f (s.ch c).wr.ldi := by
  rw [State.modLdi, State.modWr_ch_wr]

theorem State.modCh_modCh (f g : Chan → Chan) : (s.modCh c f).modCh c g = s.modCh c (g ∘ f) := by
  simp [State.modCh, State.setCh, State.ch]

theorem State.modLdi_modLdi (f g : Ldi → Ldi) : (s.modLdi c f).modLdi c g = s.modLdi c (g ∘ f) := by
  simp only [State.modLdi, State.modWr, State.modCh_modCh]
  rfl

theorem State.answer_modLdi (o : Out) (f : Ldi → Ldi) : (s.answer o).modLdi c f = (s.modLdi c f).answer o := rfl

theorem State.modLdi_congr {f g : Ldi → Ldi} (h : f (s.ch c).wr.ldi = g (s.ch c).wr.ldi) : s.modLdi c f = s.modLdi c g := by
  simp only [State.modLdi, State.modWr, State.modCh, h]

/-- A link but for its queue and whether the first of it is on its way. -/
def Ldi.still (l : Ldi) : Ldi := { l with queue := [], busy := false }

/-- What an equality of links but for their traffic tells. -/
theorem Ldi.eqs_of_still {l m : Ldi} (h : l.still = m.still) : l.down = m.down ∧ l.due = m.due := by
  simp only [Ldi.still, Ldi.mk.injEq] at h
  simp [h]

theorem State.laserPump_only : ((s.laserPump c).ch c).wr.ldi = { (s.ch c).wr.ldi with busy := ((s.laserPump c).ch c).wr.ldi.busy } := by
  simp only [State.laserPump]
  split
  · rfl
  · split
    · rfl
    · rw [State.modLdi_ldi, State.answer_ch]

theorem State.laserPump_queue : ((s.laserPump c).ch c).wr.ldi.queue = (s.ch c).wr.ldi.queue := by rw [State.laserPump_only]

theorem State.laserPump_still : ((s.laserPump c).ch c).wr.ldi.still = (s.ch c).wr.ldi.still := by
  rw [State.laserPump_only]
  rfl

/-- A free link that is enabled takes the next transaction. -/
theorem State.laserPump_sends {t : LaserTxn} {rest : List LaserTxn} (hq : (s.ch c).wr.ldi.queue = t :: rest)
    (hb : (s.ch c).wr.ldi.busy = false) (he : s.cr c F.LDI_CTL_LINK_EN = 1) (hr : s.running (chRg c) 0x32 = true) :
    s.laserPump c = (s.answer (.laser c.val (laserWord t.rd t.addr t.data))).modLdi c fun l => { l with busy := true } := by
  simp [State.laserPump, hq, hb, he, hr]

theorem State.laserQueue_still (t : LaserTxn) : ((s.laserQueue c t).ch c).wr.ldi.still = (s.ch c).wr.ldi.still := by
  rw [State.laserQueue, State.laserPump_still, State.modLdi_ldi]
  rfl

/-- A transaction of `LDI.CMD` waits behind the others (R128). -/
theorem State.laserQueue_host {t : LaserTxn} (h : t.host.isSome = true) :
    ((s.laserQueue c t).ch c).wr.ldi.queue = (s.ch c).wr.ldi.queue ++ [t] := by
  simp [State.laserQueue, State.laserPump_queue, State.modLdi_ldi, h]

theorem State.foldl_still {α : Type} {g : State → α → State} (hg : ∀ x a, ((g x a).ch c).wr.ldi.still = (x.ch c).wr.ldi.still)
    (l : List α) (s : State) : ((l.foldl g s).ch c).wr.ldi.still = (s.ch c).wr.ldi.still := by
  induction l generalizing s with
  | nil => rfl
  | cons a l ih => exact (ih _).trans (hg s a)

theorem State.sendReadLevels_none (h : (s.ch c).wr.ldi.due = []) : s.sendReadLevels c = s := by
  simp [State.sendReadLevels, h]

/-- Read levels that waited are sent and wait no more. -/
theorem State.sendReadLevels_still : ((s.sendReadLevels c).ch c).wr.ldi.still = { (s.ch c).wr.ldi with due := [] }.still := by
  by_cases h : (s.ch c).wr.ldi.due = []
  · rw [State.sendReadLevels_none h, ← h]
  · have sent (l : List Nat) (u : State) := State.foldl_still (c := c)
      (g := fun x b => x.laser c false (0x10 + b) (x.cr c (F.LDI_READ b))) (fun _ _ => State.laserQueue_still _) l u
    rw [State.sendReadLevels, if_neg (by simpa using h), State.laser, State.laserQueue_still, sent, State.modLdi_ldi]

end Sys2Proof.Machine
end

section
/-! PROOF. The commands of the laser driver link: a transaction answered or failed, polls, transactions of `LDI.CMD` and read levels (R124
to R128). -/

namespace Sys2Proof.Machine
open Sys2Proof

variable {s : State} {c : Fin 16} {t : LaserTxn} {rest : List LaserTxn} {rx : Nat}

/-! What an answer shows (Table 4-10). -/

theorem State.hostRsp_ch (data status : Nat) (crcErr : Bool) (e : Fin 16) : (s.hostRsp c data status crcErr).ch e = s.ch e := by
  simp [State.hostRsp, State.ch]

/-- The register in which a transaction of `LDI.CMD` is answered. -/
def rspFields : List Fld := [F.LDI_RSP_DATA, F.LDI_RSP_STATUS, F.LDI_RSP_CRC_ERR, F.LDI_RSP_DONE, F.LDI_RSP_BUSY]

theorem State.hostRsp_shown (data status : Nat) (crcErr : Bool) :
    (s.hostRsp c data status crcErr).cr c F.LDI_RSP_DATA = data % 2 ^ 16 ∧ (s.hostRsp c data status crcErr).cr c F.LDI_RSP_DONE = 1 ∧
      (s.hostRsp c data status crcErr).cr c F.LDI_RSP_CRC_ERR = b2n crcErr := by
  have shown {f : Fld} {v : Nat} := State.cr_wrs_of_mem (s := s) (c := c) (fs := rspFields) (f := f) (v := v)
    (l := [(F.LDI_RSP_DATA, data), (F.LDI_RSP_STATUS, status), (F.LDI_RSP_CRC_ERR, b2n crcErr), (F.LDI_RSP_DONE, 1),
      (F.LDI_RSP_BUSY, b2n ((s.ch c).wr.ldi.queue.any (·.host.isSome)))]) rfl (by decide)
  refine ⟨shown (by simp), shown (v := 1) (by simp), (shown (v := b2n crcErr) (by simp)).trans ?_⟩
  cases crcErr <;> rfl

theorem State.hostRsp_touches (data status : Nat) (crcErr : Bool) : TouchesOnly c rspFields s (s.hostRsp c data status crcErr) :=
  (TouchesOnly.refl c _ s).wrs (gs := rspFields) rfl (by decide)

theorem State.driverAnswers_ldi : ((s.driverAnswers c).ch c).wr.ldi = { (s.ch c).wr.ldi with ask := false } := by
  simp only [State.driverAnswers]
  split
  next h => rw [← show (s.ch c).wr.ldi.ask = false by simpa using h]
  next =>
    refine (congrArg (·.wr.ldi) (State.showPins_ch c)).trans ?_
    rw [State.ch, State.wrs_chans]
    exact State.modLdi_ldi _

/-! A transaction ends (R124, R126). -/

theorem laserAnswer_none (h : (s.ch c).wr.ldi.queue = [] ∨ (s.ch c).wr.ldi.busy = false) : laserAnswer c rx s = s := by
  rcases h with h | h
  · simp only [laserAnswer, h]
  · cases hq : (s.ch c).wr.ldi.queue with
    | nil => simp only [laserAnswer, hq]
    | cons t rest => simp only [laserAnswer, hq, h]; rfl

/-- LAST_REJECTED stands in bit 3 of the status byte. -/
theorem bitAt_status_three (rx : Nat) : bitAt (bitsAt rx 24 8) 3 = bitAt rx 27 := by
  simp only [bitAt, bitsAt]
  congr 1
  omega

/-- The link freed by the end of the transaction `t`, with `rest` behind it. -/
def State.ended (s : State) (c : Fin 16) (t : LaserTxn) (rest : List LaserTxn) : State :=
  s.modLdi c fun l => { l with busy := false, last := some t, good := 0, queue := rest }

/-- The driver's word `rx` taken as the good answer to `t`. -/
def State.accepted (s : State) (c : Fin 16) (t : LaserTxn) (rest : List LaserTxn) (rx : Nat) : State :=
  let l := (s.ch c).wr.ldi
  let status := bitsAt rx 24 8
  ((s.ended c t rest).modLdi c fun x => { x with
    good := l.good + 1
    fault := s.statusFault c status
    fclr := l.fclr || (!t.rd && t.addr == 0x1B && bitAt t.data 0)
    clean := (l.clean && !(bitAt status 0 || bitAt status 1)) ||
      (l.fclr && t.rd && t.addr == 0x1A && !bitAt status 0 && !bitAt status 1) }).driverAnswers c

theorem State.accepted_link : ((s.accepted c t rest rx).ch c).wr.ldi.queue = rest ∧
    ((s.accepted c t rest rx).ch c).wr.ldi.busy = false ∧
    ((s.accepted c t rest rx).ch c).wr.ldi.last = some t ∧ ((s.accepted c t rest rx).ch c).wr.ldi.good = (s.ch c).wr.ldi.good + 1 := by
  simp only [State.accepted, State.driverAnswers_ldi, State.modLdi_ldi, State.ended, and_self]

/-- A failure is counted. -/
theorem State.laserFail_counted (status : Nat) :
    (s.laserFail c t rest status).cr c F.LDI_STS_CRC_ERRS = min (s.cr c F.LDI_STS_CRC_ERRS + 1) 255 := by
  have counted : (s.incSat (chRg c) F.LDI_STS_CRC_ERRS).cr c F.LDI_STS_CRC_ERRS = min (s.cr c F.LDI_STS_CRC_ERRS + 1) 255 :=
    State.incSat_rd_self s _ _ _
  simp only [State.laserFail]
  split
  · split
    · exact ((State.hostRsp_touches _ _ _).cr (by decide)).trans counted
    · exact counted
  · exact counted

theorem State.laserFail_busy (status : Nat) : ((s.laserFail c t rest status).ch c).wr.ldi.busy = (s.ch c).wr.ldi.busy := by
  simp only [State.laserFail]
  split
  · split
    · rw [State.hostRsp_ch, State.modLdi_ldi, State.incSat_ch]
    · rw [State.modLdi_ldi, State.incSat_ch]
  · rw [State.modLdi_ldi, State.incSat_ch]

/-- A transaction that failed less than three times comes first again (R126). -/
theorem State.laserFail_again (h : t.fails < 2) (status : Nat) : ((s.laserFail c t rest status).ch c).wr.ldi =
    { (s.ch c).wr.ldi with queue := { t with fails := t.fails + 1 } :: rest } := by
  simp only [State.laserFail, if_neg (Nat.not_le.mpr h), State.modLdi_ldi, State.incSat_ch]

/-- The third failure gives a transaction up (R126). -/
theorem State.laserFail_over (h : 2 ≤ t.fails) (status : Nat) : ((s.laserFail c t rest status).ch c).wr.ldi.down = true ∧
    (t.host.isSome → (s.laserFail c t rest status).cr c F.LDI_RSP_CRC_ERR = 1 ∧
      (s.laserFail c t rest status).cr c F.LDI_RSP_DONE = 1) := by
  simp only [State.laserFail, if_pos h]
  split
  · obtain ⟨-, hdone, herr⟩ := ((s.incSat (chRg c) F.LDI_STS_CRC_ERRS).modLdi c fun l => { l with
      queue := if t.host = some 1 then rest.drop 1 else rest, down := true }).hostRsp_shown (c := c) 0 status true
    exact ⟨by rw [State.hostRsp_ch, State.modLdi_ldi], fun _ => ⟨herr, hdone⟩⟩
  next hn => exact ⟨by rw [State.modLdi_ldi], fun hh => absurd hh hn⟩

section Answered
variable (hq : (s.ch c).wr.ldi.queue = t :: rest) (hb : (s.ch c).wr.ldi.busy = true)
include hq hb

theorem laserAnswer_accepted (hok : laserOk rx = true) (hr : bitAt rx 27 = false) : laserAnswer c rx s =
    (if t.host = some 0 ∨ t.host = some 2
      then (s.accepted c t rest rx).hostRsp c (if t.rd then bitsAt rx 8 16 else 0) (bitsAt rx 24 8) false
      else s.accepted c t rest rx).laserPump c := by
  simp only [laserAnswer, hq, hb, hok, bitAt_status_three, hr]
  rfl

theorem laserAnswer_failed (hok : laserOk rx = false) :
    laserAnswer c rx s = ((s.ended c t rest).laserFail c t rest (bitsAt rx 24 8)).laserPump c := by
  simp only [laserAnswer, hq, hb, hok]
  rfl

/-- A transaction whose word passes ends, and its answer is shown where `LDI.CMD` asked for it. -/
theorem laserAnswer_good (hok : laserOk rx = true) (hr : bitAt rx 27 = false) : ∃ u : State, laserAnswer c rx s = u.laserPump c ∧
    (u.ch c).wr.ldi.queue = rest ∧ (u.ch c).wr.ldi.busy = false ∧ (u.ch c).wr.ldi.last = some t ∧
    (u.ch c).wr.ldi.good = (s.ch c).wr.ldi.good + 1 ∧
    (t.host = some 0 ∨ t.host = some 2 → u.cr c F.LDI_RSP_DATA = (if t.rd then bitsAt rx 8 16 else 0) ∧ u.cr c F.LDI_RSP_DONE = 1 ∧
      u.cr c F.LDI_RSP_CRC_ERR = 0) := by
  obtain ⟨hqueue, hbusy, hlast, hgood⟩ := s.accepted_link (c := c) (t := t) (rest := rest) (rx := rx)
  refine ⟨_, laserAnswer_accepted hq hb hok hr, ?_⟩
  split
  next =>
    obtain ⟨hdata, hdone, herr⟩ := (s.accepted c t rest rx).hostRsp_shown (c := c) (if t.rd then bitsAt rx 8 16 else 0)
      (bitsAt rx 24 8) false
    rw [State.hostRsp_ch]
    refine ⟨hqueue, hbusy, hlast, hgood, fun _ => ⟨hdata.trans ?_, hdone, herr⟩⟩
    split
    · exact Nat.mod_eq_of_lt (Nat.mod_lt _ (by decide))
    · rfl
  next hn => exact ⟨hqueue, hbusy, hlast, hgood, fun h => absurd h hn⟩

/-- A transaction whose word fails its CRC is counted, and repeated first or given up (R126). -/
theorem laserAnswer_bad (hok : laserOk rx = false) : ∃ u : State, laserAnswer c rx s = u.laserPump c ∧ (u.ch c).wr.ldi.busy = false ∧
    u.cr c F.LDI_STS_CRC_ERRS = min (s.cr c F.LDI_STS_CRC_ERRS + 1) 255 ∧
    (t.fails < 2 → (u.ch c).wr.ldi.queue = { t with fails := t.fails + 1 } :: rest ∧ (u.ch c).wr.ldi.down = (s.ch c).wr.ldi.down) ∧
    (2 ≤ t.fails → (u.ch c).wr.ldi.down = true ∧
      (t.host.isSome → u.cr c F.LDI_RSP_CRC_ERR = 1 ∧ u.cr c F.LDI_RSP_DONE = 1)) := by
  refine ⟨_, laserAnswer_failed hq hb hok, ?_, State.laserFail_counted _, fun h => ?_, fun h => State.laserFail_over h _⟩
  · rw [State.laserFail_busy, State.ended, State.modLdi_ldi]
  · rw [State.laserFail_again h, State.ended, State.modLdi_ldi]
    exact ⟨rfl, rfl⟩

end Answered

/-! Polls, and transactions of `LDI.CMD` (R127, R128). -/

theorem statusPoll_none (h : (s.ch c).wr.session = .idle ∨ (s.ch c).wr.ldi.queue ≠ []) : statusPoll c s = s :=
  if_pos (by simpa using h)

theorem statusPoll_sends (hs : (s.ch c).wr.session ≠ .idle) (hq : (s.ch c).wr.ldi.queue = []) (hb : (s.ch c).wr.ldi.busy = false)
    (he : s.cr c F.LDI_CTL_LINK_EN = 1) (hr : s.running (chRg c) 0x32 = true) : statusPoll c s =
    (s.modLdi c fun l => { l with queue := [⟨true, 0x1A, 0, none, 0⟩], busy := true }).answer
      (.laser c.val (laserWord true 0x1A 0)) := by
  have queued : ((s.modLdi c fun l => { l with queue := [⟨true, 0x1A, 0, none, 0⟩] }).ch c).wr.ldi =
      { (s.ch c).wr.ldi with queue := [⟨true, 0x1A, 0, none, 0⟩] } := State.modLdi_ldi _
  calc statusPoll c s = s.laser c true 0x1A 0 := if_neg (by simp [hs, hq])
    _ = (s.modLdi c fun l => { l with queue := [⟨true, 0x1A, 0, none, 0⟩] }).laserPump c := by
      unfold State.laser State.laserQueue
      refine congrArg (State.laserPump · c) (State.modLdi_congr ?_)
      simp [hq, hb]
    _ = ((s.modLdi c fun l => { l with queue := [⟨true, 0x1A, 0, none, 0⟩] }).modLdi c fun l => { l with busy := true }).answer
        (.laser c.val (laserWord true 0x1A 0)) := by
      rw [State.laserPump_sends (congrArg Ldi.queue queued) ((congrArg Ldi.busy queued).trans hb) he hr, State.answer_modLdi]
    _ = _ := by rw [State.modLdi_modLdi]; rfl

/-- The fields of the answer register that a command of `LDI.CMD` sets. -/
def cmdFields : List Fld := [F.LDI_RSP_REFUSED, F.LDI_RSP_CRC_ERR, F.LDI_RSP_DONE, F.LDI_RSP_BUSY]

theorem hostLaser_refused {addr : Nat} (data : Nat) (hs : (s.ch c).wr.session ≠ .idle) (ha : addr % 128 ≤ 0x19) :
    (hostLaser c false addr data s).cr c F.LDI_RSP_REFUSED = 1 ∧ (hostLaser c false addr data s).cr c F.LDI_RSP_DONE = 1 ∧
      (hostLaser c false addr data s).chans = s.chans := by
  have h : hostLaser c false addr data s = s.wrs (chRg c) [(F.LDI_RSP_REFUSED, 1), (F.LDI_RSP_CRC_ERR, 0), (F.LDI_RSP_DONE, 1)] :=
    if_pos (by simp [hs, ha])
  rw [h]
  exact ⟨State.cr_wrs_of_mem (fs := cmdFields.take 3) (v := 1) rfl (by decide) (by simp),
    State.cr_wrs_of_mem (fs := cmdFields.take 3) (v := 1) rfl (by decide) (by simp), State.wrs_chans ..⟩

theorem hostLaser_queued {rd : Bool} {addr : Nat} (data : Nat) (h : (s.ch c).wr.session = .idle ∨ rd = true ∨ 0x19 < addr % 128) :
    (hostLaser c rd addr data s).cr c F.LDI_RSP_REFUSED = 0 ∧ (hostLaser c rd addr data s).cr c F.LDI_RSP_DONE = 0 ∧
      (hostLaser c rd addr data s).cr c F.LDI_RSP_BUSY = 1 ∧ ((hostLaser c rd addr data s).ch c).wr.ldi.queue =
        (s.ch c).wr.ldi.queue ++ (if rd then [⟨true, addr % 128, 0, some 1, 0⟩, ⟨true, addr % 128, 0, some 2, 0⟩]
          else [⟨false, addr % 128, data % 65536, some 0, 0⟩]) := by
  obtain ⟨u, hu⟩ : ∃ u, u = s.wrs (chRg c)
      [(F.LDI_RSP_REFUSED, 0), (F.LDI_RSP_CRC_ERR, 0), (F.LDI_RSP_DONE, 0), (F.LDI_RSP_BUSY, 1)] := ⟨_, rfl⟩
  have run : hostLaser c rd addr data s =
      if rd then (u.laserQueue c ⟨true, addr % 128, 0, some 1, 0⟩).laserQueue c ⟨true, addr % 128, 0, some 2, 0⟩
      else u.laserQueue c ⟨false, addr % 128, data % 65536, some 0, 0⟩ := by
    rw [hu]
    refine if_neg ?_
    rcases h with h | h | h
    · simp [h]
    · simp [h]
    · simp [Nat.not_le.mpr h]
  have touched : TouchesOnly c [] u (hostLaser c rd addr data s) := by
    rw [run]
    exact (((TouchesOnly.refl c [] u).laserQueue _).laserQueue _).ite ((TouchesOnly.refl c [] u).laserQueue _)
  have set {f : Fld} {v : Nat} (hm : (f, v) ∈ _) : u.cr c f = v % 2 ^ f.width :=
    hu ▸ State.cr_wrs_of_mem (fs := cmdFields) rfl (by decide) hm
  refine ⟨(touched.cr (by decide)).trans (set (v := 0) (by simp)), (touched.cr (by decide)).trans (set (v := 0) (by simp)),
    (touched.cr (by decide)).trans (set (v := 1) (by simp)), ?_⟩
  have hch : u.ch c = s.ch c := by simp only [hu, State.ch, State.wrs_chans]
  rw [run, ← hch]
  split
  · rw [State.laserQueue_host rfl, State.laserQueue_host rfl, List.append_assoc]
    rfl
  · exact State.laserQueue_host rfl

/-! Read levels (Table 4-10). -/

section ReadLevel
variable (b : Fin 8) (level : Nat)

/-- A read level stored, its beam among those to be sent. -/
def State.levelDue (s : State) (c : Fin 16) (b : Fin 8) (level : Nat) : State :=
  (s.cw c (F.LDI_READ b) level).modLdi c fun l => { l with due := if l.due.contains b.val then l.due else l.due ++ [b.val] }

theorem readLevel_eq : readLevel c b level s =
    if (s.ch c).wr.session = .idle then (s.levelDue c b level).sendReadLevels c else s.levelDue c b level := rfl

theorem readLevel_stored {level : Nat} (h : level < 1024) : (readLevel c b level s).cr c (F.LDI_READ b) = level := by
  have placed : ∀ b : Fin 8, (F.LDI_READ b).outside [] = true := by decide
  have sent : TouchesOnly c [] (s.levelDue c b level) (readLevel c b level s) :=
    (TouchesOnly.refl c [] _).sendReadLevels.ite (.refl c [] _)
  exact (sent.cr (placed b)).trans ((State.cr_cw_self s c (F.LDI_READ b) level).trans (Nat.mod_eq_of_lt h))

theorem readLevel_sent (h : (s.ch c).wr.session = .idle) : ((readLevel c b level s).ch c).wr.ldi.due = [] := by
  rw [readLevel_eq, if_pos h]
  exact (Ldi.eqs_of_still State.sendReadLevels_still).2

/-- A level written during a session waits for its end (log 80). -/
theorem readLevel_waits (h : (s.ch c).wr.session ≠ .idle) :
    b.val ∈ ((readLevel c b level s).ch c).wr.ldi.due ∧ ((readLevel c b level s).ch c).wr.ldi.queue = (s.ch c).wr.ldi.queue := by
  rw [readLevel_eq, if_neg h, State.levelDue, State.modLdi_ldi, State.cw_ch]
  refine ⟨?_, rfl⟩
  dsimp only
  split
  next hb => exact List.contains_iff_mem.mp hb
  next => simp

end ReadLevel

end Sys2Proof.Machine
end

section
/-! PROOF. What of a write chain outlasts every end of a session: the test run and the link error. With it what a stop, the records of the
anchor zone and their anchors leave as it was, whether or not a session is on (R45, R52, R126, R137, R145). -/

namespace Sys2Proof.Machine
open Sys2Proof

variable {s : State} {c : Fin 16}

/-- The test run of a channel, and whether a link error awaits its event. -/
def State.outlasting (s : State) (c : Fin 16) : Option TestRun × Bool := ((s.ch c).wr.testRun, (s.ch c).wr.ldi.down)

theorem State.outlasting_of_ch {t : State} (h : (t.ch c).wr = (s.ch c).wr) : t.outlasting c = s.outlasting c := by
  simp only [State.outlasting, h]

/-- What an equality of what outlasts sessions tells. -/
theorem State.eqs_of_outlasting {t : State} (h : t.outlasting c = s.outlasting c) : (t.ch c).wr.testRun = (s.ch c).wr.testRun ∧
    (t.ch c).wr.ldi.down = (s.ch c).wr.ldi.down := Prod.mk.inj h

@[simp] theorem State.cw_outlasting (f : Fld) (v : Nat) : (s.cw c f v).outlasting c = s.outlasting c := rfl

@[simp] theorem State.answer_outlasting (o : Out) : (s.answer o).outlasting c = s.outlasting c := rfl

@[simp] theorem State.cirq_outlasting (p bit : Nat) : (s.cirq c p bit).outlasting c = s.outlasting c :=
  State.outlasting_of_ch (by rw [State.cirq_ch])

@[simp] theorem State.cnt_outlasting (i n : Nat) : (s.cnt c i n).outlasting c = s.outlasting c :=
  State.outlasting_of_ch (by rw [State.cnt_ch])

@[simp] theorem State.modDisc_outlasting (f : Disc → Disc) : (s.modDisc c f).outlasting c = s.outlasting c :=
  State.outlasting_of_ch (State.modDisc_ch_wr s c f)

@[simp] theorem State.quality_outlasting (i : Nat) : (s.quality c i).outlasting c = s.outlasting c :=
  State.outlasting_of_ch (by rw [State.quality, State.ch_modCh_self])

theorem State.modWr_outlasting {f : WriteChain → WriteChain} (hf : ∀ w, (f w).testRun = w.testRun ∧ (f w).ldi.down = w.ldi.down) :
    (s.modWr c f).outlasting c = s.outlasting c := by
  simp only [State.outlasting, State.modWr_ch_wr, hf]

theorem State.foldl_outlasting {α : Type} {g : State → α → State} (hg : ∀ x a, (g x a).outlasting c = x.outlasting c) (l : List α)
    (s : State) : (l.foldl g s).outlasting c = s.outlasting c := by
  induction l generalizing s with
  | nil => rfl
  | cons a l ih => exact (ih _).trans (hg s a)

theorem State.ite_outlasting {p : Prop} [Decidable p] {r t : State} (h : s.outlasting c = r.outlasting c)
    (k : t.outlasting c = r.outlasting c) : (if p then s else t).outlasting c = r.outlasting c := by
  split
  · exact h
  · exact k

/-! The end of a session. -/

theorem State.sendReadLevels_outlasting : (s.sendReadLevels c).outlasting c = s.outlasting c := by
  have run := congrArg WriteChain.testRun (State.sendReadLevels_chain (s := s) (c := c))
  exact Prod.ext run (Ldi.eqs_of_still State.sendReadLevels_still).1

@[simp] theorem State.setSession_outlasting (x : Session) : (s.setSession c x).outlasting c = s.outlasting c := by
  have set : ((s.modWr c fun w => { w with session := x }).cw c F.WRC_STS_STATE x.code).outlasting c = s.outlasting c :=
    (State.cw_outlasting _ _).trans (State.modWr_outlasting fun _ => ⟨rfl, rfl⟩)
  exact State.ite_outlasting (State.sendReadLevels_outlasting.trans set) set

theorem WriteChain.returned_outlasting (w : WriteChain) : w.returned.testRun = w.testRun ∧ w.returned.ldi = w.ldi := by
  rw [WriteChain.returned, w.dropReserved_only]
  exact ⟨rfl, rfl⟩

@[simp] theorem State.returnUnbegun_outlasting : (s.returnUnbegun c).outlasting c = s.outlasting c := by
  obtain ⟨hrun, hldi⟩ := (s.ch c).wr.returned_outlasting
  simp only [State.outlasting, State.returnUnbegun_wr, hrun, hldi]

@[simp] theorem State.endAtBoundary_outlasting : (s.endAtBoundary c).outlasting c = s.outlasting c := by
  simp only [State.endAtBoundary]
  split
  · split <;> simp
  · rfl

/-! Records and anchors. -/

@[simp] theorem State.writeArea_outlasting (pcn : Nat) (ks : List Content) (link : Bool) :
    (s.writeArea c pcn ks link).outlasting c = s.outlasting c := by
  induction ks generalizing s pcn link with
  | nil => rfl
  | cons k ks ih =>
    refine (ih _ _).trans ((State.cnt_outlasting _ _).trans ?_)
    exact State.modWr_outlasting fun _ => ⟨rfl, rfl⟩

@[simp] theorem State.writeRecords_outlasting (pcn : Nat) (ks : List Content) :
    (s.writeRecords c pcn ks).outlasting c = s.outlasting c := by simp [State.writeRecords]

theorem State.putRecords_outlasting : (s.putRecords c).outlasting c = s.outlasting c := by
  unfold State.putRecords
  split
  · rfl
  · refine State.ite_outlasting rfl ?_
    simp only [State.modDisc_outlasting, State.writeRecords_outlasting]
    exact State.modWr_outlasting fun _ => ⟨rfl, rfl⟩

@[simp] theorem State.putAnchor_outlasting (reason : Nat) (k : Option Ckpt) : (s.putAnchor c reason k).outlasting c = s.outlasting c := by
  unfold State.putAnchor
  split
  · rfl
  · exact State.ite_outlasting rfl (by simp)

@[simp] theorem State.slipAnchors_outlasting : (s.slipAnchors c).outlasting c = s.outlasting c := by
  refine State.foldl_outlasting (fun x _ => ?_) _ s
  unfold State.slipAnchor
  split
  · rfl
  · exact State.ite_outlasting (by simp) rfl

@[simp] theorem State.addSlips_outlasting (ps : List Nat) : (s.addSlips c ps).outlasting c = s.outlasting c := by
  unfold State.addSlips
  split
  · rfl
  · exact State.ite_outlasting rfl (by simp)

/-! Stops. -/

@[simp] theorem State.endSession_outlasting (code : Nat) : (s.endSession c code).outlasting c = s.outlasting c := by
  rw [State.endSession, State.setSession_outlasting, State.modWr_outlasting, State.cw_outlasting, State.returnUnbegun_outlasting]
  exact fun _ => ⟨rfl, rfl⟩

@[simp] theorem State.cutCluster_outlasting (p : Placed) (row : Nat) (safety : Bool) :
    (s.cutCluster c p row safety).outlasting c = s.outlasting c := by
  have counted (u : State) : ((if row ≤ 8 then (u.cnt c 6).quality c 16 else u).cirq c 0x30 0).outlasting c = u.outlasting c :=
    (State.cirq_outlasting _ _).trans (State.ite_outlasting (by simp) rfl)
  unfold State.cutCluster
  refine (counted _).trans ?_
  rw [State.cw_outlasting, State.cw_outlasting, State.modWr_outlasting, State.answer_outlasting]
  exact fun _ => ⟨rfl, rfl⟩

theorem State.finishStop_outlasting (row code : Nat) (safety : Bool) : (s.finishStop c row code safety).outlasting c = s.outlasting c := by
  by_cases hs : (s.ch c).wr.session = .armed
  · rw [State.finishStop_whole (.inl hs), State.endSession_outlasting]
  cases hp : (s.ch c).wr.writing with
  | none => rw [State.finishStop_whole (.inr hp), State.endSession_outlasting]
  | some p =>
    rw [State.finishStop_writing hs hp]
    refine State.ite_outlasting ?_ (by simp)
    rw [State.endGates, State.modWr_outlasting, State.answer_outlasting, State.endSession_outlasting]
    exact fun _ => ⟨rfl, rfl⟩

theorem State.assertKill_outlasting (why : Nat) : (s.assertKill c why).outlasting c = s.outlasting c := by
  simp only [State.outlasting, State.assertKill_wr, WriteChain.withCause]

theorem State.safetyStop_outlasting (row code : Nat) : (s.safetyStop c row code).outlasting c = s.outlasting c := by
  refine State.ite_outlasting rfl ?_
  rw [State.finishStop_outlasting, State.cirq_outlasting, State.assertKill_outlasting]

/-! The registers that records reach. -/

/-- The registers that a record of the anchor zone may reach: those of the session that ends before it, and those of the count of its
clusters. -/
def recordFields : List Fld := [F.WRC_WPTR, F.WRC_STS_STATE, F.CNT_SAT, F.HDR_IRQ_RAW 0x59]

theorem State.setSession_touches {fs : List Fld} {r : State} (h : TouchesOnly c fs r s) (x : Session)
    (hf : F.WRC_STS_STATE.among fs = true) : TouchesOnly c fs r (s.setSession c x) := by
  have set := (h.modWr fun w => { w with session := x }).cw x.code hf
  exact set.sendReadLevels.ite set

theorem State.endAtBoundary_touches : TouchesOnly c recordFields s (s.endAtBoundary c) := by
  have back := (TouchesOnly.refl c recordFields s).returnUnbegun (by decide)
  simp only [State.endAtBoundary]
  exact ((State.setSession_touches back _ (by decide)).ite (State.setSession_touches back _ (by decide))).ite (.refl c _ s)

theorem State.writeRecords_touches (pcn : Nat) (ks : List Content) : TouchesOnly c recordFields s (s.writeRecords c pcn ks) :=
  State.endAtBoundary_touches.trans (((AnchorsOnly.refl c _).writeArea pcn ks true).touches.mono (by simp [anchorFields, recordFields]))

theorem State.putRecords_touches : TouchesOnly c recordFields s (s.putRecords c) := by
  unfold State.putRecords
  split
  · exact .refl c _ s
  · exact (TouchesOnly.refl c _ s).ite ((((TouchesOnly.refl c _ s).modWr _).trans (State.writeRecords_touches _ _)).modDisc _)

end Sys2Proof.Machine
end

section
/-! PROOF. A link error asserts the kill line and ends the session (R126, R129). -/

namespace Sys2Proof.Machine
open Sys2Proof

variable {s : State} {c : Fin 16} {row why : Nat}

/-- An event leaves the bits of its `IRQ_RAW` that were set. -/
theorem State.cirq_keeps_bit {p bit i : Nat} (hp : shadowPage p = false) (hi : i < 32) (h : bitAt (s.cr c (F.HDR_IRQ_RAW p)) i = true) :
    bitAt ((s.cirq c p bit).cr c (F.HDR_IRQ_RAW p)) i = true := by
  rw [bitAt_eq_testBit] at h
  rw [State.cirq_cr_raw s c bit hp, bitAt_eq_testBit, Nat.testBit_mod_two_pow, Nat.testBit_or, h]
  simp [hi]

theorem State.assertKill_keeps_bit {i : Nat} (hi : i < 32) (h : bitAt (s.cr c (F.HDR_IRQ_RAW 0x32)) i = true) :
    bitAt ((s.assertKill c why).cr c (F.HDR_IRQ_RAW 0x32)) i = true := by
  rw [State.assertKill_eq]
  extract_lets u
  have kept : u.cr c (F.HDR_IRQ_RAW 0x32) = s.cr c (F.HDR_IRQ_RAW 0x32) := State.cr_cw_apart _ 1 (by decide)
  split
  · rwa [kept]
  · refine State.cirq_keeps_bit (by decide) hi ?_
    rwa [State.cr_cw_apart _ _ (by decide), State.answer_cr, kept]

theorem State.safetyStop_keeps_bit {code i : Nat} (hi : i < 32) (h : bitAt (s.cr c (F.HDR_IRQ_RAW 0x32)) i = true) :
    bitAt ((s.safetyStop c row code).cr c (F.HDR_IRQ_RAW 0x32)) i = true := by
  by_cases hs : (s.ch c).wr.session = .idle
  · rwa [State.safetyStop_idle hs]
  · rw [(State.safetyStop_stopped hs).touches.cr (by decide), State.alarm, State.cirq_cr_apart _ (by decide)]
    exact State.assertKill_keeps_bit hi h

theorem WriteChain.withCause_session (w : WriteChain) : (w.withCause why).session = w.session := rfl

theorem State.safetyStop_session (code : Nat) : ((s.safetyStop c row code).ch c).wr.session = .idle := by
  by_cases hs : (s.ch c).wr.session = .idle
  · rwa [State.safetyStop_idle hs]
  · exact (State.safetyStop_stopped hs).idle

/-- The third failure in succession taken note of, its event raised. -/
def State.linkDown (s : State) (c : Fin 16) : State := (s.modLdi c fun l => { l with down := false, good := 0 }).cirq c 0x32 1

theorem laserLinkError_none (h : (s.ch c).wr.ldi.down = false) : laserLinkError c row s = s := if_pos (by simp [h])

theorem laserLinkError_down (h : (s.ch c).wr.ldi.down = true) :
    laserLinkError c row s = ((s.linkDown c).safetyStop c row 22).assertKill c 22 := if_neg (by simp [h])

theorem laserLinkError_stops (h : (s.ch c).wr.ldi.down = true) : ((laserLinkError c row s).ch c).wr.ldi.down = false ∧
    bitAt ((laserLinkError c row s).cr c (F.HDR_IRQ_RAW 0x32)) 1 = true ∧ (laserLinkError c row s).cr c F.LDI_STS_KILL_PIN = 1 ∧
    (laserLinkError c row s).cr c F.LDI_STS_KILL_LATCH = 1 ∧ 22 ∈ ((laserLinkError c row s).ch c).wr.killWhy ∧
    ((laserLinkError c row s).ch c).wr.session = .idle := by
  rw [laserLinkError_down h]
  have noted : (((s.linkDown c).ch c).wr.ldi).down = false := by rw [State.linkDown, State.cirq_ch, State.modLdi_ldi]
  refine ⟨?_, ?_, State.assertKill_killed.2, State.assertKill_killed.1, ?_, ?_⟩
  · rw [(State.eqs_of_outlasting (State.assertKill_outlasting 22)).2,
      (State.eqs_of_outlasting (State.safetyStop_outlasting row 22)).2, noted]
  · exact State.assertKill_keeps_bit (by decide)
      (State.safetyStop_keeps_bit (by decide) (State.cirq_bit (by decide) (by decide)))
  · rw [State.assertKill_wr]
    exact WriteChain.mem_withCause _ _
  · rw [State.assertKill_wr, WriteChain.withCause_session, State.safetyStop_session]

end Sys2Proof.Machine
end

section
/-! PROOF. A test-area run starts where nothing forbids it, and ends with every beam's choice and fault (R142 to R146). -/

namespace Sys2Proof.Machine
open Sys2Proof

variable {s : State} {c : Fin 16} {r : TestRun}

/-! The start. -/

theorem testAreaRun_refused (h : s.mayTest c = false) : testAreaRun c s = s.errOpen (chRg c) 0x30 0x128 2 := if_pos (by simp [h])

theorem testAreaRun_started (h : s.mayTest c = true) :
    testAreaRun c s = s.testStart c ⟨s.cr c F.WRC_TEST_CTL_LAYER, s.cr c F.WRC_TEST_CTL_SLOT, none, false⟩ := if_neg (by simp [h])

theorem State.testStart_shown (r : TestRun) : (s.testStart c r).cr c F.WRC_TEST_STS_DONE = 0 ∧
    (s.testStart c r).cr c F.WRC_TEST_STS_FAIL = 0 ∧ ((s.testStart c r).ch c).wr.testRun = some r := by
  have kept (f : Fld) : (s.testStart c r).cr c f =
      (s.wrs (chRg c) [(F.WRC_TEST_STS_DONE, 0), (F.WRC_TEST_STS_FAIL, 0)]).cr c f := State.modCh_cr ..
  have shown {f : Fld} {v : Nat} := State.cr_wrs_of_mem (s := s) (c := c) (f := f) (v := v)
    (l := [(F.WRC_TEST_STS_DONE, 0), (F.WRC_TEST_STS_FAIL, 0)]) (fs := [F.WRC_TEST_STS_DONE, F.WRC_TEST_STS_FAIL]) rfl (by decide)
  refine ⟨(kept _).trans (shown (v := 0) (by simp)), (kept _).trans (shown (v := 0) (by simp)), ?_⟩
  rw [State.testStart, State.modWr_ch_wr]

/-! The measured means are marks of at most 255. -/

theorem sum_div_le {l : List Nat} {n : Nat} (h : ∀ x ∈ l, x ≤ n) : l.sum / max 1 l.length ≤ n := by
  have hs : l.sum ≤ l.length * n := by simpa using List.sum_le_card_nsmul l n h
  refine Nat.div_le_of_le_mul (hs.trans ?_)
  exact Nat.mul_le_mul_right n (Nat.le_max_right 1 _)

theorem State.stepMeans_le (b : Nat) (signals : List (List Nat)) (k : Nat) : (s.stepMeans c r b signals).getD k 0 ≤ 255 := by
  have none (l : List Nat) (h : ∀ x ∈ l, x ≤ 255) : l.getD k 0 ≤ 255 := by
    rw [List.getD_eq_getElem?_getD]
    cases hk : l[k]? with
    | none => exact Nat.zero_le _
    | some x => exact h x (List.mem_of_getElem? hk)
  refine none _ fun x hx => ?_
  simp only [State.stepMeans] at hx
  split at hx
  · simp at hx
  · obtain ⟨i, -, rfl⟩ := List.mem_map.mp hx
    refine sum_div_le fun m hm => ?_
    obtain ⟨y, -, rfl⟩ := List.mem_map.mp (List.mem_of_mem_drop (List.mem_of_mem_take hm))
    exact Nat.sub_le _ _

theorem foldl_max_le {l : List Nat} {n a : Nat} (ha : a ≤ n) (h : ∀ x ∈ l, x ≤ n) : l.foldl max a ≤ n := by
  induction l generalizing a with
  | nil => exact ha
  | cons x l ih =>
    exact ih (Nat.max_le.mpr ⟨ha, h x List.mem_cons_self⟩) fun y hy => h y (List.mem_cons_of_mem _ hy)

/-! The faults as a mask. -/

/-- One bit per beam that missed the target. -/
def faultMask (l : List (Nat × Bool)) : Nat := (l.zipIdx.filter (·.1.2)).foldl (fun a e => a + 2 ^ e.2) 0

theorem faultMask_concat (l : List (Nat × Bool)) (x : Nat × Bool) :
    faultMask (l ++ [x]) = faultMask l + if x.2 then 2 ^ l.length else 0 := by
  simp only [faultMask, List.zipIdx_append, List.filter_append, List.foldl_append]
  cases h : x.2 <;> simp [h]

theorem faultMask_lt (l : List (Nat × Bool)) : faultMask l < 2 ^ l.length := by
  induction l using List.reverseRecOn with
  | nil => simp [faultMask]
  | append_singleton l x ih =>
    rw [faultMask_concat, List.length_append, List.length_singleton, Nat.pow_succ]
    split <;> omega

theorem faultMask_testBit {l : List (Nat × Bool)} {b : Nat} {x : Nat × Bool} (h : l[b]? = some x) : (faultMask l).testBit b = x.2 := by
  induction l using List.reverseRecOn with
  | nil => simp at h
  | append_singleton l y ih =>
    have below : (faultMask l).testBit l.length = false := Nat.testBit_lt_two_pow (faultMask_lt l)
    rw [faultMask_concat]
    rcases Nat.lt_succ_iff_lt_or_eq.mp (show b < l.length + 1 by simpa using (List.getElem?_eq_some_iff.mp h).1) with hb | rfl
    · rw [List.getElem?_append_left hb] at h
      split
      · rw [Nat.add_comm, Nat.testBit_two_pow_add_gt hb, ih h]
      · exact ih h
    · obtain rfl : y = x := by simpa using h
      split
      next hx => rw [Nat.add_comm, Nat.testBit_two_pow_add_eq, below, hx]; rfl
      next hx => rw [Nat.add_zero, below, Bool.eq_false_iff.mpr hx]

/-! The results of a run. -/

section Results
variable (s c r) (mq : List (List (List Nat)))

/-- The mean mark of step `k` on the strand of beam `b`, 0 where none is measured. -/
def State.runMean (b k : Nat) : Nat := (s.stepMeans c r b (mq.getD b [])).getD k 0

/-- The step a beam's means choose, and whether the beam failed (R144). -/
def State.runChoice (b : Nat) : Nat × Bool :=
  chooseStep (s.cr c F.WRC_TEST_CTL_MQ_TARGET) (s.cr c F.WRC_TEST_CTL_MARGIN) ((List.range 15).map (s.runMean c r mq b))

/-- A beam's best mean mark. -/
def State.runBest (b : Nat) : Nat := ((List.range 15).map (s.runMean c r mq b)).foldl max 0

/-- The beams that failed. -/
def State.runFaults : Nat := faultMask ((List.range 8).map (s.runChoice c r mq))

/-- What the end of a run shows in page WRC (Table 4-8). -/
def State.runResults : List (Fld × Nat) :=
  [(F.WRC_TEST_STS_DONE, 1), (F.WRC_TEST_STS_FAIL, s.runFaults c r mq)]
    ++ (List.range 8).flatMap fun b => [(F.WRC_TEST_RES_P_OPT b, s.stepLevel c (s.runChoice c r mq b).1 b),
      (F.WRC_TEST_RES_BEST_MQ b, s.runBest c r mq b)]

/-- What the end of a run shows in page VFY (Table 4-11). -/
def State.runMarks : List (Fld × Nat) :=
  (List.range 15).flatMap fun k => (List.range 8).map fun b => (F.VFY_STEP_MQ k b, s.runMean c r mq b k)

/-- The fields of the results of a run. -/
def runFields : List Fld :=
  [F.WRC_TEST_STS_DONE, F.WRC_TEST_STS_FAIL] ++ (List.range 8).flatMap (fun b => [F.WRC_TEST_RES_P_OPT b, F.WRC_TEST_RES_BEST_MQ b])

theorem State.runResults_fields : (s.runResults c r mq).map Prod.fst = runFields := rfl

theorem runFields_nodup : (runFields.map (fieldKey 0)).Nodup := by decide

end Results

theorem getD_map_range {α : Type} (f : Nat → α) {n i : Nat} (h : i < n) (d : α) : ((List.range n).map f).getD i d = f i := by
  simp [List.getD_eq_getElem?_getD, h]

/-- The registers that may change after the results of a run are shown. -/
def runLaterFields : List Fld := F.CAL_STS_FORMING :: recordFields

theorem State.calDue_touches {fs : List Fld} {t u : State} (h : TouchesOnly c fs t u) (hf : F.CAL_STS_FORMING.among fs = true) :
    TouchesOnly c fs t (u.calDue c) := h.ite ((h.modCh _).cw 1 hf)

/-- A layer's corrections stored (R229). -/
def State.putDeltas (s : State) (c : Fin 16) (layer : Nat) (delta : List Nat) : State :=
  (List.range 8).foldl (fun s b => s.tput .pdelta (chRg c) (layer * 8 + b) (delta.getD b 0)) s

theorem State.putDeltas_touches {fs : List Fld} {t : State} (h : TouchesOnly c fs t s) (layer : Nat) (delta : List Nat) :
    TouchesOnly c fs t (s.putDeltas c layer delta) :=
  TouchesOnly.foldl (fun x b => (TouchesOnly.refl c fs x).of_eqs (t := x.tput .pdelta (chRg c) (layer * 8 + b) (delta.getD b 0))
    rfl rfl rfl) _ h

theorem State.putDeltas_outlasting (layer : Nat) (delta : List Nat) : (s.putDeltas c layer delta).outlasting c = s.outlasting c :=
  State.foldl_outlasting (g := fun s b => s.tput .pdelta (chRg c) (layer * 8 + b) (delta.getD b 0)) (fun _ _ => rfl) _ s

theorem State.calDue_outlasting : (s.calDue c).outlasting c = s.outlasting c :=
  State.ite_outlasting rfl (State.outlasting_of_ch (by simp [State.modCal]))

/-- The slot of a run taken, and its event raised. -/
def State.leaveRun (s : State) (c : Fin 16) (r : TestRun) (temp : Nat) : State :=
  (s.cirq c 0x30 2).modWr c fun w => { w with
    testRun := none, lastRun := some (r.layer, r.slot, temp), weakCal := if w.weakCal = some r.layer then none else w.weakCal }

/-- What follows on the results of a run: the event, the record, and the corrections, which call for a new generation (R143, R236,
R237). -/
def State.closeRun (s : State) (c : Fin 16) (r : TestRun) (temp : Nat) (record : State → List Byte) (delta : List Nat) : State :=
  let s2 := s.leaveRun c r temp
  (((s2.modWr c fun w => { w with records := w.records ++ [record s2] }).putRecords c).putDeltas c r.layer delta).calDue c

theorem State.closeRun_touches (temp : Nat) (record : State → List Byte) (delta : List Nat) :
    TouchesOnly c runLaterFields (s.cirq c 0x30 2) (s.closeRun c r temp record delta) := by
  have left : TouchesOnly c runLaterFields (s.cirq c 0x30 2) (s.leaveRun c r temp) := (TouchesOnly.refl c _ _).modWr _
  exact State.calDue_touches
    (State.putDeltas_touches ((left.modWr _).trans (State.putRecords_touches.mono (List.subset_cons_self _ _))) _ _) (by decide)

theorem State.closeRun_testRun (temp : Nat) (record : State → List Byte) (delta : List Nat) :
    ((s.closeRun c r temp record delta).ch c).wr.testRun = none := by
  have kept : (s.closeRun c r temp record delta).outlasting c = (s.leaveRun c r temp).outlasting c := by
    rw [State.closeRun, State.calDue_outlasting, State.putDeltas_outlasting, State.putRecords_outlasting, State.modWr_outlasting]
    exact fun _ => ⟨rfl, rfl⟩
  rw [(State.eqs_of_outlasting kept).1, State.leaveRun, State.modWr_ch_wr]

theorem testRunDone_none {mq : List (List (List Nat))} (h : ∀ r, (s.ch c).wr.testRun = some r → r.begun = false) :
    testRunDone c mq s = s := by
  unfold testRunDone
  split
  next => rfl
  next r hr => exact if_pos (by simp [h r hr])

/-- A run that ends shows its results, whatever follows on them. -/
theorem testRunDone_ended (mq : List (List (List Nat))) (hr : (s.ch c).wr.testRun = some r) (hb : r.begun = true) :
    ∃ temp record delta, let u := (s.wrs (chRg c) (s.runResults c r mq ++ s.runMarks c r mq)).closeRun c r temp record delta
      testRunDone c mq s = match r.cmd with
        | some k => u.finish k stSuccess (s.runFaults c r mq + 2 ^ 8 * r.slot)
        | none => u := by
  generalize ht : testRunDone c mq s = t
  unfold testRunDone at ht
  simp -zeta only [hr, hb, Bool.not_true, Bool.false_eq_true, if_false] at ht
  extract_lets means at_ chosen opt best fail delta s1 s2 s3 s4 s5 at ht
  have hat (k : Nat) {b : Nat} (h : b < 8) : at_ k b = s.runMean c r mq b k := congrArg (·.getD k 0) (getD_map_range _ h [])
  have hchosen : chosen = (List.range 8).map (s.runChoice c r mq) := List.map_congr_left fun b h => by
    simp only [hat _ (List.mem_range.mp h)]
    rfl
  have hfail : fail = s.runFaults c r mq := by
    rw [State.runFaults, ← hchosen]
    rfl
  have hopt {b : Nat} (h : b < 8) : opt.getD b 0 = s.stepLevel c (s.runChoice c r mq b).1 b := by
    simp [opt, hchosen, List.getD_eq_getElem?_getD, h]
  have hbest {b : Nat} (h : b < 8) : best.getD b 0 = s.runBest c r mq b := by
    rw [State.runBest, List.foldl_map]
    simp only [← hat _ h]
    exact getD_map_range _ h 0
  refine ⟨s.cr c F.CAL_TEMP_NOW, fun u => testRecord u c r.layer r.slot fail delta best, delta, ?_⟩
  clear_value at_ fail opt best delta
  have hwrites : [(F.WRC_TEST_STS_DONE, 1), (F.WRC_TEST_STS_FAIL, fail)]
      ++ (List.range 8).flatMap (fun b => [(F.WRC_TEST_RES_P_OPT b, opt.getD b 0), (F.WRC_TEST_RES_BEST_MQ b, best.getD b 0)])
      ++ (List.range 15).flatMap (fun k => (List.range 8).map fun b => (F.VFY_STEP_MQ k b, at_ k b)) =
        s.runResults c r mq ++ s.runMarks c r mq := by
    rw [hfail, State.runResults, State.runMarks]
    congr 1
    · congr 1
      refine List.flatMap_congr fun b h => ?_
      rw [hopt (List.mem_range.mp h), hbest (List.mem_range.mp h)]
    · refine List.flatMap_congr fun k _ => List.map_congr_left fun b h => ?_
      rw [hat _ (List.mem_range.mp h)]
  rw [← hwrites, ← hfail]
  exact ht.symm

section Shown
variable (mq : List (List (List Nat))) {temp : Nat} {record : State → List Byte} {delta : List Nat}

/-- The marks of page VFY leave the fields of page WRC as they were. -/
theorem State.runMarks_apart {t : State} {f : Fld} (hf : f.Placed) (hp : f.page = 0x30) :
    (t.wrs (chRg c) (s.runMarks c r mq)).cr c f = t.cr c f := by
  refine State.rd_wrs_of_keys t _ fun e he => ?_
  simp only [State.runMarks, List.mem_flatMap, List.mem_map, List.mem_range] at he
  obtain ⟨k, hk, b, hb, rfl⟩ := he
  have := hf.off
  have := hf.lsb
  simp only [fieldKey, F.VFY_STEP_MQ, hp]
  omega

/-- The results are read as they were written once a run has ended. -/
theorem State.closeRun_shown {f : Fld} {v : Nat} (hm : (f, v) ∈ s.runResults c r mq) :
    ((s.wrs (chRg c) (s.runResults c r mq ++ s.runMarks c r mq)).closeRun c r temp record delta).cr c f = v % 2 ^ f.width := by
  have fields : ∀ f ∈ runFields, f.outside (F.HDR_IRQ_RAW 0x30 :: runLaterFields) = true ∧ f.page = 0x30 := by decide
  obtain ⟨hout, hpage⟩ := fields f (State.runResults_fields s c r mq ▸ List.mem_map_of_mem hm)
  have ended (t : State) : TouchesOnly c (F.HDR_IRQ_RAW 0x30 :: runLaterFields) t (t.closeRun c r temp record delta) :=
    ((TouchesOnly.refl c _ t).cirq 2 (by decide)).trans ((State.closeRun_touches temp record delta).mono (List.subset_cons_self _ _))
  rw [(ended _).cr hout, State.wrs, List.foldl_append]
  refine (State.runMarks_apart mq (Fld.placed_of_inPlace (Bool.and_eq_true_iff.mp hout).1) hpage).trans ?_
  exact State.cr_wrs_of_mem (State.runResults_fields s c r mq) runFields_nodup hm

theorem State.closeRun_raised :
    bitAt ((s.closeRun c r temp record delta).cr c (F.HDR_IRQ_RAW 0x30)) 2 = true := by
  rw [(State.closeRun_touches temp record delta).cr (by decide)]
  exact State.cirq_bit (by decide) (by decide)

theorem State.runFaults_lt : s.runFaults c r mq < 2 ^ 8 := by
  simpa [State.runFaults] using faultMask_lt ((List.range 8).map (s.runChoice c r mq))

theorem State.runFaults_bit {b : Nat} (h : b < 8) : bitAt (s.runFaults c r mq) b = (s.runChoice c r mq b).2 := by
  rw [bitAt_eq_testBit]
  exact faultMask_testBit (by simp [h])

theorem State.runBest_lt (b : Nat) : s.runBest c r mq b < 2 ^ 8 := by
  refine Nat.lt_succ_of_le (foldl_max_le (Nat.zero_le _) fun x hx => ?_)
  obtain ⟨k, -, rfl⟩ := List.mem_map.mp hx
  exact State.stepMeans_le b _ k

theorem State.stepLevel_lt (k b : Nat) : s.stepLevel c k b < 2 ^ 10 := by
  simp only [State.stepLevel, clampInt]
  omega

/-- A run that has ended shows every beam's choice, best mark and fault (R144, R145). -/
theorem State.closeRun_results :
    let u := (s.wrs (chRg c) (s.runResults c r mq ++ s.runMarks c r mq)).closeRun c r temp record delta
    u.cr c F.WRC_TEST_STS_DONE = 1 ∧ u.cr c F.WRC_TEST_STS_FAIL = s.runFaults c r mq ∧
      ∀ b, b < 8 → u.cr c (F.WRC_TEST_RES_P_OPT b) = s.stepLevel c (s.runChoice c r mq b).1 b ∧
        u.cr c (F.WRC_TEST_RES_BEST_MQ b) = s.runBest c r mq b := by
  intro u
  refine ⟨State.closeRun_shown mq (v := 1) ?_, (State.closeRun_shown mq ?_).trans (Nat.mod_eq_of_lt (State.runFaults_lt mq)),
    fun b h => ⟨(State.closeRun_shown mq ?_).trans (Nat.mod_eq_of_lt (State.stepLevel_lt _ b)),
      (State.closeRun_shown mq ?_).trans (Nat.mod_eq_of_lt (State.runBest_lt mq b))⟩⟩
  · simp [State.runResults]
  · simp [State.runResults]
  · exact List.mem_append_right _ (List.mem_flatMap.mpr ⟨b, List.mem_range.mpr h, by simp⟩)
  · exact List.mem_append_right _ (List.mem_flatMap.mpr ⟨b, List.mem_range.mpr h, by simp⟩)

end Shown

end Sys2Proof.Machine
end

section
/-! PROOF. The statement about the laser driver link and the test-area runs. -/

namespace Sys2Proof.Machine
open Sys2Proof

/-- Settles O54: each event of the link by what it leaves on the link, a link error by the safety stop and the alarm it makes, and a run by
the registers its end writes, which no record after it reaches. -/
theorem laserTransactionsAndTestRuns : Obligations.LaserTransactionsAndTestRuns := by
  unfold Obligations.LaserTransactionsAndTestRuns
  intro s c src l
  refine ⟨fun rx h => ?none, fun rx t rest hq hb => ⟨fun hok hr => ?good, fun hok => ?bad⟩,
    fun row => ⟨fun h => ?noError, fun h => ?error⟩,
    fun hr => ⟨fun h => ?noPoll, fun hs hq hb he => ?poll⟩, fun hr => ⟨fun rd addr data => ?host, fun b level hl => ?level⟩,
    fun hr => ⟨fun h => ?refused, fun h => ?started⟩, fun mq h => ?notEnded, fun mq r hr hb => ?ended⟩
  case none => exact congrArg Host.Outcome.next (laserAnswer_none h)
  case good =>
    obtain ⟨u, hu, hrest⟩ := laserAnswer_good hq hb hok hr
    exact ⟨u, congrArg Host.Outcome.next hu, hrest⟩
  case bad =>
    obtain ⟨u, hu, hrest⟩ := laserAnswer_bad hq hb hok
    exact ⟨u, congrArg Host.Outcome.next hu, hrest⟩
  case noError => exact congrArg Host.Outcome.next (laserLinkError_none h)
  case error => exact ⟨_, rfl, laserLinkError_stops h⟩
  case noPoll => exact congrArg Host.Outcome.next ((State.whileRunning_on s hr).trans (statusPoll_none h))
  case poll => exact congrArg Host.Outcome.next ((State.whileRunning_on s hr).trans (statusPoll_sends hs hq hb he hr))
  case host =>
    refine ⟨_, congrArg Host.Outcome.next (State.gated_open s hr), fun ⟨hs, hrd, ha⟩ => ?_, fun h => hostLaser_queued data h⟩
    subst hrd
    exact hostLaser_refused data hs ha
  case level =>
    exact ⟨_, congrArg Host.Outcome.next (State.gated_open s hr), readLevel_stored b hl, fun h => readLevel_sent b level h,
      fun h => readLevel_waits b level h⟩
  case refused => exact congrArg Host.Outcome.next ((State.gated_open s hr).trans (testAreaRun_refused h))
  case started =>
    obtain ⟨hdone, hfail, hrun⟩ := (s.unmark (chRg c) 0x30 0x128 false).testStart_shown (c := c)
      ⟨s.cr c F.WRC_TEST_CTL_LAYER, s.cr c F.WRC_TEST_CTL_SLOT, none, false⟩
    exact ⟨_, congrArg Host.Outcome.next ((State.gated_open s hr).trans (testAreaRun_started h)), hdone, hfail, hrun⟩
  case notEnded => exact congrArg Host.Outcome.next (testRunDone_none h)
  case ended =>
    intro mqs pick
    obtain ⟨temp, record, delta, hu⟩ := testRunDone_ended mq hr hb
    obtain ⟨hdone, hfail, hbeams⟩ := State.closeRun_results (s := s) (c := c) (r := r) (temp := temp) (record := record)
      (delta := delta) mq
    refine ⟨_, congrArg Host.Outcome.next (hu.trans ?_), hdone, State.closeRun_testRun temp record delta, State.closeRun_raised,
      fun b h => ⟨(hbeams b h).1, (hbeams b h).2, ?_⟩⟩
    · rewrite [hfail]
      cases r.cmd <;> rfl
    · rw [hfail]
      exact State.runFaults_bit mq h

end Sys2Proof.Machine
end

section
/-! PROOF. Cluster assembly of a lone staged block whose stored form is longer than a cluster's payload: the block is split, and its rest
stays behind in a cluster that is not assembled (R44, R107, R110). -/

namespace Sys2Proof.Machine
open Sys2Proof

variable {s : State} {c : Fin 16} {d : Disc} {b : Block}

/-! A write chain that takes the block. -/

/-- The first cluster closes full, and the one behind it holds the rest of the block. -/
theorem WriteChain.append_split {w : WriteChain} {stored : List Byte} (hcur : w.cur = none) (hgroup : w.openGroup = none)
    (hlong : 65536 < stored.length) (method : Nat) : ∃ k rest g, (w.append d b stored method).ready = w.ready ++ [k] ∧
      (w.append d b stored method).cur = some rest ∧ (w.append d b stored method).openGroup = some g ∧ g.n = 1 := by
  simp [WriteChain.append, WriteChain.roomForLast, WriteChain.filling, WriteChain.close, freshContent, hcur, hgroup, hlong]

/-- A group that does not span 16 clusters goes on. -/
theorem WriteChain.closeLong_short {w : WriteChain} {g : OpenGroup} (hg : w.openGroup = some g) (hn : g.n < 16) :
    w.closeLong b = w := by
  unfold WriteChain.closeLong
  split
  next hg' =>
    obtain rfl : g = _ := Option.some.inj (hg.symm.trans hg')
    simp [Nat.not_le.mpr hn]
  next => rfl

/-- With no cluster open, no group is broken. -/
theorem WriteChain.breaksGroup_fresh {w : WriteChain} (hcur : w.cur = none) : w.breaksGroup b = false := by
  simp [WriteChain.breaksGroup, hcur]

/-! The channel after the block is taken. -/

/-- The stored form of a block on an unencrypted Mapped disc. -/
def State.storedPlain (s : State) (c : Fin 16) (d : Disc) (b : Block) : List Byte :=
  storedBlock none b.lba b.crc (codeBlock (s.coder c d.compress) b.data)

theorem State.modWr_ch (f : WriteChain → WriteChain) : (s.modWr c f).ch c = { s.ch c with wr := f (s.ch c).wr } := s.ch_modCh_self c _

theorem State.codeStaged_ch (hdirect : d.direct = false) (hkeyed : d.keyed = false) : (s.codeStaged c d b).ch c =
    { s.ch c with wr := (s.ch c).wr.append d b (s.storedPlain c d b) (codeBlock (s.coder c d.compress) b.data).method } := by
  simp only [State.codeStaged, hdirect, hkeyed, Bool.false_eq_true, if_false, Option.isSome_none, State.modWr_ch, State.incSat_ch]
  split
  · rw [State.cirq_ch, State.incSat_ch]
    rfl
  · rfl

theorem State.takeBlock_ch (hcur : (s.ch c).wr.cur = none) (hbad : b.bad = false) : (s.takeBlock c d b).ch c =
    { (s.codeStaged c d b).ch c with wr := ((s.codeStaged c d b).ch c).wr.closeLong b } := by
  simp only [State.takeBlock, WriteChain.breaksGroup_fresh hcur, hbad, State.modWr_ch, Bool.and_false, Bool.false_eq_true, if_false]

/-! Assembly. -/

theorem State.makeKey_unwanted (hd : (s.ch c).disc = some d) (hw : d.wantKey = none) : s.makeKey c = s := by
  simp only [State.makeKey, hd, hw]

theorem State.failPassed_mapped (hd : (s.ch c).disc = some d) (hdirect : d.direct = false) : s.failPassed c = s := by
  unfold State.failPassed
  split
  next e _ _ he _ =>
    obtain rfl : d = e := Option.some.inj (hd.symm.trans he)
    simp [hdirect]
  next => rfl

/-- Assembly takes the block that is next, and ends there once that has closed a cluster. -/
theorem assemble_one (hd : (s.ch c).disc = some d) (hwant : d.wantKey = none) (hmay : s.mayAssemble c = true)
    (hnext : (s.ch c).wr.nextUntaken = some b) (hready : (s.ch c).wr.ready = []) (hclosed : ((s.takeBlock c d b).ch c).wr.ready ≠ []) :
    assemble c s = s.takeBlock c d b := by
  have owes : d.owesKey = false := by simp [Disc.owesKey, hwant]
  have closed : ((s.takeBlock c d b).ch c).wr.ready.length > 0 := List.length_pos_iff.mpr hclosed
  simp [assemble, hmay, hnext, State.makeKey_unwanted hd hwant, hd, owes, hready, assembleLoop, closed]

/-- A block too long for a cluster's payload leaves its rest in a second cluster. -/
theorem clusterAssembly_splits (hd : (s.ch c).disc = some d) (hdirect : d.direct = false) (hkeyed : d.keyed = false)
    (hwant : d.wantKey = none) (hmay : s.mayAssemble c = true) (hnext : (s.ch c).wr.nextUntaken = some b) (hbad : b.bad = false)
    (hcur : (s.ch c).wr.cur = none) (hgroup : (s.ch c).wr.openGroup = none) (hready : (s.ch c).wr.ready = [])
    (hlong : 65536 < (s.storedPlain c d b).length) : ∃ rest, ((clusterAssembly c s).ch c).wr.cur = some rest := by
  obtain ⟨k, rest, g, happended, hrest, hg, hn⟩ := WriteChain.append_split (d := d) (b := b) hcur hgroup hlong
    (codeBlock (s.coder c d.compress) b.data).method
  have taken : (s.takeBlock c d b).ch c = { s.ch c with
      wr := (s.ch c).wr.append d b (s.storedPlain c d b) (codeBlock (s.coder c d.compress) b.data).method } := by
    rw [State.takeBlock_ch hcur hbad, State.codeStaged_ch hdirect hkeyed, WriteChain.closeLong_short hg (by omega)]
  have closed : ((s.takeBlock c d b).ch c).wr.ready ≠ [] := by simp [taken, happended]
  refine ⟨rest, ?_⟩
  rw [clusterAssembly, assemble_one hd hwant hmay hnext hready closed, State.failPassed_mapped (d := d) (by rw [taken]; exact hd) hdirect,
    taken]
  exact hrest

/-! The counterexample. -/

/-- A Mapped disc, unencrypted and uncompressed. -/
def openDisc : Disc :=
  { direct := false, blank := true, sealed_ := false, roMount := false, roDisc := false, compress := false, wantKey := none, keyed := false
    keyId := 0, archiveId := 0, wrapped := [], discId := [], revision := 1, identNext := 0, calNext := 0, anchNext := 0, anchorNum := 0
    ckptNum := 0, ckptPcn := 0, ckptSeq := 0, ckptParts := 0, replayStart := 0, nextLba := 0, slips := [], newSlips := []
    slipsAtMount := 0, holes := [], mapPoison := false, lastPcn := 0, mountMs := 0, fallback := false }

/-- A staged block of 65,537 bytes, one more than the payload of a cluster. -/
def longBlock : Block :=
  { id := 0, lba := 0, piece := 0, ends := true, data := List.replicate 65537 0, crc := 0, taken := false, time := 0, bad := false
    lost := false, home := none }

/-- A write chain on which that block alone is staged. -/
def longStaged : WriteChain := { WriteChain.off with blocks := [longBlock], nextBlock := 1 }

/-- Channel 0 with that disc and write chain. -/
def longState : State := State.reset.modCh 0 fun x => { x with disc := some openDisc, wr := longStaged }

theorem longState_ch : longState.ch 0 = { Chan.off with disc := some openDisc, wr := longStaged } := State.ch_modCh_self _ _ _

/-- A block that is not compressed is stored whole behind its header (R275). -/
theorem length_le_storedPlain (h : d.compress = false) : b.data.length ≤ (s.storedPlain c d b).length := by
  have whole : codeBlock (s.coder c d.compress) b.data = ⟨0, b.data, false⟩ := by simp [codeBlock, State.coder, h]
  simp only [State.storedPlain, whole, storedBlock, List.length_append]
  omega

/-- Refutes O52: nothing bounds the data of the staged block that is due. One whose stored form is longer than a cluster's payload is
split, and the rest of it stays in a second cluster, which the idle timeout leaves open. -/
theorem not_clustersAreAssembledCommittedAndJudged : ¬ Obligations.ClustersAreAssembledCommittedAndJudged := by
  unfold Obligations.ClustersAreAssembledCommittedAndJudged
  intro h
  obtain ⟨-, -, -, -, lone, -⟩ := h longState 0
  have may (s : State) (hs : s.ch 0 = { Chan.off with disc := some openDisc, wr := (s.ch 0).wr }) : s.mayAssemble 0 = true := by
    rw [State.mayAssemble, hs]
    rfl
  obtain ⟨t, k, hexec, -, -, -, -, -, -, hcur, -⟩ := lone true openDisc longBlock (by rw [longState_ch]) rfl rfl rfl
    (may _ (by rw [longState_ch])) (.inl rfl) (by rw [longState_ch]; rfl) rfl rfl (by rw [longState_ch]; decide) (by rw [longState_ch]; rfl)
    (by rw [longState_ch]; rfl) (by rw [longState_ch]; rfl)
  have due : (longState.modWr 0 fun w => { w with forceTo := w.nextBlock }).ch 0 =
      { Chan.off with disc := some openDisc, wr := { longStaged with forceTo := 1 } } := by
    rw [State.modWr_ch, longState_ch]
    rfl
  have long : 65536 < longBlock.data.length := by
    rw [show longBlock.data = List.replicate 65537 0 from rfl, List.length_replicate]
    decide
  obtain ⟨rest, hrest⟩ := clusterAssembly_splits (s := longState.modWr 0 fun w => { w with forceTo := w.nextBlock }) (c := 0)
    (d := openDisc) (b := longBlock) (by rw [due]) rfl rfl rfl (may _ (by rw [due])) (by rw [due]; rfl) rfl (by rw [due]; rfl)
    (by rw [due]; rfl) (by rw [due]; rfl) (long.trans_le (length_le_storedPlain rfl))
  have same : t = clusterAssembly 0 (longState.modWr 0 fun w => { w with forceTo := w.nextBlock }) := (Host.Outcome.next.inj hexec).symm
  rw [same, hrest] at hcur
  cases hcur

end Sys2Proof.Machine
end

section
/-! PROOF. A slot enters a state: what that writes, what it leaves as it was, and the transitions of Table 5-4 while no session is on
(R165 to R168, R172). -/

namespace Sys2Proof.Machine
open Sys2Proof

variable {r s t : State} {c : Fin 16} {p q : Fin 7} {dest cause row : Nat}

/-- The registers of a slot that a transition may reach. -/
def slotFields (q : Nat) : List Fld :=
  [F.SLT_STATE_MODE q, F.SLT_STATE_CAUSE q, F.SLT_STATE_ARMED q, F.SLT_STATE_DEFECT q, F.SLT_MANUAL q, F.SLT_INTEG q, F.SLT_GL_STS_COUNT q,
    F.HDR_IRQ_RAW (sltPage q)]

theorem slotFields_among : ∀ q : Fin 7, ∀ f ∈ slotFields q, f.among (slotFields q) = true := by decide

/-- A channel but for its slots. -/
def Chan.noSlots (x : Chan) : Chan := { x with servo := { x.servo with slots := Vector.replicate 7 SlotSt.off } }

theorem State.modSlt_noSlots (f : SlotSt → SlotSt) : ((s.modSlt c q f).ch c).noSlots = (s.ch c).noSlots := by
  rw [State.modSlt, State.modServo_ch]
  rfl

theorem State.modSlt_slt (f : SlotSt → SlotSt) : (s.modSlt c q f).slt c q = f (s.slt c q) := by
  simp [State.slt, State.modSlt, State.modServo_servo]

theorem State.modServo_wr (f : Servo → Servo) : ((s.modServo c f).ch c).wr = (s.ch c).wr := by rw [State.modServo_ch]

namespace TouchesOnly
variable {fs : List Fld}

theorem modServo (h : TouchesOnly c fs r s) (f : Servo → Servo) : TouchesOnly c fs r (s.modServo c f) := h.modCh _

theorem modSlt (h : TouchesOnly c fs r s) (f : SlotSt → SlotSt) : TouchesOnly c fs r (s.modSlt c q f) := h.modServo _

end TouchesOnly

/-- From `s` to `t` slot `q` changed: its registers above and what stands behind the slots. -/
structure SlotWork (c : Fin 16) (q : Fin 7) (s t : State) : Prop where
  touches : TouchesOnly c (slotFields q) s t
  chan    : (t.ch c).noSlots = (s.ch c).noSlots

namespace SlotWork

theorem refl (c : Fin 16) (q : Fin 7) (s : State) : SlotWork c q s s := ⟨.refl c _ s, rfl⟩

theorem wr (h : SlotWork c q s t) : (t.ch c).wr = (s.ch c).wr := congrArg (·.wr) h.chan

theorem modSlt (h : SlotWork c q r s) (f : SlotSt → SlotSt) : SlotWork c q r (s.modSlt c q f) :=
  ⟨h.touches.modSlt _, (State.modSlt_noSlots f).trans h.chan⟩

theorem cw (h : SlotWork c q r s) {f : Fld} (v : Nat) (hf : f ∈ slotFields q) : SlotWork c q r (s.cw c f v) :=
  ⟨h.touches.cw v (slotFields_among q f hf), h.chan⟩

theorem wrs (h : SlotWork c q r s) {l : List (Fld × Nat)} (hl : ∀ e ∈ l, e.1 ∈ slotFields q) : SlotWork c q r (s.wrs (chRg c) l) := by
  induction l generalizing s with
  | nil => exact h
  | cons e l ih => exact ih (h.cw e.2 (hl e List.mem_cons_self)) fun x hx => hl x (List.mem_cons_of_mem _ hx)

theorem cirq (h : SlotWork c q r s) (bit : Nat) : SlotWork c q r (s.cirq c (sltPage q) bit) :=
  ⟨h.touches.cirq bit (slotFields_among q _ (by simp [slotFields])), by rw [State.cirq_ch]; exact h.chan⟩

theorem of_eqs (h : SlotWork c q r s) (hr : t.regs = s.regs) (hd : t.dram = s.dram) (hc : t.chans = s.chans) : SlotWork c q r t :=
  ⟨h.touches.of_eqs hr hd hc, (congrArg (fun v : Vector Chan 16 => v[c].noSlots) hc).trans h.chan⟩

theorem ite {P : Prop} [Decidable P] (h : SlotWork c q r s) (k : SlotWork c q r t) : SlotWork c q r (if P then s else t) := by
  split
  · exact h
  · exact k

end SlotWork

theorem State.enterOff_work : SlotWork c q s (s.enterOff c q) :=
  ((SlotWork.refl c q s).modSlt _).wrs (by simp [slotFields])

theorem State.enterClosed_work (from_ : Nat) : SlotWork c q s (s.enterClosed c q from_) := by
  unfold State.enterClosed
  extract_lets x m p s1 s2
  have h2 : SlotWork c q s s2 :=
    (((SlotWork.refl c q s).modSlt _).cw _ (by simp [slotFields])).cw _ (by simp [slotFields])
  exact SlotWork.ite ((h2.cirq 8).of_eqs rfl rfl rfl) h2

/-- What a slot presets as it enters a state (Table 5-4). -/
def State.presets (s : State) (c : Fin 16) (q : Fin 7) (dest cause : Nat) : State :=
  match dest with
  | 0 => s.enterOff c q
  | 1 => s.putQ c (F.SLT_MANUAL q) (if cause = 2 then (s.slt c q).acqM else s.q21 c (F.SLT_OUT q))
  | 2 =>
    let m := if s.mode c q = 4 then s.q21 c (F.SLT_OUT q) else s.q21 c (F.SLT_MANUAL q)
    (s.putQ c (F.SLT_MANUAL q) m).modSlt c q fun x => { x with
      acqRev := 0, acqHits := 0, acqN := 0, acqM := m, acqDown := s.cr c (F.SLT_ACQ_CTL_DIR q) == 1 }
  | 3 => s.enterClosed c q (s.mode c q)
  | _ => s.modSlt c q fun x => { x with
      hold := if s.mode c q = 3 then s.q21 c (F.SLT_OUT q) - (s.slt c q).ffOut else s.q21 c (F.SLT_OUT q) }

/-- The fields of a slot's state register that a transition sets. -/
def stateFields (q : Nat) : List Fld := [F.SLT_STATE_MODE q, F.SLT_STATE_CAUSE q, F.SLT_STATE_ARMED q, F.SLT_STATE_DEFECT q]

/-- What a slot's state register shows after a transition. -/
def State.shownAs (s : State) (c : Fin 16) (q : Fin 7) (dest cause : Nat) : List (Fld × Nat) :=
  [(F.SLT_STATE_MODE q, dest), (F.SLT_STATE_CAUSE q, cause), (F.SLT_STATE_ARMED q, 0),
    (F.SLT_STATE_DEFECT q, b2n (dest = 3 ∧ (s.ch c).servo.defect.isSome ∧ bitAt (s.cr c F.CLE_DEF_CTL_MASK) q = true))]

theorem State.enter_eq : s.enter c q dest cause = (s.presets c q dest cause).wrs (chRg c) (s.shownAs c q dest cause) := rfl

theorem State.presets_work : SlotWork c q s (s.presets c q dest cause) := by
  unfold State.presets
  split
  case h_1 => exact State.enterOff_work
  case h_2 => exact (SlotWork.refl c q s).cw _ (by simp [slotFields])
  case h_3 => exact ((SlotWork.refl c q s).cw _ (by simp [slotFields])).modSlt _
  case h_4 => exact State.enterClosed_work _
  case h_5 => exact (SlotWork.refl c q s).modSlt _

theorem State.enter_work : SlotWork c q s (s.enter c q dest cause) := by
  rw [State.enter_eq]
  exact State.presets_work.wrs (by simp [State.shownAs, slotFields])

/-- The state register of a slot after a transition, and its M as it was preset. -/
theorem State.enter_shown (hd : dest < 8) (hc : cause < 8) : (s.enter c q dest cause).mode c q = dest ∧
    (s.enter c q dest cause).cr c (F.SLT_STATE_CAUSE q) = cause ∧ (s.enter c q dest cause).cr c (F.SLT_STATE_ARMED q) = 0 ∧
    (s.enter c q dest cause).cr c (F.SLT_MANUAL q) = (s.presets c q dest cause).cr c (F.SLT_MANUAL q) := by
  have places : ∀ q : Fin 7, ((stateFields q).map (fieldKey 0)).Nodup := by decide
  have states : ∀ q : Fin 7, ((stateFields q).all (·.among (stateFields q))) = true := by decide
  have manual : ∀ q : Fin 7, (F.SLT_MANUAL q).outside (stateFields q) = true := by decide
  have shown {f : Fld} {v : Nat} (hm : (f, v) ∈ s.shownAs c q dest cause) :
      (s.enter c q dest cause).cr c f = v % 2 ^ f.width := State.cr_wrs_of_mem (fs := stateFields q) rfl (places q) hm
  have mode : (F.SLT_STATE_MODE q, dest) ∈ s.shownAs c q dest cause := by simp [State.shownAs]
  have why : (F.SLT_STATE_CAUSE q, cause) ∈ s.shownAs c q dest cause := by simp [State.shownAs]
  have armed : (F.SLT_STATE_ARMED q, 0) ∈ s.shownAs c q dest cause := by simp [State.shownAs]
  exact ⟨(shown mode).trans (Nat.mod_eq_of_lt hd), (shown why).trans (Nat.mod_eq_of_lt hc), shown armed,
    ((TouchesOnly.refl c _ _).wrs (gs := stateFields q) rfl (states q)).cr (manual q)⟩

theorem slotFields_apart : ∀ p q : Fin 7, p ≠ q → (F.SLT_STATE_MODE p).outside (slotFields q) = true := by decide

theorem SlotWork.mode (h : SlotWork c q s t) (hp : p ≠ q) : t.mode c p = s.mode c p := h.touches.cr (slotFields_apart p q hp)

/-! With no session on, leaving CLOSED stops nothing. -/

theorem State.leaveClosed_idle (h : (s.ch c).wr.session = .idle) : s.leaveClosed c q row = s := by
  unfold State.leaveClosed
  split
  · exact State.safetyStop_idle h
  · simp [State.sessionOn, h, State.orderlyStop_idle h]

theorem State.transit_idle (h : (s.ch c).wr.session = .idle) : s.transit c q dest cause row = s.enter c q dest cause := by
  have idle : ((s.enter c q dest cause).ch c).wr.session = .idle := by rw [State.enter_work.wr, h]
  simp only [State.transit, State.leaveClosed_idle idle, ite_self]

/-- A transition of the sequencer that Table 5-4 lists. -/
theorem State.seqTo_idle (h : (s.ch c).wr.session = .idle) (hc : commanded (s.mode c q) dest = true) (hm : s.mode c q ≠ dest) :
    s.seqTo c q dest = s.enter c q dest 5 := by
  simp only [State.seqTo, if_neg hm, hc, if_true, State.transit_idle h]

end Sys2Proof.Machine
end

section
/-! PROOF. What shows a channel's engine, and the operations that leave it as it is: completing commands, ending sweeps and jumps (R168, R179
to R183). -/

namespace Sys2Proof.Machine
open Sys2Proof

variable {r s t : State} {c d : Fin 16} {p q : Fin 7}

/-- The registers of a slot that only its transitions, its samples and a CLE fault change. -/
def slotShown (q : Nat) : List Fld :=
  [F.SLT_STATE_MODE q, F.SLT_STATE_CAUSE q, F.SLT_GL_STS_TRIPS q, F.SLT_OUT_CODE q, F.HDR_IRQ_RAW (sltPage q)]

/-- The registers that show an engine and its spindle. -/
def engineShown : List Fld :=
  [F.CLE_CTL, F.CLE_STS_RUN, F.CLE_STS_FAULT, F.SPN_STS_STATE] ++ (List.range 7).flatMap slotShown

theorem slotShown_mem : ∀ q : Fin 7, ∀ f ∈ slotShown q, f ∈ engineShown := by decide

theorem engineShown_places : (engineShown.all (·.inPlace)) = true := by decide

/-- From `s` to `t` every engine shows the same, and every DRAM is as it was. -/
structure SparesEngine (s t : State) : Prop where
  shown : ∀ c, ∀ f ∈ engineShown, t.cr c f = s.cr c f
  dram  : t.dram = s.dram

namespace SparesEngine

theorem refl (s : State) : SparesEngine s s := ⟨fun _ _ _ => rfl, rfl⟩

theorem trans (h : SparesEngine r s) (k : SparesEngine s t) : SparesEngine r t :=
  ⟨fun c f hf => (k.shown c f hf).trans (h.shown c f hf), k.dram.trans h.dram⟩

theorem of_eqs (h : SparesEngine r s) (hr : t.regs = s.regs) (hd : t.dram = s.dram) : SparesEngine r t :=
  h.trans ⟨fun _ _ _ => State.rd_eq_of_regs hr _ _, hd⟩

/-- Work in any channel that reaches none of the registers. -/
theorem of_touches {fs : List Fld} (h : TouchesOnly d fs s t) (hf : (engineShown.all (·.outside fs)) = true) : SparesEngine s t := by
  refine ⟨fun c f hm => (h.fields (chRg c) f ?_ ?_).1, h.dram⟩
  · exact Fld.placed_of_inPlace (List.all_eq_true.mp engineShown_places f hm)
  · rintro ⟨-, same⟩
    exact Fld.not_fieldsOf_of_outside (List.all_eq_true.mp hf f hm) 0 ⟨rfl, same⟩

theorem mode (h : SparesEngine s t) (c : Fin 16) (q : Fin 7) : t.mode c q = s.mode c q :=
  h.shown c _ (slotShown_mem q _ (by simp [slotShown]))

theorem ite {P : Prop} [Decidable P] (h : SparesEngine r s) (k : SparesEngine r t) : SparesEngine r (if P then s else t) := by
  split
  · exact h
  · exact k

theorem foldl {α : Type} {g : State → α → State} (hg : ∀ x a, SparesEngine x (g x a)) (l : List α) (h : SparesEngine r s) :
    SparesEngine r (l.foldl g s) := by
  induction l generalizing s with
  | nil => exact h
  | cons a l ih => exact ih (h.trans (hg s a))

theorem cnt (h : SparesEngine r s) (i n : Nat) : SparesEngine r (s.cnt d i n) :=
  h.trans (.of_touches ((TouchesOnly.refl d [F.CNT_SAT, F.HDR_IRQ_RAW 0x59] s).cnt i n (by decide) (by decide)) (by decide))

theorem modSmart (h : SparesEngine r s) (c : Option (Fin 16)) (f : Smart → Smart) : SparesEngine r (s.modSmart c f) := by
  cases c with
  | none => exact h
  | some c => exact h.of_eqs rfl rfl

/-- Completing a command reaches the count of its channel only. -/
theorem finish (h : SparesEngine r s) (k : Nat) (st : Status) (d0 d1 : Nat) : SparesEngine r (s.finish k st d0 d1) := by
  unfold State.finish
  split
  · exact h
  · extract_lets s1 s2 s3
    have h1 : SparesEngine r s1 := h.of_eqs rfl rfl
    have h2 : SparesEngine r s2 := h1.ite (h1.of_eqs rfl rfl)
    have h3 : SparesEngine r s3 := (h2.modSmart _ _).ite h2
    refine h.ite (.ite (h.of_eqs rfl rfl) ?_)
    split
    · exact h3
    · split
      · exact h3
      · exact h3.ite (h3.cnt _ _)

end SparesEngine

/-! The end of a sweep (R179). -/

theorem State.sweepEnd_none (h : (s.ch c).servo.sweep = none) (st : Nat) : s.sweepEnd c st = s := by
  simp only [State.sweepEnd, h]

/-- The registers that the end of a sweep may reach, but for the count of completed commands. -/
def sweepFields : List Fld := [F.CLE_SWEEP_STS_STATE, F.CLE_SWEEP_STS_POINTS, F.HDR_IRQ_RAW 0x08] ++
  (List.range 7).flatMap fun q => [F.SLT_MANUAL q, F.SLT_STATE_SWEEP q]

theorem sweepFields_slot : ∀ q < 7, (F.SLT_MANUAL q).among sweepFields = true ∧ (F.SLT_STATE_SWEEP q).among sweepFields = true := by
  decide

/-- The sweep of a slot released: M returns, and the status shows how it ended. -/
def State.sweepReleased (s : State) (c : Fin 16) (w : Sweep) (st : Nat) : State :=
  (((s.modServo c fun v => { v with sweep := none }).putQ c (F.SLT_MANUAL w.slot) w.m0).wrs (chRg c)
    [(F.SLT_STATE_SWEEP w.slot, 0), (F.CLE_SWEEP_STS_STATE, st)])

theorem State.sweepReleased_touches {w : Sweep} (hw : w.slot < 7) (st : Nat) : TouchesOnly c sweepFields s (s.sweepReleased c w st) := by
  obtain ⟨manual, sweep⟩ := sweepFields_slot w.slot hw
  have status : F.CLE_SWEEP_STS_STATE.among sweepFields = true := by decide
  exact ((((TouchesOnly.refl c _ s).modServo _).cw _ manual).cw _ sweep).cw _ status

theorem State.sweepReleased_ch (w : Sweep) (st : Nat) :
    (s.sweepReleased c w st).ch c = { s.ch c with servo := { (s.ch c).servo with sweep := none } } := by
  simp [State.sweepReleased, State.putQ, State.modServo_ch]

/-- The Calibrate command a sweep ran for, if there is one, completes with the points recorded (R343). -/
def State.sweepAnswered (s : State) (c : Fin 16) (cmd : Option (Nat × Nat)) : State :=
  match cmd with
  | some (k, _) => s.finish k stSuccess (s.cr c F.CLE_SWEEP_STS_POINTS)
  | none => s

theorem State.sweepEnd_some {w : Sweep} (h : (s.ch c).servo.sweep = some w) (st : Nat) : s.sweepEnd c st =
    if st = 2 then ((s.sweepReleased c w st).sweepAnswered c w.cmd).cirq c 0x08 4
    else (s.sweepReleased c w st).sweepAnswered c w.cmd := by
  simp only [State.sweepEnd, h]
  rfl

theorem SparesEngine.cirq8 (h : SparesEngine r s) (bit : Nat) : SparesEngine r (s.cirq c 0x08 bit) :=
  h.trans (.of_touches ((TouchesOnly.refl c [F.HDR_IRQ_RAW 0x08] s).cirq bit (by decide)) (by decide))

theorem State.finish_ch (k : Nat) (st : Status) (d0 d1 : Nat) (e : Fin 16) : (s.finish k st d0 d1).ch e = s.ch e :=
  congrArg (fun m => m.1[e]) (s.finish_media k st d0 d1)

theorem State.sweepAnswered_spares (h : SparesEngine r s) (cmd : Option (Nat × Nat)) : SparesEngine r (s.sweepAnswered c cmd) := by
  cases cmd with
  | none => exact h
  | some e => exact h.finish _ _ _ _

theorem State.sweepAnswered_ch (cmd : Option (Nat × Nat)) (e : Fin 16) : (s.sweepAnswered c cmd).ch e = s.ch e := by
  cases cmd with
  | none => rfl
  | some k => exact State.finish_ch _ _ _ _ e

theorem State.sweepEnd_spares (hs : ∀ w, (s.ch c).servo.sweep = some w → w.slot < 7) (st : Nat) : SparesEngine s (s.sweepEnd c st) := by
  cases hw : (s.ch c).servo.sweep with
  | none =>
    rw [State.sweepEnd_none hw]
    exact .refl s
  | some w =>
    have released : SparesEngine s (s.sweepReleased c w st) := .of_touches (State.sweepReleased_touches (hs w hw) st) (by decide)
    rw [State.sweepEnd_some hw]
    exact .ite ((State.sweepAnswered_spares released _).cirq8 4) (State.sweepAnswered_spares released _)

theorem State.sweepEnd_ch (st : Nat) :
    (s.sweepEnd c st).ch c = { s.ch c with servo := { (s.ch c).servo with sweep := none } } := by
  cases hw : (s.ch c).servo.sweep with
  | none =>
    rw [State.sweepEnd_none hw, ← hw]
  | some w =>
    rw [State.sweepEnd_some hw]
    split <;> simp [State.sweepAnswered_ch, State.sweepReleased_ch]

/-! The sequencer's hold and the ends of jumps (R180 to R183). -/

theorem TouchesOnly.seqHold {fs : List Fld} (h : TouchesOnly c fs r s) {qs : List Nat} (v : Nat)
    (hq : ∀ q ∈ qs, (F.SLT_STATE_SEQ q).among fs = true) : TouchesOnly c fs r (s.seqHold c qs v) :=
  .foldl_mem (fun y q hm => (TouchesOnly.refl c _ y).cw v (hq q hm)) h

theorem State.seqHold_ch (qs : List Nat) (v : Nat) : (s.seqHold c qs v).ch d = s.ch d := by
  unfold State.seqHold
  exact foldl_keeps (fun x => x.ch d) (fun x q => x.cw_ch c _ _ d) _ _

theorem State.seqHold_shown {qs : List Nat} (hqs : ∀ q ∈ qs, q < 7) {q v : Nat} (hq : q ∈ qs) (hv : v < 2) :
    (s.seqHold c qs v).cr c (F.SLT_STATE_SEQ q) = v := by
  have apart : ∀ p < 7, ∀ q < 7, p ≠ q → (F.SLT_STATE_SEQ p).apart (F.SLT_STATE_SEQ q) = true := by decide
  unfold State.seqHold
  exact (State.cr_foldl_cw (fun p hp q hq => apart p (hqs p hp) q (hqs q hq)) hq).trans (Nat.mod_eq_of_lt hv)

/-- The registers that the end of a layer jump may reach. -/
def jumpFields : List Fld := [F.CLE_JUMP_STS_STATE, F.CLE_JUMP_STS_FAIL, F.CLE_JUMP_STS_LAYER, F.HDR_IRQ_RAW 0x08, F.SLT_MANUAL 0,
  F.SLT_STATE_SEQ 0, F.SLT_STATE_SEQ 1, F.SLT_STATE_SEQ 3, F.SLT_STATE_SEQ 4]

/-- The registers that the end of a strand jump may reach. -/
def tjumpFields : List Fld :=
  [F.CLE_TJUMP_STS_STATE, F.CLE_TJUMP_STS_FAIL, F.HDR_IRQ_RAW 0x08, F.SLT_MANUAL 1, F.SLT_STATE_SEQ 1]

theorem jumpFields_seq : ∀ q ∈ [0, 1, 3, 4], (F.SLT_STATE_SEQ q).among jumpFields = true := by decide

theorem State.jumpFail_none (h : (s.ch c).servo.jump = none) (why : Nat) : s.jumpFail c why = s := by
  simp only [State.jumpFail, h]

theorem State.jumpFail_some {j : Jump} (h : (s.ch c).servo.jump = some j) (why : Nat) : s.jumpFail c why =
    (((((s.modServo c fun v => { v with jump := none }).seqHold c [0, 1, 3, 4] 0).putQ c (F.SLT_MANUAL 0) j.m0).wrs (chRg c)
      [(F.CLE_JUMP_STS_STATE, 3), (F.CLE_JUMP_STS_FAIL, why)]).cirq c 0x08 1) := by
  simp only [State.jumpFail, h]

theorem State.jumpFail_touches (why : Nat) : TouchesOnly c jumpFields s (s.jumpFail c why) := by
  have fail : F.CLE_JUMP_STS_FAIL.among jumpFields = true := by decide
  cases hj : (s.ch c).servo.jump with
  | none =>
    rw [State.jumpFail_none hj]
    exact .refl c _ s
  | some j =>
    rw [State.jumpFail_some hj]
    exact (((((((TouchesOnly.refl c _ s).modServo _).seqHold 0 jumpFields_seq).cw _ (by decide)).cw _ (by decide)).cw _ fail).cirq 1
      (by decide))

theorem State.jumpFail_ch (why : Nat) : (s.jumpFail c why).ch c = { s.ch c with servo := { (s.ch c).servo with jump := none } } := by
  cases hj : (s.ch c).servo.jump with
  | none => rw [State.jumpFail_none hj, ← hj]
  | some j => simp [State.jumpFail_some hj, State.putQ, State.seqHold_ch, State.modServo_ch]

theorem State.tjumpFail_none (h : (s.ch c).servo.tjump = none) (why : Nat) : s.tjumpFail c why = s := by
  simp only [State.tjumpFail, h]

theorem State.tjumpFail_some {j : Jump} (h : (s.ch c).servo.tjump = some j) (why : Nat) : s.tjumpFail c why =
    (((((s.modServo c fun v => { v with tjump := none }).seqHold c [1] 0).putQ c (F.SLT_MANUAL 1) j.m0).wrs (chRg c)
      [(F.CLE_TJUMP_STS_STATE, 3), (F.CLE_TJUMP_STS_FAIL, why)]).cirq c 0x08 3) := by
  simp only [State.tjumpFail, h]

theorem State.tjumpFail_touches (why : Nat) : TouchesOnly c tjumpFields s (s.tjumpFail c why) := by
  have fail : F.CLE_TJUMP_STS_FAIL.among tjumpFields = true := by decide
  cases hj : (s.ch c).servo.tjump with
  | none =>
    rw [State.tjumpFail_none hj]
    exact .refl c _ s
  | some j =>
    rw [State.tjumpFail_some hj]
    exact (((((((TouchesOnly.refl c _ s).modServo _).seqHold 0 (by decide)).cw _ (by decide)).cw _ (by decide)).cw _ fail).cirq 3
      (by decide))

theorem State.tjumpFail_ch (why : Nat) :
    (s.tjumpFail c why).ch c = { s.ch c with servo := { (s.ch c).servo with tjump := none } } := by
  cases hj : (s.ch c).servo.tjump with
  | none => rw [State.tjumpFail_none hj, ← hj]
  | some j => simp [State.tjumpFail_some hj, State.putQ, State.seqHold_ch, State.modServo_ch]

/-! What a transition outside a sequence ends (R168, R179, R181). -/

/-- From `s` to `t` sweeps and jumps of channel `c` ended at most: every engine shows the same, and of the channel only what stands behind
the engine's registers changed. -/
structure EndsMotion (c : Fin 16) (s t : State) : Prop where
  spares : SparesEngine s t
  chan   : { t.ch c with servo := (s.ch c).servo } = s.ch c

namespace EndsMotion

theorem refl (c : Fin 16) (s : State) : EndsMotion c s s := ⟨.refl s, rfl⟩

theorem trans (h : EndsMotion c r s) (k : EndsMotion c s t) : EndsMotion c r t :=
  ⟨h.spares.trans k.spares, by rw [← h.chan, ← k.chan]⟩

theorem ite {P : Prop} [Decidable P] (h : EndsMotion c r s) (k : EndsMotion c r t) : EndsMotion c r (if P then s else t) := by
  split
  · exact h
  · exact k

theorem wr (h : EndsMotion c s t) : (t.ch c).wr = (s.ch c).wr := congrArg (·.wr) h.chan

theorem jumpFail (h : EndsMotion c r s) (why : Nat) : EndsMotion c r (s.jumpFail c why) :=
  h.trans ⟨.of_touches (State.jumpFail_touches why) (by decide), by rw [State.jumpFail_ch]⟩

theorem tjumpFail (h : EndsMotion c r s) (why : Nat) : EndsMotion c r (s.tjumpFail c why) :=
  h.trans ⟨.of_touches (State.tjumpFail_touches why) (by decide), by rw [State.tjumpFail_ch]⟩

theorem sweepEnd (h : EndsMotion c r s) (hs : ∀ w, (s.ch c).servo.sweep = some w → w.slot < 7) (st : Nat) :
    EndsMotion c r (s.sweepEnd c st) :=
  h.trans ⟨State.sweepEnd_spares hs st, by rw [State.sweepEnd_ch]⟩

end EndsMotion

theorem State.swept_iff {q : Nat} : s.swept c q = true ↔ ∃ w, (s.ch c).servo.sweep = some w ∧ w.slot = q := by
  simp [State.swept, Option.any_eq_true]

theorem State.seqBreak_ends : EndsMotion c s (s.seqBreak c q) := by
  unfold State.seqBreak
  extract_lets s1 s2
  have h1 : EndsMotion c s s1 := by
    by_cases hq : s.swept c q = true
    · obtain ⟨w, hw, hslot⟩ := State.swept_iff.mp hq
      simp only [s1, hq, if_true]
      refine (EndsMotion.refl c s).sweepEnd (fun v hv => ?_) 3
      obtain rfl : v = w := Option.some.inj (hv.symm.trans hw)
      omega
    · simp only [s1, if_neg hq]
      exact .refl c s
  have h2 : EndsMotion c s s2 := (h1.jumpFail 3).ite h1
  exact (h2.tjumpFail 3).ite h2

theorem State.endHold_ends : EndsMotion c s (s.endHold c q) := by
  have broken : EndsMotion c s (s.seqBreak c q) := State.seqBreak_ends
  have released (u : State) : EndsMotion c u (u.cw c (F.SLT_STATE_SEQ 6) 0) :=
    ⟨.of_touches ((TouchesOnly.refl c [F.SLT_STATE_SEQ 6] u).cw 0 (by decide)) (by decide), rfl⟩
  simp only [State.endHold]
  refine broken.ite ?_
  split
  · next hq => exact broken.trans (hq ▸ released _)
  · exact broken.jumpFail 3

end Sys2Proof.Machine
end

section
/-! PROOF. Layer and strand jumps: what the sequencer holds, how a jump starts, ends and fails (R180 to R183). -/

namespace Sys2Proof.Machine
open Sys2Proof

variable {r s t : State} {c : Fin 16} {p q : Fin 7}

/-! The lanes hunt after a jump. -/

theorem State.huntLane_servo (l : Fin 8) (a : FrameAddr) : ((s.huntLane c l a).ch c).servo = (s.ch c).servo := by
  have still (u : State) : ((u.zoneDue c l).ch c).servo = (u.ch c).servo :=
    congrArg (·.servo) ((LaneWork.refl c loopFields u).zoneDue l).still
  unfold State.huntLane
  rw [still, State.cw_ch]
  exact congrArg (·.servo) (State.ch_modCh_self _ c _)

theorem State.rehunt_servo : ((s.rehunt c).ch c).servo = (s.ch c).servo := by
  unfold State.rehunt
  rw [State.cirq_ch]
  exact foldl_keeps (fun x => (x.ch c).servo) (fun _ l => State.huntLane_servo l _) _ _

/-- Every lane hunts, whatever each looks for. -/
theorem State.cr_sync_foldl_huntLane (f : State → Fin 8 → FrameAddr) (m : Fin 8) (ls : List (Fin 8)) :
    (ls.foldl (fun s l => s.huntLane c l (f s l)) s).cr c (F.BRC_LANE_STS_SYNC m) =
      if m ∈ ls then 0 else s.cr c (F.BRC_LANE_STS_SYNC m) := by
  induction ls generalizing s with
  | nil => simp
  | cons l ls ih =>
    rw [List.foldl_cons, ih, State.huntLane_sync]
    by_cases hm : m = l <;> simp [hm]

theorem State.rehunt_sync (m : Fin 8) : (s.rehunt c).cr c (F.BRC_LANE_STS_SYNC m) = 0 := by
  have apart : ∀ m : Fin 8, (F.HDR_IRQ_RAW 0x29).apart (F.BRC_LANE_STS_SYNC m) = true := by decide
  unfold State.rehunt
  exact (State.cirq_cr_apart _ (apart m)).trans ((State.cr_sync_foldl_huntLane _ m _).trans (if_pos (List.mem_finRange m)))

theorem State.huntAll_touches : TouchesOnly c pickupFields s (s.huntAll c) := by
  have lane : ∀ l ∈ List.range 8, (F.BRC_LANE_STS_SYNC l).among pickupFields = true ∧ (F.BRC_LANE_STS_FLYCNT l).among pickupFields = true := by
    decide
  unfold State.huntAll
  exact ((TouchesOnly.foldl_mem (fun y l hl => ((TouchesOnly.refl c _ y).cw _ (lane l hl).1).cw _ (lane l hl).2) (.refl c _ s)).modRd
    _).cirq 0 (by decide)

theorem State.huntAll_ch : (s.huntAll c).ch c =
    { s.ch c with rd := { (s.ch c).rd with adipPrev := none, adipLast := none } } := by
  have lanes : (((List.range 8).foldl (fun s l => s.laneSts c l 0 0) s).ch c) = s.ch c :=
    foldl_keeps (fun x => x.ch c) (fun x l => x.wrs_ch ..) _ _
  unfold State.huntAll
  rw [State.cirq_ch, State.modRd_ch, lanes]

/-- Two registers written, read back. -/
theorem State.cr_wrs_pair {f g : Fld} (v w : Nat) (h : g.apart f = true) : (s.wrs (chRg c) [(f, v), (g, w)]).cr c f = v % 2 ^ f.width ∧
    (s.wrs (chRg c) [(f, v), (g, w)]).cr c g = w % 2 ^ g.width :=
  ⟨(State.cr_cw_apart _ _ h).trans (State.cr_cw_self _ _ _ _), State.cr_cw_self _ _ _ _⟩

/-! The sequencer's own transitions. -/

theorem State.transit_from (h : s.mode c q ≠ 3) (dest cause row : Nat) : s.transit c q dest cause row = s.enter c q dest cause := by
  simp [State.transit, h]

theorem State.seqTo_closed_work : SlotWork c q s (s.seqTo c q 3) := by
  unfold State.seqTo
  by_cases h : s.mode c q = 3
  · rw [if_pos h]
    exact .refl c q s
  · rw [if_neg h, State.transit_from h]
    exact State.enter_work.ite ((SlotWork.refl c q s).cirq 5)

/-- The sequencer closes a slot that stands in OPEN or HOLD. -/
theorem State.seqTo_closed (h : s.mode c q = 1 ∨ s.mode c q = 4) : s.seqTo c q 3 = s.enter c q 3 5 := by
  have open_ : s.mode c q ≠ 3 := by omega
  have listed : commanded (s.mode c q) 3 = true := by
    rcases h with h | h <;> rw [h] <;> rfl
  simp only [State.seqTo, if_neg open_, listed, if_true, State.transit_from open_]

/-- A slot that is closed goes to HOLD under the sequencer. -/
def State.sequencerHolds (s : State) (c : Fin 16) (q : Fin 7) : State := if s.mode c q = 3 then s.seqTo c q 4 else s

/-- The slots besides FOC that a layer jump holds. -/
def State.slotsHeld (s : State) (c : Fin 16) : State := ((s.sequencerHolds c 1).sequencerHolds c 3).sequencerHolds c 4

theorem State.sequencerHolds_eq (h : (s.ch c).wr.session = .idle) :
    s.sequencerHolds c q = if s.mode c q = 3 then s.enter c q 4 5 else s := by
  unfold State.sequencerHolds
  split
  · next hm => exact State.seqTo_idle h (by rw [hm]; rfl) (by omega)
  · rfl

theorem State.sequencerHolds_work (h : (s.ch c).wr.session = .idle) : SlotWork c q s (s.sequencerHolds c q) := by
  rw [State.sequencerHolds_eq h]
  exact State.enter_work.ite (.refl c q s)

theorem State.sequencerHolds_mode (h : (s.ch c).wr.session = .idle) :
    (s.sequencerHolds c q).mode c p = if p = q ∧ s.mode c p = 3 then 4 else s.mode c p := by
  by_cases hp : p = q
  · subst hp
    rw [State.sequencerHolds_eq h]
    by_cases hm : s.mode c p = 3
    · simp only [hm, if_true, and_self, (State.enter_shown (s := s) (c := c) (q := p) (dest := 4) (cause := 5) (by omega) (by omega)).1]
    · simp [hm]
  · rw [(State.sequencerHolds_work h).mode hp]
    simp [hp]

/-- The registers of slots that the sequencer's transitions for a layer jump reach. -/
def heldFields : List Fld := slotFields 0 ++ slotFields 1 ++ slotFields 3 ++ slotFields 4 ++ [F.SLT_MANUAL 5]

/-- From `s` to `t` the slots of a layer jump changed: their registers and what stands behind the slots. -/
structure SlotsWork (c : Fin 16) (s t : State) : Prop where
  touches : TouchesOnly c heldFields s t
  chan    : (t.ch c).noSlots = (s.ch c).noSlots

namespace SlotsWork

theorem refl (c : Fin 16) (s : State) : SlotsWork c s s := ⟨.refl c _ s, rfl⟩

theorem trans (h : SlotsWork c r s) (k : SlotsWork c s t) : SlotsWork c r t := ⟨h.touches.trans k.touches, k.chan.trans h.chan⟩

theorem slot (h : SlotsWork c r s) (k : SlotWork c q s t) (hq : slotFields q ⊆ heldFields) : SlotsWork c r t :=
  h.trans ⟨k.touches.mono hq, k.chan⟩

theorem wr (h : SlotsWork c s t) : (t.ch c).wr = (s.ch c).wr := congrArg (·.wr) h.chan

end SlotsWork

theorem slotFields_held : ∀ q ∈ ([0, 1, 3, 4] : List (Fin 7)), slotFields q ⊆ heldFields := by decide

theorem State.slotsHeld_work (h : (s.ch c).wr.session = .idle) : SlotsWork c s (s.slotsHeld c) := by
  have h1 : SlotsWork c s (s.sequencerHolds c 1) := (SlotsWork.refl c s).slot (State.sequencerHolds_work h) (slotFields_held 1 (by decide))
  have h3 : SlotsWork c s ((s.sequencerHolds c 1).sequencerHolds c 3) :=
    h1.slot (State.sequencerHolds_work (by rw [h1.wr, h])) (slotFields_held 3 (by decide))
  exact h3.slot (State.sequencerHolds_work (by rw [h3.wr, h])) (slotFields_held 4 (by decide))

theorem State.slotsHeld_mode (h : (s.ch c).wr.session = .idle) :
    (s.slotsHeld c).mode c p = if p ∈ ([1, 3, 4] : List (Fin 7)) ∧ s.mode c p = 3 then 4 else s.mode c p := by
  have i1 : ((s.sequencerHolds c 1).ch c).wr.session = .idle := by rw [(State.sequencerHolds_work h).wr, h]
  have i3 : (((s.sequencerHolds c 1).sequencerHolds c 3).ch c).wr.session = .idle := by rw [(State.sequencerHolds_work i1).wr, i1]
  rw [State.slotsHeld, State.sequencerHolds_mode i3, State.sequencerHolds_mode i1, State.sequencerHolds_mode h]
  fin_cases p <;> simp

theorem State.setLayerCode_work (layer : Nat) : SlotsWork c s (s.setLayerCode c layer) := by
  unfold State.setLayerCode
  split
  · exact .refl c s
  · exact ⟨(TouchesOnly.refl c _ s).cw _ (by decide), rfl⟩

theorem State.setLayerCode_mode (layer : Nat) : (s.setLayerCode c layer).mode c p = s.mode c p := by
  have apart : ∀ p : Fin 7, (F.SLT_MANUAL 5).apart (F.SLT_STATE_MODE p) = true := by decide
  unfold State.setLayerCode
  split
  · rfl
  · exact State.cr_cw_apart _ _ (apart p)

/-! A layer jump starts. -/

/-- The slots as a layer jump takes them: TRK, TLR and TLT held, the layer's code in SAC, FOC open. -/
def State.jumpTakes (s : State) (c : Fin 16) (layer : Nat) : State := ((s.slotsHeld c).setLayerCode c layer).seqTo c 0 1

/-- A layer jump shown as it starts, its slots the sequencer's. -/
def State.jumpShows (s : State) (c : Fin 16) (j : Jump) : State :=
  ((s.modServo c fun v => { v with jump := some j }).seqHold c [0, 1, 3, 4] 1).wrs (chRg c)
    [(F.CLE_JUMP_STS_STATE, 1), (F.CLE_JUMP_STS_FAIL, 0)]

theorem layerJump_refused {layer : Nat}
    (h : (s.ch c).servo.jump.isSome ∨ s.mode c 0 ≠ 3 ∨ s.layerNow c = layer ∨ s.jumpsBarred c = true) :
    layerJump c layer s = s.jumpRefused c false := by
  have barred : ((s.ch c).servo.jump.isSome || s.mode c 0 != 3 || s.layerNow c == layer || s.jumpsBarred c) = true := by
    simpa [or_assoc] using h
  simp only [layerJump, barred, if_true]

theorem layerJump_runs {layer : Nat} (hj : (s.ch c).servo.jump = none) (h0 : s.mode c 0 = 3) (hl : s.layerNow c ≠ layer)
    (hs : (s.ch c).wr.session = .idle) : layerJump c layer s = ((s.jumpTakes c layer).jumpShows c
      (s.jumpStart c (if layer > s.layerNow c then 0 else 1) layer (s.layerNow c) (s.q21 c (F.SLT_OUT 0)))).huntAll c := by
  have free : ((s.ch c).servo.jump.isSome || s.mode c 0 != 3 || s.layerNow c == layer || s.jumpsBarred c) = false := by
    simp [hj, h0, hl, State.jumpsBarred, hs]
  simp only [layerJump, free, Bool.false_eq_true, if_false]
  rfl

theorem State.jumpTakes_eq {layer : Nat} (h0 : s.mode c 0 = 3) (hs : (s.ch c).wr.session = .idle) :
    SlotsWork c s (s.jumpTakes c layer) ∧ s.jumpTakes c layer = ((s.slotsHeld c).setLayerCode c layer).enter c 0 1 5 := by
  have coded : SlotsWork c s ((s.slotsHeld c).setLayerCode c layer) := (State.slotsHeld_work hs).trans (State.setLayerCode_work layer)
  have closed : ((s.slotsHeld c).setLayerCode c layer).mode c 0 = 3 :=
    (State.setLayerCode_mode (p := 0) layer).trans ((State.slotsHeld_mode (p := 0) hs).trans (by simp [h0]))
  have opened : s.jumpTakes c layer = ((s.slotsHeld c).setLayerCode c layer).enter c 0 1 5 :=
    State.seqTo_idle (q := 0) (by rw [coded.wr, hs]) (congrArg (commanded · 1) closed) (closed.trans_ne (by decide))
  exact ⟨opened ▸ coded.slot State.enter_work (slotFields_held 0 (by decide)), opened⟩

theorem State.jumpTakes_mode {layer : Nat} (h0 : s.mode c 0 = 3) (hs : (s.ch c).wr.session = .idle) :
    (s.jumpTakes c layer).mode c p =
      if p = 0 then 1 else if p ∈ ([1, 3, 4] : List (Fin 7)) ∧ s.mode c p = 3 then 4 else s.mode c p := by
  rw [(State.jumpTakes_eq h0 hs).2]
  split
  · next hp =>
    subst hp
    exact (State.enter_shown (by omega) (by omega)).1
  · next hp => rw [State.enter_work.mode hp, State.setLayerCode_mode, State.slotsHeld_mode hs]

theorem State.jumpShows_touches (j : Jump) : TouchesOnly c jumpFields s (s.jumpShows c j) :=
  (((TouchesOnly.refl c _ s).modServo _).seqHold 1 jumpFields_seq).wrs (gs := [F.CLE_JUMP_STS_STATE, F.CLE_JUMP_STS_FAIL]) rfl (by decide)

theorem State.jumpShows_ch (j : Jump) :
    (s.jumpShows c j).ch c = { s.ch c with servo := { (s.ch c).servo with jump := some j } } := by
  simp [State.jumpShows, State.seqHold_ch, State.modServo_ch]

/-- A jump's status register and the slots it holds, read back. -/
theorem State.jumpShows_regs (j : Jump) : (s.jumpShows c j).cr c F.CLE_JUMP_STS_STATE = 1 ∧ (s.jumpShows c j).cr c F.CLE_JUMP_STS_FAIL = 0 ∧
    (s.jumpShows c j).cr c F.CLE_JUMP_STS_LAYER = s.cr c F.CLE_JUMP_STS_LAYER ∧
    ∀ q ∈ [0, 1, 3, 4], (s.jumpShows c j).cr c (F.SLT_STATE_SEQ q) = 1 := by
  have seq : ∀ q ∈ [0, 1, 3, 4], (F.SLT_STATE_SEQ q).outside [F.CLE_JUMP_STS_STATE, F.CLE_JUMP_STS_FAIL] = true := by decide
  have status : ∀ q ∈ [0, 1, 3, 4], (F.SLT_STATE_SEQ q).apart F.CLE_JUMP_STS_LAYER = true := by decide
  have last : TouchesOnly c [F.CLE_JUMP_STS_STATE, F.CLE_JUMP_STS_FAIL]
      ((s.modServo c fun v => { v with jump := some j }).seqHold c [0, 1, 3, 4] 1) (s.jumpShows c j) :=
    (TouchesOnly.refl c _ _).wrs (gs := [F.CLE_JUMP_STS_STATE, F.CLE_JUMP_STS_FAIL]) rfl (by decide)
  obtain ⟨state, fail⟩ := State.cr_wrs_pair (s := (s.modServo c fun v => { v with jump := some j }).seqHold c [0, 1, 3, 4] 1) (c := c)
    (f := F.CLE_JUMP_STS_STATE) (g := F.CLE_JUMP_STS_FAIL) 1 0 (by decide)
  refine ⟨state, fail, ?_, fun q hq => ?_⟩
  · rw [last.cr (by decide)]
    exact State.cr_foldl_cw_apart status
  · rw [last.cr (seq q hq)]
    exact State.seqHold_shown (by decide) hq (by omega)

end Sys2Proof.Machine
end

section
/-! PROOF. What a jump shows as it starts, ends and fails, and a sweep likewise (R179 to R183). -/

namespace Sys2Proof.Machine
open Sys2Proof

variable {r s t : State} {c : Fin 16} {p q : Fin 7}

/-- A value in Q format, read back. -/
theorem State.cr_putQ_self {f : Fld} (x : Int) (hf : f.width = 24) : (s.putQ c f x).cr c f = ofSigned 24 x := by
  rw [State.putQ, State.cr_cw_self, hf]
  refine Nat.mod_eq_of_lt ?_
  unfold ofSigned
  omega

/-! A layer jump that starts. -/

theorem layerJump_shown {layer : Nat} (hj : (s.ch c).servo.jump = none) (h0 : s.mode c 0 = 3) (hl : s.layerNow c ≠ layer)
    (hs : (s.ch c).wr.session = .idle) : ∃ t, layerJump c layer s = t ∧
    t.cr c F.CLE_JUMP_STS_STATE = 1 ∧ t.cr c F.CLE_JUMP_STS_FAIL = 0 ∧ t.cr c F.CLE_JUMP_STS_LAYER = s.cr c F.CLE_JUMP_STS_LAYER ∧
    (∀ p : Fin 7, t.mode c p =
      if p = 0 then 1 else if p ∈ ([1, 3, 4] : List (Fin 7)) ∧ s.mode c p = 3 then 4 else s.mode c p) ∧
    (∀ q ∈ [0, 1, 3, 4], t.cr c (F.SLT_STATE_SEQ q) = 1) ∧
    (∃ j, (t.ch c).servo.jump = some j ∧ j.target = layer ∧ j.stage = .kick ∧ j.t = (if s.layerNow c < layer then 0 else 1) ∧
      j.m0 = s.q21 c (F.SLT_OUT 0)) ∧
    (t.ch c).rd.adipPrev = none ∧ t.dram = s.dram ∧ ∀ d, d ≠ c → t.ch d = s.ch d := by
  have seq : ∀ q ∈ [0, 1, 3, 4], (F.SLT_STATE_SEQ q).outside pickupFields = true := by decide
  have mode : ∀ p : Fin 7, (F.SLT_STATE_MODE p).outside (jumpFields ++ pickupFields) = true := by decide
  refine ⟨_, layerJump_runs hj h0 hl hs, ?_⟩
  generalize hk : s.jumpStart c (if layer > s.layerNow c then 0 else 1) layer (s.layerNow c) (s.q21 c (F.SLT_OUT 0)) = k
  obtain ⟨hstate, hfail, hlayer, hseq⟩ := State.jumpShows_regs (s := s.jumpTakes c layer) (c := c) k
  have taken : SlotsWork c s (s.jumpTakes c layer) := (State.jumpTakes_eq h0 hs).1
  have hunts : TouchesOnly c pickupFields ((s.jumpTakes c layer).jumpShows c k) (((s.jumpTakes c layer).jumpShows c k).huntAll c) :=
    State.huntAll_touches
  have after : TouchesOnly c (jumpFields ++ pickupFields) (s.jumpTakes c layer) (((s.jumpTakes c layer).jumpShows c k).huntAll c) :=
    ((State.jumpShows_touches k).mono (List.subset_append_left _ _)).trans (hunts.mono (List.subset_append_right _ _))
  refine ⟨(hunts.cr (by decide)).trans hstate, (hunts.cr (by decide)).trans hfail,
    (hunts.cr (by decide)).trans (hlayer.trans (taken.touches.cr (by decide))),
    fun p => (after.cr (mode p)).trans (State.jumpTakes_mode h0 hs), fun q hq => (hunts.cr (seq q hq)).trans (hseq q hq),
    ⟨k, by rw [State.huntAll_ch, State.jumpShows_ch], hk ▸ rfl, hk ▸ rfl, hk ▸ rfl, hk ▸ rfl⟩, by rw [State.huntAll_ch],
    after.dram.trans taken.touches.dram, fun d hd => (after.others d hd).trans (taken.touches.others d hd)⟩

/-! Refused jumps. -/

theorem State.jumpRefused_bit (strand : Bool) :
    bitAt ((s.jumpRefused c strand).cr c (F.HDR_IRQ_RAW 0x08)) (if strand then 3 else 1) = true := by
  cases strand with
  | true => exact State.cirq_bit (by decide) (by decide)
  | false => exact State.cirq_bit (by decide) (by decide)

theorem State.jumpRefused_shown (h : (s.ch c).servo.jump = none) : (s.jumpRefused c false).cr c F.CLE_JUMP_STS_STATE = 3 ∧
    (s.jumpRefused c false).cr c F.CLE_JUMP_STS_FAIL = 1 := by
  obtain ⟨hstate, hfail⟩ := State.cr_wrs_pair (s := s) (c := c) (f := F.CLE_JUMP_STS_STATE) (g := F.CLE_JUMP_STS_FAIL) 3 1 (by decide)
  simp only [State.jumpRefused, h, Option.isSome_none, Bool.false_eq_true, if_false]
  exact ⟨(State.cirq_cr_apart _ (by decide)).trans hstate, (State.cirq_cr_apart _ (by decide)).trans hfail⟩

/-! Jumps that fail. -/

theorem State.jumpFail_shown {j : Jump} (h : (s.ch c).servo.jump = some j) : (s.jumpFail c 2).cr c F.CLE_JUMP_STS_STATE = 3 ∧
    (s.jumpFail c 2).cr c F.CLE_JUMP_STS_FAIL = 2 ∧ (s.jumpFail c 2).cr c (F.SLT_MANUAL 0) = ofSigned 24 j.m0 ∧
    (∀ q ∈ [0, 1, 3, 4], (s.jumpFail c 2).cr c (F.SLT_STATE_SEQ q) = 0) ∧
    bitAt ((s.jumpFail c 2).cr c (F.HDR_IRQ_RAW 0x08)) 1 = true := by
  have seq : ∀ q ∈ [0, 1, 3, 4], (F.SLT_MANUAL 0).apart (F.SLT_STATE_SEQ q) = true ∧
      (F.SLT_STATE_SEQ q).outside [F.CLE_JUMP_STS_STATE, F.CLE_JUMP_STS_FAIL, F.HDR_IRQ_RAW 0x08] = true := by decide
  rw [State.jumpFail_some h]
  generalize hx : (s.modServo c fun v => { v with jump := none }).seqHold c [0, 1, 3, 4] 0 = x
  obtain ⟨hstate, hfail⟩ := State.cr_wrs_pair (s := x.putQ c (F.SLT_MANUAL 0) j.m0) (c := c) (f := F.CLE_JUMP_STS_STATE)
    (g := F.CLE_JUMP_STS_FAIL) 3 2 (by decide)
  have tail : TouchesOnly c [F.CLE_JUMP_STS_STATE, F.CLE_JUMP_STS_FAIL, F.HDR_IRQ_RAW 0x08] (x.putQ c (F.SLT_MANUAL 0) j.m0)
      (((x.putQ c (F.SLT_MANUAL 0) j.m0).wrs (chRg c) [(F.CLE_JUMP_STS_STATE, 3), (F.CLE_JUMP_STS_FAIL, 2)]).cirq c 0x08 1) :=
    ((TouchesOnly.refl c _ _).wrs (gs := [F.CLE_JUMP_STS_STATE, F.CLE_JUMP_STS_FAIL]) rfl (by decide)).cirq 1 (by decide)
  refine ⟨(State.cirq_cr_apart _ (by decide)).trans hstate, (State.cirq_cr_apart _ (by decide)).trans hfail,
    (tail.cr (by decide)).trans (State.cr_putQ_self _ rfl), fun q hq => ?_, State.cirq_bit (by decide) (by decide)⟩
  rw [tail.cr (seq q hq).2, State.putQ, State.cr_cw_apart _ _ (seq q hq).1, ← hx]
  exact State.seqHold_shown (by decide) hq (by omega)

theorem State.tjumpFail_shown {j : Jump} (h : (s.ch c).servo.tjump = some j) : (s.tjumpFail c 2).cr c F.CLE_TJUMP_STS_STATE = 3 ∧
    (s.tjumpFail c 2).cr c F.CLE_TJUMP_STS_FAIL = 2 ∧ (s.tjumpFail c 2).cr c (F.SLT_MANUAL 1) = ofSigned 24 j.m0 ∧
    (s.tjumpFail c 2).cr c (F.SLT_STATE_SEQ 1) = 0 ∧ bitAt ((s.tjumpFail c 2).cr c (F.HDR_IRQ_RAW 0x08)) 3 = true := by
  rw [State.tjumpFail_some h]
  generalize hx : (s.modServo c fun v => { v with tjump := none }).seqHold c [1] 0 = x
  obtain ⟨hstate, hfail⟩ := State.cr_wrs_pair (s := x.putQ c (F.SLT_MANUAL 1) j.m0) (c := c) (f := F.CLE_TJUMP_STS_STATE)
    (g := F.CLE_TJUMP_STS_FAIL) 3 2 (by decide)
  have tail : TouchesOnly c [F.CLE_TJUMP_STS_STATE, F.CLE_TJUMP_STS_FAIL, F.HDR_IRQ_RAW 0x08] (x.putQ c (F.SLT_MANUAL 1) j.m0)
      (((x.putQ c (F.SLT_MANUAL 1) j.m0).wrs (chRg c) [(F.CLE_TJUMP_STS_STATE, 3), (F.CLE_TJUMP_STS_FAIL, 2)]).cirq c 0x08 3) :=
    ((TouchesOnly.refl c _ _).wrs (gs := [F.CLE_TJUMP_STS_STATE, F.CLE_TJUMP_STS_FAIL]) rfl (by decide)).cirq 3 (by decide)
  refine ⟨(State.cirq_cr_apart _ (by decide)).trans hstate, (State.cirq_cr_apart _ (by decide)).trans hfail,
    (tail.cr (by decide)).trans (State.cr_putQ_self _ rfl), ?_, State.cirq_bit (by decide) (by decide)⟩
  rw [tail.cr (by decide), State.putQ, State.cr_cw_apart _ _ (by decide), ← hx]
  exact State.seqHold_shown (by decide) List.mem_cons_self (by omega)

/-! The end of a layer jump. -/

/-- What the end of a layer jump shows. -/
def jumpOver (j : Jump) : List (Fld × Nat) :=
  [(F.CLE_JUMP_STS_STATE, 2), (F.CLE_JUMP_STS_LAYER, j.target), (F.CLE_JUMP_STS_FAIL, 0)]

def jumpStatusFields : List Fld := [F.CLE_JUMP_STS_STATE, F.CLE_JUMP_STS_LAYER, F.CLE_JUMP_STS_FAIL]

/-- FOC closed and released at the end of a layer jump. -/
def State.jumpCloses (s : State) (c : Fin 16) : State :=
  ((s.seqTo c 0 3).modServo c fun v => { v with jump := none }).seqHold c [0, 1, 3, 4] 0

/-- A layer jump ended: FOC armed, its end shown. -/
def State.jumpEnds (s : State) (c : Fin 16) (j : Jump) : State := (guylineArm c 0 (s.jumpCloses c)).wrs (chRg c) (jumpOver j)

theorem layerJumpDone_none (h : (s.ch c).servo.jump = none) : layerJumpDone c s = s := by
  simp only [layerJumpDone, h]

theorem layerJumpDone_some {j : Jump} (h : (s.ch c).servo.jump = some j) :
    layerJumpDone c s = ((((s.jumpEnds c j).seqTo c 3 3).seqTo c 4 3).cirq c 0x08 0).rehunt c := by
  simp only [layerJumpDone, h]
  rfl

theorem State.guylineArm_closed (h : s.mode c q = 3) : guylineArm c q s = s.cw c (F.SLT_STATE_ARMED q) 1 := by
  simp [guylineArm, h]

def seqFields : List Fld := [F.SLT_STATE_SEQ 0, F.SLT_STATE_SEQ 1, F.SLT_STATE_SEQ 3, F.SLT_STATE_SEQ 4]

theorem State.jumpCloses_touches (h : s.mode c 0 = 1) : TouchesOnly c seqFields (s.enter c 0 3 5) (s.jumpCloses c) := by
  rw [State.jumpCloses, State.seqTo_closed (q := 0) (.inl h)]
  exact ((TouchesOnly.refl c _ _).modServo _).seqHold 0 (by decide)

theorem State.jumpCloses_mode (h : s.mode c 0 = 1) : (s.jumpCloses c).mode c p = if p = 0 then 3 else s.mode c p := by
  have outside : ∀ p : Fin 7, (F.SLT_STATE_MODE p).outside seqFields = true := by decide
  refine ((State.jumpCloses_touches h).cr (outside p)).trans ?_
  split
  · next hp =>
    subst hp
    exact (State.enter_shown (by omega) (by omega)).1
  · next hp => exact State.enter_work.mode hp

theorem State.jumpEnds_eq (h : s.mode c 0 = 1) (j : Jump) :
    s.jumpEnds c j = ((s.jumpCloses c).cw c (F.SLT_STATE_ARMED 0) 1).wrs (chRg c) (jumpOver j) :=
  congrArg (State.wrs · (chRg c) (jumpOver j)) (State.guylineArm_closed (q := 0) (State.jumpCloses_mode (p := 0) h))

theorem State.jumpEnds_mode (h : s.mode c 0 = 1) (j : Jump) : (s.jumpEnds c j).mode c p = if p = 0 then 3 else s.mode c p := by
  have outside : ∀ p : Fin 7, (F.SLT_STATE_MODE p).outside (F.SLT_STATE_ARMED 0 :: jumpStatusFields) = true := by decide
  rw [State.jumpEnds_eq h]
  exact (((TouchesOnly.refl c _ _).cw _ (by decide)).wrs (gs := jumpStatusFields) rfl (by decide)).cr (outside p) |>.trans
    (State.jumpCloses_mode h)

theorem State.jumpEnds_regs (h : s.mode c 0 = 1) (j : Jump) : (s.jumpEnds c j).cr c (F.SLT_STATE_ARMED 0) = 1 ∧
    (s.jumpEnds c j).cr c F.CLE_JUMP_STS_STATE = 2 ∧ (s.jumpEnds c j).cr c F.CLE_JUMP_STS_LAYER = j.target % 32 ∧
    (s.jumpEnds c j).cr c F.CLE_JUMP_STS_FAIL = 0 ∧ ∀ q ∈ [0, 1, 3, 4], (s.jumpEnds c j).cr c (F.SLT_STATE_SEQ q) = 0 := by
  have seq : ∀ q ∈ [0, 1, 3, 4], (F.SLT_STATE_SEQ q).outside (F.SLT_STATE_ARMED 0 :: jumpStatusFields) = true := by decide
  rw [State.jumpEnds_eq h]
  have shown (u : State) {f : Fld} {v : Nat} (hm : (f, v) ∈ jumpOver j) : (u.wrs (chRg c) (jumpOver j)).cr c f = v % 2 ^ f.width :=
    State.cr_wrs_of_mem (fs := jumpStatusFields) rfl (by decide) hm
  have last (u : State) : TouchesOnly c jumpStatusFields u (u.wrs (chRg c) (jumpOver j)) :=
    (TouchesOnly.refl c _ u).wrs (gs := jumpStatusFields) rfl (by decide)
  refine ⟨((last _).cr (by decide)).trans (State.cr_cw_self _ _ _ _), shown _ (f := F.CLE_JUMP_STS_STATE) (v := 2) (by simp [jumpOver]),
    shown _ (f := F.CLE_JUMP_STS_LAYER) (v := j.target) (by simp [jumpOver]),
    shown _ (f := F.CLE_JUMP_STS_FAIL) (v := 0) (by simp [jumpOver]), fun q hq => ?_⟩
  refine ((((TouchesOnly.refl c _ _).cw _ (by decide)).wrs (gs := jumpStatusFields) rfl (by decide)).cr (seq q hq)).trans ?_
  exact State.seqHold_shown (by decide) hq (by omega)

theorem State.jumpEnds_jump (h : s.mode c 0 = 1) (j : Jump) : ((s.jumpEnds c j).ch c).servo.jump = none := by
  rw [State.jumpEnds_eq h, State.wrs_ch, State.cw_ch, State.jumpCloses, State.seqHold_ch, State.modServo_servo]

theorem layerJumpDone_shown {j : Jump} (h : (s.ch c).servo.jump = some j) (h0 : s.mode c 0 = 1) : ∃ t, layerJumpDone c s = t ∧
    (t.ch c).servo.jump = none ∧ t.mode c 0 = 3 ∧ t.cr c (F.SLT_STATE_ARMED 0) = 1 ∧ t.cr c F.CLE_JUMP_STS_STATE = 2 ∧
    t.cr c F.CLE_JUMP_STS_LAYER = j.target % 32 ∧ t.cr c F.CLE_JUMP_STS_FAIL = 0 ∧ (∀ q ∈ [0, 1, 3, 4], t.cr c (F.SLT_STATE_SEQ q) = 0) ∧
    bitAt (t.cr c (F.HDR_IRQ_RAW 0x08)) 0 = true ∧ (∀ q ∈ ([3, 4] : List (Fin 7)), s.mode c q = 4 → t.mode c q = 3) ∧
    t.mode c 1 = s.mode c 1 := by
  have modes : ∀ p : Fin 7, (F.SLT_STATE_MODE p).outside (F.HDR_IRQ_RAW 0x08 :: pickupFields) = true := by decide
  have seq : ∀ q ∈ [0, 1, 3, 4],
      (F.SLT_STATE_SEQ q).outside (slotFields 3 ++ slotFields 4 ++ F.HDR_IRQ_RAW 0x08 :: pickupFields) = true := by decide
  obtain ⟨harmed, hstate, hlayer, hfail, hseq⟩ := State.jumpEnds_regs h0 j
  have hmode (p : Fin 7) := State.jumpEnds_mode (p := p) h0 j
  have hjump := State.jumpEnds_jump h0 j
  refine ⟨_, layerJumpDone_some h, ?_⟩
  generalize s.jumpEnds c j = u at *
  have h3 : SlotWork c 3 u (u.seqTo c 3 3) := State.seqTo_closed_work
  have h4 : SlotWork c 4 (u.seqTo c 3 3) ((u.seqTo c 3 3).seqTo c 4 3) := State.seqTo_closed_work
  have hunts (x : State) : TouchesOnly c (F.HDR_IRQ_RAW 0x08 :: pickupFields) x ((x.cirq c 0x08 0).rehunt c) :=
    ((TouchesOnly.refl c _ x).cirq 0 (by decide)).trans ((TouchesOnly.refl c pickupFields _).rehunt.mono (List.subset_cons_self _ _))
  have all : TouchesOnly c (slotFields 3 ++ slotFields 4 ++ F.HDR_IRQ_RAW 0x08 :: pickupFields) u
      ((((u.seqTo c 3 3).seqTo c 4 3).cirq c 0x08 0).rehunt c) :=
    ((h3.touches.mono (by simp)).trans (h4.touches.mono (by simp))).trans ((hunts _).mono (by simp))
  have jump : (((u.seqTo c 3 3).seqTo c 4 3).ch c).servo.jump = (u.ch c).servo.jump :=
    congrArg (·.servo.jump) (h4.chan.trans h3.chan)
  have closes (x : State) (q : Fin 7) (hq : x.mode c q = 4) : (x.seqTo c q 3).mode c q = 3 := by
    rw [State.seqTo_closed (.inr hq)]
    exact (State.enter_shown (by omega) (by omega)).1
  refine ⟨by rw [State.rehunt_servo, State.cirq_ch, jump, hjump], (all.cr (by decide)).trans (hmode 0), (all.cr (by decide)).trans harmed,
    (all.cr (by decide)).trans hstate, (all.cr (by decide)).trans hlayer, (all.cr (by decide)).trans hfail,
    fun q hq => (all.cr (seq q hq)).trans (hseq q hq), ?_, fun q hq hm => ((hunts _).cr (modes q)).trans ?_,
    (all.cr (by decide)).trans (hmode 1)⟩
  · exact (congrArg (bitAt · 0) ((TouchesOnly.refl c pickupFields _).rehunt.cr (by decide))).trans (State.cirq_bit (by decide) (by decide))
  · have kept : u.mode c q = 4 := by
      rw [hmode q, if_neg (by rintro rfl; simp at hq), hm]
    rcases List.mem_cons.mp hq with rfl | hq
    · exact (h4.mode (p := 3) (by decide)).trans (closes _ 3 kept)
    · obtain rfl := List.mem_singleton.mp hq
      exact closes _ 4 ((h3.mode (p := 4) (by decide)).trans kept)

end Sys2Proof.Machine
end

section
/-! PROOF. Strand jumps and sweeps, and the statement about the sequences of the engine (R179 to R183, R186). -/

namespace Sys2Proof.Machine
open Sys2Proof

variable {r s t : State} {c : Fin 16} {p : Fin 7} {n : BitVec 7}

/-! Strand jumps. -/

theorem strandJump_still (h : n.toInt = 0 ∨ n.toInt = -64) : strandJump c n s = s := by
  simp only [strandJump, if_pos h]

theorem strandJump_refused (h0 : n.toInt ≠ 0) (h64 : n.toInt ≠ -64)
    (h : (s.ch c).servo.tjump.isSome ∨ s.mode c 1 ≠ 3 ∨ s.jumpsBarred c = true) : strandJump c n s = s.jumpRefused c true := by
  have barred : ((s.ch c).servo.tjump.isSome || s.mode c 1 != 3 || s.jumpsBarred c) = true := by simpa [or_assoc] using h
  have moves : ¬ (n.toInt = 0 ∨ n.toInt = -64) := by simp [h0, h64]
  simp only [strandJump, if_neg moves, barred, if_true]

/-- TRK moved by the sequencer as a strand jump starts or ends, and the jump shown so. -/
def State.trackShown (s : State) (c : Fin 16) (dest : Nat) (j : Option Jump) (hold status : Nat) : State :=
  (((s.enter c 1 dest 5).modServo c fun v => { v with tjump := j }).seqHold c [1] hold).wrs (chRg c)
    [(F.CLE_TJUMP_STS_STATE, status), (F.CLE_TJUMP_STS_FAIL, 0)]

section TrackShown
variable {dest hold status : Nat} {j : Option Jump}

theorem State.trackShown_touches : TouchesOnly c tjumpFields (s.enter c 1 dest 5) (s.trackShown c dest j hold status) :=
  (((TouchesOnly.refl c _ _).modServo _).seqHold hold (by decide)).wrs (gs := [F.CLE_TJUMP_STS_STATE, F.CLE_TJUMP_STS_FAIL]) rfl
    (by decide)

theorem State.trackShown_jump : ((s.trackShown c dest j hold status).ch c).servo.tjump = j := by
  rw [State.trackShown, State.wrs_ch, State.seqHold_ch, State.modServo_ch]

theorem State.trackShown_regs (hh : hold < 2) (hs : status < 4) : (s.trackShown c dest j hold status).cr c F.CLE_TJUMP_STS_STATE = status ∧
    (s.trackShown c dest j hold status).cr c F.CLE_TJUMP_STS_FAIL = 0 ∧
    (s.trackShown c dest j hold status).cr c (F.SLT_STATE_SEQ 1) = hold := by
  have last (u : State) : TouchesOnly c [F.CLE_TJUMP_STS_STATE, F.CLE_TJUMP_STS_FAIL] u
      (u.wrs (chRg c) [(F.CLE_TJUMP_STS_STATE, status), (F.CLE_TJUMP_STS_FAIL, 0)]) :=
    (TouchesOnly.refl c _ u).wrs (gs := [F.CLE_TJUMP_STS_STATE, F.CLE_TJUMP_STS_FAIL]) rfl (by decide)
  obtain ⟨hstate, hfail⟩ := State.cr_wrs_pair (s := ((s.enter c 1 dest 5).modServo c fun v => { v with tjump := j }).seqHold c [1] hold)
    (c := c) (f := F.CLE_TJUMP_STS_STATE) (g := F.CLE_TJUMP_STS_FAIL) status 0 (by decide)
  exact ⟨hstate.trans (Nat.mod_eq_of_lt hs), hfail,
    ((last _).cr (by decide)).trans (State.seqHold_shown (by decide) List.mem_cons_self hh)⟩

/-- The lanes' hunt behind it leaves the slots as the step left them. -/
theorem State.trackShown_mode (hd : dest < 8) (h : TouchesOnly c (F.HDR_IRQ_RAW 0x08 :: pickupFields) (s.trackShown c dest j hold status) t) :
    t.mode c p = if p = 1 then dest else s.mode c p := by
  have modes : ∀ q : Fin 7, (F.SLT_STATE_MODE q).outside tjumpFields = true ∧
      (F.SLT_STATE_MODE q).outside (F.HDR_IRQ_RAW 0x08 :: pickupFields) = true := by decide
  refine ((h.cr (modes p).2).trans (State.trackShown_touches.cr (modes p).1)).trans ?_
  split
  · next hp =>
    subst hp
    exact (State.enter_shown hd (by omega)).1
  · next hp => exact State.enter_work.mode hp

end TrackShown

theorem strandJump_runs (h0 : n.toInt ≠ 0) (h64 : n.toInt ≠ -64) (hj : (s.ch c).servo.tjump = none) (hm : s.mode c 1 = 3)
    (hs : (s.ch c).wr.session = .idle) : strandJump c n s = (s.trackShown c 1
      (some (s.jumpStart c (if n.toInt > 0 then 2 else 3) n.toInt.natAbs 0 (s.q21 c (F.SLT_OUT 1)))) 1 1).huntAll c := by
  have free : ((s.ch c).servo.tjump.isSome || s.mode c 1 != 3 || s.jumpsBarred c) = false := by simp [hj, hm, State.jumpsBarred, hs]
  have moves : ¬ (n.toInt = 0 ∨ n.toInt = -64) := by simp [h0, h64]
  have opened : s.seqTo c 1 1 = s.enter c 1 1 5 :=
    State.seqTo_idle (q := 1) hs (congrArg (commanded · 1) hm) (hm.trans_ne (by decide))
  simp only [strandJump, if_neg moves, free, Bool.false_eq_true, if_false, opened]
  rfl

theorem strandJump_shown (h0 : n.toInt ≠ 0) (h64 : n.toInt ≠ -64) (hj : (s.ch c).servo.tjump = none) (hm : s.mode c 1 = 3)
    (hs : (s.ch c).wr.session = .idle) : ∃ t, strandJump c n s = t ∧ t.cr c F.CLE_TJUMP_STS_STATE = 1 ∧
    t.cr c F.CLE_TJUMP_STS_FAIL = 0 ∧ t.mode c 1 = 1 ∧ t.cr c (F.SLT_STATE_SEQ 1) = 1 ∧
    (∀ q : Fin 7, q ≠ 1 → t.mode c q = s.mode c q) ∧
    (∃ j, (t.ch c).servo.tjump = some j ∧ j.target = n.toInt.natAbs ∧ j.stage = .kick ∧ j.t = (if 0 < n.toInt then 2 else 3)) ∧
    t.dram = s.dram ∧ ∀ d, d ≠ c → t.ch d = s.ch d := by
  refine ⟨_, strandJump_runs h0 h64 hj hm hs, ?_⟩
  generalize hk : s.jumpStart c (if n.toInt > 0 then 2 else 3) n.toInt.natAbs 0 (s.q21 c (F.SLT_OUT 1)) = k
  obtain ⟨hstate, hfail, hseq⟩ := State.trackShown_regs (s := s) (c := c) (dest := 1) (j := some k) (hold := 1) (status := 1) (by omega)
    (by omega)
  have entered : SlotWork c 1 s (s.enter c 1 1 5) := State.enter_work
  have shows : TouchesOnly c tjumpFields (s.enter c 1 1 5) (s.trackShown c 1 (some k) 1 1) := State.trackShown_touches
  have hunts : TouchesOnly c pickupFields (s.trackShown c 1 (some k) 1 1) ((s.trackShown c 1 (some k) 1 1).huntAll c) :=
    State.huntAll_touches
  have mode (p : Fin 7) := State.trackShown_mode (p := p) (by omega) (hunts.mono (List.subset_cons_self _ _))
  exact ⟨(hunts.cr (by decide)).trans hstate, (hunts.cr (by decide)).trans hfail, mode 1, (hunts.cr (by decide)).trans hseq,
    fun q hq => (mode q).trans (if_neg hq), ⟨k, by rw [State.huntAll_ch, State.trackShown_jump], hk ▸ rfl, hk ▸ rfl, hk ▸ rfl⟩,
    hunts.dram.trans (shows.dram.trans entered.touches.dram),
    fun d hd => (hunts.others d hd).trans ((shows.others d hd).trans (entered.touches.others d hd))⟩

theorem strandJumpDone_none (h : (s.ch c).servo.tjump = none) : strandJumpDone c s = s := by
  simp only [strandJumpDone, h]

theorem strandJumpDone_some {j : Jump} (h : (s.ch c).servo.tjump = some j) (hm : s.mode c 1 = 1) :
    strandJumpDone c s = ((s.trackShown c 3 none 0 2).cirq c 0x08 2).rehunt c := by
  have closed : s.seqTo c 1 3 = s.enter c 1 3 5 := State.seqTo_closed (q := 1) (.inl hm)
  simp only [strandJumpDone, h, closed]
  rfl

theorem strandJumpDone_shown {j : Jump} (h : (s.ch c).servo.tjump = some j) (hm : s.mode c 1 = 1) : ∃ t, strandJumpDone c s = t ∧
    (t.ch c).servo.tjump = none ∧ t.mode c 1 = 3 ∧ t.cr c F.CLE_TJUMP_STS_STATE = 2 ∧ t.cr c F.CLE_TJUMP_STS_FAIL = 0 ∧
    t.cr c (F.SLT_STATE_SEQ 1) = 0 ∧ bitAt (t.cr c (F.HDR_IRQ_RAW 0x08)) 2 = true ∧
    ∀ q : Fin 7, q ≠ 1 → t.mode c q = s.mode c q := by
  refine ⟨_, strandJumpDone_some h hm, ?_⟩
  obtain ⟨hstate, hfail, hseq⟩ := State.trackShown_regs (s := s) (c := c) (dest := 3) (j := none) (hold := 0) (status := 2) (by omega)
    (by omega)
  have hunts (x : State) : TouchesOnly c pickupFields x (x.rehunt c) := (TouchesOnly.refl c pickupFields x).rehunt
  have tail (x : State) : TouchesOnly c (F.HDR_IRQ_RAW 0x08 :: pickupFields) x ((x.cirq c 0x08 2).rehunt c) :=
    ((TouchesOnly.refl c _ x).cirq 2 (by decide)).trans ((hunts _).mono (List.subset_cons_self _ _))
  have mode (p : Fin 7) := State.trackShown_mode (s := s) (p := p) (j := none) (hold := 0) (status := 2) (by omega : 3 < 8) (tail _)
  exact ⟨by rw [State.rehunt_servo, State.cirq_ch, State.trackShown_jump], mode 1, ((tail _).cr (by decide)).trans hstate,
    ((tail _).cr (by decide)).trans hfail, ((tail _).cr (by decide)).trans hseq,
    (congrArg (bitAt · 2) ((hunts _).cr (by decide))).trans (State.cirq_bit (by decide) (by decide)),
    fun q hq => (mode q).trans (if_neg hq)⟩

/-! Sweeps (R179). -/

theorem satQ_toSigned (v : Nat) : satQ (toSigned 24 v) = toSigned 24 v := by
  have hlt : v % 2 ^ 24 < 2 ^ 24 := Nat.mod_lt _ (by decide)
  have low : -8388608 ≤ toSigned 24 v := by unfold toSigned; split <;> omega
  have high : toSigned 24 v ≤ 8388607 := by unfold toSigned; split <;> omega
  simp [satQ, clampInt, Int.not_lt.mpr low, Int.not_lt.mpr high]

theorem sweepStart_refused (h : s.sweepOk c (s.cr c F.CLE_SWEEP_CTL_SLOT) = false) : sweepStart c s = s.cirq c 0x08 5 := by
  simp only [sweepStart, State.sweepRun, h, Bool.not_false, if_true]

/-- A sweep shown on its slot as it starts. -/
def State.sweepShows (s : State) (c : Fin 16) (w : Sweep) (m : Int) : State :=
  ((s.modServo c fun v => { v with sweep := some w }).putQ c (F.SLT_MANUAL w.slot) m).wrs (chRg c)
    [(F.SLT_STATE_SWEEP w.slot, 1), (F.CLE_SWEEP_STS_STATE, 1), (F.CLE_SWEEP_STS_POINTS, 0)]

theorem sweepStart_runs (h : s.sweepOk c (s.cr c F.CLE_SWEEP_CTL_SLOT) = true) : sweepStart c s = s.sweepShows c
    ⟨s.cr c F.CLE_SWEEP_CTL_SLOT, none, s.q21 c (F.SLT_MANUAL (s.cr c F.CLE_SWEEP_CTL_SLOT)), 0, 0, 0, 0, 0⟩
    (s.q21 c F.CLE_SWEEP_START) := by
  have start : s.sweepM c 0 = s.q21 c F.CLE_SWEEP_START := by simp [State.sweepM, State.q21, satQ_toSigned]
  simp only [sweepStart, State.sweepRun, h, Bool.not_true, Bool.false_eq_true, if_false, start]
  rfl

def sweepStatusFields (q : Nat) : List Fld := [F.SLT_STATE_SWEEP q, F.CLE_SWEEP_STS_STATE, F.CLE_SWEEP_STS_POINTS]

theorem State.sweepShows_shown {w : Sweep} (hw : w.slot < 7) (m : Int) : ∃ t, s.sweepShows c w m = t ∧
    t.cr c (F.SLT_STATE_SWEEP w.slot) = 1 ∧ t.cr c F.CLE_SWEEP_STS_STATE = 1 ∧ t.cr c F.CLE_SWEEP_STS_POINTS = 0 ∧
    t.cr c (F.SLT_MANUAL w.slot) = ofSigned 24 m ∧ (t.ch c).servo.sweep = some w ∧ t.mode c w.slot = s.mode c w.slot := by
  have places : ∀ q < 7, ((sweepStatusFields q).map (fieldKey 0)).Nodup ∧
      ((sweepStatusFields q).all (·.among (sweepStatusFields q))) = true ∧
      (F.SLT_MANUAL q).outside (sweepStatusFields q) = true ∧ (F.SLT_STATE_MODE q).outside (sweepStatusFields q) = true ∧
      (F.SLT_MANUAL q).apart (F.SLT_STATE_MODE q) = true := by decide
  obtain ⟨apart, among, manual, mode, preset⟩ := places w.slot hw
  have shown (u : State) {f : Fld} {v : Nat}
      (hm : (f, v) ∈ [(F.SLT_STATE_SWEEP w.slot, 1), (F.CLE_SWEEP_STS_STATE, 1), (F.CLE_SWEEP_STS_POINTS, 0)]) :
      (u.wrs (chRg c) [(F.SLT_STATE_SWEEP w.slot, 1), (F.CLE_SWEEP_STS_STATE, 1), (F.CLE_SWEEP_STS_POINTS, 0)]).cr c f =
        v % 2 ^ f.width := State.cr_wrs_of_mem (fs := sweepStatusFields w.slot) rfl apart hm
  have last (u : State) : TouchesOnly c (sweepStatusFields w.slot) u
      (u.wrs (chRg c) [(F.SLT_STATE_SWEEP w.slot, 1), (F.CLE_SWEEP_STS_STATE, 1), (F.CLE_SWEEP_STS_POINTS, 0)]) :=
    (TouchesOnly.refl c _ u).wrs (gs := sweepStatusFields w.slot) rfl among
  refine ⟨_, rfl, shown _ (f := F.SLT_STATE_SWEEP w.slot) (v := 1) (by simp), shown _ (f := F.CLE_SWEEP_STS_STATE) (v := 1) (by simp),
    shown _ (f := F.CLE_SWEEP_STS_POINTS) (v := 0) (by simp), ((last _).cr manual).trans (State.cr_putQ_self _ rfl), ?_,
    ((last _).cr mode).trans (State.cr_cw_apart _ _ preset)⟩
  rw [State.sweepShows, State.wrs_ch, State.putQ, State.cw_ch, State.modServo_ch]

theorem State.sweepOk_iff {q : Nat} : s.sweepOk c q = true ↔ q < 7 ∧ s.mode c q = 1 ∧ s.jumpsBarred c = false ∧
    (s.ch c).servo.sweep = none ∧ s.cr c (F.SLT_STATE_SEQ q) = 0 := by
  simp [State.sweepOk, and_assoc]

theorem sweepRest_ch (n p : Nat) : (sweepRest c n p s).ch c = s.ch c := by
  induction n generalizing p s with
  | zero => rfl
  | succ n ih => exact ih _

theorem sweepRest_touches (n p : Nat) : TouchesOnly c [F.CLE_SWEEP_STS_POINTS] s (sweepRest c n p s) := by
  induction n generalizing p s with
  | zero => exact .refl c _ s
  | succ n ih =>
    have recorded (x : State) (i : Nat) (m e sum : Int) : TouchesOnly c [F.CLE_SWEEP_STS_POINTS] x (x.sweepRecord c i m e sum) :=
      ((TouchesOnly.refl c _ x).of_eqs (t := ((x.tput .capture (chRg c) (3 * i) (ofSigned 24 m)).tput .capture (chRg c) (3 * i + 1)
        (ofSigned 24 e)).tput .capture (chRg c) (3 * i + 2) (ofSigned 24 sum)) rfl rfl rfl).cw _ (by decide)
    have drawn : TouchesOnly c [F.CLE_SWEEP_STS_POINTS] s ((s.draw 24).2.draw 24).2 := (TouchesOnly.refl c _ s).of_eqs rfl rfl rfl
    exact (drawn.trans (recorded _ _ _ _ _)).trans (ih _)

theorem sweepDone_none (h : (s.ch c).servo.sweep = none) : sweepDone c s = s := by
  simp only [sweepDone, h]

theorem sweepDone_some {w : Sweep} (h : (s.ch c).servo.sweep = some w) (hc : w.cmd = none) : ∃ x, TouchesOnly c [F.CLE_SWEEP_STS_POINTS] s x ∧
    x.ch c = s.ch c ∧ sweepDone c s = (x.sweepReleased c w 2).cirq c 0x08 4 := by
  refine ⟨sweepRest c (s.cr c F.CLE_SWEEP_CTL_COUNT + 1 - w.point) w.point s, sweepRest_touches _ _, sweepRest_ch _ _, ?_⟩
  have swept : ((sweepRest c (s.cr c F.CLE_SWEEP_CTL_COUNT + 1 - w.point) w.point s).ch c).servo.sweep = some w := by
    rw [sweepRest_ch, h]
  obtain ⟨slot, cmd, m0, point, frac, sum, n, k⟩ := w
  obtain rfl : cmd = none := hc
  simp only [sweepDone, h, State.sweepOver, swept, State.sweepEnd_some swept, if_true]
  rfl

theorem sweepDone_shown {w : Sweep} (h : (s.ch c).servo.sweep = some w) (hc : w.cmd = none) (hw : w.slot < 7) : ∃ t, sweepDone c s = t ∧
    (t.ch c).servo.sweep = none ∧ t.cr c F.CLE_SWEEP_STS_STATE = 2 ∧ t.cr c (F.SLT_STATE_SWEEP w.slot) = 0 ∧
    t.cr c (F.SLT_MANUAL w.slot) = ofSigned 24 w.m0 ∧ bitAt (t.cr c (F.HDR_IRQ_RAW 0x08)) 4 = true ∧
    ∀ q : Fin 7, t.mode c q = s.mode c q := by
  have places : ∀ q < 7, F.CLE_SWEEP_STS_STATE.apart (F.SLT_STATE_SWEEP q) = true ∧
      (F.SLT_STATE_SWEEP q).apart (F.SLT_MANUAL q) = true ∧ F.CLE_SWEEP_STS_STATE.apart (F.SLT_MANUAL q) = true ∧
      (F.HDR_IRQ_RAW 0x08).apart (F.SLT_STATE_SWEEP q) = true ∧ (F.HDR_IRQ_RAW 0x08).apart (F.SLT_MANUAL q) = true := by decide
  have modes : ∀ q : Fin 7, (F.SLT_STATE_MODE q).outside sweepFields = true := by decide
  obtain ⟨statusSweep, sweepManual, statusManual, irqSweep, irqManual⟩ := places w.slot hw
  obtain ⟨x, recorded, hx, hdone⟩ := sweepDone_some h hc
  have all : TouchesOnly c sweepFields s ((x.sweepReleased c w 2).cirq c 0x08 4) :=
    ((recorded.mono (by decide)).trans (State.sweepReleased_touches hw 2)).cirq 4 (by decide)
  obtain ⟨hsweep, hstate⟩ := State.cr_wrs_pair (s := (x.modServo c fun v => { v with sweep := none }).putQ c (F.SLT_MANUAL w.slot) w.m0)
    (c := c) (f := F.SLT_STATE_SWEEP w.slot) (g := F.CLE_SWEEP_STS_STATE) 0 2 statusSweep
  refine ⟨_, hdone, by rw [State.cirq_ch, State.sweepReleased_ch], (State.cirq_cr_apart _ (by decide)).trans hstate,
    (State.cirq_cr_apart _ irqSweep).trans hsweep, (State.cirq_cr_apart _ irqManual).trans ?_,
    State.cirq_bit (by decide) (by decide), fun q => all.cr (modes q)⟩
  exact (State.cr_cw_apart _ _ statusManual).trans ((State.cr_cw_apart _ _ sweepManual).trans (State.cr_putQ_self _ rfl))

/-! The statement. -/

theorem jumpSlots_ne_foc : ∀ q ∈ ([1, 3, 4] : List (Fin 7)), q ≠ 0 := by decide

/-- Settles O57: each sequence by what its start, its end and its failure show; the slots of a layer jump by the transitions the sequencer
makes of them. -/
theorem jumpsAndSweepsRunTheirSequences : Obligations.JumpsAndSweepsRunTheirSequences := by
  unfold Obligations.JumpsAndSweepsRunTheirSequences
  intro s c src v
  refine ⟨fun layer hlayer hr => ⟨fun h => ?layerRefused, fun hj h0 hl hs => ?layerJump⟩, fun h => ?noJump,
    fun j hj => ⟨?layerTimeout, fun h0 => ?layerDone⟩,
    fun n hr => ⟨fun h => ?still, fun h0 h64 h => ?strandRefused, fun h0 h64 hj hm hs => ?strandJump⟩, fun h => ?noStrandJump,
    fun j hj => ⟨?strandTimeout, fun hm => ?strandDone⟩, fun hr => ⟨fun h => ?sweepRefused, fun h => ?sweepStarts⟩,
    fun h => ?noSweep, fun w hw hc hslot => ?sweepDone⟩
  case layerRefused =>
    have refused : layerJump c (layer % 32) (s.unmark (chRg c) 0x08 0x110 false) = _ :=
      layerJump_refused (s := s.unmark (chRg c) 0x08 0x110 false) (by rw [Nat.mod_eq_of_lt hlayer]; exact h)
    exact ⟨congrArg Host.Outcome.next ((State.gated_open s hr).trans refused), State.jumpRefused_bit false,
      fun hj => State.jumpRefused_shown hj⟩
  case layerJump =>
    obtain ⟨t, ht, hstate, hfail, hlayers, hmode, hseq, hjump, hprev, hdram, hothers⟩ :=
      layerJump_shown (s := s.unmark (chRg c) 0x08 0x110 false) (layer := layer) hj h0 hl hs
    refine ⟨t, congrArg Host.Outcome.next ((State.gated_open s hr).trans (by rw [Nat.mod_eq_of_lt hlayer, ht])), hstate, hfail, hlayers,
      hmode 0, fun q hq => ?_, hmode 2, hmode 5, hmode 6, hseq, hjump, hprev, hdram, hothers⟩
    refine (hmode q).trans ?_
    rw [if_neg (jumpSlots_ne_foc q hq)]
    simp only [hq, true_and]
    rfl
  case noJump => exact ⟨congrArg Host.Outcome.next (State.jumpFail_none h 2), congrArg Host.Outcome.next (layerJumpDone_none h)⟩
  case layerTimeout =>
    have modes : ∀ q : Fin 7, (F.SLT_STATE_MODE q).outside jumpFields = true := by decide
    have failed : TouchesOnly c jumpFields s (s.jumpFail c 2) := State.jumpFail_touches 2
    obtain ⟨hstate, hfail, hmanual, hseq, hbit⟩ := State.jumpFail_shown hj
    exact ⟨_, rfl, by rw [State.jumpFail_ch], hstate, hfail, hmanual, hseq, hbit, fun q => failed.cr (modes q), failed.dram⟩
  case layerDone =>
    obtain ⟨t, ht, hrest⟩ := layerJumpDone_shown hj h0
    exact ⟨t, congrArg Host.Outcome.next ht, hrest⟩
  case still => exact congrArg Host.Outcome.next ((State.gated_open s hr).trans (strandJump_still h))
  case strandRefused =>
    exact ⟨congrArg Host.Outcome.next ((State.gated_open s hr).trans (strandJump_refused h0 h64 h)), State.jumpRefused_bit true⟩
  case strandJump =>
    obtain ⟨t, ht, hrest⟩ := strandJump_shown (s := s.unmark (chRg c) 0x08 0x118 false) h0 h64 hj hm hs
    exact ⟨t, congrArg Host.Outcome.next ((State.gated_open s hr).trans ht), hrest⟩
  case noStrandJump => exact ⟨congrArg Host.Outcome.next (State.tjumpFail_none h 2), congrArg Host.Outcome.next (strandJumpDone_none h)⟩
  case strandTimeout =>
    have modes : ∀ q : Fin 7, (F.SLT_STATE_MODE q).outside tjumpFields = true := by decide
    obtain ⟨hstate, hfail, hmanual, hseq, hbit⟩ := State.tjumpFail_shown hj
    exact ⟨_, rfl, by rw [State.tjumpFail_ch], hstate, hfail, hmanual, hseq, hbit, fun q => (State.tjumpFail_touches 2).cr (modes q)⟩
  case strandDone =>
    obtain ⟨t, ht, hrest⟩ := strandJumpDone_shown hj hm
    exact ⟨t, congrArg Host.Outcome.next ht, hrest⟩
  case sweepRefused => exact congrArg Host.Outcome.next ((State.gated_open s hr).trans (sweepStart_refused h))
  case sweepStarts =>
    obtain ⟨hslot, hmode, -, -, -⟩ := State.sweepOk_iff.mp h
    obtain ⟨t, ht, hsweep, hstate, hpoints, hmanual, hrun, hkept⟩ := State.sweepShows_shown (s := s.unmark (chRg c) 0x08 0x120 false) (c := c)
      (w := ⟨s.cr c F.CLE_SWEEP_CTL_SLOT, none, s.q21 c (F.SLT_MANUAL (s.cr c F.CLE_SWEEP_CTL_SLOT)), 0, 0, 0, 0, 0⟩) hslot
      (s.q21 c F.CLE_SWEEP_START)
    exact ⟨t, congrArg Host.Outcome.next ((State.gated_open s hr).trans ((sweepStart_runs
      (s := s.unmark (chRg c) 0x08 0x120 false) h).trans ht)), hsweep, hstate, hpoints, hmanual,
      hrun, hkept.trans hmode⟩
  case noSweep => exact congrArg Host.Outcome.next (sweepDone_none h)
  case sweepDone =>
    obtain ⟨t, ht, hrest⟩ := sweepDone_shown hw hc hslot
    exact ⟨t, congrArg Host.Outcome.next ht, hrest⟩

end Sys2Proof.Machine
end

section
/-! PROOF. What stops a mechanism and what closes a fence leave an engine's registers as they are (R11, R12, R178, R441). -/

namespace Sys2Proof.Machine
open Sys2Proof

variable {r s t : State} {c d : Fin 16} {q : Fin 7}

/-- A field in its place that shows nothing of an engine. -/
def Fld.offEngine (f : Fld) : Bool := f.inPlace && engineShown.all (·.outside [f])

namespace SparesEngine

theorem modCh (h : SparesEngine r s) (f : Chan → Chan) : SparesEngine r (s.modCh d f) := h.of_eqs rfl rfl

theorem modRd (h : SparesEngine r s) (f : ReadPath → ReadPath) : SparesEngine r (s.modRd d f) := h.modCh _

theorem modWr (h : SparesEngine r s) (f : WriteChain → WriteChain) : SparesEngine r (s.modWr d f) := h.modCh _

theorem modLdi (h : SparesEngine r s) (f : Ldi → Ldi) : SparesEngine r (s.modLdi d f) := h.modWr _

theorem modFront (h : SparesEngine r s) (f : Front → Front) : SparesEngine r (s.modFront f) := h.of_eqs rfl rfl

theorem cw (h : SparesEngine r s) {f : Fld} (v : Nat) (hf : f.offEngine = true) : SparesEngine r (s.cw d f v) := by
  obtain ⟨hp, ho⟩ := Bool.and_eq_true_iff.mp hf
  exact h.trans (.of_touches ((TouchesOnly.refl d [f] s).cw v (Fld.among_iff.mpr ⟨hp, List.mem_cons_self⟩)) ho)

theorem wrs (h : SparesEngine r s) {l : List (Fld × Nat)} {gs : List Fld} (hl : l.map Prod.fst = gs)
    (hg : (gs.all (·.offEngine)) = true) : SparesEngine r (s.wrs (chRg d) l) := by
  subst hl
  induction l generalizing s with
  | nil => exact h
  | cons e l ih =>
    obtain ⟨he, hl⟩ := Bool.and_eq_true_iff.mp hg
    exact ih (h.cw e.2 he) hl

theorem cirq (h : SparesEngine r s) {pg : Nat} (bit : Nat) (hf : (F.HDR_IRQ_RAW pg).offEngine = true) :
    SparesEngine r (s.cirq d pg bit) := by
  obtain ⟨hp, ho⟩ := Bool.and_eq_true_iff.mp hf
  exact h.trans (.of_touches ((TouchesOnly.refl d [F.HDR_IRQ_RAW pg] s).cirq bit (Fld.among_iff.mpr ⟨hp, List.mem_cons_self⟩)) ho)

theorem setSt (h : SparesEngine r s) (st : ChState) : SparesEngine r (s.setSt d st) := h.ite (h.modCh _)

theorem showKill (h : SparesEngine r s) : SparesEngine r (s.showKill d) := by
  obtain ⟨v, -, -, hkill⟩ := s.showKill_eq (c := d)
  rw [hkill]
  exact h.trans (.of_touches (State.driveKill_touches v) (by decide))

theorem showSafe (h : SparesEngine r s) : SparesEngine r (s.showSafe d) := h.trans (.of_touches State.showSafe_touches (by decide))

theorem clearKey (h : SparesEngine r s) : SparesEngine r (s.clearKey d) :=
  (h.modCh _).wrs (gs := [F.XTS_STS_KEY_VALID, F.XTS_KEY_ID]) rfl (by decide)

theorem forbidWrites (h : SparesEngine r s) : SparesEngine r (s.forbidWrites d) :=
  have off : SparesEngine r (s.wrs (chRg d) [(F.WRC_CTL_EN, 0), (F.LDI_CTL_KILL, 1)]) :=
    h.wrs (gs := [F.WRC_CTL_EN, F.LDI_CTL_KILL]) rfl (by decide)
  (off.modLdi _).showKill

theorem showDisc (h : SparesEngine r s) : SparesEngine r (s.showDisc d) := by
  unfold State.showDisc
  split
  · exact h.wrs (gs := [F.MAP_STS_STATE, F.MAP_STS_DIRECT, F.MAP_STS_SEALED, F.MAP_STS_CKPT_ACTIVE, F.MAP_STS_READ_ONLY, F.XTS_STS_DISC_ENC,
      F.CMP_STS_MOUNT_COMP]) rfl (by decide)
  · exact h.wrs (gs := [F.MAP_STS_DIRECT, F.MAP_STS_SEALED, F.MAP_STS_CKPT_ACTIVE, F.MAP_STS_READ_ONLY, F.MAP_CKPT_NUM, F.MAP_CKPT_PCN,
      F.MAP_REPLAY_START_LO, F.MAP_REPLAY_START_HI, F.XTS_STS_DISC_ENC, F.CMP_STS_MOUNT_COMP]) rfl (by decide)

theorem ladderRest (h : SparesEngine r s) : SparesEngine r (s.ladderRest d) :=
  h.trans (.of_touches (TouchesOnly.refl d _ s).ladderRest (by decide))

theorem forgetDisc (h : SparesEngine r s) : SparesEngine r (s.forgetDisc d) := by
  unfold State.forgetDisc State.ltcClear
  exact SparesEngine.showDisc ((((((h.ladderRest.modCh _).cw _ (by decide)).modCh _).modCh _).cw _ (by decide)))

theorem dropReads (h : SparesEngine r s) (k : Nat) : SparesEngine r (s.dropReads k) := h.modFront _

theorem trimOps (h : SparesEngine r s) : SparesEngine r (s.trimOps d) := h.modRd _

theorem dropCmds (h : SparesEngine r s) (ks : List Nat) : SparesEngine r (s.dropCmds d ks) :=
  (SparesEngine.foldl (g := fun s k => s.dropReads k) (fun x k => (SparesEngine.refl x).dropReads k) ks (h.modCh _)).trimOps

theorem endCmds (h : SparesEngine r s) (ks : List Nat) (st : Status) : SparesEngine r (s.endCmds d ks st) :=
  .foldl (fun x _ => (SparesEngine.refl x).finish _ _ _ _) ks (h.dropCmds ks)

theorem mountFails (h : SparesEngine r s) (st : Status) : SparesEngine r (s.mountFails d st) := by
  unfold State.mountFails
  split
  · exact h
  · exact (((h.clearKey.forgetDisc.forbidWrites.modCh _).setSt _).finish _ _ _ _).showSafe

theorem mechStop (h : SparesEngine r s) : SparesEngine r (s.mechStop d) := by
  unfold State.mechStop
  refine h.ite ((h.mountFails _).ite ?_)
  extract_lets run s1
  have h1 : SparesEngine r s1 := ((h.setSt _).endCmds _ _).modWr _
  cases run with
  | none => exact h1
  | some k => exact h1.finish _ _ _ _

theorem countImplausible (h : SparesEngine r s) (q : Nat) : SparesEngine r (s.countImplausible d q) := by
  have counted (f : Chan → Chan) : SparesEngine r ((s.modCh d f).cnt d 12) := (h.modCh f).cnt _ _
  exact (counted _).mechStop.ite (counted _)

theorem putRead (h : SparesEngine r s) (x : ClusterRead) : SparesEngine r (s.putRead d x) := h.modRd _

theorem decodeStored (h : SparesEngine r s) (x : ClusterRead) : SparesEngine r (s.decodeStored d x) := h.modRd _

theorem ladderBroken (h : SparesEngine r s) : SparesEngine r (s.ladderBroken d) := by
  unfold State.ladderBroken
  split
  · exact h
  · exact h.ite (.ite ((h.putRead _).decodeStored _) (h.putRead _))

end SparesEngine

end Sys2Proof.Machine
end

section
/-! PROOF. The quarantine sequence: a fence that closes on a faulted engine leaves the engine's registers as the fault left them, and ends
with the namespace inactive (R11, R12, R355, R441). -/

namespace Sys2Proof.Machine
open Sys2Proof

variable {r s t : State} {c d : Fin 16} {q : Fin 7}

/-! Headers and the port die show nothing of an engine. -/

theorem fieldKey_ne_of_off {rg rg' : Nat} {f g : Fld} (hf : f.off < 0x1000) (hg : g.off < 0x1000) (hlf : f.lsb < 32) (hlg : g.lsb < 32)
    (h : f.off ≠ g.off) : fieldKey rg' g ≠ fieldKey rg f := by
  unfold fieldKey
  omega

theorem engineShown_place {f : Fld} (h : f ∈ engineShown) : f.Placed :=
  Fld.placed_of_inPlace (List.all_eq_true.mp engineShown_places f h)

namespace SparesEngine

/-- A register of swaps, on whichever page: the header has these registers at offsets of their own. -/
theorem swapReg (h : SparesEngine r s) (rg : Nat) {f : Fld} (v : Nat) (ho : f.off = 0x30 ∨ f.off = 0x38) (hl : f.lsb < 32) :
    SparesEngine r (s.wr rg f v) := by
  have offs : ∀ g ∈ engineShown, g.off ≠ 0x30 ∧ g.off ≠ 0x38 := by decide
  refine h.trans ⟨fun c g hg => State.rd_wr_of_key s v ?_, rfl⟩
  obtain ⟨h30, h38⟩ := offs g hg
  have place := engineShown_place hg
  refine fieldKey_ne_of_off (by omega) (by have := place.off; omega) hl place.lsb ?_
  omega

theorem swapRefused (h : SparesEngine r s) (rg page cause : Nat) : SparesEngine r (s.swapRefused rg page cause) :=
  (((h.swapReg rg _ (.inl rfl) (by decide : 2 < 32)).swapReg rg _ (.inl rfl) (by decide : 3 < 32)).swapReg rg _ (.inl rfl)
    (by decide : 4 < 32)).swapReg rg _ (.inr rfl) (by decide : 16 < 32)

theorem endSwap (h : SparesEngine r s) (rg page cause : Nat) : SparesEngine r (s.endSwap rg page cause) := by
  unfold State.endSwap
  refine h.ite ?_
  extract_lets ms s1 s2
  have h1 : SparesEngine r s1 := (h.swapReg rg _ (.inl rfl) (by decide : 1 < 32)).swapRefused _ _ _
  have h2 : SparesEngine r s2 := .foldl (fun x _ => (SparesEngine.refl x).swapRefused _ _ _) ms h1
  exact .ite (h2.of_eqs rfl rfl) h2

theorem endSwaps (h : SparesEngine r s) : SparesEngine r (s.endSwaps d) :=
  .foldl (fun x _ => (SparesEngine.refl x).endSwap _ _ _) _ (h.modCh _)

/-- A register of the port die. -/
theorem portReg (h : SparesEngine r s) {f : Fld} (v : Nat) (hf : f.inPlace = true) : SparesEngine r (s.wr 0 f v) :=
  h.trans ⟨fun c _ hg => State.rd_wr_region s v (Fld.placed_of_inPlace hf) (engineShown_place hg) (chRg_ne_zero c), rfl⟩

theorem portRegs (h : SparesEngine r s) {l : List (Fld × Nat)} {gs : List Fld} (hl : l.map Prod.fst = gs)
    (hg : (gs.all (·.inPlace)) = true) : SparesEngine r (s.wrs 0 l) := by
  subst hl
  induction l generalizing s with
  | nil => exact h
  | cons e l ih =>
    obtain ⟨he, hl⟩ := Bool.and_eq_true_iff.mp hg
    exact ih (h.portReg e.2 he) hl

theorem portIrq (h : SparesEngine r s) {pg : Nat} (bit : Nat) (hf : (F.HDR_IRQ_RAW pg).inPlace = true) :
    SparesEngine r (s.irq 0 pg bit) := by
  refine (h.portReg (s.rd 0 (F.HDR_IRQ_RAW pg) ||| 2 ^ bit) hf).of_eqs (State.irq_regs s bit (by simp [State.shadowed])) ?_
  rw [State.irq_dram]
  rfl

/-! Commands that end. -/

theorem settleDelete (h : SparesEngine r s) (k : Nat) : SparesEngine r (s.settleDelete k) := by
  unfold State.settleDelete
  split
  · exact .ite ((h.modFront _).finish _ _ _ _) h
  · exact h

theorem cancelSettled (h : SparesEngine r s) (k : Nat) (x : CmdSlot) (why : CancelCause) (cancelled : Bool) :
    SparesEngine r (s.cancelSettled k x why cancelled) := by
  have answered (st : Status) : SparesEngine r (if cancelled && x.live then s.finish k st else s) := .ite (h.finish _ _ _ _) h
  unfold State.cancelSettled
  cases why with
  | abort by_ => exact (answered _).finish _ _ _ _
  | deleteQueue by_ => exact (answered _).settleDelete _
  | timeLimit =>
    refine .ite ?_ h
    dsimp only
    split
    · exact (h.finish _ _ _ _).cnt _ _
    · exact h.finish _ _ _ _
  | silent => exact .ite (h.modFront _) h

theorem cancelAnswer (h : SparesEngine r s) (k : Nat) : SparesEngine r (cancelAnswer k s) := by
  unfold Machine.cancelAnswer
  split
  · exact h
  · split
    · extract_lets c' s1 s2
      have h2 : SparesEngine r s2 := (h.modFront _).cancelSettled _ _ _ _
      split
      · exact .ite (h2.modFront _) h2
      · exact h2
    · exact h

theorem endHeld (h : SparesEngine r s) (st : Status) : SparesEngine r (s.endHeld d st) := by
  refine .foldl (fun x k => ?_) _ (h.endCmds _ _)
  split
  · exact .ite (((SparesEngine.refl x).modFront _).cancelAnswer k) (.refl x)
  · exact .refl x

theorem cutSession (h : SparesEngine r s) : SparesEngine r (s.cutSession d) := by
  have drawn : SparesEngine r s.drawRow.2 := h.of_eqs rfl rfl
  exact h.ite (drawn.trans (.of_touches State.finishStop_stopped.touches (by decide)))

theorem pumpEvents (h : SparesEngine r s) (n : Nat) : SparesEngine r (s.pumpEvents n) := by
  induction n generalizing s with
  | zero => exact h
  | succ n ih =>
    unfold State.pumpEvents
    split
    · exact ih ((h.modFront _).finish _ _ _ _)
    · exact h

theorem event (h : SparesEngine r s) (ty info log : Nat) : SparesEngine r (s.event ty info log) :=
  h.ite (.pumpEvents (.ite h (h.modFront _)) 8)

theorem nsChanged (h : SparesEngine r s) : SparesEngine r (s.nsChanged d) := SparesEngine.event (h.modFront _) _ _ _

theorem inactive (h : SparesEngine r s) : SparesEngine r (s.inactive d) := h.ite (h.modCh _).nsChanged

/-! The activation that a fault passes on (R355). -/

theorem modSec (h : SparesEngine r s) (f : Security → Security) : SparesEngine r (s.modSec f) := h.of_eqs rfl rfl

theorem showTable (h : SparesEngine r s) (y : SlotTable) : SparesEngine r (s.showTable y) :=
  h.portRegs (gs := [F.BOOT_TABLE_ACTIVE, F.BOOT_TABLE_PREVIOUS, F.BOOT_TABLE_NEXT, F.BOOT_TABLE_TRIAL]) rfl (by decide)

theorem putTable (h : SparesEngine r s) (y : SlotTable) : SparesEngine r (s.putTable y) := SparesEngine.showTable (h.modSec _) y

theorem trialCleared (h : SparesEngine r s) : SparesEngine r s.trialCleared := by
  unfold State.trialCleared
  extract_lets x s1
  have h1 : SparesEngine r s1 := h.ite (h.putTable _)
  split
  · exact h1
  · exact (h1.modSec _).portReg _ (by decide)

theorem commitDone (h : SparesEngine r s) (k : Nat) (st : Status) : SparesEngine r (s.commitDone k st) :=
  SparesEngine.finish (SparesEngine.portIrq (h.modSec _) 2 (by decide)) _ _ _ _

theorem runBundle (h : SparesEngine r s) (i : Nat) (b : Bundle) : SparesEngine r (s.runBundle i b) := by
  have versions : SparesEngine r (s.wrs 0 [(F.FEC_VER_LO, leNat (b.version.take 4)), (F.FEC_VER_HI, leNat (b.version.drop 4)),
      (F.BOOT_SVN_RUN, b.svn)]) := h.portRegs (gs := [F.FEC_VER_LO, F.FEC_VER_HI, F.BOOT_SVN_RUN]) rfl (by decide)
  exact versions.modSec _

end SparesEngine

/-- From `s` to `t` what follows on the end of a namespace happened at most: engines show the same, and channel `c`'s namespace is as
active as before. -/
structure AfterEnd (c : Fin 16) (s t : State) : Prop where
  spares : SparesEngine s t
  active : (t.ch c).active = (s.ch c).active

namespace AfterEnd

theorem refl (c : Fin 16) (s : State) : AfterEnd c s s := ⟨.refl s, rfl⟩

theorem trans (h : AfterEnd c r s) (k : AfterEnd c s t) : AfterEnd c r t := ⟨h.spares.trans k.spares, k.active.trans h.active⟩

theorem ite {P : Prop} [Decidable P] (h : AfterEnd c r s) (k : AfterEnd c r t) : AfterEnd c r (if P then s else t) := by
  split
  · exact h
  · exact k

theorem foldl {α : Type} {g : State → α → State} (hg : ∀ x a, AfterEnd c x (g x a)) (l : List α) (h : AfterEnd c r s) :
    AfterEnd c r (l.foldl g s) := by
  induction l generalizing s with
  | nil => exact h
  | cons a l ih => exact ih (h.trans (hg s a))

theorem of_chans (h : SparesEngine s t) (hc : t.chans = s.chans) : AfterEnd c s t := ⟨h, by simp only [State.ch, hc]⟩

theorem of_media (h : SparesEngine s t) (hm : t.media = s.media) : AfterEnd c s t := .of_chans h (congrArg Prod.fst hm)

theorem modCh (h : AfterEnd c r s) {f : Chan → Chan} (hf : ∀ x, (f x).active = x.active) : AfterEnd c r (s.modCh d f) := by
  refine h.trans ⟨(SparesEngine.refl s).modCh f, ?_⟩
  by_cases hd : c = d
  · subst hd
    rw [State.ch_modCh_self, hf]
  · rw [State.ch_modCh_ne s f hd]

theorem setSt (h : AfterEnd c r s) (st : ChState) : AfterEnd c r (s.setSt d st) := h.ite (h.modCh fun _ => rfl)

theorem finish (h : AfterEnd c r s) (k : Nat) (st : Status) (d0 d1 : Nat) : AfterEnd c r (s.finish k st d0 d1) :=
  h.trans (.of_media ((SparesEngine.refl s).finish k st d0 d1) (s.finish_media k st d0 d1))

end AfterEnd

theorem State.pumpEvents_media (n : Nat) : (s.pumpEvents n).media = s.media := by
  induction n generalizing s with
  | zero => rfl
  | succ n ih =>
    unfold State.pumpEvents
    split
    · exact ih.trans (by simp)
    · rfl

theorem State.putTable_chans (y : SlotTable) : (s.putTable y).chans = s.chans := by
  unfold State.putTable State.showTable
  rw [State.wrs_chans]
  exact State.modSec_chans _ _

theorem State.runBundle_chans (i : Nat) (b : Bundle) : (s.runBundle i b).chans = s.chans := by
  rw [State.runBundle, State.modSec_chans, State.wrs_chans]

theorem State.event_media (ty info log : Nat) : (s.event ty info log).media = s.media := by
  simp [State.event, State.pumpEvents_media]

namespace AfterEnd

theorem modSec (h : AfterEnd c r s) (f : Security → Security) : AfterEnd c r (s.modSec f) :=
  h.trans (.of_chans ((SparesEngine.refl s).modSec f) rfl)

theorem event (h : AfterEnd c r s) (ty info log : Nat) : AfterEnd c r (s.event ty info log) :=
  h.trans (.of_media ((SparesEngine.refl s).event ty info log) (State.event_media ty info log))

theorem nsChanged (h : AfterEnd c r s) : AfterEnd c r (s.nsChanged d) :=
  h.trans (.of_media ((SparesEngine.refl s).nsChanged) (State.event_media 2 0 0x04))

theorem portIrq (h : AfterEnd c r s) {pg : Nat} (bit : Nat) (hf : (F.HDR_IRQ_RAW pg).inPlace = true) : AfterEnd c r (s.irq 0 pg bit) :=
  h.trans (.of_chans ((SparesEngine.refl s).portIrq bit hf) (s.irq_chans 0 pg bit))

theorem svcEnd (h : AfterEnd c r s) (st : Status) : AfterEnd c r (s.svcEnd d st) := by
  unfold State.svcEnd
  split
  · exact h
  · have gone : AfterEnd c r (s.modCh d fun x => { x with svc := none }) := h.modCh fun _ => rfl
    exact gone.finish _ _ _ _

theorem trialCleared (h : AfterEnd c r s) : AfterEnd c r s.trialCleared := by
  refine h.trans (.of_chans (SparesEngine.refl s).trialCleared ?_)
  unfold State.trialCleared
  extract_lets x s1
  have h1 : s1.chans = s.chans := by
    simp only [s1, apply_ite State.chans, State.putTable_chans, ite_self]
  split
  · exact h1
  · rw [State.pw, State.wr_chans, State.modSec_chans, h1]

theorem leaveHostLost (h : AfterEnd c r s) : AfterEnd c r (s.leaveHostLost d) := by
  have dropped : AfterEnd c r (s.dropProc d) := h.modCh fun _ => rfl
  have ended : AfterEnd c r (s.endHostLost d) := .ite (dropped.setSt _) dropped
  unfold State.leaveHostLost
  refine h.ite ?_
  split
  · exact h.setSt _
  · exact ended.ite h

theorem becomeReady (h : AfterEnd c r s) : AfterEnd c r s.becomeReady := by
  unfold State.becomeReady
  refine h.ite ?_
  extract_lets reg was s1 s2
  have h1 : AfterEnd c r s1 := h.trans (.of_chans ((SparesEngine.refl s).modFront _) rfl)
  have h2 : AfterEnd c r s2 := .foldl (fun x _ => .ite (AfterEnd.refl c x).nsChanged (.refl c x)) _ h1.trialCleared
  exact .foldl (fun x _ => (AfterEnd.refl c x).leaveHostLost) _ h2

theorem actEnd (h : AfterEnd c r s) (k i : Nat) : AfterEnd c r (s.actEnd k i) := by
  unfold State.actEnd
  extract_lets s1 s2 s3 s4
  have h1 : AfterEnd c r s1 := by
    simp only [s1]
    split
    · exact h.trans (.of_chans ((SparesEngine.refl s).runBundle _ _) (State.runBundle_chans _ _))
    · exact h
  have h2 : AfterEnd c r s2 := .ite (h1.trans (.of_chans ((SparesEngine.refl s1).portReg _ (by decide)) (State.wr_chans _ _ _ _))) h1
  have h3 : AfterEnd c r s3 := h2.modSec _
  have h4 : AfterEnd c r s4 := .ite h3.trialCleared h3.becomeReady
  have done (st : Status) : (s4.commitDone k st).chans = s4.chans :=
    (congrArg Prod.fst (State.finish_media _ k st 0 0)).trans (State.irq_chans _ _ _ _)
  exact .ite (h4.trans (.of_chans ((SparesEngine.refl s4).commitDone _ _) (done _))) h4

/-- The turn passes to a channel behind this one. -/
theorem actTurn (h : AfterEnd c r s) {n : Nat} (hn : c.val < n) : AfterEnd c r (s.actTurn n) := by
  unfold State.actTurn
  split
  · exact h
  · split
    · next d hd =>
      have behind : c ≠ d := by
        rintro rfl
        have := List.find?_some hd
        simp only [Bool.and_eq_true, decide_eq_true_eq] at this
        omega
      have stopped (u : State) : AfterEnd c u (u.endAtBoundary d) :=
        ⟨.of_touches State.endAtBoundary_touches (by decide), by rw [State.endAtBoundary_touches.others c behind]⟩
      exact (h.modSec _).trans (stopped _)
    · exact h.actEnd _ _

theorem actFault (h : AfterEnd c r s) (cause : Nat) : AfterEnd c r (s.actFault c cause) := by
  unfold State.actFault
  split
  · exact h
  · extract_lets s1
    have h1 : AfterEnd c r s1 := .ite (h.modSec _) h
    split
    · exact h1.actTurn (by omega)
    · exact h1

end AfterEnd

end Sys2Proof.Machine
end

section
/-! PROOF. A CLE fault: the slots turned OFF, the spindle at rest, and the fence that closes behind them (R184, R441). -/

namespace Sys2Proof.Machine
open Sys2Proof

variable {r s t : State} {c d : Fin 16} {p q : Fin 7} {cause : Nat}

/-! The fence. -/

theorem State.park_faulted (h : s.cr c F.CLE_STS_FAULT = 1) : s.park c = s := by
  simp [State.park, h]

theorem State.inactive_active : ((s.inactive c).ch c).active = false := by
  unfold State.inactive
  split
  · next h => simpa using h
  · have changed : AfterEnd c (s.modCh c fun x => { x with active := false }) ((s.modCh c fun x => { x with active := false }).nsChanged c) :=
      (AfterEnd.refl c _).nsChanged
    rw [changed.active, State.ch_modCh_self]

theorem SparesEngine.dropWaits (h : SparesEngine r s) (k : Nat) : SparesEngine r (s.dropWaits k) :=
  .foldl (fun x _ => (SparesEngine.refl x).modCh _) allChans h

namespace AfterEnd

theorem of_touches {fs : List Fld} (h : TouchesOnly c fs s t) (hf : (engineShown.all (·.outside fs)) = true) (ht : t.chans = s.chans) :
    AfterEnd c s t := .of_chans (.of_touches h hf) ht

theorem showKill (h : AfterEnd c r s) : AfterEnd c r (s.showKill c) := by
  obtain ⟨v, -, -, hkill⟩ := s.showKill_eq (c := c)
  rw [hkill]
  exact h.trans (.of_touches (State.driveKill_touches v) (by decide) (State.driveKill_chans v))

theorem showSafe (h : AfterEnd c r s) : AfterEnd c r (s.showSafe c) :=
  h.trans (.of_touches State.showSafe_touches (by decide) State.showSafe_chans)

theorem clearKey (h : AfterEnd c r s) : AfterEnd c r (s.clearKey c) := by
  have cleared : AfterEnd c r (s.modCh c fun x => { x with xtsKey := none }) := h.modCh fun _ => rfl
  exact cleared.trans (.of_chans ((SparesEngine.refl _).wrs (gs := [F.XTS_STS_KEY_VALID, F.XTS_KEY_ID]) rfl (by decide))
    (State.wrs_chans _ _ _))

theorem modWr (h : AfterEnd c r s) (f : WriteChain → WriteChain) : AfterEnd c r (s.modWr c f) := h.modCh fun _ => rfl

/-- What the front end is told of a quarantine. -/
theorem quarantineTold (h : AfterEnd c r s) :
    AfterEnd c r (((((s.irq 0 0x00 0).irq 0 0x18 3).incSat 0 F.GMON_QUAR).event 1 0 0x02).event 7 0 0xC0).wakeHost := by
  have raised : AfterEnd c r ((s.irq 0 0x00 0).irq 0 0x18 3) := (h.portIrq 0 (by decide)).portIrq 3 (by decide)
  have counted : AfterEnd c r (((s.irq 0 0x00 0).irq 0 0x18 3).incSat 0 F.GMON_QUAR) :=
    raised.trans (.of_chans ((SparesEngine.refl _).portReg _ (by decide)) (State.incSat_chans _ _ _ _))
  exact ((counted.event 1 0 0x02).event 7 0 0xC0).trans (.of_chans ((SparesEngine.refl _).modFront _) rfl)

end AfterEnd

theorem State.closeFence_fence (h : (s.ch c).fence = 0) : ((s.closeFence c cause).ch c).fence = cause := by
  suffices hc : (s.closeFence c cause).fences c = cause from hc
  unfold State.closeFence
  rw [if_neg (by simp [h])]
  extract_lets s1 s2 flushes s4 s5 s6 s7 s8
  have h6 : s6.fences = s2.fences := by
    simp only [s6, s5, s4]
    split <;> simp
  have h8 : ((s8.showSafe c).actFault c cause).fences = s2.fences := by simp [s8, s7, h6]
  rw [h8]
  exact congrArg (·.fence) (State.ch_modCh_self s1 c _)

/-- A fence that closes on a faulted engine leaves engines as they are. -/
theorem State.closeFence_faulted (h : (s.ch c).fence = 0) (hf : s.cr c F.CLE_STS_FAULT = 1) :
    SparesEngine s (s.closeFence c cause) ∧ ((s.closeFence c cause).ch c).active = false := by
  unfold State.closeFence
  rw [if_neg (by simp [h])]
  extract_lets s1 s2 flushes s4 s5 s6 s7 s8
  have h2 : SparesEngine s s2 := (SparesEngine.refl s).cutSession.modCh _
  have held : SparesEngine s (((s2.dropHeld c).setSt c .isolated).endHeld c stQuarantined) := ((h2.modFront _).setSt _).endHeld _
  have h4 : SparesEngine s s4 :=
    (SparesEngine.foldl (fun x k => ((SparesEngine.refl x).dropWaits k).finish _ _ _ _) flushes held).endSwaps
  have h5 : SparesEngine s s5 := (h4.cirq 3 (by decide)).inactive
  have k6 : AfterEnd c s5 s6 := .ite (AfterEnd.refl c s5).quarantineTold (.refl c s5)
  have parked : s6.park c = s6 := State.park_faulted (((h5.trans k6.spares).shown c _ (by simp [engineShown])).trans hf)
  have k7 : AfterEnd c s5 s7 := by
    simp only [s7, parked]
    exact k6.clearKey.modWr _
  have k8 : AfterEnd c s5 s8 := (k7.svcEnd _).showKill
  have last : AfterEnd c s5 ((s8.showSafe c).actFault c cause) := k8.showSafe.actFault cause
  exact ⟨h5.trans last.spares, last.active.trans State.inactive_active⟩

/-! The fault. -/

theorem State.overtake_work : SlotWork c q s (s.overtake c q) := by
  unfold State.overtake
  split
  · exact ((SlotWork.refl c q s).modSlt _).cirq 6
  · exact .refl c q s

/-- What every step of a fold over the slots shows of its own slot and leaves of the others, the fold shows of all. -/
theorem foldl_slots {P : State → Fin 7 → Prop} {I : State → Prop} {g : State → Fin 7 → State} (hI : ∀ x q, I x → I (g x q))
    (own : ∀ x q, I x → P (g x q) q) (other : ∀ x p q, I x → p ≠ q → P x p → P (g x q) p) (hs : I s) (p : Fin 7) :
    P ((List.finRange 7).foldl g s) p := by
  suffices all : ∀ (l : List (Fin 7)) (s : State), I s → p ∈ l ∨ P s p → P (l.foldl g s) p from all _ s hs (.inl (List.mem_finRange p))
  intro l
  induction l with
  | nil => exact fun s _ h => h.resolve_left List.not_mem_nil
  | cons q l ih =>
    intro s hs h
    refine ih _ (hI s q hs) ?_
    by_cases hq : p = q
    · exact .inr (hq ▸ own s p hs)
    · rcases h with hm | hp
      · exact .inl ((List.mem_cons.mp hm).resolve_left hq)
      · exact .inr (other s p q hs hq hp)

/-- One slot turned OFF by a CLE fault. -/
def State.slotFaulted (s : State) (c : Fin 16) (q : Fin 7) : State :=
  ((s.overtake c q).enter c q 0 6).wrs (chRg c) [(F.SLT_OUT q, 0), (F.SLT_OUT_CODE q, 0), (F.SLT_STATE_SEQ q, 0), (F.SLT_STATE_FF_ACT q, 0)]

def faultedFields (q : Nat) : List Fld := [F.SLT_OUT q, F.SLT_OUT_CODE q, F.SLT_STATE_SEQ q, F.SLT_STATE_FF_ACT q]

theorem State.slotFaulted_touches : TouchesOnly c (slotFields q ++ faultedFields q) s (s.slotFaulted c q) := by
  have among : ∀ q : Fin 7, ((faultedFields q).all (·.among (slotFields q ++ faultedFields q))) = true := by decide
  have entered : SlotWork c q s ((s.overtake c q).enter c q 0 6) :=
    ⟨State.overtake_work.touches.trans State.enter_work.touches, State.enter_work.chan.trans State.overtake_work.chan⟩
  exact (entered.touches.mono (List.subset_append_left _ _)).wrs (gs := faultedFields q) rfl (among q)

theorem State.slotFaulted_shown : (s.slotFaulted c q).mode c q = 0 ∧ (s.slotFaulted c q).cr c (F.SLT_OUT_CODE q) = 0 := by
  have among : ∀ q : Fin 7, ((faultedFields q).all (·.among (faultedFields q))) = true ∧
      (F.SLT_STATE_MODE q).outside (faultedFields q) = true ∧ ((faultedFields q).map (fieldKey 0)).Nodup := by decide
  obtain ⟨places, mode, apart⟩ := among q
  refine ⟨?_, State.cr_wrs_of_mem (fs := faultedFields q) (f := F.SLT_OUT_CODE q) (v := 0) rfl apart (by simp)⟩
  exact (((TouchesOnly.refl c _ _).wrs (gs := faultedFields q) rfl places).cr mode).trans (State.enter_shown (by omega) (by omega)).1

/-- A slot that stands OFF with its output at code 0. -/
def State.slotOut (c : Fin 16) (s : State) (q : Fin 7) : Prop := s.mode c q = 0 ∧ s.cr c (F.SLT_OUT_CODE q) = 0

theorem State.slotsFaulted_out (p : Fin 7) : State.slotOut c ((List.finRange 7).foldl (fun s q => s.slotFaulted c q) s) p := by
  have apart : ∀ p q : Fin 7, p ≠ q → (F.SLT_STATE_MODE p).outside (slotFields q ++ faultedFields q) = true ∧
      (F.SLT_OUT_CODE p).outside (slotFields q ++ faultedFields q) = true := by decide
  refine foldl_slots (I := fun _ => True) (fun _ _ _ => trivial) (fun _ _ _ => State.slotFaulted_shown) (fun x p q _ hp h => ?_) trivial p
  obtain ⟨mode, code⟩ := apart p q hp
  exact ⟨(State.slotFaulted_touches.cr mode).trans h.1, (State.slotFaulted_touches.cr code).trans h.2⟩

theorem State.sweepEnd_dram (st : Nat) : (s.sweepEnd c st).dram = s.dram := by
  cases hw : (s.ch c).servo.sweep with
  | none => rw [State.sweepEnd_none hw]
  | some w =>
    have answered : ((s.sweepReleased c w st).sweepAnswered c w.cmd).dram = s.dram := by
      unfold State.sweepAnswered
      split
      · exact congrArg Prod.snd (State.finish_media _ _ _ _ _)
      · rfl
    rw [State.sweepEnd_some hw]
    split
    · rw [State.cirq_dram, answered]
    · exact answered

theorem State.endMotion_dram : (s.endMotion c).dram = s.dram := by
  rw [State.endMotion, (State.tjumpFail_touches 3).dram, (State.jumpFail_touches 3).dram, State.sweepEnd_dram]
  rfl

/-- The engine of a CLE fault, before the fence closes. -/
def State.engineFaulted (s : State) (c : Fin 16) : State :=
  ((((((List.finRange 7).foldl (fun s q => s.slotFaulted c q) (s.endMotion c)).modServo c fun v => { Servo.off with reached := v.reached }).wrs
    (chRg c) [(F.CLE_STS_FAULT, 1), (F.CLE_STS_RUN, 0)]).cirq c 0x08 6).modSpin c fun x => { x with cmd := 0 }).spinRest c 0 false

theorem cleFault_dead (h : s.alive c = false) : cleFault c s = s := by simp [cleFault, State.cleFaultAs, h]

theorem cleFault_alive (h : s.alive c = true) : cleFault c s = (s.engineFaulted c).closeFence c 7 := by
  simp only [cleFault, State.cleFaultAs, h, Bool.not_true, Bool.false_eq_true, if_false]
  rfl

def faultShownFields : List Fld := [F.CLE_STS_FAULT, F.CLE_STS_RUN, F.HDR_IRQ_RAW 0x08]

def spinRestFields : List Fld := [F.SPN_STS_STATE, F.SPN_STS_VLIM, F.SLT_STATE_SEQ 6, F.CHN_STS_SAFE, F.HDR_IRQ_RAW 0]

theorem State.spinRest_touches (st : Nat) (rest : Bool) : TouchesOnly c spinRestFields s (s.spinRest c st rest) :=
  (((TouchesOnly.refl c _ s).modCh _).wrs (gs := [F.SPN_STS_STATE, F.SPN_STS_VLIM, F.SLT_STATE_SEQ 6]) rfl (by decide)).trans
    (State.showSafe_touches.mono (by decide))

theorem State.spinRest_spinSt {st : Nat} (h : st < 16) (rest : Bool) : (s.spinRest c st rest).spinSt c = st := by
  have shown (u : State) : (u.wrs (chRg c) [(F.SPN_STS_STATE, st), (F.SPN_STS_VLIM, 0), (F.SLT_STATE_SEQ 6, 0)]).cr c F.SPN_STS_STATE =
      st % 16 := State.cr_wrs_of_mem (fs := [F.SPN_STS_STATE, F.SPN_STS_VLIM, F.SLT_STATE_SEQ 6]) rfl (by decide) (by simp)
  exact (State.showSafe_touches.cr (by decide)).trans ((shown _).trans (Nat.mod_eq_of_lt h))

theorem State.engineFaulted_shown : ((s.engineFaulted c).ch c).fence = (s.ch c).fence ∧ (s.engineFaulted c).cr c F.CLE_STS_FAULT = 1 ∧
    (s.engineFaulted c).spinSt c = 0 ∧ (s.engineFaulted c).dram = s.dram ∧ ∀ p : Fin 7, State.slotOut c (s.engineFaulted c) p := by
  have outside : ∀ p : Fin 7, (F.SLT_STATE_MODE p).outside (faultShownFields ++ spinRestFields) = true ∧
      (F.SLT_OUT_CODE p).outside (faultShownFields ++ spinRestFields) = true := by decide
  have slots : ((List.finRange 7).foldl (fun s q => s.slotFaulted c q) (s.endMotion c)).dram = s.dram :=
    (foldl_keeps (·.dram) (fun _ _ => State.slotFaulted_touches.dram) _ _).trans State.endMotion_dram
  have hout (p : Fin 7) := State.slotsFaulted_out (s := s.endMotion c) (c := c) p
  have fence : (s.engineFaulted c).fences = s.fences := by simp [State.engineFaulted, State.slotFaulted]
  refine ⟨congrFun fence c, ?_, State.spinRest_spinSt (by omega) _, ?_⟩
  · refine ((State.spinRest_touches 0 false).cr (by decide)).trans ((State.cirq_cr_apart _ (by decide)).trans ?_)
    exact (State.cr_wrs_pair (f := F.CLE_STS_FAULT) (g := F.CLE_STS_RUN) 1 0 (by decide)).1
  · generalize hu : (List.finRange 7).foldl (fun s q => s.slotFaulted c q) (s.endMotion c) = u at slots hout
    have rest : TouchesOnly c (faultShownFields ++ spinRestFields) u (s.engineFaulted c) := by
      rw [State.engineFaulted, hu]
      exact (((((TouchesOnly.refl c faultShownFields u).modServo _).wrs (gs := [F.CLE_STS_FAULT, F.CLE_STS_RUN]) rfl (by decide)).cirq 6
        (by decide)).mono (List.subset_append_left _ _)).modCh _ |>.trans ((State.spinRest_touches 0 false).mono
        (List.subset_append_right _ _))
    exact ⟨rest.dram.trans slots, fun p => ⟨(rest.cr (outside p).1).trans (hout p).1, (rest.cr (outside p).2).trans (hout p).2⟩⟩

/-- What a CLE fault of a channel with an open fence leaves. -/
theorem cleFault_shown (ha : s.alive c = true) (hf : (s.ch c).fence = 0) : ∃ t, cleFault c s = t ∧ (t.ch c).fence = 7 ∧
    t.cr c F.CLE_STS_FAULT = 1 ∧ t.spinSt c = 0 ∧ (t.ch c).active = false ∧ t.dram = s.dram ∧
    ∀ p : Fin 7, t.mode c p = 0 ∧ t.cr c (F.SLT_OUT_CODE p) = 0 := by
  obtain ⟨hfence, hfault, hspin, hdram, hout⟩ := State.engineFaulted_shown (s := s) (c := c)
  obtain ⟨spares, hactive⟩ := State.closeFence_faulted (cause := 7) (hfence.trans hf) hfault
  refine ⟨_, cleFault_alive ha, State.closeFence_fence (hfence.trans hf), (spares.shown c _ (by simp [engineShown])).trans hfault,
    (spares.shown c _ (by simp [engineShown])).trans hspin, hactive, spares.dram.trans hdram, fun p => ⟨?_, ?_⟩⟩
  · exact (spares.mode c p).trans (hout p).1
  · exact (spares.shown c _ (slotShown_mem p _ (by simp [slotShown]))).trans (hout p).2

end Sys2Proof.Machine
end

section
/-! PROOF. Register writes, commands and events of a slot (R158, R165, R168, R169, R172, R173, R176). -/

namespace Sys2Proof.Machine
open Sys2Proof

variable {r s t : State} {c : Fin 16} {p q : Fin 7} {dest cause row value off : Nat}

/-! Register writes. -/

theorem State.trimWrite_shown : ∃ t, s.wrs (chRg c) [(F.SLT_TRIM_OFS q, bitsAt value 0 16), (F.SLT_TRIM_GAIN q, bitsAt value 16 12)] = t ∧
    t.cr c (F.SLT_TRIM_OFS q) = bitsAt value 0 16 ∧ t.cr c (F.SLT_TRIM_GAIN q) = bitsAt value 16 12 ∧
    FieldsKept s t (FieldsOf (chRg c) [F.SLT_TRIM_OFS q, F.SLT_TRIM_GAIN q]) ∧ t = { s with regs := t.regs } := by
  have places : ∀ q : Fin 7, (F.SLT_TRIM_GAIN q).apart (F.SLT_TRIM_OFS q) = true ∧
      ([F.SLT_TRIM_OFS q, F.SLT_TRIM_GAIN q].all (·.among [F.SLT_TRIM_OFS q, F.SLT_TRIM_GAIN q])) = true := by decide
  obtain ⟨apart, among⟩ := places q
  have ofs : bitsAt value 0 16 % 2 ^ 16 = bitsAt value 0 16 := Nat.mod_mod ..
  have gain : bitsAt value 16 12 % 2 ^ 12 = bitsAt value 16 12 := Nat.mod_mod ..
  obtain ⟨hofs, hgain⟩ := State.cr_wrs_pair (s := s) (c := c) (bitsAt value 0 16) (bitsAt value 16 12) apart
  exact ⟨_, rfl, hofs.trans ofs, hgain.trans gain,
    ((TouchesOnly.refl c _ s).wrs (gs := [F.SLT_TRIM_OFS q, F.SLT_TRIM_GAIN q]) rfl among).fields, rfl⟩

/-- The registers that lanes reach as they start to hunt. -/
def huntFields : List Fld :=
  F.HDR_IRQ_RAW 0x29 :: (List.range 8).flatMap (fun l => [F.BRC_LANE_STS_SYNC l, F.BRC_LANE_STS_FLYCNT l, F.BRC_LANE_STS_STRAND l]) ++
    loopFields

theorem State.rehunt_touches : TouchesOnly c huntFields s (s.rehunt c) := by
  have among : ∀ l : Fin 8, (F.BRC_LANE_STS_SYNC l).among huntFields = true ∧ (F.BRC_LANE_STS_FLYCNT l).among huntFields = true ∧
      (F.BRC_LANE_STS_STRAND l).among huntFields = true := by decide
  have lane (u : State) (l : Fin 8) (a : FrameAddr) : TouchesOnly c huntFields u (u.huntLane c l a) := by
    obtain ⟨sync, flycnt, strand⟩ := among l
    exact (((((TouchesOnly.refl c _ u).cw _ sync).cw _ flycnt).modCh _).cw _ strand).trans
      (((LaneWork.refl c loopFields _).zoneDue l).touches.mono (List.subset_append_right _ _))
  unfold State.rehunt
  exact (TouchesOnly.foldl (fun u l => lane u l _) _ (.refl c _ s)).cirq 0 (by decide)

theorem tgtWrite_shown : ∃ t, tgtWrite c q value s = t ∧ t.cr c (F.SLT_TGT q) = value % 2 ^ 24 ∧
    (q ≠ 1 ∨ s.cr c (F.SLT_TGT q) = value % 2 ^ 24 → FieldsKept s t (FieldsOf (chRg c) [F.SLT_TGT q]) ∧ t = { s with regs := t.regs }) ∧
    (q = 1 → s.cr c (F.SLT_TGT q) ≠ value % 2 ^ 24 → (∀ l < 8, t.cr c (F.BRC_LANE_STS_SYNC l) = 0) ∧
      bitAt (t.cr c (F.HDR_IRQ_RAW 0x29)) 0 = true ∧ (t.ch c).servo = (s.ch c).servo ∧ t.dram = s.dram ∧
      ∀ d, d ≠ c → t.ch d = s.ch d) := by
  have among : ∀ q : Fin 7, (F.SLT_TGT q).among [F.SLT_TGT q] = true := by decide
  have written : (s.cw c (F.SLT_TGT q) value).cr c (F.SLT_TGT q) = value % 2 ^ 24 := State.cr_cw_self _ _ _ _
  have touched : TouchesOnly c [F.SLT_TGT q] s (s.cw c (F.SLT_TGT q) value) := (TouchesOnly.refl c _ s).cw value (among q)
  by_cases hq : q = 1 ∧ s.cr c (F.SLT_TGT q) ≠ value % 2 ^ 24
  · obtain ⟨rfl, hne⟩ := hq
    have hunts : TouchesOnly c huntFields (s.cw c (F.SLT_TGT 1) value) ((s.cw c (F.SLT_TGT 1) value).rehunt c) := State.rehunt_touches
    have changed : tgtWrite c 1 value s = (s.cw c (F.SLT_TGT 1) value).rehunt c :=
      if_pos ⟨rfl, fun h => hne (h.symm.trans written)⟩
    refine ⟨_, changed, (hunts.cr (by decide)).trans written, fun h => absurd h (by simpa using hne), fun _ _ => ⟨fun l hl => ?_,
      State.cirq_bit (by decide) (by decide), State.rehunt_servo, hunts.dram.trans touched.dram, fun d hd => (hunts.others d hd).trans
      (touched.others d hd)⟩⟩
    exact State.rehunt_sync ⟨l, hl⟩
  · have kept : tgtWrite c q value s = s.cw c (F.SLT_TGT q) value :=
      if_neg fun h => hq ⟨h.1, fun e => h.2 (written.trans e.symm)⟩
    exact ⟨_, kept, written, fun _ => ⟨touched.fields, rfl⟩, fun h1 hne => absurd ⟨h1, hne⟩ hq⟩

theorem coefWrite_regs (hlo : 0x200 ≤ off) (hhi : off < 0x500) (hf : regFields (chRg c) (sltPage q) off ≠ [])
    (hff : off = 0x418 → hasFf q = true) : coefWrite c q off value s = if s.mode c q = 1 ∨ s.mode c q = 4
      then s.writeFields (chRg c) (regFields (chRg c) (sltPage q) off) false value
      else (s.errOpen (chRg c) (sltPage q) off 1).cirq c (sltPage q) 4 := by
  have h140 : off ≠ 0x140 := by omega
  have there : (!hasFf q && (off == 0x140 || off == 0x418)) = false := by
    by_cases h418 : off = 0x418
    · simp [hff h418]
    · simp [h140, h418]
  have named : (!((decide (0x200 ≤ off) && decide (off < 0x500)) || off == 0x140) ||
      (off != 0x140 && (regFields (chRg c) (sltPage q) off).isEmpty)) = false := by
    simp [hlo, hhi, h140, hf]
  simp only [coefWrite, there, named, Bool.false_eq_true, if_false, if_neg h140]
  by_cases hm : s.mode c q = 1 ∨ s.mode c q = 4
  · rw [if_pos hm, if_neg (by omega)]
  · rw [if_neg hm, if_pos (by omega)]

theorem coefWrite_ff (hff : hasFf q = true) (hm : s.mode c q = 1 ∨ s.mode c q = 4) : ∃ t, coefWrite c q 0x140 value s = t ∧
    t.tget .ff (chRg c) (q.val * 256 + s.cr c (F.SLT_FF_IDX_IDX q)) = value % 2 ^ 24 ∧ t.chans = s.chans ∧
    FieldsKept s t (FieldsOf (chRg c) [F.SLT_FF_IDX_IDX q]) := by
  have among : ∀ q : Fin 7, (F.SLT_FF_IDX_IDX q).among [F.SLT_FF_IDX_IDX q] = true := by decide
  have shut : ¬ (s.mode c q ≠ 1 ∧ s.mode c q ≠ 4) := by omega
  have put : TouchesOnly c [F.SLT_FF_IDX_IDX q] s
      (s.tput .ff (chRg c) (q.val * 256 + s.cr c (F.SLT_FF_IDX_IDX q)) (value % 2 ^ 24)) := (TouchesOnly.refl c _ s).of_eqs rfl rfl rfl
  refine ⟨_, rfl, ?_⟩
  simp only [coefWrite, hff, Bool.not_true, Bool.false_and, Bool.false_eq_true, if_false, beq_self_eq_true, Bool.or_true, bne_self_eq_false,
    Bool.or_self, if_neg shut, if_true]
  split
  · exact ⟨State.tget_tput_self s _ _ _ _, rfl, (put.cw _ (among q)).fields⟩
  · exact ⟨State.tget_tput_self s _ _ _ _, rfl, put.fields⟩

/-! Commands. -/

theorem State.slotCommand_same (h : s.mode c q = dest) : s.slotCommand c q dest = s := by
  simp only [State.slotCommand, if_pos h]

theorem State.slotCommand_refused (hm : s.mode c q ≠ dest) (h : commanded (s.mode c q) dest = false ∨ s.cr c F.CLE_CTL = 0 ∨
    (dest ≠ 0 ∧ (s.cr c (F.SLT_STATE_SEQ q) = 1 ∨ s.swept c q = true))) : s.slotCommand c q dest = s.cirq c (sltPage q) 5 := by
  have refused : (!commanded (s.mode c q) dest || ((s.cr c (F.SLT_STATE_SEQ q) == 1 || s.swept c q) && dest != 0) ||
      s.cr c F.CLE_CTL == 0) = true := by
    rcases h with hl | hen | ⟨hd, hseq | hsw⟩
    · simp [hl]
    · simp [hen]
    · simp [hd, hseq]
    · simp [hd, hsw]
  simp only [State.slotCommand, if_neg hm, refused, if_true]

/-- A command taken: what it overtakes ends, and the slot makes its transition. -/
theorem State.slotCommand_taken (hm : s.mode c q ≠ dest) (hl : commanded (s.mode c q) dest = true) (hen : s.cr c F.CLE_CTL ≠ 0)
    (hseq : s.cr c (F.SLT_STATE_SEQ q) ≠ 1) (hsw : s.swept c q = false) (hs : (s.ch c).wr.session = .idle) :
    ∃ u, EndsMotion c s u ∧ s.slotCommand c q dest = u.enter c q dest 0 := by
  have taken : (!commanded (s.mode c q) dest || ((s.cr c (F.SLT_STATE_SEQ q) == 1 || s.swept c q) && dest != 0) ||
      s.cr c F.CLE_CTL == 0) = false := by simp [hl, hen, hseq, hsw]
  have off : s.sessionOn c = false := by simp [State.sessionOn, hs]
  have ends : EndsMotion c s (if dest = 0 then s.endHold c q else s.seqBreak c q) := State.endHold_ends.ite State.seqBreak_ends
  refine ⟨_, ends, ?_⟩
  simp only [State.slotCommand, if_neg hm, taken, off, Bool.false_eq_true, if_false]
  exact State.transit_idle (by rw [ends.wr, hs])

theorem State.slotCommand_shown (hd : dest ≤ 4) (hm : s.mode c q ≠ dest) (hl : commanded (s.mode c q) dest = true)
    (hen : s.cr c F.CLE_CTL ≠ 0) (hseq : s.cr c (F.SLT_STATE_SEQ q) ≠ 1) (hsw : s.swept c q = false)
    (hs : (s.ch c).wr.session = .idle) : (s.slotCommand c q dest).mode c q = dest ∧
    (s.slotCommand c q dest).cr c (F.SLT_STATE_CAUSE q) = 0 ∧
    ∀ p : Fin 7, p ≠ q → (s.slotCommand c q dest).mode c p = s.mode c p := by
  obtain ⟨u, ends, taken⟩ := State.slotCommand_taken hm hl hen hseq hsw hs
  obtain ⟨hmode, hcause, -, -⟩ := State.enter_shown (s := u) (c := c) (q := q) (dest := dest) (cause := 0) (by omega) (by omega)
  rw [taken]
  exact ⟨hmode, hcause, fun p hp => (State.enter_work.mode hp).trans (ends.spares.mode c p)⟩

/-! Events of acquisition. -/

/-- A transition with its event: the state it shows, the event's bit, and the other slots as they were. -/
theorem State.enter_cirq (hd : dest < 8) (hc : cause < 8) {bit : Nat} (hb : bit < 32) :
    ((s.enter c q dest cause).cirq c (sltPage q) bit).mode c q = dest ∧
    ((s.enter c q dest cause).cirq c (sltPage q) bit).cr c (F.SLT_STATE_CAUSE q) = cause ∧
    bitAt (((s.enter c q dest cause).cirq c (sltPage q) bit).cr c (F.HDR_IRQ_RAW (sltPage q))) bit = true ∧
    (∀ p : Fin 7, p ≠ q → ((s.enter c q dest cause).cirq c (sltPage q) bit).mode c p = s.mode c p) ∧
    ((s.enter c q dest cause).cirq c (sltPage q) bit).cr c (F.SLT_MANUAL q) = (s.presets c q dest cause).cr c (F.SLT_MANUAL q) := by
  have apart : ∀ q : Fin 7, (F.HDR_IRQ_RAW (sltPage q)).apart (F.SLT_STATE_MODE q) = true ∧
      (F.HDR_IRQ_RAW (sltPage q)).apart (F.SLT_STATE_CAUSE q) = true ∧ (F.HDR_IRQ_RAW (sltPage q)).apart (F.SLT_MANUAL q) = true ∧
      shadowPage (sltPage q) = false := by decide
  obtain ⟨mode, why, manual, page⟩ := apart q
  obtain ⟨hmode, hcause, -, hmanual⟩ := State.enter_shown (s := s) (c := c) (q := q) hd hc
  exact ⟨(State.cirq_cr_apart _ mode).trans hmode, (State.cirq_cr_apart _ why).trans hcause, State.cirq_bit page hb,
    fun p hp => (State.enter_work.cirq bit).mode hp, (State.cirq_cr_apart _ manual).trans hmanual⟩

theorem capture_other (h : s.mode c q ≠ 2) : capture c q s = s := if_pos h

theorem acqFail_other (h : s.mode c q ≠ 2) : acqFail c q s = s := if_pos h

theorem capture_acquiring (h : s.mode c q = 2) : capture c q s = (s.enter c q 3 1).cirq c (sltPage q) 2 := if_neg (by simp [h])

theorem acqFail_acquiring (h : s.mode c q = 2) : acqFail c q s = (s.enter c q 1 2).cirq c (sltPage q) 3 := if_neg (by simp [h])

/-! Events of a closed slot. -/

theorem guylineArm_other (h : s.mode c q ≠ 3) : guylineArm c q s = s := if_pos h

theorem slotLoss_other (h : s.mode c q ≠ 3) : slotLoss c q s = s := if_pos h

theorem slotImplausible_other (h : s.mode c q ≠ 3) (row : Nat) : slotImplausible c q row s = s := if_pos h

theorem guylineArm_shown (h : s.mode c q = 3) : ∃ t, guylineArm c q s = t ∧ t.cr c (F.SLT_STATE_ARMED q) = 1 ∧
    OnlyFields s t (FieldsOf (chRg c) [F.SLT_STATE_ARMED q]) := by
  have among : ∀ q : Fin 7, (F.SLT_STATE_ARMED q).among [F.SLT_STATE_ARMED q] = true := by decide
  exact ⟨_, State.guylineArm_closed h, State.cr_cw_self _ _ _ _, rfl, ((TouchesOnly.refl c _ s).cw 1 (among q)).fields⟩

theorem slotLoss_closed (h : s.mode c q = 3) (hs : (s.ch c).wr.session = .idle) :
    slotLoss c q s = (((s.overtake c q).seqBreak c q).enter c q 4 4).cirq c (sltPage q) 1 := by
  have off : s.sessionOn c = false := by simp [State.sessionOn, hs]
  have freed : EndsMotion c (s.overtake c q) ((s.overtake c q).seqBreak c q) := State.seqBreak_ends
  have idle : (((((s.overtake c q).seqBreak c q).enter c q 4 4).cirq c (sltPage q) 1).ch c).wr.session = .idle := by
    rw [State.cirq_ch, State.enter_work.wr, freed.wr, State.overtake_work.wr, hs]
  simp only [slotLoss, h, ne_eq, not_true_eq_false, if_false, off, Bool.false_eq_true, State.leaveClosed_idle idle]

theorem slotLoss_shown (h : s.mode c q = 3) (hs : (s.ch c).wr.session = .idle) : ∃ t, slotLoss c q s = t ∧ t.mode c q = 4 ∧
    t.cr c (F.SLT_STATE_CAUSE q) = 4 ∧ bitAt (t.cr c (F.HDR_IRQ_RAW (sltPage q))) 1 = true ∧
    ∀ p : Fin 7, p ≠ q → t.mode c p = s.mode c p := by
  obtain ⟨hmode, hcause, hbit, hothers, -⟩ := State.enter_cirq (s := (s.overtake c q).seqBreak c q) (c := c) (q := q) (dest := 4)
    (cause := 4) (by omega) (by omega) (bit := 1) (by omega)
  exact ⟨_, slotLoss_closed h hs, hmode, hcause, hbit, fun p hp => (hothers p hp).trans
    ((State.seqBreak_ends.spares.mode c p).trans (State.overtake_work.mode hp))⟩

/-- From `s` to `t` nothing that shows changed, and the write chain is as it was: what recovery plans stands behind the engine. -/
structure PlansOnly (c : Fin 16) (s t : State) : Prop where
  regs : t.regs = s.regs
  dram : t.dram = s.dram
  wr   : (t.ch c).wr = (s.ch c).wr

namespace PlansOnly

theorem refl (c : Fin 16) (s : State) : PlansOnly c s s := ⟨rfl, rfl, rfl⟩

theorem modServo (h : PlansOnly c r s) (f : Servo → Servo) : PlansOnly c r (s.modServo c f) :=
  ⟨h.regs, h.dram, (State.modServo_wr f).trans h.wr⟩

theorem ite {P : Prop} [Decidable P] (h : PlansOnly c r s) (k : PlansOnly c r t) : PlansOnly c r (if P then s else t) := by
  split
  · exact h
  · exact k

theorem pullIn (h : PlansOnly c r s) (layer : Nat) : PlansOnly c r (s.pullIn c layer) :=
  (h.modServo _).ite ((h.modServo _).modServo _)

theorem recover (h : PlansOnly c r s) (again : Bool) : PlansOnly c r (s.recover c q again) := by
  unfold State.recover
  extract_lets later
  have planned (n dest : Nat) : PlansOnly c r (later s n dest) := h.modServo _
  split
  · exact ((planned _ _).modServo _).ite (planned _ _)
  · exact (h.pullIn _).ite ((planned _ _).modServo _)
  · exact planned _ _
  · exact planned _ _
  · exact planned _ _
  · exact planned _ _
  · exact h.modServo _

end PlansOnly

/-- An implausible slot held, its event raised and its trip counted. -/
def State.slotTripped (s : State) (c : Fin 16) (q : Fin 7) : State :=
  ((((s.overtake c q).seqBreak c q).enter c q 4 3).cirq c (sltPage q) 0).incSat (chRg c) (F.SLT_GL_STS_TRIPS q)

theorem slotImplausible_closed (h : s.mode c q = 3) (hs : (s.ch c).wr.session = .idle) (row : Nat) :
    SparesEngine (s.slotTripped c q) (slotImplausible c q row s) := by
  have freed : EndsMotion c (s.overtake c q) ((s.overtake c q).seqBreak c q) := State.seqBreak_ends
  have tripped : ((s.slotTripped c q).ch c).wr.session = .idle := by
    rw [State.slotTripped, State.incSat_ch, State.cirq_ch, State.enter_work.wr, freed.wr, State.overtake_work.wr, hs]
  have recovered (again : Bool) (f : Servo → Servo) :
      PlansOnly c (s.slotTripped c q) (((s.slotTripped c q).recover c q again).modServo c f) :=
    ((PlansOnly.refl c _).recover again).modServo f
  have idle (again : Bool) (f : Servo → Servo) :
      (((((s.slotTripped c q).recover c q again).modServo c f).ch c).wr.session = .idle) := by rw [(recovered again f).wr, tripped]
  unfold slotImplausible
  rw [if_neg (by simp [h])]
  extract_lets s1 s2 now again s3
  have planned : PlansOnly c (s.slotTripped c q) s3 := recovered again _
  have stays : s3.leaveClosed c q row = s3 := State.leaveClosed_idle (idle again _)
  rw [stays]
  exact (((SparesEngine.refl _).of_eqs planned.regs planned.dram).ladderBroken).countImplausible _

theorem State.slotTripped_shown : (s.slotTripped c q).mode c q = 4 ∧ (s.slotTripped c q).cr c (F.SLT_STATE_CAUSE q) = 3 ∧
    bitAt ((s.slotTripped c q).cr c (F.HDR_IRQ_RAW (sltPage q))) 0 = true ∧
    (s.slotTripped c q).cr c (F.SLT_GL_STS_TRIPS q) = min (s.cr c (F.SLT_GL_STS_TRIPS q) + 1) 255 := by
  have places : ∀ q : Fin 7, (F.SLT_GL_STS_TRIPS q).apart (F.SLT_STATE_MODE q) = true ∧
      (F.SLT_GL_STS_TRIPS q).apart (F.SLT_STATE_CAUSE q) = true ∧ (F.SLT_GL_STS_TRIPS q).apart (F.HDR_IRQ_RAW (sltPage q)) = true ∧
      (F.SLT_GL_STS_TRIPS q).outside (slotFields q) = true := by decide
  obtain ⟨mode, why, raw, trips⟩ := places q
  obtain ⟨hmode, hcause, hbit, -, -⟩ := State.enter_cirq (s := (s.overtake c q).seqBreak c q) (c := c) (q := q) (dest := 4)
    (cause := 3) (by omega) (by omega) (bit := 0) (by omega)
  have before : ((((s.overtake c q).seqBreak c q).enter c q 4 3).cirq c (sltPage q) 0).cr c (F.SLT_GL_STS_TRIPS q) =
      s.cr c (F.SLT_GL_STS_TRIPS q) := by
    refine ((State.enter_work.cirq 0).touches.cr trips).trans ?_
    exact (State.seqBreak_ends.spares.shown c _ (slotShown_mem q _ (by simp [slotShown]))).trans (State.overtake_work.touches.cr trips)
  refine ⟨(State.cr_cw_apart _ _ mode).trans hmode, (State.cr_cw_apart _ _ why).trans hcause,
    (congrArg (bitAt · 0) (State.cr_cw_apart _ _ raw)).trans hbit, ?_⟩
  exact (State.incSat_rd_self _ _ _ _).trans (congrArg (fun n => min (n + 1) 255) before)

theorem slotImplausible_shown (h : s.mode c q = 3) (hs : (s.ch c).wr.session = .idle) (row : Nat) : ∃ t, slotImplausible c q row s = t ∧
    t.mode c q = 4 ∧ t.cr c (F.SLT_STATE_CAUSE q) = 3 ∧ bitAt (t.cr c (F.HDR_IRQ_RAW (sltPage q))) 0 = true ∧
    t.cr c (F.SLT_GL_STS_TRIPS q) = min (s.cr c (F.SLT_GL_STS_TRIPS q) + 1) 255 := by
  obtain ⟨hmode, hcause, hbit, htrips⟩ := State.slotTripped_shown (s := s) (c := c) (q := q)
  have later : SparesEngine (s.slotTripped c q) (slotImplausible c q row s) := slotImplausible_closed h hs row
  have kept {f : Fld} (hf : f ∈ slotShown q) : (slotImplausible c q row s).cr c f = (s.slotTripped c q).cr c f :=
    later.shown c f (slotShown_mem q f hf)
  exact ⟨_, rfl, (kept (by simp [slotShown])).trans hmode, (kept (by simp [slotShown])).trans hcause,
    (congrArg (bitAt · 0) (kept (by simp [slotShown]))).trans hbit, (kept (by simp [slotShown])).trans htrips⟩

/-! A finished bin (R176). -/

theorem ffBinEnd_none (h : hasFf q = false) : ffBinEnd c q s = s := by simp [ffBinEnd, h]

theorem ffBinEnd_shown (h : hasFf q = true) : ∃ t, ffBinEnd c q s = t ∧ (t.slt c q).binSum = 0 ∧ (t.slt c q).binN = 0 ∧
    (t.slt c q).binOk = true ∧ ((s.slt c q).binOk = false → t.tbl = s.tbl) ∧ t.regs = s.regs := by
  refine ⟨_, rfl, ?_⟩
  unfold ffBinEnd
  rw [if_neg (by simp [h])]
  extract_lets x i key v leak kept s1
  refine ⟨congrArg (·.binSum) (State.modSlt_slt _), congrArg (·.binN) (State.modSlt_slt _), congrArg (·.binOk) (State.modSlt_slt _),
    fun hk => ?_, ?_⟩
  · have spoiled : s1 = s := if_neg (by simp [x, hk])
    exact (rfl : _ = s1.tbl).trans (congrArg State.tbl spoiled)
  · have learnt : s1.regs = s.regs := by
      simp only [s1]
      split <;> rfl
    exact learnt

/-! EN (R165). -/

theorem State.cr_enable (v w : Nat) : (s.wrs (chRg c) [(F.CLE_CTL, v), (F.CLE_STS_RUN, w)]).cr c F.CLE_CTL = v % 2 ∧
    (s.wrs (chRg c) [(F.CLE_CTL, v), (F.CLE_STS_RUN, w)]).cr c F.CLE_STS_RUN = w % 2 :=
  State.cr_wrs_pair (f := F.CLE_CTL) (g := F.CLE_STS_RUN) v w (by decide)

theorem cleEnable_on : ∃ t, cleEnable c true s = t ∧ t.cr c F.CLE_CTL = 1 ∧
    t.cr c F.CLE_STS_RUN = (if s.cr c F.CLE_STS_FAULT = 0 then 1 else 0) ∧
    FieldsKept s t (FieldsOf (chRg c) [F.CLE_CTL, F.CLE_STS_RUN]) ∧ t = { s with regs := t.regs } := by
  obtain ⟨hctl, hrun⟩ := State.cr_enable (s := s) (c := c) (b2n true) (b2n (s.cr c F.CLE_STS_FAULT == 0))
  refine ⟨_, rfl, hctl, hrun.trans ?_, ((TouchesOnly.refl c _ s).wrs (gs := [F.CLE_CTL, F.CLE_STS_RUN]) rfl (by decide)).fields, rfl⟩
  by_cases h : s.cr c F.CLE_STS_FAULT = 0 <;> simp [h, b2n]

/-- A slot turned OFF while no session is on: from what its hold leaves, it enters OFF. -/
theorem State.turnOff_idle (h : (s.ch c).wr.session = .idle) (hm : s.mode c q ≠ 0) (cause : Nat) :
    ∃ u, EndsMotion c s u ∧ s.turnOff c q cause = u.enter c q 0 cause := by
  have off : s.sessionOn c = false := by simp [State.sessionOn, h]
  have ends : EndsMotion c s (s.endHold c q) := State.endHold_ends
  refine ⟨_, ends, ?_⟩
  simp only [State.turnOff, if_neg hm, off, Bool.false_eq_true, if_false]
  exact State.transit_idle (by rw [ends.wr, h])

/-- The engine of channel `c` switched off, with no session on. -/
def State.enginePaused (c : Fin 16) (s : State) : Prop :=
  s.cr c F.CLE_CTL = 0 ∧ s.cr c F.CLE_STS_RUN = 0 ∧ (s.ch c).wr.session = .idle

theorem State.turnOff_paused (h : State.enginePaused c s) : State.enginePaused c (s.turnOff c q 0) ∧ (s.turnOff c q 0).mode c q = 0 ∧
    ∀ p : Fin 7, p ≠ q → (s.turnOff c q 0).mode c p = s.mode c p := by
  have places : ∀ q : Fin 7, F.CLE_CTL.outside (slotFields q) = true ∧ F.CLE_STS_RUN.outside (slotFields q) = true := by decide
  obtain ⟨hctl, hrun, hidle⟩ := h
  obtain ⟨ctl, run⟩ := places q
  by_cases hm : s.mode c q = 0
  · have same : s.turnOff c q 0 = s := if_pos hm
    rw [same]
    exact ⟨⟨hctl, hrun, hidle⟩, hm, fun _ _ => rfl⟩
  · obtain ⟨u, ends, turned⟩ := State.turnOff_idle hidle hm 0
    rw [turned]
    refine ⟨⟨?_, ?_, by rw [State.enter_work.wr, ends.wr, hidle]⟩, (State.enter_shown (by omega) (by omega)).1,
      fun p hp => (State.enter_work.mode hp).trans (ends.spares.mode c p)⟩
    · exact (State.enter_work.touches.cr ctl).trans ((ends.spares.shown c _ (by simp [engineShown])).trans hctl)
    · exact (State.enter_work.touches.cr run).trans ((ends.spares.shown c _ (by simp [engineShown])).trans hrun)

theorem cleEnable_off (h : (s.ch c).wr.session = .idle) : ∃ t, cleEnable c false s = t ∧ t.cr c F.CLE_CTL = 0 ∧
    t.cr c F.CLE_STS_RUN = 0 ∧ ∀ p : Fin 7, t.mode c p = 0 := by
  obtain ⟨hctl, hrun⟩ := State.cr_enable (s := s) (c := c) 0 0
  have paused : State.enginePaused c (s.wrs (chRg c) [(F.CLE_CTL, 0), (F.CLE_STS_RUN, 0)]) := ⟨hctl, hrun, h⟩
  have shown (p : Fin 7) := foldl_slots (P := fun x p => State.enginePaused c x ∧ x.mode c p = 0) (I := State.enginePaused c)
    (g := fun x q => x.turnOff c q 0) (fun _ _ hx => (State.turnOff_paused hx).1)
    (fun x q hx => ⟨(State.turnOff_paused hx).1, (State.turnOff_paused hx).2.1⟩)
    (fun x p q hx hp hk => ⟨(State.turnOff_paused hx).1, ((State.turnOff_paused hx).2.2 p hp).trans hk.2⟩) paused p
  exact ⟨_, rfl, (shown 0).1.1, (shown 0).1.2.1, fun p => (shown p).2⟩

end Sys2Proof.Machine
end

section
/-! PROOF. A sample of a slot in OFF or OPEN with nothing pending: what it works on, and the output it drives (R151, R154, R158 to R164). -/

namespace Sys2Proof.Machine
open Sys2Proof

variable {r s t : State} {c : Fin 16} {p q : Fin 7} {sd : List Int}

/-- The registers of a slot that such a sample may reach, and those of the statistics. -/
def sampleFields (q : Nat) : List Fld :=
  [F.SLT_TRIM_CUR_OFS q, F.SLT_TRIM_CUR_GAIN q, F.SLT_ERR q, F.SLT_FERR q, F.SLT_SUMV q, F.SLT_STATE_FF_ACT q, F.SLT_OUT q,
    F.SLT_OUT_CODE q, F.HDR_IRQ_RAW 0x58, F.HDR_IRQ_RAW (sltPage q)]

theorem sampleFields_among : ∀ q : Fin 7, ∀ f ∈ sampleFields q, f.among (sampleFields q) = true := by decide

/-- From `s` to `t` a sample of slot `q` worked: it reached the registers above, and neither the slot's command and sample count nor the
defect hold and the sweep of the channel. -/
structure SampleWork (c : Fin 16) (q : Fin 7) (s t : State) : Prop where
  touches : TouchesOnly c (sampleFields q) s t
  cmd     : (t.slt c q).cmd = (s.slt c q).cmd
  count   : (t.slt c q).n = (s.slt c q).n
  defect  : (t.ch c).servo.defect = (s.ch c).servo.defect
  sweep   : (t.ch c).servo.sweep = (s.ch c).servo.sweep

namespace SampleWork

theorem refl (c : Fin 16) (q : Fin 7) (s : State) : SampleWork c q s s := ⟨.refl c _ s, rfl, rfl, rfl, rfl⟩

theorem trans (h : SampleWork c q r s) (k : SampleWork c q s t) : SampleWork c q r t :=
  ⟨h.touches.trans k.touches, k.cmd.trans h.cmd, k.count.trans h.count, k.defect.trans h.defect, k.sweep.trans h.sweep⟩

theorem ite {P : Prop} [Decidable P] (h : SampleWork c q r s) (k : SampleWork c q r t) : SampleWork c q r (if P then s else t) := by
  split
  · exact h
  · exact k

/-- Work that leaves the channel as it is. -/
theorem of_ch (h : TouchesOnly c (sampleFields q) s t) (hc : t.ch c = s.ch c) : SampleWork c q s t :=
  ⟨h, by simp only [State.slt, hc], by simp only [State.slt, hc], by rw [hc], by rw [hc]⟩

theorem cw (h : SampleWork c q r s) {f : Fld} (v : Nat) (hf : f ∈ sampleFields q) : SampleWork c q r (s.cw c f v) :=
  h.trans (.of_ch ((TouchesOnly.refl c _ s).cw v (sampleFields_among q f hf)) rfl)

theorem tput (h : SampleWork c q r s) (u : Tbl) (rg i v : Nat) : SampleWork c q r (s.tput u rg i v) :=
  h.trans (.of_ch ((TouchesOnly.refl c _ s).of_eqs rfl rfl rfl) rfl)

theorem modSlt (h : SampleWork c q r s) {f : SlotSt → SlotSt} (hc : ∀ x, (f x).cmd = x.cmd) (hn : ∀ x, (f x).n = x.n) :
    SampleWork c q r (s.modSlt c q f) :=
  h.trans ⟨(TouchesOnly.refl c _ s).modSlt f, by rw [State.modSlt_slt, hc], by rw [State.modSlt_slt, hn],
    congrArg (·.servo.defect) (State.modSlt_noSlots f), congrArg (·.servo.sweep) (State.modSlt_noSlots f)⟩

theorem planned (h : SampleWork c q r s) (l : List Due) : SampleWork c q r (s.modServo c fun v => { v with due := l }) :=
  h.trans ⟨(TouchesOnly.refl c _ s).modServo _, by simp [State.slt, State.modServo_servo], by simp [State.slt, State.modServo_servo],
    by rw [State.modServo_servo], by rw [State.modServo_servo]⟩

theorem trimStep (h : SampleWork c q r s) : SampleWork c q r (s.trimStep c q) := by
  unfold State.trimStep
  extract_lets o g u rate x v
  have moved : SampleWork c q r (s.wrs (chRg c) [(F.SLT_TRIM_CUR_OFS q, ofSigned 16 o), (F.SLT_TRIM_CUR_GAIN q, ofSigned 12 g)]) :=
    (h.cw _ (by simp [sampleFields])).cw _ (by simp [sampleFields])
  exact moved.modSlt (fun _ => rfl) fun _ => rfl

theorem measure (h : SampleWork c q r s) (sd : List Int) : SampleWork c q r (s.measure c q sd) := by
  unfold State.measure
  refine h.ite ?_
  extract_lets src m sum e x hold f s1
  have h1 : SampleWork c q r s1 := h.modSlt (fun _ => rfl) fun _ => rfl
  exact ((h1.cw _ (by simp [sampleFields])).cw _ (by simp [sampleFields])).cw _ (by simp [sampleFields])

theorem ffBinEnd (h : SampleWork c q r s) : SampleWork c q r (ffBinEnd c q s) := by
  unfold Machine.ffBinEnd
  refine h.ite ?_
  extract_lets x i key v leak kept s1
  have h1 : SampleWork c q r s1 := (h.tput _ _ _ _).ite h
  exact h1.modSlt (fun _ => rfl) fun _ => rfl

theorem ffStep (h : SampleWork c q r s) : SampleWork c q r (s.ffStep c q) := by
  unfold State.ffStep
  refine h.ite ?_
  extract_lets x a turned on w v i u ff
  have weighed : SampleWork c q r (s.modSlt c q fun x => { x with w := w, ff := ff, angle := a }) :=
    h.modSlt (fun _ => rfl) fun _ => rfl
  exact weighed.cw _ (by simp [sampleFields])

end SampleWork

/-- A slot that is not in HOLD takes no planned command. -/
theorem State.dueStep_work (h : s.mode c q ≠ 4) : SampleWork c q s (s.dueStep c q) := by
  unfold State.dueStep
  split
  · exact .refl c q s
  · have notHeld : ¬ (s.mode c q = 4 ∧ (s.slt c q).cmd.isNone = true) := fun hm => h hm.1
    dsimp only
    rw [if_neg notHeld]
    exact ((SampleWork.refl c q s).planned _).ite ((SampleWork.refl c q s).planned _)

theorem State.defectEnter_none (h : (s.ch c).servo.defect = none) : s.defectEnter c = s := by
  have still (q : Fin 7) : s.holdSlot c q = s := by simp [State.holdSlot, State.inDefect, State.defectOn, h]
  have all (l : List (Fin 7)) : l.foldl (fun s q => s.holdSlot c q) s = s := by
    induction l with
    | nil => rfl
    | cons q l ih => rw [List.foldl_cons, still, ih]
  rw [State.defectEnter_eq]
  exact all _

theorem State.slotSwap_none (hp : s.cr c (F.HDR_SET_STS_PENDING (sltPage q)) = 0) (hg : SMap.get s.groups (chRg c) [] = []) :
    s.slotSwap c q = s := by
  have single : ¬ (s.rd (chRg c) (F.HDR_SET_STS_PENDING (sltPage q)) = 1 ∧ s.swapDue c (sltPage q) = true) := fun h => by
    have := hp.symm.trans h.1
    omega
  simp only [State.slotSwap, if_neg single, hg]
  simp

end Sys2Proof.Machine
end

section
/-! PROOF. The output of such a sample, and the statement about slots (R154, R164 to R187). -/

namespace Sys2Proof.Machine
open Sys2Proof

variable {r s t : State} {c : Fin 16} {p q : Fin 7} {sd : List Int}

/-! The sample up to its output. -/

/-- What makes a sample of a slot an idle one: of a slow slot besides SPD, in OFF or OPEN, with nothing waiting. -/
structure IdleSample (s : State) (c : Fin 16) (q : Fin 7) : Prop where
  slow    : 2 ≤ q.val
  notSpd  : q.val ≤ 5
  open_   : s.mode c q ≤ 1
  enabled : s.mode c q = 1 → s.cr c F.CLE_CTL ≠ 0
  cmd     : (s.slt c q).cmd = none
  swap    : s.cr c (F.HDR_SET_STS_PENDING (sltPage q)) = 0
  group   : SMap.get s.groups (chRg c) [] = []
  defect  : (s.ch c).servo.defect = none
  sweep   : (s.ch c).servo.sweep = none

namespace IdleSample

theorem ne_zero (h : IdleSample s c q) : q ≠ 0 := fun e => absurd h.slow (by rw [e]; decide)

theorem ne_one (h : IdleSample s c q) : q ≠ 1 := fun e => absurd h.slow (by rw [e]; decide)

theorem ne_six (h : IdleSample s c q) : q ≠ 6 := fun e => absurd h.notSpd (by rw [e]; decide)

/-- Before the slot is computed, its trims and what is planned for it move on. -/
theorem samplePre (h : IdleSample s c q) (sd : List Int) : SampleWork c q s (s.samplePre c q sd) := by
  have mode : ∀ q : Fin 7, (F.SLT_STATE_MODE q).outside (sampleFields q) = true := by decide
  have begun : s.beginPeriod c q = s := if_pos (by have := h.slow; omega)
  have trimmed : SampleWork c q s (s.trimStep c q) := (SampleWork.refl c q s).trimStep
  have due : SampleWork c q s ((s.trimStep c q).dueStep c q) := trimmed.trans (State.dueStep_work (by
    have := trimmed.touches.cr (mode q)
    have := h.open_
    simp only [State.mode] at *
    omega))
  have held : ((s.trimStep c q).dueStep c q).defectEnter c = (s.trimStep c q).dueStep c q :=
    State.defectEnter_none (due.defect.trans h.defect)
  simp only [State.samplePre, begun, if_neg h.ne_zero, if_neg h.ne_six, State.slotSwap_none h.swap h.group, held]
  exact due

end IdleSample

/-- A sample's measurement and feed-forward. -/
def State.sampleMeasured (s : State) (c : Fin 16) (q : Fin 7) (sd : List Int) : State :=
  let s2 := (s.samplePre c q sd).measure c q sd
  (if decide (s2.mech c / 256 ≠ (s2.slt c q).angle / 256) then ffBinEnd c q s2 else s2).ffStep c q

theorem State.sampleMeasured_work (h : IdleSample s c q) : SampleWork c q s (s.sampleMeasured c q sd) := by
  have measured : SampleWork c q s ((s.samplePre c q sd).measure c q sd) := (h.samplePre sd).measure sd
  exact SampleWork.ffStep (measured.ffBinEnd.ite measured)

/-- A slot after a sample: it is counted, and the inputs of its period are gone. -/
def SlotSt.counted (x : SlotSt) : SlotSt := { x with n := x.n + 1, inSum := List.replicate 8 0, inN := 0 }

/-- A sample's end. -/
def State.sampleEnds (s : State) (c : Fin 16) (q : Fin 7) : State := { s.modSlt c q SlotSt.counted with free := s.free + 48 }

theorem State.sampleEnds_count : ((s.sampleEnds c q).slt c q).n = (s.slt c q).n + 1 := by
  have counted : (s.sampleEnds c q).slt c q = (s.modSlt c q SlotSt.counted).slt c q := rfl
  rw [counted, State.modSlt_slt]
  rfl

theorem State.sampleEnds_touches : TouchesOnly c (sampleFields q) s (s.sampleEnds c q) :=
  ((TouchesOnly.refl c _ s).modSlt SlotSt.counted).of_eqs rfl rfl rfl

/-- The bin spoiled, and the output driven. -/
def State.sampleDrives (s : State) (c : Fin 16) (q : Fin 7) : State := (s.modSlt c q fun x => { x with binOk := false }).drive c q

/-- With no transition to make, the order of R168 makes none. -/
theorem State.decide_none (ho : s.mode c q ≤ 1) (hen : s.mode c q = 1 → s.cr c F.CLE_CTL ≠ 0) (hc : (s.slt c q).cmd = none) (n : Nat) :
    s.decide_ c q n = s := by
  have enabled : ¬ (s.cr c F.CLE_CTL = 0 ∧ s.mode c q ≠ 0) := fun h => hen (by omega) h.1
  have plausible : ¬ (s.mode c q = 3 ∧ n ≥ s.cr c (F.SLT_GL_CTL_N q) ∧ n ≠ 0) := fun h => by omega
  have kept : ¬ (s.mode c q = 3 ∧ s.cr c (F.SLT_LOSS_THR q) ≠ 0 ∧ (s.slt c q).lossN ≥ s.cr c (F.SLT_LOSS_N q)) := fun h => by omega
  have settled : ¬ (s.mode c q = 2 ∧ s.mode c q = 2) := fun h => by omega
  simp only [State.decide_, if_neg enabled, if_neg plausible, if_neg kept, hc, if_neg settled]

theorem State.sweepStep_none (h : (s.ch c).servo.sweep = none) (n : Nat) (e sum : Int) : s.sweepStep c n e sum = s := by
  simp only [State.sweepStep, h]

/-- The drive of a slot reaches its output's registers. -/
theorem State.drive_work : SampleWork c q s (s.drive c q) := by
  have raw : F.HDR_IRQ_RAW 0x58 ∈ sampleFields q ∧ F.HDR_IRQ_RAW (sltPage q) ∈ sampleFields q := by simp [sampleFields]
  have counted (u : State) (src : Nat) (v : Int) : SampleWork c q u (u.sample (chRg c) src v) :=
    .of_ch ((State.sample_touches src v).mono (by simpa using raw.1)) (by simp only [State.ch, State.sample_chans])
  have limited (u : State) : SampleWork c q u (u.cirq c (sltPage q) 10) :=
    .of_ch ((TouchesOnly.refl c _ u).cirq 10 (sampleFields_among q _ raw.2)) (State.cirq_ch ..)
  unfold State.drive
  extract_lets o prev a slew out code s1 s2
  have h1 : SampleWork c q s s1 := (SampleWork.refl c q s).modSlt (fun _ => rfl) fun _ => rfl
  have h2 : SampleWork c q s s2 :=
    ((h1.cw _ (by simp [sampleFields])).cw _ (by simp [sampleFields])).trans (counted _ _ _)
  exact h2.ite (h2.trans (limited _))

theorem State.sampleDrives_work : SampleWork c q s (s.sampleDrives c q) := by
  have spoiled : SampleWork c q s (s.modSlt c q fun x => { x with binOk := false }) :=
    (SampleWork.refl c q s).modSlt (fun _ => rfl) fun _ => rfl
  exact spoiled.trans State.drive_work

/-! The output. -/

theorem toSigned_ofSigned {x : Int} (hlo : -8388608 ≤ x) (hhi : x ≤ 8388607) : toSigned 24 (ofSigned 24 x) = x := by
  unfold toSigned ofSigned
  split <;> omega

theorem State.q21_range (f : Fld) : -8388608 ≤ s.q21 c f ∧ s.q21 c f ≤ 8388607 := by
  have hlt : s.cr c f % 2 ^ 24 < 2 ^ 24 := Nat.mod_lt _ (by decide)
  unfold State.q21 toSigned
  split <;> omega

theorem clampInt_within {lo hi x : Int} (hlo : lo ≤ x) (hhi : x ≤ hi) : clampInt lo hi x = x := by
  simp [clampInt, Int.not_lt.mpr hlo, Int.not_lt.mpr hhi]

/-- An output within its limits, with no slew limit, is driven as it is (R164). -/
theorem State.drive_shown {out : Int} (hraw : (s.rawOut c q).1 = out) (hlo : s.q21 c (F.SLT_OLIM_LO q) ≤ out)
    (hhi : out ≤ s.q21 c (F.SLT_OLIM_HI q)) (hslew : s.cr c (F.SLT_SLEW q) = 0) : (s.drive c q).q21 c (F.SLT_OUT q) = out ∧
    (s.drive c q).cr c (F.SLT_OUT_CODE q) = ofSigned 16 (outCode out) := by
  have places : ∀ q : Fin 7, (F.SLT_OUT_CODE q).apart (F.SLT_OUT q) = true ∧ (F.SLT_OUT q).outside [F.HDR_IRQ_RAW 0x58] = true ∧
      (F.SLT_OUT_CODE q).outside [F.HDR_IRQ_RAW 0x58] = true := by decide
  obtain ⟨apart, output, code⟩ := places q
  have range : -8388608 ≤ out ∧ out ≤ 8388607 :=
    ⟨(State.q21_range (s := s) (c := c) _).1.trans hlo, hhi.trans (State.q21_range (s := s) (c := c) _).2⟩
  have limit : limitQ (s.free + 45) (s.q21 c (F.SLT_OLIM_LO q)) (s.q21 c (F.SLT_OLIM_HI q)) out = out := by
    rw [limitQ, if_pos (hlo.trans hhi), clampInt_within hlo hhi]
  have codes : ofSigned 16 (outCode out) % 2 ^ 16 = ofSigned 16 (outCode out) := Nat.mod_eq_of_lt (by unfold ofSigned; omega)
  simp only [State.drive, hraw, limit, hslew, Nat.cast_zero, if_true]
  constructor
  · refine (congrArg (toSigned 24) ((State.sample_touches _ _).cr output)).trans ?_
    rw [State.cr_cw_apart _ _ apart, State.cr_putQ_self _ rfl]
    exact toSigned_ofSigned range.1 range.2
  · exact ((State.sample_touches _ _).cr code).trans ((State.cr_cw_self _ _ _ _).trans codes)

theorem slotSample_idle (h : IdleSample s c q) (ha : s.alive c = true) (hf : s.cr c F.CLE_STS_FAULT ≠ 1) :
    slotSample c q sd s = ((s.sampleMeasured c q sd).sampleDrives c q).sampleEnds c q := by
  have places : ∀ q : Fin 7, (F.SLT_STATE_MODE q).outside (sampleFields q) = true ∧ F.CLE_CTL.outside (sampleFields q) = true := by decide
  obtain ⟨mode, ctl⟩ := places q
  have slow : q.val > 1 := h.slow
  have measured : SampleWork c q s (s.sampleMeasured c q sd) := State.sampleMeasured_work h
  have modeBefore : (s.samplePre c q sd).mode c q = s.mode c q := (h.samplePre sd).touches.cr mode
  have modeAfter : (s.sampleMeasured c q sd).mode c q = s.mode c q := measured.touches.cr mode
  have was3 : ¬ (s.samplePre c q sd).mode c q = 3 := by have := h.open_; omega
  have was2 : ¬ (s.samplePre c q sd).mode c q = 2 := by have := h.open_; omega
  have closed : ¬ (s.sampleMeasured c q sd).mode c q = 3 := by have := h.open_; omega
  have decided (n : Nat) : (s.sampleMeasured c q sd).decide_ c q n = s.sampleMeasured c q sd :=
    State.decide_none (by rw [modeAfter]; exact h.open_) (by rw [modeAfter, measured.touches.cr ctl]; exact h.enabled)
      (by rw [measured.cmd, h.cmd]) n
  have driven : SampleWork c q s ((s.sampleMeasured c q sd).sampleDrives c q) := measured.trans State.sampleDrives_work
  have runs : ¬ ((!s.alive c || s.cr c F.CLE_STS_FAULT == 1) = true) := by simp [ha, hf]
  unfold slotSample
  rw [if_neg runs]
  extract_lets s1 was e0 sum0 s2 e sum old newBin wrapped s3 s4 res count n lost u u1 s5 s6 s7 closed' frozen s8 v s9 s10 s11 s12 base s13
  have e4 : s4 = s.sampleMeasured c q sd := rfl
  have e5 : s5 = s4 := by simp only [s5, was, s1, if_neg was3, if_neg was2]
  have e6 : s6 = s4 := by simp only [s6, if_neg h.ne_zero, if_neg h.ne_one, e5]
  have e7 : s7 = s4 := by simp only [s7, e6, e4, decided]
  have shut : ¬ closed' := by
    simp only [closed', e7, e4]
    exact closed
  have e8 : s8 = s4 := by simp only [s8, shut, false_and, if_false, e7]
  have e9 : s9 = s4.modSlt c q fun x => { x with binOk := false } := by simp only [s9, shut, false_and, if_false, e8]
  have e11 : s11 = s4.sampleDrives c q := by simp only [s11, shut, false_and, if_false, s10, e9, State.sampleDrives]
  have e12 : s12 = s11 := by
    have offset : s11.offsetStep c q e = s11 := if_pos slow
    have rms : s11.rmsStep c q e wrapped = s11 := if_pos slow
    have swept : s11.sweepStep c q e sum = s11 := State.sweepStep_none (by rw [e11, e4, driven.sweep, h.sweep]) _ _ _
    simp only [s12, offset, rms, swept]
  have ended : s12.endPeriod c q = s4.sampleDrives c q := (if_pos slow).trans (e12.trans e11)
  have ebase : base = (s4.sampleDrives c q).modSlt c q SlotSt.counted := congrArg (State.modSlt · c q SlotSt.counted) ended
  have e13 : s13 = (s4.sampleDrives c q).sampleEnds c q := by simp only [s13, ebase, e12, e11, State.sampleEnds]
  rw [if_pos h.ne_zero, e13, e4]

end Sys2Proof.Machine
end

section
/-! PROOF. What an idle sample leaves, and the statement about slots (R154, R164 to R187). -/

namespace Sys2Proof.Machine
open Sys2Proof

variable {s t : State} {c : Fin 16} {p q : Fin 7} {sd : List Int}

theorem State.regainStep_idle (h : (s.ch c).servo.regain = .idle) : s.regainStep c q = s := by
  simp only [State.regainStep, h]

/-- The search for focus and strand follows the samples of FOC and TRK only. -/
theorem State.regainStep_other (h0 : q ≠ 0) (h1 : q ≠ 1) : s.regainStep c q = s := by
  unfold State.regainStep
  split <;> simp [h0, h1]

theorem slotSample_dead (h : s.alive c = false ∨ s.cr c F.CLE_STS_FAULT = 1) : slotSample c q sd s = s := by
  have dead : (!s.alive c || s.cr c F.CLE_STS_FAULT == 1) = true := by simpa using h
  exact if_pos dead

theorem servoSample_dead (h : s.alive c = false ∨ s.cr c F.CLE_STS_FAULT = 1) (hr : (s.ch c).servo.regain = .idle) :
    exec (.servoSample c q sd) s = .next s := by
  have still : servoSample c q sd s = s := by rw [servoSample, slotSample_dead h, State.regainStep_idle hr]
  have ran (pg : Nat) (f : State → State) (hf : f s = s) : s.whileRunning (chRg c) pg f = s := by
    unfold State.whileRunning
    split
    · exact hf
    · rfl
  exact congrArg Host.Outcome.next (ran _ _ (ran _ _ still))

/-- What a slot in OFF or OPEN outputs (Table 5-3). -/
def State.manualOut (s : State) (c : Fin 16) (q : Fin 7) : Int := if s.mode c q = 0 then 0 else s.q21 c (F.SLT_MANUAL q)

theorem State.rawOut_manual (h : s.mode c q ≤ 1) : (s.rawOut c q).1 = s.manualOut c q := by
  unfold State.rawOut State.manualOut
  rcases (by omega : s.mode c q = 0 ∨ s.mode c q = 1) with hm | hm <;> simp [hm]

theorem State.sampleDrives_shown {out : Int} (ho : s.mode c q ≤ 1) (hout : s.manualOut c q = out) (hslew : s.cr c (F.SLT_SLEW q) = 0)
    (hlo : s.q21 c (F.SLT_OLIM_LO q) ≤ out) (hhi : out ≤ s.q21 c (F.SLT_OLIM_HI q)) :
    (s.sampleDrives c q).q21 c (F.SLT_OUT q) = out ∧ (s.sampleDrives c q).cr c (F.SLT_OUT_CODE q) = ofSigned 16 (outCode out) :=
  State.drive_shown (s := s.modSlt c q fun x => { x with binOk := false })
    ((State.rawOut_manual (s := s.modSlt c q fun x => { x with binOk := false }) ho).trans hout) hlo hhi hslew

/-- A sample of an idle slot outputs its manual value. -/
theorem servoSample_idle (h : IdleSample s c q) (ha : s.alive c = true) (hf : s.cr c F.CLE_STS_FAULT ≠ 1)
    (hslew : s.cr c (F.SLT_SLEW q) = 0) (hlo : s.q21 c (F.SLT_OLIM_LO q) ≤ s.manualOut c q)
    (hhi : s.manualOut c q ≤ s.q21 c (F.SLT_OLIM_HI q)) : ∃ t, servoSample c q sd s = t ∧ t.mode c q = s.mode c q ∧
    t.q21 c (F.SLT_OUT q) = s.manualOut c q ∧ t.cr c (F.SLT_OUT_CODE q) = ofSigned 16 (outCode (s.manualOut c q)) ∧
    (t.slt c q).n = (s.slt c q).n + 1 ∧ t.dram = s.dram ∧
    (∀ p : Fin 7, p ≠ q → t.mode c p = s.mode c p ∧ t.cr c (F.SLT_OUT p) = s.cr c (F.SLT_OUT p)) ∧ ∀ d, d ≠ c → t.ch d = s.ch d := by
  have places : ∀ q : Fin 7, (F.SLT_MANUAL q).outside (sampleFields q) = true ∧ (F.SLT_SLEW q).outside (sampleFields q) = true ∧
      (F.SLT_OLIM_LO q).outside (sampleFields q) = true ∧ (F.SLT_OLIM_HI q).outside (sampleFields q) = true := by decide
  have modes : ∀ p q : Fin 7, (F.SLT_STATE_MODE p).outside (sampleFields q) = true := by decide
  have outs : ∀ p q : Fin 7, p ≠ q → (F.SLT_OUT p).outside (sampleFields q) = true := by decide
  obtain ⟨manual, slew, lo, hi⟩ := places q
  have measured : SampleWork c q s (s.sampleMeasured c q sd) := State.sampleMeasured_work h
  have mode : (s.sampleMeasured c q sd).mode c q = s.mode c q := measured.touches.cr (modes q q)
  have kept {f : Fld} (hf : f.outside (sampleFields q) = true) : (s.sampleMeasured c q sd).q21 c f = s.q21 c f :=
    congrArg (toSigned 24) (measured.touches.cr hf)
  have value : (s.sampleMeasured c q sd).manualOut c q = s.manualOut c q := by simp only [State.manualOut, mode, kept manual]
  obtain ⟨hval, hcode⟩ := State.sampleDrives_shown (mode.trans_le h.open_) value ((measured.touches.cr slew).trans hslew)
    ((kept lo).trans_le hlo) (hhi.trans_eq (kept hi).symm)
  have driven : SampleWork c q s ((s.sampleMeasured c q sd).sampleDrives c q) := measured.trans State.sampleDrives_work
  have sampled : servoSample c q sd s = ((s.sampleMeasured c q sd).sampleDrives c q).sampleEnds c q := by
    rw [servoSample, slotSample_idle h ha hf, State.regainStep_other h.ne_zero h.ne_one]
  have all : TouchesOnly c (sampleFields q) s (((s.sampleMeasured c q sd).sampleDrives c q).sampleEnds c q) :=
    driven.touches.trans State.sampleEnds_touches
  exact ⟨_, sampled, all.cr (modes q q), hval, hcode, State.sampleEnds_count.trans (congrArg (· + 1) driven.count), all.dram,
    fun p hp => ⟨all.cr (modes p q), all.cr (outs p q hp)⟩, all.others⟩

/-! The statement. -/

/-- A state that differs in its registers from one whose parity mark was taken, differs in both from the state before. -/
theorem State.regs_after_unmark {rg page off : Nat} {fly : Bool} (h : t = { s.unmark rg page off fly with regs := t.regs }) :
    t = { s with regs := t.regs, parity := t.parity } := by
  rw [h]
  rfl

theorem slotCmdWrite_eq (dest : Nat) :
    slotCmdWrite c q dest s = if s.alive c then s.modSlt c q fun x => { x with cmd := some dest } else s := by
  unfold slotCmdWrite
  cases s.alive c <;> rfl

/-- Settles O56: register writes and events of a slot by the transition each makes and what that leaves; the end of EN and a CLE fault by
the slots they turn OFF one after the other, and an idle sample by the stages it passes through. -/
theorem slotsFollowTheirCommandsAndEvents : Obligations.SlotsFollowTheirCommandsAndEvents := by
  unfold Obligations.SlotsFollowTheirCommandsAndEvents
  intro s c src q value m
  refine ⟨fun hr => ⟨fun e he => ?command, ?trim, ?tgt, fun off hlo hhi hfields hff => ?coefficient, fun hff hm => ?ffEntry⟩,
    fun dest hd => ⟨State.slotCommand_same, State.slotCommand_refused, fun hm hl hen hseq hsw hs => ?decided⟩, fun hm => ?notAcquiring,
    fun hm => ⟨?captured, ?failed⟩, fun hm => ⟨?noLoss, ?noArm, fun row => ?plausible⟩,
    fun hm => ⟨?armed, fun hs => ⟨?lost, fun row => ?implausible⟩⟩, fun hff => ?noBins, fun hff => ?binEnd,
    fun hr => ⟨?enabled, fun hs => ?disabled⟩, fun ha => ?faultDead, fun ha hf _ => ?fault,
    fun sd h hidle => servoSample_dead h hidle,
    fun sd hrun hrunSlot ha hf hslow hnot hm hcmd hswap hgroup hen hdefect hsweep hslew => ?sample⟩
  case command =>
    have written (dest : Nat) : s.gated src (chRg c) (sltPage q) 0x104 dest (slotCmdWrite c q dest) =
        if s.alive c then (s.unmark (chRg c) (sltPage q) 0x104 false).modSlt c q fun x => { x with cmd := some dest }
        else s.unmark (chRg c) (sltPage q) 0x104 false := (State.gated_open s hr).trans (slotCmdWrite_eq dest)
    simp only [List.mem_cons, List.not_mem_nil, or_false] at he
    rcases he with rfl | rfl | rfl | rfl | rfl
    · exact congrArg Host.Outcome.next (written 0)
    · exact congrArg Host.Outcome.next (written 1)
    · exact congrArg Host.Outcome.next (written 2)
    · exact congrArg Host.Outcome.next (written 3)
    · exact congrArg Host.Outcome.next (written 4)
  case trim =>
    obtain ⟨t, ht, hofs, hgain, hkept, hregs⟩ := State.trimWrite_shown (s := s.unmark (chRg c) (sltPage q) 0x114 false) (c := c) (q := q)
      (value := value.toNat)
    exact ⟨t, congrArg Host.Outcome.next ((State.gated_open s hr).trans ht), hofs, hgain, hkept, State.regs_after_unmark hregs⟩
  case tgt =>
    obtain ⟨t, ht, htgt, hsame, hhunt⟩ := tgtWrite_shown (s := s.unmark (chRg c) (sltPage q) 0x10C false) (c := c) (q := q)
      (value := value.toNat)
    exact ⟨t, congrArg Host.Outcome.next ((State.gated_open s hr).trans ht), htgt,
      fun h => ⟨(hsame h).1, State.regs_after_unmark (hsame h).2⟩, hhunt⟩
  case coefficient => exact congrArg Host.Outcome.next ((State.gated_open s hr).trans (coefWrite_regs hlo hhi hfields hff))
  case ffEntry =>
    obtain ⟨t, ht, hrest⟩ := coefWrite_ff (s := s.unmark (chRg c) (sltPage q) 0x140 false) (value := value.toNat) hff hm
    exact ⟨t, congrArg Host.Outcome.next ((State.gated_open s hr).trans ht), hrest⟩
  case decided => exact State.slotCommand_shown hd hm hl hen hseq hsw hs
  case notAcquiring => exact ⟨congrArg Host.Outcome.next (capture_other hm), congrArg Host.Outcome.next (acqFail_other hm)⟩
  case captured =>
    obtain ⟨hmode, hcause, hbit, hothers, -⟩ := State.enter_cirq (s := s) (c := c) (q := q) (dest := 3) (cause := 1) (by omega) (by omega)
      (bit := 2) (by omega)
    exact ⟨_, congrArg Host.Outcome.next (capture_acquiring hm), hmode, hcause, hbit, hothers⟩
  case failed =>
    obtain ⟨hmode, hcause, hbit, hothers, hmanual⟩ := State.enter_cirq (s := s) (c := c) (q := q) (dest := 1) (cause := 2) (by omega)
      (by omega) (bit := 3) (by omega)
    exact ⟨_, congrArg Host.Outcome.next (acqFail_acquiring hm), hmode, hcause, hmanual.trans (State.cr_putQ_self _ rfl), hbit, hothers⟩
  case noLoss => exact congrArg Host.Outcome.next (slotLoss_other hm)
  case noArm => exact congrArg Host.Outcome.next (guylineArm_other hm)
  case plausible => exact congrArg Host.Outcome.next (slotImplausible_other hm row)
  case armed =>
    obtain ⟨t, ht, hrest⟩ := guylineArm_shown hm
    exact ⟨t, congrArg Host.Outcome.next ht, hrest⟩
  case lost =>
    obtain ⟨t, ht, hrest⟩ := slotLoss_shown hm hs
    exact ⟨t, congrArg Host.Outcome.next ht, hrest⟩
  case implausible =>
    obtain ⟨t, ht, hrest⟩ := slotImplausible_shown hm hs row
    exact ⟨t, congrArg Host.Outcome.next ht, hrest⟩
  case noBins => exact congrArg Host.Outcome.next (ffBinEnd_none hff)
  case binEnd =>
    obtain ⟨t, ht, hrest⟩ := ffBinEnd_shown (s := s) (c := c) hff
    exact ⟨t, congrArg Host.Outcome.next ht, hrest⟩
  case enabled =>
    obtain ⟨t, ht, hctl, hrun, hkept, hregs⟩ := cleEnable_on (s := s.unmark (chRg c) 0x08 0x100 false) (c := c)
    exact ⟨t, congrArg Host.Outcome.next ((State.gated_open s hr).trans ht), hctl, hrun, hkept, State.regs_after_unmark hregs⟩
  case disabled =>
    obtain ⟨t, ht, hrest⟩ := cleEnable_off (s := s.unmark (chRg c) 0x08 0x100 false) (c := c) hs
    exact ⟨t, congrArg Host.Outcome.next ((State.gated_open s hr).trans ht), hrest⟩
  case faultDead => exact congrArg Host.Outcome.next (cleFault_dead ha)
  case fault =>
    obtain ⟨t, ht, hrest⟩ := cleFault_shown ha hf
    exact ⟨t, congrArg Host.Outcome.next ht, hrest⟩
  case sample =>
    intro out hlo hhi
    have idle : IdleSample s c q := ⟨hslow, hnot, hm, hen, hcmd, hswap, hgroup, hdefect, hsweep⟩
    obtain ⟨t, ht, hrest⟩ := servoSample_idle (sd := sd) idle ha hf hslew hlo hhi
    exact ⟨t, congrArg Host.Outcome.next
      ((State.whileRunning_on s hrun).trans ((State.whileRunning_on s hrunSlot).trans ht)), hrest⟩

end Sys2Proof.Machine
end

section
/-! PROOF. The 480th period in a row without a current sample ends in FAULT, and FAULT takes back the duties of that very period (R194,
Table 6-2). -/

namespace Sys2Proof.Machine
open Sys2Proof

/-- Channel 0 in RUN, 479 periods without a current sample behind it, its vector within the limit of R192. -/
def starved : State :=
  State.cw { State.reset.modCh 0 fun x => { x with powered := true, spin := { Spin.off with vq := 2380000000, noSample := 479 } } with
    plat := { Plat.off with porst := false } } 0 F.SPN_STS_STATE 6

/-- A period at 13.5 V and angle 0, with every other signal at 0. -/
def quietPeriod : PwmObs := ⟨1350, (0, 0), 0, 0, 0, 0, (0, 0, 0), false⟩

/-- The state meets every condition under which a period runs the current loop of RUN. -/
theorem starved_runs : starved.running (chRg 0) 0x10 = true ∧ starved.alive 0 = true ∧ (starved.ch 0).st ≠ .bivouac ∧
    (starved.ch 0).servo.respin = false ∧ starved.cr 0 F.SPN_STS_CHOP_ON = 0 ∧ 10 * starved.cr 0 F.SPN_VBUS_UV ≤ quietPeriod.vbus ∧
    10 * starved.cr 0 F.SPN_VBUS_THR_CHOP_OFF < quietPeriod.vbus ∧ quietPeriod.vbus < 10 * starved.cr 0 F.SPN_VBUS_THR_CHOP_ON ∧
    starved.spinSt 0 = 6 := by decide +kernel

/-- The on-times of the vector: the longest leaves no room in its half for a vector long enough to be sampled (R193). -/
theorem starved_duties : starved.duties 0 0 0 2380000000 = [3932429172, 362538123, 362538123] := by decide +kernel

/-- The period is the 480th without a sample: FAULT with cause 6, every gate low. -/
theorem starved_faults : (pwmPeriod 0 quietPeriod starved).spinSt 0 = 8 ∧ (pwmPeriod 0 quietPeriod starved).cr 0 F.SPN_STS_CAUSE = 6 ∧
    ((pwmPeriod 0 quietPeriod starved).ch 0).spin.duty = [0, 0, 0] := by decide +kernel

/-- Refutes O58: its clause on a period in RUN asks for the duties of the vector even where the period enters FAULT for want of samples,
which leaves the duties at 0. -/
theorem not_theSpindleMovesThroughItsStates : ¬ Obligations.TheSpindleMovesThroughItsStates := by
  unfold Obligations.TheSpindleMovesThroughItsStates
  intro h
  obtain ⟨-, -, -, -, -, -, -, -, -, -, -, -, -, -, -, -, -, -, -, -, -, -, -, -, -, period⟩ := h starved 0 .host
  obtain ⟨hrun, halive, hst, hrespin, hchop, huv, hoff, hon, hspin⟩ := starved_runs
  obtain ⟨t, hexec, -, -, -, -, -, shown⟩ := period quietPeriod hrun halive hst hrespin hchop huv hoff hon
  obtain ⟨hduty, -⟩ := shown hspin
  have again : starved.spinAgain 0 = starved := if_neg (by simp [hrespin])
  have same : t = pwmPeriod 0 quietPeriod starved := by
    refine (Host.Outcome.next.inj (hexec.symm.trans (congrArg Host.Outcome.next (State.whileRunning_on _ hrun)))).trans ?_
    rw [again]
  rw [same, starved_faults.2.2] at hduty
  exact absurd (hduty.trans starved_duties) (by decide)

end Sys2Proof.Machine
end

section
/-! PROOF. What the sled's operations write and what they leave: the state they show, the sled record, and the current loops' integrators
(R212 to R217, R221, R223). -/

namespace Sys2Proof.Machine
open Sys2Proof

variable {r s t : State} {c : Fin 16}

/-! Changes of the sled record, and the registers that show it. -/

theorem State.modSled_ch (f : Sled → Sled) : (s.modSled c f).ch c = { s.ch c with sled := f (s.ch c).sled } := s.ch_modCh_self c _

@[simp] theorem State.modSled_sled (f : Sled → Sled) : ((s.modSled c f).ch c).sled = f (s.ch c).sled := by rw [State.modSled_ch]

@[simp] theorem State.modSled_cr (f : Sled → Sled) (g : Fld) : (s.modSled c f).cr c g = s.cr c g := rfl

@[simp] theorem State.modSled_sledSt (f : Sled → Sled) : (s.modSled c f).sledSt c = s.sledSt c := rfl

theorem TouchesOnly.modSled {fs : List Fld} (h : TouchesOnly c fs r s) (f : Sled → Sled) : TouchesOnly c fs r (s.modSled c f) := h.modCh _

theorem State.cw_sledSt {v : Nat} (h : v < 8) : (s.cw c F.SLD_STS_STATE v).sledSt c = v :=
  (State.cr_cw_self _ c F.SLD_STS_STATE v).trans (Nat.mod_eq_of_lt h)

@[simp] theorem State.cirq_sledSt (bit : Nat) : (s.cirq c 0x11 bit).sledSt c = s.sledSt c := State.cirq_cr_apart _ (by decide)

@[simp] theorem State.cirq_mode2 (bit : Nat) : (s.cirq c 0x11 bit).mode c 2 = s.mode c 2 := State.cirq_cr_apart _ (by decide)

/-- The registers that show the sled's position, velocity and scale, and whether a move waits. -/
def sledShown : List Fld := [F.SLD_POS, F.SLD_VEL, F.SLD_SCALE_CUR, F.SLD_STS_SUCC]

@[simp] theorem State.showSled_ch (e : Fin 16) : (s.showSled c).ch e = s.ch e := State.wrs_ch ..

theorem State.showSled_touches : TouchesOnly c sledShown s (s.showSled c) :=
  (TouchesOnly.refl c _ s).wrs (gs := sledShown) rfl (by decide)

@[simp] theorem State.showSled_sledSt : (s.showSled c).sledSt c = s.sledSt c := State.showSled_touches.cr (by decide)

theorem State.showSled_pos : (s.showSled c).cr c F.SLD_POS = ofSigned 32 (Int.fdiv (s.ch c).sled.pos unitPos) % 2 ^ 32 :=
  State.cr_wrs_of_mem (fs := sledShown) rfl (by decide) (by simp)

theorem State.showSled_succ : (s.showSled c).cr c F.SLD_STS_SUCC = b2n (s.ch c).sled.succ.isSome % 2 :=
  State.cr_wrs_of_mem (fs := sledShown) rfl (by decide) (by simp)

/-! The sled at rest, in a move, in a deceleration and with its outputs low. -/

@[simp] theorem State.sledBrake_sledSt (why : StopKind) : (s.sledBrake c why).sledSt c = 3 := State.cw_sledSt (by decide)

@[simp] theorem State.sledBrake_sled (why : StopKind) : ((s.sledBrake c why).ch c).sled = { (s.ch c).sled with stop := why } := by
  rw [State.sledBrake, State.cw_ch, State.modSled_sled]

theorem State.sledBrake_touches (why : StopKind) : TouchesOnly c [F.SLD_STS_STATE] s (s.sledBrake c why) :=
  ((TouchesOnly.refl c _ s).modSled _).cw _ (by decide)

/-- Where a sled with nothing to do stands: FOLLOW while SLF is CLOSED, else IDLE (R220). -/
def State.restState (s : State) (c : Fin 16) : Nat := if s.mode c 2 = 3 then 5 else 1

theorem State.sledIdle_sledSt : (s.sledIdle c).sledSt c = s.restState c := by
  rw [State.sledIdle, State.showSled_sledSt, State.cw_sledSt (by split <;> decide), State.restState]

@[simp] theorem State.sledIdle_ch (e : Fin 16) : (s.sledIdle c).ch e = s.ch e := by rw [State.sledIdle, State.showSled_ch, State.cw_ch]

/-- A sled record with a move begun from where it stands (R212). -/
def Sled.begun (x : Sled) (first last : Nat) : Sled :=
  { x with first := first, last := last, t := 0, p0 := x.pos, v0 := Int.fdiv (x.vel * 16384) (max 1 x.scale), succ := none, still := 0 }

@[simp] theorem State.beginMove_sled (first last : Nat) :
    ((s.beginMove c first last).ch c).sled = (s.ch c).sled.begun first last := by
  rw [State.beginMove, State.showSled_ch, State.wrs_ch, State.modSled_sled, Sled.begun]

theorem State.beginMove_shown (first last : Nat) :
    (s.beginMove c first last).sledSt c = 2 ∧ (s.beginMove c first last).cr c F.SLD_STS_SEG = first % 64 := by
  obtain ⟨hstate, hseg⟩ := State.cr_wrs_pair (s := s.modSled c fun x => x.begun first last) (c := c) (f := F.SLD_STS_STATE)
    (g := F.SLD_STS_SEG) 2 first (by decide)
  exact ⟨State.showSled_sledSt.trans hstate, (State.showSled_touches.cr (by decide)).trans hseg⟩

/-- The registers a sled's next motion writes. -/
def sledNextFields : List Fld := [F.SLD_STS_STATE, F.SLD_STS_SEG] ++ sledShown

theorem State.beginMove_touches (first last : Nat) : TouchesOnly c sledNextFields s (s.beginMove c first last) :=
  (((TouchesOnly.refl c _ s).modSled _).wrs (gs := [F.SLD_STS_STATE, F.SLD_STS_SEG]) rfl (by decide)).trans
    (State.showSled_touches.mono (List.subset_append_right _ _))

theorem State.sledIdle_touches : TouchesOnly c sledNextFields s (s.sledIdle c) :=
  ((TouchesOnly.refl c _ s).cw _ (by decide)).trans (State.showSled_touches.mono (List.subset_append_right _ _))

theorem State.sledNext_some {a b : Nat} (h : (s.ch c).sled.succ = some (a, b)) : s.sledNext c = s.beginMove c a b := by
  simp only [State.sledNext, h]

theorem State.sledNext_none (h : (s.ch c).sled.succ = none) : s.sledNext c = s.sledIdle c := by simp only [State.sledNext, h]

theorem State.sledNext_touches : TouchesOnly c sledNextFields s (s.sledNext c) := by
  unfold State.sledNext
  split
  · exact State.beginMove_touches _ _
  · exact State.sledIdle_touches

/-- The next motion starts with the position, the velocity and the loops of the last. -/
theorem State.sledNext_sled : ((s.sledNext c).ch c).sled.pos = (s.ch c).sled.pos ∧ ((s.sledNext c).ch c).sled.vel = (s.ch c).sled.vel ∧
    ((s.sledNext c).ch c).sled.integA = (s.ch c).sled.integA ∧ ((s.sledNext c).ch c).sled.integB = (s.ch c).sled.integB := by
  cases h : (s.ch c).sled.succ with
  | none => simp [State.sledNext_none h]
  | some e => simp [State.sledNext_some (a := e.1) (b := e.2) h, Sled.begun]

theorem State.sledNext_idles (h : (s.ch c).sled.succ = none) : (s.sledNext c).sledSt c = s.restState c := by
  rw [State.sledNext_none h, State.sledIdle_sledSt]

theorem State.sledNext_moves (h : (s.ch c).sled.succ.isSome = true) : (s.sledNext c).sledSt c = 2 := by
  obtain ⟨e, he⟩ := Option.isSome_iff_exists.mp h
  rw [State.sledNext_some (a := e.1) (b := e.2) he]
  exact (State.beginMove_shown _ _).1

/-- A sled record with nothing driven, nothing moving and nothing waiting. -/
def Sled.low (x : Sled) : Sled :=
  { x with vel := 0, succ := none, refA := 0, refB := 0, driveA := 0, driveB := 0, integA := 0, integB := 0, steps := 0, slots := [] }

@[simp] theorem State.sledOff_sled (v : Nat) : ((s.sledOff c v).ch c).sled = (s.ch c).sled.low := by
  rw [State.sledOff, State.showSled_ch, State.wrs_ch, State.modSled_sled, Sled.low]

theorem State.sledOff_shown {v : Nat} (h : v < 8) : (s.sledOff c v).sledSt c = v ∧ (s.sledOff c v).cr c F.SLD_STS_HOMED = 0 := by
  obtain ⟨hstate, hhomed⟩ := State.cr_wrs_pair (s := s.modSled c Sled.low) (c := c) (f := F.SLD_STS_STATE) (g := F.SLD_STS_HOMED) v 0
    (by decide)
  exact ⟨State.showSled_sledSt.trans (hstate.trans (Nat.mod_eq_of_lt h)), (State.showSled_touches.cr (by decide)).trans hhomed⟩

/-- A fault of the sled: outputs low, FAULT, HOMED cleared and its event (R210). -/
theorem State.sledFault_shown : ((s.sledOff c 6).cirq c 0x11 8).sledSt c = 6 ∧
    ((s.sledOff c 6).cirq c 0x11 8).cr c F.SLD_STS_HOMED = 0 ∧ bitAt (((s.sledOff c 6).cirq c 0x11 8).cr c (F.HDR_IRQ_RAW 0x11)) 8 = true := by
  obtain ⟨hstate, hhomed⟩ := State.sledOff_shown (s := s) (c := c) (v := 6) (by decide)
  exact ⟨(State.cirq_sledSt 8).trans hstate, (State.cirq_cr_apart _ (by decide)).trans hhomed, State.cirq_bit (by decide) (by decide)⟩

/-! The current the sled drives (R211). -/

theorem State.sledCurrent_off (h : s.sledSt c = 0 ∨ s.sledSt c = 6) : s.sledCurrent c = 0 := if_pos h

theorem State.sledCurrent_held (h : s.sledSt c = 1) (hd : 48 * s.cr c F.SLD_HOLD_DELAY ≤ (s.ch c).sled.still) :
    s.sledCurrent c = s.cr c F.SLD_CUR_I_HOLD := by
  simp [State.sledCurrent, h, hd]

end Sys2Proof.Machine
end

section
/-! PROOF. The sled's commands: where each is refused, and what it starts (R213, R215, R216, R221, R223). -/

namespace Sys2Proof.Machine
open Sys2Proof

variable {s : State} {c : Fin 16} {first last : Nat}

/-- A channel without power takes no sled command. -/
theorem sledCommands_dead (h : s.alive c = false) : sledMove c first last s = s ∧ sledStop c s = s ∧ sledHome c s = s ∧
    sledEnergise c s = s ∧ sledRelease c s = s ∧ sledClearFault c s = s := by
  simp [sledMove, sledStop, sledHome, sledEnergise, sledRelease, sledClearFault, h]

section Alive
variable (ha : s.alive c = true)
include ha

/-! MOVE. -/

theorem sledMove_barred (h : s.moveBar c first last ≠ 0) : sledMove c first last s = s.sledRefuse c 1 := by simp [sledMove, ha, h]

theorem sledMove_begins (h : s.moveBar c first last = 0) (h2 : s.sledSt c ≠ 2) (h3 : s.sledSt c ≠ 3) :
    sledMove c first last s = s.beginMove c first last := by
  simp [sledMove, ha, h, h2, h3]

/-- A move that begins shows its first segment, from where the sled stands (R212). -/
theorem sledMove_begins_shown (hf : first < 64) (h : s.moveBar c first last = 0) (h2 : s.sledSt c ≠ 2) (h3 : s.sledSt c ≠ 3) :
    (sledMove c first last s).sledSt c = 2 ∧ (sledMove c first last s).cr c F.SLD_STS_SEG = first ∧
    ((sledMove c first last s).ch c).sled.first = first ∧ ((sledMove c first last s).ch c).sled.last = last ∧
    ((sledMove c first last s).ch c).sled.p0 = (s.ch c).sled.pos ∧ ((sledMove c first last s).ch c).sled.t = 0 := by
  obtain ⟨hstate, hseg⟩ := State.beginMove_shown (s := s) (c := c) first last
  rw [sledMove_begins ha h h2 h3, State.beginMove_sled]
  exact ⟨hstate, hseg.trans (Nat.mod_eq_of_lt hf), rfl, rfl, rfl, rfl⟩

theorem sledMove_queues (h : s.moveBar c first last = 0) (hst : s.sledSt c = 2 ∨ s.sledSt c = 3) : sledMove c first last s =
    ((if (s.ch c).sled.succ.isSome then s.cirq c 0x11 6 else s).modSled c fun x => { x with succ := some (first, last) }).showSled c := by
  simp [sledMove, ha, h, hst]

/-- A move that waits changes the successor alone, and reports one it replaces (R215). -/
theorem sledMove_queues_shown (h : s.moveBar c first last = 0) (hst : s.sledSt c = 2 ∨ s.sledSt c = 3) :
    (sledMove c first last s).sledSt c = s.sledSt c ∧ ((sledMove c first last s).ch c).sled = { (s.ch c).sled with succ := some (first, last) } ∧
    (sledMove c first last s).cr c F.SLD_STS_SUCC = 1 ∧
    ((s.ch c).sled.succ.isSome = true → bitAt ((sledMove c first last s).cr c (F.HDR_IRQ_RAW 0x11)) 6 = true) ∧
    TouchesOnly c (F.HDR_IRQ_RAW 0x11 :: sledShown) s (sledMove c first last s) := by
  rw [sledMove_queues ha h hst]
  generalize hu : (if (s.ch c).sled.succ.isSome then s.cirq c 0x11 6 else s) = u
  have replaced : TouchesOnly c (F.HDR_IRQ_RAW 0x11 :: sledShown) s u :=
    hu ▸ ((TouchesOnly.refl c _ s).cirq 6 (by decide)).ite (.refl c _ s)
  have chan : u.ch c = s.ch c := by rw [← hu]; split <;> simp
  refine ⟨?_, by simp [chan], ?_, fun hsome => ?_, (replaced.modSled _).trans (State.showSled_touches.mono (List.subset_cons_self _ _))⟩
  · rw [State.showSled_sledSt, State.modSled_sledSt]
    exact replaced.cr (by decide)
  · simp [State.showSled_succ, b2n]
  · rw [State.showSled_touches.cr (by decide), State.modSled_cr, ← hu, if_pos hsome]
    exact State.cirq_bit (by decide) (by decide)

theorem sledMove_frame (h : s.moveBar c first last = 0) : (sledMove c first last s).dram = s.dram ∧
    ∀ d, d ≠ c → (sledMove c first last s).ch d = s.ch d := by
  by_cases hst : s.sledSt c = 2 ∨ s.sledSt c = 3
  · obtain ⟨-, -, -, -, touches⟩ := sledMove_queues_shown ha h hst
    exact ⟨touches.dram, touches.others⟩
  · obtain ⟨h2, h3⟩ := not_or.mp hst
    rw [sledMove_begins ha h h2 h3]
    exact ⟨(State.beginMove_touches _ _).dram, (State.beginMove_touches _ _).others⟩

/-! STOP. -/

theorem sledStop_refused (h : s.sledSt c = 0 ∨ s.sledSt c = 6) : sledStop c s = s.sledRefuse c 2 := by
  rcases h with h | h <;> simp [sledStop, ha, h]

theorem sledStop_idle (h : s.sledSt c = 1) : sledStop c s = s.cirq c 0x11 1 := by simp [sledStop, ha, h]

theorem sledStop_brakes (hlo : 2 ≤ s.sledSt c) (hhi : s.sledSt c ≤ 5) :
    sledStop c s = ((s.modSled c fun x => { x with succ := none }).sledBrake c .stop).showSled c := by
  have running : s.sledSt c = 2 ∨ s.sledSt c = 3 ∨ s.sledSt c = 4 ∨ s.sledSt c = 5 := by omega
  rcases running with h | h | h | h <;> simp [sledStop, ha, h]

theorem sledStop_shown (hlo : 2 ≤ s.sledSt c) (hhi : s.sledSt c ≤ 5) : (sledStop c s).sledSt c = 3 ∧
    ((sledStop c s).ch c).sled = { (s.ch c).sled with succ := none, stop := .stop } ∧ (sledStop c s).cr c F.SLD_STS_SUCC = 0 := by
  rw [sledStop_brakes ha hlo hhi]
  simp [State.showSled_succ, b2n]

/-! HOME. -/

theorem sledHome_refused (h1 : s.sledSt c ≠ 1) (h5 : s.sledSt c ≠ 5 ∨ s.mode c 2 = 3) : sledHome c s = s.sledRefuse c 2 := by
  have moving : ¬ (s.sledSt c = 1 ∨ s.sledSt c = 5 ∧ s.mode c 2 ≠ 3) := by
    rw [not_or, not_and_or, not_not]
    exact ⟨h1, h5⟩
  simp only [sledHome, ha, Bool.not_true, Bool.false_eq_true, if_false, if_neg moving]

theorem sledHome_shown (h : s.sledSt c = 1 ∨ (s.sledSt c = 5 ∧ s.mode c 2 ≠ 3)) : (sledHome c s).sledSt c = 4 ∧
    (sledHome c s).cr c F.SLD_STS_HOMED = 0 ∧
    ((sledHome c s).ch c).sled.home = (if s.cr c F.SLD_STS_HOME_SW = 1 then .leave else .seek) := by
  simp only [sledHome, ha, Bool.not_true, Bool.false_eq_true, if_false, if_pos h]
  exact ⟨(State.cr_wrs_pair 4 0 (by decide)).1, (State.cr_wrs_pair 4 0 (by decide)).2, by simp⟩

/-! ENERGISE, RELEASE and CLEAR_FAULT. -/

theorem sledEnergise_refused (h : s.sledSt c ≠ 0) : sledEnergise c s = s.sledRefuse c 2 := by simp [sledEnergise, ha, h]

theorem sledEnergise_shown (h : s.sledSt c = 0) : (sledEnergise c s).sledSt c = 1 ∧
    (sledEnergise c s).sledCurrent c = s.cr c F.SLD_CUR_I_HOLD := by
  have heq : sledEnergise c s =
      (s.modSled c fun x => { x with vel := 0, still := 48 * s.cr c F.SLD_HOLD_DELAY }).cw c F.SLD_STS_STATE 1 := by
    simp [sledEnergise, ha, h]
  have hstate : (sledEnergise c s).sledSt c = 1 := by rw [heq]; exact State.cw_sledSt (by decide)
  refine ⟨hstate, (State.sledCurrent_held hstate ?_).trans ?_⟩
  · rw [heq, State.cw_ch, State.modSled_sled, State.cr_cw_apart _ _ (by decide)]
    exact le_refl _
  · rw [heq, State.cr_cw_apart _ _ (by decide)]
    rfl

theorem sledRelease_refused (h : s.sledSt c = 0 ∨ s.sledSt c = 6) : sledRelease c s = s.sledRefuse c 2 := by simp [sledRelease, ha, h]

theorem sledRelease_shown (hlo : 1 ≤ s.sledSt c) (hhi : s.sledSt c ≤ 5) : (sledRelease c s).sledSt c = 0 ∧
    (sledRelease c s).cr c F.SLD_STS_HOMED = 0 ∧ ((sledRelease c s).ch c).sled = (s.ch c).sled.low := by
  have energised : ¬ (s.sledSt c = 0 ∨ s.sledSt c = 6) := by omega
  have released : sledRelease c s = s.sledOff c 0 := by simp [sledRelease, ha, energised]
  obtain ⟨hstate, hhomed⟩ := State.sledOff_shown (s := s) (c := c) (v := 0) (by decide)
  rw [released]
  exact ⟨hstate, hhomed, State.sledOff_sled 0⟩

theorem sledClearFault_refused (h : s.sledSt c ≠ 6 ∨ s.cr c F.SLD_OC_THR ≤ (toSigned 16 (s.cr c F.SLD_I_MEAS_IA)).natAbs ∨
    s.cr c F.SLD_OC_THR ≤ (toSigned 16 (s.cr c F.SLD_I_MEAS_IB)).natAbs) : sledClearFault c s = s.sledRefuse c 2 := by
  simp only [sledClearFault, ha, Bool.not_true, Bool.false_eq_true, if_false]
  exact if_pos h

theorem sledClearFault_off (h : s.sledSt c = 6) (hA : (toSigned 16 (s.cr c F.SLD_I_MEAS_IA)).natAbs < s.cr c F.SLD_OC_THR)
    (hB : (toSigned 16 (s.cr c F.SLD_I_MEAS_IB)).natAbs < s.cr c F.SLD_OC_THR) : sledClearFault c s = s.sledOff c 0 := by
  simp only [sledClearFault, ha, Bool.not_true, Bool.false_eq_true, if_false]
  exact if_neg (by omega)

end Alive

end Sys2Proof.Machine
end

section
/-! PROOF. The sled's events: a move that has ended, a deceleration at rest, the edges of homing and its failure (R212, R215 to R217, R220,
R221). -/

namespace Sys2Proof.Machine
open Sys2Proof

variable {s : State} {c : Fin 16}

/-! A move at the end of its last segment. -/

/-- The velocity with which a segment ends, in the scale of `SEG_A.END_VEL`. -/
def State.endVel (s : State) (c : Fin 16) (k : Nat) : Int := toSigned 16 (s.cr c (F.SLD_SEG_A_END_VEL k))

/-- The sled at the end of its last segment, with the event that says so. -/
def State.atSegmentEnd (s : State) (c : Fin 16) : State :=
  ((s.modSled c fun x => { x with
    pos := toSigned 32 (s.cr c (F.SLD_SEG_B x.last)) * unitPos
    vel := Int.fdiv (s.endVel c (s.ch c).sled.last * 140625 * x.scale) 16384 }).cirq c 0x11 0).showSled c

@[simp] theorem State.atSegmentEnd_sled : ((s.atSegmentEnd c).ch c).sled = { (s.ch c).sled with
    pos := toSigned 32 (s.cr c (F.SLD_SEG_B (s.ch c).sled.last)) * unitPos
    vel := Int.fdiv (s.endVel c (s.ch c).sled.last * 140625 * (s.ch c).sled.scale) 16384 } := by
  rw [State.atSegmentEnd, State.showSled_ch, State.cirq_ch, State.modSled_sled]

theorem State.atSegmentEnd_touches : TouchesOnly c (F.HDR_IRQ_RAW 0x11 :: sledShown) s (s.atSegmentEnd c) :=
  (((TouchesOnly.refl c _ s).modSled _).cirq 0 (by decide)).trans (State.showSled_touches.mono (List.subset_cons_self _ _))

theorem State.atSegmentEnd_bit : bitAt ((s.atSegmentEnd c).cr c (F.HDR_IRQ_RAW 0x11)) 0 = true := by
  rw [State.atSegmentEnd, State.showSled_touches.cr (by decide)]
  exact State.cirq_bit (by decide) (by decide)

theorem State.atSegmentEnd_rest : (s.atSegmentEnd c).restState c = s.restState c := by
  have mode : (s.atSegmentEnd c).mode c 2 = s.mode c 2 := State.atSegmentEnd_touches.cr (by decide)
  rw [State.restState, mode, State.restState]

theorem moveDone_other (h : s.sledSt c ≠ 2) : moveDone c s = s := if_pos h

/-- A move that has ended brakes what velocity it has without a successor, and else goes on with the next motion (R217). -/
theorem moveDone_running (h : s.sledSt c = 2) : moveDone c s =
    if (s.ch c).sled.succ.isNone = true ∧ s.endVel c (s.ch c).sled.last * 140625 ≠ 0 then
      ((s.atSegmentEnd c).cirq c 0x11 5).sledBrake c .idle
    else (s.atSegmentEnd c).sledNext c := if_neg (by simp [h])

theorem moveDone_brakes (h : s.sledSt c = 2) (hs : (s.ch c).sled.succ = none) (hv : s.endVel c (s.ch c).sled.last ≠ 0) :
    moveDone c s = ((s.atSegmentEnd c).cirq c 0x11 5).sledBrake c .idle := by
  rw [moveDone_running h, if_pos]
  simp [hs, hv]

theorem moveDone_next (h : s.sledSt c = 2) (hn : (s.ch c).sled.succ.isSome = true ∨ s.endVel c (s.ch c).sled.last = 0) :
    moveDone c s = (s.atSegmentEnd c).sledNext c := by
  rw [moveDone_running h, if_neg]
  rcases hn with hsome | hzero
  · simp [Option.isSome_iff_ne_none.mp hsome]
  · simp [hzero]

/-- However a move goes on at its end, it has reached the end's position and said so. -/
theorem moveDone_ends (h : s.sledSt c = 2) :
    ((moveDone c s).ch c).sled.pos = toSigned 32 (s.cr c (F.SLD_SEG_B (s.ch c).sled.last)) * unitPos ∧
    bitAt ((moveDone c s).cr c (F.HDR_IRQ_RAW 0x11)) 0 = true := by
  by_cases hn : (s.ch c).sled.succ.isSome = true ∨ s.endVel c (s.ch c).sled.last = 0
  · rw [moveDone_next h hn, State.sledNext_sled.1, State.sledNext_touches.cr (by decide)]
    exact ⟨by simp, State.atSegmentEnd_bit⟩
  · obtain ⟨hs, hv⟩ := not_or.mp hn
    rw [moveDone_brakes h (Option.not_isSome_iff_eq_none.mp hs) hv, (State.sledBrake_touches _).cr (by decide)]
    exact ⟨by simp, State.cirq_keeps_bit (by decide) (by decide) State.atSegmentEnd_bit⟩

theorem moveDone_succeeds {a b : Nat} (h : s.sledSt c = 2) (hs : (s.ch c).sled.succ = some (a, b)) : (moveDone c s).sledSt c = 2 ∧
    ((moveDone c s).ch c).sled.first = a ∧ ((moveDone c s).ch c).sled.last = b ∧ (moveDone c s).cr c F.SLD_STS_SEG = a % 64 := by
  rw [moveDone_next h (.inl (by rw [hs]; rfl)), State.sledNext_some (a := a) (b := b) (by simp [hs])]
  obtain ⟨hstate, hseg⟩ := State.beginMove_shown (s := s.atSegmentEnd c) (c := c) a b
  exact ⟨hstate, by simp [Sled.begun], by simp [Sled.begun], hseg⟩

theorem moveDone_idles (h : s.sledSt c = 2) (hs : (s.ch c).sled.succ = none) (hv : s.endVel c (s.ch c).sled.last = 0) :
    (moveDone c s).sledSt c = s.restState c := by
  rw [moveDone_next h (.inr hv), State.sledNext_idles (by simp [hs]), State.atSegmentEnd_rest]

theorem moveDone_brakes_shown (h : s.sledSt c = 2) (hs : (s.ch c).sled.succ = none) (hv : s.endVel c (s.ch c).sled.last ≠ 0) :
    (moveDone c s).sledSt c = 3 ∧ ((moveDone c s).ch c).sled.stop = .idle ∧
    bitAt ((moveDone c s).cr c (F.HDR_IRQ_RAW 0x11)) 5 = true := by
  rw [moveDone_brakes h hs hv, (State.sledBrake_touches _).cr (by decide)]
  exact ⟨by simp, by simp, State.cirq_bit (by decide) (by decide)⟩

/-! A deceleration that has come to rest. -/

/-- The sled standing still where its deceleration ends. -/
def State.atRest (s : State) (c : Fin 16) : State :=
  (s.modSled c fun x => { x with pos := s.restPos c, vel := 0, still := 0 }).showSled c

@[simp] theorem State.atRest_sled : ((s.atRest c).ch c).sled = { (s.ch c).sled with pos := s.restPos c, vel := 0, still := 0 } := by
  rw [State.atRest, State.showSled_ch, State.modSled_sled]

theorem State.atRest_touches : TouchesOnly c sledShown s (s.atRest c) :=
  ((TouchesOnly.refl c _ s).modSled _).trans State.showSled_touches

@[simp] theorem State.atRest_mode2 : (s.atRest c).mode c 2 = s.mode c 2 := State.atRest_touches.cr (by decide)

theorem stopEnd_other (h : s.sledSt c ≠ 3) : stopEnd c s = s := if_pos h

section Stopping
variable (h : s.sledSt c = 3)
include h

theorem stopEnd_stop (hs : (s.ch c).sled.stop = .stop) : stopEnd c s = ((s.atRest c).cirq c 0x11 1).sledNext c := by
  simp only [stopEnd, h, ne_eq, not_true_eq_false, if_false, hs]
  rfl

theorem stopEnd_silent (hs : (s.ch c).sled.stop = .idle ∨ (s.ch c).sled.stop = .homeFail) : stopEnd c s = (s.atRest c).sledNext c := by
  rcases hs with hs | hs
  · simp only [stopEnd, h, ne_eq, not_true_eq_false, if_false, hs]
    rfl
  · simp only [stopEnd, h, ne_eq, not_true_eq_false, if_false, hs]
    rfl

theorem stopEnd_turn (hs : (s.ch c).sled.stop = .home) (ht : (s.ch c).sled.home = .turn) :
    stopEnd c s = ((s.atRest c).modSled c fun x => { x with home := .back }).cw c F.SLD_STS_STATE 4 := by
  simp only [stopEnd, h, ne_eq, not_true_eq_false, if_false, hs, ht]
  rfl

theorem stopEnd_homed (hs : (s.ch c).sled.stop = .home) (ht : (s.ch c).sled.home ≠ .turn) :
    stopEnd c s = (((s.atRest c).cw c F.SLD_STS_HOMED 1).cirq c 0x11 2).sledIdle c := by
  cases hh : (s.ch c).sled.home with
  | turn => exact absurd hh ht
  | leave | seek | back | settle =>
    simp only [stopEnd, h, ne_eq, not_true_eq_false, if_false, hs, hh]
    rfl

/-- A stop that is no step of homing goes on with what waits, standing still; STOP itself reports. -/
theorem stopEnd_next (hs : (s.ch c).sled.stop ≠ .home) : ∃ u : State, stopEnd c s = u.sledNext c ∧ (u.ch c).sled = ((s.atRest c).ch c).sled ∧
    u.mode c 2 = s.mode c 2 ∧ TouchesOnly c (F.HDR_IRQ_RAW 0x11 :: sledShown) s u ∧
    ((s.ch c).sled.stop = .stop → bitAt (u.cr c (F.HDR_IRQ_RAW 0x11)) 1 = true) := by
  have rest : TouchesOnly c (F.HDR_IRQ_RAW 0x11 :: sledShown) s (s.atRest c) := State.atRest_touches.mono (List.subset_cons_self _ _)
  cases hk : (s.ch c).sled.stop with
  | stop =>
    exact ⟨_, stopEnd_stop h hk, by simp, by simp, rest.cirq 1 (by decide), fun _ => State.cirq_bit (by decide) (by decide)⟩
  | idle => exact ⟨_, stopEnd_silent h (.inl hk), rfl, by simp, rest, by simp⟩
  | homeFail => exact ⟨_, stopEnd_silent h (.inr hk), rfl, by simp, rest, by simp⟩
  | home => exact absurd hk hs

theorem stopEnd_vel : ((stopEnd c s).ch c).sled.vel = 0 := by
  by_cases hs : (s.ch c).sled.stop = .home
  · by_cases ht : (s.ch c).sled.home = .turn
    · simp [stopEnd_turn h hs ht]
    · simp [stopEnd_homed h hs ht]
  · obtain ⟨u, hu, hsled, -⟩ := stopEnd_next h hs
    rw [hu, State.sledNext_sled.2.1, hsled]
    simp

theorem stopEnd_stop_bit (hs : (s.ch c).sled.stop = .stop) : bitAt ((stopEnd c s).cr c (F.HDR_IRQ_RAW 0x11)) 1 = true := by
  obtain ⟨u, hu, -, -, -, hbit⟩ := stopEnd_next h (by simp [hs])
  rw [hu, State.sledNext_touches.cr (by decide)]
  exact hbit hs

theorem stopEnd_idles (hs : (s.ch c).sled.stop ≠ .home) (hn : (s.ch c).sled.succ = none) : (stopEnd c s).sledSt c = s.restState c := by
  obtain ⟨u, hu, hsled, hmode, -⟩ := stopEnd_next h hs
  rw [hu, State.sledNext_idles (by rw [hsled]; simp [hn]), State.restState, hmode, State.restState]

theorem stopEnd_succeeds (hs : (s.ch c).sled.stop ≠ .home) (hn : (s.ch c).sled.succ.isSome = true) : (stopEnd c s).sledSt c = 2 := by
  obtain ⟨u, hu, hsled, -⟩ := stopEnd_next h hs
  rw [hu, State.sledNext_moves (by rw [hsled]; simpa using hn)]

theorem stopEnd_turns (hs : (s.ch c).sled.stop = .home) (ht : (s.ch c).sled.home = .turn) :
    (stopEnd c s).sledSt c = 4 ∧ ((stopEnd c s).ch c).sled.home = .back := by
  rw [stopEnd_turn h hs ht]
  exact ⟨State.cw_sledSt (by decide), by simp⟩

theorem stopEnd_homes (hs : (s.ch c).sled.stop = .home) (ht : (s.ch c).sled.home ≠ .turn) : (stopEnd c s).sledSt c = s.restState c ∧
    (stopEnd c s).cr c F.SLD_STS_HOMED = 1 ∧ bitAt ((stopEnd c s).cr c (F.HDR_IRQ_RAW 0x11)) 2 = true := by
  have mode : (((s.atRest c).cw c F.SLD_STS_HOMED 1).cirq c 0x11 2).mode c 2 = s.mode c 2 :=
    (State.cirq_mode2 2).trans ((State.cr_cw_apart _ 1 (by decide)).trans State.atRest_mode2)
  rw [stopEnd_homed h hs ht, State.sledIdle_sledSt, State.sledIdle_touches.cr (by decide), State.sledIdle_touches.cr (by decide),
    State.cirq_cr_apart _ (by decide), State.restState, mode]
  exact ⟨rfl, State.cr_cw_self _ c F.SLD_STS_HOMED 1, State.cirq_bit (by decide) (by decide)⟩

end Stopping

/-! Homing. -/

/-- The home switch as an edge leaves it. -/
def State.switchAt (s : State) (c : Fin 16) (level : Bool) : State := s.cw c F.SLD_STS_HOME_SW (b2n level)

theorem State.switchAt_shown (level : Bool) : (s.switchAt c level).cr c F.SLD_STS_HOME_SW = b2n level := by
  rw [State.switchAt, State.cr_cw_self]
  cases level <;> rfl

theorem State.switchAt_only (level : Bool) : OnlyFields s (s.switchAt c level) (FieldsOf (chRg c) [F.SLD_STS_HOME_SW]) :=
  ⟨rfl, ((TouchesOnly.refl c _ s).cw (b2n level) (by decide)).fields⟩

theorem homeEdge_other {level : Bool} (h : s.sledSt c ≠ 4) : homeEdge c level s = s.switchAt c level := if_pos h

section Homing
variable (h : s.sledSt c = 4)
include h

theorem homeEdge_leave (hh : (s.ch c).sled.home = .leave) :
    homeEdge c false s = (s.switchAt c false).modSled c fun x => { x with home := .seek } := by
  simp only [homeEdge, h, ne_eq, not_true_eq_false, if_false, hh]
  rfl

theorem homeEdge_seek (hh : (s.ch c).sled.home = .seek) :
    homeEdge c true s = ((s.switchAt c true).modSled c fun x => { x with home := .turn }).sledBrake c .home := by
  simp only [homeEdge, h, ne_eq, not_true_eq_false, if_false, hh]
  rfl

theorem homeEdge_back (hh : (s.ch c).sled.home = .back) : homeEdge c false s =
    (((s.switchAt c false).modSled c fun x => { x with pos := 0, home := .settle }).sledBrake c .home).showSled c := by
  simp only [homeEdge, h, ne_eq, not_true_eq_false, if_false, hh]
  rfl

end Homing

/-- Whatever an edge starts, it leaves the switch shown. -/
theorem homeEdge_touches (level : Bool) : TouchesOnly c (F.SLD_STS_STATE :: sledShown) (s.switchAt c level) (homeEdge c level s) := by
  simp only [homeEdge, State.switchAt]
  split
  · exact .refl c _ _
  · split
    · exact (TouchesOnly.refl c _ _).modSled _
    · exact ((TouchesOnly.refl c _ _).modSled _).trans ((State.sledBrake_touches _).mono (by decide))
    · exact (((TouchesOnly.refl c _ _).modSled _).trans ((State.sledBrake_touches _).mono (by decide))).trans
        (State.showSled_touches.mono (List.subset_cons_self _ _))
    · exact .refl c _ _

theorem homeEdge_switch (level : Bool) : (homeEdge c level s).cr c F.SLD_STS_HOME_SW = b2n level :=
  ((homeEdge_touches level).cr (by decide)).trans (State.switchAt_shown level)

theorem homeEdge_turns (h : s.sledSt c = 4) (hh : (s.ch c).sled.home = .seek) : (homeEdge c true s).sledSt c = 3 ∧
    ((homeEdge c true s).ch c).sled = { (s.ch c).sled with home := .turn, stop := .home } := by
  rw [homeEdge_seek h hh]
  exact ⟨by simp, by simp [State.switchAt]⟩

theorem homeEdge_zeroes (h : s.sledSt c = 4) (hh : (s.ch c).sled.home = .back) : (homeEdge c false s).sledSt c = 3 ∧
    ((homeEdge c false s).ch c).sled = { (s.ch c).sled with pos := 0, home := .settle, stop := .home } ∧
    (homeEdge c false s).cr c F.SLD_POS = 0 := by
  rw [homeEdge_back h hh, State.showSled_pos]
  exact ⟨by simp, by simp [State.switchAt], by simp [ofSigned]⟩

theorem homeEdge_seeks (h : s.sledSt c = 4) (hh : (s.ch c).sled.home = .leave) : (homeEdge c false s).sledSt c = 4 ∧
    ((homeEdge c false s).ch c).sled = { (s.ch c).sled with home := .seek } := by
  rw [homeEdge_leave h hh]
  have moving : (s.switchAt c false).sledSt c = 4 := (State.cr_cw_apart _ _ (by decide)).trans h
  exact ⟨by rw [State.modSled_sledSt, moving], by simp [State.switchAt]⟩

theorem homeFail_other (h : ¬ (s.sledSt c = 4 ∨ (s.sledSt c = 3 ∧ (s.ch c).sled.stop = .home))) : homeFail c s = s := if_neg h

theorem homeFail_homing (h : s.sledSt c = 4 ∨ (s.sledSt c = 3 ∧ (s.ch c).sled.stop = .home)) :
    homeFail c s = (s.sledBrake c .homeFail).cirq c 0x11 3 := if_pos h

theorem homeFail_shown (h : s.sledSt c = 4 ∨ (s.sledSt c = 3 ∧ (s.ch c).sled.stop = .home)) : (homeFail c s).sledSt c = 3 ∧
    ((homeFail c s).ch c).sled = { (s.ch c).sled with stop := .homeFail } ∧
    (homeFail c s).cr c F.SLD_STS_HOMED = s.cr c F.SLD_STS_HOMED ∧ bitAt ((homeFail c s).cr c (F.HDR_IRQ_RAW 0x11)) 3 = true := by
  rw [homeFail_homing h]
  exact ⟨by simp, by simp, (State.cirq_cr_apart _ (by decide)).trans ((State.sledBrake_touches _).cr (by decide)),
    State.cirq_bit (by decide) (by decide)⟩

end Sys2Proof.Machine
end

section
/-! PROOF. The 48 kHz tick: what the motions of a tick write, the current loops behind them, and the tick as a whole (R210 to R220). -/

namespace Sys2Proof.Machine
open Sys2Proof

variable {r s t : State} {c : Fin 16} {ia ib : Int}

/-! What a tick's motion leaves: every register but those of the motion, and the integrators of the current loops. -/

/-- The registers a tick's motion may write. -/
def sledMotionFields : List Fld := [F.HDR_IRQ_RAW 0x11, F.SLD_STS_HOMED] ++ sledNextFields

/-- From `s` to `t` the sled moved at most: the registers of its motion, and its record but for the current loops' integrators. -/
structure SledWork (c : Fin 16) (s t : State) : Prop where
  touches : TouchesOnly c sledMotionFields s t
  integA  : (t.ch c).sled.integA = (s.ch c).sled.integA
  integB  : (t.ch c).sled.integB = (s.ch c).sled.integB

namespace SledWork

theorem refl (c : Fin 16) (s : State) : SledWork c s s := ⟨.refl c _ s, rfl, rfl⟩

theorem trans (h : SledWork c r s) (k : SledWork c s t) : SledWork c r t :=
  ⟨h.touches.trans k.touches, k.integA.trans h.integA, k.integB.trans h.integB⟩

/-- A change of the record that leaves the integrators, as its text shows. -/
theorem modSled (h : SledWork c r s) {f : Sled → Sled} (hA : ∀ x, (f x).integA = x.integA := by exact fun _ => rfl)
    (hB : ∀ x, (f x).integB = x.integB := by exact fun _ => rfl) : SledWork c r (s.modSled c f) :=
  ⟨h.touches.modSled f, by rw [State.modSled_sled, hA, h.integA], by rw [State.modSled_sled, hB, h.integB]⟩

/-- What writes registers of the motion alone. -/
theorem of_ch {fs : List Fld} (h : TouchesOnly c fs s t) (hsub : fs ⊆ sledMotionFields) (hc : t.ch c = s.ch c) : SledWork c s t :=
  ⟨h.mono hsub, by rw [hc], by rw [hc]⟩

theorem cw (h : SledWork c r s) {f : Fld} (v : Nat) (hf : f.among sledMotionFields = true) : SledWork c r (s.cw c f v) :=
  h.trans (of_ch ((TouchesOnly.refl c _ s).cw v hf) (List.Subset.refl _) (s.cw_ch c f v c))

theorem cirq (h : SledWork c r s) (bit : Nat) : SledWork c r (s.cirq c 0x11 bit) :=
  h.trans (of_ch ((TouchesOnly.refl c _ s).cirq bit (by decide)) (List.Subset.refl _) (by simp))

theorem showSled (h : SledWork c r s) : SledWork c r (s.showSled c) :=
  h.trans (of_ch State.showSled_touches (by decide) (s.showSled_ch c))

theorem sledBrake (h : SledWork c r s) (why : StopKind) : SledWork c r (s.sledBrake c why) :=
  h.modSled.cw 3 (by decide)

theorem sledIdle (h : SledWork c r s) : SledWork c r (s.sledIdle c) := (h.cw _ (by decide)).showSled

theorem sledNext (h : SledWork c r s) : SledWork c r (s.sledNext c) :=
  h.trans ⟨State.sledNext_touches.mono (by decide), State.sledNext_sled.2.2.1, State.sledNext_sled.2.2.2⟩

theorem ite {p : Prop} [Decidable p] (h : SledWork c r s) (k : SledWork c r t) : SledWork c r (if p then s else t) := by
  split
  · exact h
  · exact k

theorem moveDone (h : SledWork c r s) : SledWork c r (moveDone c s) := by
  by_cases hst : s.sledSt c = 2
  · have ended : SledWork c r (s.atSegmentEnd c) := (h.modSled.cirq 0).showSled
    rw [moveDone_running hst]
    exact ((ended.cirq 5).sledBrake .idle).ite ended.sledNext
  · rwa [moveDone_other hst]

theorem stopEnd (h : SledWork c r s) : SledWork c r (stopEnd c s) := by
  by_cases hst : s.sledSt c = 3
  · have rest : SledWork c r (s.atRest c) := h.modSled.showSled
    by_cases hs : (s.ch c).sled.stop = .home
    · by_cases ht : (s.ch c).sled.home = .turn
      · rw [stopEnd_turn hst hs ht]
        exact rest.modSled.cw 4 (by decide)
      · rw [stopEnd_homed hst hs ht]
        exact ((rest.cw 1 (by decide)).cirq 2).sledIdle
    · cases hk : (s.ch c).sled.stop with
      | stop =>
        rw [stopEnd_stop hst hk]
        exact (rest.cirq 1).sledNext
      | idle =>
        rw [stopEnd_silent hst (.inl hk)]
        exact rest.sledNext
      | homeFail =>
        rw [stopEnd_silent hst (.inr hk)]
        exact rest.sledNext
      | home => exact absurd hk hs
  · rwa [stopEnd_other hst]

theorem homeFail (h : SledWork c r s) : SledWork c r (homeFail c s) := ((h.sledBrake .homeFail).cirq 3).ite h

theorem velTick (h : SledWork c r s) (target a : Int) : SledWork c r (s.velTick c target a) := h.modSled

theorem softLimit (h : SledWork c r s) (p : Int) : SledWork c r (s.softLimit c p) :=
  ((h.modSled.cw 0 (by decide)).cirq 7).sledIdle

theorem moveTick (h : SledWork c r s) : SledWork c r (s.moveTick c) := by
  unfold State.moveTick
  extract_lets x seg p1 v1 at_ goal here sc s1
  have scaled : SledWork c r s1 := h.modSled
  split
  · exact scaled.moveDone
  · exact (scaled.softLimit _).ite ((scaled.softLimit _).ite (scaled.modSled.cw _ (by decide)))

theorem brakeTick (h : SledWork c r s) : SledWork c r (s.brakeTick c) := h.stopEnd.ite h.modSled

theorem followTick (h : SledWork c r s) : SledWork c r (s.followTick c) := by
  have stop (u : State) (k : SledWork c r u) (p : Int) :
      SledWork c r ((u.modSled c fun x => { x with pos := p, vel := 0 }).cirq c 0x11 7) := k.modSled.cirq 7
  exact (h.sledBrake _).ite ((stop _ (h.velTick _ _) _).ite ((stop _ (h.velTick _ _) _).ite (h.velTick _ _)))

theorem homeTick (h : SledWork c r s) : SledWork c r (s.homeTick c) := by
  unfold State.homeTick
  extract_lets x back s1
  have moved : SledWork c r s1 := by
    simp only [s1]
    split
    · exact h.velTick _ _
    · exact h.velTick _ _
    · exact h.velTick _ _
    · exact h
  exact moved.homeFail.ite moved.modSled

end SledWork

/-! The motion of a tick. -/

/-- One tick of the sled's motion, in its present state. -/
def State.sledMoves (s : State) (c : Fin 16) : State :=
  match s.sledSt c with
  | 1 => if s.mode c 2 = 3 then s.cw c F.SLD_STS_STATE 5 else s.modSled c fun x => { x with still := x.still + 1 }
  | 2 => s.moveTick c
  | 3 => if (s.ch c).sled.stop = .home ∧ (s.ch c).sled.homeN + 1 > 48 * s.cr c F.SLD_HOME_TMO then homeFail c s
         else (s.modSled c fun x => { x with homeN := x.homeN + 1 }).brakeTick c
  | 4 => s.homeTick c
  | 5 => s.followTick c
  | _ => s

theorem State.sledMoves_work : SledWork c s (s.sledMoves c) := by
  have start := SledWork.refl c s
  unfold State.sledMoves
  split
  · exact (start.cw _ (by decide)).ite start.modSled
  · exact start.moveTick
  · exact start.homeFail.ite start.modSled.brakeTick
  · exact start.homeTick
  · exact start.followTick
  · exact start

theorem State.sledMoves_off (h : s.sledSt c = 0 ∨ s.sledSt c = 6) : s.sledMoves c = s := by
  rcases h with h | h <;> simp only [State.sledMoves, h]

theorem State.sledMoves_idle (h : s.sledSt c = 1) (hm : s.mode c 2 ≠ 3) :
    s.sledMoves c = s.modSled c fun x => { x with still := x.still + 1 } := by
  simp only [State.sledMoves, h, if_neg hm]

/-- A deceleration that has not come to rest takes DECEL off the velocity (R216). -/
theorem State.brakeTick_slows (h : s.decel c < (s.ch c).sled.vel.natAbs) : s.brakeTick c = s.modSled c fun y => { y with
    pos := (s.ch c).sled.pos + (s.ch c).sled.vel + ((s.ch c).sled.vel - (s.ch c).sled.vel.sign * s.decel c)
    vel := (s.ch c).sled.vel - (s.ch c).sled.vel.sign * s.decel c } := if_neg (Int.not_le.mpr h)

theorem State.sledMoves_slows (h : s.sledSt c = 3) (hs : (s.ch c).sled.stop ≠ .home) (hv : s.decel c < (s.ch c).sled.vel.natAbs) :
    (s.sledMoves c).sledSt c = 3 ∧ ((s.sledMoves c).ch c).sled.vel = (s.ch c).sled.vel - (s.ch c).sled.vel.sign * s.decel c ∧
    ((s.sledMoves c).ch c).sled.pos = (s.ch c).sled.pos + (s.ch c).sled.vel + ((s.sledMoves c).ch c).sled.vel := by
  have slows : s.sledMoves c = (s.modSled c fun x => { x with homeN := x.homeN + 1 }).brakeTick c := by
    simp only [State.sledMoves, h]
    exact if_neg fun hhome => hs hhome.1
  have decel : (s.modSled c fun x => { x with homeN := x.homeN + 1 }).decel c = s.decel c := rfl
  rw [slows, State.brakeTick_slows (by simpa [decel] using hv)]
  simp [h, decel]

/-! The current loops of a tick. -/

/-- The tick's resolution, steps and phase drives, for a sled that was at `old` before it. -/
def State.sledDrives (s : State) (c : Fin 16) (old ia ib : Int) : State :=
  let s3 := s.cw c F.SLD_STS_RES (s.ladderRes c)
  let r := resOf (s3.cr c F.SLD_STS_RES)
  let new := Int.fdiv (s3.ch c).sled.pos unitPos
  let due := Int.fdiv (new * r) 256 - Int.fdiv (old * r) 256 + (s3.ch c).sled.steps
  let refs := s3.phaseRefs c r
  let a := s3.phasePi c (refs.1 - ia) (s3.ch c).sled.integA
  let b := s3.phasePi c (refs.2 - ib) (s3.ch c).sled.integB
  (s3.modSled c fun x => { x with
    steps := due - clampInt (-32) 32 due, slots := stepSlots (min 32 due.natAbs), refA := refs.1, refB := refs.2
    driveA := a.2, driveB := b.2, integA := a.1, integB := b.1 }).showSled c

/-- The registers of a tick's drives. -/
def sledDriveFields : List Fld := F.SLD_STS_RES :: sledShown

/-- The phases of a record `y` follow their references by the PI controllers, from a record `x` with measured currents (R210). -/
structure PhaseLoops (s : State) (c : Fin 16) (ia ib : Int) (x y : Sled) : Prop where
  integA : y.integA = x.integA + s.cr c F.SLD_ILOOP_KI * (y.refA - ia)
  integB : y.integB = x.integB + s.cr c F.SLD_ILOOP_KI * (y.refB - ib)
  driveA : y.driveA = Config.sledBridge (s.cr c F.SLD_ILOOP_KP * (y.refA - ia) + y.integA)
  driveB : y.driveB = Config.sledBridge (s.cr c F.SLD_ILOOP_KP * (y.refB - ib) + y.integB)

variable {old : Int}

theorem State.sledDrives_touches : TouchesOnly c sledDriveFields s (s.sledDrives c old ia ib) :=
  (((TouchesOnly.refl c _ s).cw _ (by decide)).modSled _).trans (State.showSled_touches.mono (List.subset_cons_self _ _))

theorem State.sledDrives_sledSt : (s.sledDrives c old ia ib).sledSt c = s.sledSt c := State.sledDrives_touches.cr (by decide)

/-- The drives move nothing. -/
theorem State.sledDrives_still : ((s.sledDrives c old ia ib).ch c).sled.pos = (s.ch c).sled.pos ∧
    ((s.sledDrives c old ia ib).ch c).sled.vel = (s.ch c).sled.vel ∧
    ((s.sledDrives c old ia ib).ch c).sled.still = (s.ch c).sled.still := by
  simp [State.sledDrives]

theorem State.sledDrives_loops : PhaseLoops s c ia ib (s.ch c).sled ((s.sledDrives c old ia ib).ch c).sled := by
  have gain (v : Nat) : (s.cw c F.SLD_STS_RES v).cr c F.SLD_ILOOP_KI = s.cr c F.SLD_ILOOP_KI ∧
      (s.cw c F.SLD_STS_RES v).cr c F.SLD_ILOOP_KP = s.cr c F.SLD_ILOOP_KP :=
    ⟨State.cr_cw_apart _ v (by decide), State.cr_cw_apart _ v (by decide)⟩
  constructor <;> simp [State.sledDrives, State.phasePi, gain]

/-! The tick. -/

/-- The measured phase currents stored (R210). -/
def State.sledSampled (s : State) (c : Fin 16) (ia ib : Int) : State :=
  s.wrs (chRg c) [(F.SLD_I_MEAS_IA, ofSigned 16 ia), (F.SLD_I_MEAS_IB, ofSigned 16 ib)]

theorem ofSigned16_mod (x : Int) : ofSigned 16 x % 2 ^ 16 = ofSigned 16 x := by
  unfold ofSigned
  omega

theorem State.sledSampled_shown : (s.sledSampled c ia ib).cr c F.SLD_I_MEAS_IA = ofSigned 16 ia ∧
    (s.sledSampled c ia ib).cr c F.SLD_I_MEAS_IB = ofSigned 16 ib := by
  obtain ⟨hA, hB⟩ := State.cr_wrs_pair (s := s) (c := c) (f := F.SLD_I_MEAS_IA) (g := F.SLD_I_MEAS_IB) (ofSigned 16 ia) (ofSigned 16 ib)
    (by decide)
  exact ⟨hA.trans (ofSigned16_mod ia), hB.trans (ofSigned16_mod ib)⟩

theorem State.sledSampled_touches : TouchesOnly c [F.SLD_I_MEAS_IA, F.SLD_I_MEAS_IB] s (s.sledSampled c ia ib) :=
  (TouchesOnly.refl c _ s).wrs (gs := [F.SLD_I_MEAS_IA, F.SLD_I_MEAS_IB]) rfl (by decide)

@[simp] theorem State.sledSampled_ch (e : Fin 16) : (s.sledSampled c ia ib).ch e = s.ch e := State.wrs_ch ..

@[simp] theorem State.sledSampled_sledSt : (s.sledSampled c ia ib).sledSt c = s.sledSt c := State.sledSampled_touches.cr (by decide)

/-- The sled after its motion in a tick. -/
def State.sledMoved (s : State) (c : Fin 16) (ia ib : Int) : State := (s.sledSampled c ia ib).sledMoves c

/-- The sled after a tick without an overcurrent: a sled in OFF or FAULT drives nothing. -/
def State.sledTicked (s : State) (c : Fin 16) (ia ib : Int) : State :=
  if (s.sledMoved c ia ib).sledSt c = 0 ∨ (s.sledMoved c ia ib).sledSt c = 6 then s.sledMoved c ia ib
  else (s.sledMoved c ia ib).sledDrives c (Int.fdiv (s.ch c).sled.pos unitPos) ia ib

theorem sledTick_dead (h : s.alive c = false ∨ (s.ch c).st = .bivouac) : sledTick c ia ib s = s := by
  refine if_pos ?_
  rcases h with h | h
  · simp [h]
  · simp [h]

section Awake
variable (ha : s.alive c = true) (hb : (s.ch c).st ≠ .bivouac)
include ha hb

theorem sledTick_faults (h6 : s.sledSt c ≠ 6) (hover : s.cr c F.SLD_OC_THR < ia.natAbs ∨ s.cr c F.SLD_OC_THR < ib.natAbs) :
    sledTick c ia ib s = ((s.sledSampled c ia ib).sledOff c 6).cirq c 0x11 8 :=
  (if_neg (by simp [ha, hb])).trans (if_pos ⟨hover, h6⟩)

theorem sledTick_runs (h : s.sledSt c = 6 ∨ (ia.natAbs ≤ s.cr c F.SLD_OC_THR ∧ ib.natAbs ≤ s.cr c F.SLD_OC_THR)) :
    sledTick c ia ib s = s.sledTicked c ia ib :=
  (if_neg (by simp [ha, hb])).trans (if_neg (by omega))

end Awake

/-! What a tick shows. -/

theorem State.sledTicked_touches : TouchesOnly c sledDriveFields (s.sledMoved c ia ib) (s.sledTicked c ia ib) :=
  (TouchesOnly.refl c _ _).ite State.sledDrives_touches

@[simp] theorem State.sledTicked_sledSt : (s.sledTicked c ia ib).sledSt c = (s.sledMoved c ia ib).sledSt c :=
  State.sledTicked_touches.cr (by decide)

theorem State.sledTicked_still : ((s.sledTicked c ia ib).ch c).sled.pos = ((s.sledMoved c ia ib).ch c).sled.pos ∧
    ((s.sledTicked c ia ib).ch c).sled.vel = ((s.sledMoved c ia ib).ch c).sled.vel ∧
    ((s.sledTicked c ia ib).ch c).sled.still = ((s.sledMoved c ia ib).ch c).sled.still := by
  unfold State.sledTicked
  split
  · exact ⟨rfl, rfl, rfl⟩
  · exact State.sledDrives_still

theorem State.sledMoved_touches :
    TouchesOnly c ([F.SLD_I_MEAS_IA, F.SLD_I_MEAS_IB] ++ sledMotionFields) s (s.sledMoved c ia ib) :=
  (State.sledSampled_touches.mono (List.subset_append_left _ _)).trans (State.sledMoves_work.touches.mono (List.subset_append_right _ _))

theorem State.sledTicked_frame : (s.sledTicked c ia ib).dram = s.dram ∧ ∀ d, d ≠ c → (s.sledTicked c ia ib).ch d = s.ch d :=
  ⟨State.sledTicked_touches.dram.trans State.sledMoved_touches.dram,
    fun d hd => (State.sledTicked_touches.others d hd).trans (State.sledMoved_touches.others d hd)⟩

theorem State.sledTicked_currents : (s.sledTicked c ia ib).cr c F.SLD_I_MEAS_IA = ofSigned 16 ia ∧
    (s.sledTicked c ia ib).cr c F.SLD_I_MEAS_IB = ofSigned 16 ib := by
  rw [State.sledTicked_touches.cr (by decide), State.sledTicked_touches.cr (by decide), State.sledMoved,
    State.sledMoves_work.touches.cr (by decide), State.sledMoves_work.touches.cr (by decide)]
  exact State.sledSampled_shown

/-- A sled in OFF or FAULT stays as it is. -/
theorem State.sledTicked_off (h : s.sledSt c = 0 ∨ s.sledSt c = 6) :
    ((s.sledTicked c ia ib).ch c).sled = (s.ch c).sled ∧ (s.sledTicked c ia ib).sledSt c = s.sledSt c := by
  have moved : s.sledMoved c ia ib = s.sledSampled c ia ib := State.sledMoves_off (by rwa [State.sledSampled_sledSt])
  rw [State.sledTicked, moved, if_pos (by rwa [State.sledSampled_sledSt])]
  exact ⟨by rw [State.sledSampled_ch], State.sledSampled_sledSt⟩

/-- A sled that is driven follows its references from the integrators before the tick. -/
theorem State.sledTicked_loops (h0 : (s.sledTicked c ia ib).sledSt c ≠ 0) (h6 : (s.sledTicked c ia ib).sledSt c ≠ 6) :
    PhaseLoops s c ia ib (s.ch c).sled ((s.sledTicked c ia ib).ch c).sled := by
  rw [State.sledTicked_sledSt] at h0 h6
  have work : SledWork c (s.sledSampled c ia ib) (s.sledMoved c ia ib) := State.sledMoves_work
  have ki : (s.sledMoved c ia ib).cr c F.SLD_ILOOP_KI = s.cr c F.SLD_ILOOP_KI := State.sledMoved_touches.cr (by decide)
  have kp : (s.sledMoved c ia ib).cr c F.SLD_ILOOP_KP = s.cr c F.SLD_ILOOP_KP := State.sledMoved_touches.cr (by decide)
  rw [State.sledTicked, if_neg (not_or.mpr ⟨h0, h6⟩)]
  obtain ⟨integA, integB, driveA, driveB⟩ := State.sledDrives_loops (s := s.sledMoved c ia ib) (c := c)
    (old := Int.fdiv (s.ch c).sled.pos unitPos) (ia := ia) (ib := ib)
  rw [work.integA, State.sledSampled_ch, ki] at integA
  rw [work.integB, State.sledSampled_ch, ki] at integB
  rw [kp] at driveA driveB
  exact ⟨integA, integB, driveA, driveB⟩

theorem State.sledTicked_idle (h : s.sledSt c = 1) (hm : s.mode c 2 ≠ 3) : (s.sledTicked c ia ib).sledSt c = 1 ∧
    ((s.sledTicked c ia ib).ch c).sled.pos = (s.ch c).sled.pos ∧
    ((s.sledTicked c ia ib).ch c).sled.still = (s.ch c).sled.still + 1 := by
  have mode : (s.sledSampled c ia ib).mode c 2 = s.mode c 2 := State.sledSampled_touches.cr (by decide)
  have moved : s.sledMoved c ia ib = (s.sledSampled c ia ib).modSled c fun x => { x with still := x.still + 1 } :=
    State.sledMoves_idle (by rwa [State.sledSampled_sledSt]) (by rwa [mode])
  obtain ⟨hpos, -, hstill⟩ := State.sledTicked_still (s := s) (c := c) (ia := ia) (ib := ib)
  rw [State.sledTicked_sledSt, hpos, hstill, moved]
  simp [h]

theorem State.sledTicked_slows (h : s.sledSt c = 3) (hs : (s.ch c).sled.stop ≠ .home) (hv : s.decel c < (s.ch c).sled.vel.natAbs) :
    (s.sledTicked c ia ib).sledSt c = 3 ∧
    ((s.sledTicked c ia ib).ch c).sled.vel = (s.ch c).sled.vel - (s.ch c).sled.vel.sign * s.decel c ∧
    ((s.sledTicked c ia ib).ch c).sled.pos = (s.ch c).sled.pos + (s.ch c).sled.vel + ((s.sledTicked c ia ib).ch c).sled.vel := by
  have decel : (s.sledSampled c ia ib).decel c = s.decel c := by
    rw [State.decel, State.sledSampled_touches.cr (by decide), State.decel]
  obtain ⟨hpos, hvel, -⟩ := State.sledTicked_still (s := s) (c := c) (ia := ia) (ib := ib)
  obtain ⟨mstate, mvel, mpos⟩ := State.sledMoves_slows (s := s.sledSampled c ia ib) (c := c) (by rwa [State.sledSampled_sledSt])
    (by rwa [State.sledSampled_ch]) (by rwa [State.sledSampled_ch, decel])
  rw [State.sledSampled_ch] at mvel mpos
  rw [decel] at mvel
  rw [State.sledTicked_sledSt, hpos, hvel]
  exact ⟨mstate, mvel, mpos⟩

end Sys2Proof.Machine
end

section
/-! PROOF. The statement about the sled (R210 to R223). -/

namespace Sys2Proof.Machine
open Sys2Proof

/-- A register write that is reached answers with its effect. -/
theorem next_gated_open {s t : State} {src : Src} {rg page off value : Nat} {eff : State → State} (hr : s.reach src rg page = .open_)
    (h : eff (s.unmark rg page off false) = t) : (.next (s.gated src rg page off value eff) : HRes) = .next t :=
  congrArg Host.Outcome.next ((State.gated_open s hr).trans h)

/-- An event that changes nothing waits unseen. -/
theorem State.whileRunning_fixed {s : State} {rg page : Nat} {f : State → State} (h : f s = s) : s.whileRunning rg page f = s := by
  rw [State.whileRunning, h, ite_self]

/-- A MOVE of segments of the list answers with its effect. -/
theorem exec_sledMove {s : State} {c : Fin 16} {src : Src} {first last : Nat} (hr : s.reach src (chRg c) 0x11 = .open_) (hf : first < 64)
    (hl : last < 64) : exec (.sledMove src c first last) s = .next (sledMove c first last (s.unmark (chRg c) 0x11 0x100 false)) :=
  next_gated_open hr (by rw [Nat.mod_eq_of_lt hf, Nat.mod_eq_of_lt hl])

/-- Settles O59: each command by where it is refused and what it starts, each end of a motion by the motion that follows, and a tick by
its motion and the current loops behind it. -/
theorem theSledMovesStopsHomesAndFollows : Obligations.TheSledMovesStopsHomesAndFollows := by
  unfold Obligations.TheSledMovesStopsHomesAndFollows
  intro s c src st x u idle
  refine ⟨fun hr ha e he => ?dead, fun hr ha => ⟨fun first last hf hl => ⟨fun hb => ?barred, fun hb => ?move⟩,
    fun h => ⟨?noStop, ?noRelease⟩, fun h => ?stopIdle, fun hlo hhi => ?stop, fun hlo hhi => ?release, fun h => ?home,
    fun h1 h5 => ?noHome, fun h => ?noEnergise, fun h => ?energise, fun h hA hB => ?clear, fun h => ?noClear⟩, fun h => ?noMove,
    fun h => ?moveDone, fun h => ?noStopping, fun h => ?stopDone, fun level => ?edge, fun h4 h3 => ?noHoming, fun h => ?homeFail,
    fun ha => ?overcurrent, fun h => ?noHold, fun h => ?hold, ?follow, fun ia ib h => ?tickDead,
    fun ia ib hrun ha hb h6 hover => ?tickFaults, fun ia ib hrun ha hb h => ?tick⟩
  case dead =>
    obtain ⟨move, stop, home, energise, release, clear⟩ := sledCommands_dead (s := u) (c := c) (first := 0) (last := 63) ha
    simp only [List.mem_cons, List.not_mem_nil, or_false] at he
    rcases he with rfl | rfl | rfl | rfl | rfl | rfl
    · exact next_gated_open hr move
    · exact next_gated_open hr stop
    · exact next_gated_open hr home
    · exact next_gated_open hr energise
    · exact next_gated_open hr release
    · exact next_gated_open hr clear
  case barred => exact (exec_sledMove hr hf hl).trans (congrArg Host.Outcome.next (sledMove_barred ha hb))
  case move =>
    obtain ⟨hdram, hothers⟩ := sledMove_frame (s := u) ha hb
    refine ⟨_, exec_sledMove hr hf hl, hdram, hothers, fun h2 h3 => ?_, fun h => ?_⟩
    · exact sledMove_begins_shown (s := u) ha hf hb h2 h3
    · obtain ⟨hstate, hsled, hsucc, hbit, -⟩ := sledMove_queues_shown (s := u) ha hb h
      exact ⟨hstate, hsled, hsucc, hbit⟩
  case noStop => exact next_gated_open hr (sledStop_refused ha h)
  case noRelease => exact next_gated_open hr (sledRelease_refused ha h)
  case stopIdle => exact next_gated_open hr (sledStop_idle ha h)
  case stop => exact ⟨_, next_gated_open hr rfl, sledStop_shown (s := u) ha hlo hhi⟩
  case release =>
    obtain ⟨hstate, hhomed, hsled⟩ := sledRelease_shown (s := u) ha hlo hhi
    refine ⟨_, next_gated_open hr rfl, hstate, hhomed, ?_⟩
    rw [hsled]
    exact ⟨rfl, rfl, rfl⟩
  case home => exact ⟨_, next_gated_open hr rfl, sledHome_shown (s := u) ha h⟩
  case noHome => exact next_gated_open hr (sledHome_refused ha h1 h5)
  case noEnergise => exact next_gated_open hr (sledEnergise_refused ha h)
  case energise => exact ⟨_, next_gated_open hr rfl, sledEnergise_shown (s := u) ha h⟩
  case clear =>
    exact ⟨_, next_gated_open hr (sledClearFault_off ha h hA hB), (State.sledOff_shown (s := u) (c := c) (v := 0) (by decide)).1⟩
  case noClear => exact next_gated_open hr (sledClearFault_refused ha (h.imp id (Or.imp Nat.not_lt.mp Nat.not_lt.mp)))
  case noMove => exact congrArg Host.Outcome.next (moveDone_other h)
  case moveDone =>
    obtain ⟨hpos, hbit⟩ := moveDone_ends h
    exact ⟨_, rfl, hpos, hbit, fun a b hs => moveDone_succeeds h hs, fun hs hv => moveDone_idles h hs hv,
      fun hs hv => moveDone_brakes_shown h hs hv⟩
  case noStopping => exact congrArg Host.Outcome.next (stopEnd_other h)
  case stopDone =>
    exact ⟨_, rfl, stopEnd_vel h, stopEnd_stop_bit h, stopEnd_idles h, stopEnd_succeeds h, stopEnd_turns h, stopEnd_homes h⟩
  case edge =>
    refine ⟨_, rfl, homeEdge_switch level, fun h => ?_, fun h hl hh => ?_, fun h hl hh => ?_, fun h hl hh => ?_⟩
    · exact homeEdge_other h ▸ State.switchAt_only level
    · subst hl
      exact homeEdge_turns h hh
    · subst hl
      exact homeEdge_zeroes h hh
    · subst hl
      exact homeEdge_seeks h hh
  case noHoming => exact congrArg Host.Outcome.next (homeFail_other (by rw [not_or, not_and_or]; exact ⟨h4, h3⟩))
  case homeFail => exact ⟨_, rfl, homeFail_shown h⟩
  case overcurrent =>
    obtain ⟨hstate, hhomed, hbit⟩ := State.sledFault_shown (s := s) (c := c)
    refine ⟨_, congrArg Host.Outcome.next (if_pos ha), hstate, hhomed, State.sledCurrent_off (.inr hstate), ?_⟩
    rw [State.cirq_ch, State.sledOff_sled]
    exact ⟨rfl, rfl, hbit⟩
  case noHold => exact congrArg Host.Outcome.next (if_neg h)
  case hold =>
    refine ⟨_, congrArg Host.Outcome.next (if_pos h), State.sledCurrent_held h ?_, rfl⟩
    rw [State.modSled_sled]
    exact le_max_right _ _
  case follow => rfl
  case tickDead => exact congrArg Host.Outcome.next (State.whileRunning_fixed (sledTick_dead h))
  case tickFaults =>
    obtain ⟨hstate, hhomed, hbit⟩ := State.sledFault_shown (s := s.sledSampled c ia ib) (c := c)
    refine ⟨_, congrArg Host.Outcome.next ((State.whileRunning_on s hrun).trans (sledTick_faults ha hb h6 hover)), hstate, hhomed, ?_⟩
    rw [State.cirq_ch, State.sledOff_sled]
    exact ⟨rfl, rfl, hbit⟩
  case tick =>
    obtain ⟨hA, hB⟩ := State.sledTicked_currents (s := s) (c := c) (ia := ia) (ib := ib)
    refine ⟨_, congrArg Host.Outcome.next ((State.whileRunning_on s hrun).trans (sledTick_runs ha hb h)), hA, hB,
      State.sledTicked_off, fun _ _ h0 h6 => ?_, State.sledTicked_idle, State.sledTicked_slows, State.sledTicked_frame⟩
    obtain ⟨integA, integB, driveA, driveB⟩ := State.sledTicked_loops h0 h6
    exact ⟨integA, integB, driveA, driveB⟩

end Sys2Proof.Machine
end

section
/-! PROOF. Behind a closed fence a bad thermistor leaves MON as it was at entry, its interrupt included (R14, R228, R458). -/

namespace Sys2Proof.Machine
open Sys2Proof

variable {s : State} {c : Fin 16} {codes : List Nat}

/-- A thermistor code outside PU_LIMITS is an open or a short. -/
def State.badPickup (s : State) (c : Fin 16) (codes : List Nat) : Prop :=
  ∃ k ∈ codes, k < s.cr c F.MON_PU_LIMITS_LO_CODE ∨ s.cr c F.MON_PU_LIMITS_HI_CODE < k

/-- A bad reading behind a closed fence: of the two flags and the two interrupts those of CAL alone are left, for MON shows its shadow. -/
theorem pickupTemp_bad_shadowed (ha : s.alive c = true) (hb : (s.ch c).st ≠ .bivouac) (hs : s.shadowed (chRg c) = true)
    (hbad : s.badPickup c codes) : pickupTemp c codes s = (s.cw c F.CAL_STS_TEMP_BAD 1).cirq c 0x50 1 := by
  have awake : ¬ (!s.alive c || (s.ch c).st == .bivouac) = true := by simp [ha, hb]
  have out : (codes.any fun k => k < s.cr c F.MON_PU_LIMITS_LO_CODE || k > s.cr c F.MON_PU_LIMITS_HI_CODE) = true := by
    simpa [State.badPickup] using hbad
  have shadow : (s.cw c F.CAL_STS_TEMP_BAD 1).shadowed (chRg c) = true := hs
  have silent : (s.cw c F.CAL_STS_TEMP_BAD 1).cirq c 0x58 0 = s.cw c F.CAL_STS_TEMP_BAD 1 :=
    State.irq_shadow _ 0 (by simp [shadow, shadowPage])
  simp only [pickupTemp, if_neg awake, if_pos out]
  rw [if_pos shadow, silent]

/-- MON's `IRQ_RAW` holds the value at entry through such a reading. -/
theorem pickupTemp_bad_shadowed_mon (ha : s.alive c = true) (hb : (s.ch c).st ≠ .bivouac) (hs : s.shadowed (chRg c) = true)
    (hbad : s.badPickup c codes) : (pickupTemp c codes s).cr c (F.HDR_IRQ_RAW 0x58) = s.cr c (F.HDR_IRQ_RAW 0x58) := by
  rw [pickupTemp_bad_shadowed ha hb hs hbad, State.cirq_cr_apart _ (by decide), State.cr_cw_apart _ _ (by decide)]

/-- Channel 0 quarantined by a CLE fault: powered and awake, its fence closed with cause 7, no event of MON recorded. -/
def quarantinedPickup : State :=
  { State.reset.modCh 0 fun x => { x with powered := true, st := .isolated, fence := 7 } with plat := { Plat.off with porst := false } }

/-- Ten codes of an open circuit. -/
def openThermistor : List Nat := List.replicate 10 4095

/-- The state and the codes meet every condition of the clause on a bad reading, and the channel's MON page is a shadow. -/
theorem quarantinedPickup_bad : quarantinedPickup.alive 0 = true ∧ (quarantinedPickup.ch 0).st ≠ .bivouac ∧
    quarantinedPickup.shadowed (chRg 0) = true ∧ quarantinedPickup.badPickup 0 openThermistor ∧
    quarantinedPickup.cr 0 (F.HDR_IRQ_RAW 0x58) = 0 := by
  refine ⟨by decide, by decide, by decide, ⟨4095, ?_, .inr ?_⟩, by decide⟩
  · exact List.mem_replicate.mpr ⟨by decide, rfl⟩
  · decide

/-- Refutes O60: its clause on a code outside PU_LIMITS asks for bit 0 of MON's `IRQ_RAW` of a channel behind a closed fence too, where
the shadow of MON takes no event (R458); the same clause spares `PU_TEMP.BAD` there, but not the bit. -/
theorem not_generationsAreFormedAndAppliedWhole : ¬ Obligations.GenerationsAreFormedAndAppliedWhole := by
  unfold Obligations.GenerationsAreFormedAndAppliedWhole
  intro h
  obtain ⟨-, -, -, -, sampled, -⟩ := h quarantinedPickup 0 .host
  obtain ⟨halive, hst, hshadow, hbad, hraw⟩ := quarantinedPickup_bad
  obtain ⟨bad, -⟩ := sampled openThermistor (List.length_replicate ..) halive hst
  obtain ⟨t, hexec, -, -, hbit, -⟩ := bad hbad
  have same : t = pickupTemp 0 openThermistor quarantinedPickup := (Host.Outcome.next.inj hexec).symm
  rw [same, pickupTemp_bad_shadowed_mon halive hst hshadow hbad, hraw] at hbit
  exact absurd hbit (by decide)

end Sys2Proof.Machine
end

section
/-! PROOF. CHECKPOINT_DONE waits where the disc may not be written (R255 step 6), and what a channel's sequences can do to its fence: they
close it with cause 1 and no other (R11, R340). -/

namespace Sys2Proof.Machine
open Sys2Proof

variable {s t : State} {c d : Fin 16} {n : Nat}

/-! CHECKPOINT_DONE. -/

/-- Without the conditions of R116 no anchor is written: the checkpoint stays as it is. -/
theorem checkpointDone_waits (h : s.mayWrite c = false) : checkpointDone c s = s := by
  unfold checkpointDone
  split
  · exact if_neg fun ⟨_, _, may⟩ => Bool.false_ne_true (h.symm.trans may)
  · rfl

/-- The sequences of a channel behind a closed fence rest. -/
theorem State.progress_closed (h : s.fences c ≠ 0) : s.progress c = s := by
  have shut : (s.ch c).fence ≠ 0 := h
  simp [State.progress, shut]

/-! The cause a fence closes with. -/

theorem State.closeFence_cause {cause : Nat} (hn : n ≠ cause) (h : (s.closeFence c cause).fences d = n) : s.fences d = n := by
  have marked {x : State} {f : Chan → Chan} (hf : ∀ y, (f y).fence = cause) (hd : (x.modCh c f).fences d = n) : x.fences d = n := by
    by_cases hdc : d = c
    · subst hdc
      exact absurd (by simpa [State.fences, hf] using hd.symm) hn
    · simpa [State.fences, State.ch_modCh_ne x f hdc] using hd
  unfold State.closeFence at h
  split at h
  · split at h
    · split at h
      · rw [State.svcEnd_fences, State.setSt_fences] at h
        exact marked (fun _ => rfl) h
      · exact h
    · exact h
  · extract_lets s1 s2 flushes s4 s5 s6 s7 s8 at h
    have h8 : ((s8.showSafe c).actFault c cause).fences = s2.fences := by
      simp only [s8, s7, s6, s5, s4]
      split <;> simp
    have h1 : s1.fences d = n := marked (fun _ => rfl) (congrFun h8 d ▸ h)
    rwa [s.cutSession_fences c] at h1

theorem State.procUnmounted_cause {p : Proc} {isolate : Bool} (hn : n ≠ 1) (h : (s.procUnmounted c p isolate).fences d = n) :
    s.fences d = n := by
  unfold State.procUnmounted at h
  extract_lets s1 s2 at h
  have h2 : s2.fences = s.fences := by simp [s2, s1]
  rw [← h2]
  split at h
  · exact State.closeFence_cause hn h
  · exact h

/-- The step that ends in the spindle's rest has the branch that can close the fence. -/
theorem State.procStep_cause (hn : n ≠ 1) (h : (s.procStep c).fences d = n) : s.fences d = n := by
  have rests {p : Prop} [Decidable p] {x : State} (hx : x.fences d = n → s.fences d = n) (h : (if p then s else x).fences d = n) :
      s.fences d = n := by
    split at h
    · exact h
    · exact hx h
  unfold State.procStep at h
  split at h
  · exact h
  · split at h
    case h_4 =>
      refine rests (fun h => ?_) h
      split at h
      · exact State.procUnmounted_cause hn h
      all_goals simpa using h
    all_goals simpa using h

theorem State.progress_cause (hn : n ≠ 1) (h : (s.progress c).fences d = n) : s.fences d = n := by
  have stepped (l : List Unit) (x : State) (hx : (l.foldl (fun (s : State) _ => s.procStep c) x).fences d = n) : x.fences d = n := by
    induction l generalizing x with
    | nil => exact hx
    | cons _ l ih => exact State.procStep_cause hn (ih _ hx)
  unfold State.progress at h
  split at h
  · exact h
  · extract_lets s1 s2 at h
    have h2 : s2.fences = s.fences := by
      simp only [s2, s1]
      split <;> simp
    rw [State.checkShutdown_fences] at h
    exact h2 ▸ stepped _ _ h

/-- What sequences end in behind a fence closed for any cause but 1 is what they began in. -/
theorem State.eq_of_progress_closed (hn : s.fences c ≠ 1) (h0 : s.fences c ≠ 0) (h : t.progress c = s) : t = s := by
  have same : t.fences c = s.fences c := State.progress_cause hn (by rw [h])
  rw [← h, State.progress_closed (same ▸ h0)]

/-! The statement. -/

/-- A writable Mapped disc, its anchor area empty. -/
def checkpointDisc : Disc :=
  { direct := false, blank := false, sealed_ := false, roMount := false, roDisc := false, compress := false, wantKey := none, keyed := false
    keyId := 0, archiveId := 0, wrapped := [], discId := [], revision := 1, identNext := 0, calNext := 0, anchNext := 0, anchorNum := 1
    ckptNum := 1, ckptPcn := 0, ckptSeq := 0, ckptParts := 0, replayStart := 0, nextLba := 0, slips := [], newSlips := [], slipsAtMount := 0
    holes := [], mapPoison := false, lastPcn := 0, mountMs := 0, fallback := false }

/-- Checkpoint 2, its one MAP cluster committed. -/
def committedCheckpoint : Ckpt := ⟨1, 2, .writing, 1, 5, 100000, 1⟩

/-- Channel 0 behind a fence closed with cause 2, focus and tracking OFF, with a checkpoint whose anchor is still to be written. -/
def unanchored : State :=
  { State.reset.modCh 0 fun x => { x with
      powered := true, st := .isolated, fence := 2, disc := some checkpointDisc, wr := { x.wr with ckpt := some committedCheckpoint } } with
    plat := { Plat.off with porst := false } }

/-- The state meets every condition of the clause on the end of a checkpoint, and its disc may not be written. -/
theorem unanchored_due : (unanchored.ch 0).wr.ckpt = some committedCheckpoint ∧ committedCheckpoint.stage = .writing ∧
    (unanchored.ch 0).wr.mapDone = true ∧ (unanchored.ch 0).disc = some checkpointDisc ∧ checkpointDisc.writable = true ∧
    checkpointDisc.direct = false ∧ 4 ≤ checkpointDisc.anchorsLeft ∧ unanchored.mayWrite 0 = false ∧ unanchored.fences 0 = 2 := by
  decide

/-- Refutes O51: its clause on the end of a checkpoint asks for the anchor without `State.mayWrite`, and where the disc may not be written
CHECKPOINT_DONE leaves the checkpoint as it is (R255 step 6). The closed fence of the counterexample only keeps `State.progress` at rest, so
that no other state can lead to its outcome. -/
theorem not_checkpointsProbesAndTheCache : ¬ Obligations.CheckpointsProbesAndTheCache := by
  unfold Obligations.CheckpointsProbesAndTheCache
  intro h
  obtain ⟨-, -, done, -⟩ := h unanchored 0 .host
  obtain ⟨hckpt, hstage, hmap, hdisc, hwritable, hdirect, hleft, hmay, hfence⟩ := unanchored_due
  obtain ⟨u, hexec, hnone, -⟩ := (done _ hckpt).2 _ hstage hmap hdisc hwritable hdirect hleft
  have rests : unanchored.progress 0 = unanchored := State.progress_closed (by rw [hfence]; decide)
  have ends : u.progress 0 = (checkpointDone 0 unanchored).progress 0 := (Host.Outcome.next.inj hexec).symm
  rw [checkpointDone_waits hmay, rests] at ends
  have same : u = unanchored := State.eq_of_progress_closed (by rw [hfence]; decide) (by rw [hfence]; decide) ends
  rw [same, hckpt] at hnone
  cases hnone

end Sys2Proof.Machine
end

section
/-! PROOF. What a completed command leaves: its slot, what has left the device, and the registers (R352, R448). -/

namespace Sys2Proof.Machine
open Sys2Proof

variable {s : State} {c : Fin 16} {k : Nat} {x : CmdSlot}

/-! The commands in their slots. -/

theorem State.cirq_slots (p bit : Nat) : (s.cirq c p bit).front.slots = s.front.slots := by
  simp only [State.cirq, State.irq]
  split
  · rfl
  · rw [State.setIrqRaw_only]
    split <;> rfl

theorem State.cntSaturated_slots (i : Nat) : (s.cntSaturated c i).front.slots = s.front.slots := by
  unfold State.cntSaturated
  split
  · rfl
  · exact State.cirq_slots _ _

theorem State.cnt_slots (i n : Nat) : (s.cnt c i n).front.slots = s.front.slots := by
  simp only [State.cnt]
  split
  · rfl
  · split
    · exact State.cntSaturated_slots i
    · rfl

theorem State.modSmart_slots (o : Option (Fin 16)) (f : Smart → Smart) : (s.modSmart o f).front.slots = s.front.slots := by
  cases o with
  | none => rfl
  | some c => rfl

/-- A command that may be taken up stands in its slot and waits for its record. -/
theorem State.cmd?_eq_some {admin : Bool} {op : Nat} (h : s.cmd? k admin op = some x) : s.slot? k = some x ∧ x.live = true := by
  unfold State.cmd? at h
  split at h
  · next y hy =>
    split at h
    · next hp =>
      obtain rfl := Option.some.inj h
      refine ⟨hy, ?_⟩
      simp only [Bool.and_eq_true, Bool.or_eq_true, beq_iff_eq] at hp
      rcases hp.1.2 with e | e <;> simp [CmdSlot.live, e]
    · cases h
  · cases h

theorem State.ioCmd?_eq_some {op : Nat} (h : s.ioCmd? k op = some (x, c)) : s.slot? k = some x ∧ x.live = true := by
  unfold State.ioCmd? at h
  split at h
  · cases h
  · next y hy =>
    split at h
    · cases h
    · split at h
      · obtain ⟨rfl, -⟩ := Prod.mk.inj (Option.some.inj h)
        exact State.cmd?_eq_some hy
      · cases h

/-- What a completion record does to a command that waits for one: its slot holds the record, no register changes, and its channel may
count it. -/
theorem State.finish_cases (h : s.slot? k = some x) (hl : x.live = true) (hs : x.silent = false) (st : Status) (d0 d1 : Nat) :
    ∃ u : State, u.regs = s.regs ∧ u.front.slots =
        SMap.insert s.front.slots k { x with phase := .completed st (BitVec.ofNat 32 d0) (BitVec.ofNat 32 d1) } ∧
      (s.finish k st d0 d1 = u ∨ ∃ e, s.finish k st d0 d1 = u.cnt e 0) := by
  generalize ht : s.finish k st d0 d1 = t
  unfold State.finish at ht
  simp -zeta only [h, hl, Bool.not_true, Bool.false_eq_true, if_false] at ht
  rw [if_neg (by simp [hs])] at ht
  extract_lets s1 s2 s3 at ht
  have h2 : s2.regs = s.regs ∧ s2.front.slots = s1.front.slots := by
    simp only [s2]
    split <;> exact ⟨rfl, rfl⟩
  have h3 : s3.regs = s.regs ∧ s3.front.slots = s1.front.slots := by
    simp only [s3]
    split
    · cases x.chan.bind chan? <;> exact h2
    · exact h2
  refine ⟨s3, h3.1, h3.2, ?_⟩
  split at ht
  · exact .inl ht.symm
  · split at ht
    · exact .inl ht.symm
    · split at ht
      · exact .inl ht.symm
      · exact .inr ⟨_, ht.symm⟩

/-- The slot of a command that completes holds its status and its dwords. -/
theorem State.finish_slot (h : s.slot? k = some x) (hl : x.live = true) (hs : x.silent = false) (st : Status) (d0 d1 : Nat) :
    (s.finish k st d0 d1).slot? k = some { x with phase := .completed st (BitVec.ofNat 32 d0) (BitVec.ofNat 32 d1) } := by
  obtain ⟨u, -, slots, same | ⟨e, counted⟩⟩ := State.finish_cases h hl hs st d0 d1
  · rw [same, State.slot?, slots, SMap.find?_insert, if_pos rfl]
  · rw [counted, State.slot?, State.cnt_slots, slots, SMap.find?_insert, if_pos rfl]

theorem State.finish_dram (st : Status) (d0 d1 : Nat) : (s.finish k st d0 d1).dram = s.dram := congrArg Prod.snd (s.finish_media k st d0 d1)

theorem State.finish_out (st : Status) (d0 d1 : Nat) : s.out <+: (s.finish k st d0 d1).out := (keeps_finish (.refl s) k st d0 d1).out

/-- Completing a command reaches no register but those of its channel's count of completions. -/
theorem State.finish_cr (h : s.slot? k = some x) (hl : x.live = true) (hs : x.silent = false) {f : Fld}
    (hf : f.outside [F.CNT_SAT, F.HDR_IRQ_RAW 0x59] = true) (st : Status) (d0 d1 : Nat) : (s.finish k st d0 d1).cr c f = s.cr c f := by
  obtain ⟨u, regs, -, same | ⟨e, counted⟩⟩ := State.finish_cases h hl hs st d0 d1
  · rw [same]
    exact State.rd_eq_of_regs regs _ _
  · have touched := (TouchesOnly.refl e [F.CNT_SAT, F.HDR_IRQ_RAW 0x59] u).cnt 0 1 (by decide) (by decide)
    rw [counted]
    refine (touched.fields (chRg c) f (Fld.placed_of_inPlace (Bool.and_eq_true_iff.mp hf).1) ?_).1.trans (State.rd_eq_of_regs regs _ _)
    exact fun ⟨_, named⟩ => Fld.not_fieldsOf_of_outside hf 0 ⟨rfl, named⟩

end Sys2Proof.Machine
end

section
/-! PROOF. Data that a command sends: what goes out is settled by the front end, the platform, the windows and what is out already, and by
no register and no channel (R302, R306, R309). -/

namespace Sys2Proof.Machine
open Sys2Proof

variable {s t : State} {k : Nat} {x : CmdSlot}

/-- What a transfer to the host goes by: what has left the device, the front end, the platform and the windows. -/
def State.wire (s : State) : List Out × Front × Plat × SMap Nat := (s.out, s.front, s.plat, s.tbl)

theorem State.eqs_of_wire (h : s.wire = t.wire) : s.out = t.out ∧ s.front = t.front ∧ s.plat = t.plat ∧ s.tbl = t.tbl := by
  simpa [State.wire] using h

theorem State.post_wire (h : s.wire = t.wire) (o : Out) : (s.post o).wire = (t.post o).wire := by
  obtain ⟨hout, hfront, hplat, htbl⟩ := State.eqs_of_wire h
  have same : s.bme = t.bme := by simp only [State.bme, State.cfgRaw, hfront]
  simp only [State.post, hfront, hplat, same]
  split
  · exact h
  · split <;> simp only [State.wire, hout, htbl]

theorem foldl_wire {α : Type} {g : State → α → State} (hg : ∀ u v a, u.wire = v.wire → (g u a).wire = (g v a).wire) (l : List α)
    (h : s.wire = t.wire) : (l.foldl g s).wire = (l.foldl g t).wire := by
  induction l generalizing s t with
  | nil => exact h
  | cons a l ih => exact ih (hg s t a h)

theorem State.dramPutList_wire (d : Fin 16) (a : Nat) (bs : List (Option Byte)) : (s.dramPutList d a bs).wire = s.wire := by
  induction bs generalizing s a with
  | nil => rfl
  | cons b bs ih =>
    cases b with
    | none => exact ih _
    | some b => exact ih _

theorem State.dramWrite_wire (d : Fin 16) (a : Nat) (bs : List (Option Byte)) : (s.dramWrite d a bs).wire = s.wire := by
  simpa only [State.wire, State.dramWrite] using State.dramPutList_wire d a bs

theorem State.incSat_wire (rg : Nat) (f : Fld) (n : Nat) : (s.incSat rg f n).wire = s.wire := rfl

theorem State.sendPiece_wire (h : s.wire = t.wire) (a : Nat) (data : List Byte) :
    (s.sendPiece x a data).wire = (t.sendPiece x a data).wire := by
  unfold State.sendPiece
  split
  · split
    · rw [State.incSat_wire, State.incSat_wire, State.dramWrite_wire, State.dramWrite_wire, h]
    · exact h
  · refine foldl_wire (fun u v p huv => ?_) _ h
    have packet : u.mps = v.mps := by
      obtain ⟨-, hfront, -, -⟩ := State.eqs_of_wire huv
      simp only [State.mps, State.cfgRaw, hfront]
    rw [packet]
    exact foldl_wire (fun _ _ q hyz => State.post_wire hyz (.memWrite q.1 ((data.drop (q.1 - a)).take q.2) x.chan)) _ huv

theorem State.sendData_wire (h : s.wire = t.wire) (ofs : Nat) (data : List Byte) :
    (s.sendData x ofs data).wire = (t.sendData x ofs data).wire := by
  unfold State.sendData
  generalize slicePieces x.pieces ofs data.length = l
  induction l generalizing s t data with
  | nil => exact h
  | cons p l ih => exact ih (State.sendPiece_wire h _ _) _

/-! Sending data leaves the slots as they are. -/

theorem State.post_slots (o : Out) : (s.post o).front.slots = s.front.slots := by
  rw [State.post_only]

theorem State.sendPiece_slots (a : Nat) (data : List Byte) : (s.sendPiece x a data).front.slots = s.front.slots := by
  unfold State.sendPiece
  split
  · split
    · rw [State.incSat_front]
      exact congrArg (·.2.1.slots) (State.dramWrite_wire _ _ _)
    · rfl
  · exact foldl_keeps (·.front.slots) (fun u _ => foldl_keeps (·.front.slots) (fun v _ => State.post_slots _) _ u) _ s

theorem State.sendData_slots (ofs : Nat) (data : List Byte) : (s.sendData x ofs data).front.slots = s.front.slots := by
  unfold State.sendData
  generalize slicePieces x.pieces ofs data.length = l
  induction l generalizing s data with
  | nil => rfl
  | cons p l ih => exact (ih _).trans (State.sendPiece_slots _ _)

end Sys2Proof.Machine
end

section
/-! PROOF. Transform: what a job that runs leaves, and which commands run one (R287, R291, R345, R346). -/

namespace Sys2Proof.Machine
open Sys2Proof

variable {s u : State} {k : Nat} {x : CmdSlot} {c : Fin 16} {j : Transform} {input d : List Byte}

/-- From `s` to `t` a Transform in slot `k` ended: the status, the input taken and whether a job is left open in its slot, the job kept,
and the output sent. -/
def TransformEnds (s t : State) (k : Nat) (x : CmdSlot) (c : Fin 16) (st : Status) (taken : Nat) (out : List Byte)
    (left : Option Transform) : Prop :=
  t.slot? k = some { x with
      phase := .completed st (BitVec.ofNat 32 (taken + 2 ^ 24 * b2n (left.elim false fun j => !j.out.isEmpty || !j.input.isEmpty)))
        (BitVec.ofNat 32 out.length) } ∧
    (t.ch c).xf = left ∧ (s.sendData { x with pieces := x.outPieces } 0 out).out <+: t.out ∧ ∀ e, e ≠ c → t.ch e = s.ch e

/-- The end of a job counts as such from any state that sends the same and has the same channels. -/
theorem State.endTransform_ends (hw : u.wire = s.wire) (hc : u.chans = s.chans) (h : s.slot? k = some x) (hl : x.live = true)
    (hs : x.silent = false) (st : Status) (taken : Nat) (out : List Byte) (left : Option Transform) :
    TransformEnds s (u.endTransform c k x st taken out left) k x c st taken out left := by
  let v := (u.modCh c fun y => { y with xf := left }).sendData { x with pieces := x.outPieces } 0 out
  let w := (v.incWrap (chRg c) F.CMP_XF_IN taken).incWrap (chRg c) F.CMP_XF_OUT out.length
  have slot : w.slot? k = some x := by
    have slots : w.front.slots = u.front.slots := State.sendData_slots 0 out
    have front : u.front = s.front := congrArg (·.2.1) hw
    rw [← h, State.slot?, slots, front, State.slot?]
  have chans (e : Fin 16) : w.ch e = (u.modCh c fun y => { y with xf := left }).ch e := by
    have sent : v.chans = _ := State.sendData_chans { x with pieces := x.outPieces } 0 out
    simp only [w, State.incWrap_ch]
    simp only [State.ch, sent]
  have sent : w.out = (s.sendData { x with pieces := x.outPieces } 0 out).out := by
    have wire : (u.modCh c fun y => { y with xf := left }).wire = s.wire := hw
    exact congrArg (·.1) (State.sendData_wire (x := { x with pieces := x.outPieces }) wire 0 out)
  refine ⟨State.finish_slot slot hl hs _ _ _, ?_, sent ▸ State.finish_out _ _ _, fun e he => ?_⟩
  · rw [State.endTransform, State.finish_ch]
    refine (congrArg Chan.xf (chans c)).trans ?_
    rw [State.ch_modCh_self]
  · rw [State.endTransform, State.finish_ch]
    refine (chans e).trans ((State.ch_modCh_ne u _ he).trans ?_)
    simp only [State.ch, hc]

/-! Coding. -/

/-- What the coded blocks of a job show in page CMP (Table 9-4). -/
def State.countCoded (s : State) (c : Fin 16) (l : List Coded) : State :=
  l.foldl (fun (s : State) (b : Coded) =>
    let s1 := if b.failed then (s.incSat (chRg c) F.CMP_CHECK_FAIL).cirq c 0x38 2 else s
    s1.incSat (chRg c) (if b.method = 1 then F.CMP_BLK_HS else if b.method = 2 then F.CMP_BLK_DEFL else F.CMP_BLK_RAW)) s

theorem State.countCoded_chans (l : List Coded) : (s.countCoded c l).chans = s.chans := by
  refine foldl_keeps State.chans (fun u b => ?_) l s
  rw [State.incSat_chans]
  split
  · rw [State.cirq_chans, State.incSat_chans]
  · rfl

/-- Blocks whose checks pass signal nothing. -/
theorem State.countCoded_wire {l : List Coded} (h : ∀ b ∈ l, b.failed = false) : (s.countCoded c l).wire = s.wire := by
  induction l generalizing s with
  | nil => rfl
  | cons b l ih =>
    refine (ih fun a ha => h a (List.mem_cons_of_mem _ ha)).trans ?_
    dsimp only
    rw [h b List.mem_cons_self]
    rfl

/-- The blocks a run takes lie in its input. -/
theorem compressRun_taken (set : CoderSet) (base window n idx : Nat) (input out : List Byte) :
    idx ≤ (compressRun set base window n idx input out).2 ∧
      4096 * ((compressRun set base window n idx input out).2 - idx) ≤ input.length := by
  induction n generalizing idx input out with
  | zero => simp [compressRun]
  | succ n ih =>
    unfold compressRun
    split
    · simp
    · next h =>
      have := ih (idx + 1) (input.drop 4096) (out ++ storedBlock none (base + idx) (crc32c (input.take 4096)) (codeBlock set (input.take 4096)))
      simp only [List.length_drop] at this
      dsimp only
      omega

/-- No block that a device codes fails the check of its coded form (R282). -/
def CodedFormsPass : Prop := ∀ (set : CoderSet) (block : List Byte), block.length = 4096 → (codeBlock set block).failed = false

/-- The blocks that a run of a coding job takes, coded. -/
def Transform.codedBlocks (j : Transform) (set : CoderSet) (window : Nat) (input : List Byte) : List Coded :=
  let r := compressRun set j.base window (input.length / 4096) j.blocks input j.out
  (List.range (r.2 - j.blocks)).map fun i => codeBlock set ((input.drop (4096 * i)).take 4096)

theorem Transform.codedBlocks_pass (hp : CodedFormsPass) (set : CoderSet) (window : Nat) :
    ∀ b ∈ j.codedBlocks set window input, b.failed = false := by
  intro b hb
  obtain ⟨i, hi, rfl⟩ := List.mem_map.mp hb
  have inside := (compressRun_taken set j.base window (input.length / 4096) j.blocks input j.out).2
  have := List.mem_range.mp hi
  refine hp set _ ?_
  rw [List.length_take, List.length_drop]
  omega

/-- A coding job's run: its output, what it took, and the job it keeps (R291, R346). -/
theorem State.runTransform_coding (hj : j.compress = true) :
    let window := bitsAt (x.dw 14) 0 23
    let r := compressRun (u.coder c true) j.base window (input.length / 4096) j.blocks input j.out
    u.runTransform c k x j input =
      (u.countCoded c (j.codedBlocks (u.coder c true) window input)).endTransform c k x stSuccess (4096 * (r.2 - j.blocks)) (r.1.take window)
        (if (r.1.drop window).isEmpty && 4096 * (r.2 - j.blocks) == input.length then none
          else some { j with blocks := r.2, out := r.1.drop window }) := by
  intro window r
  have inside : 4096 * (r.2 - j.blocks) ≤ input.length := (compressRun_taken _ j.base window (input.length / 4096) j.blocks input j.out).2
  have kept : (!(r.1.drop window).isEmpty || decide (4096 * (r.2 - j.blocks) < input.length)) =
      !((r.1.drop window).isEmpty && 4096 * (r.2 - j.blocks) == input.length) := by
    rw [Bool.not_and, Bool.eq_iff_iff]
    simp only [Bool.or_eq_true, Bool.not_eq_true', decide_eq_true_eq, beq_eq_false_iff_ne]
    exact or_congr_right (by omega)
  have left : (if (!(r.1.drop window).isEmpty || decide (4096 * (r.2 - j.blocks) < input.length)) then
      some { j with blocks := r.2, out := r.1.drop window } else none) =
      if (r.1.drop window).isEmpty && 4096 * (r.2 - j.blocks) == input.length then none
        else some { j with blocks := r.2, out := r.1.drop window } := by
    rw [kept]
    cases (r.1.drop window).isEmpty && 4096 * (r.2 - j.blocks) == input.length <;> rfl
  rw [← left]
  exact if_pos hj

/-! Decoding. -/

section Decoding
variable {window : Nat} {all : List Byte} {r : List Byte × Nat × Bool} (hj : j.compress = false) (hw : bitsAt (x.dw 14) 0 23 = window)
  (ha : j.input ++ input = all) (hr : decompressRun window (all.length / 16 + 1) all j.out 0 = r)
include hj hw ha hr

/-- A job stops at input that is no stored block (R346). -/
theorem State.runTransform_malformed (hf : r.2.2 = true) : u.runTransform c k x j input =
    u.endTransform c k x stTransformInput (r.2.1 - j.input.length) (r.1.take window) none := by
  simp only [State.runTransform, hj, hw, ha, hr, hf, Bool.false_eq_true, if_false, if_true]

/-- A job that does not fill its window takes all of its input, and keeps the block it ended in. -/
theorem State.runTransform_inside (hf : r.2.2 = false) (h : r.1.length < window) : u.runTransform c k x j input =
    u.endTransform c k x stSuccess input.length (r.1.take window)
      (if (all.drop r.2.1).isEmpty then none else some { j with out := [], input := all.drop r.2.1 }) := by
  have hrest : r.1.drop window = [] := List.drop_eq_nil_of_le (Nat.le_of_lt h)
  have hfull : decide (r.1.length ≥ window) = false := decide_eq_false (Nat.not_le.mpr h)
  simp only [State.runTransform, hj, hw, ha, hr, hf, hfull, hrest, Bool.false_eq_true, if_false, List.isEmpty_nil, Bool.not_true,
    Bool.false_or]
  cases (all.drop r.2.1).isEmpty <;> rfl

/-- A job that fills its window keeps the output behind it. -/
theorem State.runTransform_full (hf : r.2.2 = false) (h : window ≤ r.1.length) : ∃ left,
    u.runTransform c k x j input = u.endTransform c k x stSuccess (r.2.1 - j.input.length) (r.1.take window) left ∧
      ∀ l, left = some l → l.out = r.1.drop window := by
  have hfull : decide (r.1.length ≥ window) = true := decide_eq_true h
  refine ⟨_, by simp only [State.runTransform, hj, hw, ha, hr, hf, hfull, Bool.false_eq_true, if_false, if_true]; rfl, fun l hl => ?_⟩
  split at hl
  · rw [← Option.some.inj hl]
  · cases hl

end Decoding

end Sys2Proof.Machine
end

section
/-! PROOF. Which Transform commands run a job, and what of the statement about Transform each job leaves (R345, R346). -/

namespace Sys2Proof.Machine
open Sys2Proof

variable {s u : State} {k : Nat} {x : CmdSlot} {c : Fin 16} {j : Transform} {d : List Byte}

/-! The command. -/

/-- The buffers of a Transform fit: 4 MiB each, the output on a dword. -/
def CmdSlot.buffersFit (x : CmdSlot) : Prop := bitsAt (x.dw 15) 0 23 ≤ 4194304 ∧ bitsAt (x.dw 14) 0 23 ≤ 4194304 ∧ x.dw 12 % 4 = 0

/-- The buffers of a Transform are reached, and its input holds no poisoned word (R306). -/
def State.buffersReached (s : State) (x : CmdSlot) (c : Fin 16) : Prop :=
  s.pointersOk x false = true ∧ s.pointersOk { x with pieces := x.outPieces } true = true ∧ s.gatherBad x c = false

/-- The job a Transform works on: the stopped one, or a new one (R346). -/
def State.transformJob (s : State) (x : CmdSlot) (c : Fin 16) (resume compress : Bool) : Option Transform :=
  if resume then (s.ch c).xf else some ⟨compress, bitsAt (x.dw 11) 0 31, 0, [], []⟩

section Command
variable {resume compress : Bool} (hrun : s.running (chRg c) 0x38 = true) (hform : bitAt (x.dw 10) 1 = resume)
  (hcode : resume = false → bitAt (x.dw 10) 0 = !compress)
include hrun hform hcode

theorem transformCommand_form : ¬ (!s.running (chRg c) 0x38 || bitAt (x.dw 10) 1 != resume ||
    (!resume && bitAt (x.dw 10) 0 == compress)) = true := by
  cases resume with
  | true => simp [hrun, hform]
  | false => simp [hrun, hform, hcode]

variable (hx : s.ioCmd? k 0x81 = some (x, c))
include hx

theorem transformCommand_noJob (hj : s.transformJob x c resume compress = none) :
    transformCommand k resume compress d s = s.finish k stSequence := by
  rw [State.transformJob] at hj
  simp only [transformCommand, hx, if_neg (transformCommand_form hrun hform hcode), hj]

theorem transformCommand_refused (hj : s.transformJob x c resume compress = some j)
    (h : ¬ x.buffersFit ∨ j.compress = true ∧ bitsAt (x.dw 15) 0 23 % 4096 ≠ 0) :
    transformCommand k resume compress d s = s.finish k stInvalidField := by
  rw [State.transformJob] at hj
  simp only [transformCommand, hx, if_neg (transformCommand_form hrun hform hcode), hj]
  by_cases fits : x.buffersFit
  · obtain ⟨hin, hout, hdword⟩ := fits
    rw [if_neg (by omega), if_pos (h.resolve_left (not_not_intro ⟨hin, hout, hdword⟩))]
  · rw [CmdSlot.buffersFit] at fits
    rw [if_pos (by omega)]

/-- A Transform whose buffers may be used runs its job; a new job counts from 0. -/
theorem transformCommand_runs (hj : s.transformJob x c resume compress = some j) (hfit : x.buffersFit)
    (hblocks : j.compress = true → bitsAt (x.dw 15) 0 23 % 4096 = 0) (hreach : s.buffersReached x c) :
    transformCommand k resume compress d s =
      (if resume then s else s.wrs (chRg c) [(F.CMP_XF_IN, 0), (F.CMP_XF_OUT, 0)]).runTransform c k x j (s.gather x c d) := by
  obtain ⟨hin, hout, hdword⟩ := hfit
  obtain ⟨hread, hwrite, hclean⟩ := hreach
  rw [State.transformJob] at hj
  simp only [transformCommand, hx, if_neg (transformCommand_form hrun hform hcode), hj]
  rw [if_neg (by omega), if_neg (fun h => h.2 (hblocks h.1)), if_neg (by simp [hread]), if_neg (by simp [hwrite]), if_neg (by simp [hclean])]

end Command

/-! What the job leaves, from a state that sends the same, has the same channels and codes by the same settings. -/

section Job
variable (hw : u.wire = s.wire) (hc : u.chans = s.chans) (h : s.slot? k = some x) (hl : x.live = true) (hs : x.silent = false)
include hw hc h hl hs

theorem State.runTransform_coded (hp : CodedFormsPass) (hset : u.coder c true = s.coder c true) (input : List Byte) (hj : j.compress = true) :
    let window := bitsAt (x.dw 14) 0 23
    let r := compressRun (s.coder c true) j.base window (input.length / 4096) j.blocks input j.out
    TransformEnds s (u.runTransform c k x j input) k x c stSuccess (4096 * (r.2 - j.blocks)) (r.1.take window)
      (if (r.1.drop window).isEmpty && 4096 * (r.2 - j.blocks) == input.length then none
        else some { j with blocks := r.2, out := r.1.drop window }) := by
  intro window r
  rw [State.runTransform_coding hj, hset]
  exact State.endTransform_ends ((State.countCoded_wire (j.codedBlocks_pass hp _ _)).trans hw) ((State.countCoded_chans _).trans hc) h hl hs
    _ _ _ _

theorem State.runTransform_decoded (input : List Byte) (hj : j.compress = false) :
    let window := bitsAt (x.dw 14) 0 23
    let all := j.input ++ input
    let r := decompressRun window (all.length / 16 + 1) all j.out 0
    let t := u.runTransform c k x j input
    if r.2.2 then TransformEnds s t k x c stTransformInput (r.2.1 - j.input.length) (r.1.take window) none
    else if r.1.length < window then TransformEnds s t k x c stSuccess input.length (r.1.take window)
      (if (all.drop r.2.1).isEmpty then none else some { j with out := [], input := all.drop r.2.1 })
    else ∃ left, TransformEnds s t k x c stSuccess (r.2.1 - j.input.length) (r.1.take window) left ∧
      ∀ l, left = some l → l.out = r.1.drop window := by
  intro window all r t
  have ends := State.endTransform_ends (c := c) hw hc h hl hs
  split
  next hf => exact (show t = _ from State.runTransform_malformed hj rfl rfl rfl hf) ▸ ends _ _ _ _
  next hf =>
    have hok : r.2.2 = false := Bool.eq_false_iff.mpr hf
    split
    next hin => exact (show t = _ from State.runTransform_inside hj rfl rfl rfl hok hin) ▸ ends _ _ _ _
    next hin =>
      obtain ⟨left, hrun, hleft⟩ := State.runTransform_full (u := u) (k := k) (c := c) hj rfl rfl rfl hok (Nat.not_lt.mp hin)
      exact ⟨left, (show t = _ from hrun) ▸ ends _ _ _ _, hleft⟩

end Job

/-! Counts that start from 0 change neither what is sent nor the settings of the coder. -/

theorem State.freshCounts_coder : (s.wrs (chRg c) [(F.CMP_XF_IN, 0), (F.CMP_XF_OUT, 0)]).coder c true = s.coder c true := by
  have kept {f : Fld} (hf : f.outside [F.CMP_XF_IN, F.CMP_XF_OUT] = true) :
      (s.wrs (chRg c) [(F.CMP_XF_IN, 0), (F.CMP_XF_OUT, 0)]).cr c f = s.cr c f :=
    ((TouchesOnly.refl c [F.CMP_XF_IN, F.CMP_XF_OUT] s).wrs (gs := [F.CMP_XF_IN, F.CMP_XF_OUT]) rfl (by decide)).cr hf
  have hs := kept (f := F.CMP_CTL_HS_EN) (by decide)
  have defl := kept (f := F.CMP_CTL_DEFL_EN) (by decide)
  have check := kept (f := F.CMP_CTL_CHECK_EN) (by decide)
  have lazy := kept (f := F.CMP_CTL_LAZY) (by decide)
  have mode := kept (f := F.CMP_CTL_DEFL_MODE) (by decide)
  have chain := kept (f := F.CMP_CTL_CHAIN) (by decide)
  simp only [State.coder, State.cb, hs, defl, check, lazy, mode, chain]

end Sys2Proof.Machine
end

section
/-! PROOF. Pin Range and the XTS self-test (R267, R295, R347). -/

namespace Sys2Proof.Machine
open Sys2Proof

variable {s : State} {k i lba : Nat} {x : CmdSlot} {c : Fin 16} {disc : Disc}

/-! Which Pin Range does what. -/

section Command
variable {pin : Bool} (hx : s.ioCmd? k 0x82 = some (x, c)) (hform : bitAt (x.dw 12) 0 = !pin) (hst : (s.ch c).st ≠ .mechStopped)
include hx hform hst

theorem pinRange_beyond (h : s.nsze c ≤ x.slba) : pinRange k pin s = s.finish k stLbaRange := by
  have own : ¬ (bitAt (x.dw 12) 0 == pin) = true := by cases pin <;> simp [hform]
  simp only [pinRange, hx, if_neg own, if_neg hst, if_pos h]

variable (hin : x.slba < s.nsze c) (hd : (s.ch c).disc = some disc)
include hin hd

theorem pinRange_direct (h : disc.direct = true) : pinRange k pin s = s.finish k stSuccess := by
  have own : ¬ (bitAt (x.dw 12) 0 == pin) = true := by cases pin <;> simp [hform]
  simp only [pinRange, hx, if_neg own, if_neg hst, if_neg (Nat.not_le.mpr hin), hd, Option.map_some, Option.getD_some, h, if_true]

theorem pinRange_mapped (h : disc.direct = false) (hkeep : pin = true → bitAt (x.dw 12) 1 = false) :
    pinRange k pin s = if pin then pinCommand s c k x.slba else unpinCommand s c k x.slba := by
  have own : ¬ (bitAt (x.dw 12) 0 == pin) = true := by cases pin <;> simp [hform]
  simp only [pinRange, hx, if_neg own, if_neg hst, if_neg (Nat.not_le.mpr hin), hd, Option.map_some, Option.getD_some, h]
  cases pin with
  | true => simp [hkeep rfl]
  | false => simp

end Command

/-! The locks of a channel's cache. -/

theorem State.modMap_map (f : MapState → MapState) : ((s.modMap c f).ch c).map = f (s.ch c).map := by
  rw [State.modMap, State.ch_modCh_self]

theorem State.showLocks_chans : (s.showLocks c).chans = s.chans :=
  foldl_keeps State.chans (fun u _ => u.cw_chans c _ _) _ s

theorem State.showLocks_front : (s.showLocks c).front = s.front :=
  foldl_keeps State.front (fun u _ => u.cw_front c _ _) _ s

theorem State.showLocks_dram : (s.showLocks c).dram = s.dram :=
  foldl_keeps State.dram (fun u _ => u.cw_dram c _ _) _ s

theorem lockAnchor_outside_count : ∀ i : Fin 4, (F.LTC_LOCK_ANCHOR i).outside [F.CNT_SAT, F.HDR_IRQ_RAW 0x59] = true := by decide

/-- The register of a lock shows its anchor (Table 8-4). -/
theorem State.showLocks_anchor (hi : i < 4) (h : SMap.find? (s.ch c).map.locks i = some lba) (hl : lba < 2 ^ 31) :
    (s.showLocks c).cr c (F.LTC_LOCK_ANCHOR i) = lba := by
  have shown : s.showLocks c = s.wrs (chRg c)
      ((List.range 4).map fun i => (F.LTC_LOCK_ANCHOR i, (SMap.find? (s.ch c).map.locks i).getD 0)) := by
    rw [State.wrs, List.foldl_map]
    rfl
  rw [shown, State.cr_wrs_of_mem (fs := (List.range 4).map fun i => F.LTC_LOCK_ANCHOR i) (v := lba) (by simp) (by decide)]
  · exact Nat.mod_eq_of_lt hl
  · exact List.mem_map.mpr ⟨i, List.mem_range.mpr hi, by rw [h]; rfl⟩

theorem State.pinAnswer_finish (i : Nat) (e : Option LtcEntry) : ∃ d0 d1, s.pinAnswer k i e = s.finish k stSuccess d0 d1 := by
  cases e with
  | none => exact ⟨_, _, rfl⟩
  | some e => exact ⟨_, _, rfl⟩

/-! UNPIN. -/

/-- A cache without the lock of an index: its slots are free of it. -/
def MapState.unlock (m : MapState) (i : Nat) : MapState :=
  { m with locks := SMap.erase m.locks i, ltc := m.ltc.map fun y => if y.lock == some i then { y with lock := none } else y }

theorem MapState.unlock_locks (m : MapState) (i : Nat) : SMap.find? (m.unlock i).locks i = none := by
  simp [MapState.unlock, SMap.find?_erase]

theorem MapState.unlock_ltc (m : MapState) (i : Nat) : ∀ z ∈ (m.unlock i).ltc, z.lock ≠ some i := by
  intro z hz
  obtain ⟨y, -, rfl⟩ := List.mem_map.mp hz
  split
  · exact nofun
  · next h => simpa using h

theorem unpinCommand_none (h : (s.ch c).map.lockAt lba = none) : unpinCommand s c k lba = s.finish k stInvalidField := by
  simp only [unpinCommand, h]

/-- UNPIN of an LBA that a lock covers frees the lock and succeeds. -/
theorem unpinCommand_some {y : LtcSlot} (h : (s.ch c).map.lockAt lba = some (i, y)) : ∃ u d0 d1,
    unpinCommand s c k lba = State.finish u k stSuccess d0 d1 ∧ u.front = s.front ∧ (u.ch c).map = (s.ch c).map.unlock i := by
  let s1 := s.modMap c fun m => m.unlock i
  let s2 := s1.cw c F.LTC_LOCK_STS_LOCKINV (s1.cr c F.LTC_LOCK_STS_LOCKINV &&& (15 - 2 ^ i % 16))
  obtain ⟨d0, d1, answered⟩ := (s2.showLocks c).pinAnswer_finish (k := k) i y.entry
  refine ⟨s2.showLocks c, d0, d1, ?_, State.showLocks_front, ?_⟩
  · rw [← answered]
    simp only [unpinCommand, h]
    rfl
  · rw [State.ch, State.showLocks_chans]
    exact State.modMap_map fun m => m.unlock i

/-! PIN. -/

/-- A cache whose entries that cover an LBA are locked by a lock of that anchor. -/
def MapState.lockAs (m : MapState) (i lba : Nat) : MapState :=
  { m with
    locks := SMap.insert m.locks i lba
    ltc := m.ltc.map fun (x : LtcSlot) => if x.entry.elim false (fun (e : LtcEntry) => e.ext.has lba) then { x with lock := some i } else x }

theorem MapState.entry_of_find? {m : MapState} {en : LtcEntry} (h : (m.ltc.filterMap (·.entry)).find? (fun y => y.ext.has lba) = some en) :
    en.ext.has lba = true ∧ ∃ y ∈ m.ltc, y.entry = some en :=
  ⟨by simpa using List.find?_some h, by simpa using List.mem_of_find?_eq_some h⟩

theorem MapState.lockAs_entry {m : MapState} {en : LtcEntry}
    (h : (m.ltc.filterMap (·.entry)).find? (fun y => y.ext.has lba) = some en) :
    ∃ z ∈ (m.lockAs i lba).ltc, z.lock = some i ∧ z.entry = some en := by
  obtain ⟨hhas, y, hy, he⟩ := MapState.entry_of_find? h
  exact ⟨{ y with lock := some i }, List.mem_map.mpr ⟨y, hy, by simp [he, hhas]⟩, rfl, he⟩

/-- PIN of an LBA in the cache that no lock covers takes the first free lock and answers with it and the entry. -/
theorem pinCommand_entry {en : LtcEntry} (hnone : (s.ch c).map.lockAt lba = none)
    (hen : ((s.ch c).map.ltc.filterMap (·.entry)).find? (fun y => y.ext.has lba) = some en)
    (hfree : (List.range 4).find? (fun i => (SMap.find? (s.ch c).map.locks i).isNone) = some i) :
    pinCommand s c k lba = ((s.modMap c fun m => m.lockAs i lba).showLocks c).finish k stSuccess
      (i + 4 * b2n en.hole + 2 ^ 16 * en.ext.len) en.ext.start := by
  obtain ⟨hhas, y, hy, he⟩ := MapState.entry_of_find? hen
  have cached : ((s.ch c).map.ltc.any fun x => x.entry.elim false fun e => e.ext.has lba) = true :=
    List.any_eq_true.mpr ⟨y, hy, by simp [he, hhas]⟩
  simp only [pinCommand, hnone, Option.map_none, cached, if_true, hfree, hen]
  rfl

/-- What such a PIN leaves: the lock in the cache and in its register, and the answer in the slot. -/
theorem pinCommand_shown {en : LtcEntry} (hnone : (s.ch c).map.lockAt lba = none)
    (hen : ((s.ch c).map.ltc.filterMap (·.entry)).find? (fun y => y.ext.has lba) = some en)
    (hfree : (List.range 4).find? (fun i => (SMap.find? (s.ch c).map.locks i).isNone) = some i) (hlba : lba < 2 ^ 31)
    (h : s.slot? k = some x) (hl : x.live = true) (hs : x.silent = false) :
    let t := pinCommand s c k lba
    (t.ch c).map = (s.ch c).map.lockAs i lba ∧ t.cr c (F.LTC_LOCK_ANCHOR i) = lba ∧ t.slot? k = some { x with
        phase := .completed stSuccess (BitVec.ofNat 32 (i + 4 * b2n en.hole + 2 ^ 16 * en.ext.len)) (BitVec.ofNat 32 en.ext.start) } ∧
      t.dram = s.dram ∧ ∀ d, d ≠ c → t.ch d = s.ch d := by
  intro t
  have hi : i < 4 := List.mem_range.mp (List.mem_of_find?_eq_some hfree)
  let u := (s.modMap c fun m => m.lockAs i lba).showLocks c
  have chans : u.chans = (s.modMap c fun m => m.lockAs i lba).chans := State.showLocks_chans
  have map : (u.ch c).map = (s.ch c).map.lockAs i lba := by
    rw [State.ch, chans]
    exact State.modMap_map _
  have slot : u.slot? k = some x := by
    rw [State.slot?, State.showLocks_front]
    exact h
  have answer : t = u.finish k stSuccess (i + 4 * b2n en.hole + 2 ^ 16 * en.ext.len) en.ext.start := pinCommand_entry hnone hen hfree
  have anchor : u.cr c (F.LTC_LOCK_ANCHOR i) = lba := by
    refine State.showLocks_anchor hi ?_ hlba
    rw [State.modMap_map, MapState.lockAs, SMap.find?_insert, if_pos rfl]
  rw [answer]
  refine ⟨?_, ?_, State.finish_slot slot hl hs _ _ _, ?_, fun d hd => ?_⟩
  · rw [State.finish_ch, map]
  · rw [State.finish_cr slot hl hs (lockAnchor_outside_count ⟨i, hi⟩), anchor]
  · rw [State.finish_dram]
    exact State.showLocks_dram
  · rw [State.finish_ch, State.ch, chans]
    exact State.ch_modCh_ne s _ hd

/-! The self-test. -/

/-- The fields of the first error of page XTS. -/
def xtsErrorFields : List Fld := [F.HDR_ERR_FIRST_OFS 0x39, F.HDR_ERR_FIRST_FLYSHEET 0x39, F.HDR_ERR_FIRST_CODE 0x39,
  F.HDR_ERR_FIRST_VALID 0x39, F.HDR_ERR_INFO 0x39]

/-- An error of page XTS is counted, and may be its first. -/
theorem State.xtsError_touches (ofs code : Nat) :
    TouchesOnly c xtsErrorFields (s.incSat (chRg c) (F.HDR_ERR_COUNT 0x39)) (s.errOpen (chRg c) 0x39 ofs code) := by
  have counted : TouchesOnly c xtsErrorFields (s.incSat (chRg c) (F.HDR_ERR_COUNT 0x39))
      ((s.draw 32).2.incSat (chRg c) (F.HDR_ERR_COUNT 0x39)) := (TouchesOnly.refl c _ _).of_eqs rfl rfl rfl
  exact counted.ite (counted.wrs (gs := xtsErrorFields) rfl (by decide))

/-- A self-test with a key pair loaded is an error and leaves its result (R295). -/
theorem xtsSelftest_refused (h : s.cr c F.XTS_STS_KEY_VALID = 1) :
    (xtsSelftest c s).cr c (F.HDR_ERR_COUNT 0x39) = min (s.cr c (F.HDR_ERR_COUNT 0x39) + 1) 65535 ∧
      (xtsSelftest c s).cr c F.XTS_SELFTEST_PASS = s.cr c F.XTS_SELFTEST_PASS := by
  have touched : TouchesOnly c xtsErrorFields (s.incSat (chRg c) (F.HDR_ERR_COUNT 0x39)) (xtsSelftest c s) := by
    rw [xtsSelftest, if_pos h]
    exact State.xtsError_touches _ _
  exact ⟨(touched.cr (by decide)).trans (State.incSat_rd_self s _ _ _), (touched.cr (by decide)).trans (State.rd_wr_apart s _ (by decide))⟩

/-- A self-test without one passes (R295). -/
theorem xtsSelftest_passes (h : s.cr c F.XTS_STS_KEY_VALID ≠ 1) :
    let t := xtsSelftest c s
    t.cr c F.XTS_SELFTEST_DONE = 1 ∧ t.cr c F.XTS_SELFTEST_PASS = 1 ∧
      FieldsKept s t (FieldsOf (chRg c) [F.XTS_SELFTEST_DONE, F.XTS_SELFTEST_PASS]) ∧ t = { s with regs := t.regs } := by
  intro t
  have shown : t = s.wrs (chRg c) [(F.XTS_SELFTEST_DONE, 1), (F.XTS_SELFTEST_PASS, 1)] := if_neg h
  have wrote {f : Fld} {v : Nat} := State.cr_wrs_of_mem (s := s) (c := c) (f := f) (v := v) (l := [(F.XTS_SELFTEST_DONE, 1),
    (F.XTS_SELFTEST_PASS, 1)]) (fs := [F.XTS_SELFTEST_DONE, F.XTS_SELFTEST_PASS]) rfl (by decide)
  have touched := (TouchesOnly.refl c [F.XTS_SELFTEST_DONE, F.XTS_SELFTEST_PASS] s).wrs (l := [(F.XTS_SELFTEST_DONE, 1),
    (F.XTS_SELFTEST_PASS, 1)]) (gs := [F.XTS_SELFTEST_DONE, F.XTS_SELFTEST_PASS]) rfl (by decide)
  rw [shown]
  exact ⟨wrote (v := 1) (by simp), wrote (v := 1) (by simp), touched.fields, rfl⟩

end Sys2Proof.Machine
end

section
/-! PROOF. The statement about Transform, Pin Range and the self-test. -/

namespace Sys2Proof.Machine
open Sys2Proof

/-- Where every coded form passes its check, O43 holds: each Transform by the run of its job, each Pin Range by its operation, and the
self-test by whether a key pair is loaded. -/
theorem transformsAndPinsRun_of_codedFormsPass (hp : CodedFormsPass) : Obligations.TransformsAndPinsRun := by
  unfold Obligations.TransformsAndPinsRun
  intro s k x c d
  refine ⟨fun hx hrun => ?transform, fun pin hx hform hst => ?pin, fun src hr => ⟨fun hkey => ?refused, fun hkey => ?passes⟩⟩
  case transform =>
    intro n window input job ends coded decoded fits usable fresh
    obtain ⟨slot, live⟩ := State.ioCmd?_eq_some hx
    have codes {u : State} {j : Transform} (hw : u.wire = s.wire) (hc : u.chans = s.chans) (hset : u.coder c true = s.coder c true)
        (hs : x.silent = false) (hj : j.compress = true) : coded (u.runTransform c k x j input) j :=
      State.runTransform_coded hw hc slot live hs hp hset input hj
    have decodes {u : State} {j : Transform} (hw : u.wire = s.wire) (hc : u.chans = s.chans)
        (hs : x.silent = false) (hj : j.compress = false) : decoded (u.runTransform c k x j input) j :=
      State.runTransform_decoded hw hc slot live hs input hj
    refine ⟨fun hnew hcode => ?compress, fun hnew hcode hf hu => ?decompress,
      fun hres => ⟨fun hj => ?noJob, fun j hj hf hn hu => ?resume⟩⟩
    case compress =>
      have runs (hf : fits) (hn : n % 4096 = 0) (hu : usable) : exec (.transformCompress k d) s = .next
          (fresh.runTransform c k x ⟨true, bitsAt (x.dw 11) 0 31, 0, [], []⟩ input) :=
        congrArg Host.Outcome.next (transformCommand_runs hrun hnew (fun _ => hcode) hx rfl hf (fun _ => hn) hu)
      refine ⟨fun h => congrArg Host.Outcome.next ?_, runs, fun hf hn hu hs => ⟨_, runs hf hn hu, ?_⟩⟩
      · exact transformCommand_refused hrun hnew (fun _ => hcode) hx rfl (h.imp_right fun hn => ⟨rfl, hn⟩)
      · have new : job = ⟨true, bitsAt (x.dw 11) 0 31, 0, [], []⟩ := by simp only [job, hcode, Bool.not_false]
        rw [new]
        exact codes rfl rfl State.freshCounts_coder hs rfl
    case decompress =>
      have runs : exec (.transformDecompress k d) s = .next
          (fresh.runTransform c k x ⟨false, bitsAt (x.dw 11) 0 31, 0, [], []⟩ input) :=
        congrArg Host.Outcome.next (transformCommand_runs hrun hnew (fun _ => hcode) hx rfl hf nofun hu)
      refine ⟨runs, fun hs => ⟨_, runs, ?_⟩⟩
      have new : job = ⟨false, bitsAt (x.dw 11) 0 31, 0, [], []⟩ := by simp only [job, hcode, Bool.not_true]
      rw [new]
      exact decodes rfl rfl hs rfl
    case noJob => exact congrArg Host.Outcome.next (transformCommand_noJob hrun hres nofun hx hj)
    case resume =>
      have runs : exec (.transformResume k d) s = .next (s.runTransform c k x j input) :=
        congrArg Host.Outcome.next (transformCommand_runs hrun hres nofun hx hj hf hn hu)
      refine ⟨runs, fun hs => ⟨_, runs, ?_⟩⟩
      split
      next hc => exact codes rfl rfl rfl hs hc
      next hc => exact decodes rfl rfl hs (Bool.eq_false_iff.mpr hc)
  case pin =>
    intro e
    have runs : exec e s = .next (pinRange k pin s) := by cases pin <;> rfl
    obtain ⟨slot, live⟩ := State.ioCmd?_eq_some hx
    rw [runs]
    refine ⟨fun h => congrArg Host.Outcome.next (pinRange_beyond hx hform hst h), fun hin disc hd => ⟨fun h => ?direct, fun h => ?mapped⟩⟩
    case direct => exact congrArg Host.Outcome.next (pinRange_direct hx hform hst hin hd h)
    case mapped =>
      have runs (hkeep : pin = true → bitAt (x.dw 12) 1 = false) := pinRange_mapped hx hform hst hin hd h hkeep
      have unpins (hpin : pin = false) : pinRange k pin s = unpinCommand s c k x.slba := by simpa [hpin] using runs (by simp [hpin])
      have pins (hpin : pin = true) (hkeep : bitAt (x.dw 12) 1 = false) : pinRange k pin s = pinCommand s c k x.slba := by
        simpa [hpin] using runs fun _ => hkeep
      refine ⟨fun hpin hnone => congrArg Host.Outcome.next ((unpins hpin).trans (unpinCommand_none hnone)),
        fun hpin _ => congrArg Host.Outcome.next (unpins hpin), fun hpin hkeep => congrArg Host.Outcome.next (pins hpin hkeep),
        fun i y hpin hs hlock => ?unpin, fun i en hpin hkeep hs hnone hen hfree => ?pin⟩
      case unpin =>
        obtain ⟨u, d0, d1, hu, front, map⟩ := unpinCommand_some (k := k) hlock
        refine ⟨_, congrArg Host.Outcome.next ((unpins hpin).trans hu), ?_, ?_, d0, d1, State.finish_slot ?_ live hs _ _ _⟩
        · rw [State.finish_ch, map, MapState.unlock_locks]
        · rw [State.finish_ch, map]
          exact MapState.unlock_ltc _ i
        · rw [← slot, State.slot?, front, State.slot?]
      case pin =>
        have whole : s.nsze c = 2 ^ 31 := by simp [State.nsze, hd, h]
        obtain ⟨map, anchor, hslot, dram, others⟩ := pinCommand_shown hnone hen hfree (whole ▸ hin) slot live hs
        exact ⟨_, congrArg Host.Outcome.next (pins hpin hkeep), congrArg MapState.locks map, map ▸ MapState.lockAs_entry hen, anchor, hslot,
          dram, others⟩
  case refused =>
    exact ⟨_, congrArg Host.Outcome.next (State.gated_open s hr),
      xtsSelftest_refused (s := s.unmark (chRg c) 0x39 0x114 false) hkey⟩
  case passes =>
    obtain ⟨done, pass, kept, rest⟩ := xtsSelftest_passes (s := s.unmark (chRg c) 0x39 0x114 false) hkey
    exact ⟨_, congrArg Host.Outcome.next (State.gated_open s hr), done, pass, kept, State.regs_after_unmark rest⟩

end Sys2Proof.Machine
end

section
/-! PROOF. A coded block that fails its check interrupts before the output of its Transform is sent (R282, R291, R466). -/

namespace Sys2Proof.Machine
open Sys2Proof

variable {s u : State} {c : Fin 16} {rg p bit : Nat} {x : CmdSlot}

/-! A region's message (R301, R467). -/

/-- Posted requests leave at once: no reset, bus mastering on and nothing held back (R309). -/
structure State.Posts (s : State) : Prop where
  up    : (s.front.inReset || s.front.flr || s.plat.tripped) = false
  open_ : (s.bme && s.front.held.isEmpty) = true

theorem State.Posts.post (h : s.Posts) (o : Out) : s.post o = { s with out := s.out ++ [o] } := by
  simp only [State.post, h.up, h.open_, Bool.false_eq_true, if_false, if_true]

/-- Vector `v` is unmasked, and its messages leave at once. -/
structure State.Signals (s : State) (v : Nat) : Prop where
  posts : s.Posts
  on    : (s.msixOn && s.tget .msix 0 (4 * v + 3) % 2 == 0) = true

theorem State.Signals.msix {v : Nat} (h : s.Signals v) : ∃ a d, (s.msix v).out = s.out ++ [.msix v a d] := by
  simp only [State.msix, h.on, if_true, h.posts.post]
  exact ⟨_, _, rfl⟩

theorem regionPages_lt : ∀ q ∈ regionPages rg, q < 0x100 := by
  unfold regionPages
  split <;> decide

theorem irqEn_apart_irqRaw (hp : p < 0x100) : (F.HDR_IRQ_RAW p).apart (F.HDR_IRQ_EN p) = true := by
  simp [Fld.apart, Fld.same, F.HDR_IRQ_RAW, F.HDR_IRQ_EN, hp]

/-- A region with no event recorded has nothing pending. -/
theorem State.regionPending_quiet (h : ∀ q ∈ regionPages rg, s.rd rg (F.HDR_IRQ_RAW q) = 0) : s.regionPending rg = false := by
  refine List.any_eq_false.mpr fun q hq => ?_
  have hmem : q ∈ regionPages rg := by
    unfold State.irqPages at hq
    split at hq
    · exact (List.mem_filter.mp hq).1
    · exact hq
  simp [State.irqSts, h q hmem]

/-- An event recorded and enabled in an open region is pending. -/
theorem State.regionPending_of_bit (hopen : s.fenced rg = false) (hmem : p ∈ regionPages rg)
    (hraw : (s.rd rg (F.HDR_IRQ_RAW p)).testBit bit = true) (hen : (s.rd rg (F.HDR_IRQ_EN p)).testBit bit = true) :
    s.regionPending rg = true := by
  refine List.any_eq_true.mpr ⟨p, by simpa [State.irqPages, hopen] using hmem, ?_⟩
  have both : (s.irqSts rg p).testBit bit = true := by rw [State.irqSts, Nat.testBit_and, hraw, hen, Bool.true_and]
  refine bne_iff_ne.mpr fun none => ?_
  rw [none, Nat.zero_testBit] at both
  exact Bool.false_ne_true both

/-- The first event of a region with nothing pending sends its message, where the page's interrupt is enabled. -/
theorem State.irq_signals (hopen : s.fenced rg = false) (hsig : s.Signals (regionVector rg)) (hmem : p ∈ regionPages rg)
    (hshadow : shadowPage p = false) (hquiet : ∀ q ∈ regionPages rg, s.rd rg (F.HDR_IRQ_RAW q) = 0) (hbit : bit < 32)
    (hen : bitAt (s.rd rg (F.HDR_IRQ_EN p)) bit = true) : ∃ a d, (s.irq rg p bit).out = s.out ++ [.msix (regionVector rg) a d] := by
  let traced := s.traceEvent rg p bit
  let raised := traced.wr rg (F.HDR_IRQ_RAW p) (s.rd rg (F.HDR_IRQ_RAW p) ||| 2 ^ bit)
  have before : traced.regionPending rg = false := State.regionPending_quiet hquiet
  have after : raised.regionPending rg = true := by
    refine State.regionPending_of_bit (p := p) (bit := bit) hopen hmem ?_ ?_
    · rw [State.rd_wr_self, show (F.HDR_IRQ_RAW p).width = 32 from rfl, Nat.testBit_mod_two_pow, Nat.testBit_or, Nat.testBit_two_pow_self]
      simp [hbit]
    · rw [State.rd_wr_apart _ _ (irqEn_apart_irqRaw (regionPages_lt p hmem)), ← bitAt_eq_testBit]
      exact hen
  have sent : s.irq rg p bit = raised.msix (regionVector rg) := by
    simp only [State.irq, hshadow, hopen, Bool.and_false, Bool.false_and, Bool.false_eq_true, if_false, State.setIrqRaw]
    exact if_pos (Bool.and_eq_true_iff.mpr ⟨after, by rw [before]; rfl⟩)
  rw [sent]
  exact State.Signals.msix (s := raised) ⟨⟨hsig.posts.up, hsig.posts.open_⟩, hsig.on⟩

end Sys2Proof.Machine
end

section
/-! PROOF. The first request of data sent to host memory (R302). -/

namespace Sys2Proof.Machine
open Sys2Proof

variable {s : State} {x : CmdSlot} {a : Nat} {data : List Byte}

theorem splitAt_cons {cut n : Nat} (fuel a : Nat) (hn : n ≠ 0) :
    splitAt cut (fuel + 1) a n =
      (a, min n (cut - a % cut)) :: splitAt cut fuel (a + min n (cut - a % cut)) (n - min n (cut - a % cut)) := by
  simp [splitAt, hn]

/-- Data for host memory begins with a write to its address. -/
theorem State.sendPiece_first (h : s.Posts) (hhost : inBar4 x.bar4 a = false) (hdata : data ≠ []) :
    ∃ bytes, s.out ++ [.memWrite a bytes x.chan] <+: (s.sendPiece x a data).out := by
  have length : data.length ≠ 0 := by simpa using hdata
  have part : min data.length (4096 - a % 4096) ≠ 0 := by omega
  simp only [State.sendPiece, hhost, Bool.false_eq_true, if_false]
  rw [splitAt_cons _ _ length, List.foldl_cons, splitAt_cons _ _ part, List.foldl_cons, h.post]
  have posts (l : List (Nat × Nat)) {r u : State} (k : Keeps r u) :
      Keeps r (l.foldl (fun s q => s.post (.memWrite q.1 ((data.drop (q.1 - a)).take q.2) x.chan)) u) :=
    keeps_foldl (fun v q => keeps_post (.refl v) _) l k
  refine ⟨(data.drop (a - a)).take (min (min data.length (4096 - a % 4096)) (s.mps - a % s.mps)), List.IsPrefix.trans ?first
    (keeps_foldl (fun v (p : Nat × Nat) => posts (splitAt v.mps (p.2 / v.mps + 2) p.1 p.2) (.refl v)) _ (posts _ (.refl _))).out⟩
  exact List.prefix_refl _

/-- So does data for one piece of it. -/
theorem State.sendData_first {l : Nat} (h : s.Posts) (hhost : inBar4 x.bar4 a = false) (hdata : data ≠ []) (hl : l ≠ 0)
    (hx : x.pieces = [(a, l)]) : ∃ bytes, s.out ++ [.memWrite a bytes x.chan] <+: (s.sendData x 0 data).out := by
  have length : data.length ≠ 0 := by simpa using hdata
  have pieces : slicePieces x.pieces 0 data.length = [(a, min l data.length)] := by
    rw [hx, slicePieces, if_neg length, if_neg (by omega)]
    rfl
  have taken : data.take (min l data.length) ≠ [] := by
    rw [Ne, List.take_eq_nil_iff]
    exact not_or_intro (by omega) hdata
  simp only [State.sendData, pieces, List.foldl_cons, List.foldl_nil]
  exact State.sendPiece_first h hhost taken

end Sys2Proof.Machine
end

section
/-! PROOF. The statement about Transform fails on a device with a coded block that fails its check: the interrupt of the check leaves before
the output does (R282, R291, R466). -/

namespace Sys2Proof.Machine
open Sys2Proof

variable {s : State} {c : Fin 16} {set : CoderSet} {block : List Byte}

/-! One block coded. -/

theorem compressRun_block (base : Nat) {window : Nat} (hw : 0 < window) (hb : block.length = 4096) :
    compressRun set base window (block.length / 4096) 0 block [] = (storedBlock none base (crc32c block) (codeBlock set block), 1) := by
  have whole : block.take 4096 = block := List.take_of_length_le hb.le
  rw [hb, compressRun, if_neg (by simp [hb]; omega), whole]
  rfl

theorem storedBlock_ne_nil (key : Option (List Byte)) (lba crc : Nat) (b : Coded) : storedBlock key lba crc b ≠ [] := by
  simp [storedBlock, headerHead, leBytes]

/-- A coding job over one block codes just that. -/
theorem Transform.codedBlocks_block {j : Transform} {window : Nat} (hw : 0 < window) (hb : block.length = 4096) (hnew : j.blocks = 0)
    (hout : j.out = []) : j.codedBlocks set window block = [codeBlock set block] := by
  have whole : block.take 4096 = block := List.take_of_length_le hb.le
  simp [Transform.codedBlocks, hnew, hout, compressRun_block j.base hw hb, whole]

/-! Settings of the coder. -/

/-- The state with the coder of a channel set. -/
def State.codingBy (s : State) (c : Fin 16) (set : CoderSet) : State :=
  let t := s.wrs (chRg c) [(F.CMP_CTL_HS_EN, b2n set.hs), (F.CMP_CTL_DEFL_EN, b2n set.defl), (F.CMP_CTL_CHECK_EN, b2n set.check),
    (F.CMP_CTL_DEFL_MODE, 0), (F.CMP_CTL_CHAIN, 0)]
  { t with regs := SMap.put t.regs (fieldKey (chRg c) F.CMP_CTL_LAZY) F.CMP_CTL_LAZY.reset set.setting }

/-- The fields of `CMP.CTL`. -/
def coderFields : List Fld :=
  [F.CMP_CTL_HS_EN, F.CMP_CTL_DEFL_EN, F.CMP_CTL_CHECK_EN, F.CMP_CTL_DEFL_MODE, F.CMP_CTL_CHAIN, F.CMP_CTL_LAZY]

/-- A register put as it is touches its field only. -/
theorem TouchesOnly.putReg {fs : List Fld} {r : State} (h : TouchesOnly c fs r s) {f : Fld} (v : Nat) (hf : f.among fs = true) :
    TouchesOnly c fs r { s with regs := SMap.put s.regs (fieldKey (chRg c) f) f.reset v } := by
  obtain ⟨hp, hm⟩ := Fld.among_iff.mp hf
  have placed := Fld.placed_of_inPlace hp
  refine h.trans ⟨fun rg g hg hn => ⟨SMap.get_put_ne _ _ _ _ fun key => hn ?_, SMap.get_put_ne _ _ _ _ (flyKey_ne placed hg)⟩, rfl,
    fun _ _ => rfl⟩
  obtain ⟨region, same⟩ := (fieldKey_inj placed hg).mp key
  exact ⟨region, f, hm, same⟩

theorem State.codingBy_touches : TouchesOnly c coderFields s (s.codingBy c set) :=
  ((TouchesOnly.refl c coderFields s).wrs (gs := [F.CMP_CTL_HS_EN, F.CMP_CTL_DEFL_EN, F.CMP_CTL_CHECK_EN, F.CMP_CTL_DEFL_MODE,
    F.CMP_CTL_CHAIN]) rfl (by decide)).putReg _ (by decide)

theorem State.codingBy_coder (hon : set.on = true) : (s.codingBy c set).coder c true = set := by
  let l := [(F.CMP_CTL_HS_EN, b2n set.hs), (F.CMP_CTL_DEFL_EN, b2n set.defl), (F.CMP_CTL_CHECK_EN, b2n set.check),
    (F.CMP_CTL_DEFL_MODE, 0), (F.CMP_CTL_CHAIN, 0)]
  have shown {f : Fld} {v : Nat} (hm : (f, v) ∈ l) (hf : f.outside [F.CMP_CTL_LAZY] = true) :
      (s.codingBy c set).cr c f = v % 2 ^ f.width :=
    (((TouchesOnly.refl c [F.CMP_CTL_LAZY] (s.wrs (chRg c) l)).putReg set.setting (by decide)).cr hf).trans
      (State.cr_wrs_of_mem (fs := [F.CMP_CTL_HS_EN, F.CMP_CTL_DEFL_EN, F.CMP_CTL_CHECK_EN, F.CMP_CTL_DEFL_MODE, F.CMP_CTL_CHAIN]) rfl
        (by decide) hm)
  have hs := shown (f := F.CMP_CTL_HS_EN) (v := b2n set.hs) (by simp [l]) (by decide)
  have defl := shown (f := F.CMP_CTL_DEFL_EN) (v := b2n set.defl) (by simp [l]) (by decide)
  have check := shown (f := F.CMP_CTL_CHECK_EN) (v := b2n set.check) (by simp [l]) (by decide)
  have mode := shown (f := F.CMP_CTL_DEFL_MODE) (v := 0) (by simp [l]) (by decide)
  have chain := shown (f := F.CMP_CTL_CHAIN) (v := 0) (by simp [l]) (by decide)
  have lazy : (s.codingBy c set).cr c F.CMP_CTL_LAZY = set.setting := SMap.get_put_self _ _ _ _
  have flag (b : Bool) : (b2n b % 2 ^ 1 != 0) = b := by cases b <;> rfl
  have whole : State.coder (s.codingBy c set) c true = ⟨true, set.hs, set.defl, set.check, set.setting⟩ := by
    simp only [State.coder, State.cb, hs, defl, check, mode, chain, lazy]
    exact congr (congr (congr (congrArg (CoderSet.mk true) (flag _)) (flag _)) (flag _)) (by simp)
  rw [whole, ← hon]

/-! A host that waits for the interrupt of the check. -/

/-- A Transform that codes the block at address 0 of host memory. -/
def blockTransform : CmdSlot :=
  { sqid := 1, entry := (List.range 16).map fun i => if i = 0 then 0x81 else if i = 1 then 1 else if i = 14 then 4112 else if i = 15 then 4096 else 0
    pieces := [(0, 4096)], fetched := 0, phase := .routed, chan := some 0, cancel := none, answer := none, bar4 := 0, data := []
    silent := false }

/-- Channel 0 powered with that command before it, and its region's message unmasked for the check's interrupt. -/
def checkedHost : State :=
  { (State.reset.modCh 0 fun x => { x with powered := true, st := .notMounted }).cw 0 (F.HDR_IRQ_EN 0x38) 4 with
    plat := { Plat.off with porst := false }
    front := { Front.off with inReset := false, cfg := [(0x04, 4), (0x50, 0x80000000)], slots := [(0, blockTransform)] }
    tbl := [(tblKey .msix 0 263, 0)] }

theorem checkedHost_ready : checkedHost.ioCmd? 0 0x81 = some (blockTransform, 0) ∧ checkedHost.running (chRg 0) 0x38 = true ∧
    checkedHost.fenced (chRg 0) = false ∧ (∀ q ∈ regionPages (chRg 0), checkedHost.rd (chRg 0) (F.HDR_IRQ_RAW q) = 0) ∧
    checkedHost.rd (chRg 0) (F.HDR_IRQ_EN 0x38) = 4 ∧ checkedHost.out = [] := by
  decide +kernel

theorem checkedHost_signals : checkedHost.Signals (regionVector (chRg 0)) := ⟨⟨by decide +kernel, by decide +kernel⟩, by decide +kernel⟩

/-- The state in which the job runs: its coder set, its counts at 0. -/
def codingHost (set : CoderSet) : State := (checkedHost.codingBy 0 set).wrs (chRg 0) [(F.CMP_XF_IN, 0), (F.CMP_XF_OUT, 0)]

/-- The registers that differ from the host's once a failed check has been counted. -/
def countedFields : List Fld := coderFields ++ [F.CMP_XF_IN, F.CMP_XF_OUT, F.CMP_CHECK_FAIL]

theorem codingHost_counted : TouchesOnly 0 countedFields checkedHost ((codingHost set).incSat (chRg 0) F.CMP_CHECK_FAIL) :=
  ((State.codingBy_touches.mono (List.subset_append_left _ _)).wrs (gs := [F.CMP_XF_IN, F.CMP_XF_OUT]) rfl (by decide)).cw _ (by decide)

theorem irqRaw_outside_counted : ∀ q ∈ regionPages (chRg 0), (F.HDR_IRQ_RAW q).outside countedFields = true := by decide

/-- A block that fails its check interrupts the host (R466). -/
theorem codingHost_interrupts {b : Coded} (hb : b.failed = true) :
    ∃ a d, ((codingHost set).countCoded 0 [b]).out = [.msix (regionVector (chRg 0)) a d] := by
  obtain ⟨-, -, hopen, hquiet, hen, hout⟩ := checkedHost_ready
  let u := (codingHost set).incSat (chRg 0) F.CMP_CHECK_FAIL
  have signals : u.Signals (regionVector (chRg 0)) :=
    ⟨⟨checkedHost_signals.posts.up, checkedHost_signals.posts.open_⟩, checkedHost_signals.on⟩
  have quiet (q : Nat) (hq : q ∈ regionPages (chRg 0)) : u.rd (chRg 0) (F.HDR_IRQ_RAW q) = 0 :=
    (codingHost_counted.cr (irqRaw_outside_counted q hq)).trans (hquiet q hq)
  have enabled : u.rd (chRg 0) (F.HDR_IRQ_EN 0x38) = 4 := (codingHost_counted.cr (by decide)).trans hen
  obtain ⟨a, d, sent⟩ := State.irq_signals (s := u) (p := 0x38) (bit := 2) hopen signals (by decide) rfl quiet (by decide)
    (by rw [enabled]; rfl)
  refine ⟨a, d, ?_⟩
  have counted : ((codingHost set).countCoded 0 [b]).out = (u.irq (chRg 0) 0x38 2).out := by
    simp only [State.countCoded, List.foldl_cons, List.foldl_nil, hb, if_true]
    rfl
  rw [counted, sent, show u.out = [] from hout]
  rfl

/-- The input is the block. -/
theorem blockTransform_gather (hb : block.length = 4096) : s.gather blockTransform c block = block := by
  simp [State.gather, blockTransform, inBar4, padTo, hb, List.take_of_length_le]

/-- A list begins with one thing only. -/
theorem head_eq_of_prefixes {α : Type} {a b : α} {l : List α} (ha : [a] <+: l) (hb : [b] <+: l) : a = b := by
  obtain ⟨x, rfl⟩ := ha
  obtain ⟨y, hy⟩ := hb
  exact (List.cons.inj hy).1.symm

/-- Where the statement holds no check fails: the interrupt of the check and the output would both be the first request of the Transform. -/
theorem codedFormsPass_of_transformsAndPinsRun (h : Obligations.TransformsAndPinsRun) : CodedFormsPass := by
  intro set block hb
  refine Bool.eq_false_iff.mpr fun hfail => ?_
  have hon : set.on = true := by
    refine Bool.of_not_eq_false fun hoff => ?_
    simp [codeBlock, hoff] at hfail
  obtain ⟨hio, hrun, -, -, -, hout⟩ := checkedHost_ready
  let s := checkedHost.codingBy 0 set
  have kept {f : Fld} (hf : f.outside coderFields = true) : s.cr 0 f = checkedHost.cr 0 f := State.codingBy_touches.cr hf
  have running : s.running (chRg 0) 0x38 = true := by
    have en := kept (f := F.HDR_BLK_CTL_EN 0x38) (by decide)
    have quiesce := kept (f := F.HDR_BLK_CTL_QUIESCE 0x38) (by decide)
    simp only [State.cr] at en quiesce
    rw [State.running, en, quiesce]
    exact hrun
  have hx : s.ioCmd? 0 0x81 = some (blockTransform, 0) := hio
  let j : Transform := ⟨true, 0, 0, [], []⟩
  have runs : exec (.transformCompress 0 block) s = .next ((codingHost set).runTransform 0 0 blockTransform j block) := by
    have run := transformCommand_runs (d := block) (j := j) (resume := false) (compress := true) running (by decide) (fun _ => by decide) hx
      rfl ⟨by decide, by decide, by decide⟩ (fun _ => by decide) ⟨rfl, rfl, rfl⟩
    rw [blockTransform_gather hb] at run
    exact congrArg Host.Outcome.next run
  obtain ⟨compress, -, -⟩ := (h s 0 blockTransform 0 block).1 hx running
  obtain ⟨-, -, coded⟩ := compress (by decide) (by decide)
  obtain ⟨t, ht, -, -, sent, -⟩ := coded (by decide) (by decide) ⟨rfl, rfl, rfl⟩ rfl
  obtain rfl : (codingHost set).runTransform 0 0 blockTransform j block = t := Host.Outcome.next.inj (runs.symm.trans ht)
  have message : ∃ a d, [.msix (regionVector (chRg 0)) a d] <+: ((codingHost set).runTransform 0 0 blockTransform j block).out := by
    have coder : (codingHost set).coder 0 true = set := State.freshCounts_coder.trans (State.codingBy_coder hon)
    obtain ⟨a, d, first⟩ := codingHost_interrupts (set := set) hfail
    refine ⟨a, d, ?_⟩
    rw [State.runTransform_coding rfl, coder, Transform.codedBlocks_block (by decide) hb rfl rfl, ← first]
    exact (keeps_endTransform (.refl _) _ _ _ _ _ _ _).out
  have output : ∃ bytes, [.memWrite 0 bytes (some 0)] <+: ((codingHost set).runTransform 0 0 blockTransform j block).out := by
    let data := (compressRun (s.coder 0 true) 0 4112 (block.length / 4096) 0 block []).1.take 4112
    have sent_ne : data ≠ [] := by
      have stored := congrArg Prod.fst (compressRun_block (set := s.coder 0 true) 0 (window := 4112) (by decide) hb)
      rw [show data = _ from congrArg (List.take 4112) stored, Ne, List.take_eq_nil_iff]
      exact not_or_intro (by decide) (storedBlock_ne_nil _ _ _ _)
    obtain ⟨bytes, first⟩ := State.sendData_first (s := s) (x := { blockTransform with pieces := blockTransform.outPieces }) (a := 0) (l := 4112)
      ⟨checkedHost_signals.posts.up, checkedHost_signals.posts.open_⟩ rfl sent_ne (by decide) (by decide)
    rw [blockTransform_gather hb] at sent
    exact ⟨bytes, (show s.out = [] from hout) ▸ first.trans sent⟩
  obtain ⟨a, d, message⟩ := message
  obtain ⟨bytes, output⟩ := output
  cases head_eq_of_prefixes message output

end Sys2Proof.Machine
end

section
/-! PROOF. A half-slot form decodes to the block it was made of, so that its check always passes (R276 to R278, R282). -/

namespace Sys2Proof.Machine
open Sys2Proof

/-! Bytes and words. -/

theorem leBytes_length (n v : Nat) : (leBytes n v).length = n := by
  induction n generalizing v with
  | zero => rfl
  | succ n ih => simp [leBytes, ih]

theorem leNat_leBytes (n v : Nat) : leNat (leBytes n v) = v % 256 ^ n := by
  induction n generalizing v with
  | zero => simp [leBytes, leNat, Nat.mod_one]
  | succ n ih =>
    rw [leBytes, leNat, ih, BitVec.toNat_ofNat, (Nat.pow_succ' : 256 ^ (n + 1) = _)]
    exact Nat.mod_mul.symm

theorem leBytes_leNat (l : List Byte) : leBytes l.length (leNat l) = l := by
  induction l with
  | nil => rfl
  | cons b l ih =>
    have low : BitVec.ofNat 8 (b.toNat + 256 * leNat l) = b := by
      refine BitVec.eq_of_toNat_eq ?_
      rw [BitVec.toNat_ofNat, Nat.add_mul_mod_self_left, Nat.mod_eq_of_lt b.isLt]
    have high : (b.toNat + 256 * leNat l) / 256 = leNat l := by have := b.isLt; omega
    rw [List.length_cons, leNat, leBytes, low, high, ih]

theorem leNat_lt (l : List Byte) : leNat l < 256 ^ l.length := by
  rw [← leBytes_leNat l, leNat_leBytes, leBytes_length]
  exact Nat.mod_lt _ (by positivity)

theorem leWords_length (n : Nat) (l : List Byte) : (leWords n l).length = n := by
  induction n generalizing l with
  | zero => rfl
  | succ n ih => simp [leWords, ih]

theorem leWords_lt (n : Nat) (l : List Byte) : ∀ w ∈ leWords n l, w < 2 ^ 64 := by
  induction n generalizing l with
  | zero => simp [leWords]
  | succ n ih =>
    refine List.forall_mem_cons.mpr ⟨(leNat_lt _).trans_le ?_, ih _⟩
    exact (Nat.pow_le_pow_right (by decide) (List.length_take_le 8 l)).trans (by decide)

/-- The words of bytes are those bytes. -/
theorem leWords_flatMap {n : Nat} {l : List Byte} (h : l.length = 8 * n) : (leWords n l).flatMap (leBytes 8) = l := by
  induction n generalizing l with
  | zero => exact (List.length_eq_zero_iff.mp h).symm
  | succ n ih =>
    have front : (l.take 8).length = 8 := by rw [List.length_take]; omega
    rw [leWords, List.flatMap_cons, ih (by rw [List.length_drop]; omega)]
    have word : leBytes 8 (leNat (l.take 8)) = l.take 8 := by
      have same := leBytes_leNat (l.take 8)
      rwa [front] at same
    rw [word, List.take_append_drop]

/-! Tags. -/

/-- The four tags of a byte. -/
def tagsOf (b : Byte) : List Nat := [bitsAt b.toNat 0 2, bitsAt b.toNat 2 2, bitsAt b.toNat 4 2, bitsAt b.toNat 6 2]

theorem tagBytes_length (n : Nat) (l : List Nat) : (tagBytes n l).length = n := by
  induction n generalizing l with
  | zero => rfl
  | succ n ih => simp [tagBytes, ih]

theorem tagsOf_ofNat {a b c d : Nat} (ha : a < 4) (hb : b < 4) (hc : c < 4) (hd : d < 4) :
    tagsOf (BitVec.ofNat 8 (a + 4 * b + 16 * c + 64 * d)) = [a, b, c, d] := by
  simp only [tagsOf, bitsAt, BitVec.toNat_ofNat]
  refine congr (congrArg _ ?_) (congr (congrArg _ ?_) (congr (congrArg _ ?_) (congrArg (· :: []) ?_))) <;> omega

/-- Tags packed in bytes are read back. -/
theorem tagBytes_tags {n : Nat} {l : List Nat} (hl : l.length = 4 * n) (ht : ∀ t ∈ l, t < 4) : (tagBytes n l).flatMap tagsOf = l := by
  induction n generalizing l with
  | zero => exact (List.length_eq_zero_iff.mp hl).symm
  | succ n ih =>
    match l, hl with
    | a :: b :: c :: d :: l, hl =>
      simp only [List.forall_mem_cons] at ht
      obtain ⟨ha, hb, hc, hd, ht⟩ := ht
      have rest := ih (l := l) (by simp only [List.length_cons] at hl; omega) ht
      rw [tagBytes, List.flatMap_cons]
      exact congrArg₂ (· ++ ·) (tagsOf_ofNat ha hb hc hd) rest

/-! Words. -/

/-- What a word becomes (Table 9-3). -/
theorem hsWord_cases (prev w : Nat) : w = 0 ∧ hsWord prev w = (0, []) ∨ w = prev ∧ hsWord prev w = (1, []) ∨
    ((w + 2 ^ 64 - prev) % 2 ^ 64 < 2 ^ 31 ∨ 2 ^ 64 - 2 ^ 31 ≤ (w + 2 ^ 64 - prev) % 2 ^ 64) ∧
      hsWord prev w = (2, leBytes 4 ((w + 2 ^ 64 - prev) % 2 ^ 64)) ∨ hsWord prev w = (3, leBytes 8 w) := by
  by_cases h0 : w = 0
  · exact .inl ⟨h0, if_pos h0⟩
  by_cases hp : w = prev
  · exact .inr (.inl ⟨hp, (if_neg h0).trans (if_pos hp)⟩)
  by_cases hd : (w + 2 ^ 64 - prev) % 2 ^ 64 < 2 ^ 31 ∨ 2 ^ 64 - 2 ^ 31 ≤ (w + 2 ^ 64 - prev) % 2 ^ 64
  · exact .inr (.inr (.inl ⟨hd, (if_neg h0).trans ((if_neg hp).trans (if_pos hd))⟩))
  · exact .inr (.inr (.inr ((if_neg h0).trans ((if_neg hp).trans (if_neg hd)))))

theorem hsWord_tag_lt (prev w : Nat) : (hsWord prev w).1 < 4 := by
  rcases hsWord_cases prev w with ⟨-, e⟩ | ⟨-, e⟩ | ⟨-, e⟩ | e <;> simp [e]

theorem hsWord_size (prev w : Nat) : tagSize (hsWord prev w).1 = (hsWord prev w).2.length := by
  rcases hsWord_cases prev w with ⟨-, e⟩ | ⟨-, e⟩ | ⟨-, e⟩ | e <;> rw [e] <;> simp [tagSize, leBytes_length]

theorem hsWords_length (prev : Nat) (ws : List Nat) : (hsWords prev ws).length = ws.length := by
  induction ws generalizing prev with
  | nil => rfl
  | cons w ws ih => simp [hsWords, ih]

theorem hsWords_tag_lt (prev : Nat) (ws : List Nat) : ∀ t ∈ (hsWords prev ws).map (·.1), t < 4 := by
  induction ws generalizing prev with
  | nil => simp [hsWords]
  | cons w ws ih => exact List.forall_mem_cons.mpr ⟨hsWord_tag_lt prev w, ih w⟩

theorem hsWords_size (prev : Nat) (ws : List Nat) :
    (((hsWords prev ws).map (·.1)).map tagSize).sum = ((hsWords prev ws).flatMap (·.2)).length := by
  induction ws generalizing prev with
  | nil => rfl
  | cons w ws ih => simp only [hsWords, List.map_cons, List.sum_cons, List.flatMap_cons, List.length_append, hsWord_size, ih]

/-- A small difference in 32 bits leads from the word before to the word. -/
theorem add_toSigned_delta {prev w : Nat} (hp : prev < 2 ^ 64) (hw : w < 2 ^ 64)
    (h : (w + 2 ^ 64 - prev) % 2 ^ 64 < 2 ^ 31 ∨ 2 ^ 64 - 2 ^ 31 ≤ (w + 2 ^ 64 - prev) % 2 ^ 64) :
    (((prev : Int) + toSigned 32 (leNat (leBytes 4 ((w + 2 ^ 64 - prev) % 2 ^ 64)))) % (2 ^ 64 : Nat)).toNat = w := by
  rw [leNat_leBytes, toSigned]
  split <;> omega

/-- A word is rebuilt from its tag, its payload and the word before it (R278). -/
theorem hsRebuild_word {prev w : Nat} (hp : prev < 2 ^ 64) (hw : w < 2 ^ 64) (ts : List Nat) (rest : List Byte) :
    hsRebuild ((hsWord prev w).1 :: ts) prev ((hsWord prev w).2 ++ rest) = w :: hsRebuild ts w rest := by
  rcases hsWord_cases prev w with ⟨h, e⟩ | ⟨h, e⟩ | ⟨h, e⟩ | e
  · rw [e, h]
    rfl
  · rw [e, h]
    rfl
  · have word := add_toSigned_delta hp hw h
    rw [e]
    generalize (w + 2 ^ 64 - prev) % 2 ^ 64 = d at word
    simp only [hsRebuild, List.take_left' (leBytes_length 4 d), List.drop_left' (leBytes_length 4 d), word]
  · have word : leNat (leBytes 8 w) = w := (leNat_leBytes 8 w).trans (Nat.mod_eq_of_lt hw)
    simp only [e, hsRebuild, List.take_left' (leBytes_length 8 w), List.drop_left' (leBytes_length 8 w), word]

theorem hsRebuild_words {prev : Nat} {ws : List Nat} (hp : prev < 2 ^ 64) (hw : ∀ w ∈ ws, w < 2 ^ 64) (rest : List Byte) :
    hsRebuild ((hsWords prev ws).map (·.1)) prev ((hsWords prev ws).flatMap (·.2) ++ rest) = ws := by
  induction ws generalizing prev with
  | nil => rfl
  | cons w ws ih =>
    obtain ⟨hw, hws⟩ := List.forall_mem_cons.mp hw
    simp only [hsWords, List.map_cons, List.flatMap_cons, List.append_assoc]
    rw [hsRebuild_word hp hw, ih hw hws]

/-- A half-slot form decodes to its block. -/
theorem hsDecode_hsEncode {block h : List Byte} (hb : block.length = 4096) (he : hsEncode block = some h) : hsDecode h = some block := by
  simp only [hsEncode] at he
  split at he
  · cases he
  next fits =>
    obtain rfl := Option.some.inj he
    let ws := hsWords 0 (leWords 512 block)
    have packed : (tagBytes 128 (ws.map (·.1))).length = 128 := tagBytes_length _ _
    have tags : (tagBytes 128 (ws.map (·.1))).flatMap tagsOf = ws.map (·.1) :=
      tagBytes_tags (by simp [ws, hsWords_length, leWords_length]) (hsWords_tag_lt _ _)
    have words := hsRebuild_words (prev := 0) (ws := leWords 512 block) (by decide) (leWords_lt 512 block)
      (zeros (1920 - (ws.flatMap (·.2)).length))
    simp only [hsDecode, List.append_assoc]
    rw [List.take_left' packed, List.drop_left' packed]
    change (if (((tagBytes 128 (ws.map (·.1))).flatMap tagsOf).map tagSize).sum > 1920 then none
      else some ((hsRebuild ((tagBytes 128 (ws.map (·.1))).flatMap tagsOf) 0 _).flatMap (leBytes 8))) = some block
    rw [tags, if_neg (by rw [hsWords_size]; exact fits), words, leWords_flatMap hb]

end Sys2Proof.Machine
end

section
/-! PROOF. What O43 comes to: it holds exactly where the DEFLATE streams of the device, an opaque constant of the model, pass the check of
R282. It is neither proved nor refuted, for no proof can see that constant. -/

namespace Sys2Proof.Machine
open Sys2Proof

/-- Every DEFLATE stream that R280 accepts decodes to bytes with the check value of the block it was made of. -/
def DeflateStreamsPass : Prop := ∀ (setting : Nat) (block : List Byte), block.length = 4096 →
  1 ≤ (Config.deflate setting block).length → (Config.deflate setting block).length ≤ 4080 →
  ∃ e, inflate (Config.deflate setting block) = some e ∧ crc32c e = crc32c block

theorem checkOk_checked {set : CoderSet} {block : List Byte} {decoded : Option (List Byte)} (hc : set.check = true) :
    checkOk set block decoded = true ↔ ∃ e, decoded = some e ∧ crc32c e = crc32c block := by
  cases decoded <;> simp [checkOk, hc]

theorem checkOk_of_decoded {set : CoderSet} {block e : List Byte} (h : crc32c e = crc32c block) : checkOk set block (some e) = true := by
  simp [checkOk, h]

theorem deflForm_eq_some {set : CoderSet} {block d : List Byte} : deflForm set block = some d ↔
    set.defl = true ∧ 1 ≤ d.length ∧ d.length ≤ 4080 ∧ Config.deflate set.setting block = d := by
  simp only [deflForm, Option.ite_none_right_eq_some, Bool.and_eq_true, decide_eq_true_eq, Option.some.injEq]
  constructor
  · rintro ⟨⟨⟨hdefl, hmin⟩, hmax⟩, rfl⟩
    exact ⟨hdefl, hmin, hmax, rfl⟩
  · rintro ⟨hdefl, hmin, hmax, rfl⟩
    exact ⟨⟨⟨hdefl, hmin⟩, hmax⟩, rfl⟩

/-- A half-slot form always passes, so the checks are those of the DEFLATE streams. -/
theorem codedFormsPass_iff : CodedFormsPass ↔ DeflateStreamsPass := by
  constructor
  · intro hp setting block hb hmin hmax
    let set : CoderSet := ⟨true, false, true, true, setting⟩
    have form : deflForm set block = some (Config.deflate setting block) := deflForm_eq_some.mpr ⟨rfl, hmin, hmax, rfl⟩
    have pass := hp set block hb
    by_contra hfail
    have bad : ¬ checkOk set block (inflate (Config.deflate setting block)) = true := fun h => hfail ((checkOk_checked rfl).mp h)
    simp [codeBlock, set, form, bad] at pass
  · intro hp set block hb
    unfold codeBlock
    split
    · rfl
    split
    next h he =>
      have half : hsEncode block = some h := by
        split at he
        · exact he
        · cases he
      rw [hsDecode_hsEncode hb half, if_pos (checkOk_of_decoded rfl)]
    next =>
      split
      next d hd =>
        obtain ⟨-, hmin, hmax, rfl⟩ := deflForm_eq_some.mp hd
        obtain ⟨e, he, hcrc⟩ := hp set.setting block hb hmin hmax
        rw [he, if_pos (checkOk_of_decoded hcrc)]
      next => rfl

/-- O43 holds exactly where the device's DEFLATE streams pass their check: a failed check interrupts the host before the output of the
Transform leaves, and the statement has the output leave first. -/
theorem transformsAndPinsRun_iff : Obligations.TransformsAndPinsRun ↔ DeflateStreamsPass :=
  ⟨fun h => codedFormsPass_iff.mp (codedFormsPass_of_transformsAndPinsRun h),
    fun h => transformsAndPinsRun_of_codedFormsPass (codedFormsPass_iff.mpr h)⟩

end Sys2Proof.Machine
end

section
/-! PROOF. Every command keeps the waiting commands and what has left the device: each by the lemma of the operation it runs. -/

namespace Sys2Proof.Machine
open Sys2Proof

section Answers
variable {s t u : State}

/-- What holds of the state a command answers holds of its next state. -/
theorem keeps_of_next (k : Keeps s u) (h : (.next u : HRes) = .next t) : Keeps s t := by
  cases h
  exact k

/-- A register write that starts something keeps what its effect keeps, reached or not. -/
theorem keeps_of_gated {src : Src} {rg page off v : Nat} {f : State → State}
    (h : (.next (s.gated src rg page off v f) : HRes) = .next t) (hf : ∀ x, Keeps x (f x)) :
    Keeps s t := keeps_of_next (keeps_gated (.refl s) src rg page off v f hf) h

theorem keeps_of_gatedIrq {src : Src} {rg page off v : Nat} {f : State → State}
    (h : (.next (s.gatedIrq src rg page off v f) : HRes) = .next t) (hf : ∀ x, Keeps x (f x)) :
    Keeps s t := keeps_of_next (keeps_gatedIrq (.refl s) src rg page off v f hf) h

/-- A block's event keeps what its work keeps, whether or not the block takes new work. -/
theorem keeps_of_running {rg page : Nat} {f : State → State}
    (h : (.next (s.whileRunning rg page f) : HRes) = .next t) (hf : ∀ x, Keeps x (f x)) :
    Keeps s t := keeps_of_next (keeps_whileRunning (.refl s) rg page f hf) h

end Answers

theorem exec_keeps {s t : State} {i : Instr} (h : exec i s = .next t) : Keeps s t := by
  cases i with
  -- Register writes that start something.
  | swapRequest => exact keeps_of_gated h fun x => keeps_swapRequest (.refl x) ..
  | groupSwapRequest => exact keeps_of_gated h fun x => keeps_groupSwapRequest (.refl x) ..
  | swapCancel => exact keeps_of_gated h fun x => keeps_endSwap (.refl x) ..
  | blockSoftReset => exact keeps_of_gated h fun x => keeps_blockSoftReset (.refl x) ..
  | blockResume => exact keeps_of_gated h fun x => keeps_blockResume (.refl x) ..
  | irqStatusClear => exact keeps_of_gatedIrq h fun x => keeps_irqStatusClear (.refl x) ..
  | irqTest => exact keeps_of_gatedIrq h fun x => keeps_irqTest (.refl x) ..
  | scrubGo => exact keeps_of_gated h fun x => keeps_scrubGo (.refl x) ..
  | scrubStop => exact keeps_of_gated h fun x => keeps_scrubStop (.refl x) ..
  | checkpointNow => exact keeps_of_gated h fun x => keeps_checkpointNow (.refl x) ..
  | mapProbe => exact keeps_of_gated h fun x => keeps_mapProbe (.refl x) ..
  | ltcRangeInvalidation | ltcAddressInvalidation => exact keeps_of_gated h fun x => keeps_invGo (.refl x) ..
  | writeStop => exact keeps_of_gated h fun x => keeps_orderlyStop (.refl x) ..
  | hostLaserTransaction => exact keeps_of_gated h fun x => keeps_hostLaser (.refl x) ..
  | readLevelWrite => exact keeps_of_gated h fun x => keeps_readLevel (.refl x) ..
  | ldiKill => exact keeps_of_gated h fun x => keeps_ldiKill (.refl x) ..
  | testAreaRun => exact keeps_of_gated h fun x => keeps_testAreaRun (.refl x) ..
  | slotCommandOff | slotCommandOpen | slotCommandAcquire | slotCommandClosed | slotCommandHold =>
    exact keeps_of_gated h fun x => keeps_slotCmdWrite (.refl x) ..
  | coefficientWrite => exact keeps_of_gated h fun x => keeps_coefWrite (.refl x) ..
  | tgtWrite => exact keeps_of_gated h fun x => keeps_tgtWrite (.refl x) ..
  | eqDataWrite => exact keeps_of_gated h fun x => keeps_eqDataWrite (.refl x) ..
  | cleEnable => exact keeps_of_gated h fun x => keeps_cleEnable (.refl x) ..
  | layerJump => exact keeps_of_gated h fun x => keeps_layerJump (.refl x) ..
  | strandJump => exact keeps_of_gated h fun x => keeps_strandJump (.refl x) ..
  | calibrationSweep => exact keeps_of_gated h fun x => keeps_sweepStart (.refl x) ..
  | spindleStart => exact keeps_of_gated h fun x => keeps_spinStart (.refl x) ..
  | spindleStop => exact keeps_of_gated h fun x => keeps_spinStop (.refl x) ..
  | spindleCoast => exact keeps_of_gated h fun x => keeps_spinCoast (.refl x) ..
  | spindleClearFault => exact keeps_of_gated h fun x => keeps_spinClearFault (.refl x) ..
  | commutationTableWrite => exact keeps_of_gated h fun x => keeps_tblWrite (.refl x) ..
  | sledMove => exact keeps_of_gated h fun x => keeps_sledMove (.refl x) ..
  | sledStop => exact keeps_of_gated h fun x => keeps_sledStop (.refl x) ..
  | sledHome => exact keeps_of_gated h fun x => keeps_sledHome (.refl x) ..
  | sledEnergise => exact keeps_of_gated h fun x => keeps_sledEnergise (.refl x) ..
  | sledRelease => exact keeps_of_gated h fun x => keeps_sledRelease (.refl x) ..
  | sledClearFault => exact keeps_of_gated h fun x => keeps_sledClearFault (.refl x) ..
  | calForce => exact keeps_of_gated h fun x => keeps_calDue (.refl x) ..
  | setValidWrite => exact keeps_of_gated h fun x => keeps_setValid (.refl x) ..
  | pdeltaWrite => exact keeps_of_gated h fun x => keeps_pdeltaWrite (.refl x) ..
  | histogramConfigWrite => exact keeps_of_gated h fun x => keeps_histConfigWrite (.refl x) ..
  | counterClear => exact keeps_of_gated h fun x => keeps_counterClear (.refl x) ..
  | xtsSelftest => exact keeps_of_gated h fun x => keeps_xtsSelftest (.refl x) ..
  | snapshot => exact keeps_of_gated h fun x => keeps_snapshotOp (.refl x) ..
  | trimWrite => exact keeps_of_gated h fun x => keeps_wrs (.refl x) ..
  -- Units of the work of a block.
  | mediaOperationSelect => exact keeps_of_running h fun x => keeps_operationSelect (.refl x) ..
  | clusterAssembly => exact keeps_of_running h fun x => keeps_clusterAssembly (.refl x) ..
  | adipWord => exact keeps_of_running h fun x => keeps_adipWord (.refl x) ..
  | statusPoll => exact keeps_of_running h fun x => keeps_statusPoll (.refl x) ..
  | zoneTableFetch => exact keeps_of_running h fun x => keeps_zoneFetch (.refl x) ..
  | frameSync => exact keeps_of_running h fun x => keeps_frameSync (.refl x) ..
  | alignmentChoice => exact keeps_of_running h fun x => keeps_alignmentChoice (.refl x) ..
  | adaptiveBlockUpdate => exact keeps_of_running h fun x => keeps_adaptBlock (.refl x) ..
  | ldpcDecode => exact keeps_of_running h fun x => keeps_ldpcDecode (.refl x) ..
  | captureRead => exact keeps_of_running h fun x => keeps_captureRead (.refl x) ..
  | retryStep => exact keeps_of_running h fun x => keeps_retryStep (.refl x) ..
  | sledTick => exact keeps_of_running h fun x => keeps_sledTick (.refl x) ..
  | generationFormed => exact keeps_of_running h fun x => keeps_generationFormed (.refl x) ..
  -- Commands of a slot, where it holds one of their kind.
  | createIoSq | deleteIoSq | createIoCq | deleteIoCq | abort | getFeatures | asyncEventRequest | firmwareDownload
  | firmwareCommitReplace | firmwareCommitReplaceActivate | firmwareCommitAtReset | keyLoad | keyDiscard | keyList | setFeatures =>
    unfold exec at h
    dsimp only [execCreateIoSq, execDeleteIoSq, execCreateIoCq, execDeleteIoCq, execAbort, execGetFeatures, execAsyncEventRequest,
      execFirmwareDownload, execFirmwareCommitReplace, execFirmwareCommitReplaceActivate, execFirmwareCommitAtReset, execKeyLoad,
      execKeyDiscard, execKeyList, execSetFeatures] at h
    split at h <;> cases h <;> simp only [Keeps.refl, keeps_createSq, keeps_deleteSq, keeps_createCq, keeps_deleteCq, keeps_abortCmd,
      keeps_getFeature, keeps_aerCmd, keeps_firmwareDownload, keeps_commitReplace, keeps_commitAtReset, keeps_keyLoad, keeps_keyDiscard,
      keeps_keyList, keeps_setFeature, keeps_shed]
  | getLogPage | firmwareCommitNow | unmount | sealDisc | serviceIsolate | servicePowerDown | serviceRestore | serviceReload
  | calLoadSet | calClearSet | calPowerRun | calServoSweep | calReadBack | write | read | verify | mediaProbe | identify | keyRewrap
  | mount | flush =>
    cases h
    (repeat' split) <;> simp only [Keeps.refl, keeps_getLogPage, keeps_commitNow, keeps_unmountCommand, keeps_sealCommand, keeps_isolate,
      keeps_serviceDown, keeps_serviceRestore, keeps_serviceReload, keeps_loadSet, keeps_clearSet, keeps_powerRun, keeps_servoSweep,
      keeps_readBack, keeps_writeCommand, keeps_readCommand, keeps_probeCommand, keeps_identify, keeps_keyRewrap, keeps_mountCommand,
      keeps_flushCommand, keeps_finish, keeps_executing]
  -- Everything else.
  | mountComplete => exact keeps_of_next (keeps_mountComplete (.refl s) ..) h
  | transformCompress | transformDecompress | transformResume => exact keeps_of_next (keeps_transformCommand (.refl s) ..) h
  | pinRangePin | pinRangeUnpin => exact keeps_of_next (keeps_pinRange (.refl s) ..) h
  | sqDoorbell => exact keeps_of_next (keeps_sqDoorbell (.refl s) ..) h
  | commandFetch => exact keeps_of_next (keeps_commandFetch (.refl s) ..) h
  | cqDoorbell => exact keeps_of_next (keeps_cqDoorbell (.refl s) ..) h
  | completionRecord => exact keeps_of_next (keeps_completionRecord (.refl s) ..) h
  | cancelRequest => exact keeps_of_next (keeps_cancelRequest (.refl s) ..) h
  | cancelAnswer => exact keeps_of_next (keeps_cancelAnswer (.refl s) ..) h
  | mediaOperationAdmit => exact keeps_of_next (keeps_operationAdmit (.refl s) ..) h
  | operationAged => exact keeps_of_next (keeps_operationAged (.refl s) ..) h
  | readPreempt => exact keeps_of_next (keeps_readPreempt (.refl s) ..) h
  | commandTimeLimit => exact keeps_of_next (keeps_commandTimeLimit (.refl s) ..) h
  | linkTraining => exact keeps_of_next (keeps_linkTraining (.refl s) ..) h
  | perst => exact keeps_of_next (keeps_perst (.refl s) ..) h
  | configurationRequest => exact keeps_of_next (keeps_configurationRequest (.refl s) ..) h
  | readCompletion => exact keeps_of_next (keeps_readCompletion (.refl s) ..) h
  | completionTimeout => exact keeps_of_next (keeps_completionTimeout (.refl s) ..) h
  | windowWrite => exact keeps_of_next (keeps_windowWrite (.refl s) ..) h
  | windowRead => exact keeps_of_next (keeps_windowRead (.refl s) ..) h
  | msixVectorUnmask => exact keeps_of_next (keeps_msixUnmask (.refl s) ..) h
  | registerWrite => exact keeps_of_next (keeps_registerWrite (.refl s) ..) h
  | flysheetSwap => exact keeps_of_next (keeps_flysheetSwap (.refl s) ..) h
  | flysheetReloadDone => exact keeps_of_next (keeps_flysheetReloadDone (.refl s) ..) h
  | pwrWake => exact keeps_of_next (keeps_pwrWake (.refl s) ..) h
  | bivouacEntry => exact keeps_of_next (keeps_bivouacEntry (.refl s) ..) h
  | wakeComplete => exact keeps_of_next (keeps_wakeComplete (.refl s) ..) h
  | discPresentChange => exact keeps_of_next (keeps_discPresentChange (.refl s) ..) h
  | loadRequestChange => exact keeps_of_next (keeps_loadRequestChange (.refl s) ..) h
  | powerEarlyWarning => exact keeps_of_next (keeps_powerEarlyWarning (.refl s) ..) h
  | brownout => exact keeps_of_next (keeps_brownout (.refl s) ..) h
  | porstDeassert => exact keeps_of_next (keeps_porstDeassert (.refl s) ..) h
  | channelPowerUp => exact keeps_of_next (keeps_channelPowerUp (.refl s) ..) h
  | powerOnFillDone => exact keeps_of_next (keeps_fillDone (.refl s) ..) h
  | trainingFailure => exact keeps_of_next (keeps_trainingFailure (.refl s) ..) h
  | channelPllLoss => exact keeps_of_next (keeps_channelPllLoss (.refl s) ..) h
  | thermalSample => exact keeps_of_next (keeps_thermalSample (.refl s) ..) h
  | stewardWatchdog => exact keeps_of_next (keeps_stewardWatchdog (.refl s) ..) h
  | standbyReady => exact keeps_of_next (keeps_standbyReady (.refl s) ..) h
  | sramUncorrectable => exact keeps_of_next (keeps_sramUncorrectable (.refl s) ..) h
  | sramCorrectable => exact keeps_of_next (keeps_sramCorrectable (.refl s) ..) h
  | registerFileParity => exact keeps_of_next (keeps_registerFileParity (.refl s) ..) h
  | flitReplay => exact keeps_of_next (keeps_flitReplay (.refl s) ..) h
  | linkRetrain => exact keeps_of_next (keeps_linkRetrain (.refl s) ..) h
  | linkRetrainDone => exact keeps_of_next (keeps_linkRetrainDone (.refl s) ..) h
  | laneRepair => exact keeps_of_next (keeps_laneRepair (.refl s) ..) h
  | parkingDone => exact keeps_of_next (keeps_parkingDone (.refl s) ..) h
  | debugChallenge => exact keeps_of_next (keeps_newChallenge (.refl s) ..) h
  | resp => exact keeps_of_next (keeps_debugResponse (.refl s) ..) h
  | smbUnknownCode | smbVendorId | smbDeviceId | smbSiliconRevision | smbCompositeTemperature | smbThermalLevel | smbBoot | smbResetCause
  | smbFrontEnd | smbBundleVersion | smbSerialNumber | smbFencesClosed | smbChannelsInBivouac | smbChannelsMounted | smbDiscPresent =>
    exact keeps_of_next (keeps_smbRead (.refl s) ..) h
  | checkpointDue => exact keeps_of_next (keeps_checkpointDue (.refl s) ..) h
  | writeStaged => exact keeps_of_next (keeps_writeStaged (.refl s) ..) h
  | writeBufferWaitEnd => exact keeps_of_next (keeps_bufferWaitEnd (.refl s) ..) h
  | assemblyIdleTimeout => exact keeps_of_next (keeps_assemblyIdle (.refl s) ..) h
  | clusterCommitment => exact keeps_of_next (keeps_commitment (.refl s) ..) h
  | writeClockLock => exact keeps_of_next (keeps_writeClockLock (.refl s) ..) h
  | orderlyStop => exact keeps_of_next (keeps_orderlyEnd (.refl s) ..) h
  | offTrack | defocus => exact keeps_of_next (keeps_safetyStop (.refl s) ..) h
  | wobblePllUnlock => exact keeps_of_next (keeps_wobbleUnlock (.refl s) ..) h
  | adipLoss => exact keeps_of_next (keeps_adipLoss (.refl s) ..) h
  | laserTransaction => exact keeps_of_next (keeps_laserAnswer (.refl s) ..) h
  | laserLinkError => exact keeps_of_next (keeps_laserLinkError (.refl s) ..) h
  | laserDriverFault => exact keeps_of_next (keeps_driverFault (.refl s) ..) h
  | killLineExternal => exact keeps_of_next (keeps_killExternal (.refl s) ..) h
  | killLatchClear => exact keeps_of_next (keeps_killLatchClear (.refl s) ..) h
  | testRunDone => exact keeps_of_next (keeps_testRunDone (.refl s) ..) h
  | brambleFlagStart | brambleFlagEnd => exact keeps_of_next (keeps_brambleFlag (.refl s) ..) h
  | defLong => exact keeps_of_next (keeps_defLong (.refl s) ..) h
  | retryBudgetExpired => exact keeps_of_next (keeps_budgetExpired (.refl s) ..) h
  | acquisitionCapture => exact keeps_of_next (keeps_capture (.refl s) ..) h
  | acquisitionFailure => exact keeps_of_next (keeps_acqFail (.refl s) ..) h
  | loss => exact keeps_of_next (keeps_slotLoss (.refl s) ..) h
  | guylineArm => exact keeps_of_next (keeps_guylineArm (.refl s) ..) h
  | implausible => exact keeps_of_next (keeps_slotImplausible (.refl s) ..) h
  | ffBinEnd => exact keeps_of_next (keeps_ffBinEnd (.refl s) ..) h
  | cleFault => exact keeps_of_next (keeps_cleFault (.refl s) ..) h
  | layerJumpTimeout => exact keeps_of_next (keeps_jumpFail (.refl s) ..) h
  | layerJumpDone => exact keeps_of_next (keeps_layerJumpDone (.refl s) ..) h
  | strandJumpTimeout => exact keeps_of_next (keeps_tjumpFail (.refl s) ..) h
  | strandJumpDone => exact keeps_of_next (keeps_strandJumpDone (.refl s) ..) h
  | sweepDone => exact keeps_of_next (keeps_sweepDone (.refl s) ..) h
  | catchWindowEnd => exact keeps_of_next (keeps_catchEnd (.refl s) ..) h
  | observerLock => exact keeps_of_next (keeps_observerLock (.refl s) ..) h
  | startFail => exact keeps_of_next (keeps_startFail (.refl s) ..) h
  | handoverEnd => exact keeps_of_next (keeps_handoverEnd (.refl s) ..) h
  | speedGap => exact keeps_of_next (keeps_speedGap (.refl s) ..) h
  | chopFault => exact keeps_of_next (keeps_chopFault (.refl s) ..) h
  | overvoltage | undervoltage | overcurrent => exact keeps_of_next (keeps_spinFault (.refl s) ..) h
  | sampleLoss => exact keeps_of_next (keeps_sampleLoss (.refl s) ..) h
  | moveDone => exact keeps_of_next (keeps_moveDone (.refl s) ..) h
  | stopDone => exact keeps_of_next (keeps_stopEnd (.refl s) ..) h
  | homeSwitchEdge => exact keeps_of_next (keeps_homeEdge (.refl s) ..) h
  | homeFail => exact keeps_of_next (keeps_homeFail (.refl s) ..) h
  | pickupTemperatureSample => exact keeps_of_next (keeps_pickupTemp (.refl s) ..) h
  | recompTimer => exact keeps_of_next (keeps_calDue (.refl s) ..) h
  | generationApply => exact keeps_of_next (keeps_generationApply (.refl s) ..) h
  | registerRead => exact keeps_of_next (keeps_registerRead (.refl s) ..) h
  | gpioEdge => exact keeps_of_next (keeps_gpioEdge (.refl s) ..) h
  | wobblePllLock => exact keeps_of_next (keeps_wobbleLock (.refl s) ..) h
  | coalescingTimeExpiry => exact keeps_of_next (keeps_coalescingExpiry (.refl s) ..) h
  | channelImageLoaded => exact keeps_of_next (keeps_channelImageLoaded (.refl s) ..) h
  | controllerEnable => exact keeps_of_next (keeps_controllerEnable (.refl s) ..) h
  | controllerReset => exact keeps_of_next (keeps_controllerReset (.refl s) ..) h
  | normalShutdown => exact keeps_of_next (keeps_normalShutdown (.refl s) ..) h
  | shutdownDeadline => exact keeps_of_next (keeps_shutdownDeadline (.refl s) ..) h
  | abruptShutdown => exact keeps_of_next (keeps_abruptShutdown (.refl s) ..) h
  | perstDeassert => exact keeps_of_next (keeps_perstDeassert (.refl s) ..) h
  | functionLevelReset => exact keeps_of_next (keeps_functionLevelReset (.refl s) ..) h
  | busMasterEnableClear => exact keeps_of_next (keeps_bmeClear (.refl s) ..) h
  | busMasterEnableSet => exact keeps_of_next (keeps_bmeSet (.refl s) ..) h
  | earlyWarningEnd => exact keeps_of_next (keeps_earlyWarningEnd (.refl s) ..) h
  | porstAssert => exact keeps_of_next (keeps_porstAssert (.refl s) ..) h
  | bootVerify => exact keeps_of_next (keeps_bootAndRelease (.refl s) ..) h
  | portPllLoss => exact keeps_of_next (keeps_portPllLoss (.refl s) ..) h
  | referenceLoss => exact keeps_of_next (keeps_referenceLoss (.refl s) ..) h
  | xoStop => exact keeps_of_next (keeps_xoStop (.refl s) ..) h
  | thermalTrip => exact keeps_of_next (keeps_thermalTrip (.refl s) ..) h
  | tamperAssert => exact keeps_of_next (keeps_tamperAssert (.refl s) ..) h
  | state => exact keeps_of_next (keeps_answer (.refl s) ..) h
  | bucketLeak => exact keeps_of_next (keeps_cw (.refl s) ..) h
  | lockstepMismatch => exact keeps_of_next (keeps_failover (.refl s) ..) h
  | flrComplete => exact keeps_of_next (keeps_modFront (.refl s) ..) h
  | tamperRelease => exact keeps_of_next (keeps_modSec (.refl s) ..) h
  | oscillatorCheck | zqCalibration => exact keeps_of_next (.refl s) h
  | blockQuiesce | blockDisable => exact keeps_of_gated h fun x => keeps_ite (.refl x) (keeps_wr (.refl x) ..)
  | dramRetrain => exact keeps_of_gated h .refl
  | mmClear => exact keeps_of_gated h fun x => keeps_ite (keeps_histClearMM (.refl x) ..) (.refl x)
  | histogramClear => exact keeps_of_gated h fun x => keeps_ite (keeps_histClearBins (.refl x) ..) (.refl x)
  | satClear => exact keeps_of_gated h fun x => keeps_cw (.refl x) ..
  | scrubPassEnd =>
    exact keeps_of_running h fun x => keeps_ite (keeps_scrubEnd (keeps_scrubAdvance (.refl x) ..) ..) (.refl x)
  | missWalkReturn => exact keeps_of_running h fun x => keeps_ite (keeps_missReturn (.refl x) ..) (.refl x)
  | evictionWriteback => exact keeps_of_running h fun x => keeps_ite (keeps_evictOne (.refl x) ..) (.refl x)
  | writeSessionStart =>
    exact keeps_of_running h fun x => keeps_whileRunning (.refl x) _ _ _ fun y => keeps_sessionStart (.refl y) ..
  | servoSample =>
    exact keeps_of_running h fun x => keeps_whileRunning (.refl x) _ _ _ fun y => keeps_servoSample (.refl y) ..
  | verifyVerdict => exact keeps_of_running h fun x => keeps_progress (keeps_verdict (.refl x) ..) _
  | pwmPeriod => exact keeps_of_running h fun x => keeps_pwmPeriod (keeps_spinAgain (.refl x) _) ..
  | checkpointDone => exact keeps_of_next (keeps_progress (keeps_checkpointDone (.refl s) _) _) h
  | stopped => exact keeps_of_next (keeps_progress (keeps_spinStopped (.refl s) _) _) h
  | coastWaitExpiry => exact keeps_of_next (keeps_ite (keeps_showSafe (keeps_modSpin (.refl s) ..) _) (.refl s)) h
  | alignEnd => exact keeps_of_next (keeps_ite (keeps_spinSixStep (.refl s) ..) (.refl s)) h
  | atSpeed => exact keeps_of_next (keeps_ite (keeps_cirq (keeps_modSpin (.refl s) ..) ..) (.refl s)) h
  | vlim => exact keeps_of_next (keeps_ite (keeps_cirq (.refl s) ..) (.refl s)) h
  | stoppingLowSpeed => exact keeps_of_next (keeps_ite (keeps_shortBrake (keeps_spdOpen (.refl s) ..) ..) (.refl s)) h
  | powerStageFault => exact keeps_of_next (keeps_modSpin (keeps_spinFault (.refl s) ..) ..) h
  | sledOvercurrent => exact keeps_of_next (keeps_ite (keeps_cirq (keeps_sledOff (.refl s) ..) ..) (.refl s)) h
  | holdCurrent => exact keeps_of_next (keeps_ite (keeps_modSled (.refl s) ..) (.refl s)) h
  | followEntry => exact keeps_of_next (keeps_ite (keeps_cw (.refl s) ..) (.refl s)) h
  | counterSaturate => exact keeps_of_next (keeps_ite (keeps_cntSaturated (.refl s) ..) (.refl s)) h
  | bmeExpired => exact keeps_of_next (keeps_ite (keeps_setCfs (keeps_irq (keeps_modFront (.refl s) _) ..)) (.refl s)) h
  | l12Exit => exact keeps_of_next (keeps_xoStart (keeps_pw (.refl s) ..)) h
  | mr4Read => exact keeps_of_next (keeps_ite (keeps_cirq (keeps_cw (.refl s) ..) ..) (keeps_cw (.refl s) ..)) h
  | eccCorrected =>
    unfold exec at h
    dsimp only [execEccCorrected] at h
    split at h <;> cases h
    exact keeps_correctWord (.refl s) ..
  | eccPoison =>
    unfold exec at h
    dsimp only [execEccPoison] at h
    split at h <;> cases h
    exact keeps_ite (keeps_eccPoison (.refl s) ..) (.refl s)
  | bypass =>
    unfold exec at h
    dsimp only [execBypass] at h
    split at h <;> cases h
    exact keeps_modSec (keeps_answer (.refl s) _) _
  | chal => exact keeps_of_next (keeps_answer (keeps_ite (.refl s) (keeps_newChallenge (.refl s))) _) h
  | challengeExpiry => exact keeps_of_next (keeps_ite (keeps_dropChallenge (.refl s)) (.refl s)) h
  | dbgenRise => exact keeps_of_next (keeps_ite (.refl s) (keeps_pw (.refl s) ..)) h
  | dbgenFall =>
    have falls := keeps_dropChallenge (keeps_pw (.refl s) F.SEC_STS_DBGEN 0)
    exact keeps_of_next (keeps_ite (keeps_pw (keeps_pw falls ..) ..) falls) h
  | smbWrite => exact keeps_of_next (keeps_ite (keeps_foldl (fun x _ => keeps_answer (.refl x) _) _ (.refl s)) (.refl s)) h
  | smbClockLowTimeout => exact keeps_of_next (keeps_ite (keeps_irq (keeps_incSat (.refl s) ..) ..) (.refl s)) h
  | smbStatus => exact keeps_of_next (keeps_ite (keeps_mk (keeps_smbRead (.refl s) ..) ..) (.refl s)) h
  | stewardFenceRequest => exact keeps_of_next (keeps_ite (keeps_closeFence (.refl s) ..) (.refl s)) h
  | frontEndWatchdog => exact keeps_of_next (keeps_ite (keeps_failover (keeps_watchdog (.refl s) ..) _) (.refl s)) h
  | securityCoreWatchdog => exact keeps_of_next (keeps_ite (keeps_zeroize (keeps_watchdog (.refl s) ..) _) (.refl s)) h

theorem step_keeps {s t : State} (h : step s = .next t) : Keeps { s with pending := s.pending.tail } t := by
  cases hp : s.pending with
  | nil =>
    have ticks : t = tick s := by
      simp only [step, hp] at h
      exact (Host.Outcome.next.inj h).symm
    have same : { s with pending := [] } = s := by rw [← hp]
    rw [List.tail_nil, same, ticks]
    exact keeps_tick (.refl s)
  | cons i rest =>
    simp only [step, hp] at h
    exact exec_keeps h

/-- Settles O2: a tick and every command keep the queue as they find it, and the step has taken the front command before it runs it. -/
theorem stepConsumesOneCommand : Obligations.StepConsumesOneCommand := by
  unfold Obligations.StepConsumesOneCommand
  intro s t h
  have keeps := step_keeps h
  exact ⟨keeps.pending, keeps.out⟩

end Sys2Proof.Machine
end

section
/-! PROOF. Where a register access goes (R14, R299, R300, R307, R392, R462). -/

namespace Sys2Proof.Machine
open Sys2Proof

/-! Accesses of the host that no bus carries. -/

section Host
variable {s : State} {bar addr : Nat} (size : Nat) (v : BitVec 64)

theorem registerRead_host_of_linkDown (h : s.linkUp = false) : registerRead .host bar addr size s = s := by
  simp [registerRead, h]

theorem registerWrite_host_of_linkDown (h : s.linkUp = false) : registerWrite .host bar addr size v s = s := by
  simp [registerWrite, h]

theorem registerRead_host_of_unclaimed (hl : s.linkUp = true) (hc : s.claimed bar addr = false) :
    registerRead .host bar addr size s = s.answer .unsupported := by
  simp [registerRead, hl, hc]

theorem registerWrite_host_of_unclaimed (hl : s.linkUp = true) (hc : s.claimed bar addr = false) :
    registerWrite .host bar addr size v s = s.cfgSet 0x104 0x100000 := by
  simp [registerWrite, hl, hc]

theorem registerRead_bar0 (hl : s.linkUp = true) (hc : s.claimed 0 addr = true) :
    registerRead .host 0 addr size s = bar0Read addr size s := by
  simp [registerRead, hl, hc]

theorem registerWrite_bar0 (hl : s.linkUp = true) (hc : s.claimed 0 addr = true) :
    registerWrite .host 0 addr size v s = bar0Write addr size v.toNat s := by
  simp [registerWrite, hl, hc]

theorem registerWrite_firmware (hp : s.plat.porst = false) (ht : s.plat.tripped = false) :
    registerWrite .firmware 2 addr size v s = s.busWrite .firmware addr size v.toNat := by
  simp [registerWrite, hp, ht]

end Host

/-! The bus. -/

theorem leBytes_four_zero : leBytes 4 0 = [0, 0, 0, 0] := rfl

theorem State.regRead_of_unlisted {rg page : Nat} (s : State) (off : Nat) (h : pageFields rg page = none) :
    s.regRead rg page off = (0, s) := by
  simp [State.regRead, h]

theorem State.regWrite_of_unlisted {rg page : Nat} (s : State) (off v : Nat) (h : pageFields rg page = none) :
    s.regWrite rg page off v = s := by
  simp [State.regWrite, h]

section Stall
variable {s : State} {addr : Nat}

theorem State.busWrite_open_of_aligned32 {src : Src} (hr : s.reach src (addr / 0x100000) (addr / 0x1000 % 0x100) = .open_)
    {size : Nat} (h : aligned32 addr size = true) (v : Nat) :
    s.busWrite src addr size v = s.regWrite (addr / 0x100000) (addr / 0x1000 % 0x100) (addr % 0x1000) (v % 2 ^ 32) := by
  simp [State.busWrite, hr, h]

variable (hr : s.reach .host (addr / 0x100000) (addr / 0x1000 % 0x100) = .stall)
include hr

theorem State.busRead_stall (size : Nat) :
    s.busRead .host addr size = s.stallAccess (addr / 0x100000) (addr / 0x1000 % 0x100) (.read addr size) := by
  simp [State.busRead, hr]

theorem State.busWrite_stall {size : Nat} (h : aligned32 addr size = true) (v : Nat) :
    s.busWrite .host addr size v = s.stallAccess (addr / 0x100000) (addr / 0x1000 % 0x100) (.write addr (BitVec.ofNat 32 v)) := by
  simp [State.busWrite, hr, h]

end Stall

/-! Waiting accesses (R307, R392). -/

section Meets
variable {s : State} {rg page : Nat} {c : Fin 16}

/-- A page of a powered, open channel in Bivouac that no shadow serves. -/
theorem State.meets_of_bivouac (hf : (s.ch c).fence = 0) (hp : (s.ch c).powered = true) (hb : (s.ch c).st = .bivouac)
    (hs : shadowPage page = false) : s.meets (chRg c) page = .stall := by
  have hrg : chRg c ≠ 0 := Nat.succ_ne_zero _
  simp [State.meets, hrg, chan?_chRg, hf, hp, hb, hs]

/-- Of the front end, what an access meets turns on whether others wait only. -/
theorem State.reach_host_of_waiting (h : s.front.q2 ≠ []) : s.reach .host rg page = .stall := by
  simp [State.reach, h]

theorem State.reach_host_of_stall (h : s.meets rg page = .stall) : s.reach .host rg page = .stall := by
  simp [State.reach, h]

theorem State.wakeFor_of_stall (hrg : rg = chRg c) (h : s.meets rg page = .stall) : s.wakeFor rg page = s.startWake c 1 := by
  subst hrg
  simp [State.wakeFor, chan?_chRg, h]

theorem State.wakeFor_of_ne_stall (h : s.meets rg page ≠ .stall) : s.wakeFor rg page = s := by
  unfold State.wakeFor
  split
  next hm => exact absurd hm h
  next => rfl

theorem State.stallAccess_of_stall (a : Access) (hrg : rg = chRg c) (h : s.meets rg page = .stall) :
    s.stallAccess rg page a = (s.modFront fun f => { f with q2 := f.q2 ++ [a] }).startWake c 1 :=
  State.wakeFor_of_stall (s := s.modFront _) hrg h

theorem State.stallAccess_of_ne_stall (a : Access) (h : s.meets rg page ≠ .stall) :
    s.stallAccess rg page a = s.modFront fun f => { f with q2 := f.q2 ++ [a] } :=
  State.wakeFor_of_ne_stall (s := s.modFront _) h

end Meets

/-- Settles O23: the host's access is dropped, unclaimed, BAR0's or the bus's; on the bus it is `regWrite`, or waits as `stallAccess`. -/
theorem registerAccessesReachTheirRegister : Obligations.RegisterAccessesReachTheirRegister := by
  unfold Obligations.RegisterAccessesReachTheirRegister
  intro s addr v ha rg page off
  have h32 : aligned32 addr 4 = true := aligned32_of_aligned rfl ha
  simp only [exec_registerRead, exec_registerWrite]
  refine ⟨fun hl bar size => ?down, fun hl bar size hc => ?unclaimed, fun hl hc hr => ?reached, fun hp ht => ?firmware,
    fun c hl hc hrg hf hpow hb hs => ?bivouac, fun hl hc hq hm => ?behind, fun size hl hc => ?bar0⟩
  case down => rw [registerRead_host_of_linkDown size hl, registerWrite_host_of_linkDown size v hl]; exact ⟨rfl, rfl⟩
  case unclaimed =>
    rw [registerRead_host_of_unclaimed size hl hc, registerWrite_host_of_unclaimed size v hl hc]
    exact ⟨rfl, rfl⟩
  case reached =>
    rw [registerRead_host_of_claimed 4 hl hc, registerWrite_host_of_claimed 4 hl hc, State.busWrite_open_of_aligned32 hr h32]
    refine ⟨rfl, fun hp => ?_⟩
    rw [State.busRead_open_of_aligned32 hr h32, State.regWrite_of_unlisted s _ _ hp, State.regRead_of_unlisted s _ hp]
    exact ⟨rfl, by rw [leBytes_four_zero]; rfl⟩
  case firmware => rw [registerWrite_firmware 4 v hp ht, State.busWrite_open_of_aligned32 (s.reach_firmware _ _) h32]
  case bivouac =>
    have hm : s.meets rg page = .stall := hrg ▸ State.meets_of_bivouac hf hpow hb hs
    have hr : s.reach .host rg page = .stall := State.reach_host_of_stall hm
    rw [registerRead_host_of_claimed 4 hl hc, registerWrite_host_of_claimed 4 hl hc, State.busRead_stall hr, State.busWrite_stall hr h32,
      State.stallAccess_of_stall _ hrg hm, State.stallAccess_of_stall _ hrg hm]
    exact ⟨rfl, rfl⟩
  case behind =>
    have hr : s.reach .host rg page = .stall := State.reach_host_of_waiting hq
    rw [registerRead_host_of_claimed 4 hl hc, registerWrite_host_of_claimed 4 hl hc, State.busRead_stall hr, State.busWrite_stall hr h32,
      State.stallAccess_of_ne_stall _ hm, State.stallAccess_of_ne_stall _ hm]
    exact ⟨rfl, rfl⟩
  case bar0 => rw [registerWrite_bar0 size v hl hc, registerRead_bar0 size hl hc]; exact ⟨rfl, rfl⟩

end Sys2Proof.Machine
end

section
/-! PROOF. Accesses to the staging window, and the unmasking of a vector (R299 to R301, R307, R314 to R317). -/

namespace Sys2Proof.Machine
open Sys2Proof

theorem exec_windowRead (ofs len : Nat) (s : State) : exec (.windowRead ofs len) s = .next (windowRead ofs len s) := rfl

theorem exec_windowWrite (ofs : Nat) (data : List (Option Byte)) (s : State) :
    exec (.windowWrite ofs data) s = .next (windowWrite ofs data s) := rfl

theorem exec_msixVectorUnmask (v : Nat) (s : State) : exec (.msixVectorUnmask v) s = .next (msixUnmask v s) := rfl

/-! The record of an access that cannot reach a frame (Table 10-7). -/

section Err
variable (s : State) (ofs kind : Nat) (b : Bool)

theorem State.winErr_chans : (s.winErr ofs kind b).chans = s.chans := by simp [State.winErr]
theorem State.winErr_dram : (s.winErr ofs kind b).dram = s.dram := by simp [State.winErr]
theorem State.winErr_poison : (s.winErr ofs kind b).poison = s.poison := by simp [State.winErr]

theorem State.winErr_kind : (s.winErr ofs kind b).pr F.WIN_ERR_KIND_KIND = kind % 8 := by
  simp (disch := decide) only [State.winErr, State.wrs_cons, State.wrs_nil, State.pr_def, State.incSat_def, State.irq_rd_apart,
    State.rd_wr_apart, State.rd_wr_self]
  rfl

theorem State.winErr_write : (s.winErr ofs kind b).pr F.WIN_ERR_KIND_WRITE = b2n b := by
  simp (disch := decide) only [State.winErr, State.wrs_cons, State.wrs_nil, State.pr_def, State.incSat_def, State.irq_rd_apart,
    State.rd_wr_apart, State.rd_wr_self]
  cases b <;> rfl

theorem State.winErr_count :
    (s.winErr ofs kind b).pr F.WIN_ERR_COUNT = min (s.pr F.WIN_ERR_COUNT + 1) (2 ^ F.WIN_ERR_COUNT.width - 1) := by
  simp (disch := decide) only [State.winErr, State.wrs_cons, State.wrs_nil, State.pr_def, State.irq_rd_apart, State.incSat_rd_self,
    State.rd_wr_apart]

end Err

/-! Which accesses wait for a wake. -/

section Waits
variable {s : State} {e : WinEntry} {c : Fin 16} {write : Bool}

theorem State.winWaits_of_chan (hc : e.chan = c.val) : s.winWaits e write =
    if e.valid && !(write && e.wp) && (s.ch c).fence == 0 && (s.ch c).powered && (s.ch c).st == .bivouac then some c else none := by
  simp [State.winWaits, hc, chan?_val]

theorem State.winWaits_of_invalid (h : e.valid = false) : s.winWaits e write = none := by
  simp [State.winWaits, h]

theorem State.winWaits_of_protected (h : e.wp = true) : s.winWaits e true = none := by
  simp [State.winWaits, h]

theorem State.winWaits_of_shut (hc : e.chan = c.val) (h : (s.ch c).fence ≠ 0 ∨ (s.ch c).powered = false) : s.winWaits e write = none := by
  rw [State.winWaits_of_chan hc, if_neg]
  rcases h with h | h <;> simp [h]

theorem State.winWaits_of_awake (hc : e.chan = c.val) (h : (s.ch c).st ≠ .bivouac) : s.winWaits e write = none := by
  rw [State.winWaits_of_chan hc, if_neg]
  simp [h]

theorem State.winWaits_of_bivouac (hc : e.chan = c.val) (hv : e.valid = true) (hw : (write && e.wp) = false) (hf : (s.ch c).fence = 0)
    (hp : (s.ch c).powered = true) (hb : (s.ch c).st = .bivouac) : s.winWaits e write = some c := by
  rw [State.winWaits_of_chan hc, if_pos]
  simp [hv, hw, hf, hp, hb]

/-- A window access by what keeps it waiting. -/
theorem State.windowAccess_serve {a : WinAccess} (hq : s.front.q4 = []) (hw : s.winWaits a.entry.1 a.entry.2 = none) :
    s.windowAccess a = a.serve s := by
  simp [State.windowAccess, hq, hw]

theorem State.windowAccess_wakes {a : WinAccess} (hw : s.winWaits a.entry.1 a.entry.2 = some c) :
    s.windowAccess a = (s.modFront fun f => { f with q4 := f.q4 ++ [a] }).startWake c 2 := by
  simp [State.windowAccess, hw]

theorem State.windowAccess_behind {a : WinAccess} (hq : s.front.q4 ≠ []) (hw : s.winWaits a.entry.1 a.entry.2 = none) :
    s.windowAccess a = s.modFront fun f => { f with q4 := f.q4 ++ [a] } := by
  simp [State.windowAccess, hq, hw]

/-- The first access to wait is all that waits. -/
theorem State.modFront_first {a : WinAccess} (hq : s.front.q4 = []) :
    (s.modFront fun f => { f with q4 := f.q4 ++ [a] }) = s.modFront fun f => { f with q4 := [a] } := by
  simp [State.modFront, hq]

end Waits

/-! An access that waits for nothing, by its entry. -/

section Entry
variable {s : State} {e : WinEntry} {c : Fin 16} (ofs len : Nat) (data : List (Option Byte))

theorem windowStore_of_invalid (h : e.valid = false) : windowStore ofs e data s = s.winErr ofs 1 true := by
  simp [windowStore, h]

theorem windowLoad_of_invalid (h : e.valid = false) :
    windowLoad ofs e len s = (s.answer (.windowData (List.replicate len 0xFF) false)).winErr ofs 1 false := by
  simp [windowLoad, h]

theorem windowStore_of_protected (hv : e.valid = true) (h : e.wp = true) : windowStore ofs e data s = s.winErr ofs 2 true := by
  simp [windowStore, hv, h]

variable (hv : e.valid = true) (hc : e.chan = c.val)
include hv hc

theorem windowStore_of_shut (hw : e.wp = false) (h : (s.ch c).fence ≠ 0 ∨ (s.ch c).powered = false) :
    windowStore ofs e data s = s.winErr ofs 3 true := by
  rcases h with h | h <;> simp [windowStore, hv, hc, chan?_val, hw, h]

theorem windowLoad_of_shut (h : (s.ch c).fence ≠ 0 ∨ (s.ch c).powered = false) :
    windowLoad ofs e len s = (s.answer (.windowData (List.replicate len 0xFF) false)).winErr ofs 3 false := by
  rcases h with h | h <;> simp [windowLoad, hv, hc, chan?_val, h]

variable (hf : (s.ch c).fence = 0) (hp : (s.ch c).powered = true)
include hf hp

theorem windowStore_of_open (hw : e.wp = false) : windowStore ofs e data s = winStore c ofs (winAddr e ofs) data s := by
  simp [windowStore, hv, hc, chan?_val, hw, hf, hp]

theorem windowLoad_of_open : windowLoad ofs e len s = winLoad c ofs (winAddr e ofs) len s := by
  simp [windowLoad, hv, hc, chan?_val, hf, hp]

end Entry

theorem winStore_only (c : Fin 16) (ofs a : Nat) (data : List (Option Byte)) (s : State) :
    (winStore c ofs a data s).dram = (s.dramWrite c a data).dram ∧ (winStore c ofs a data s).poison = (s.dramWrite c a data).poison ∧
      (winStore c ofs a data s).chans = s.chans := by
  simp only [winStore]
  split
  · exact ⟨State.winErr_dram .., State.winErr_poison .., (State.winErr_chans ..).trans (State.dramWrite_chans ..)⟩
  · exact ⟨rfl, rfl, State.dramWrite_chans ..⟩

theorem winLoad_of_sound {c : Fin 16} {a len : Nat} (ofs : Nat) {s : State} (h : s.anyPoison c a len = false) :
    winLoad c ofs a len s = s.answer (.windowData (s.dramBytes c a len) false) := by
  simp [winLoad, h]

theorem winLoad_of_poisoned {c : Fin 16} {a len : Nat} (ofs : Nat) {s : State} (h : s.anyPoison c a len = true) :
    winLoad c ofs a len s = (s.answer (.windowData (s.dramBytes c a len) true)).winErr ofs 4 false := by
  simp [winLoad, h]

/-! The two commands. -/

section Commands
variable {s : State} (ofs len : Nat) {data : List (Option Byte)}

theorem windowRead_of_linkDown (hl : s.linkUp = false) : windowRead ofs len s = s := by simp [windowRead, hl]

theorem windowWrite_of_linkDown (hl : s.linkUp = false) : windowWrite ofs data s = s := by simp [windowWrite, hl]

theorem windowWrite_of_malformed (hl : s.linkUp = true) (hd : 512 < data.length) : windowWrite ofs data s = s.cfgSet 0x104 0x40000 := by
  simp [windowWrite, hl, hd]

theorem windowRead_of_unclaimed (hl : s.linkUp = true) (h : s.mse = false ∨ s.front.flr = true) :
    windowRead ofs len s = s.answer .unsupported := by
  rcases h with h | h <;> simp [windowRead, hl, h]

theorem windowWrite_of_unclaimed (hl : s.linkUp = true) (h : s.mse = false ∨ s.front.flr = true) (hd : data.length ≤ 512) :
    windowWrite ofs data s = s.cfgSet 0x104 0x100000 := by
  rcases h with h | h <;> simp [windowWrite, hl, h, Nat.not_lt.mpr hd]

variable (hl : s.linkUp = true) (hm : s.mse = true) (hf : s.front.flr = false)
include hl hm hf

theorem windowRead_claimed : windowRead ofs len s = s.windowAccess (.read ofs (s.tget .winActive 0 (ofs / 0x200000)) len) := by
  simp [windowRead, hl, hm, hf]

theorem windowWrite_claimed (hd : data.length ≤ 512) :
    windowWrite ofs data s = s.windowAccess (.write ofs (s.tget .winActive 0 (ofs / 0x200000)) data) := by
  simp [windowWrite, hl, hm, hf, Nat.not_lt.mpr hd]

/-! Behind an access that waits, where its own channel is awake. -/

theorem windowRead_behind (hq : s.front.q4 ≠ []) (hw : s.winWaits (s.winPage (ofs / 0x200000)) false = none) :
    windowRead ofs len s = s.modFront fun f => { f with q4 := f.q4 ++ [.read ofs (s.tget .winActive 0 (ofs / 0x200000)) len] } :=
  (windowRead_claimed ofs len hl hm hf).trans (State.windowAccess_behind hq hw)

theorem windowWrite_behind (hd : data.length ≤ 512) (hq : s.front.q4 ≠ [])
    (hw : s.winWaits (s.winPage (ofs / 0x200000)) true = none) :
    windowWrite ofs data s = s.modFront fun f => { f with q4 := f.q4 ++ [.write ofs (s.tget .winActive 0 (ofs / 0x200000)) data] } :=
  (windowWrite_claimed ofs hl hm hf hd).trans (State.windowAccess_behind hq hw)

/-! With no access waiting: by whether the channel is still to wake. -/

variable (hq : s.front.q4 = [])
include hq

theorem windowRead_serves (hw : s.winWaits (s.winPage (ofs / 0x200000)) false = none) :
    windowRead ofs len s = windowLoad ofs (s.winPage (ofs / 0x200000)) len s :=
  (windowRead_claimed ofs len hl hm hf).trans (State.windowAccess_serve hq hw)

theorem windowWrite_serves (hd : data.length ≤ 512) (hw : s.winWaits (s.winPage (ofs / 0x200000)) true = none) :
    windowWrite ofs data s = windowStore ofs (s.winPage (ofs / 0x200000)) data s :=
  (windowWrite_claimed ofs hl hm hf hd).trans (State.windowAccess_serve hq hw)

theorem windowRead_wakes {c : Fin 16} (hw : s.winWaits (s.winPage (ofs / 0x200000)) false = some c) : windowRead ofs len s =
    (s.modFront fun f => { f with q4 := [.read ofs (s.tget .winActive 0 (ofs / 0x200000)) len] }).startWake c 2 := by
  rw [windowRead_claimed ofs len hl hm hf, State.windowAccess_wakes hw, State.modFront_first hq]

theorem windowWrite_wakes {c : Fin 16} (hd : data.length ≤ 512) (hw : s.winWaits (s.winPage (ofs / 0x200000)) true = some c) :
    windowWrite ofs data s =
      (s.modFront fun f => { f with q4 := [.write ofs (s.tget .winActive 0 (ofs / 0x200000)) data] }).startWake c 2 := by
  rw [windowWrite_claimed ofs hl hm hf hd, State.windowAccess_wakes hw, State.modFront_first hq]

end Commands

/-! Unmasking a vector (R301). -/

section Unmask
variable {s : State} {v : Nat}

theorem msixUnmask_of_none (h : 96 ≤ v) : msixUnmask v s = s := by
  simp [msixUnmask, h]

variable (hv : v < 96)
include hv

theorem msixUnmask_quiet (h : SMap.get s.front.pba v false = false ∨ s.msixOn = false) : msixUnmask v s =
    s.tput .msix 0 (4 * v + 3) (s.tget .msix 0 (4 * v + 3) - s.tget .msix 0 (4 * v + 3) % 2) := by
  have on (u : Nat) : (s.tput .msix 0 (4 * v + 3) u).msixOn = s.msixOn := rfl
  rcases h with h | h <;> simp [msixUnmask, Nat.not_le.mpr hv, on, h]

theorem msixUnmask_pending (h : SMap.get s.front.pba v false = true) (hon : s.msixOn = true) : msixUnmask v s =
    ((s.tput .msix 0 (4 * v + 3) (s.tget .msix 0 (4 * v + 3) - s.tget .msix 0 (4 * v + 3) % 2)).modFront fun f =>
      { f with pba := SMap.erase f.pba v }).msix v := by
  have on (u : Nat) : (s.tput .msix 0 (4 * v + 3) u).msixOn = s.msixOn := rfl
  simp [msixUnmask, Nat.not_le.mpr hv, on, h, hon]

end Unmask

/-- Settles O46: an access is dropped, malformed, unclaimed, waits or is served as its entry says; an error record touches no memory. -/
theorem windowAndMessagesReachTheirTarget : Obligations.WindowAndMessagesReachTheirTarget := by
  unfold Obligations.WindowAndMessagesReachTheirTarget
  intro s ofs data len e raw ok
  simp only [exec_windowRead, exec_windowWrite, exec_msixVectorUnmask]
  refine ⟨fun hl => ?down, fun hl hd => ?malformed, fun hl h => ?unclaimed, fun hl hm hf hq => ?behind, ?invalid, ?wprotected, fun c => ?channel,
    fun kind h1 h4 b t ht => ?record, fun v hv => ?noVector, fun v hv => ⟨fun h => ?quiet, fun h hon => ?message⟩⟩
  case down => rw [windowRead_of_linkDown ofs len hl, windowWrite_of_linkDown ofs hl]; exact ⟨rfl, rfl⟩
  case malformed => rw [windowWrite_of_malformed ofs hl hd]
  case unclaimed =>
    rw [windowRead_of_unclaimed ofs len hl h]
    exact ⟨rfl, fun hd => by rw [windowWrite_of_unclaimed ofs hl h hd]⟩
  case behind =>
    refine ⟨fun hw => ?_, fun hw hd => ?_⟩
    · rw [windowRead_behind ofs len hl hm hf hq hw]
    · rw [windowWrite_behind ofs hl hm hf hd hq hw]
  case invalid =>
    rintro ⟨hl, hm, hf, hq, hd⟩ hv
    rw [windowWrite_serves ofs hl hm hf hq hd (State.winWaits_of_invalid hv), windowStore_of_invalid ofs data hv,
      windowRead_serves ofs len hl hm hf hq (State.winWaits_of_invalid hv), windowLoad_of_invalid ofs len hv]
    exact ⟨rfl, rfl⟩
  case wprotected =>
    rintro ⟨hl, hm, hf, hq, hd⟩ hv hwp
    rw [windowWrite_serves ofs hl hm hf hq hd (State.winWaits_of_protected hwp), windowStore_of_protected ofs data hv hwp]
  case channel =>
    rintro ⟨hl, hm, hf, hq, hd⟩ hv hc
    refine ⟨fun shut => ⟨fun hwp => ?_, ?_⟩, fun hfe hp hb => ⟨?_, fun hwp => ?_⟩, fun hfe hp hb => ⟨fun h => ?_, fun h => ?_, fun hwp => ?_⟩⟩
    · rw [windowWrite_serves ofs hl hm hf hq hd (State.winWaits_of_shut hc shut), windowStore_of_shut ofs data hv hc hwp shut]
    · rw [windowRead_serves ofs len hl hm hf hq (State.winWaits_of_shut hc shut), windowLoad_of_shut ofs len hv hc shut]
    · rw [windowRead_wakes ofs len hl hm hf hq (State.winWaits_of_bivouac hc hv rfl hfe hp hb)]
    · rw [windowWrite_wakes ofs hl hm hf hq hd (State.winWaits_of_bivouac hc hv hwp hfe hp hb)]
    · rw [windowRead_serves ofs len hl hm hf hq (State.winWaits_of_awake hc hb), windowLoad_of_open ofs len hv hc hfe hp, winLoad_of_sound ofs h]
    · rw [windowRead_serves ofs len hl hm hf hq (State.winWaits_of_awake hc hb), windowLoad_of_open ofs len hv hc hfe hp,
        winLoad_of_poisoned ofs h]
    · rw [windowWrite_serves ofs hl hm hf hq hd (State.winWaits_of_awake hc hb), windowStore_of_open ofs data hv hc hfe hp hwp]
      exact ⟨_, rfl, winStore_only ..⟩
  case record =>
    subst ht
    have fits : kind % 8 = kind := Nat.mod_eq_of_lt (by omega)
    exact ⟨State.winErr_dram .., State.winErr_poison .., State.winErr_chans .., (State.winErr_kind ..).trans fits, State.winErr_write ..,
      State.winErr_count ..⟩
  case noVector => rw [msixUnmask_of_none hv]
  case quiet => rw [msixUnmask_quiet hv h]
  case message => rw [msixUnmask_pending hv h hon]

end Sys2Proof.Machine
end

section
/-! PROOF. Configuration requests with the link down (R297, R386). -/

namespace Sys2Proof.Machine
open Sys2Proof

variable {s : State}

theorem exec_configurationRequest (off : Nat) (be : BitVec 4) (wr : Option Word) (s : State) :
    exec (.configurationRequest off be wr) s = .next (configurationRequest off be.toNat wr s) := rfl

/-- With the PCIe PLL's bit stored as 0 or 1, the values the field can hold, a request that finds the link down is dropped, as the clause of
O45 asks. -/
theorem configurationRequest_of_linkUp_false (hbit : s.pr F.CLK_PLL_STS_PCIE < 2) (hlink : s.linkUp = false) (off be : Nat)
    (wr : Option Word) : configurationRequest off be wr s = s := by
  have down : (s.plat.porst || s.plat.tripped || s.front.inReset || s.pr F.CLK_PLL_STS_PCIE == 0) = true := by
    rw [State.linkUp, Bool.and_eq_false_iff, Bool.and_eq_false_iff, Bool.and_eq_false_iff] at hlink
    rcases hlink with ((hporst | htripped) | hreset) | hpll
    · simp_all
    · simp_all
    · simp_all
    · have off' : s.pr F.CLK_PLL_STS_PCIE = 0 := by
        have ne : s.pr F.CLK_PLL_STS_PCIE ≠ 1 := by simpa using hpll
        omega
      simp [off']
  exact if_pos down

/-- Out of PORST# and trained, with the number 2 stored for the one bit of the PCIe PLL: `linkUp` asks for 1,
`configurationRequest` for not 0. -/
def widePll : State :=
  { State.reset with
    regs := [(fieldKey 0 F.CLK_PLL_STS_PCIE, 2)]
    plat := { Plat.off with porst := false }
    front := { State.reset.front with inReset := false } }

/-- The link counts as down, and a configuration read is answered all the same. -/
theorem widePll_answers : widePll.linkUp = false ∧ (configurationRequest 0 15 none widePll).out ≠ widePll.out := by decide +kernel

/-- Refutes O45: its clause on a request with the link down. Nothing bounds the value a state stores for `PLL_STS.PCIE`; where that is
neither 0 nor 1, `linkUp` is false and the request is answered. For the values the bit can hold the clause is right
(`configurationRequest_of_linkUp_false`). -/
theorem not_hostReadsConfigurationAndBusMastering : ¬ Obligations.HostReadsConfigurationAndBusMastering := by
  unfold Obligations.HostReadsConfigurationAndBusMastering
  intro h
  obtain ⟨-, -, -, -, -, -, -, -, -, -, dropped, -⟩ := h widePll 0 ⟨0, 0, 0, 0, 0, [], 0, false⟩ []
  obtain ⟨hlink, hout⟩ := widePll_answers
  have same : configurationRequest 0 15 none widePll = widePll := Host.Outcome.next.inj (dropped 0 15 none hlink)
  exact hout (congrArg State.out same)

end Sys2Proof.Machine
end

section
/-! PROOF. What of the host interface no work of a channel touches: the operations that leave it as it is (R311, R312, R353, R398). -/

namespace Sys2Proof.Machine
open Sys2Proof

/-! The host interface of a state. -/

/-- Page 0x03 with the reset counts, and what PERST# returns to its reset value: the headers of the PCI, QMG, DMA and FEC pages and the
whole of WIN, without what PERST# keeps. -/
def hostRegister (page off : Nat) : Bool :=
  page == 0x03 || (perstResets page off && page != 0x0B && (decide (off < 0x100) || page == 0x0C))

/-- Whether a register store's key is of such a register of the port die. -/
def hostKey (k : Nat) : Bool := k / 32 / 0x1000 / 0x100 == 0 && hostRegister (k / 32 / 0x1000 % 0x100) (k / 32 % 0x1000)

/-- What a reset of the host interface settles and the work of the channels that follows leaves: how the front end stands, the commands'
queues and reads, an activation that is due, and the registers of `hostRegister`. -/
structure HostSide where
  perstLow : Bool
  inReset  : Bool
  rdy      : Bool
  shutting : Bool
  shst     : Nat
  sqs      : SMap SubQueue
  feats    : SMap Nat
  noReads  : Bool
  actDue   : Option Nat
  reg      : Nat → Option Nat

/-- The host side of a state. -/
def State.iface (s : State) : HostSide :=
  { perstLow := s.plat.perstLow, inReset := s.front.inReset, rdy := s.front.rdy, shutting := s.front.shutting, shst := s.front.shst
    sqs := s.front.sqs, feats := s.front.feats, noReads := s.front.reads.isEmpty, actDue := s.sec.actDue
    reg := fun k => if hostKey k then SMap.find? s.regs k else none }

/-- No register of a channel is among the registers of `hostRegister`. -/
@[simp] theorem hostKey_chRg (c : Fin 16) (f : Fld) : hostKey (fieldKey (chRg c) f) = false := by
  have high : fieldKey (chRg c) f / 32 / 0x1000 / 0x100 ≠ 0 := by
    unfold fieldKey chRg
    omega
  simp [hostKey, high]

/-! Branches, folds and updates. -/

@[simp] theorem State.ite_iface (p : Prop) [Decidable p] (s t : State) : (if p then s else t).iface = if p then s.iface else t.iface :=
  apply_ite State.iface p s t

@[simp] theorem State.foldl_iface {α : Type} {g : State → α → State} (hg : ∀ x a, (g x a).iface = x.iface) (l : List α) (s : State) :
    (l.foldl g s).iface = s.iface := by
  induction l generalizing s with
  | nil => rfl
  | cons a l ih => rw [List.foldl_cons, ih, hg]

@[simp] theorem foldl_snd_iface {α β : Type} {g : β × State → α → β × State} (hg : ∀ x a, (g x a).2.iface = x.2.iface)
    (l : List α) (p : β × State) : (l.foldl g p).2.iface = p.2.iface := by
  induction l generalizing p with
  | nil => rfl
  | cons a l ih => rw [List.foldl_cons, ih, hg]

@[simp] theorem foldl_fst_iface {α β : Type} {g : State × β → α → State × β} (hg : ∀ x a, (g x a).1.iface = x.1.iface)
    (l : List α) (p : State × β) : (l.foldl g p).1.iface = p.1.iface := by
  induction l generalizing p with
  | nil => rfl
  | cons a l ih => rw [List.foldl_cons, ih, hg]

/-- A state made with the registers, the front end, the security state and the platform of `s`. -/
@[simp] theorem State.mk_iface (s : State) (tbl latch flyHeld parity groups chans dram poison out free pending) :
    (State.mk s.regs tbl latch flyHeld parity groups s.front chans dram poison s.sec s.plat out free pending).iface = s.iface := by rfl

variable (s : State)

@[simp] theorem State.modCh_iface (c : Fin 16) (f : Chan → Chan) : (s.modCh c f).iface = s.iface := by rfl

/-- A change of the front end in fields that are not in `HostSide`. -/
@[simp] theorem State.modFront_iface {f : Front → Front} (hf : ∀ x, (f x).inReset = x.inReset ∧ (f x).rdy = x.rdy ∧
    (f x).shutting = x.shutting ∧ (f x).shst = x.shst ∧ (f x).sqs = x.sqs ∧ (f x).feats = x.feats ∧
    (f x).reads.isEmpty = x.reads.isEmpty) : (s.modFront f).iface = s.iface := by
  obtain ⟨hreset, hrdy, hshutting, hshst, hsqs, hfeats, hreads⟩ := hf s.front
  simp [State.iface, State.modFront, hreset, hrdy, hshutting, hshst, hsqs, hfeats, hreads]

@[simp] theorem State.modSec_iface {f : Security → Security} (hf : ∀ x, (f x).actDue = x.actDue) : (s.modSec f).iface = s.iface := by
  simp [State.iface, State.modSec, hf]

/-! Registers, channels and outputs. -/

theorem State.find?_wr_ne {rg : Nat} {f : Fld} {k : Nat} (h : k ≠ fieldKey rg f) (v : Nat) :
    SMap.find? (s.wr rg f v).regs k = SMap.find? s.regs k := by
  simp only [State.wr, SMap.put]
  split
  · simp [SMap.erase, SMap.find?_eraseIf, h]
  · simp [SMap.find?_insert, h]

theorem State.wr_iface {rg : Nat} {f : Fld} (h : hostKey (fieldKey rg f) = false) (v : Nat) : (s.wr rg f v).iface = s.iface := by
  have reg : (s.wr rg f v).iface.reg = s.iface.reg := by
    funext k
    by_cases hk : hostKey k = true
    · have ne : k ≠ fieldKey rg f := by
        rintro rfl
        simp [h] at hk
      simp [State.iface, hk, s.find?_wr_ne ne v]
    · simp [State.iface, hk]
  exact congrArg (fun r => ({ s.iface with reg := r } : HostSide)) reg

theorem State.pw_iface {f : Fld} (h : hostKey (fieldKey 0 f) = false) (v : Nat) : (s.pw f v).iface = s.iface := s.wr_iface h v

@[simp] theorem State.cw_iface (c f v) : (s.cw c f v).iface = s.iface := s.wr_iface (hostKey_chRg c f) v

theorem State.incSat_iface {rg : Nat} {f : Fld} (h : hostKey (fieldKey rg f) = false) (n : Nat) : (s.incSat rg f n).iface = s.iface :=
  s.wr_iface h _

@[simp] theorem State.incSat_chRg_iface (c f n) : (s.incSat (chRg c) f n).iface = s.iface := s.incSat_iface (hostKey_chRg c f) n
@[simp] theorem State.incWrap_chRg_iface (c f n) : (s.incWrap (chRg c) f n).iface = s.iface := s.wr_iface (hostKey_chRg c f) _
@[simp] theorem State.wr_chRg_iface (c f v) : (s.wr (chRg c) f v).iface = s.iface := s.wr_iface (hostKey_chRg c f) v

theorem State.wrs_iface {rg : Nat} {l : List (Fld × Nat)} (h : ∀ e ∈ l, hostKey (fieldKey rg e.1) = false) :
    (s.wrs rg l).iface = s.iface := by
  induction l generalizing s with
  | nil => rfl
  | cons e l ih =>
    rw [State.wrs_cons, ih _ fun x hx => h x (List.mem_cons_of_mem e hx), s.wr_iface (h e List.mem_cons_self)]

@[simp] theorem State.wrs_chRg_iface (c l) : (s.wrs (chRg c) l).iface = s.iface := s.wrs_iface fun e _ => hostKey_chRg c e.1
@[simp] theorem State.tput_iface (t rg i v) : (s.tput t rg i v).iface = s.iface := by rfl
@[simp] theorem State.setSt_iface (c st) : (s.setSt c st).iface = s.iface := by simp [State.setSt]
@[simp] theorem State.draw_iface (w) : (s.draw w).2.iface = s.iface := by rfl
@[simp] theorem State.answer_iface (o) : (s.answer o).iface = s.iface := by rfl
@[simp] theorem State.post_iface (o) : (s.post o).iface = s.iface := by unfold State.post; (repeat' split) <;> rfl
@[simp] theorem State.msix_iface (v) : (s.msix v).iface = s.iface := by
  unfold State.msix
  split
  · exact s.post_iface _
  · rfl

/-! Interrupts, errors and counters. -/

theorem State.setIrqRaw_iface {rg page : Nat} (h : hostKey (fieldKey rg (F.HDR_IRQ_RAW page)) = false) (raw : Nat) :
    (s.setIrqRaw rg page raw).iface = s.iface := by
  simp [State.setIrqRaw, State.wr_iface _ h]

@[simp] theorem State.traceEvent_iface (rg page bit) : (s.traceEvent rg page bit).iface = s.iface := by rfl

theorem State.irq_iface {rg page : Nat} (h : hostKey (fieldKey rg (F.HDR_IRQ_RAW page)) = false) (bit : Nat) :
    (s.irq rg page bit).iface = s.iface := by
  simp [State.irq, State.setIrqRaw_iface _ h]

@[simp] theorem State.irq_chRg_iface (c page bit) : (s.irq (chRg c) page bit).iface = s.iface := s.irq_iface (hostKey_chRg c _) bit
@[simp] theorem State.cirq_iface (c page bit) : (s.cirq c page bit).iface = s.iface := by simp [State.cirq]

@[simp] theorem State.err_iface (c page ofs code info fly) : (s.err (chRg c) page ofs code info fly).iface = s.iface := by
  simp [State.err]

@[simp] theorem State.errOpen_iface (c page ofs code) : (s.errOpen (chRg c) page ofs code).iface = s.iface := by simp [State.errOpen]

@[simp] theorem State.cntSaturated_iface (c i) : (s.cntSaturated c i).iface = s.iface := by simp [State.cntSaturated]
@[simp] theorem State.cnt_iface (c i n) : (s.cnt c i n).iface = s.iface := by simp [State.cnt]

/-! Channel DRAM, command slots, events and data sent. -/

@[simp] theorem State.dramPut_iface (c a b) : (s.dramPut c a b).iface = s.iface := by rfl

@[simp] theorem State.dramPutList_iface (s : State) (c : Fin 16) (a : Nat) (bs : List (Option Byte)) :
    (s.dramPutList c a bs).iface = s.iface := by
  induction bs generalizing s a with
  | nil => rfl
  | cons b bs ih => cases b with
    | none => simp [State.dramPutList, ih]
    | some b => simp [State.dramPutList, ih]

@[simp] theorem State.dramWrite_iface (c a bs) : (s.dramWrite c a bs).iface = s.iface := by simp [State.dramWrite]
@[simp] theorem State.wakeHost_iface : s.wakeHost.iface = s.iface := by rfl
@[simp] theorem State.putSlot_iface (k c) : (s.putSlot k c).iface = s.iface := by rfl
@[simp] theorem State.freeSlot_iface (k) : (s.freeSlot k).iface = s.iface := by rfl
@[simp] theorem State.modSmart_iface (c f) : (s.modSmart c f).iface = s.iface := by unfold State.modSmart; split <;> simp

@[simp] theorem State.finish_iface (k st dw0 dw1) : (s.finish k st dw0 dw1).iface = s.iface := by
  simp only [State.finish]; (repeat' split) <;> simp

@[simp] theorem State.pumpEvents_iface (s : State) (n : Nat) : (s.pumpEvents n).iface = s.iface := by
  induction n generalizing s with
  | zero => rfl
  | succ n ih => unfold State.pumpEvents; split <;> simp [ih]

@[simp] theorem State.event_iface (ty info log) : (s.event ty info log).iface = s.iface := by simp [State.event]
@[simp] theorem State.nsChanged_iface (c) : (s.nsChanged c).iface = s.iface := by simp [State.nsChanged]
@[simp] theorem State.logLost_iface (c pcn lba reason) : (s.logLost c pcn lba reason).iface = s.iface := by simp [State.logLost]

@[simp] theorem State.sendPiece_iface (c a data) : (s.sendPiece c a data).iface = s.iface := by
  have counted (x : State) : (x.incSat 0 F.DMA_INTERNAL).iface = x.iface := x.incSat_iface (by decide) 1
  simp only [State.sendPiece]; (repeat' split) <;> simp [counted]

@[simp] theorem State.sendData_iface (c ofs data) : (s.sendData c ofs data).iface = s.iface := by simp [State.sendData]
@[simp] theorem State.dropReads_iface (k) : (s.dropReads k).iface = s.iface := by simp [State.dropReads]

/-! Write chain, pending swaps and what waits for staged blocks. -/

@[simp] theorem State.modWr_iface (c f) : (s.modWr c f).iface = s.iface := by simp [State.modWr]

@[simp] theorem State.swapRefused_iface (c page cause) : (s.swapRefused (chRg c) page cause).iface = s.iface := by
  simp [State.swapRefused]

@[simp] theorem State.endSwap_iface (c page cause) : (s.endSwap (chRg c) page cause).iface = s.iface := by simp [State.endSwap]
@[simp] theorem State.dropWaits_iface (k) : (s.dropWaits k).iface = s.iface := by simp [State.dropWaits]

/-! The slot table and activation. -/

@[simp] theorem State.flashPut_iface (a bs) : (s.flashPut a bs).iface = s.iface := by rfl

@[simp] theorem State.showTable_iface (t) : (s.showTable t).iface = s.iface :=
  State.wrs_iface s (by simp only [List.forall_mem_cons]; decide)

@[simp] theorem State.putTable_iface (t) : (s.putTable t).iface = s.iface := by simp [State.putTable]

@[simp] theorem State.runBundle_iface (i b) : (s.runBundle i b).iface = s.iface := by
  refine (State.modSec_iface _ fun _ => rfl).trans ?_
  exact s.wrs_iface (by simp only [List.forall_mem_cons]; decide)

@[simp] theorem State.trialCleared_iface : s.trialCleared.iface = s.iface := by
  have shown (x : State) (v : Nat) : (x.pw F.BOOT_SVN_MIN v).iface = x.iface := x.pw_iface (by decide) v
  simp only [State.trialCleared]; split <;> simp [shown]

@[simp] theorem State.commitDone_iface (k st) : (s.commitDone k st).iface = s.iface := by
  have raised (x : State) : (x.irq 0 0x11 2).iface = x.iface := x.irq_iface (by decide) 2
  simp [State.commitDone, raised]

@[simp] theorem State.drawRandom_iface (n) : (s.drawRandom n).2.iface = s.iface := by rfl

/-! Lanes. -/

@[simp] theorem State.putQ_iface (c f x) : (s.putQ c f x).iface = s.iface := by simp [State.putQ]
@[simp] theorem State.modRd_iface (c f) : (s.modRd c f).iface = s.iface := by simp [State.modRd]
@[simp] theorem State.modLoops_iface (c l f) : (s.modLoops c l f).iface = s.iface := by simp [State.modLoops]
@[simp] theorem State.modLane_iface (c l f) : (s.modLane c l f).iface = s.iface := by simp [State.modLane]
@[simp] theorem State.putCoef_iface (c l set t v) : (s.putCoef c l set t v).iface = s.iface := by simp [State.putCoef]
@[simp] theorem State.showCorr_iface (c l) : (s.showCorr c l).iface = s.iface := by simp [State.showCorr]
@[simp] theorem State.loadLane_iface (c l b) : (s.loadLane c l b).iface = s.iface := by simp [State.loadLane]
@[simp] theorem State.zoneDue_iface (c l) : (s.zoneDue c l).iface = s.iface := by unfold State.zoneDue; split <;> simp
@[simp] theorem State.laneSts_iface (c l sync k) : (s.laneSts c l sync k).iface = s.iface := by simp [State.laneSts]

/-! The map and its cache. -/

@[simp] theorem State.modMap_iface (c f) : (s.modMap c f).iface = s.iface := by simp [State.modMap]
@[simp] theorem State.evictOne_iface (c) : (s.evictOne c).iface = s.iface := by unfold State.evictOne; split <;> simp
@[simp] theorem State.evictAll_iface (c) : (s.evictAll c).iface = s.iface := by simp [State.evictAll]
@[simp] theorem State.ltcHit_iface (c lba) : (s.ltcHit c lba).iface = s.iface := by simp [State.ltcHit]

@[simp] theorem State.lookup_iface (c l) : (s.lookup c l).2.iface = s.iface := by
  simp only [State.lookup]; (repeat' split) <;> simp

theorem State.lookup_iface_of_eq {s t : State} {c l o} (h : s.lookup c l = (o, t)) : t.iface = s.iface := by
  simpa [h] using s.lookup_iface c l

@[simp] theorem State.writeBackAll_iface (c) : (s.writeBackAll c).iface = s.iface := by simp [State.writeBackAll]
@[simp] theorem State.ltcClear_iface (c) : (s.ltcClear c).iface = s.iface := by simp [State.ltcClear]

/-! The laser, gates and the end of a session. -/

@[simp] theorem State.modDisc_iface (c f) : (s.modDisc c f).iface = s.iface := by simp [State.modDisc]
@[simp] theorem State.modLdi_iface (c f) : (s.modLdi c f).iface = s.iface := by simp [State.modLdi]

@[simp] theorem State.laserPump_iface (c) : (s.laserPump c).iface = s.iface := by
  simp only [State.laserPump]; (repeat' split) <;> simp

@[simp] theorem State.laserQueue_iface (c t) : (s.laserQueue c t).iface = s.iface := by simp [State.laserQueue]
@[simp] theorem State.laser_iface (c rd addr data) : (s.laser c rd addr data).iface = s.iface := by simp [State.laser]
@[simp] theorem State.sendReadLevels_iface (c) : (s.sendReadLevels c).iface = s.iface := by simp [State.sendReadLevels]
@[simp] theorem State.endGates_iface (c pcn) : (s.endGates c pcn).iface = s.iface := by simp [State.endGates]

@[simp] theorem State.returnUnbegun_iface (c) : (s.returnUnbegun c).iface = s.iface := by
  simp only [State.returnUnbegun]; split <;> simp

@[simp] theorem State.setSession_iface (c x) : (s.setSession c x).iface = s.iface := by simp [State.setSession]
@[simp] theorem State.endAtBoundary_iface (c) : (s.endAtBoundary c).iface = s.iface := by simp [State.endAtBoundary]

/-! Areas, anchors, the identity area and checkpoints. -/

@[simp] theorem State.writeArea_iface (s : State) (c : Fin 16) (pcn : Nat) (ks : List Content) (b : Bool) :
    (s.writeArea c pcn ks b).iface = s.iface := by
  induction ks generalizing s pcn b with
  | nil => rfl
  | cons a l ih => simp [State.writeArea, ih]

@[simp] theorem State.writeRecords_iface (c pcn ks) : (s.writeRecords c pcn ks).iface = s.iface := by simp [State.writeRecords]

@[simp] theorem State.putAnchor_iface (c reason k) : (s.putAnchor c reason k).iface = s.iface := by
  unfold State.putAnchor; split <;> simp

@[simp] theorem State.slipAnchor_iface (c) : (s.slipAnchor c).iface = s.iface := by unfold State.slipAnchor; split <;> simp
@[simp] theorem State.slipAnchors_iface (c) : (s.slipAnchors c).iface = s.iface := by simp [State.slipAnchors]
@[simp] theorem State.writeAnchor_iface (c reason k) : (s.writeAnchor c reason k).iface = s.iface := by simp [State.writeAnchor]
@[simp] theorem State.showDisc_iface (c) : (s.showDisc c).iface = s.iface := by unfold State.showDisc; split <;> simp
@[simp] theorem State.addSlips_iface (c ps) : (s.addSlips c ps).iface = s.iface := by unfold State.addSlips; split <;> simp

@[simp] theorem State.writeIdentity_iface (c) : (s.writeIdentity c).iface = s.iface := by
  simp only [State.writeIdentity]; (repeat' split) <;> simp

@[simp] theorem State.putRecords_iface (c) : (s.putRecords c).iface = s.iface := by unfold State.putRecords; split <;> simp
@[simp] theorem State.showKill_iface (c) : (s.showKill c).iface = s.iface := by simp [State.showKill]
@[simp] theorem State.quality_iface (c i) : (s.quality c i).iface = s.iface := by simp [State.quality]

@[simp] theorem State.finishStop_iface (c row code safety) : (s.finishStop c row code safety).iface = s.iface := by
  simp only [State.finishStop]; split <;> simp

@[simp] theorem State.orderlyStop_iface (c code) : (s.orderlyStop c code).iface = s.iface := by simp [State.orderlyStop]

@[simp] theorem State.startCheckpoint_iface (c reason) : (s.startCheckpoint c reason).iface = s.iface := by
  simp only [State.startCheckpoint]; (repeat' split) <;> simp

@[simp] theorem State.ckptAdvance_iface (c) : (s.ckptAdvance c).iface = s.iface := by unfold State.ckptAdvance; split <;> simp

/-! Reads under way. -/

@[simp] theorem State.modCmd_iface (c k f) : (s.modCmd c k f).iface = s.iface := by simp [State.modCmd]

@[simp] theorem State.resolve_iface (c q stream fresh lba) : (s.resolve c q stream fresh lba).2.iface = s.iface := by
  unfold State.resolve; (repeat' split) <;> try rfl
  all_goals next h => exact State.lookup_iface_of_eq h

@[simp] theorem State.resolveAll_iface (c q fresh) : (s.resolveAll c q fresh).iface = s.iface := by simp [State.resolveAll]
@[simp] theorem State.setTarget_iface (c k lba t) : (s.setTarget c k lba t).iface = s.iface := by simp [State.setTarget]

@[simp] theorem State.deliver_iface (c q lba data) : (s.deliver c q lba data).iface = s.iface := by
  unfold State.deliver; split <;> simp

@[simp] theorem State.serveNow_iface (c k) : (s.serveNow c k).iface = s.iface := by
  unfold State.serveNow; split
  · rfl
  · exact State.foldl_iface (fun x e => by dsimp only; (repeat' split) <;> simp) _ s

@[simp] theorem State.pushOp_iface (c k first count) : (s.pushOp c k first count).iface = s.iface := by simp [State.pushOp]
@[simp] theorem State.queueOp_iface (c k first count) : (s.queueOp c k first count).iface = s.iface := by simp [State.queueOp]
@[simp] theorem State.issueOps_iface (c k) : (s.issueOps c k).iface = s.iface := by unfold State.issueOps; split <;> simp
@[simp] theorem State.huntLane_iface (c l target) : (s.huntLane c l target).iface = s.iface := by simp [State.huntLane]
@[simp] theorem State.rehunt_iface (c) : (s.rehunt c).iface = s.iface := by simp [State.rehunt]

@[simp] theorem State.ladderRest_iface (c) : (s.ladderRest c).iface = s.iface := by
  have put (x : State) (f : Fld) (o : Option Nat) : (o.elim x (x.cw c f)).iface = x.iface := by cases o <;> simp
  unfold State.ladderRest; dsimp only; split
  · rfl
  · simp [put]

@[simp] theorem State.trimOps_iface (c) : (s.trimOps c).iface = s.iface := by simp [State.trimOps]

@[simp] theorem State.finishRead_iface (c k) : (s.finishRead c k).iface = s.iface := by
  simp only [State.finishRead]; (repeat' split) <;> simp

@[simp] theorem State.moveRead_iface (c k) : (s.moveRead c k).iface = s.iface := by simp only [State.moveRead]; split <;> simp

@[simp] theorem State.fuaReads_iface (c) : (s.fuaReads c).iface = s.iface :=
  State.foldl_iface (fun x q => by split <;> simp) _ s

/-! A channel's commands and disc. -/

@[simp] theorem State.dropCmds_iface (c ks) : (s.dropCmds c ks).iface = s.iface := by simp [State.dropCmds]
@[simp] theorem State.endCmds_iface (c ks st) : (s.endCmds c ks st).iface = s.iface := by simp [State.endCmds]
@[simp] theorem State.showSafe_iface (c) : (s.showSafe c).iface = s.iface := by simp [State.showSafe]
@[simp] theorem State.clearKey_iface (c) : (s.clearKey c).iface = s.iface := by simp [State.clearKey]
@[simp] theorem State.forbidWrites_iface (c) : (s.forbidWrites c).iface = s.iface := by simp [State.forbidWrites]
@[simp] theorem State.forgetDisc_iface (c) : (s.forgetDisc c).iface = s.iface := by simp [State.forgetDisc]
@[simp] theorem State.failPassed_iface (c) : (s.failPassed c).iface = s.iface := by unfold State.failPassed; split <;> simp

/-! The servo, the spindle and the sled. -/

@[simp] theorem State.modServo_iface (c f) : (s.modServo c f).iface = s.iface := by simp [State.modServo]
@[simp] theorem State.modSlt_iface (c q f) : (s.modSlt c q f).iface = s.iface := by simp [State.modSlt]
@[simp] theorem State.drawRow_iface : s.drawRow.2.iface = s.iface := by rfl

@[simp] theorem State.sweepEnd_iface (c st) : (s.sweepEnd c st).iface = s.iface := by
  simp only [State.sweepEnd]; (repeat' split) <;> simp

@[simp] theorem State.seqHold_iface (c qs v) : (s.seqHold c qs v).iface = s.iface := by simp [State.seqHold]
@[simp] theorem State.jumpFail_iface (c why) : (s.jumpFail c why).iface = s.iface := by unfold State.jumpFail; split <;> simp
@[simp] theorem State.tjumpFail_iface (c why) : (s.tjumpFail c why).iface = s.iface := by unfold State.tjumpFail; split <;> simp
@[simp] theorem State.seqBreak_iface (c q) : (s.seqBreak c q).iface = s.iface := by simp [State.seqBreak]
@[simp] theorem State.enterOff_iface (c q) : (s.enterOff c q).iface = s.iface := by simp [State.enterOff]

@[simp] theorem State.enterClosed_iface (c q from_) : (s.enterClosed c q from_).iface = s.iface := by
  unfold State.enterClosed
  extract_lets x m p s1 s2
  have h2 : s2.iface = s.iface := by simp [s2, s1]
  split
  · exact (State.cirq_iface s2 c (sltPage q) 8).trans h2
  · exact h2

@[simp] theorem State.enter_iface (c q dest cause) : (s.enter c q dest cause).iface = s.iface := by
  unfold State.enter; split <;> simp

@[simp] theorem State.modSpin_iface (c f) : (s.modSpin c f).iface = s.iface := by simp [State.modSpin]

@[simp] theorem State.shortBrake_iface (c failing toAlign) : (s.shortBrake c failing toAlign).iface = s.iface := by
  simp [State.shortBrake]

@[simp] theorem State.spinRefuse_iface (c) : (s.spinRefuse c).iface = s.iface := by simp [State.spinRefuse]
@[simp] theorem spinStop_iface (c) : (spinStop c s).iface = s.iface := by simp only [spinStop]; (repeat' split) <;> simp
@[simp] theorem State.modSled_iface (c f) : (s.modSled c f).iface = s.iface := by simp [State.modSled]
@[simp] theorem State.showSled_iface (c) : (s.showSled c).iface = s.iface := by simp [State.showSled]
@[simp] theorem State.sledOff_iface (c st) : (s.sledOff c st).iface = s.iface := by simp [State.sledOff]

/-! A channel's sequences, and what a closing fence does to it. -/

@[simp] theorem State.settleWait_iface (k) : (s.settleWait k).iface = s.iface := by simp [State.settleWait]
@[simp] theorem State.settleWaits_iface (c) : (s.settleWaits c).iface = s.iface := by simp [State.settleWaits]
@[simp] theorem State.stopSpindle_iface (c) : (s.stopSpindle c).iface = s.iface := by simp [State.stopSpindle]
@[simp] theorem State.inactive_iface (c) : (s.inactive c).iface = s.iface := by simp [State.inactive]
@[simp] theorem State.loseStaged_iface (c) : (s.loseStaged c).iface = s.iface := by simp [State.loseStaged]
@[simp] theorem State.modProc_iface (c f) : (s.modProc c f).iface = s.iface := by simp [State.modProc]
@[simp] theorem State.dropProc_iface (c) : (s.dropProc c).iface = s.iface := by simp [State.dropProc]

@[simp] theorem State.procFinish_iface (c p st) : (s.procFinish c p st).iface = s.iface := by
  unfold State.procFinish; split <;> simp

@[simp] theorem State.queuePads_iface (c n direct) : (s.queuePads c n direct).iface = s.iface := by simp [State.queuePads]
@[simp] theorem State.procCkpt_iface (c p) : (s.procCkpt c p).iface = s.iface := by simp [State.procCkpt]
@[simp] theorem State.endHostLost_iface (c) : (s.endHostLost c).iface = s.iface := by simp [State.endHostLost]

@[simp] theorem State.procDrained_iface (c p) : (s.procDrained c p).iface = s.iface := by
  unfold State.procDrained; split <;> simp

@[simp] theorem State.endSwaps_iface (c) : (s.endSwaps c).iface = s.iface := by simp [State.endSwaps]
@[simp] theorem State.cutSession_iface (c) : (s.cutSession c).iface = s.iface := by simp [State.cutSession]
@[simp] theorem State.park_iface (c) : (s.park c).iface = s.iface := by simp [State.park]
@[simp] theorem State.svcEnd_iface (c st) : (s.svcEnd c st).iface = s.iface := by unfold State.svcEnd; split <;> simp

@[simp] theorem State.leaveHostLost_iface (c) : (s.leaveHostLost c).iface = s.iface := by
  simp only [State.leaveHostLost]; (repeat' split) <;> simp

@[simp] theorem State.dropHeld_iface (c) : (s.dropHeld c).iface = s.iface := by rfl
@[simp] theorem State.procRelease_iface (c spin) : (s.procRelease c spin).iface = s.iface := by simp [State.procRelease]

@[simp] theorem State.procCkptDone_iface (c p) : (s.procCkptDone c p).iface = s.iface := by
  unfold State.procCkptDone; split <;> simp

end Sys2Proof.Machine
end

section
/-! PROOF. The work of the channels leaves a host interface at rest as it is: in reset no queue comes back and CSTS.RDY stays, and where no
shutdown runs CSTS.SHST stays (R311, R312, R354, R398). -/

namespace Sys2Proof.Machine
open Sys2Proof

/-- `t` has the host interface of `s`, but for what a controller out of reset may do: become ready with its queues, and complete a shutdown
that runs. Queues may go. -/
structure HostRests (s t : State) : Prop where
  perstLow : t.plat.perstLow = s.plat.perstLow
  inReset  : t.front.inReset = s.front.inReset
  feats    : t.front.feats = s.front.feats
  noReads  : t.front.reads.isEmpty = s.front.reads.isEmpty
  actDue   : t.sec.actDue = s.sec.actDue
  reg      : ∀ k, hostKey k = true → SMap.find? t.regs k = SMap.find? s.regs k
  rdy      : s.front.inReset = true → t.front.rdy = s.front.rdy
  sqs      : s.front.inReset = true → s.front.sqs = [] → t.front.sqs = []
  shutting : s.front.shutting = false → t.front.shutting = false
  shst     : s.front.shutting = false → t.front.shst = s.front.shst

/-- States that agree in the host interface agree in each of its parts. -/
theorem State.reg_of_iface {s t : State} (e : t.iface = s.iface) {k : Nat} (hk : hostKey k = true) :
    SMap.find? t.regs k = SMap.find? s.regs k := by
  have at_ : t.iface.reg k = s.iface.reg k := by rw [e]
  simpa [State.iface, hk] using at_

namespace HostRests
variable {r s t : State}

theorem of_eq (e : t.iface = s.iface) : HostRests s t where
  perstLow := congrArg HostSide.perstLow e
  inReset := congrArg HostSide.inReset e
  feats := congrArg HostSide.feats e
  noReads := congrArg HostSide.noReads e
  actDue := congrArg HostSide.actDue e
  reg := fun _ hk => State.reg_of_iface e hk
  rdy := fun _ => congrArg HostSide.rdy e
  sqs := fun _ h => (congrArg HostSide.sqs e).trans h
  shutting := fun h => (congrArg HostSide.shutting e).trans h
  shst := fun _ => congrArg HostSide.shst e

theorem refl (s : State) : HostRests s s := of_eq rfl

theorem trans (h : HostRests r s) (k : HostRests s t) : HostRests r t where
  perstLow := k.perstLow.trans h.perstLow
  inReset := k.inReset.trans h.inReset
  feats := k.feats.trans h.feats
  noReads := k.noReads.trans h.noReads
  actDue := k.actDue.trans h.actDue
  reg := fun x hx => (k.reg x hx).trans (h.reg x hx)
  rdy := fun d => (k.rdy (h.inReset.trans d)).trans (h.rdy d)
  sqs := fun d e => k.sqs (h.inReset.trans d) (h.sqs d e)
  shutting := fun d => k.shutting (h.shutting d)
  shst := fun d => (k.shst (h.shutting d)).trans (h.shst d)

/-- What leaves the host interface may come first. -/
theorem before (e : s.iface = r.iface) (h : HostRests s t) : HostRests r t := (of_eq e).trans h

/-- What leaves the host interface may come last. -/
theorem after (e : t.iface = s.iface) (h : HostRests r s) : HostRests r t := h.trans (of_eq e)

theorem cond {p : Prop} [Decidable p] (h : HostRests r s) (k : HostRests r t) : HostRests r (if p then s else t) := by
  split
  · exact h
  · exact k

theorem foldl {α : Type} {g : State → α → State} (hg : ∀ x a, HostRests x (g x a)) (l : List α) (s : State) :
    HostRests s (l.foldl g s) := by
  induction l generalizing s with
  | nil => exact refl s
  | cons a l ih => exact (hg s a).trans (ih _)

end HostRests

open HostRests
variable (s : State) (c : Fin 16)

/-! Commands that end with the channel's work. -/

/-- A Delete I/O Submission Queue that settles takes its queue away. -/
theorem State.settleDelete_rests (k : Nat) : HostRests s (s.settleDelete k) := by
  unfold State.settleDelete
  split
  · refine cond (after (State.finish_iface ..) ?_) (refl s)
    exact { of_eq (s := s) rfl with sqs := fun _ h => by rw [State.modFront, h]; rfl }
  · exact refl s

theorem State.cancelSettled_rests (k : Nat) (x : CmdSlot) (why : CancelCause) (cancelled : Bool) :
    HostRests s (s.cancelSettled k x why cancelled) := by
  unfold State.cancelSettled
  dsimp only
  split
  · exact of_eq (by simp)
  · exact before (by simp) (State.settleDelete_rests _ _)
  · refine cond ?_ (refl s)
    split <;> exact of_eq (by simp)
  · exact of_eq (by simp)

theorem cancelAnswer_rests (k : Nat) : HostRests s (cancelAnswer k s) := by
  unfold cancelAnswer
  split
  · exact refl s
  · split
    · extract_lets x s1 s2
      have h2 : HostRests s s2 := before (s.putSlot_iface k x) (s1.cancelSettled_rests ..)
      split
      · exact cond (after (s2.freeSlot_iface k) h2) h2
      · exact h2
    · exact refl s

theorem State.endHeld_rests (st : Status) : HostRests s (s.endHeld c st) := by
  unfold State.endHeld
  refine before (s.endCmds_iface c _ st) (foldl (fun x k => ?_) _ _)
  split
  · exact cond (before (x.putSlot_iface ..) (cancelAnswer_rests _ k)) (refl x)
  · exact refl x

/-! An activation that goes on, and the controller that becomes ready behind it. -/

/-- A controller in reset does not become ready; one that does is not in reset. -/
theorem State.becomeReady_rests : HostRests s s.becomeReady := by
  cases hreset : s.front.inReset with
  | true =>
    have stays : s.becomeReady = s := by simp [State.becomeReady, hreset]
    rw [stays]
    exact refl s
  | false =>
    unfold State.becomeReady
    extract_lets reg was s1 s2
    have h2 : s2.iface = s1.iface := by simp [s2]
    refine cond (refl s) (after ((State.foldl_iface (fun x d => x.leaveHostLost_iface d) ..).trans h2) ?_)
    exact { of_eq (s := s) rfl with
      rdy := fun d => by simp [hreset] at d
      sqs := fun d => by simp [hreset] at d }

theorem State.actEnd_rests (k i : Nat) : HostRests s (s.actEnd k i) := by
  unfold State.actEnd
  extract_lets s1 s2 s3 s4
  have h1 : s1.iface = s.iface := by
    simp only [s1]
    split <;> simp
  have h2 : s2.iface = s1.iface := by
    simp only [s2]
    split
    · exact s1.pw_iface (by decide) _
    · rfl
  have h3 : s3.iface = s.iface := (s2.modSec_iface fun _ => rfl).trans (h2.trans h1)
  have h4 : HostRests s s4 := before h3 (cond (of_eq s3.trialCleared_iface) s3.becomeReady_rests)
  exact cond (after (State.commitDone_iface ..) h4) h4

theorem State.actTurn_rests (n : Nat) : HostRests s (s.actTurn n) := by
  unfold State.actTurn
  split
  · exact refl s
  · split
    · exact of_eq (by simp)
    · exact s.actEnd_rests _ _

theorem State.actFault_rests (cause : Nat) : HostRests s (s.actFault c cause) := by
  unfold State.actFault
  split
  · exact refl s
  · extract_lets s1
    have h1 : s1.iface = s.iface := by simp [s1]
    exact cond (before h1 (s1.actTurn_rests _)) (of_eq h1)

/-! The fence, the sequences of a channel and host-lost mode. -/

theorem State.closeFence_rests (cause : Nat) : HostRests s (s.closeFence c cause) := by
  unfold State.closeFence
  split
  · split
    · exact cond (of_eq (by simp)) (refl s)
    · exact refl s
  · extract_lets s1 s2 flushes s4 s5 s6 s7 s8
    have h2 : s2.iface = s.iface := by simp [s2, s1]
    have h4 : HostRests s s4 := by
      refine after (State.endSwaps_iface ..) (after (State.foldl_iface (fun x k => by simp) ..) ?_)
      exact before (by simp [h2]) (State.endHeld_rests _ c _)
    have h5 : HostRests s s5 := after (by simp [s5]) h4
    have h6 : s6.iface = s5.iface := by
      simp only [s6]
      split
      · simp [State.incSat_iface _ (show hostKey (fieldKey 0 F.GMON_QUAR) = false by decide),
          State.irq_iface _ (show hostKey (fieldKey 0 (F.HDR_IRQ_RAW 0x18)) = false by decide),
          State.irq_iface _ (show hostKey (fieldKey 0 (F.HDR_IRQ_RAW 0x00)) = false by decide)]
      · rfl
    have h8 : HostRests s (s8.showSafe c) := after (by simp [s8, s7, h6]) h5
    exact h8.trans (State.actFault_rests _ c cause)

theorem State.procUnmounted_rests (p : Proc) (isolate : Bool) : HostRests s (s.procUnmounted c p isolate) := by
  unfold State.procUnmounted
  exact cond (before (by simp) (State.closeFence_rests _ c 1)) (of_eq (by simp))

theorem State.procStep_rests : HostRests s (s.procStep c) := by
  unfold State.procStep
  split
  · exact refl s
  · split
    · exact of_eq (by simp)
    · exact of_eq (by simp)
    · exact of_eq (by simp)
    · refine cond (refl s) ?_
      split
      · exact s.procUnmounted_rests c _ _
      · exact of_eq (by simp)
      · exact of_eq (by simp)

/-- A shutdown that runs may complete. -/
theorem State.checkShutdown_rests : HostRests s s.checkShutdown := by
  cases hshutting : s.front.shutting with
  | false =>
    have stays : s.checkShutdown = s := by simp [State.checkShutdown, hshutting]
    rw [stays]
    exact refl s
  | true =>
    refine cond (refl s) ?_
    exact { of_eq (s := s) rfl with
      shutting := fun d => by simp [hshutting] at d
      shst := fun d => by simp [hshutting] at d }

theorem State.progress_rests : HostRests s (s.progress c) := by
  unfold State.progress
  refine cond (refl s) ?_
  extract_lets s1 s2
  have h2 : s2.iface = s.iface := by
    simp only [s2, s1]
    split <;> simp
  exact before h2 ((foldl (fun x _ => x.procStep_rests c) (List.replicate 6 ()) s2).trans (State.checkShutdown_rests _))

theorem State.startProc_rests (k : ProcKind) (slot : Option Nat) : HostRests s (s.startProc c k slot) :=
  before (by simp) (State.progress_rests _ c)

theorem State.enterHostLost_rests : HostRests s (s.enterHostLost c) :=
  cond (refl s) (before (by simp) (State.startProc_rests _ c _ _))

theorem State.loseHost_rests : HostRests s s.loseHost := foldl (fun x d => x.enterHostLost_rests d) _ s

end Sys2Proof.Machine
end

section
/-! PROOF. What a controller reset, a Function Level Reset and PERST# leave of the controller, its configuration and its pages (R311, R312,
R353, R398, R412). -/

namespace Sys2Proof.Machine
open Sys2Proof

variable {s : State}

/-! The commands in slots, and the controller. -/

theorem State.dropWaits_front (s : State) (k : Nat) : (s.dropWaits k).front = s.front :=
  List.foldlRecOn (motive := fun x : State => x.front = s.front) allChans _ rfl fun _ hx _ _ => hx

theorem State.foldl_dropWaits_front (s : State) (ks : List Nat) :
    (ks.foldl (fun (x : State) (k : Nat) => x.dropWaits k) s).front = s.front :=
  List.foldlRecOn (motive := fun x : State => x.front = s.front) ks _ rfl fun x hx k _ => (x.dropWaits_front k).trans hx

/-- Of the front end only the slots, the reads and those that wait for a tag change. -/
theorem State.dropCommands_front (s : State) : s.dropCommands.front = { s.front with
    slots := s.dropCommands.front.slots, readQ := [], reads := s.front.reads.map fun e => (e.1, { e.2 with dead := true }) } := by
  unfold State.dropCommands
  extract_lets busy keep gone s1
  rw [State.foldl_dropWaits_front]
  rfl

/-- A slot that still holds a command answers to nobody: it is cancelled, or its work goes on silently (R353). -/
theorem State.dropCommands_slot {k : Nat} {x : CmdSlot} (h : s.dropCommands.slot? k = some x) :
    x.cancel = some .silent ∨ x.silent = true := by
  have member := SMap.mem_of_find? h
  unfold State.dropCommands at member
  extract_lets busy keep gone s1 at member
  rw [State.foldl_dropWaits_front] at member
  obtain ⟨e, -, he⟩ := List.mem_filterMap.mp member
  simp only [keep] at he
  split at he
  · cases he; exact .inl rfl
  · split at he
    · cases he
    · split at he
      · cases he; exact .inl rfl
      · split at he
        · cases he; exact .inr rfl
        · cases he

theorem State.dropCommands_iface (s : State) : s.dropCommands.iface = s.iface := by
  unfold State.dropCommands
  extract_lets busy keep gone s1
  exact (State.foldl_iface (fun x k => x.dropWaits_iface k) gone s1).trans (s.modFront_iface fun x => by simp)

/-- CSTS.CFS stays only where no front-end firmware runs (R416). -/
theorem State.dropController_cfs (s : State) : s.dropController.front.cfs = (s.front.cfs && !s.plat.feUp) := by
  have kept : s.dropCommands.front.cfs = s.front.cfs := by rw [State.dropCommands_front]
  exact congrArg (· && !s.plat.feUp) kept

theorem State.dropController_nvme (s : State) : s.dropController.front.nvme = s.front.nvme := by
  have kept : s.dropCommands.front.nvme = s.front.nvme := by rw [State.dropCommands_front]
  exact kept

theorem State.actDue_of_iface {s t : State} (e : t.iface = s.iface) : t.sec.actDue = s.sec.actDue := congrArg HostSide.actDue e

theorem State.dropController_actDue (s : State) : s.dropController.sec.actDue = s.sec.actDue :=
  (State.actDue_of_iface s.dropCommands_iface :)

theorem State.dropController_perstLow (s : State) : s.dropController.plat.perstLow = s.plat.perstLow :=
  congrArg HostSide.perstLow s.dropCommands_iface

theorem State.dropController_reg (s : State) {k : Nat} (hk : hostKey k = true) :
    SMap.find? s.dropController.regs k = SMap.find? s.regs k :=
  (State.reg_of_iface (State.pw_iface (State.modFront _ _) (f := F.DMA_STS_STALLED) (by decide) 0) hk).trans
    (State.reg_of_iface s.dropCommands_iface hk)

/-! Registers of the port die by their key. -/

/-- A field of the port die reads as before where the store holds the same at its key. -/
theorem State.pr_of_find {s t : State} {f : Fld} (h : SMap.find? t.regs (fieldKey 0 f) = SMap.find? s.regs (fieldKey 0 f)) :
    t.pr f = s.pr f := congrArg (·.getD f.reset) h

theorem State.pr_of_iface {s t : State} (e : t.iface = s.iface) {f : Fld} (h : hostKey (fieldKey 0 f) = true) : t.pr f = s.pr f :=
  State.pr_of_find (State.reg_of_iface e h)

/-- The page and the offset of a placed field stand in its key. -/
theorem Fld.Placed.key {f : Fld} (h : f.Placed) : fieldKey 0 f / 32 / 0x1000 / 0x100 = 0 ∧
    fieldKey 0 f / 32 / 0x1000 % 0x100 = f.page ∧ fieldKey 0 f / 32 % 0x1000 = f.off := by
  obtain ⟨hpage, hoff, hlsb⟩ := h
  unfold fieldKey
  omega

/-- A slot that is due at no reset is not activated (R355). -/
theorem State.startDue_of_none (h : s.sec.actDue = none) : s.startDue = s := by
  simp [State.startDue, h]

/-! CC.EN. -/

theorem State.cc_putNvme (s : State) (v : Nat) : (s.putNvme 0x14 v).cc = v := SMap.get_put_self ..

theorem bitAt_zero_sub_one {v : Nat} (h : bitAt v 0 = true) : bitAt (v - 1) 0 = false := by
  simp only [bitAt, Nat.pow_zero, Nat.div_one, beq_iff_eq, beq_eq_false_iff_ne] at h ⊢
  omega

/-- A controller reset clears CC.EN and CSTS, drops every queue and request, and counts itself (R353). -/
theorem controllerReset_spec (hen : bitAt s.cc 0 = true) (hdue : s.sec.actDue = none) (hfe : s.plat.feUp = true) :
    let t := controllerReset s
    bitAt t.cc 0 = false ∧ t.front.rdy = false ∧ t.front.cfs = false ∧ t.front.shst = 0 ∧ t.front.sqs = [] ∧ t.front.cqs = [] ∧
      t.front.aers = [] ∧ (∀ k x, t.slot? k = some x → x.cancel = some .silent ∨ x.silent = true) ∧
      t.pr F.RST_COUNTS_CTRL = min (s.pr F.RST_COUNTS_CTRL + 1) (2 ^ F.RST_COUNTS_CTRL.width - 1) := by
  have run : controllerReset s = (((s.putNvme 0x14 (s.cc - 1)).dropController.modFront fun f => { f with held := f.held.filter fun o =>
      match o with
      | .msix v _ _ => v ≥ 64
      | _ => false }).incSat 0 F.RST_COUNTS_CTRL) := by
    unfold controllerReset
    rw [if_neg (by simp [hen])]
    exact State.startDue_of_none ((State.dropController_actDue _).trans hdue)
  set u := s.putNvme 0x14 (s.cc - 1) with hu
  have cc : (controllerReset s).cc = s.cc - 1 := by
    rw [run]
    exact (congrArg (SMap.get · 0x14 0) u.dropController_nvme).trans (s.cc_putNvme _)
  have cfs : (controllerReset s).front.cfs = false := by
    rw [run]
    exact u.dropController_cfs.trans (by simp [hu, State.putNvme, hfe])
  have counted : u.dropController.pr F.RST_COUNTS_CTRL = s.pr F.RST_COUNTS_CTRL := State.pr_of_find (u.dropController_reg (by decide))
  refine ⟨?_, ?_, cfs, ?_⟩
  · rw [cc]
    exact bitAt_zero_sub_one hen
  · rw [run]; rfl
  · rw [run]
    refine ⟨rfl, rfl, rfl, rfl, fun k x hx => State.dropCommands_slot (s := u) hx, ?_⟩
    rw [State.pr_def, State.incSat_rd_self, State.modFront_rd, ← State.pr_def, counted]

end Sys2Proof.Machine
end

section
/-! PROOF. Function Level Reset, PERST#, link training and the shutdowns, and the statement about the host interface (R296, R311, R312, R353,
R354, R398). -/

namespace Sys2Proof.Machine
open Sys2Proof

variable {s : State}

/-! An event of a page, seen from the front end. -/

/-- An event adds to the trace, and to the pending vectors or to what Bus Master Enable holds back. -/
theorem State.irq_front_only (s : State) (rg p bit : Nat) : (s.irq rg p bit).front = { s.front with
    trace := (s.irq rg p bit).front.trace, traceNext := (s.irq rg p bit).front.traceNext
    pba := (s.irq rg p bit).front.pba, held := (s.irq rg p bit).front.held } := by
  unfold State.irq
  split
  · rfl
  · rw [State.setIrqRaw_only]
    split <;> rfl

/-- With MSI-X off an event leaves at most its region's vector pending. -/
theorem State.irq_pba (hoff : s.msixOn = false) {rg p bit v : Nat} (h : SMap.get (s.irq rg p bit).front.pba v false = true) :
    SMap.get s.front.pba v false = true ∨ v = regionVector rg := by
  have raised (x : State) (hx : x.msixOn = false) (hpba : x.front.pba = s.front.pba) (raw : Nat)
      (hset : SMap.get (x.setIrqRaw rg p raw).front.pba v false = true) :
      SMap.get s.front.pba v false = true ∨ v = regionVector rg := by
    simp only [State.setIrqRaw] at hset
    split at hset
    · have off' : (x.wr rg (F.HDR_IRQ_RAW p) raw).msixOn = false := hx
      rw [State.msix, off', Bool.false_and, if_neg Bool.false_ne_true] at hset
      by_cases hv : v = regionVector rg
      · exact .inr hv
      · rw [SMap.get_put_ne _ _ _ _ hv] at hset
        exact .inl (hpba ▸ hset)
    · exact .inl (hpba ▸ hset)
  unfold State.irq at h
  split at h
  · exact .inl h
  · split at h
    · exact raised s hoff rfl _ h
    · exact raised (s.traceEvent rg p bit) hoff rfl _ h

/-! Function Level Reset (R311). -/

theorem State.resetConfig_sec (s : State) : s.resetConfig.sec = s.sec := rfl

/-- Configuration is at its reset values but for the Subsystem dword. -/
theorem State.resetConfig_cfgRaw (s : State) {off : Nat} (h : off ≠ 0x2C) (d : Nat) : s.resetConfig.cfgRaw off d = d := by
  have kept : s.resetConfig.front.cfg = SMap.eraseIf s.front.cfg (· != 0x2C) := by
    have same : (fun e : Nat × Nat => e.1 == 0x2C) = fun e => !(e.1 != 0x2C) := funext fun e => (Bool.not_not _).symm
    exact congrArg (List.filter · s.front.cfg) same
  rw [State.cfgRaw, kept, SMap.get_eraseIf, if_pos (by simpa using h)]

theorem functionLevelReset_spec {t : State} (ht : functionLevelReset s = t) (hreset : s.front.inReset = false)
    (hflr : s.front.flr = false) (hporst : s.plat.porst = false) (hdue : s.sec.actDue = none) :
    t.front.flr = true ∧ t.front.rdy = false ∧ t.front.sqs = [] ∧ t.front.nvme = [] ∧
      (∀ v, SMap.get t.front.pba v false = true → v = 64) ∧ (∀ off, off ≠ 0x2C → ∀ d, t.cfgRaw off d = d) ∧
      t.pr F.RST_COUNTS_FLR = min (s.pr F.RST_COUNTS_FLR + 1) (2 ^ F.RST_COUNTS_FLR.width - 1) := by
  unfold functionLevelReset at ht
  extract_lets s1 s2 at ht
  rw [if_neg (by simp [hreset, hflr, hporst])] at ht
  have h1 : s1.iface = s.iface := State.foldl_iface (fun x d => x.orderlyStop_iface d 3) allChans s
  clear_value s1
  have counted : s1.dropController.pr F.RST_COUNTS_FLR = s.pr F.RST_COUNTS_FLR :=
    (State.pr_of_find (s1.dropController_reg (by decide))).trans (State.pr_of_iface h1 (by decide))
  set u := s2.modFront fun f => { f with flr := true } with hu
  have due : (u.irq 0 0x0B 6).sec.actDue = none := by
    rw [State.irq_sec, hu, State.modFront_sec, State.incSat_sec, State.resetConfig_sec, State.dropController_actDue]
    exact (State.actDue_of_iface h1).trans hdue
  have front2 : s2.front = s1.dropController.resetConfig.front := State.incSat_front ..
  have cfgs {off : Nat} (h : off ≠ 0x2C) (d : Nat) : u.cfgRaw off d = d := by
    have same : u.cfgRaw off d = s2.cfgRaw off d := rfl
    rw [same, State.cfgRaw, front2]
    exact s1.dropController.resetConfig_cfgRaw h d
  have off' : u.msixOn = false := by simp [State.msixOn, cfgs, bitAt]
  rw [State.startDue_of_none due] at ht
  subst ht
  have front := u.irq_front_only 0 0x0B 6
  refine ⟨?_, ?_, ?_, ?_, fun v hv => ?_, fun off h d => ?_, ?_⟩
  · rw [front]; rfl
  · rw [front]; rfl
  · rw [front]; rfl
  · rw [front]; rfl
  · rcases State.irq_pba off' hv with before | here
    · exact absurd before Bool.false_ne_true
    · exact here
  · rw [State.cfgRaw, front]
    exact cfgs h d
  · rw [State.pr_of_iface (u.irq_iface (by decide) 6) (by decide)]
    exact (s1.dropController.resetConfig.incSat_rd_self 0 F.RST_COUNTS_FLR 1).trans
      (congrArg (fun n => min (n + 1) _) counted)

/-! PERST#, hot reset and link down (R312, R398). -/

/-- A register that PERST# resets and no work of a channel touches: outside DMA's body, or in WIN. -/
theorem hostKey_of_perstResets {f : Fld} (hf : f.Placed) (hresets : perstResets f.page f.off = true) (hpci : f.page ≠ 0x0B)
    (hspan : f.off < 0x100 ∨ f.page = 0x0C) : hostKey (fieldKey 0 f) = true := by
  obtain ⟨region, page, off⟩ := hf.key
  simp [hostKey, hostRegister, region, page, off, hresets, hpci, hspan]

/-- Fields on different pages of the port die have different keys. -/
theorem fieldKey_ne_of_page {f g : Fld} (hf : f.Placed) (hg : g.Placed) (h : f.page ≠ g.page) : fieldKey 0 f ≠ fieldKey 0 g := by
  intro e
  obtain ⟨-, pf, -⟩ := hf.key
  obtain ⟨-, pg, -⟩ := hg.key
  exact h (pf.symm.trans ((congrArg (fun k => k / 32 / 0x1000 % 0x100) e).trans pg))

theorem State.resetFields_find (s : State) {p : Nat → Nat → Bool} {f : Fld} (hf : f.Placed) (h : p f.page f.off = true) :
    SMap.find? (s.resetFields 0 p).regs (fieldKey 0 f) = none := by
  obtain ⟨region, page, off⟩ := hf.key
  simp [State.resetFields, SMap.find?_eraseIf, region, page, off, h]

theorem perst_spec {cause : LinkReset} {t : State} (ht : perst cause s = t) (hporst : s.plat.porst = false)
    (hreset : s.front.inReset = false) (hdue : s.sec.actDue = none) :
    t.front.inReset = true ∧ t.front.rdy = false ∧ t.front.sqs = [] ∧ t.front.feats = [] ∧ t.front.reads = [] ∧
      t.plat.perstLow = (s.plat.perstLow || cause == .perst) ∧
      (∀ f : Fld, f.Placed → perstResets f.page f.off = true → f.page ≠ 0x0B → f.off < 0x100 ∨ f.page = 0x0C → t.pr f = f.reset) := by
  unfold perst at ht
  extract_lets plat s0 s1 s2 s3 at ht
  have h0 : s0.plat.perstLow = (s.plat.perstLow || cause == .perst) := by
    simp only [s0]
    cases cause <;> simp
  have sec0 : s0.sec = s.sec := by
    simp only [s0]
    split <;> rfl
  have due3 : s3.sec.actDue = none := s0.dropController_actDue.trans (sec0 ▸ hdue)
  rw [if_neg (by simp [hporst, hreset])] at ht
  set u := (s3.irq 0 0x0B 0).incSat 0 F.RST_COUNTS_PERST with hu
  have front : u.front = (s3.irq 0 0x0B 0).front := rfl
  rw [s3.irq_front_only] at front
  have low : u.plat.perstLow = s0.plat.perstLow := by
    rw [hu, State.incSat_plat, State.irq_plat]
    exact s0.dropController_perstLow
  have due : u.sec.actDue = none := by
    rw [hu, State.incSat_sec, State.irq_sec, due3]
  have inReset : u.front.inReset = true := by rw [front]; rfl
  have gone {f : Fld} (hf : f.Placed) (hresets : perstResets f.page f.off = true) (hkey : hostKey (fieldKey 0 f) = true) :
      SMap.find? u.regs (fieldKey 0 f) = none := by
    have reset3 : SMap.find? (s3.irq 0 0x0B 0).regs (fieldKey 0 f) = none :=
      (State.reg_of_iface (s3.irq_iface (by decide) 0) hkey).trans (State.resetFields_find _ hf hresets)
    have ne : fieldKey 0 f ≠ fieldKey 0 F.RST_COUNTS_PERST := by
      refine fieldKey_ne_of_page hf ⟨by decide, by decide, by decide⟩ fun e => ?_
      rw [e] at hresets
      simp [perstResets, F.RST_COUNTS_PERST] at hresets
    rw [hu, State.incSat_def, State.find?_wr_ne _ ne, reset3]
  have rests := u.loseHost_rests
  rw [State.startDue_of_none (rests.actDue.trans due)] at ht
  subst ht
  refine ⟨rests.inReset.trans inReset, (rests.rdy inReset).trans ?_, rests.sqs inReset ?_, rests.feats.trans ?_, ?_,
    rests.perstLow.trans (low.trans h0), fun f hf hresets hpci hspan => ?_⟩
  · rw [front]; rfl
  · rw [front]; rfl
  · rw [front]; rfl
  · rw [← List.isEmpty_iff, rests.noReads, front]; rfl
  · have hkey := hostKey_of_perstResets hf hresets hpci hspan
    rw [State.pr, State.rd, SMap.get, rests.reg _ hkey, gone hf hresets hkey]
    rfl

/-! Link training (R296, R319). -/

/-- `LINK_STS` shows what was trained, and the function is out of reset. -/
theorem linkTraining_spec {ws rs : List Nat} {lanes w v : Nat} {rev : Bool} (hporst : s.plat.porst = false)
    (htrip : s.plat.tripped = false) (hlow : s.plat.perstLow = false) (hpll : s.pr F.CLK_PLL_STS_PCIE ≠ 0)
    (hw : bestOf (ws.filter fun w => [1, 2, 4, 8, 16].contains w) (min (s.pr F.PCI_LINK_CAP_MAX_WIDTH) lanes) = w)
    (hv : bestOf (rs.filter fun r => 1 ≤ r && r ≤ 5) (s.pr F.PCI_LINK_CAP_MAX_SPEED) = v) (hw0 : w ≠ 0) (hv0 : v ≠ 0) :
    (linkTraining ws rs lanes rev s).front.inReset = false ∧
      (linkTraining ws rs lanes rev s).pr F.PCI_LINK_STS_WIDTH = w % 2 ^ F.PCI_LINK_STS_WIDTH.width ∧
      (linkTraining ws rs lanes rev s).pr F.PCI_LINK_STS_SPEED = v % 2 ^ F.PCI_LINK_STS_SPEED.width ∧
      (linkTraining ws rs lanes rev s).pr F.PCI_LINK_STS_DL_UP = 1 ∧ (linkTraining ws rs lanes rev s).chans = s.chans := by
  unfold linkTraining
  rw [if_neg (by simp [hporst, htrip, hlow, hpll])]
  dsimp only
  rw [hw, hv, if_neg (not_or.mpr ⟨hw0, hv0⟩)]
  have raised (x : State) (p : Prop) [Decidable p] (bit : Nat) (g : Fld) (hg : (F.HDR_IRQ_RAW 0x0B).apart g = true) :
      (if p then x.irq 0 0x0B bit else x).pr g = x.pr g := by
    split
    · exact State.irq_rd_apart x hg
    · rfl
  have trained (x : State) (p : Prop) [Decidable p] (bit : Nat) :
      (if p then x.irq 0 0x0B bit else x).front.inReset = x.front.inReset := by
    split
    · rw [State.irq_front_only]
    · rfl
  have chans (x : State) (p : Prop) [Decidable p] (bit : Nat) : (if p then x.irq 0 0x0B bit else x).chans = x.chans := by
    split
    · rw [State.irq_chans]
    · rfl
  refine ⟨?_, ?_, ?_, ?_, ?_⟩
  · rw [trained, trained]
    simp [State.modFront]
  · rw [raised _ _ _ _ (by decide), raised _ _ _ _ (by decide)]
    simp (disch := decide) [State.wrs_cons, State.wrs_nil, State.pr_def, State.rd_wr_apart]
  · rw [raised _ _ _ _ (by decide), raised _ _ _ _ (by decide)]
    simp (disch := decide) [State.wrs_cons, State.wrs_nil, State.pr_def, State.rd_wr_apart]
  · rw [raised _ _ _ _ (by decide), raised _ _ _ _ (by decide)]
    simp (disch := decide) [State.wrs_cons, State.wrs_nil, State.pr_def, State.rd_wr_apart]
  · rw [chans, chans]
    simp

/-! Shutdowns (R354). -/

/-- Host-lost mode behind an abrupt shutdown leaves it completed. -/
theorem abruptShutdown_spec (hrdy : s.front.rdy = true) :
    (abruptShutdown s).front.shst = 2 ∧ (abruptShutdown s).front.shutting = false := by
  have run : abruptShutdown s = ((s.putShn 2).modFront fun f => { f with shutting := false, shst := 2 }).loseHost := by
    simp [abruptShutdown, hrdy]
  have rests := State.loseHost_rests ((s.putShn 2).modFront fun f => { f with shutting := false, shst := 2 })
  rw [run]
  exact ⟨(rests.shst rfl).trans rfl, rests.shutting rfl⟩

/-- With nothing to wait for a normal shutdown is complete at once. -/
theorem normalShutdown_spec (hrdy : s.front.rdy = true) (hshutting : s.front.shutting = false) (hshst : s.front.shst = 0)
    (hactive : ∀ d : Fin 16, (s.ch d).active = false) (hlive : ∀ e ∈ s.front.slots, e.2.live = false)
    (hprocs : ∀ d : Fin 16, (s.ch d).procs = []) : (normalShutdown s).front.shst = 2 := by
  unfold normalShutdown
  rw [if_neg (by simp [hrdy, hshutting, hshst])]
  extract_lets s1 s2
  have none_active : s2 = s1 := List.foldlRecOn (motive := fun x : State => x = s1) allChans _ rfl fun x hx d _ => by
    have idle : (s1.ch d).active = false := hactive d
    simp [hx, idle]
  have idle : ¬ ((!s1.front.shutting || s1.front.slots.any (fun e => e.2.live && !(e.2.isAdmin && e.2.opcode == 0x0C))
      || allChans.any (fun d => (s1.ch d).procs.any fun p => p.kind == .shutdown)) = true) := by
    have slots : s1.front.slots = s.front.slots := rfl
    have procs (d : Fin 16) : (s1.ch d).procs = [] := hprocs d
    have shutting : s1.front.shutting = true := rfl
    simp only [Bool.or_eq_true, Bool.not_eq_true', List.any_eq_true, Bool.and_eq_true, not_or, not_exists, not_and]
    refine ⟨⟨by simp [shutting], fun e he live => ?_⟩, fun d _ p hp => ?_⟩
    · simp [hlive e (slots ▸ he)] at live
    · simp [procs d] at hp
  rw [none_active, State.checkShutdown, if_neg idle]
  rfl

/-! The statement. -/

/-- Settles O44: the resets by what `dropController` and the reset of configuration leave, PERST# and the abrupt shutdown by what the
channels' way into host-lost mode keeps (`loseHost_rests`), and the fences by `exec_stays`. -/
theorem hostInterfaceResetsAndShutdowns : Obligations.HostInterfaceResetsAndShutdowns := by
  unfold Obligations.HostInterfaceResetsAndShutdowns
  intro s c cause ws rs lanes rev
  refine ⟨?_, ?_, fun hen hdue hfe => ⟨_, rfl, controllerReset_spec hen hdue hfe⟩,
    fun hreset hflr hporst hdue => ⟨_, rfl, functionLevelReset_spec rfl hreset hflr hporst hdue⟩, rfl, ?_,
    fun hporst hreset hdue => ⟨_, rfl, perst_spec rfl hporst hreset hdue⟩, rfl, ?_,
    fun hporst htrip hlow hpll hw hv => ⟨_, rfl, linkTraining_spec hporst htrip hlow hpll rfl rfl hw hv⟩, ?_,
    fun hrdy => ⟨_, rfl, abruptShutdown_spec hrdy⟩,
    fun hrdy hshutting hshst hactive hlive hprocs => ⟨_, rfl, normalShutdown_spec hrdy hshutting hshst hactive hlive hprocs⟩, ?_⟩
  · have keeps {i : Instr} (hi : mayReopen i = false) {t : State} (h : exec i s = .next t) :
        ∃ t, exec i s = .next t ∧ ((s.ch c).fence ≠ 0 → (t.ch c).fence ≠ 0) := ⟨t, h, exec_stays hi h c⟩
    simp only [List.forall_mem_cons]
    exact ⟨keeps rfl rfl, keeps rfl rfl, keeps rfl rfl, keeps rfl rfl, keeps rfl rfl, keeps rfl rfl, keeps rfl rfl, keeps rfl rfl,
      keeps rfl rfl, keeps rfl rfl, by simp⟩
  · intro hen hreset hflr hporst
    exact congrArg Host.Outcome.next (if_neg (by simp [hen, hreset, hflr, hporst]))
  · intro held
    exact congrArg Host.Outcome.next (if_pos (by rcases held with h | h <;> simp [h]))
  · intro down
    exact congrArg Host.Outcome.next (if_pos (by rcases down with h | h | h <;> simp [h]))
  · intro hrdy
    exact ⟨congrArg Host.Outcome.next (if_pos (by simp [hrdy])), congrArg Host.Outcome.next (if_pos (by simp [hrdy]))⟩
  · intro hshutting
    exact congrArg Host.Outcome.next (if_neg (by simp [hshutting]))

end Sys2Proof.Machine
end
